-- ==== Sys2Proof/Word.lean ====
section
/-! DEFINITION. The word types of the model: plain bit vectors, nothing else. -/

namespace Sys2Proof

/-- A byte of memory. -/
abbrev Byte := BitVec 8
/-- A 16-bit field (R58: FLAGS, VI_TAG, JOB_ID ...). -/
abbrev Half := BitVec 16
/-- A 32-bit register or field. -/
abbrev Word := BitVec 32
/-- A 64-bit parameter word (R58: P0 to P5) or counter. -/
abbrev Dword := BitVec 64

end Sys2Proof
end

