-- ==== Sys2Proof/Syntax.lean ====
section
/-! DEFINITION. The commands of the block: one constructor of `Instr` per row of spec/opcode_table.json. The table gives
no operand fields; the operands are the packet of a command row (Table 2.6) and, for an event row, what the event's own
rule says arrives with it (notes/assumptions/2.md). -/

namespace Sys2Proof

/-- A command packet (Table 2.6), with the VI and SQ whose ring holds it. -/
structure Packet where
  vi : Nat
  sq : Nat
  opcode : Half
  flags : Half
  viTag : Half
  jobId : Half
  seq : Word
  userTag : Word
  p0 : Dword
  p1 : Dword
  p2 : Dword
  p3 : Dword
  p4 : Dword
  p5 : Dword
  deriving DecidableEq, Repr

/-- The payload of a beacon flit (Table 13.4). -/
structure Beacon where
  count : Dword
  epoch : Word
  period : BitVec 10
  masterId : Half
  hops : Byte
  holdover : Bool
  epochMark : Bool
  deriving DecidableEq, Repr

/-- A transport packet (Table 13.6) with its data bytes. -/
structure FabPkt where
  dst : Half
  src : Half
  dstJob : Half
  kind : Byte
  first : Bool
  last : Bool
  hops : BitVec 4
  domain : Word
  chunkSeq : Word
  stream : Byte
  crc : Word
  addr : Dword
  data : List Byte
  deriving DecidableEq, Repr

/-- A native flit (Table 13.3). -/
structure Flit where
  kind : Byte
  sop : Bool
  eop : Bool
  seq : BitVec 12
  ack : BitVec 12
  ackValid : Bool
  nak : Bool
  credit : Half
  payload : List Byte
  lcrc : Word
  deriving DecidableEq, Repr

/-- What the boot ROM, the security engine and power-on self-test find in one stage (Table 17.4): physical facts that
the end of a stage reports. -/
structure StageReport where
  /-- Stage 1: self-test of the XD0 pair and of the XD1 pair passed. -/
  xd0Ok : Bool
  xd1Ok : Bool
  xd0Result : Word
  /-- Stage 2: 0 identity derived; 1 helper data fails; 2 key mismatch (R727). -/
  identity : Nat
  /-- Stage 3: 0 valid, else the cause of Table 17.14 (1 header, 2 digest, 3 signature, 4 SVN), per slot (R711). -/
  slotA : Nat
  slotB : Nat
  /-- Stage 4: the owner image verifies; the sequences of journal records whose seal fails. -/
  ownerOk : Bool
  badSeals : List Nat
  /-- Stage 6: a record of the hint half in force fails its CRC (R710). -/
  hintsBad : Bool
  /-- Stage 6: per compute die, the bit map of good cores (R36). -/
  goodCores : List (BitVec 17)
  /-- Stage 6: failed columns, as (die, core, array, physical column) (R169). -/
  badColumns : List (Nat × Nat × Nat × Nat)
  /-- Stage 6: test result words of failed cores. -/
  coreWords : List (Nat × Nat × Word)
  /-- Stage 6: stacks out of service with the cause 1 training, 2 reserve (R500). -/
  badStacks : List (Nat × Nat)
  /-- Stage 6: soft repairs made for rows that failed the test, as (stack, frame, row address) (R499). -/
  repairs : List (Nat × Nat × Nat)
  /-- Stage 6: retired frames, as (stack, frame). -/
  retired : List (Nat × Nat)
  /-- Stage 6: trained ports, as (port, peer module, peer port, delay) (R518). -/
  ports : List (Nat × Half × BitVec 5 × Half)
  /-- Authenticated counters of Table 17.2 whose read failed in this stage (R699), with the flash address (Table 16.5). -/
  badCounters : List (Nat × Nat)
  /-- Milliseconds from t = 0 to the end of this stage. -/
  ms : Nat
  deriving DecidableEq, Repr

/-- A register of the configuration space that a request reads: Vendor and Device ID, Class Code and Revision ID (Table 0.1, R1),
and of VI0's SR-IOV capability InitialVFs and TotalVFs, First VF Offset and VF Stride, Supported Page Sizes, NumVFs (R43). -/
inductive CfgReg where
  | ids | classRevision | vfTotals | vfLayout | pageSizes | numVfs
  deriving DecidableEq, Repr

/-- A PCIe configuration request (R703): a read, or what a write does in the function: the bus number that it captures (R44), and
its capabilities (R43, R762, R776). -/
inductive PcieReq where
  | read (r : CfgReg)
  | setBus (bus : Nat)
  | setMsix (enable funcMask : Bool)
  | setVfs (enable : Bool) (num : Nat)
  | setPower (d3hot : Bool)
  deriving DecidableEq, Repr

/-- The block that a block reset resets (R654, R656 block word kinds 1 to 7). -/
inductive Block where
  | core (die core : Nat)
  | mover (die unit : Nat)
  | hubEngine (hub unit : Nat)
  | stackCtl (stack : Nat)
  | weir (half : Nat)
  | sampler (die : Nat)
  | tributary (die : Nat)
  deriving DecidableEq, Repr

/-- The access that met a fault (R507 to R509): the command that it belongs to and the device virtual address of the
burst. -/
structure Access where
  vi : Nat
  sq : Nat
  seq : Word
  va : Nat
  deriving DecidableEq, Repr

/-- What ends a batch step (R295): a tile that fails its rerun (R180, R181, R216), or a block reset that firmware does not recover
(R656), `again` when the repeat failed. -/
inductive StepFault where
  | arrayChecksum
  | arrayParity
  | braidParity
  | blockReset (again : Bool)
  deriving DecidableEq, Repr

/-- When array parity halts a pass (R181): the pass, the vectors of a LAST pass that have drawn by then, and the time from the
tile's issue to its discard. -/
structure HaltAt where
  pass : Nat
  drawn : Nat
  ns : Nat
  deriving DecidableEq, Repr

/-- A unit of a core that runs tiles (R237). -/
inductive TileUnit where
  | arrays
  | mvp
  | braid
  deriving DecidableEq, Repr

/-- The commands, one constructor per row of the opcode table. -/
inductive Instr where
  -- class 0x01 Memory
  | move (p : Packet)
  | fill (p : Packet)
  | migrate (p : Packet)
  | placeMap (p : Packet)
  | placeUnmap (p : Packet)
  | placeQuery (p : Packet)
  | fence (p : Packet)
  -- class 0x02 Compute
  | matmul (p : Packet)
  | matmulBatched (p : Packet)
  | braidRun (p : Packet)
  | braidLoadProgram (p : Packet)
  | braidLoadSeed (p : Packet)
  | tableLoad (p : Packet)
  | attnFwd (p : Packet)
  | attnBwd (p : Packet)
  -- class 0x03 Generation
  | rolloutOpen (p : Packet)
  | rolloutClose (p : Packet)
  | rolloutStep (p : Packet)
  | sample (p : Packet)
  | seqCancel (p : Packet)
  | specVerify (p : Packet)
  | prefill (p : Packet)
  -- class 0x04 KV
  | kvPoolCreate (p : Packet)
  | kvPoolSetPolicy (p : Packet)
  | kvPoolDestroy (p : Packet)
  | kvShipReceive (p : Packet)
  | kvShipSend (p : Packet)
  | kvFork (p : Packet)
  | kvRelease (p : Packet)
  -- class 0x05 Learning
  | passFwd (p : Packet)
  | passFwdQuery (p : Packet)
  | passBwd (p : Packet)
  | update (p : Packet)
  | stepSizeSet (p : Packet)
  | updateProgramLoad (p : Packet)
  -- class 0x06 Weights
  | stowLoad (p : Packet)
  | adapterLoad (p : Packet)
  | adapterUnload (p : Packet)
  | freshetPush (p : Packet)
  | freshetFlip (p : Packet)
  | freshetDiscard (p : Packet)
  | modelDrain (p : Packet)
  -- class 0x07 Fabric
  | put (p : Packet)
  | get (p : Packet)
  | atomic (p : Packet)
  | signal (p : Packet)
  | shift (p : Packet)
  | permute (p : Packet)
  | reduceShift (p : Packet)
  | groupDefine (p : Packet)
  | groupRelease (p : Packet)
  | setDomain (p : Packet)
  -- class 0x08 Checkpoint
  | ckptTake (p : Packet)
  | ckptHold (p : Packet)
  | ckptDiscard (p : Packet)
  | ckptReadback (p : Packet)
  | ckptExport (p : Packet)
  | ckptList (p : Packet)
  | restore (p : Packet)
  | rollback (p : Packet)
  | shrink (p : Packet)
  -- class 0x09 Job
  | jobCreate (p : Packet)
  | jobStart (p : Packet)
  | jobPreempt (p : Packet)
  | jobEnd (p : Packet)
  | abortPacket (p : Packet)
  | abortJob (p : Packet)
  | admissionSetVi (p : Packet)
  | admissionSetMode (p : Packet)
  | admissionQuery (p : Packet)
  -- class 0x0A Test
  | selftestCore (p : Packet)
  | selftestSliced (p : Packet)
  | selftestStop (p : Packet)
  | selftestRotation (p : Packet)
  | calibrate (p : Packet)
  | linkPattern (p : Packet)
  | linkPatternStop (p : Packet)
  -- class 0x0F Management
  | evrecRead (p : Packet)
  | fwStage (p : Packet)
  | fwActivateTrial (p : Packet)
  | fwActivateCommit (p : Packet)
  | fwActivateDisarm (p : Packet)
  | fwActivateReset (p : Packet)
  | powerCapSet (p : Packet)
  | powerCapQuery (p : Packet)
  | setRole (p : Packet)
  | setPeriod (p : Packet)
  | armEpoch (p : Packet)
  | setBeaconPorts (p : Packet)
  | faultPolicySet (p : Packet)
  | faultPolicyDefaults (p : Packet)
  | phaseTimesRead (p : Packet)
  | configInstall (p : Packet)
  | configRead (p : Packet)
  | saveRoutes (p : Packet)
  | configClear (p : Packet)
  -- registers, queues and doorbells
  | sqTailDbWrite (vi q : Nat) (value : Word)
  | cqHeadDbWrite (vi q : Nat) (value : Word)
  | sqCfgWrite (vi q : Nat) (value : Word)
  | cqCfgWrite (vi q : Nat) (value : Word)
  | viCtrlReset (vi : Nat) (value : Word)
  | functionLevelReset (vi : Nat)
  | viResetComplete (vi : Nat)
  | fltNtcCfgWrite (value : Word)
  | fltNtcHeadWrite (value : Word)
  | fltStatClear (unit : Nat) (value : Word)
  | weirRtDataWrite (value : Word)
  | latchingRead (vi offset : Nat)
  | rcRead (vi offset : Nat)
  | registerWrite (vi offset : Nat) (value : Word)
  | irqTimeExpire (vi cq : Nat)
  | barrierDispatch (vi sq : Nat)
  -- power, boot and buses
  | powerOn (mvA mvB : Nat)
  | pwrGood
  | pwrEnDeassert (us : Nat)
  | perstNAssert (us : Nat)
  | bootStart
  | bootStageEnd (r : StageReport)
  | pcieConfigRequest (vi ms : Nat) (req : PcieReq)
  | trialTimeout
  | activateChipReset
  | pldmFirmwareUpdate (image : List Byte)
  | spdmRequest (code : Nat)
  | pldmEventRetrieve
  | pcieHotReset
  | pcieAerError (status : Word)
  | inputVoltageChange (mv : Nat)
  | voltageLimitLapse
  | feedLost (feed mv : Nat)
  | feedRestored (feed mv : Nat)
  | powerMeasure (watts : Nat)
  | thermalThrottle (sensor : Nat) (temp : Half)
  | thermalStepTimer (readings : List (Nat × Half))
  | thermalTrip (sensor : Nat) (temp : Half)
  | hoursTick
  -- fret time
  | fretBoundary (refPhase : Option Half)
  | ftuLockAcquired
  | ftuHoldoverEntry
  | beaconReceive (port : Nat) (b : Beacon) (phase : Half)
  | epochInMark
  | fretRefGained
  | fretRefLost
  | ckptFreeze (job ckpt : Nat)
  | flipDecision (job model : Nat)
  | collectiveStart (vi sq : Nat) (seq : Word)
  -- memory
  | recalWindowStart (stack : Nat)
  | recalWindowEnd (stack rows : Nat)
  | recalDueSet (stack : Nat)
  | recalForced (stack : Nat)
  | scrubBurst (stack frame burst : Nat) (result : Nat)
  | scrubDemandSlot (stack : Nat)
  | pageMoveStart (hub : Nat)
  | pageDrainEnd (vi page : Nat)
  | pageCopyAheadDone (vi page : Nat)
  | pageCopyDone (vi page ns : Nat)
  | frameZeroed (frame : Nat)
  | hostTierStream (job model region : Nat)
  -- tiles
  | tileIssue (die core : Nat) (u : TileUnit)
  | tileEnd (die core : Nat) (u : TileUnit) (ns : Nat)
  /-- `sumsA`, `sumsB`: (column 0 to 129, the sum observed) where it differs; `ns` from the tile's issue to its discard -/
  | arrayCheckFail (die core pass vector : Nat) (sumsA sumsB : List (Nat × Dword)) (ns : Nat)
  /-- `found`: whether array A and whether array B found the error -/
  | arrayParityHalt (die core : Nat) (found : Bool × Bool) (halt : HaltAt)
  /-- `spot`: the cell and its row -/
  | braidParityHalt (die core : Nat) (spot : Nat × Nat) (ns : Nat)
  | capoPointReached (die core ns : Nat)
  -- generation and KV
  /-- `roll`: job and rollout; `fail`: what ends the step (R295), with RESULT0 and RESULT1 of that failure -/
  | batchStep (roll : Nat × Nat) (fail : Option (StepFault × Nat × Nat))
  | exhaustionPolicy (job rollout slot : Nat)
  | kvPageCheck (job pool table : Nat)
  | kvReceiveTimeout (job pool table : Nat)
  -- freshet
  | freshetChunkCheck (job model region : Nat)
  | pushClaimRetry (vi sq : Nat) (seq : Word)
  | freshetBusy (vi sq : Nat) (seq : Word)
  | regionDrainEnd (job model region : Nat)
  | drainTimeout (job model : Nat)
  -- checkpoint
  | ckptRegionCopyDone (job ckpt region : Nat) (result : Nat)
  | ckptCopyAheadDone (job ckpt region ns : Nat)
  | ckptComplete (job ckpt : Nat)
  -- fabric
  | flitReceive (port : Nat) (f : Flit)
  | ethFrameReceive (port : Nat) (fcsOk udpOk : Bool) (pkt : FabPkt)
  | transitForward (port : Nat) (pkt : FabPkt)
  | putData (pkt : FabPkt)
  | getReq (pkt : FabPkt)
  | getData (pkt : FabPkt)
  | atomicReq (pkt : FabPkt)
  | atomicResp (pkt : FabPkt)
  | signalPacket (pkt : FabPkt)
  | ack (pkt : FabPkt)
  | nak (pkt : FabPkt)
  | deny (pkt : FabPkt)
  | grantReq (pkt : FabPkt)
  | poolSlotGrant (half : Nat)
  | grant (pkt : FabPkt)
  | collData (pkt : FabPkt)
  | redData (pkt : FabPkt)
  | chunkRetransmitTimeout (dst : Half) (stream : Nat) (chunk : Word)
  | destUnreachable (vi sq : Nat) (seq : Word)
  | groupTimeout (job group member : Nat)
  | portTrained (port : Nat) (peer : Half) (peerPort : BitVec 5) (delay : Half)
  | portFailed (port cause : Nat)
  | spareFailover (failed spare : Nat) (peerSpare : Bool)
  | spareUnfit (port lane : Nat)
  | linkPatternEnd (port : Nat) (errs : List Nat) (bits : Nat)
  | cablePresence (conn : Nat) (present : Bool)
  -- jobs
  | jobSwitchEnd (us : Nat)
  | jobEvictionEnd (job : Nat)
  | stepModeTurn
  -- faults
  | faultEvent (unit count : Nat) (info : Word) (access : Option Access)
  | faultWindowClose (unit : Nat)
  | eventRecordProgram
  | blockReset (b : Block)
  | blockResetDrainEnd (b : Block)
  | blockResetRejoin (b : Block)
  | chipReset (reason : Nat)
  | coreWdog (die core unit : Nat)
  | tribWdog (die core : Nat)
  | hwFault (pair : Nat)
  -- in-field test
  | selftestSlotStart (die : Nat)
  | selftestSlotEnd (die failUnit us : Nat)
  | sliceStart (die : Nat)
  | msiXTableWrite (vi entry dw : Nat) (value : Word)
  | spareFit (port : Nat)
  | hubEngineStall (hub engine : Nat)
  | recalibrationTimeout (stack : Nat)
  | sliceEnd (die core failUnit us : Nat)
  | boundaryScan (tck tms tdi trst : Bool)
  deriving DecidableEq, Repr

end Sys2Proof
end

