-- ==== Sys2Proof/Decode.lean ====
section
/-! DEFINITION. The command that a word spells. No row of spec/opcode_table.json gives bits: a command of this block is
a packet, a register access or an event, not a word. -/

namespace Sys2Proof

/-- The command that the bits of an opcode-table row spell. The table gives no row any bits, so no word spells a
command (notes/assumptions/2.md). -/
def decodeTableWord (_nbits _w : Nat) : Option Instr := none

end Sys2Proof
end

