-- ==== Sys2Proof/Config.lean ====
section
/-! DEFINITION. Values that the spec leaves open. Each constant here is opaque and has no body: nothing can be proved of
its value, so a statement holds for every value of it. -/

namespace Sys2Proof

/-- Free value number `n` (notes/assumptions/3.md): what the spec calls unpredictable, or states no value for. State
holds the counter that picks a fresh one each time. -/
opaque Config.freeVal : Nat → Dword

/-- Free byte `i` of the free block number `n` (a region whose content the spec calls unpredictable, R180, R216, R386,
R592, R619, R624, R652, or whose content it does not state). -/
opaque Config.freeByte : Nat → Nat → Byte

/-- Logit of token `tok` in the row numbered `n`, of a model whose last piece is not as wide as the vocabulary: the spec names no
other source of logits (R290 stage 9). FP32 encoding. -/
opaque Config.logit : Nat → Nat → Word

/-- Which of the results that R204, R231 and R305 allow (a relative error below 2^−20) the hardware gives for exp of an FP32
value. -/
opaque Config.expErr : Word → Nat

/-- As `expErr`, for ln. -/
opaque Config.lnErr : Word → Nat

/-- The Damfel firmware key whose digest the boot ROM holds (R711). -/
opaque Config.damfelKey : List Byte

/-- The hash of (source, destination, channel or group) by which the Weir picks among the ports of a route (R553): the spec
names its arguments and not its function. -/
opaque Config.pathHash : Nat → Nat → Nat → Nat

/-- Answer of the SPDM responder to a request, formed from the measurement blocks and the certificates (R727, Tables 17.11 and
17.12: DMTF SPDM, not restated by the spec). -/
opaque Config.spdmAnswer : Nat → List (List Byte) → List (List Byte) → List Byte

/-- SHA-512 of the boot ROM (Table 17.12). -/
opaque Config.romDigest : List Byte

/-- Response of the SRAM PUF, reconstructed with the helper data (R725). -/
opaque Config.pufResponse : List Byte → List Byte

/-- Salt and info of the HKDF that derives the DeviceID seed (R725 names the function and not these inputs). -/
opaque Config.seedSalt : List Byte
opaque Config.seedInfo : List Byte

/-- The private key that the DeviceID seed gives, and the one that the seed and the firmware's digest give (R725: "derives"). -/
opaque Config.deviceScalar : List Byte → Nat
opaque Config.aliasScalar : List Byte → List Byte → Nat

/-- The Alias certificate of a public key, signed with the DeviceID private key (X.509, DER; R725, Table 17.11). -/
opaque Config.aliasCert : List Byte → Nat → List Byte

/-- The ERROR response of the SPDM responder to a request that it does not carry out (R727, Table 17.11). -/
opaque Config.spdmError : Nat → List Byte

end Sys2Proof
end

