-- ==== Sys2Proof/Machine/State.lean ====
section
/-! DEFINITION. The state of the module as plain data. The docstring of a field gives its name | its width | the rule and
file of spec/ that names it | its reset value; INVENTORY.md lists the same lines. -/

namespace Sys2Proof.Machine

/-! ## Containers -/

/-- A sparse map from numbers: keys rising, a key that is not listed has the default value of the map's owner. -/
abbrev Tbl (α : Type) := List (Nat × α)

/-- Memory: bytes by address in canonical form (rising addresses, no byte 0 listed); an unlisted byte reads as 0
(notes/assumptions/4.md). -/
abbrev Mem := List Host.Cell

/-- A packet's name among the outstanding ones: VI, SQ and SEQ (R650, R780). -/
structure Key where
  vi : Nat
  sq : Nat
  seq : Word
  deriving DecidableEq, Repr

/-! ## Virtual interfaces (spec/02_command_protocol.md) -/

/-- A completion record that is due (Table 2.8), before the fields that are fixed when it is written. -/
structure Rec where
  key : Key
  userTag : Word
  opcode : Half
  status : Byte
  interim : Bool
  reason : Half
  result0 : Dword
  result1 : Word
  irqNow : Bool
  /-- a DONE under NO_DONE: it holds the place of a record and writes none (R67, R68) -/
  silent : Bool := false
  deriving DecidableEq, Repr

/-- One submission queue (Tables 2.3, 2.5). -/
structure Sq where
  /-- SQ_BASE | 64 | R47, R49, 02 | 0 -/
  base : Dword := 0
  /-- SQ_CFG.EN | 1 | R49, R50, 02 | 0 -/
  en : Bool := false
  /-- SQ_CFG.CQ | 3 | R49, 02 | 0 -/
  cq : BitVec 3 := 0
  /-- SQ_CFG.SIZE_LOG2 | 5 | R49, R50, 02 | 0 -/
  sizeLog2 : BitVec 5 := 0
  /-- SQ_HEAD.IDX | 16 | R49, R55, 02 | 0 -/
  head : Half := 0
  /-- the tail last accepted at SQ_TAIL_DB | 16 | R52, R55, 02 | 0 -/
  tail : Half := 0
  /-- packets fetched and checked, not yet dispatched, in ring order | list | R69, R777, 02 | empty -/
  fetched : List Packet := []
  /-- packets held behind a BARRIER or a FENCE, in ring order | list | R777, 02; R497, 12 | empty -/
  waiting : List Packet := []
  deriving DecidableEq, Repr

/-- One completion queue (Tables 2.3, 2.5). -/
structure Cq where
  /-- CQ_BASE | 64 | R47, R49, 02 | 0 -/
  base : Dword := 0
  /-- CQ_CFG.EN | 1 | R49, R50, 02 | 0 -/
  en : Bool := false
  /-- CQ_CFG.IEN | 1 | R49, R66, 02 | 0 -/
  ien : Bool := false
  /-- CQ_CFG.VEC | 2 | R49, 02 | 0 -/
  vec : BitVec 2 := 0
  /-- CQ_CFG.IRQ_TIME | 8 | R49, R66, 02 | 0 -/
  irqTime : Byte := 0
  /-- CQ_CFG.IRQ_COUNT | 8 | R49, R66, 02 | 0 -/
  irqCount : Byte := 0
  /-- CQ_CFG.SIZE_LOG2 | 5 | R49, R50, 02 | 0 -/
  sizeLog2 : BitVec 5 := 0
  /-- next entry the host reads (CQ_HEAD_DB) | 16 | R62, 02 | 0 -/
  head : Half := 0
  /-- CQ_TAIL.IDX | 16 | R49, 02 | 0 -/
  tail : Half := 0
  /-- write phase | 1 | R52, R61, 02 | DESIGN CHOICE true (log 5; set by enabling) -/
  phase : Bool := true
  /-- unsignalled records | count | R66, 02 | 0 -/
  unsig : Nat := 0
  /-- coalescing timer running | 1 | R66, 02 | false -/
  timer : Bool := false
  /-- records due while the CQ is full or disabled, in due order | list | R63, 02 | empty -/
  held : List Rec := []
  deriving DecidableEq, Repr

/-- One MSI-X table entry (R776: as the PCI Express Base Specification defines it). -/
structure MsixEntry where
  /-- MSI-X message address | 64 | R47, R776, 02 | PRESUMED 0 (PCIe, log 6) -/
  addr : Dword := 0
  /-- MSI-X message data | 32 | R47, R776, 02 | PRESUMED 0 (PCIe, log 6) -/
  data : Word := 0
  /-- MSI-X vector control, Mask bit | 1 | R776, 02 | PRESUMED 1 (PCIe, log 6) -/
  mask : Bool := true
  /-- MSI-X PBA bit of the entry | 1 | R47, R776, 02 | 0 -/
  pending : Bool := false
  deriving DecidableEq, Repr

/-- A home of a page (Table 12.1), down to the frame. -/
inductive Home where
  | sram (die core slot : Nat)
  | stage (hub slot : Nat)
  | hbm (stack frame : Nat)
  | host (addr : Nat)
  | remote (module addr : Nat)
  deriving DecidableEq, Repr

/-- A page in motion (Table 12.6): the target and the phase reached (1 marked, 3 copy ahead, 4 copy), and whether a reset of
its engine made it start again (R487). -/
structure PageMove where
  target : Home
  phase : Nat
  hub : Nat
  cmd : Option Key
  again : Bool := false
  deriving DecidableEq, Repr

/-- The translation of one page of a VI's range (R471, R473, R629). -/
structure Mapping where
  /-- home of the page | frame | R471, 12 -/
  home : Home
  /-- owning job, 0xFFFF: the VI itself | 16 | R629, 15 -/
  job : Nat
  /-- move in progress | option | R488, 12 -/
  move : Option PageMove
  /-- saved copy that is the one home of an SRAM or STAGE page while its job is switched out | option | R477, 12 -/
  saved : Option Home := none
  deriving DecidableEq, Repr

/-- One virtual interface: its register page, its queues and its translation. -/
structure Vi where
  /-- VI_CTRL.EVT_VEC | 2 | R48, 02 | 0 -/
  evtVec : BitVec 2 := 0
  /-- VI_CTRL.EVT_IEN | 1 | R48, 02 | 0 -/
  evtIen : Bool := false
  /-- VI_STATUS.RESET_BUSY | 1 | R48, R74, 02 | 0 -/
  resetBusy : Bool := false
  /-- VI_STATUS.DB_ERR | 1 | R48, R73, 02 | 0 -/
  dbErr : Bool := false
  /-- VI_STATUS.TAG_ERR | 1 | R48, R82, 02 | 0 -/
  tagErr : Bool := false
  /-- VI_FRET_HI, as latched | 32 | R47, 02 | 0 -/
  fretHi : Word := 0
  /-- SQ 0 to 7 | table | R46, 02 | each at reset -/
  sqs : Tbl Sq := []
  /-- CQ 0 to 7 | table | R46, 02 | each at reset -/
  cqs : Tbl Cq := []
  /-- MSI-X table and PBA, vectors 0 to 3 | table | R47, R776, 02 | each at reset -/
  msix : Tbl MsixEntry := []
  /-- MSI-X Enable of the function's capability | 1 | R776, 02 | PRESUMED 0 (PCIe, log 6) -/
  msixEn : Bool := false
  /-- Function Mask of the capability | 1 | R776, 02 | PRESUMED 0 (PCIe, log 6) -/
  funcMask : Bool := false
  /-- function in D3hot | 1 | R762, 18 | PRESUMED 0 (PCIe, log 6) -/
  d3hot : Bool := false
  /-- SQ that had the last turn of the VI (7: SQ0 is next) | 0 to 7 | R57, 02 | DESIGN CHOICE 7 (log 5) -/
  turnSq : Nat := 7
  /-- translation of the VI's range: page number (VA / 2 MiB) to mapping | table | R471, 12 | empty -/
  pages : Tbl Mapping := []
  deriving DecidableEq, Repr

/-- An MSI-X message sent (R65, R776). -/
structure MsixMsg where
  /-- routing ID of the VI: bus in bits [15:8], device and function in bits [7:0] | 16 | R45, 02 -/
  rid : Nat
  vi : Nat
  vec : Nat
  addr : Dword
  data : Word
  deriving DecidableEq, Repr

/-! ## Fret time unit (spec/03_fret_time.md) -/

/-- Kinds of scheduled action, in the order of Table 3.4 (R107). -/
inductive SchedKind where
  | ckpt | flip | coll | selftest | recal | epoch | period
  deriving DecidableEq, Repr

/-- One entry of the FTU schedule (R105). -/
structure SchedEntry where
  kind : SchedKind
  fret : Nat
  cmd : Option Key
  deriving DecidableEq, Repr

/-- The fret time unit. -/
structure Ftu where
  /-- fret counter, FTU_COUNT | 64 | R85, R113, 03 | 0 -/
  count : Dword := 0
  /-- FTU_COUNT_HI, as latched | 32 | R113, 03 | 0 -/
  countHi : Word := 0
  /-- FTU_STATUS.MASTER_ID | 16 | R113, 03 | 0 -/
  masterId : Half := 0
  /-- FTU_STATUS.COUNT_ERR | 1 | R104, 03 | 0 -/
  countErr : Bool := false
  /-- FTU_STATUS.ARMED | 1 | R91, 03 | 0 -/
  armed : Bool := false
  /-- FTU_STATUS.SOURCE | 2 | R113, 03 | 0 -/
  source : BitVec 2 := 0
  /-- FTU_STATUS.STATE | 2 | R102, 03 | 2 -/
  state : BitVec 2 := 2
  /-- FTU_CONFIG.ROLE | 2 | Table 3.1, 03 | 0 -/
  role : BitVec 2 := 0
  /-- FTU_CONFIG.PENDING_US | 10 | R111, 03 | 0 -/
  pendingUs : BitVec 10 := 0
  /-- FTU_CONFIG.PERIOD_US | 10 | R86, 03 | 10 -/
  periodUs : BitVec 10 := 10
  /-- FTU_EPOCH | 32 | R93, 03 | 0 -/
  epoch : Word := 0
  /-- FTU_PHASE_ERR.NS | 16 | R113, 03 | 0 -/
  phaseErr : Half := 0
  /-- FTU_BEACON_TX.PORTS | 20 | R110, 03 | 0 -/
  beaconTx : BitVec 20 := 0
  /-- FTU_EVENTS.EPOCH_IGN | 16 | R94, 03 | 0 -/
  epochIgn : Half := 0
  /-- FTU_EVENTS.LOCK_LOSS | 16 | R103, 03 | 0 -/
  lockLoss : Half := 0
  /-- the FTU schedule, in the order of entry (FTU_SCHED.USED is its length) | list of at most 256 | R105, 03 | empty -/
  sched : List SchedEntry := []
  /-- change of role that takes effect at the next boundary: role and master ID | option | R773, 03 | none -/
  pendingRole : Option (BitVec 2 × Half) := none
  /-- period that takes effect at the next boundary (boot stage 8) | option | R95, 03 | none -/
  bootPeriod : Option (BitVec 10) := none
  /-- consecutive boundary checks passed within 20 ns | count | R102, 03 | 0 -/
  goodChecks : Nat := 0
  /-- consecutive counted checks failed | count | R102, 03 | 0 -/
  badChecks : Nat := 0
  /-- a master's checks count (its first check has passed) | 1 | R772, 03 | false -/
  counting : Bool := false
  /-- FRET_REF present | 1 | R760, 18 | DESIGN CHOICE false (log 5) -/
  refPresent : Bool := false
  /-- beacon observation of the fret: hop count, port and phase error | option | R98, R102, 03 | none -/
  obs : Option (Nat × Nat × Half) := none
  /-- an epoch mark waits for the next fret boundary | 1 | R85, R92, 03 | false -/
  markWaiting : Bool := false
  /-- EPOCH_OUT high in this fret | 1 | R92, 03; R761, 18 | false -/
  epochOut : Bool := false
  deriving DecidableEq, Repr

/-! ## Cores and dies (spec/05, 06, 07, 16) -/

/-- One random generator (R222, R229): state and the unused bits of its current word. -/
structure Gen where
  /-- s0 | 64 | R222, 06 -/
  s0 : Dword := 1
  /-- s1 | 64 | R222, 06 -/
  s1 : Dword := 0
  /-- current output word | 64 | R149, R229, 06 | DESIGN CHOICE 0 (log 5) -/
  word : Dword := 0
  /-- unused bits of the current word | 0 to 64 | R229, 06 | 0 -/
  left : Nat := 0
  deriving DecidableEq, Repr

/-- One matrix array (Tables 5.11, 5.12). -/
structure Arr where
  /-- ARR_STATUS.REPAIR1 | 8 | R192, 05 | 0xFF -/
  repair1 : Byte := 0xFF
  /-- ARR_STATUS.REPAIR0 | 8 | R192, 05 | 0xFF -/
  repair0 : Byte := 0xFF
  /-- ARR_STATUS.CHK_MODE | 2 | R171, 05 | 0 -/
  chkMode : BitVec 2 := 0
  /-- ARR_STATUS.ROLE | 2 | R192, 05 | 3 -/
  role : BitVec 2 := 3
  /-- ARR_STATUS.STATE | 3 | R168, 05 | 0 -/
  state : BitVec 3 := 0
  /-- weight set 0 of the data columns, column by column: (element code, code of its scale) | 128 × 128 | R155, 05 | DESIGN CHOICE empty: zeros (log 5) -/
  set0 : List (List (Nat × Nat)) := []
  /-- weight set 1, as set 0 | 128 × 128 | R155, 05 | DESIGN CHOICE empty: zeros (log 5) -/
  set1 : List (List (Nat × Nat)) := []
  /-- set-select bit of the last activation element | 1 | R155, 05 | DESIGN CHOICE 0 (log 5) -/
  sel : Bool := false
  /-- ARR_CHK_EVENTS.SKIPPED | 16 | R174, 05 | 0 -/
  skipped : Half := 0
  /-- ARR_CHK_EVENTS.MISMATCH | 16 | R178, 05 | 0 -/
  mismatch : Half := 0
  /-- ARR_CHK_LAST.VALID | 1 | R178, 05 | 0 -/
  lastValid : Bool := false
  /-- ARR_CHK_LAST.LOCATED | 1 | R175, 05 | 0 -/
  lastLocated : Bool := false
  /-- ARR_CHK_LAST.COLUMN | 8 | R178, 05 | 0xFF -/
  lastColumn : Byte := 0xFF
  /-- ARR_CHK_LAST.VECTOR | 10 | R178, 05 | 0 -/
  lastVector : BitVec 10 := 0
  /-- ARR_PASSES | 64 | R192, 05 | 0 -/
  passes : Dword := 0
  /-- ARR_PASSES_HI, as latched | 32 | R192, 05 | 0 -/
  passesHi : Word := 0
  /-- ARR_ACTIVE.UNITS | 32 | R192, 05 | 0 -/
  active : Word := 0
  /-- issue cycles below one unit of ARR_ACTIVE | 0 to 1023 | R192, 05 | 0 -/
  activeRest : Nat := 0
  deriving DecidableEq, Repr

/-- One core: registers of its matrix units and Braid, its column and lane generators and its capo state. -/
structure Core where
  /-- array A | block | R192, 05 | at reset -/
  a : Arr := {}
  /-- array B | block | R192, 05 | at reset -/
  b : Arr := {}
  /-- MVP_STATUS.ROWS | 4 | R192, 05 | 0 -/
  mvpRows : BitVec 4 := 0
  /-- MVP_STATUS.STATE | 2 | R192, 05 | 0 -/
  mvpState : BitVec 2 := 0
  /-- MVP_STREAM.UNITS | 32 | R192, 05 | 0 -/
  mvpStream : Word := 0
  /-- bytes below one unit of MVP_STREAM | 0 to 65535 | R192, 05 | 0 -/
  mvpRest : Nat := 0
  /-- MVP_STALL.UNITS | 32 | R192, 05 | 0 -/
  mvpStall : Word := 0
  /-- TURN_STATUS.HALF1 | 2 | R192, 05 | 0 -/
  half1 : BitVec 2 := 0
  /-- TURN_STATUS.HALF0 | 2 | R192, 05 | 0 -/
  half0 : BitVec 2 := 0
  /-- BRD_STATUS.SWEEP | 2 | R236, 06 | 0 -/
  brdSweep : BitVec 2 := 0
  /-- BRD_STATUS.STATE | 3 | R214, 06 | 0 -/
  brdState : BitVec 3 := 0
  /-- BRD_EVENTS.PARITY | 16 | R215, 06 | 0 -/
  brdParity : Half := 0
  /-- BRD_ACTIVE.UNITS | 32 | R236, 06 | 0 -/
  brdActive : Word := 0
  /-- cycles below one unit of BRD_ACTIVE | 0 to 1023 | R236, 06 | 0 -/
  brdRest : Nat := 0
  /-- GEN_WORDS | 64 | R236, 06 | 0 -/
  genWords : Dword := 0
  /-- GEN_WORDS_HI, as latched | 32 | R236, 06 | 0 -/
  genWordsHi : Word := 0
  /-- GEN_JOB.JOB | 16 | R236, 06 | 0xFFFF -/
  genJob : Half := 0xFFFF
  /-- GEN_JOB.LOADS | 16 | R236, 06 | 0 -/
  genLoads : Half := 0
  /-- a capo request is open | 1 | R259, 07 | false -/
  capoReq : Bool := false
  /-- the core is held at a capo point | 1 | R258, 07 | false -/
  atCapo : Bool := false
  /-- fenced by NMI | 1 | R674, R675, 16 | false -/
  fenced : Bool := false
  /-- good in power-on self-test of this boot | 1 | R36, 01 | false -/
  good : Bool := false
  /-- slices of the running sliced cycle done | 0 to 1000 | R687, 16 | 0 -/
  slices : Nat := 0
  /-- a test slice is in progress | 1 | R687, 16 | false -/
  inSlice : Bool := false
  /-- a test slice waits for the core's next capo point | 1 | R687, 16 | false -/
  sliceDue : Bool := false
  deriving DecidableEq, Repr

/-- One compute die: role, sampler, tiling counters, test block, movers and Tributary. -/
structure Die where
  /-- role: 0 not assigned, 1 active, 2 spare, 3 failed | 2 | R22, 00; R26, 01 | DESIGN CHOICE 0 (log 5) -/
  role : Nat := 0
  /-- SMP_STATUS.QUEUED | 4 | R236, 06 | 0 -/
  smpQueued : BitVec 4 := 0
  /-- SMP_STATUS.FULL | 1 | R236, 06 | 0 -/
  smpFull : Bool := false
  /-- SMP_STATUS.CAND | 1 | R236, 06 | 0 -/
  smpCand : Bool := false
  /-- SMP_STATUS.SELECT | 1 | R236, 06 | 0 -/
  smpSelect : Bool := false
  /-- SMP_DRAWS.COUNT | 32 | R236, 06 | 0 -/
  smpDraws : Word := 0
  /-- SMP_NOFINITE.COUNT | 16 | R236, 06 | 0 -/
  smpNofinite : Half := 0
  /-- SMP_ACTIVE.UNITS | 32 | R236, 06 | 0 -/
  smpActive : Word := 0
  /-- cycles below one unit of SMP_ACTIVE | 0 to 1023 | R236, 06 | 0 -/
  smpRest : Nat := 0
  /-- sampler fenced by NMI | 1 | R674, 16 | false -/
  smpFenced : Bool := false
  /-- mover engine M0 fenced | 1 | R674, 16 | false -/
  m0Fenced : Bool := false
  /-- mover engine M1 fenced | 1 | R674, 16 | false -/
  m1Fenced : Bool := false
  /-- TIL_TILES.COUNT | 32 | R269, 07 | 0 -/
  tilTiles : Word := 0
  /-- TIL_LONG.NS | 32 | R269, 07 | 0 -/
  tilLong : Word := 0
  /-- TIL_CAPO.NS | 32 | R269, 07 | 0 -/
  tilCapo : Word := 0
  /-- TIL_SPLITS.COUNT | 32 | R269, 07 | 0 -/
  tilSplits : Word := 0
  /-- TST_STATUS.ROTATE | 1 | R697, 16 | 0 -/
  rotate : Bool := false
  /-- TST_STATUS.STANDBY_FREE | 1 | R684, 16 | 0 -/
  standbyFree : Bool := false
  /-- TST_STATUS.SLICED | 1 | R687, 16 | 0 -/
  sliced : Bool := false
  /-- TST_STATUS.PAUSED | 1 | R689, 16 | 0 -/
  paused : Bool := false
  /-- TST_STATUS.FOR | 5 | R697, 16 | 0x1F -/
  standFor : BitVec 5 := 0x1F
  /-- TST_STATUS.TESTING | 5 | R697, 16 | 0x1F -/
  testing : BitVec 5 := 0x1F
  /-- TST_SLOTS.COUNT | 32 | R697, 16 | 0 -/
  tstSlots : Word := 0
  /-- TST_FAILS.ABORTED | 16 | R697, 16 | 0 -/
  tstAborted : Half := 0
  /-- TST_FAILS.FAILED | 16 | R697, 16 | 0 -/
  tstFailed : Half := 0
  /-- TST_LAST.WORD | 32 | R697, 16 | 0 -/
  tstLast : Word := 0
  /-- the standby core of the die | 0 to 16 | R22, 00; R36, 01 | DESIGN CHOICE 16 (log 5) -/
  standby : Nat := 16
  /-- INTERVAL of the sliced test, in µs | 0 to 1,000,000 | R687, 16 | 0 -/
  interval : Nat := 0
  /-- SELFTEST CORE in progress on the die | option key | R689, R690, 16 | none -/
  coreTest : Option (Key × Nat) := none
  /-- SELFTEST CORE entered in the schedule or waiting for its slot: its key and core | option | R689, 16 | none -/
  coreTestWaits : Option (Key × Nat) := none
  deriving DecidableEq, Repr

/-! ## Works and tiles (spec/07_tiling.md) -/

/-- Where the rows of a matrix lie: operands, results and streams of a work. A row lies at `base` + row × `stride`; `batch`
moves on to the next problem (R241). -/
structure Opnd where
  /-- VI whose translation names the addresses; 4,097 names the scratch memory of the module's commands -/
  vi : Nat := 0
  base : Nat := 0
  plane2 : Nat := 0
  stride : Nat := 0
  stride2 : Nat := 0
  batch : Nat := 0
  fmt : Nat := 0
  /-- the reduction runs over the rows in storage (X_KM, W_KN); of a result: stored transposed | R243, 07 -/
  outer : Bool := false
  /-- ORDER 1: elements along K; 0: rows one after another | R431, 11 -/
  tiled : Nat := 0
  /-- stored row of each row, where rows are gathered; empty: each its own | R251, 07; R462, 11 -/
  pick : List Nat := []
  /-- pages that hold the rows, `pt` rows in each; empty: none | R335, 09 -/
  pages : List Nat := []
  pt : Nat := 0
  deriving DecidableEq, Repr

/-- Passes of U against B that follow those of X against W, for some rows of a product (R461, R462). -/
structure AdapterW where
  u : Opnd
  b : Opnd
  rank : Nat
  rows : List Nat
  deriving DecidableEq, Repr

/-- A length table entry (Table 8.11). -/
structure LenEntry where
  qOff : Nat
  qLen : Nat
  kvLen : Nat
  kvRef : Nat
  deriving DecidableEq, Repr

/-- An attention and what it reads and writes (Tables 8.10 and 10.8). -/
structure AttnW where
  heads : Nat := 0
  kvHeads : Nat := 1
  dim : Nat := 0
  fqk : Nat := 0
  fpv : Nat := 0
  word : Nat := 0
  stats : Bool := false
  causal : Bool := false
  scale : Word := 0
  window : Nat := 0
  entries : List LenEntry := []
  /-- page addresses of each entry, for a KV pool -/
  pages : List (List Nat) := []
  q : Opnd := {}
  k : Opnd := {}
  v : Opnd := {}
  o : Opnd := {}
  st : Opnd := {}
  dO : Opnd := {}
  dq : Opnd := {}
  dk : Opnd := {}
  dv : Opnd := {}
  /-- NARROW word of dK and dV -/
  wDkv : Nat := 0
  deriving DecidableEq, Repr

/-- What a tile is of. -/
inductive WorkKind where
  /-- a product with its adapters and epilogue | R240, 07; R460, 11 -/
  | product
  /-- rows of a Braid program | R211, 06; R404, 10 -/
  | rows
  /-- one row of the eight layer scalars | R407, 10 -/
  | scalars
  /-- a transposition through the turn buffer | R409, 10 -/
  | transpose
  /-- attention | R305, 08 -/
  | attn
  /-- its gradients | R388, 10 -/
  | attnBwd
  /-- the choice of experts of each row | R463, 11 -/
  | route
  /-- the weighted sum of expert outputs, with the epilogue | R464, 11 -/
  | experts
  deriving DecidableEq, Repr

/-- One work of a command: what firmware cuts into tiles. The works of one chain run one after another. -/
structure Work where
  kind : WorkKind
  chain : Nat := 0
  m : Nat := 0
  n : Nat := 0
  k : Nat := 0
  problems : Nat := 1
  /-- rows of one problem of a folded product; 0: not folded | R251, 07 -/
  fold : Nat := 0
  x : Opnd := {}
  w : Opnd := {}
  y : Opnd := {}
  /-- NARROW word of the result -/
  word : Nat := 0
  adds : List AdapterW := []
  /-- on the matrix-vector path | R246, 07 -/
  mvp : Bool := false
  /-- K ranges of an output block | R249, 07 -/
  nK : Nat := 1
  /-- GRAD of its passes | Table 5.6, 05; R382, 10 -/
  grad : Bool := false
  /-- image of its program; empty: none -/
  prog : List Byte := []
  /-- elements of a row of the program -/
  rowLen : Nat := 0
  /-- formats of the program's inputs -/
  inFmt : List Nat := []
  /-- outputs of the program that take part -/
  outs : List Nat := []
  /-- the 16 constants of the program; those of R401 come from the layer's scalars from 8 on -/
  consts : List Word := []
  /-- the layer's scalars are constants 8 to 15 | R401, 10 -/
  scal : Bool := false
  vote : Nat := 0
  /-- rows of the program -/
  rows : Nat := 0
  /-- streams of the program: its inputs, and the outputs that take part -/
  ins : List Opnd := []
  dsts : List Opnd := []
  /-- scalar that each REDUCE feeds | R406, 10 -/
  red : List Nat := []
  /-- the rows of this expert only: where the choice lies, experts chosen per row, the expert | R463, 11 -/
  gate : Option (Opnd × Nat × Nat) := none
  /-- of a choice of experts: groups of rows, and for each logical expert its place among the physical ones | R463, 11 -/
  tables : List (List Nat × List Nat) := []
  /-- of a sum of experts: the output of each physical expert -/
  parts : List Opnd := []
  attn : AttnW := {}
  /-- copies of whole byte ranges that end the work: source, target and length -/
  copies : List (Opnd × Opnd × Nat) := []
  /-- where its result waits for the next stage: the index of a core, or 306 + hub | R267, 07 -/
  place : Nat := 0
  deriving DecidableEq, Repr

/-- One FP32 word that a command keeps in core SRAM between tiles: of which work, under what mark (a K range, a row carried
over, a score), for which problem, row and column (R212, R250, R260, R305). -/
structure Part where
  cmd : Key
  work : Nat
  mark : Nat
  problem : Nat
  row : Nat
  col : Nat
  val : Word
  deriving DecidableEq, Repr

/-- One tile of a command (R237, R263): the ranges it covers. -/
structure Tile where
  cmd : Key
  /-- which of the command's works -/
  work : Nat
  unit : TileUnit
  /-- 0 array product, 1 matrix-vector product, 2 summing tile, 3 epilogue tile, 4 Braid program tile, 5 scalars, 6 transposition,
  7 choice of experts, 8 sum of experts; attention: 9 scores, 10 softmax, 11 values, 12 rescaling; its gradients: 13 scores and dO·V,
  14 probabilities and score gradients, 15 sums, 16 narrowing -/
  kind : Nat
  die : Nat
  core : Nat
  problem : Nat
  row0 : Nat
  rows : Nat
  col0 : Nat
  cols : Nat
  k0 : Nat
  kLen : Nat
  kIdx : Nat
  passes : Nat
  issued : Bool
  /-- bit 0: has run again after a halt (R179, R215); bit 1: was issued again after a block reset (R656) -/
  reruns : Nat
  /-- operands staged at issue, as (element code, code of its scale or weight) | list | R257, 07 -/
  staged : List (Nat × Nat) := []
  /-- has waited for a host-tier region (FSH_STALL) | 1 | R466, R470, 11 -/
  stalled : Bool := false
  deriving DecidableEq, Repr

/-! ## Stacks, hubs (spec/12_memory_tiers.md) -/

/-- One HBM stack and its controller. -/
structure Stack where
  /-- STK_STATUS.OXBOW | 3 | R515, 12; R583, 14 | 0 -/
  oxbow : BitVec 3 := 0
  /-- STK_STATUS.RECAL_DUE | 1 | R502, 12 | 0 -/
  recalDue : Bool := false
  /-- STK_STATUS.STATE | 2 | R515, 12 | 0 -/
  state : BitVec 2 := 0
  /-- STK_CE.COUNT | 32 | R508, 12 | 0 -/
  ce : Word := 0
  /-- STK_UE.SCRUB | 16 | R513, 12 | 0 -/
  ueScrub : Half := 0
  /-- STK_UE.READ | 16 | R508, 12 | 0 -/
  ueRead : Half := 0
  /-- STK_LAST_ERR | 32 | R508, R513, 12 | 0 -/
  lastErr : Word := 0
  /-- STK_SCRUB.PASSES | 16 | R515, 12 | 0 -/
  scrubPasses : Half := 0
  /-- bursts of the running scrub pass done (STK_SCRUB.PROGRESS is their fraction) | 0 to 2^30 | R510, 12 | 0 -/
  scrubDone : Nat := 0
  /-- STK_REPAIR.RETIRED | 16 | R499, 12 | 0 -/
  retiredCount : Half := 0
  /-- STK_REPAIR.SOFT | 16 | R499, R504, 12 | 0 -/
  soft : Half := 0
  /-- STK_RECAL.FORCED | 16 | R503, 12 | 0 -/
  forced : Half := 0
  /-- STK_RECAL.WINDOWS | 16 | R502, 12 | 0 -/
  windows : Half := 0
  /-- the hold in progress was forced under R503 | 1 | R503, 12 | false -/
  holdForced : Bool := false
  /-- bursts that the stack reports uncorrectable | list of (frame, burst) | R508, 12 | empty -/
  ueBursts : List (Nat × Nat) := []
  /-- bursts stored with a wrong byte parity | list of (frame, burst) | R507, 12 | empty -/
  badParity : List (Nat × Nat) := []
  /-- corrected errors of each row in this scrub pass | list of (frame, count) | R504, 12 | empty -/
  rowErrs : Tbl Nat := []
  /-- rows due for repair, by frame | list | R504, 12 | empty -/
  rowsDue : List Nat := []
  /-- frames to retire when their page is next unmapped or migrated | list | R504, 12 | empty -/
  retireNext : List Nat := []
  /-- retired frames | list | R499, R505, 12 | empty -/
  retired : List Nat := []
  deriving DecidableEq, Repr

/-- One hub and its engines. -/
structure Hub where
  /-- HUB_MIG.COUNT | 32 | R515, 12 | 0 -/
  mig : Word := 0
  /-- HUB_AHEAD.COUNT | 32 | R515, 12 | 0 -/
  ahead : Word := 0
  /-- HUB_PARITY.COUNT | 16 | R507, 12 | 0 -/
  parity : Half := 0
  /-- page migration engine fenced by NMI | 1 | R674, 16 | false -/
  migFenced : Bool := false
  /-- copy-and-parity engine fenced by NMI | 1 | R674, 16 | false -/
  copyFenced : Bool := false
  deriving DecidableEq, Repr

/-! ## Fabric (spec/13_fabric_collectives.md) -/

/-- One fabric port (Tables 13.2, 13.16, 13.17) and its link. -/
structure Port where
  /-- PORT_STATUS.MODE | 1 | R516, 13 | 0 -/
  eth : Bool := false
  /-- PORT_STATUS.ROLE | 2 | R517, 13 | 0 -/
  spare : Bool := false
  /-- PORT_STATUS.UNFIT | 1 | R580, 13 | 0 -/
  unfit : Bool := false
  /-- PORT_STATUS.STATE | 4 | R582, 13 | 0 -/
  state : BitVec 4 := 0
  /-- PORT_STATUS.FOR | 5 | R520, 13 | 0 -/
  standsFor : BitVec 5 := 0
  /-- PORT_STATUS.LANES | 4 | R518, 13 | 0 -/
  lanes : BitVec 4 := 0
  /-- PORT_PEER.MODULE | 16 | R518, 13 | 0xFFFF -/
  peer : Half := 0xFFFF
  /-- PORT_PEER.PORT | 5 | R518, 13 | 0x1F -/
  peerPort : BitVec 5 := 0x1F
  /-- PORT_FEC_CORR.COUNT | 32 | R582, 13 | 0 -/
  fecCorr : Word := 0
  /-- PORT_FEC_UNC.COUNT | 32 | R582, 13 | 0 -/
  fecUnc : Word := 0
  /-- PORT_RETRY.REPLAYS | 16 | R582, 13 | 0 -/
  replays : Half := 0
  /-- PORT_RETRY.DROPS | 16 | R528, 13 | 0 -/
  drops : Half := 0
  /-- PORT_PAT_ERR, lane 0 | 8 | R579, 13 | 0 -/
  pat0 : Byte := 0
  /-- PORT_PAT_ERR, lane 1 | 8 | R579, 13 | 0 -/
  pat1 : Byte := 0
  /-- PORT_PAT_ERR, lane 2 | 8 | R579, 13 | 0 -/
  pat2 : Byte := 0
  /-- PORT_PAT_ERR, lane 3 | 8 | R579, 13 | 0 -/
  pat3 : Byte := 0
  /-- PORT_DELAY.NS | 16 | R518, 13 | 0 -/
  delay : Half := 0
  /-- PORT_TX.UNITS | 32 | R582, 13 | 0 -/
  tx : Word := 0
  /-- flits or frames below one unit of PORT_TX | 0 to 2^20 - 1 | R582, 13 | 0 -/
  txRest : Nat := 0
  /-- next sequence number of a sent DATA or CONTROL flit | 12 | R523, 13 | 0 -/
  txSeq : BitVec 12 := 0
  /-- last sequence received in order | 12 | R522, R523, 13 | DESIGN CHOICE 0xFFF (log 5) -/
  rxSeq : BitVec 12 := 0xFFF
  /-- replay buffer: flits sent and not acknowledged | list of at most 2,048 | R523, 13 | empty -/
  replay : List Flit := []
  /-- credits held from the other end | count | R524, 13 | 0 -/
  credits : Nat := 0
  /-- transport packets that wait for the port | list | R524, R576, 13 | empty -/
  queue : List FabPkt := []
  /-- flits of the packet in transmission that wait for a credit | list | R524, 13 | empty -/
  cur : List Flit := []
  /-- classes of the link's deficit round robin with their deficits, the one in turn first | list of (class, bytes) | R576, 13 | empty -/
  classes : List (Nat × Nat) := []
  /-- payload bytes of the transport packet in reception | list | R531, 13 | empty -/
  rxBuf : List Byte := []
  /-- LINK_PATTERN that gave the port its pattern | option key | R578, 13 | none -/
  pattern : Option Key := none
  /-- the port was FAILED when LINK_PATTERN took it | 1 | R578, 13 | false -/
  wasFailed : Bool := false
  /-- cable mated (CBL_PRSNT_N asserted) | 1 | R737, 18 | DESIGN CHOICE false (log 5) -/
  cable : Bool := false
  deriving DecidableEq, Repr

/-- One collective group (Table 13.11). -/
structure Group where
  job : Nat
  num : Nat
  members : List (Half × Half)
  rank : Nat
  level : Nat
  weight : Nat
  timeout : Nat
  /-- next operation number | 32 | R559, 13 -/
  nextOp : Nat
  /-- the collective commands dispatched and not ended, in order | list | R559, 13 -/
  queue : List Packet
  deriving DecidableEq, Repr

/-- A chunk kept at its source until it is acknowledged (R534). -/
structure TxChunk where
  dst : Half
  /-- job at the destination × 64 + channel; for a group operation 2^22 more, with the group | R531, 13 -/
  stream : Nat
  chunk : Word
  /-- command that waits for it, none when that has ended | R551, 13 -/
  cmd : Option Key
  pkts : List FabPkt
  crcFails : Nat
  deriving DecidableEq, Repr

/-- A chunk in reception at the destination (R533, R535). -/
structure RxChannel where
  src : Half
  stream : Nat
  /-- next chunk number to apply | 32 | R535, 13 -/
  next : Word
  /-- data bytes of the chunk so far | list | R533, 13 -/
  data : List Byte
  /-- CRC failures of the chunk so far | count | R534, 13 -/
  fails : Nat
  deriving DecidableEq, Repr

/-- A slot of a reduction pool (R573): the sums or tallies of one reduction chunk. -/
structure PoolSlot where
  half : Nat
  job : Nat
  group : Nat
  op : Nat
  chunk : Nat
  /-- members whose contribution is in | list | R571, 13 -/
  from_ : List Nat
  /-- FP32 sums | list | R571, 13 -/
  sums : List Word
  /-- SV1 tallies, 48-bit signed | list | R137, 04 -/
  tallies : List Int
  /-- vote weights of the blocks | list | R137, 04 -/
  weights : List Nat
  deriving DecidableEq, Repr

/-- A grant request that waits for a slot (R573, R574). -/
structure GrantWait where
  half : Nat
  job : Nat
  group : Nat
  op : Nat
  chunk : Nat
  member : Nat
  src : Half
  deriving DecidableEq, Repr

/-- The Weir and the transport. -/
structure Fabric where
  /-- P00 to P19 | table | R582, 13 | each at reset -/
  ports : Tbl Port := []
  /-- WEIR_CRC.COUNT | 32 | R582, 13 | 0 -/
  crcFails : Word := 0
  /-- WEIR_RETX.COUNT | 32 | R582, 13 | 0 -/
  retx : Word := 0
  /-- WEIR_RT_INDEX.MODULE | 16 | R552, 13 | 0 -/
  rtIndex : Half := 0
  /-- route table, WEIR_RT_DATA.ETH in bit 31 and PORTS in [19:0] | 65,536 × 32 | R552, 13 | each 0 -/
  routes : Tbl Word := []
  /-- WEIR_DENY.DENIED | 16 | R547, 13 | 0 -/
  denied : Half := 0
  /-- WEIR_DENY.DROPS | 16 | R554, 13 | 0 -/
  drops : Half := 0
  /-- WEIR_PFX_INDEX.POD | 6 | R529, 13 | 0 -/
  pfxIndex : BitVec 6 := 0
  /-- pod prefix table | 64 × 64 | R529, 13 | each 0 -/
  prefixes : Tbl Dword := []
  /-- Weir half XD0 fenced by NMI | 1 | R674, 16 | false -/
  x0Fenced : Bool := false
  /-- Weir half XD1 fenced by NMI | 1 | R674, 16 | false -/
  x1Fenced : Bool := false
  /-- groups defined over all jobs | list of at most 64 | R556, R557, 13 | empty -/
  groups : List Group := []
  /-- chunks sent and not acknowledged | list | R534, 13 | empty -/
  unacked : List TxChunk := []
  /-- next CHUNK_SEQ per (destination, job, channel) | table | R531, R535, 13 | each 0 -/
  txNext : List (Half × Half × Nat × Word) := []
  /-- channels in reception | list | R535, 13 | empty -/
  rx : List RxChannel := []
  /-- requests from the fabric that are held for a page in motion, with those behind them on their channels | list | R490, 12 |
  empty -/
  heldPkts : List FabPkt := []
  /-- pool slots in use (WEIR_POOL counts them per half) | list of at most 96 per half | R573, 13 | empty -/
  slots : List PoolSlot := []
  /-- grant requests waiting | list | R573, R574, 13 | empty -/
  grantWaits : List GrantWait := []
  /-- deficit of each waiting group | list of (job, group, bytes) | R574, R576, 13 | empty -/
  deficits : List (Nat × Nat × Nat) := []
  /-- transport packets handed to the ports, oldest first | list | R531, 13 | empty (model's own trace, log 8) -/
  sent : List FabPkt := []
  /-- flits put on the lines, as (port, flit), oldest first | list | R522, R523, 13 | empty (model's own trace, log 8) -/
  line : List (Nat × Flit) := []
  /-- Ethernet frames sent, from the EtherType or VLAN tag on, as (port, bytes), oldest first | list | R527, 13 | empty (log 8) -/
  frames : List (Nat × List Byte) := []
  /-- beacons sent, as (port, beacon), of the last boundary | list | R96, 03 | empty (model's own trace, log 8) -/
  beacons : List (Nat × Beacon) := []
  /-- transport packets forwarded for other modules, as (port, packet), oldest first | list | R554, 13 | empty (log 8) -/
  forwarded : List (Nat × FabPkt) := []
  deriving DecidableEq, Repr

/-! ## Rollouts and pools (spec/08, 09) -/

/-- What the device keeps of a slot's request beside the sequence table entry. -/
structure SlotReq where
  /-- the PREFILL packet -/
  pkt : Packet
  /-- STATE to return to from HELD (1 ADMIT, 2 PREFILL, 3 LIVE) | Table 8.3, 08 -/
  heldFrom : Nat
  /-- of a FORK: the request of its source | R287, 08 -/
  source : Option Key
  deriving DecidableEq, Repr

/-- Rows of one sequence in a step: `drafts` are draft tokens verified or drawn. -/
structure Fed where
  slot : Nat
  rows : Nat
  live : Bool
  drafts : Nat
  deriving DecidableEq, Repr

/-- A step in its stage 6: sequences still to obtain their pages, pages withheld for slots, sequences that have theirs, and the
pages that the step has pinned (R341, R345, R349). -/
structure Stage6 where
  todo : List Fed
  kept : List (Nat × Nat)
  taken : List Fed
  pins : List Nat
  deriving DecidableEq, Repr

/-- One open rollout (Table 8.1). -/
structure Rollout where
  id : Nat
  pool : Nat
  slots : Nat
  role : Nat
  seqtab : Nat
  samplingLo : Dword
  samplingHi : Dword
  model : Nat
  batch : Nat
  target : Nat
  depth : Nat
  stops : Nat
  tbase : Nat
  /-- step count since OPEN | R297, 08 -/
  steps : Nat
  /-- weight version in force | R290, R293, 08 -/
  version : Word
  /-- last LIVE slot taken in the previous step | R291, 08 -/
  lastTaken : Nat
  /-- slots with a request, in the order in which their PREFILLs were dispatched -/
  reqs : List (Nat × SlotReq)
  /-- step commands of the rollout, the running one first | R289, 08 -/
  stepCmds : List Packet
  /-- the CLOSE that waits | R273, 08 -/
  closing : Option Packet
  /-- pages withheld at a stage 4 for the stage 6 that follows, by slot | R349, 09 -/
  withheld : List (Nat × Nat)
  /-- a step that waits at a pin of its stage 6 | R341, 09 -/
  stage6 : Option Stage6
  deriving DecidableEq, Repr

/-- One KV pool. Its control block, descriptors and tables lie in device memory at META (R327 to R329). -/
structure Pool where
  id : Nat
  arena : Nat
  metaVa : Nat
  /-- policy that takes effect at the next step boundary of each rollout: POLICY, WAIT_FRETS, SPILL, SPILL_SLOTS, and the
  rollouts that have taken it | R324, 09 -/
  pendPolicy : Option ((Nat × Nat × Nat × Nat) × List Nat)
  /-- spill slots in use | R336, 09 -/
  spillUsed : List Nat
  deriving DecidableEq, Repr

/-! ## Models (spec/11_weights_and_freshet.md) -/

/-- A region entry of a stow image (Table 11.2), kept by firmware after the load. -/
structure Region where
  bytes : Nat
  rows : Nat
  cols : Nat
  fmt : Nat
  order : Nat
  home : Nat
  flags : Byte
  twin : Nat
  piece : Nat
  alpha : Word
  /-- variant that owns the region, 0 for the base -/
  variant : Nat
  /-- chunks of the push in reception that have been checked | R446, 11 -/
  checked : Nat
  deriving DecidableEq, Repr

/-- A piece entry of a stow image (Table 11.3). -/
structure Piece where
  kind : Nat
  topK : Nat
  w : Nat
  wt : Nat
  bias : Nat
  fwd : Nat
  bwd : Nat
  save : Byte
  flags : Byte
  layer : Nat
  scale : Word
  window : Nat
  experts : Nat
  deriving DecidableEq, Repr

/-- A loaded variant (R458). -/
structure Variant where
  num : Nat
  wbase : Nat
  units : Nat
  first : Nat
  count : Nat
  route : List Half
  deriving DecidableEq, Repr

/-- A model handle. Its freshet table lies in device memory at WBASE (R436, Table 11.6). -/
structure Model where
  handle : Nat
  wbase : Nat
  /-- size of the area in 2 MiB units -/
  units : Nat
  shadow : Bool
  shapeId : Dword
  layers : Nat
  kvHeads : Nat
  headDim : Nat
  fmtK : Nat
  fmtV : Nat
  vocab : Nat
  regions : List Region
  pieces : List Piece
  programs : List (List Byte)
  /-- routing table of the base image, empty for none | R463, 11 -/
  route : List Half
  variants : List Variant
  /-- host-tier regions | R437, 11 -/
  hostTier : List Nat
  /-- host-tier regions now in the stage buffers | R466, 11 -/
  streamed : List Nat
  /-- the entered FLIP | R449, 11 -/
  flip : Option Packet
  /-- the MODEL_DRAIN in progress and the fret of its timeout | R467, R468, 11 -/
  drain : Option (Packet × Nat)
  deriving DecidableEq, Repr

/-! ## Learning (spec/10_learning_passes.md) -/

/-- The passes of one step of a job (Table 10.1). -/
structure StepPasses where
  step : Dword
  mbCount : Nat
  /-- formats in which each microbatch's PASS_FWD saved the inputs of its pieces | R373, R383, 10 -/
  saved : List (Nat × List Nat)
  /-- a PASS_BWD of the step has been dispatched | R384, 10 -/
  anyBwd : Bool
  fwdDone : List Nat
  bwdDone : List Nat
  deriving DecidableEq, Repr

/-- The open phase window of a job (R419 to R424). -/
structure Window where
  start : Dword
  step : Option Dword
  /-- ROLLOUT, PREFILL, FORWARD, BACKWARD, REDUCE, UPDATE, FRESHET, CKPT, IDLE, in the order of Table 10.18 -/
  counts : List Word
  /-- phases with work in the running fret -/
  active : List Nat
  saturated : Bool
  mbCount : Nat
  tokens : Nat
  version : Word
  deriving DecidableEq, Repr

/-- A phase record (Table 10.18) in the ring. -/
structure PhaseRec where
  win : Window
  job : Nat
  flags : Nat
  fin : Dword
  read : Bool
  deriving DecidableEq, Repr

/-! ## Checkpoints (spec/14_checkpoint_recovery.md) -/

/-- One checkpoint of a job (Table 14.6). -/
structure Ckpt where
  id : Nat
  /-- state of Table 14.6 | R606, 14 -/
  state : Nat
  step : Dword
  protect : Nat
  gen2 : Bool
  peerModule : Half
  peerJob : Half
  group : Nat
  /-- destinations of the protective copy: the holder, or the members of the parity group in rank order | R602, R603, 14 -/
  members : List (Half × Half)
  /-- own rank in the parity group | R603, 14 -/
  rank : Nat
  /-- fret of the freeze | R591, 14 -/
  freeze : Dword
  /-- the TAKE -/
  cmd : Key
  vi : Nat
  /-- directory: shard headers of 128 bytes, in set order | R587, R610, 14 -/
  hdrs : List (List Byte)
  /-- shards whose header the device has written | R600, 14 -/
  written : List Nat
  /-- slots: (page, stack, oxbow frame) | R589, 14 -/
  slots : List (Nat × Nat × Nat)
  /-- covered regions not yet copied, ascending, by VA / 64 KiB | R593, 14 -/
  todo : List Nat
  /-- covered regions in set order, then ascending | R587, R603, 14 -/
  covered : List Nat
  /-- protective transfers acknowledged | R602, R604, 14 -/
  sent : Nat
  /-- lost peer of the protective copy | R607, 14 -/
  lost : Option Nat
  /-- copy repeated once after an engine reset | R599, 14 -/
  repeated : List Nat
  deriving DecidableEq, Repr

/-- One image in a hold (R602). -/
structure HoldImg where
  step : Dword
  freeze : Dword
  /-- frames of the hold that it fills, in order -/
  frames : List (Nat × Nat)
  /-- regions and shards of the whole image -/
  regions : Nat
  shards : Nat
  /-- regions held, by number -/
  got : List Nat
  /-- headers held, by shard -/
  hdrs : List (Nat × List Byte)
  deriving DecidableEq, Repr

/-- A hold for a partner's images (R601, R602). -/
structure Hold where
  id : Nat
  peerModule : Half
  peerJob : Half
  /-- oxbow frames reserved: (stack, frame) -/
  slots : List (Nat × Nat)
  imgs : List HoldImg
  deriving DecidableEq, Repr

/-- What a job's module keeps of a parity checkpoint of a group (R603, R604): parity regions of the rows it holds. -/
structure Parity where
  group : Nat
  step : Dword
  /-- own rank and the number of members -/
  rank : Nat
  g : Nat
  /-- parity frames reserved: (stack, frame) -/
  frames : List (Nat × Nat)
  /-- regions of each member's image that has begun: (rank, regions, shards) -/
  counts : List (Nat × Nat × Nat)
  /-- contributions applied: (row, rank) -/
  contrib : List (Nat × Nat)
  /-- CRC-32C of complete rows -/
  crcs : List (Nat × Word)
  /-- directories of the members: (rank, shard, header) -/
  dirs : List (Nat × Nat × List Byte)
  deriving DecidableEq, Repr

/-! ## Jobs (spec/15_job_scheduling.md) -/

/-- One job with its context (R629, R631). -/
structure Job where
  id : Nat
  /-- owning VI | R46, 02 -/
  vi : Nat
  /-- state of Table 15.1 -/
  state : Nat
  /-- CTX_HOST | R632, 15 -/
  ctxHost : Nat
  /-- context evicted to CTX_HOST | R634, 15 -/
  evicted : Bool
  /-- frames of the context area | R631, 15 -/
  ctxFrames : List Home
  /-- packets held in the command list | R640, R641, 15 -/
  cmdList : List Packet
  /-- open JOB_START | R635, 15 -/
  start : Option Packet
  /-- position last reported by DEFERRED and the fret of it | R639, 15 -/
  deferred : Option (Nat × Dword)
  /-- first fret in which the job held the module | R635, 15 -/
  heldFrom : Dword
  /-- order number of its last run | R634, 15 -/
  lastRan : Nat
  /-- class of the VI when its JOB_START was dispatched | R636, R658, 15 -/
  cls : Nat
  /-- rollout that took the job's last batch step in STEP mode | R647, 15 -/
  lastRoll : Option Nat
  /-- a pre-emption is due: 1 by class, 2 by command, 3 by abort | R636, R642, R651, 15 -/
  preempt : Nat
  /-- job named in RESULT1 of the pre-emption -/
  preemptBy : Nat
  /-- fret of the last capo point of a pre-emption | R642, 15 -/
  capoFret : Dword
  /-- JOB_START was taken at least once (the seed is set) | R226, 06 -/
  everRun : Bool
  /-- generator seed | R226, 06 -/
  seedLo : Dword
  seedHi : Dword
  seedLoads : Nat
  /-- Braid program slots: (slot, image) | R209, 06 -/
  progs : Tbl (List Byte)
  /-- functions: (4 × unit + function, image of 6,208 bytes) | R220, R221, 06 -/
  funcs : Tbl (List Byte)
  /-- generator states that have drawn, by stream index (Table 6.12) | R223, 06 -/
  gens : Tbl Gen
  /-- update slots: (slot, image) | R398, 10 -/
  upds : Tbl (List Byte)
  /-- step size and its tag | R392, 10 -/
  stepSize : Option (Dword × Word)
  /-- passes of each step | R362, 10 -/
  passes : List StepPasses
  /-- open phase window | R419, 10 -/
  window : Option Window
  rollouts : List Rollout
  pools : List Pool
  models : List Model
  ckpts : List Ckpt
  holds : List Hold
  parities : List Parity
  /-- fabric domain | R546, 13 -/
  domain : Word
  deriving DecidableEq, Repr

/-! ## Commands in progress -/

/-- An answer to a firmware read at another module: where, the address in its image space, and the data or the denial
(status, reason, RESULT0). -/
structure Fetched where
  dst : Nat
  dstJob : Nat
  addr : Nat
  data : List Byte
  deny : Option (Byte × Half × Nat)
  deriving DecidableEq, Repr

/-- How far a command that has been dispatched and lacks its final record has come. -/
inductive Progress where
  /-- FENCE: the packets it waits for | R497, 12 -/
  | fence (awaits : List Key)
  /-- MIGRATE: (page, target) still to move; pages moved and skipped; aborted | R485, R486, 12 -/
  | migrate (todo : List (Nat × Home)) (moved skipped : Nat) (aborted : Bool)
  /-- PLACE UNMAP: pages in motion that it waits for; pages unmapped and skipped | R483, 12 -/
  | unmap (waits : List Nat) (done skipped : Nat)
  /-- MATMUL, MATMUL_BATCHED, BRAID_RUN, ATTN_FWD, ATTN_BWD: its works, RESULT0 and RESULT1 of its record, and the pool
  and pages it pins | R238, R245, 07; R212, 06; R337, 09 -/
  | works (ws : List Work) (r0 r1 : Nat) (pool : Nat) (pins : List Nat)
  /-- a run that waits for an earlier-dispatched load of its slot or of a function | R210, 06 -/
  | slotRun
  /-- BRAID_LOAD SEED: cores that have not reached a capo point | R225, 06 -/
  | seedLoad (cores : List (Nat × Nat))
  /-- a load of a slot or function that waits for its users | R210, 06 -/
  | slotLoad
  /-- ROLLOUT_OPEN CLOSE | R273, 08 -/
  | rolloutClose (rollout : Nat)
  /-- ROLLOUT_STEP: steps run, tokens, requests ended | R288, 08 -/
  | rolloutStep (rollout steps tokens ended : Nat)
  /-- SPEC_VERIFY | R310, 08 -/
  | specVerify (target draft : Nat)
  /-- an accepted PREFILL: the request of its sequence | R282, 08 -/
  | request (rollout slot : Nat)
  /-- SEQ_CANCEL that waits for the boundary | R299, 08 -/
  | cancel (rollout : Nat)
  /-- ABORT that waits for its targets: those left, and packets aborted | R651, R653, 15 -/
  | abort (targets : List Key) (count : Nat)
  /-- KV_SHIP RECEIVE: pool, table, former table state, fret of the timeout (0 none), pages checked, first failing
  entry | R356, R358, 09 -/
  | kvReceive (pool table former until_ checked : Nat) (bad : Option Nat)
  /-- ATTN_FWD that waits for a pin | R341, 09 -/
  | attn
  /-- KV_SHIP SEND: phase (9 waits for its pins, 0 control block, 1 header, 2 entries, 3 page, 4 CRC, 5 signal), page, offset, pinned pages,
  bytes gathered | R357, 09 -/
  | kvSend (phase page off : Nat) (pages : List Nat) (got : List Byte)
  /-- KV_RELEASE that waits for a send | R354, 09 -/
  | kvRelease
  /-- PASS_FWD or PASS_BWD: waits of Table 10.1; fret of dispatch and frets waited | R362, R372, 10 -/
  | pass (bwd : Bool) (since : Dword) (waited : Nat)
  /-- PASS_FWD or PASS_BWD that runs: fret of dispatch, frets waited, tiles in all, its works, its pass block, where OUT lies in
  the scratch memory, and the ranges that it writes | R366, R372, 10 -/
  | passRun (bwd : Bool) (since : Dword) (waited total : Nat) (ws : List Work) (block : List Byte)
      (out spans : List (Nat × Nat))
  /-- PASS_FWD or PASS_BWD that has run and sends its OUT: fret of dispatch, frets waited, bytes of OUT, bytes
  acknowledged, and whether the counter's SIGNAL is still due | R368, 10 -/
  | passOut (bwd : Bool) (since : Dword) (waited total : Nat) (out : List Byte) (acked : Nat) (signal : Bool)
  /-- UPDATE that waits | R362, R447, 10 -/
  | update
  /-- UPDATE that runs: layers of its table completed, the fret of its start, and its works, a chain for each layer | R393, R403,
  R414, 10 -/
  | updateRun (done : List Nat) (start : Dword) (ws : List Work)
  /-- FRESHET_PUSH: phase (10 waits, 0 header, 1 entries, 2 state word, 3 claim, 4 ARRIVED, 5 chunk, 6 CRC, 8 signal,
  7 claim blocked), region, the word read or the chunk, regions sent, skipped and FIXED, fret at which a blocked claim ends, bytes gathered | R444, 11 -/
  | push (phase region off sent skipped fixed until_ : Nat) (got : List Byte)
  /-- FRESHET_FLIP entered | R449, 11 -/
  | flip (job model : Nat)
  /-- MODEL_DRAIN | R467, 11 -/
  | drain (job model : Nat)
  /-- PUT, GET, ATOMIC, SIGNAL: bytes sent or asked, bytes acknowledged or arrived, aborted | R538 to R541, 13 -/
  | remote (sent acked : Nat) (aborted : Bool)
  /-- a collective command: operation number, started, (member, chunks in all, chunks acknowledged) sent and received, fret
  of the timeout | R559, R560, 13 -/
  | coll (group op : Nat) (started : Bool) (out recv : List (Nat × Nat × Nat)) (until_ : Nat)
  /-- GROUP_DEFINE RELEASE that waits | R561, 13 -/
  | groupRelease (group : Nat)
  /-- CKPT_BEGIN TAKE | R588, 14 -/
  | take (job ckpt : Nat)
  /-- RESTORE that reads from peers: what it has read | R617, 14 -/
  | restore (got : List Fetched)
  /-- READBACK that waits for the holders of the protective copy: their answers | R613, 14 -/
  | readback (job ckpt : Nat) (got : List Fetched)
  /-- ROLLBACK that waits for its target | R622, 14 -/
  | rollback (job ckpt : Nat)
  /-- an open JOB_START | R635, 15 -/
  | jobStart
  /-- JOB_END without FORCE: the earlier packets of the job that have not posted their final records | R649, 15 -/
  | jobEnd (awaits : List Key)
  /-- JOB_PREEMPT: the job, evicting | R642, 15 -/
  | jobPreempt (job : Nat) (evict : Bool)
  /-- SELFTEST CORE: die, core | R689, 16 -/
  | selftest (die core : Nat)
  /-- CALIBRATE: stacks left, row repairs, stacks done | R694, 16 -/
  | calibrate (left : List Nat) (repairs done : Nat)
  /-- LINK_PATTERN: port and the fret at which it ends | R578, 13 -/
  | linkPattern (port until_ : Nat)
  deriving DecidableEq, Repr

/-- A command in progress. -/
structure OpenCmd where
  pkt : Packet
  prog : Progress
  deriving DecidableEq, Repr

/-! ## Faults (spec/16_faults_safety.md) -/

/-- One fault unit's registers that differ from its kind's defaults (Tables 16.2, 16.3). -/
structure FaultUnit where
  /-- FLT_STAT.SEVERE | 1 | R664, 16 | 0 -/
  severe : Bool := false
  /-- FLT_STAT.EVENT | 1 | R664, 16 | 0 -/
  event : Bool := false
  /-- FLT_STAT.ERR_HELD | 1 | R670, 16 | 0 -/
  errHeld : Bool := false
  /-- FLT_STAT.FATAL_HELD | 1 | R670, 16 | 0 -/
  fatalHeld : Bool := false
  /-- FLT_STAT.LAST_FRET | 24 | R667, 16 | 0 -/
  lastFret : BitVec 24 := 0
  /-- FLT_COUNT.WINDOW | 8 | R667, 16 | 0 -/
  window : Byte := 0
  /-- FLT_COUNT.TOTAL | 24 | R667, 16 | 0 -/
  total : BitVec 24 := 0
  /-- fret boundaries until the open window closes; 0: no window open | count | R666, 16 | 0 -/
  left : Nat := 0
  /-- FLT_CFG and FLT_MASK as set, none: the defaults of Table 16.5: THRESH, WINDOW, SEVERE, MINOR, VEC | option | R664, R680, 16 | none -/
  cfg : Option (Byte × BitVec 24 × BitVec 6 × BitVec 6 × BitVec 2) := none
  deriving DecidableEq, Repr

/-- The notice ring (Table 16.8). -/
structure Ntc where
  /-- FLT_NTC_BASE | 64 | R677, 16 | 0 -/
  base : Dword := 0
  /-- FLT_NTC_CFG.EN | 1 | R677, 16 | 0 -/
  en : Bool := false
  /-- FLT_NTC_CFG.SIZE_LOG2 | 5 | R677, 16 | 0 -/
  sizeLog2 : BitVec 5 := 0
  /-- FLT_NTC_TAIL | 16 | R677, 16 | 0 -/
  tail : Half := 0
  /-- FLT_NTC_HEAD | 16 | R677, 16 | 0 -/
  head : Half := 0
  /-- FLT_NTC_DROP | 16 | R677, 16 | 0 -/
  drop : Half := 0
  /-- write phase of the ring | 1 | R61, 02; R677, 16 | DESIGN CHOICE true (log 5) -/
  phase : Bool := true
  /-- notices were dropped since the last one written | 1 | R677, 16 | false -/
  dropped : Bool := false
  deriving DecidableEq, Repr

/-- A block reset in progress (Table 15.6). -/
structure BlockRst where
  block : Block
  /-- 1 fence and drain, 2 reset -/
  phase : Nat
  deriving DecidableEq, Repr

/-! ## Flash, boot and records (spec/17_boot_identity_records.md) -/

/-- One firmware slot of the flash (Table 17.6): what its header says and whether the slot is valid (R711). -/
structure FwSlot where
  version : Word := 0
  svn : Word := 0
  /-- 0 valid; else the cause of Table 17.14 -/
  bad : Nat := 1
  /-- SHA-512 of header and body | 64 bytes | R725, Table 17.12, 17 -/
  digest : List Byte := []
  deriving DecidableEq, Repr

/-- A journal record of the configuration store (R720). -/
structure JournalRec where
  group : Nat
  item : Nat
  seq : Nat
  value : List Byte
  deriving DecidableEq, Repr

/-- A repair hint (Table 17.5). -/
structure Hint where
  kind : Byte
  passes : Byte
  location : Word
  detail : Word
  deriving DecidableEq, Repr

/-- An event record (Table 17.13) less its CHECK, which follows from the other bytes. -/
structure EvRec where
  code : Half
  source : Half
  cycles : Word
  hours : Word
  seconds : Word
  p0 : Word
  p1 : Word
  p2 : Word
  deriving DecidableEq, Repr

/-- An installed owner image (R718, R719). -/
structure Owner where
  gen : Word
  lock : Half
  settings : List (Nat × Nat × List Byte)
  deriving DecidableEq, Repr

/-- The serial NOR flash, which alone keeps state while the module is off (R698). -/
structure Flash where
  /-- firmware slot A | slot | R711, 17 | DESIGN CHOICE not valid (log 7) -/
  slotA : FwSlot := {}
  /-- firmware slot B | slot | R711, 17 | DESIGN CHOICE not valid (log 7) -/
  slotB : FwSlot := {}
  /-- boot selector PREFERRED | 1 | R712, 17 | DESIGN CHOICE A (log 7) -/
  preferredB : Bool := false
  /-- trial state: 0 NONE, 1 ARMED, 2 RUNNING | 2 | R712, 17 | DESIGN CHOICE NONE (log 7) -/
  trial : Nat := 0
  /-- counter FW_SVN | 32 | R699, 17 | DESIGN CHOICE 0 (log 7) -/
  fwSvn : Word := 0
  /-- counter CFG_GEN | 32 | R699, 17 | 0 -/
  cfgGen : Word := 0
  /-- counter POWER_CYCLES | 32 | R699, 17 | DESIGN CHOICE 0 (log 7) -/
  powerCycles : Word := 0
  /-- counter HOURS | 32 | R699, R729, 17 | DESIGN CHOICE 0 (log 7) -/
  hours : Word := 0
  /-- owner image: GENERATION, LOCK, settings as (group, item, bytes) | option | R718, R719, 17 | none -/
  owner : Option Owner := none
  /-- owner key in force | option | R719, 17 | none -/
  ownerKey : Option (List Byte) := none
  /-- journal records in force, in sequence order | list | R720, R722, 17 | empty -/
  journal : List JournalRec := []
  /-- next journal sequence | count | R720, 17 | 0 -/
  journalSeq : Nat := 0
  /-- journal half in force: 0 the first, 1 the second | 1 | R722, 17 | DESIGN CHOICE the first (log 7) -/
  journalB : Bool := false
  /-- record places used in the half in force | 0 to 49,152 | R722, 17 | DESIGN CHOICE 0 (log 7) -/
  journalUsed : Nat := 0
  /-- PUF helper data | bytes | R725, 17 | DESIGN CHOICE empty (log 7) -/
  helper : List Byte := []
  /-- repair hints in force | list | R709, R710, 17 | empty -/
  hints : List Hint := []
  /-- hint half in force: 0 the first, 1 the second | 1 | R710, 17 | DESIGN CHOICE the first (log 7) -/
  hintB : Bool := false
  /-- record places used in the hint half in force | 0 to 131,072 | R710, 17 | DESIGN CHOICE 0 (log 7) -/
  hintsUsed : Nat := 0
  /-- event records programmed, index 0 first | list of at most 65,536 | R728, R731, 17 | empty -/
  events : List EvRec := []
  deriving DecidableEq, Repr

/-- What the security engine holds of the module's identity; nothing outside it reads the secret parts (R725, R726). -/
structure Identity where
  /-- reconstructed PUF response | bytes | R725, 17 -/
  puf : List Byte
  /-- DeviceID seed | bytes | R725, 17 -/
  seed : List Byte
  /-- DeviceID private key | 521 | R725, 17 -/
  deviceKey : Nat
  /-- Alias private key, once the running slot is known | option 521 | R725, 17 -/
  aliasKey : Option Nat
  /-- Alias certificate | bytes | R725, 17 -/
  aliasCert : List Byte
  deriving DecidableEq, Repr

/-- Boot state and the registers of Table 17.18. -/
structure Boot where
  /-- BOOT_STATUS.REASON | 8 | R735, 17 | 0 -/
  reason : Byte := 0
  /-- BOOT_STATUS.TRIAL | 1 | R735, 17 | 0 -/
  trial : Bool := false
  /-- BOOT_STATUS.IDENTITY | 1 | R727, 17 | 0 -/
  identity : Bool := false
  /-- keys and seed in the security engine | option | R725, 17 | none -/
  keys : Option Identity := none
  /-- BOOT_STATUS.PAIR | 1 | R702, 17 | 0 -/
  pair : Bool := false
  /-- BOOT_STATUS.SLOT | 1 | R735, 17 | 0 -/
  slotB : Bool := false
  /-- BOOT_STATUS.PREFERRED | 1 | R735, 17 | 0 -/
  preferred : Bool := false
  /-- BOOT_STATUS.STATE | 3 | R700, 17 | 0 -/
  state : BitVec 3 := 0
  /-- boot stage in progress; 0: not started, 9: all stages done | 0 to 9 | R701, 17 | 0 -/
  stage : Nat := 0
  /-- BOOT_TIME.MS | 32 | R706, 17 | 0 -/
  time : Word := 0
  /-- BOOT_FW.VERSION | 32 | R735, 17 | 0 -/
  fw : Word := 0
  /-- BOOT_FW_ALT.VERSION | 32 | R735, 17 | 0 -/
  fwAlt : Word := 0
  /-- BOOT_SVN.SVN | 32 | R735, 17 | 0 -/
  svn : Word := 0
  /-- BOOT_DIES.MAP | 18 | R735, 17 | 0 -/
  dies : BitVec 18 := 0
  /-- BOOT_SPARES.MAP | 18 | R735, 17 | 0 -/
  spares : BitVec 18 := 0
  /-- BOOT_RESOURCES | 32 | R735, 17 | 0 -/
  resources : Word := 0
  /-- CFG_STATUS.OWNER | 1 | R735, 17 | 0 -/
  owner : Bool := false
  /-- CFG_STATUS.SKIPPED | 8 | R735, 17 | 0 -/
  skipped : Byte := 0
  /-- CFG_STATUS.RECORDS | 16 | R735, 17 | 0 -/
  records : Half := 0
  /-- CFG_GEN.GEN | 32 | R735, 17 | 0 -/
  gen : Word := 0
  /-- LOCK of the owner image in force | 16 | R718, R721, 17 | 0 -/
  lock : Half := 0
  /-- settings in force, as (group, item, bytes) | list | R718, 17 | empty: the manufacture defaults of Table 17.8 -/
  settings : List (Nat × Nat × List Byte) := []
  /-- next index of the event record area (EVR_STATUS.NEXT) | 17 | R728, R732, 17 | 0 -/
  evNext : Nat := 0
  /-- EVR_STATUS.FULL | 1 | R731, 17 | 0 -/
  evFull : Bool := false
  /-- EVR_LOST.COUNT | 16 | R730, 17 | 0 -/
  evLost : Half := 0
  /-- records dropped since the last EVREC_LOST record | count | R730, 17 | 0 -/
  evLostNew : Nat := 0
  /-- records waiting for the flash | list of at most 256 | R730, 17 | empty -/
  evQueue : List EvRec := []
  /-- EVR_CYCLES.COUNT | 32 | R735, 17 | 0 -/
  cycles : Word := 0
  /-- EVR_HOURS.TENTHS | 32 | R729, 17 | 0 -/
  hours : Word := 0
  /-- EVR_SECONDS.COUNT | 32 | R729, 17 | 0 -/
  seconds : Word := 0
  /-- chip reset decided, to be done 10 ms later (FW_ACTIVATE) | 1 | R717, 17 | false -/
  resetDue : Bool := false
  /-- a power-on (not a chip reset) started this boot | 1 | R699, 17 | false -/
  fromPowerOn : Bool := false
  /-- this trial boot timed out (cause 2 at the next boot) | 1 | R713, 17 | false -/
  timedOut : Bool := false
  /-- a chip reset was decided by a fault reaction; no further event counts | 1 | R673, 16 | false -/
  resetDecided : Bool := false
  /-- unit whose reaction decided the chip reset (SOURCE of its CHIP_RESET record) | 16 | Table 17.13, 17 | 0xFFFF -/
  resetUnit : Nat := 0xFFFF
  /-- VF Enable of VI0's SR-IOV capability | 1 | R43, 02 | PRESUMED 0 (PCIe, log 6) -/
  vfEn : Bool := false
  /-- bus number B that configuration writes give VI0 | 8 | R44, R45, 02 | PRESUMED 0 (PCIe, log 6) -/
  bus : Nat := 0
  /-- NumVFs of VI0's SR-IOV capability | 16 | R43, 02 | PRESUMED 0 (PCIe, log 6) -/
  numVfs : Nat := 0
  /-- PLDM platform event messages held until retrieved, by unit | list | R671, R765, 16, 18 | empty -/
  pldm : List Nat := []
  /-- SPDM and MCTP answers sent, oldest first | list | R727, 17 | empty (model's own trace, log 8) -/
  answers : List (List Byte) := []
  /-- answers of the configuration space: true success, false Request Retry Status, newest last | list | R703, 17 | empty (log 8) -/
  cfgAnswers : List Bool := []
  /-- data that configuration reads returned, newest last | list of 32 | R1, 00; R43, 02 | empty (log 8) -/
  cfgData : List Word := []
  deriving DecidableEq, Repr

/-! ## Power (spec/18_pins_power_electrical.md) -/

/-- Power, clock and thermal state (Table 18.12) and the pins. -/
structure Power where
  /-- PWR_STATUS.CAP_STEP | 6 | R748, 18 | 32 -/
  capStep : Nat := 32
  /-- PWR_STATUS.CAP | 8 | R751, 18 | 160 -/
  cap : Nat := 160
  /-- thermal step | 4 to 32 | R754, 18 | DESIGN CHOICE 32 (log 5) -/
  thermalStep : Nat := 32
  /-- measured step | 4 to 32 | R750, 18 | DESIGN CHOICE 32 (log 5) -/
  measStep : Nat := 32
  /-- PWR_STATUS.VOLTAGE: the limit of R741 is in force | 1 | R741, 18 | 0 -/
  voltLimit : Bool := false
  /-- PWR_STATUS.ONE_FEED | 1 | R747, 18 | 0 -/
  oneFeed : Bool := false
  /-- throttling: between the first lowering and the return to the cap step (THERM_N) | 1 | R754, R755, 18 | false -/
  throttling : Bool := false
  /-- milliseconds at or below every release point | count | R754, 18 | 0 -/
  coolMs : Nat := 0
  /-- milliseconds with the mean at least 200 W below the cap | count | R750, 18 | 0 -/
  lowMs : Nat := 0
  /-- input voltage of the higher feed in mV (PWR_INPUT.MV_DIV4 × 4) | count | R768, 18 | 0 -/
  mv : Nat := 0
  /-- PWR_INPUT.WATTS | 16 | R768, 18 | 0 -/
  watts : Nat := 0
  /-- PWR_FEEDS.FEED_A | 16 | R768, 18 | 0 -/
  feedA : Half := 0
  /-- PWR_FEEDS.FEED_B | 16 | R768, 18 | 0 -/
  feedB : Half := 0
  /-- PWR_ENERGY in mJ since power-on (the register counts J) | 64 | R768, 18 | 0 -/
  energyMj : Nat := 0
  /-- PWR_ENERGY_HI, as latched | 32 | R768, 18 | 0 -/
  energyHi : Word := 0
  /-- PWR_THROTTLE.THERMAL | 16 | R768, 18 | 0 -/
  thrThermal : Half := 0
  /-- PWR_THROTTLE.VOLTAGE | 8 | R768, 18 | 0 -/
  thrVoltage : Byte := 0
  /-- PWR_THROTTLE.POWER | 8 | R768, 18 | 0 -/
  thrPower : Byte := 0
  /-- PWR_LIMITED.MS | 32 | R768, 18 | 0 -/
  limitedMs : Word := 0
  /-- THM_SENSOR(i) read: temperature in 1/16 °C (VALID when listed) | 63 × 16 | R768, 18 | none read -/
  temps : List (Nat × Half) := []
  /-- PWR_EN asserted | 1 | R742, 18 | DESIGN CHOICE true (log 7) -/
  pwrEn : Bool := true
  /-- PWR_GOOD released high | 1 | R743, 18 | DESIGN CHOICE true (log 7) -/
  good : Bool := true
  /-- PERST_N asserted | 1 | R745, 18 | DESIGN CHOICE false (log 7) -/
  perst : Bool := false
  /-- rails of the dies are on | 1 | R742, R756, 18 | DESIGN CHOICE true (log 7) -/
  railsOn : Bool := true
  /-- tripped: THERM_N and FATAL_N held by the input stage | 1 | R756, 18 | false -/
  tripped : Bool := false
  deriving DecidableEq, Repr

/-- IEEE 1149.1 test access port of J7 (R738). -/
inductive Tap where
  | testLogicReset | runTestIdle | selectDr | captureDr | shiftDr | exit1Dr | pauseDr | exit2Dr | updateDr
  | selectIr | captureIr | shiftIr | exit1Ir | pauseIr | exit2Ir | updateIr
  deriving DecidableEq, Repr

/-! ## Module counters -/

/-- Admission class and quotas of a VI (R657). -/
structure Quota where
  /-- class: 0 NONE, 1 RESERVED, 2 STANDARD, 3 BACKFILL | 2 | R657, 15 | 0 (R659; VI0: 1) -/
  cls : Nat
  /-- page quota | 24 | R657, 15 | 0 (R659; VI0: 8,388,608) -/
  pages : Nat
  /-- job quota | 11 | R657, 15 | 0 (R659; VI0: 1,024) -/
  jobs : Nat
  deriving DecidableEq, Repr

/-- Module-wide rc and ro counters of chapters 8 to 15. -/
structure Counters where
  /-- GEN_STEPS.COUNT | 32 | R315, 08 | 0 -/
  genSteps : Word := 0
  /-- GEN_TOKENS.COUNT | 32 | R315, 08 | 0 -/
  genTokens : Word := 0
  /-- GEN_DRAFTS.COUNT | 32 | R315, 08 | 0 -/
  genDrafts : Word := 0
  /-- GEN_ACCEPTS.COUNT | 32 | R315, 08 | 0 -/
  genAccepts : Word := 0
  /-- GEN_DISCARDS.COUNT | 16 | R315, 08 | 0 -/
  genDiscards : Half := 0
  /-- KV_ALLOCS.COUNT | 32 | R361, 09 | 0 -/
  kvAllocs : Word := 0
  /-- KV_COWS.COUNT | 32 | R361, 09 | 0 -/
  kvCows : Word := 0
  /-- KV_SPILLS.COUNT | 32 | R361, 09 | 0 -/
  kvSpills : Word := 0
  /-- KV_RESTORES.COUNT | 32 | R361, 09 | 0 -/
  kvRestores : Word := 0
  /-- KV_EXHAUSTED.COUNT | 16 | R361, 09 | 0 -/
  kvExhausted : Half := 0
  /-- KV_SHIP_PAGES.COUNT | 32 | R361, 09 | 0 -/
  kvShipPages : Word := 0
  /-- KV_SHIP_FAILS.TIMEOUT | 16 | R361, 09 | 0 -/
  kvShipTimeout : Half := 0
  /-- KV_SHIP_FAILS.CRC | 16 | R361, 09 | 0 -/
  kvShipCrc : Half := 0
  /-- LRN_FWD.COUNT | 32 | R428, 10 | 0 -/
  lrnFwd : Word := 0
  /-- LRN_BWD.COUNT | 32 | R428, 10 | 0 -/
  lrnBwd : Word := 0
  /-- LRN_UPDATES.COUNT | 32 | R428, 10 | 0 -/
  lrnUpdates : Word := 0
  /-- LRN_REFUSED.STALE | 16 | R428, 10 | 0 -/
  lrnStale : Half := 0
  /-- LRN_REFUSED.MISMATCH | 16 | R428, 10 | 0 -/
  lrnMismatch : Half := 0
  /-- LRN_STEP | 64 | R428, 10 | 0xFFFF_FFFF_FFFF_FFFF -/
  lrnStep : Dword := 0xFFFFFFFFFFFFFFFF
  /-- LRN_STEP_HI, as latched | 32 | R428, 10 | 0xFFFF_FFFF -/
  lrnStepHi : Word := 0xFFFFFFFF
  /-- phase records replaced unread since the last PHASE_TIMES_READ | 32 | R426, 10 | 0 -/
  phaseLost : Nat := 0
  /-- FSH_RECEIVED in chunks (the register counts units of 64) | count | R470, 11 | 0 -/
  fshReceived : Word := 0
  /-- chunks below one unit of FSH_RECEIVED | 0 to 63 | R470, 11 | 0 -/
  fshRest : Nat := 0
  /-- FSH_FAILS.COUNT | 16 | R470, 11 | 0 -/
  fshFails : Half := 0
  /-- FSH_FLIPS.HELD | 16 | R470, 11 | 0 -/
  fshHeld : Half := 0
  /-- FSH_FLIPS.RELEASED | 16 | R470, 11 | 0 -/
  fshReleased : Half := 0
  /-- FSH_STREAM.UNITS | 32 | R470, 11 | 0 -/
  fshStream : Word := 0
  /-- bytes below one unit of FSH_STREAM | 0 to 65535 | R470, 11 | 0 -/
  fshStreamRest : Nat := 0
  /-- FSH_STALL.COUNT | 32 | R470, 11 | 0 -/
  fshStall : Word := 0
  /-- MEM_XMISS.UNITS | 32 | R515, 12 | 0 -/
  memXmiss : Word := 0
  /-- MEM_WAIT.NS | 32 | R515, 12 | 0 -/
  memWait : Word := 0
  /-- CKPT_AHEAD.COUNT | 32 | R628, 14 | 0 -/
  ckptAhead : Word := 0
  /-- CKPT_STALL.NS | 32 | R628, 14 | 0 -/
  ckptStall : Word := 0
  /-- CKPT_COPIED.UNITS | 32 | R628, 14 | 0 -/
  ckptCopied : Word := 0
  /-- regions below one unit of CKPT_COPIED | 0 to 31 | R628, 14 | 0 -/
  ckptCopiedRest : Nat := 0
  /-- CKPT_SENT.UNITS | 32 | R628, 14 | 0 -/
  ckptSent : Word := 0
  /-- regions below one unit of CKPT_SENT | 0 to 31 | R628, 14 | 0 -/
  ckptSentRest : Nat := 0
  /-- CKPT_FAILS.VERIFY | 16 | R628, 14 | 0 -/
  ckptVerifyFails : Half := 0
  /-- CKPT_FAILS.TAKE | 16 | R628, 14 | 0 -/
  ckptTakeFails : Half := 0
  /-- JOB_SWITCHES.COUNT | 32 | R661, 15 | 0 -/
  jobSwitches : Word := 0
  /-- JOB_SWITCH_LONG.US | 32 | R661, 15 | 0 -/
  jobSwitchLong : Word := 0
  /-- JOB_PREEMPTS.BY_CLASS | 16 | R661, 15 | 0 -/
  preemptsClass : Half := 0
  /-- JOB_PREEMPTS.BY_COMMAND | 16 | R661, 15 | 0 -/
  preemptsCommand : Half := 0
  /-- JOB_REFUSALS.BACKFILL | 16 | R661, 15 | 0 -/
  refusalsBackfill : Half := 0
  /-- JOB_REFUSALS.CLASS | 16 | R661, 15 | 0 -/
  refusalsClass : Half := 0
  /-- BLK_RESETS.REPEATED | 16 | R661, 15 | 0 -/
  blkRepeated : Half := 0
  /-- BLK_RESETS.FAILED | 16 | R661, 15 | 0 -/
  blkFailed : Half := 0
  deriving DecidableEq, Repr

/-- Scheduling of jobs (R636, R646). -/
structure Sched where
  /-- JOB_RUN.MODE: 1 STEP | 1 | R646, R661, 15 | 1 -/
  stepMode : Bool := true
  /-- mode that takes effect at the end of the turn: JOB | 1 | R648, 15 | false -/
  toJobMode : Bool := false
  /-- job that holds the module, or whose turn runs | option job | R636, R661, 15 | none -/
  holder : Option Nat := none
  /-- job that is switching in behind an outgoing holder | option job | R643, 15 | none -/
  incoming : Option Nat := none
  /-- a turn of another job waits for the holder's capo point | 1 | R259, R647, 15 | false -/
  stepSwitch : Bool := false
  /-- the batch step of the turn has been taken (STEP mode) | 1 | R647, 15 | false -/
  turnTaken : Bool := false
  /-- a switch is in progress (JOB_RUN.SWITCHING) | 1 | R661, 15 | false -/
  switching : Bool := false
  /-- the admission queue: Reserved jobs ahead of Standard jobs | list of jobs | R637, 15 | empty -/
  queue : List Nat := []
  /-- started jobs in turn order (STEP mode) | list of jobs | R647, 15 | empty -/
  turns : List Nat := []
  /-- runs so far, to find the job that ran least recently | count | R634, 15 | 0 -/
  runs : Nat := 0
  deriving DecidableEq, Repr

/-! ## The state -/

/-- The module. -/
structure State where
  /-- commands that wait, first in first out | list | the model's queue of commands (log 1) | empty -/
  pending : List Instr := []
  /-- VI0 to VI4096 | table | R46, 02 | each at reset -/
  vis : Tbl Vi := []
  /-- VI that had the last turn of fetching (4096: VI0 is next) | 0 to 4096 | R57, 02 | DESIGN CHOICE 4096 (log 5) -/
  turnVi : Nat := 4096
  /-- fret time unit | block | R113, 03 | at reset -/
  ftu : Ftu := {}
  /-- cores CDd.Cc, index 17d + c | table | R192, 05 | each at reset -/
  cores : Tbl Core := []
  /-- compute dies CD0 to CD17 | table | R26, 01 | each at reset -/
  dies : Tbl Die := []
  /-- stacks S00 to S31 | table | R515, 12 | each at reset -/
  stks : Tbl Stack := []
  /-- hubs MD0 to MD7 | table | R515, 12 | each at reset -/
  hubs : Tbl Hub := []
  /-- Weir, ports and transport | block | R582, 13 | at reset -/
  fab : Fabric := {}
  /-- fault units 0 to 2,099 | table | R663, 16 | each at reset -/
  faults : Tbl FaultUnit := []
  /-- fault notice ring | block | R677, 16 | at reset -/
  ntc : Ntc := {}
  /-- block resets in progress | list | R654, 15 | empty -/
  blkRst : List BlockRst := []
  /-- flash | store | R698, 17 | the values its fields name -/
  flash : Flash := {}
  /-- boot and record registers | block | R735, 17 | at reset -/
  boot : Boot := {}
  /-- power, clock, thermal and pin state | block | R768, 18 | at reset -/
  power : Power := {}
  /-- TAP controller state of J7 | 16 states | R738, 18 | PRESUMED Test-Logic-Reset (IEEE 1149.1, log 6) -/
  tap : Tap := .testLogicReset
  /-- class and quotas of the VIs that differ from none | table | R657, R659, 15 | VI0 as R659 -/
  quotas : Tbl Quota := [(0, { cls := 1, pages := 8388608, jobs := 1024 })]
  /-- jobs of the module, by ID | list of at most 1,024 | R630, 15 | empty -/
  jobs : List Job := []
  /-- scheduling | block | R636, 15 | at reset -/
  sched : Sched := {}
  /-- commands dispatched and without a final record | list | R67, R68, 02 | empty -/
  opens : List OpenCmd := []
  /-- tiles cut and not ended, in the order of their placement | list | R263, R264, 07 | empty -/
  tiles : List Tile := []
  /-- FP32 words of commands held in core SRAM between tiles | list | R212, 06; R250, R260, 07 | empty -/
  partials : List Part := []
  /-- scratch memory of the commands in progress: results that wait for the next work (R267) | bytes | R267, 07 | empty -/
  scr : Mem := []
  /-- module-wide counters | block | R315, R361, R428, R470, R515, R628, R661 | each at reset -/
  ctr : Counters := {}
  /-- phase ring, oldest first | list of at most 4,096 | R425, 10 | empty -/
  phases : List PhaseRec := []
  /-- frames being zeroed, by frame number of device memory | list | R76, 02; R483, 12 | empty -/
  zeroing : List Nat := []
  /-- seed of the no-job streams, low half | 64 | R771, 06 | DESIGN CHOICE 0 (log 5; set at READY) -/
  noJobSeed : Dword := 0
  /-- no-job generators that have drawn, by stream index | table | R771, 06 | empty -/
  noJobGens : Tbl Gen := []
  /-- device memory: HBM, SRAM and STAGE frames by the frame number of `Home` | bytes | R24, 01; R471, 12 | DESIGN CHOICE 0 (log 4) -/
  devMem : Mem := []
  /-- host memory, the environment's | bytes | R45, 02 | DESIGN CHOICE 0 (log 4) -/
  hostMem : Mem := []
  /-- memory of other modules behind REMOTE homes, the environment's | bytes | R479, 12 | DESIGN CHOICE 0 (log 4) -/
  remMem : Mem := []
  /-- MSI-X messages sent, oldest first | list | R65, R776, 02 | empty (model's own trace, log 8) -/
  msixOut : List MsixMsg := []
  /-- value returned by the last register read | 32 | R47, 02 | DESIGN CHOICE 0 (model's own, log 8) -/
  busRead : Word := 0
  /-- TDO of J7 | 1 | R738, 18 | DESIGN CHOICE 0 (log 5) -/
  tdo : Bool := false
  /-- number of the next free value | count | the model's own (log 3) | DESIGN CHOICE 0 -/
  fresh : Nat := 0
  deriving DecidableEq, Repr

/-- The module right after a chip reset: every field at its Reset value, nothing listed (R15). -/
def State.reset : State := {}

/-- Reasons for which the machine stops with a fault. -/
inductive Fault where
  /-- Raised by a command that names a VI, queue, core, port or other unit that the module does not have (Table 2.1,
  Table 1.1): nothing of the kind can reach the module. Safe: the model stops. -/
  | noSuchUnit
  deriving DecidableEq, Repr

/-- Reasons for which the model gives a command no meaning. -/
inductive Refusal where
  /-- Raised by an arm of exec whose meaning is not written. Safe: the model stops. -/
  | notModelled (mnemonic : String)
  deriving DecidableEq, Repr

/-- What one step answers. -/
abbrev Out := Host.Outcome State Fault Refusal

end Sys2Proof.Machine
end

