-- ==== Sys2Proof/Machine/Ops.lean ====
section
/-! DEFINITION. The named operations over the state: tables, memory, registers of a VI, MSI-X messages, completion
records, event records, fault units, homes and translation. -/

namespace Sys2Proof

/-- The name of a packet among the outstanding ones. -/
def Packet.key (p : Packet) : Machine.Key := { vi := p.vi, sq := p.sq, seq := p.seq }

/-- JOB_ID of a packet. -/
def Packet.job (p : Packet) : Nat := p.jobId.toNat

end Sys2Proof

namespace Sys2Proof.Machine

open Sys2Proof

/-! ## Tables -/

/-- Entry of a table, `d` where none is listed. -/
def tget (d : α) : Tbl α → Nat → α
  | [], _ => d
  | (k, v) :: t, n => if k = n then v else tget d t n

/-- Entry of a table, if listed. -/
def tfind : Tbl α → Nat → Option α
  | [], _ => none
  | (k, v) :: t, n => if k = n then some v else tfind t n

/-- Replace or enter a table entry, keys rising. -/
def tset : Tbl α → Nat → α → Tbl α
  | [], n, v => [(n, v)]
  | (k, w) :: t, n, v => if n = k then (n, v) :: t else if n < k then (n, v) :: (k, w) :: t else (k, w) :: tset t n v

/-- Remove a table entry. -/
def terase (t : Tbl α) (n : Nat) : Tbl α := t.filter (fun e => e.1 != n)

/-- Change a table entry. -/
def tupd (d : α) (t : Tbl α) (n : Nat) (f : α → α) : Tbl α := tset t n (f (tget d t n))

/-! ## Numbers and bits -/

/-- Bits [hi:lo] of a 64-bit word. -/
def bf (x : Dword) (hi lo : Nat) : Nat := x.toNat / 2 ^ lo % 2 ^ (hi + 1 - lo)

/-- Bits [hi:lo] of a 32-bit word. -/
def bw (x : Word) (hi lo : Nat) : Nat := x.toNat / 2 ^ lo % 2 ^ (hi + 1 - lo)

/-- Bits [hi:lo] of a number. -/
def bn (x hi lo : Nat) : Nat := x / 2 ^ lo % 2 ^ (hi + 1 - lo)

/-- 1 for true. -/
def b2n (b : Bool) : Nat := if b then 1 else 0

/-- A counter that holds at its largest value (R20 and the field maps' "Holds at"). -/
def satAdd (x : BitVec w) (n : Nat) : BitVec w :=
  if x.toNat + n < 2 ^ w then BitVec.ofNat w (x.toNat + n) else BitVec.ofNat w (2 ^ w - 1)

/-- The larger of a kept longest time and a new one, holding at the field's largest value. -/
def satMax (x : BitVec w) (n : Nat) : BitVec w :=
  if n ≤ x.toNat then x else satAdd 0 n

/-- Bytes of a number, lowest first (R14: little-endian). -/
def leBytes : Nat → Nat → List Byte
  | 0, _ => []
  | k + 1, n => BitVec.ofNat 8 n :: leBytes k (n / 256)

/-- The number that bytes give, lowest first. -/
def leNat : List Byte → Nat
  | [] => 0
  | b :: t => b.toNat + 256 * leNat t

/-- Bytes [i : i + n] of a block as a number. -/
def blk (bs : List Byte) (i n : Nat) : Nat := leNat ((bs.drop i).take n)

/-- n as a two's complement number of w bits. -/
def toSigned (w n : Nat) : Int := if n < 2 ^ (w - 1) then (n : Int) else (n : Int) - (2 ^ w : Nat)

/-- CRC register after one byte, for a reflected polynomial. -/
def crcByte (poly c : Nat) (b : Byte) : Nat :=
  let rec go : Nat → Nat → Nat
    | 0, x => x
    | k + 1, x => go k (if x % 2 = 1 then Nat.xor (x / 2) poly else x / 2)
  go 8 (Nat.xor c b.toNat)

/-- CRC over bytes of a reflected polynomial: register and result inverted. -/
def crcOf (poly : Nat) (bs : List Byte) : Word :=
  BitVec.ofNat 32 (Nat.xor (bs.foldl (crcByte poly) 0xFFFFFFFF) 0xFFFFFFFF)

/-- CRC-32C over bytes: reflected polynomial 0x82F63B78 (R12, Table 0.2). -/
def crc32c (bs : List Byte) : Word := crcOf 0x82F63B78 bs

/-- CRC-32 over bytes with the polynomial of IEEE 802.3, reflected 0xEDB88320 (R522). -/
def crc32 (bs : List Byte) : Word := crcOf 0xEDB88320 bs

/-- Quotient rounded up. -/
def cdiv (a b : Nat) : Nat := (a + b - 1) / b

/-! ## Memory -/

/-- The canonical form of a memory: addresses rise and no byte 0 is listed. -/
def Mem.wf : Mem → Bool
  | [] => true
  | [c] => c.2 != 0
  | c :: d :: t => c.2 != 0 && c.1 < d.1 && Mem.wf (d :: t)

/-- The byte at an address; a byte that nothing has written reads as 0 (notes/assumptions/4.md). -/
def Mem.read : Mem → Nat → Byte
  | [], _ => 0
  | (k, b) :: t, a => if k = a then b else Mem.read t a

/-- Write one byte; writing 0 removes the entry. -/
def Mem.write : Mem → Nat → Byte → Mem
  | [], a, b => if b = 0 then [] else [(a, b)]
  | (k, c) :: t, a, b =>
    if a = k then (if b = 0 then t else (a, b) :: t)
    else if a < k then (if b = 0 then (k, c) :: t else (a, b) :: (k, c) :: t)
    else (k, c) :: Mem.write t a b

/-- n bytes from an address. -/
def Mem.readN (m : Mem) : Nat → Nat → List Byte
  | _, 0 => []
  | a, n + 1 => m.read a :: Mem.readN m (a + 1) n

/-- Write bytes from an address upward. -/
def Mem.writeN : Mem → Nat → List Byte → Mem
  | m, _, [] => m
  | m, a, b :: bs => Mem.writeN (m.write a b) (a + 1) bs

/-- Make n bytes from `a` read as zero. -/
def Mem.zero (m : Mem) (a n : Nat) : Mem := m.filter (fun c => decide (c.1 < a ∨ a + n ≤ c.1))

/-- `d` with the n bytes from `b` on replaced by the n bytes that `m` holds from `a` on. -/
def Mem.copyFrom (d : Mem) (b : Nat) (m : Mem) (a n : Nat) : Mem :=
  ((m.filter (fun c => decide (a ≤ c.1 ∧ c.1 < a + n))).map (fun c => (c.1 - a + b, c.2))).foldl
    (fun d c => Mem.write d c.1 c.2) (d.zero b n)

/-! ## Keys, VIs, queues -/

/-- Virtual interface n. -/
def State.vi (s : State) (n : Nat) : Vi := tget {} s.vis n

/-- Change a VI. -/
def State.updVi (s : State) (n : Nat) (f : Vi → Vi) : State := { s with vis := tset s.vis n (f (s.vi n)) }

/-- Submission queue q of a VI. -/
def Vi.sq (v : Vi) (q : Nat) : Sq := tget {} v.sqs q

/-- Completion queue q of a VI. -/
def Vi.cq (v : Vi) (q : Nat) : Cq := tget {} v.cqs q

/-- MSI-X table entry of a VI. -/
def Vi.vec (v : Vi) (k : Nat) : MsixEntry := tget {} v.msix k

/-- Change a submission queue. -/
def State.updSq (s : State) (n q : Nat) (f : Sq → Sq) : State :=
  s.updVi n fun v => { v with sqs := tset v.sqs q (f (v.sq q)) }

/-- Change a completion queue. -/
def State.updCq (s : State) (n q : Nat) (f : Cq → Cq) : State :=
  s.updVi n fun v => { v with cqs := tset v.cqs q (f (v.cq q)) }

/-- The module is READY (Table 17.3). -/
def State.ready (s : State) : Bool := s.boot.state == 4

/-- The module is FAILED (Table 17.3). -/
def State.failed (s : State) : Bool := s.boot.state == 5

/-- A VI is enabled: VI0 always, a VF when SR-IOV enables it (R43, R48); none while the dies are off (R742). -/
def State.viOn (s : State) (n : Nat) : Bool :=
  s.power.railsOn && (n == 0 || s.boot.vfEn && decide (n ≤ s.boot.numVfs) && decide (n ≤ 4096))

/-- VI_STATUS.READY (R48, R74). -/
def State.viReady (s : State) (n : Nat) : Bool := s.ready && s.viOn n && !(s.vi n).resetBusy

/-! ## Jobs and opens -/

/-- The job with an ID. -/
def State.job? (s : State) (id : Nat) : Option Job := s.jobs.find? (fun j => j.id == id)

/-- Change a job. -/
def State.updJob (s : State) (id : Nat) (f : Job → Job) : State :=
  { s with jobs := s.jobs.map fun j => if j.id = id then f j else j }

/-- Admission class and quotas of a VI (R657, R659). -/
def State.quota (s : State) (n : Nat) : Quota := tget { cls := 0, pages := 0, jobs := 0 } s.quotas n

/-- The open command of a key. -/
def State.open? (s : State) (k : Key) : Option OpenCmd := s.opens.find? (fun o => o.pkt.key == k)

/-- Enter a command in progress. -/
def State.openCmd (s : State) (p : Packet) (g : Progress) : State :=
  { s with opens := s.opens ++ [{ pkt := p, prog := g }] }

/-- Set how far a command in progress has come. -/
def State.setProg (s : State) (k : Key) (g : Progress) : State :=
  { s with opens := s.opens.map fun o => if o.pkt.key = k then { o with prog := g } else o }

/-- Take a command out of those in progress. Two outstanding packets with one SEQ in one SQ share a key (R84,
notes/assumptions/102.md). -/
def State.closeCmd (s : State) (k : Key) : State :=
  { s with opens := s.opens.filter fun o => o.pkt.key != k }

/-- Keys of the packets of a VI whose final record is due and not written: their CQ is full or disabled (R63). -/
def State.heldFinals (s : State) (n : Nat) : List Key :=
  (s.vi n).cqs.flatMap fun e => (e.2.held.filter fun r => !r.interim).map (·.key)

/-- Keys of the packets of a VI that are dispatched and lack their final record: held in a job's command list, in
progress, or ended with a record that is not written yet (R68). -/
def State.dispatched (s : State) (n : Nat) : List Key :=
  (s.jobs.flatMap fun j => (j.cmdList.filter fun p => p.vi == n).map Packet.key)
  ++ ((s.opens.filter fun o => o.pkt.vi == n).map fun o => o.pkt.key)
  ++ s.heldFinals n

/-- Keys of the packets of a VI that lack their final record, with the packet's SQ: fetched, waiting, held in a job's
command list, or in progress (R53, R68). -/
def State.outstanding (s : State) (n : Nat) : List Key :=
  ((s.vi n).sqs.flatMap fun e => (e.2.fetched ++ e.2.waiting).map Packet.key)
  ++ s.dispatched n

/-- SQ_CFG.IDLE (R49): EN is 0 and no fetched packet of the SQ lacks its final record. -/
def State.sqIdle (s : State) (n q : Nat) : Bool :=
  !((s.vi n).sq q).en && !((s.outstanding n).any fun k => k.sq == q)

/-! ## MSI-X (R65, R776) -/

/-- Routing ID of a VI: function n of those that follow VI0 on its bus, with VF offset and stride 1 (R43 to R45). -/
def State.routingId (s : State) (n : Nat) : Nat := (s.boot.bus + n / 256) * 256 + n % 256

/-- Send, hold or drop an MSI-X message of a VI, as PCIe defines it: sent when MSI-X is enabled and neither the function
nor the entry is masked; a pending bit when masked; not sent while MSI-X is disabled. Before READY none is raised (R704); in
FAILED the VI whose packets are fetched has its own (R707). -/
def raiseVec (n k : Nat) (s : State) : State :=
  let v := s.vi n
  let e := v.vec k
  if !(s.ready || (s.failed && n == 0)) || !v.msixEn || v.resetBusy then s
  else if v.funcMask || e.mask then
    s.updVi n fun v => { v with msix := tset v.msix k { e with pending := true } }
  else { s with msixOut := s.msixOut ++ [{ rid := s.routingId n, vi := n, vec := k, addr := e.addr, data := e.data }] }

/-- Send the messages held as pending bits whose mask has gone (R776). -/
def sendPending (n : Nat) (s : State) : State :=
  [0, 1, 2, 3].foldl (fun s k =>
    let v := s.vi n
    let e := v.vec k
    if e.pending && v.msixEn && !v.funcMask && !e.mask then
      raiseVec n k (s.updVi n fun v => { v with msix := tset v.msix k { e with pending := false } })
    else s) s

/-! ## Event records (R728 to R731) -/

/-- The 28 bytes of an event record before CHECK, and CHECK (Table 17.13). -/
def evBytes (e : EvRec) : List Byte :=
  let b := leBytes 2 e.code.toNat ++ leBytes 2 e.source.toNat ++ leBytes 4 e.cycles.toNat ++ leBytes 4 e.hours.toNat
    ++ leBytes 4 e.seconds.toNat ++ leBytes 4 e.p0.toNat ++ leBytes 4 e.p1.toNat ++ leBytes 4 e.p2.toNat
  b ++ leBytes 4 (crc32c b).toNat

/-- A record waits for the flash, or is dropped and counted when 256 wait (R730). After EVREC_FULL none is
written (R731). -/
def evrec (code source : Nat) (a b c : Nat) (s : State) : State :=
  let e : EvRec :=
    { code := BitVec.ofNat 16 code, source := BitVec.ofNat 16 source, cycles := s.boot.cycles
      hours := s.boot.hours, seconds := s.boot.seconds, p0 := BitVec.ofNat 32 a, p1 := BitVec.ofNat 32 b
      p2 := BitVec.ofNat 32 c }
  if s.boot.evFull then s
  else if 256 ≤ s.boot.evQueue.length then
    { s with boot := { s.boot with evLost := satAdd s.boot.evLost 1, evLostNew := s.boot.evLostNew + 1 } }
  else { s with boot := { s.boot with evQueue := s.boot.evQueue ++ [e] } }

/-- A hint half with room: a full one gives way to the other, into which the hints in force are rewritten (R710, Table 17.1). -/
def Flash.withHintRoom (f : Flash) : Flash :=
  if f.hintsUsed < 131072 then f else { f with hintB := !f.hintB, hintsUsed := f.hints.length }

/-- Append a repair hint to the flash (R710). -/
def addHint (kind : Nat) (location detail : Nat) (s : State) : State :=
  let f := s.flash.withHintRoom
  { s with flash := { f with
      hints := f.hints ++ [{ kind := BitVec.ofNat 8 kind, passes := 0, location := BitVec.ofNat 32 location
                             detail := BitVec.ofNat 32 detail }]
      hintsUsed := f.hintsUsed + 1 } }

/-! ## Cores and dies -/

/-- Index of core CDd.Cc. -/
def coreIx (d c : Nat) : Nat := 17 * d + c

/-- Core CDd.Cc. -/
def State.core (s : State) (d c : Nat) : Core := tget {} s.cores (coreIx d c)

/-- Change a core. -/
def State.updCore (s : State) (d c : Nat) (f : Core → Core) : State :=
  { s with cores := tset s.cores (coreIx d c) (f (s.core d c)) }

/-- Compute die CDd. -/
def State.die (s : State) (d : Nat) : Die := tget {} s.dies d

/-- Change a compute die. -/
def State.updDie (s : State) (d : Nat) (f : Die → Die) : State := { s with dies := tset s.dies d (f (s.die d)) }

/-- Stack S(k). -/
def State.stk (s : State) (k : Nat) : Stack := tget {} s.stks k

/-- Change a stack. -/
def State.updStk (s : State) (k : Nat) (f : Stack → Stack) : State := { s with stks := tset s.stks k (f (s.stk k)) }

/-- Hub MD(h). -/
def State.hub (s : State) (h : Nat) : Hub := tget {} s.hubs h

/-- Change a hub. -/
def State.updHub (s : State) (h : Nat) (f : Hub → Hub) : State := { s with hubs := tset s.hubs h (f (s.hub h)) }

/-- Port P(p). -/
def State.port (s : State) (p : Nat) : Port := tget {} s.fab.ports p

/-- Change a port. -/
def State.updPort (s : State) (p : Nat) (f : Port → Port) : State :=
  { s with fab := { s.fab with ports := tset s.fab.ports p (f (s.port p)) } }

/-- The active compute dies, ascending (Table 1.2, R26). -/
def State.activeDies (s : State) : List Nat := (List.range 18).filter fun d => (s.die d).role == 1

/-- ROLE of a core's arrays: 0 active, 1 standby, 2 removed, 3 not assigned (R192). -/
def State.role (s : State) (d c : Nat) : Nat := (s.core d c).a.role.toNat

/-- The active cores of a die, ascending. -/
def State.activeCoresOf (s : State) (d : Nat) : List Nat := (List.range 17).filter fun c => s.role d c == 0

/-- Ring position of a compute die (R262). -/
def ringPos (d : Nat) : Nat := if d = 16 then 1 else if d = 17 then 5 else d / 2

/-- The active cores of a die by their order: a standby that stands in for a withdrawn core counts as that core (R265). -/
def State.coresOf (s : State) (d : Nat) : List Nat :=
  let on := s.activeCoresOf d
  let b := (s.die d).standby
  let f := (s.die d).standFor.toNat
  if f ≠ 0x1F ∧ on.contains b then
    ((on.filter (· != b)).filter (· < f)) ++ [f] ++ ((on.filter (· != b)).filter (f < ·))
  else on

/-- The core that runs the tiles of a place in the order: the standby while it stands in for it (R265). -/
def State.physOf (s : State) (d c : Nat) : Nat :=
  if (s.die d).standFor.toNat = c ∧ c ≠ 0x1F then (s.die d).standby else c

/-- The core order of the module (R262), as the cores that run the tiles. -/
def State.coreOrder (s : State) : List (Nat × Nat) :=
  (List.range 8).flatMap fun k =>
    (s.activeDies.filter fun d => ringPos d == k).flatMap fun d => (s.coresOf d).map fun c => (d, s.physOf d c)

/-- Set ROLE of both arrays of a core. -/
def setRole (r : BitVec 2) (k : Core) : Core := { k with a := { k.a with role := r }, b := { k.b with role := r } }

/-- The stacks in service (STK_STATUS.STATE 1 or 3), ascending (R500, R515). -/
def State.inService (s : State) (k : Nat) : Bool := (s.stk k).state == 1 || (s.stk k).state == 3

/-! ## Homes and frames (R471 to R481) -/

/-- 2 MiB. -/
abbrev pageSize : Nat := 2097152

/-- The spaces an address lies in: those of the homes, and the scratch memory of the commands in progress. -/
inductive Space where
  | dev | host | rem | scr
  deriving DecidableEq, Repr

/-- First byte of a home in its space: HBM frames, then SRAM, then stage buffers, from the design of `State.devMem`. -/
def Home.base : Home → Space × Nat
  | .hbm k f => (.dev, (k * 32768 + f) * pageSize)
  | .sram d c i => (.dev, 2 ^ 42 + ((17 * d + c) * 4 + i) * pageSize)
  | .stage h i => (.dev, 2 ^ 43 + (64 * h + i) * pageSize)
  | .host a => (.host, a)
  | .remote m a => (.rem, m * 2 ^ 52 + a)

/-- A frame of device memory, by number (`Home.base` / 2 MiB). -/
def Home.frame (h : Home) : Option Nat :=
  match h.base with
  | (.dev, a) => some (a / pageSize)
  | _ => none

/-- Memory of a space. -/
def State.space (s : State) : Space → Mem
  | .dev => s.devMem
  | .host => s.hostMem
  | .rem => s.remMem
  | .scr => s.scr

/-- Replace the memory of a space. -/
def State.setSpace (s : State) (x : Space) (m : Mem) : State :=
  match x with
  | .dev => { s with devMem := m }
  | .host => { s with hostMem := m }
  | .rem => { s with remMem := m }
  | .scr => { s with scr := m }

/-- Copy n bytes from a place in one space to a place in another or the same. -/
def State.copySpan (s : State) (src dst : Space × Nat) (n : Nat) : State :=
  s.setSpace dst.1 ((s.space dst.1).copyFrom dst.2 (s.space src.1) src.2 n)

/-- Every home in use: mapped pages, targets of pages in motion, reserved targets of MIGRATEs, context areas. -/
def State.usedHomes (s : State) : List Home :=
  (s.vis.flatMap fun v => v.2.pages.flatMap fun e =>
    (if e.2.saved.isSome then [] else [e.2.home]) ++ (match e.2.move with | some m => [m.target] | none => []))
  ++ (s.opens.flatMap fun o => match o.prog with | .migrate todo _ _ _ => todo.map (·.2) | _ => [])
  ++ (s.jobs.flatMap fun j => j.ctxFrames)

/-- 2 MiB frames of a stack's oxbow region (Table 12.12, STK_STATUS.OXBOW). -/
def oxbowFrames (code : BitVec 3) : Nat :=
  match code.toNat with
  | 1 => 2048
  | 2 => 4096
  | 3 => 8192
  | 4 => 16384
  | _ => 0

/-- Frames for homes in a stack: all but the firmware reserve of 128 frames and the oxbow region (Table 12.1). -/
def State.homeFrames (s : State) (k : Nat) : Nat := 32640 - oxbowFrames (s.stk k).oxbow

/-- A home is free to be given out: in no use, not being zeroed, not retired (R473, R76, R505). -/
def State.homeFree (s : State) (h : Home) : Bool :=
  !(s.usedHomes.contains h)
  && (match h.frame with | some f => !(s.zeroing.contains f) | none => true)
  && (match h with | .hbm k f => !((s.stk k).retired.contains f) | _ => true)

/-- An SRAM or stage frame is free for pages of an owner: free, and no page of the same owner, nor of a VI itself, has
it as the frame it returns to (R477). -/
def State.frameFree (s : State) (owner : Nat) (h : Home) : Bool :=
  s.homeFree h && s.vis.all fun v => v.2.pages.all fun e =>
    e.2.home != h || (e.2.saved.isSome && e.2.job != owner && e.2.job != 0xFFFF && owner != 0xFFFF)

/-- First free index of a kind of home from `i` on, looking at `n` indices. -/
def firstFree (ok : Nat → Bool) : Nat → Nat → Option Nat
  | 0, _ => none
  | n + 1, i => if ok i then some i else firstFree ok n (i + 1)

/-- The lowest free frame of a stack, outside a list of frames already chosen. Which free frame is given out is the
model's choice (notes/assumptions/9.md). -/
def State.freeHbm (s : State) (k : Nat) (taken : List Home) : Option Home :=
  if !(s.inService k) then none
  else (firstFree (fun f => s.homeFree (.hbm k f) && !(taken.contains (.hbm k f))) (s.homeFrames k) 0).map (Home.hbm k)

/-- Up to `need` free frames of a stack, from frame `f` on. -/
def State.pickHbm (s : State) (k : Nat) : Nat → Nat → Nat → List Home
  | 0, _, _ => []
  | n + 1, f, need =>
    if need = 0 then []
    else if s.homeFree (.hbm k f) then .hbm k f :: s.pickHbm k n (f + 1) (need - 1)
    else s.pickHbm k n (f + 1) need

/-- Up to `need` free HBM frames, stacks in ascending order. -/
def State.pickFrames (s : State) : List Nat → Nat → List Home
  | [], _ => []
  | k :: ks, need =>
    let l := if s.inService k then s.pickHbm k (s.homeFrames k) 0 need else []
    l ++ s.pickFrames ks (need - l.length)

/-- Free HBM frames of a stack (MEM_FREE). -/
def State.freeOf (s : State) (k : Nat) : Nat :=
  if !(s.inService k) then 0
  else s.homeFrames k
    - ((s.usedHomes.filter fun h => match h with | .hbm k' _ => k' == k | _ => false).length
       + (s.zeroing.filter fun f => f / 32768 == k).length
       + ((s.stk k).retired.filter fun f =>
            decide (f < s.homeFrames k) && !(s.zeroing.contains (k * 32768 + f))).length)

/-- MEM_FREE.FRAMES (R515). -/
def State.memFree (s : State) : Nat := ((List.range 32).map s.freeOf).sum

/-- Pages mapped over all VIs, context areas counted (R474, R631; MEM_MAPPED). -/
def State.mapped (s : State) : Nat :=
  (s.vis.map fun v => v.2.pages.length).sum + (s.jobs.map fun j => ctxOf j).sum
where
  /-- Frames of a job's context area, wherever it lies (R631). -/
  ctxOf (j : Job) : Nat := j.ctxFrames.length

/-- Pages that count against a VI's quota (R474, R631). -/
def State.quotaUse (s : State) (n : Nat) : Nat :=
  (s.vi n).pages.length + ((s.jobs.filter fun j => j.vi == n).map fun j => j.ctxFrames.length).sum

/-- A frame is released: it is zeroed, and stays unusable until FRAME_ZEROED (R76, R483). Other homes just end. -/
def releaseHome (h : Home) (s : State) : State :=
  match h.base with
  | (.dev, a) =>
    let s1 := { s with devMem := s.devMem.zero a pageSize, zeroing := s.zeroing ++ [a / pageSize] }
    (match h with
     | .hbm k f =>
       if (s1.stk k).retireNext.contains f then
         evrec 0x0014 0xFFFF k f 1 (addHint 6 (k + 256 * f) 0 (s1.updStk k fun x => { x with
           retireNext := x.retireNext.filter (· != f), retired := x.retired ++ [f],
           retiredCount := satAdd x.retiredCount 1 }))
       else s1
     | _ => s1)
  | _ => s

/-! ## Translation and access (R82, R471, R472, R506 to R509) -/

/-- Why an access failed, with the device virtual address concerned. -/
inductive MemErr where
  | notMapped (va : Nat)
  | ue (va : Nat)
  | parity (va : Nat)
  deriving DecidableEq, Repr

/-- The mapping of the page that holds a virtual address. Page 0 is never mapped; an address at or above 2^52 fails
(R472). -/
def State.mapping (s : State) (n va : Nat) : Option Mapping :=
  if va < pageSize ∨ 2 ^ 52 ≤ va then none else tfind (s.vi n).pages (va / pageSize)

/-- The one home a page has now: its saved copy while its job is switched out (R477). -/
def Mapping.now (m : Mapping) : Home := m.saved.getD m.home

/-- The number under which the module's works name the scratch memory; no function has it. -/
abbrev scratchVi : Nat := 4097

/-- First byte of a command's part of the scratch memory, of 2^60 bytes. -/
def Key.scratch (k : Key) : Nat := ((k.vi * 8 + k.sq) * 2 ^ 32 + k.seq.toNat) * 2 ^ 60

/-- Translate a virtual address of a VI, or an address of the scratch memory. -/
def State.xlate (s : State) (n va : Nat) : Option (Space × Nat) :=
  if n = scratchVi then some (.scr, va)
  else (s.mapping n va).map fun m => (m.now.base.1, m.now.base.2 + va % pageSize)

/-- A burst of a stack, by frame and index in the frame, that holds a byte of device memory. -/
def burstOf (x : Space × Nat) : Option (Nat × Nat × Nat) :=
  if x.1 = .dev ∧ x.2 < 2 ^ 42 then some (x.2 / pageSize / 32768, x.2 / pageSize % 32768, x.2 % pageSize / 64) else none

/-- Fault of the burst that holds a byte: uncorrectable (R508) or wrong parity (R509). -/
def State.burstErr (s : State) (x : Space × Nat) (va : Nat) : Option MemErr :=
  match burstOf x with
  | none => none
  | some (k, f, b) =>
    if (s.stk k).ueBursts.contains (f, b) then some (.ue (va / 64 * 64))
    else if (s.stk k).badParity.contains (f, b) then some (.parity (va / 64 * 64))
    else none

/-- Read one byte of a VI's range. -/
def vread1 (n va : Nat) (s : State) : Except MemErr Byte :=
  match s.xlate n va with
  | none => .error (.notMapped va)
  | some x =>
    match s.burstErr x va with
    | some e => .error e
    | none => .ok ((s.space x.1).read x.2)

/-- Read bytes of a VI's range. -/
def vread (n : Nat) (s : State) : Nat → Nat → Except MemErr (List Byte)
  | _, 0 => .ok []
  | va, k + 1 =>
    match vread1 n va s with
    | .error e => .error e
    | .ok b =>
      match vread n s (va + 1) k with
      | .error e => .error e
      | .ok bs => .ok (b :: bs)

/-- Writing a whole burst replaces what its storage held, so the burst is good again (R513 note). -/
def healBurst (x : Space × Nat) (s : State) : State :=
  match burstOf x with
  | none => s
  | some (k, f, b) =>
    if (s.stk k).ueBursts.contains (f, b) || (s.stk k).badParity.contains (f, b) then
      s.updStk k fun t => { t with ueBursts := t.ueBursts.filter (· != (f, b)),
                                   badParity := t.badParity.filter (· != (f, b)) }
    else s

/-- A covered region lands in its slot (R593): the bytes of its page's present home. -/
def copyRegion (n page off : Nat) (s : State) (j : Job) (c : Ckpt) : State :=
  match c.slots.find? fun e => e.1 == page with
  | none => s
  | some (_, k, f) =>
    match s.mapping n (page * pageSize) with
    | none => s
    | some m =>
      let src := (m.now.base.1, m.now.base.2 + off * 65536)
      (s.copySpan src (.dev, (k * 32768 + f) * pageSize + off * 65536) 65536).updJob j.id fun j =>
        { j with ckpts := j.ckpts.map fun x =>
            if x.id = c.id then { x with todo := x.todo.filter (· != page * 32 + off) } else x }

/-- The copy-ahead of R594: a checkpoint that has fixed its freeze point and not copied the region of an address keeps
the region's bytes as they stand before the write. -/
def copyAhead1 (n page off : Nat) (s : State) (j : Job) (c : Ckpt) : State :=
  let s1 := copyRegion n page off s j c
  { s1 with ctr := { s1.ctr with ckptAhead := satAdd s1.ctr.ckptAhead 1 } }

/-- Copy ahead of a write for every checkpoint that covers the region (R594). -/
def copyAhead (n va : Nat) (s : State) : State :=
  let r := va / 65536
  s.jobs.foldl (fun s j =>
    if j.vi = n then
      j.ckpts.foldl (fun s c => if c.todo.contains r then copyAhead1 n (r / 32) (r % 32) s j c else s) s
    else s) s

/-- Write one byte of a VI's range; an unmapped address changes nothing. -/
def vwrite1 (n va : Nat) (b : Byte) (s : State) : State :=
  match s.xlate n va with
  | none => s
  | some x => s.setSpace x.1 ((s.space x.1).write x.2 b)

/-- Write bytes of a VI's range upward from an address. -/
def vwriteRaw (n : Nat) : Nat → List Byte → State → State
  | _, [], s => s
  | va, b :: bs, s => vwriteRaw n (va + 1) bs (vwrite1 n va b s)

/-- Every multiple of `g` in [va, va + len), and va itself. -/
def granules (g va len : Nat) : List Nat :=
  if len = 0 then [] else (List.range ((va + len - 1) / g + 1 - va / g)).map fun i => (va / g + i) * g

/-- First byte of a range that no page maps. -/
def State.firstUnmapped (s : State) (n va len : Nat) : Option Nat :=
  if n = scratchVi then none
  else ((granules pageSize va len).find? fun a => (s.mapping n a).isNone).map fun a => max a va

/-- Write bytes of a VI's range: regions of a pending checkpoint are copied ahead first (R594), whole bursts written are
good again. The bytes before the first unmapped page are written (R82). -/
def vwrite (n va : Nat) (bs : List Byte) (s : State) : State :=
  let s1 := (granules 65536 va bs.length).foldl (fun s a => copyAhead n a s) s
  let s2 := (granules 64 va bs.length).foldl (fun s a =>
    if va ≤ a ∧ a + 64 ≤ va + bs.length then
      match s.xlate n a with | some x => healBurst x s | none => s
    else s) s1
  match s.firstUnmapped n va bs.length with
  | none => vwriteRaw n va bs s2
  | some u => vwriteRaw n va (bs.take (u - va)) s2

/-- Write a command's bytes and go on, or end the command where the range is not mapped (R82). -/
def vstore (p : Packet) (va : Nat) (bs : List Byte) (s : State) : State × Option MemErr :=
  (vwrite p.vi va bs s, (s.firstUnmapped p.vi va bs.length).map MemErr.notMapped)

/-! ## Structures that firmware keeps in a VI's memory -/

/-- Bytes of a VI's range as firmware reads its own structures. -/
def State.peek (s : State) (n a k : Nat) : List Byte :=
  (List.range k).map fun i => match s.xlate n (a + i) with | some x => (s.space x.1).read x.2 | none => 0

/-- A field of such a structure. -/
def State.rd (s : State) (n a k : Nat) : Nat := leNat (s.peek n a k)

/-- Write a field of such a structure. -/
def wr (n a k v : Nat) (s : State) : State := vwrite n a (leBytes k v) s

/-! ## KV page pools: geometry (R317, R321) -/

/-- No page. -/
def noPage : Nat := 0xFFFFFF

/-- Tokens per page of a PT_CODE. -/
def ptOf (code : Nat) : Nat := 16 * 2 ^ code

/-- Element size of a KV format. -/
def kvSize (fmt : Nat) : Nat := if fmt = 0x02 ∨ fmt = 0x03 then 2 else 1

/-- FMT_K and FMT_V that a pool may have (R318). -/
def kvFmt (fmt : Nat) : Bool := decide (2 ≤ fmt ∧ fmt ≤ 5)

/-- Page stride (R317). -/
def kvStride (pt layers heads dim fk fv : Nat) : Nat :=
  cdiv (layers * (pt * (heads * dim) * kvSize fk + pt * (heads * dim) * kvSize fv)) 4096 * 4096

/-- TABLE_BYTES (R321). -/
def tableBytes (maxPos pt : Nat) : Nat := cdiv (64 + 8 * cdiv maxPos pt) 64 * 64

/-- A pool of a job. -/
def State.pool? (s : State) (id k : Nat) : Option Pool := (s.job? id).bind fun j => j.pools.find? fun q => q.id == k

/-- Change a pool. -/
def State.updPool (s : State) (id k : Nat) (f : Pool → Pool) : State :=
  s.updJob id fun j => { j with pools := j.pools.map fun q => if q.id = k then f q else q }

/-! ## The structures at META (R327 to R329) -/

/-- A field of the control block. -/
def State.cb (s : State) (n : Nat) (q : Pool) (off k : Nat) : Nat := s.rd n (q.metaVa + off) k

/-- Set a field of the control block. -/
def setCb (n : Nat) (q : Pool) (off k v : Nat) (s : State) : State := wr n (q.metaVa + off) k v s

/-- PT of a pool. -/
def State.kvPt (s : State) (n : Nat) (q : Pool) : Nat := ptOf (s.cb n q 0 1)
/-- STRIDE. -/
def State.kvStr (s : State) (n : Nat) (q : Pool) : Nat := s.cb n q 12 4
/-- FREE. -/
def State.kvFree (s : State) (n : Nat) (q : Pool) : Nat := s.cb n q 32 4
/-- TABLES. -/
def State.kvTables (s : State) (n : Nat) (q : Pool) : Nat := s.cb n q 20 4
/-- MAX_POS. -/
def State.kvMaxPos (s : State) (n : Nat) (q : Pool) : Nat := s.cb n q 28 4
/-- HELD. -/
def State.kvHeld (s : State) (n : Nat) (q : Pool) : Nat := s.cb n q 48 4

/-- Raise a 64-bit counter of the control block. -/
def bumpCb (n : Nat) (q : Pool) (off v : Nat) (s : State) : State := setCb n q off 8 (s.cb n q off 8 + v) s

/-- Address of a page descriptor. -/
def descVa (q : Pool) (page : Nat) : Nat := q.metaVa + 256 + 8 * page

/-- A page descriptor (Table 9.4). -/
def State.desc (s : State) (n : Nat) (q : Pool) (page : Nat) : Nat := s.rd n (descVa q page) 8

/-- REF of a page. -/
def State.pageRef (s : State) (n : Nat) (q : Pool) (page : Nat) : Nat := s.desc n q page % 256
/-- PIN of a page. -/
def State.pagePin (s : State) (n : Nat) (q : Pool) (page : Nat) : Nat := s.desc n q page / 256 % 256
/-- NEXT of a page. -/
def State.pageNext (s : State) (n : Nat) (q : Pool) (page : Nat) : Nat := bn (s.desc n q page) 47 24

/-- Write a descriptor. -/
def setDesc (n : Nat) (q : Pool) (page next state pin ref : Nat) (s : State) : State :=
  wr n (descVa q page) 8 (next * 2 ^ 24 + state * 2 ^ 16 + pin * 256 + ref) s

/-- Address of a page table. -/
def State.tblVa (s : State) (n : Nat) (q : Pool) (t : Nat) : Nat :=
  q.metaVa + 256 + 8 * s.cb n q 16 4 + t * s.cb n q 24 4

/-- A field of a table header (Table 9.5). -/
def State.th (s : State) (n : Nat) (q : Pool) (t off k : Nat) : Nat := s.rd n (s.tblVa n q t + off) k

/-- Set a field of a table header. -/
def setTh (n : Nat) (q : Pool) (t off k v : Nat) (s : State) : State := wr n (s.tblVa n q t + off) k v s

/-- Entry j of a table (Table 9.6). -/
def State.te (s : State) (n : Nat) (q : Pool) (t j : Nat) : Nat := s.rd n (s.tblVa n q t + 64 + 8 * j) 8

/-- Write an entry. -/
def setTe (n : Nat) (q : Pool) (t j v : Nat) (s : State) : State := wr n (s.tblVa n q t + 64 + 8 * j) 8 v s

/-- VALID of an entry. -/
def teValid (e : Nat) : Bool := e.testBit 24
/-- SPILLED of an entry. -/
def teSpilled (e : Nat) : Bool := e.testBit 25
/-- PAGE_ID of an entry. -/
def tePage (e : Nat) : Nat := e % 2 ^ 24
/-- An entry that lists a page. -/
def teList (page : Nat) : Nat := 2 ^ 24 + page

/-- USED of a table. -/
def State.used (s : State) (n : Nat) (q : Pool) (t : Nat) : Nat := s.th n q t 4 4

/-- USED after entries changed: the highest valid or spilled entry plus one. -/
def fixUsed (n : Nat) (q : Pool) (t bound : Nat) (s : State) : State :=
  let live := (List.range bound).filter fun j => let e := s.te n q t j; teValid e || teSpilled e
  setTh n q t 4 4 (match live.getLast? with | some j => j + 1 | none => 0) s

/-- Entries of a table that list pages, with their pages, ascending. -/
def State.listed (s : State) (n : Nat) (q : Pool) (t : Nat) : List (Nat × Nat) :=
  (List.range (s.used n q t)).filterMap fun j =>
    let e := s.te n q t j
    if teValid e then some (j, tePage e) else none

/-! ## REF and PIN (R336 to R341) -/

/-- A page enters the tail of the free list (R338). -/
def pushFree (n : Nat) (q : Pool) (page : Nat) (s : State) : State :=
  let tail := s.cb n q 40 4
  let s1 := setDesc n q page noPage 0 0 0 s
  let s2 := if s.kvFree n q = 0 then setCb n q 36 4 page s1
    else wr n (descVa q tail) 8 (s1.desc n q tail % 2 ^ 24 + page * 2 ^ 24) s1
  setCb n q 40 4 page (setCb n q 32 4 (s.kvFree n q + 1) s2)

/-- A page is allocated from the head of the free list with REF 1 (R339). -/
def allocPage (n : Nat) (q : Pool) (s : State) : Option (Nat × State) :=
  let free := s.kvFree n q
  if free = 0 then none
  else
    let page := s.cb n q 36 4
    let next := s.pageNext n q page
    let s1 := setDesc n q page next 1 0 1 s
    let s2 := setCb n q 36 4 (if free = 1 then noPage else next) (setCb n q 32 4 (free - 1) s1)
    let s3 := if free = 1 then setCb n q 40 4 noPage s2 else s2
    some (page, bumpCb n q 72 1 { s3 with ctr := { s3.ctr with kvAllocs := satAdd s3.ctr.kvAllocs 1 } })

/-- A reference is dropped; a page without references returns, or retires while it is pinned (R338). -/
def dropRef (n : Nat) (q : Pool) (page : Nat) (s : State) : State :=
  let ref := s.pageRef n q page
  let pin := s.pagePin n q page
  if 1 < ref then setDesc n q page (s.pageNext n q page) 1 pin (ref - 1) s
  else if pin = 0 then pushFree n q page s
  else setCb n q 44 4 (s.cb n q 44 4 + 1) (setDesc n q page (s.pageNext n q page) 2 pin 0 s)

/-- A reference is taken. -/
def takeRef (n : Nat) (q : Pool) (page : Nat) (s : State) : State :=
  setDesc n q page (s.pageNext n q page) 1 (s.pagePin n q page) (s.pageRef n q page + 1) s

/-- A page is pinned. -/
def pinPage (n : Nat) (q : Pool) (page : Nat) (s : State) : State :=
  setDesc n q page (s.pageNext n q page) (bn (s.desc n q page) 17 16) (s.pagePin n q page + 1) (s.pageRef n q page) s

/-- A pin is dropped; a retiring page without pins returns (R338). -/
def unpinPage (n : Nat) (q : Pool) (page : Nat) (s : State) : State :=
  let ref := s.pageRef n q page
  let pin := s.pagePin n q page
  if pin = 1 ∧ ref = 0 then pushFree n q page (setCb n q 44 4 (s.cb n q 44 4 - 1) s)
  else setDesc n q page (s.pageNext n q page) (bn (s.desc n q page) 17 16) (pin - 1) ref s

/-- Every page of a list takes one more pin (R341). -/
def State.pinnable (s : State) (n : Nat) (q : Pool) (l : List Nat) : Bool :=
  l.all fun page => decide (s.pagePin n q page < 255)

/-! ## Free values (notes/assumptions/3.md) -/

/-- The next free value. -/
def State.freeVal (s : State) : Dword := Config.freeVal s.fresh

/-- Step to the next free value. -/
def State.nextFree (s : State) : State := { s with fresh := s.fresh + 1 }

/-- n free bytes. -/
def State.freeBytes (s : State) (n : Nat) : List Byte := (List.range n).map (Config.freeByte s.fresh)

/-! ## Settings in force (R718) -/

/-- A setting in force, if some layer names it (Table 17.8). -/
def State.setting (s : State) (group item : Nat) : Option (List Byte) :=
  (s.boot.settings.find? fun e => e.1 == group && e.2.1 == item).map fun e => e.2.2

/-- The module ID (Table 17.8, group 0x06): 0 at manufacture. -/
def State.moduleId (s : State) : Nat := ((s.setting 6 0).map leNat).getD 0

/-! ## Closing a phase window (R420 to R425) -/

/-- Add a record to the phase ring; a new record replaces the oldest (R425). -/
def pushPhase (r : PhaseRec) (s : State) : State :=
  if s.phases.length < 4096 then { s with phases := s.phases ++ [r] }
  else
    let lost := match s.phases with | o :: _ => b2n (!o.read) | [] => 0
    { s with phases := s.phases.tail ++ [r], ctr := { s.ctr with phaseLost := s.ctr.phaseLost + lost } }

/-- Step of a window (R421). -/
def Window.stepOf (w : Window) : Dword := w.step.getD 0xFFFFFFFFFFFFFFFF

/-- Phase of Table 10.17 that a tile or a transfer of a command counts in; 8 for none. -/
def phaseOf (opcode : Nat) : Nat :=
  match opcode with
  | 0x0206 => 1
  | 0x0207 => 3
  | 0x0501 => 2
  | 0x0502 => 3
  | 0x0503 => 5
  | 0x0603 => 6
  | 0x0701 | 0x0702 | 0x0703 | 0x0704 | 0x0705 | 0x0706 | 0x0707 => 4
  | 0x0801 => 7
  | _ => 8

/-- The module did work of a phase for a job in this fret (R422). Phases are numbered in the order of Table 10.17 from 0;
8 marks work that no phase counts and that keeps the fret out of IDLE. -/
def markPhase (id phase : Nat) (s : State) : State :=
  let mark (w : Window) : Window :=
    if w.active.contains phase then w else { w with active := w.active ++ [phase] }
  s.updJob id fun j => { j with window := j.window.map mark }

/-- A tile or a transfer of a command took place in this fret. -/
def markWork (p : Packet) (s : State) : State := markPhase p.jobId.toNat (phaseOf p.opcode.toNat) s

/-- Phases with a tile, a draw or a transfer for a job in this fret: what was marked, the commands whose tiles are issued
or whose chunks are under way, and a checkpoint's background copy (R422). -/
def State.phaseWork (s : State) (id : Nat) (w : Window) : List Nat :=
  let busy (o : OpenCmd) : Bool :=
    o.pkt.jobId.toNat == id && ((s.tiles.any fun t => t.cmd == o.pkt.key && t.issued)
      || s.fab.unacked.any fun c => c.cmd == some o.pkt.key)
  let copies := match s.job? id with
    | some j => j.ckpts.any fun c => c.state == 1 && !c.todo.isEmpty
    | none => false
  w.active ++ ((s.opens.filter busy).map fun o => phaseOf o.pkt.opcode.toNat) ++ (if copies then [7] else [])

/-- A model of a job has an entered FLIP, or a rollout on it has not taken the released version (R422, R453). -/
def State.flipOpen (s : State) (id : Nat) : Bool :=
  match s.job? id with
  | none => false
  | some j =>
    let version (m : Model) : Nat :=
      match vread j.vi s (m.wbase + 16) 4 with
      | .ok b => leNat b
      | .error _ => 0
    j.models.any fun m =>
      m.flip.isSome || j.rollouts.any fun r => r.model == m.handle && r.version.toNat != version m

/-- Phases that count the present fret for a job, by their place in Table 10.17 (R422). -/
def State.phasesNow (s : State) (id : Nat) (w : Window) : List Nat :=
  let work := s.phaseWork id w
  let remote := s.opens.any fun o => o.pkt.jobId.toNat == id && o.pkt.opcode.toNat / 256 == 7
  (List.range 8).filter (fun k => work.contains k || (k == 4 && remote) || (k == 6 && s.flipOpen id))
  ++ (if work.isEmpty then [8] else [])

/-- The window with the present fret counted: a count holds at 0xFFFF_FFFF, and one that holds sets SATURATED (R424). -/
def State.countFret (s : State) (id : Nat) (w : Window) : Window :=
  let now := s.phasesNow id w
  { w with
    counts := w.counts.mapIdx fun k c => if now.contains k then satAdd c 1 else c
    saturated := w.saturated || (w.counts.mapIdx fun k c => now.contains k && c == 0xFFFFFFFF).contains true
    active := [] }

/-- A window as it closes: in the present fret, which it counts, or before it (R420). -/
def State.closingWindow (s : State) (id flags : Nat) (w : Window) : Window :=
  if flags = 0 then w else s.countFret id w

/-- Close a job's window with its last fret and record it (R420, R423); `flags` are bits [1:0] of FLAGS. -/
def closeWindow (id : Nat) (flags : Nat) (last : Dword) (s : State) : State :=
  match (s.job? id).bind (·.window) with
  | none => s
  | some w0 =>
    let w := s.closingWindow id flags w0
    let s1 := pushPhase { win := w, job := id, flags := flags + 4 * b2n w.saturated, fin := last, read := false } s
    { s1.updJob id (fun j => { j with window := none }) with ctr := { s1.ctr with lrnStep := w.stepOf } }

/-- The 96 bytes of a phase record (Table 10.18). -/
def phaseBytes (moduleId : Nat) (r : PhaseRec) : List Byte :=
  leBytes 8 r.win.stepOf.toNat ++ leBytes 2 r.job ++ leBytes 2 moduleId ++ leBytes 4 r.flags
  ++ leBytes 8 r.win.start.toNat ++ leBytes 8 r.fin.toNat ++ (r.win.counts.flatMap fun c => leBytes 4 c.toNat)
  ++ leBytes 4 r.win.mbCount ++ leBytes 4 r.win.tokens ++ leBytes 4 r.win.version.toNat ++ leBytes 16 0

/-- CLOSE_STEP at the final record of an UPDATE: the window closes in this fret, and its record goes to PHASE_OUT too
(R420, R423). Nothing for another command. -/
def closeStep (p : Packet) (s : State) : State :=
  if p.opcode ≠ 0x0503 ∨ !(p.p2.getLsbD 5) then s
  else
    match (s.job? p.jobId.toNat).bind (·.window) with
    | none => s
    | some w0 =>
      let w := s.closingWindow p.jobId.toNat 1 w0
      let r : PhaseRec := { win := w, job := p.jobId.toNat, flags := 1 + 4 * b2n w.saturated, fin := s.ftu.count, read := false }
      let s1 := closeWindow p.jobId.toNat 1 s.ftu.count s
      if p.p3 = 0 then s1 else vwrite p.vi p.p3.toNat (phaseBytes s.moduleId r) s1

/-! ## Completion records (R59 to R68) -/

/-- Entries of a ring. -/
def ringSize (log2 : BitVec 5) : Nat := 2 ^ log2.toNat

/-- Records that the host has not consumed. -/
def Cq.used (c : Cq) : Nat := (c.tail.toNat + ringSize c.sizeLog2 - c.head.toNat) % ringSize c.sizeLog2

/-- The CQ is full or disabled (R62, R63). -/
def Cq.blocked (c : Cq) : Bool := !c.en || decide (ringSize c.sizeLog2 ≤ c.used + 1)

/-- The 32 bytes of a completion record (Table 2.8). -/
def recBytes (r : Rec) (phase : Bool) (sqHead : Half) (fret : Word) : List Byte :=
  leBytes 4 r.key.seq.toNat ++ leBytes 4 r.userTag.toNat ++ leBytes 2 r.opcode.toNat ++ [r.status]
  ++ leBytes 1 (b2n phase + 2 * b2n r.interim + 4 * (r.key.sq % 8)) ++ leBytes 2 r.reason.toNat
  ++ leBytes 2 sqHead.toNat ++ leBytes 8 r.result0.toNat ++ leBytes 4 r.result1.toNat ++ leBytes 4 fret.toNat

/-- The CQ bound to an SQ. -/
def Vi.cqOf (v : Vi) (q : Nat) : Nat := (v.sq q).cq.toNat

/-- Count a written record for its interrupt and raise the vector when R66 says so. -/
def signalRec (n c : Nat) (now : Bool) (s : State) : State :=
  let q := (s.vi n).cq c
  if !q.ien then s
  else if now || q.unsig + 1 = q.irqCount.toNat + 1 then
    raiseVec n q.vec.toNat (s.updCq n c fun q => { q with unsig := 0, timer := false })
  else s.updCq n c fun q => { q with unsig := q.unsig + 1, timer := q.timer || q.irqTime != 0 }

/-- Write a record at the tail of its CQ (R60, R61). -/
def writeRec (c : Nat) (r : Rec) (s : State) : State :=
  let v := s.vi r.key.vi
  let q := v.cq c
  let b := recBytes r q.phase (v.sq r.key.sq).head (BitVec.ofNat 32 s.ftu.count.toNat)
  let s1 := { s with hostMem := s.hostMem.writeN (q.base.toNat + 32 * q.tail.toNat) b }
  let last := q.tail.toNat + 1 = ringSize q.sizeLog2
  let s2 := s1.updCq r.key.vi c fun q =>
    { q with tail := if last then 0 else q.tail + 1, phase := if last then !q.phase else q.phase }
  signalRec r.key.vi c r.irqNow s2

/-- The moment of a record: it is written; a DONE under NO_DONE writes none (R67, R68). -/
def passRec (c : Nat) (r : Rec) (s : State) : State := if r.silent then s else writeRec c r s

/-- A record becomes due: written, or held while its CQ is full or disabled (R63). During a VI reset none is
written (R74). -/
def postRec (r : Rec) (s : State) : State :=
  let v := s.vi r.key.vi
  let c := v.cqOf r.key.sq
  if v.resetBusy then s
  else if (v.cq c).blocked || !(v.cq c).held.isEmpty then
    s.updCq r.key.vi c fun q => { q with held := q.held ++ [r] }
  else passRec c r s

/-- Write held records in due order while there is room (R63). -/
def releaseHeld (n c : Nat) : Nat → State → State
  | 0, s => s
  | k + 1, s =>
    let q := (s.vi n).cq c
    match q.held with
    | [] => s
    | r :: rest =>
      if q.blocked then s
      else releaseHeld n c k (passRec c r (s.updCq n c fun q => { q with held := rest }))

/-- An interim record of a packet (R67). -/
def postInterim (p : Packet) (status : Byte) (reason : Half) (r0 : Nat) (s : State) : State :=
  postRec { key := p.key, userTag := p.userTag, opcode := p.opcode, status := status, interim := true, reason := reason,
            result0 := BitVec.ofNat 64 r0, result1 := 0, irqNow := false } s

/-- The final record of a packet becomes due; a DONE under NO_DONE has the place of a record and writes none (R67,
R68). -/
def writeFinal (p : Packet) (status : Byte) (reason : Half) (r0 r1 : Nat) (s : State) : State :=
  postRec { key := p.key, userTag := p.userTag, opcode := p.opcode, status := status, interim := false, reason := reason
            result0 := BitVec.ofNat 64 r0, result1 := BitVec.ofNat 32 r1, irqNow := p.flags.getLsbD 0
            silent := p.flags.getLsbD 2 && status == 0 } s

/-- The first FENCE whose awaited packets have all posted their final records (R497). -/
def settledFence (s : State) : Option Packet :=
  s.opens.findSome? fun o =>
    match o.prog with
    | .fence awaits =>
      if awaits.all fun k => !(s.dispatched k.vi).contains k then some o.pkt else none
    | _ => none

/-- Complete the FENCEs that nothing holds any more (R497). -/
def settleFences : Nat → State → State
  | 0, s => s
  | k + 1, s =>
    match settledFence s with
    | none => s
    | some p => settleFences k (writeFinal p 0 0 0 0 (s.closeCmd p.key))

/-- A CQ has room again: the records held for it are written, and FENCEs that waited for one of them complete (R63, R68,
R497). -/
def roomMade (n c : Nat) (s : State) : State :=
  let s1 := releaseHeld n c ((s.vi n).cq c).held.length s
  settleFences s1.opens.length s1

/-- The final record of a packet that changes nothing (R82). -/
def postRefused (p : Packet) (status : Byte) (reason : Half) (r0 r1 : Nat) (s : State) : State :=
  let s1 := writeFinal p status reason r0 r1 (s.closeCmd p.key)
  settleFences s1.opens.length s1

/-- What the end of a command means for its job's phase window: one of class 0x07 was in progress in this fret (R422), and an
UPDATE with CLOSE_STEP closes the window. -/
def noteEnd (p : Packet) (s : State) : State :=
  if p.opcode.toNat / 256 = 7 ∧ (s.open? p.key).isSome then markWork p s else closeStep p s

/-- A packet ends: it leaves the commands in progress, the phase window of an UPDATE with CLOSE_STEP closes (R420, R423), its
final record is posted (R67), and FENCEs that waited for it complete (R68, R497). -/
def postFinal (p : Packet) (status : Byte) (reason : Half) (r0 r1 : Nat) (s : State) : State :=
  postRefused p status reason r0 r1 (noteEnd p s)

/-- The packet completes with DONE. -/
def postDone (p : Packet) (r0 r1 : Nat) (s : State) : State := postFinal p 0x00 0x0000 r0 r1 s

/-- The packet completes with FIRMWARE_ERROR and a reason. -/
def postErr (p : Packet) (reason : Half) (r0 : Nat) (s : State) : State := postFinal p 0xFF reason r0 0 s

/-- The packet completes with REFUSED_CAPACITY and a reason. -/
def postCap (p : Packet) (reason : Half) (r0 : Nat) (s : State) : State := postFinal p 0x10 reason r0 0 s

/-! ## Fault units (R662 to R677) -/

/-- Kind code K of a fault unit (Tables 16.1, 16.5). -/
def unitKind (u : Nat) : Nat :=
  if u < 1836 then u % 6
  else if u < 1926 then 6 + (u - 1836) % 5
  else if u < 1950 then 11 + (u - 1926) % 3
  else if u < 2046 then 14 + (u - 1950) % 3
  else if u < 2086 then 17 + (u - 2046) % 2
  else if u < 2092 then 19 + (u - 2086) % 3
  else 22 + (u - 2092)

/-- Defaults of a kind: N, W, minor mask, severe mask (Table 16.5). -/
def kindDefault (k : Nat) : Nat × Nat × Nat × Nat :=
  match k with
  | 0 | 1 | 2 | 3 => (4, 100000, 0x01, 0x13)
  | 4 => (1, 1, 0x00, 0x17)
  | 5 | 9 => (1, 1, 0x00, 0x13)
  | 6 | 7 | 13 | 21 => (1, 1, 0x00, 0x15)
  | 8 | 20 => (4, 100000, 0x01, 0x15)
  | 10 | 12 => (16, 100000, 0x01, 0x11)
  | 11 | 19 => (4, 100000, 0x01, 0x11)
  | 14 => (255, 0, 0x00, 0x01)
  | 18 | 24 | 29 => (1, 1, 0x00, 0x01)
  | 26 => (1, 1, 0x00, 0x38)
  | _ => (1, 1, 0x00, 0x11)

/-- Settings of a unit: N, W, severe mask, minor mask, vector (R664, R680). -/
def unitCfg (u : Nat) (f : FaultUnit) : Nat × Nat × Nat × Nat × Nat :=
  match f.cfg with
  | some (n, w, sv, mn, vec) => (n.toNat, w.toNat, sv.toNat, mn.toNat, vec.toNat)
  | none => let d := kindDefault (unitKind u); (d.1, d.2.1, d.2.2.2, d.2.2.1, 0)

/-- Fault unit u. -/
def State.fault (s : State) (u : Nat) : FaultUnit := tget {} s.faults u

/-- Change a fault unit. -/
def State.updFault (s : State) (u : Nat) (f : FaultUnit → FaultUnit) : State :=
  { s with faults := tset s.faults u (f (s.fault u)) }

/-- Notices that the operator has not consumed. -/
def Ntc.used (r : Ntc) : Nat := (r.tail.toNat + ringSize r.sizeLog2 - r.head.toNat) % ringSize r.sizeLog2

/-- Write a notice (Table 16.7), or drop and count it when the ring is full, or while VI0 resets and nothing is written for it
(R74, notes/assumptions/94.md); nothing while the ring is disabled (R676, R677). -/
def notice (u applied info vec : Nat) (severe : Bool) (s : State) : State :=
  let r := s.ntc
  if !r.en then s
  else if (s.vi 0).resetBusy || decide (ringSize r.sizeLog2 ≤ r.used + 1) then
    { s with ntc := { r with drop := satAdd r.drop 1, dropped := true } }
  else
    let b := leBytes 2 u ++ leBytes 1 (unitKind u) ++ leBytes 1 (b2n r.phase + 2 * b2n severe + 4 * b2n r.dropped)
      ++ leBytes 1 applied ++ leBytes 3 0 ++ leBytes 4 (s.ftu.count.toNat % 2 ^ 32) ++ leBytes 4 info
    let last := r.tail.toNat + 1 = ringSize r.sizeLog2
    raiseVec 0 vec { s with
      hostMem := s.hostMem.writeN (r.base.toNat + 16 * r.tail.toNat) b
      ntc := { r with tail := if last then 0 else r.tail + 1, phase := if last then !r.phase else r.phase,
                      dropped := false } }

/-- The block that NMI and BLOCK_RESET of a unit act on (Table 16.5, column Reset target), with its die and unit. -/
def unitTarget (u : Nat) (info : Nat) : Option Block :=
  if u < 1836 then some (.core (u / 6 / 17) (u / 6 % 17))
  else if u < 1926 then
    let d := (u - 1836) / 5
    match (u - 1836) % 5 with
    | 0 | 1 => some (.tributary d)
    | 2 => some (.mover d (info % 2))
    | 3 => some (.sampler d)
    | _ => none
  else if u < 1950 then
    if (u - 1926) % 3 = 2 then some (.hubEngine ((u - 1926) / 3) (info % 2)) else none
  else if u < 2046 then
    if (u - 1950) % 3 = 2 then some (.stackCtl ((u - 1950) / 3)) else none
  else if u < 2086 then none
  else if u < 2092 then
    if (u - 2086) % 3 = 0 then none else some (.weir ((u - 2086) / 3))
  else none

/-- The block word of R656. -/
def blockWord : Block → Nat
  | .core d c => 0x01 * 2 ^ 24 + d * 2 ^ 16 + c * 2 ^ 8
  | .mover d k => 0x02 * 2 ^ 24 + d * 2 ^ 16 + k * 2 ^ 8
  | .hubEngine h k => 0x03 * 2 ^ 24 + h * 2 ^ 16 + k * 2 ^ 8
  | .stackCtl k => 0x04 * 2 ^ 24 + k * 2 ^ 16
  | .weir h => 0x05 * 2 ^ 24 + h * 2 ^ 16
  | .sampler d => 0x06 * 2 ^ 24 + d * 2 ^ 16
  | .tributary d => 0x07 * 2 ^ 24 + d * 2 ^ 16

/-- A block reset starts: phase 1 fences the block (R654); a block already in a reset does not start a second
one (R672). -/
def startBlockReset (b : Block) (s : State) : State :=
  if s.blkRst.any fun r => r.block == b then s
  else { s with blkRst := s.blkRst ++ [{ block := b, phase := 1 }] }

/-- A block is in phase 3 of a reset: its registers hold their Reset values (R16, R654). -/
def State.inReset (s : State) (b : Block) : Bool := s.blkRst.any fun r => r.block == b && r.phase == 2

/-- A unit of a core runs no tile: its sequencer is idle (Tables 5.7, 6.9, 5.12). -/
def idleUnit (d c : Nat) (u : TileUnit) (s : State) : State :=
  s.updCore d c fun k =>
    match u with
    | .arrays => { k with a := { k.a with state := 0 }, b := { k.b with state := 0 }, half0 := 0, half1 := 0 }
    | .mvp => { k with mvpState := 0, mvpRows := 0 }
    | .braid => { k with brdState := 0, brdSweep := 0 }

/-- Drop the pins that a command with tiles holds (Table 9.8). -/
def unpinAll (k : Key) (s : State) : State :=
  match s.open? k with
  | some o =>
    (match o.prog with
     | .works ws r0 r1 pool pins =>
       if pins.isEmpty then s
       else
         (match s.pool? o.pkt.job pool with
          | some q => pins.foldl (fun s page => unpinPage o.pkt.vi q page s) s
          | none => s).setProg k (.works ws r0 r1 pool [])
     | _ => s)
  | none => s

/-- A PASS_BWD that has not completed leaves free bytes in its ranges (R386). -/
def spoilGrads (k : Key) (s : State) : State :=
  match s.open? k with
  | some o =>
    (match o.prog with
     | .passRun true _ _ _ _ _ _ spans => spans.foldl (fun s x => vwrite o.pkt.vi x.1 (s.freeBytes x.2) s.nextFree) s
     | _ => s)
  | none => s

/-- Remove the tiles of a command, what it keeps between them and its pins; a unit that ran one is idle. -/
def dropTiles (k : Key) (s0 : State) : State :=
  let s := unpinAll k (spoilGrads k s0)
  let s1 := { s with
    tiles := s.tiles.filter (fun t => t.cmd != k), partials := s.partials.filter (fun e => e.cmd != k)
    scr := s.scr.zero k.scratch (2 ^ 60) }
  (s.tiles.filter fun t => t.cmd == k && t.issued).foldl (fun s t => idleUnit t.die t.core t.unit s) s1

/-- BLK_RESETS: operations issued again, and commands ended with BLOCK_RESET (R661). -/
def countResets (again ended : Nat) (s : State) : State :=
  { s with ctr := { s.ctr with blkRepeated := satAdd s.ctr.blkRepeated again, blkFailed := satAdd s.ctr.blkFailed ended } }

/-- A command ends with BLOCK_RESET (R656). -/
def postReset (p : Packet) (reason : Half) (r0 r1 : Nat) (s : State) : State :=
  countResets 0 1 (postFinal p 0x30 reason r0 r1 s)

/-- End every command that has tiles on a core with BLOCK_RESET and a reason (Table 16.6, R656). -/
def endTilesOf (d c : Nat) (reason : Half) : Nat → State → State
  | 0, s => s
  | n + 1, s =>
    match s.tiles.find? fun t => t.die == d && t.core == c with
    | none => s
    | some t =>
      let s1 := dropTiles t.cmd s
      match s1.open? t.cmd with
      | none => endTilesOf d c reason n s1
      | some o => endTilesOf d c reason n (postReset o.pkt reason (blockWord (.core d c)) 0 s1)

/-- The work that the standby holds for a core under test goes back to it; tiles move with it, one in progress from its start
(R227, R265). -/
def handBack (d : Nat) (s : State) : State :=
  let x := s.die d
  let c := x.standFor.toNat
  if x.standFor = 0x1F then s
  else
    let s1 := s.updDie d fun x => { x with standFor := 0x1F }
    let s2 := [TileUnit.arrays, TileUnit.mvp, TileUnit.braid].foldl (fun s u => idleUnit d x.standby u s) s1
    { s2 with tiles := s2.tiles.map fun t =>
        if t.die = d ∧ t.core = x.standby then { t with core := c, issued := false, staged := [] } else t }

/-- Nothing is under test on the die; a test in progress is counted as aborted. -/
def dropTest (d : Nat) (s : State) : State :=
  if (s.die d).testing = 0x1F then s
  else s.updDie d fun k => { k with testing := 0x1F, tstAborted := satAdd k.tstAborted 1 }

/-- The core's test slot ends aborted: the target takes its work back, and nothing is under test on the die (R686). -/
def abortSlot (d : Nat) (s : State) : State := dropTest d (handBack d s)

/-- The standby core stands in for a core under the core's order index (R265, R675): its tiles go with it, one in
progress from its start. -/
def standIn (d c : Nat) (s : State) : State :=
  let b := (s.die d).standby
  let s1 := if (s.die d).standFor.toNat = c then dropTest d s else abortSlot d s
  let s2 := (s1.updCore d c (setRole 2)).updCore d b (setRole 0)
  let s3 := s2.updDie d fun k =>
    { k with rotate := false, standbyFree := false, standFor := BitVec.ofNat 5 c }
  let s4 := [TileUnit.arrays, TileUnit.mvp, TileUnit.braid].foldl (fun s u => idleUnit d c u s) s3
  { s4 with tiles := s4.tiles.map fun t =>
      if t.die = d ∧ t.core = c then { t with core := b, issued := false, staged := [] } else t }

/-- The core that the standby stands in for is withdrawn: it stands in until the next chip reset (R675). -/
def State.standsForGood (s : State) (d : Nat) : Bool :=
  let x := s.die d
  x.standFor != 0x1F && s.role d x.standFor.toNat == 2

/-- A standby that is withdrawn stands in for no core any more. The core whose place it has for good gets nothing back: what runs
there ends with CORE_WITHDRAWN (R27, R675). -/
def leaveStandby (d : Nat) (s : State) : State :=
  (if s.standsForGood d then dropTest d s else abortSlot d s).updDie d fun x =>
    { x with rotate := false, standbyFree := false, standFor := 0x1F }

/-- Firmware withdraws a block on an NMI (R674, Table 16.6) and writes a repair hint. -/
def withdraw (b : Block) (s : State) : State :=
  let s1 : State :=
    match b with
    | .core d c =>
      if s.role d c = 2 then s
      else if (s.die d).standbyFree && (s.die d).standby != c then standIn d c s
      else
        let s0 := if (s.die d).standby = c then leaveStandby d s else s
        endTilesOf d c 0x0A10 s.tiles.length
          (s0.updCore d c fun k => { setRole 2 k with fenced := true })
    | .mover d k => s.updDie d fun x => if k = 0 then { x with m0Fenced := true } else { x with m1Fenced := true }
    | .sampler d => s.updDie d fun x => { x with smpFenced := true }
    | .hubEngine h k =>
      s.updHub h fun x => if k = 0 then { x with migFenced := true } else { x with copyFenced := true }
    | .weir h =>
      let other (w : GrantWait) : GrantWait := if w.half = h then { w with half := 1 - h } else w
      let f := { s.fab with grantWaits := s.fab.grantWaits.map other }
      { s with fab := if h = 0 then { f with x0Fenced := true } else { f with x1Fenced := true } }
    | .stackCtl _ | .tributary _ => s
  match b with
  | .stackCtl _ | .tributary _ => s1
  | _ => addHint 7 (blockWord b) 0 s1

/-- Apply the reactions of a mask in the order of Table 16.4 (R669 to R674). -/
def applyMask (u mask info vec : Nat) (severe : Bool) (s : State) : State :=
  let on (b : Nat) : Bool := mask.testBit b
  let s1 := if on 0 then notice u mask info vec severe s else s
  let s2 := if on 4 then s1.updFault u fun f => { f with errHeld := true } else s1
  let s3 := if on 5 then s2.updFault u fun f => { f with fatalHeld := true } else s2
  let s4 := if severe || on 2 || on 3 || on 5 then
      evrec (0x0100 + unitKind u) u (s3.fault u).total.toNat info (mask + 256 * b2n severe) s3 else s3
  let s5 := if severe then { s4 with boot := { s4.boot with pldm := s4.boot.pldm ++ [u] } } else s4
  let s6 := match unitTarget u info with
    | none => s5
    | some b =>
      let a := if on 1 then withdraw b s5 else s5
      if on 2 then startBlockReset b a else a
  if on 3 then { s6 with boot := { s6.boot with resetDecided := true, resetUnit := u } } else s6

/-- `n` events of a fault unit in one core cycle: counted, judged minor or severe, and answered (R666 to R668). From
the moment a CHIP_RESET reaction is decided no unit counts (R673). -/
def faultEvents (u n info : Nat) (s : State) : State :=
  if s.boot.resetDecided || n = 0 then s
  else
    let f := s.fault u
    let (thr, w, sv, mn, vec) := unitCfg u f
    let left := if f.left = 0 then (if w = 0 then 2 ^ 24 else w) else f.left
    let count := (if f.left = 0 then 0 else f.window.toNat) + n
    let severe := decide (thr ≤ count)
    let s1 := s.updFault u fun f => { f with
      event := true, severe := f.severe || severe, lastFret := BitVec.ofNat 24 s.ftu.count.toNat,
      total := satAdd f.total n, window := if severe then 0 else BitVec.ofNat 8 count,
      left := if severe then 0 else left }
    applyMask u (if severe then sv else mn) info vec severe s1

/-- One event of a fault unit. -/
def faultEvent1 (u info : Nat) (s : State) : State := faultEvents u 1 info s

/-- ERR_N is asserted while any unit holds ERR_HELD (R670). -/
def State.errN (s : State) : Bool := s.faults.any fun e => e.2.errHeld

/-- FATAL_N is asserted while any unit holds FATAL_HELD (R670), in FAILED (R707), in RECOVERY (R708), and after a
trip (R756). -/
def State.fatalN (s : State) : Bool :=
  (s.faults.any fun e => e.2.fatalHeld) || s.boot.state == 5 || s.boot.state == 1 || s.power.tripped

/-! ## Accesses that fail (R82, R508, R509) -/

/-- Bytes [31:0] of STK_LAST_ERR for a burst (R515). -/
def lastErrWord (byScrub : Bool) (f b : Nat) : Nat := 2 ^ 31 + 2 ^ 30 * b2n byScrub + f * 2 ^ 15 + b

/-- An uncorrectable read is recorded and raises HBM_UE (R508). -/
def recordUe (n va : Nat) (s : State) : State :=
  match (s.xlate n va).bind burstOf with
  | some (k, f, b) =>
    faultEvent1 (1950 + 3 * k + 1) (lastErrWord false f b) (s.updStk k fun t =>
      { t with ueRead := satAdd t.ueRead 1, lastErr := BitVec.ofNat 32 (lastErrWord false f b) })
  | none => s

/-- An access of a command failed: the command ends as R82 or R509 gives. -/
def memFail (p : Packet) (e : MemErr) (s : State) : State :=
  match e with
  | .notMapped va => postFinal p 0x12 0x0005 va 0 s
  | .parity va => postFinal p 0x31 0x0110 va 0 s
  | .ue va => postFinal p 0x31 0x0111 va 0 (recordUe p.vi va s)

end Sys2Proof.Machine
end

