-- ==== Sys2Proof/Machine/Formats.lean ====
section
/-! DEFINITION. Number formats and rounding (spec/04_number_formats.md), and the random generators that rounding draws
from (R222 to R229 of spec/06_braid_fabric.md). Values are exact: a sign, a magnitude and a power of two. -/

namespace Sys2Proof.Machine

open Sys2Proof

/-! ## Values (R116 to R121) -/

/-- A value of any format: NaN, an infinity, or (−1)^neg × m × 2^e. -/
inductive FVal where
  | nan
  | inf (neg : Bool)
  | fin (neg : Bool) (m : Nat) (e : Int)
  deriving DecidableEq, Repr

/-- +0. -/
def FVal.zero : FVal := .fin false 0 0

/-- A floating-point layout (Table 4.2); `special` 0: Inf and NaN with all-ones exponent; 1: E4M3; 2: none
(Table 4.3). -/
structure FFmt where
  ebits : Nat
  mbits : Nat
  bias : Nat
  special : Nat
  deriving DecidableEq, Repr

/-- FP32. -/
def fp32F : FFmt := { ebits := 8, mbits := 23, bias := 127, special := 0 }
/-- BF16. -/
def bf16F : FFmt := { ebits := 8, mbits := 7, bias := 127, special := 0 }
/-- FP16. -/
def fp16F : FFmt := { ebits := 5, mbits := 10, bias := 15, special := 0 }
/-- E4M3. -/
def e4m3F : FFmt := { ebits := 4, mbits := 3, bias := 7, special := 1 }
/-- E5M2. -/
def e5m2F : FFmt := { ebits := 5, mbits := 2, bias := 15, special := 0 }
/-- E2M3. -/
def e2m3F : FFmt := { ebits := 2, mbits := 3, bias := 1, special := 2 }
/-- E3M2. -/
def e3m2F : FFmt := { ebits := 3, mbits := 2, bias := 3, special := 2 }
/-- E2M1. -/
def e2m1F : FFmt := { ebits := 2, mbits := 1, bias := 1, special := 2 }

/-- Element layout of a format code (Table 4.1); an MX code gives its element's layout. -/
def layoutOf (code : Nat) : Option FFmt :=
  match code with
  | 0x01 => some fp32F
  | 0x02 => some bf16F
  | 0x03 => some fp16F
  | 0x04 => some e4m3F
  | 0x05 => some e5m2F
  | 0x06 => some e4m3F
  | 0x07 => some e5m2F
  | 0x08 => some e2m3F
  | 0x09 => some e3m2F
  | 0x0A => some e2m1F
  | _ => none

/-- Element bits of a format code (Table 4.1). -/
def elemBits (code : Nat) : Nat :=
  match code with
  | 0x01 | 0x0C => 32
  | 0x02 | 0x03 => 16
  | 0x04 | 0x05 | 0x06 | 0x07 | 0x0B => 8
  | 0x08 | 0x09 => 6
  | 0x0A => 4
  | 0x0D => 1
  | _ => 8

/-- A format with an E8M0 scale per 32 elements. -/
def isMx (code : Nat) : Bool := decide (0x06 ≤ code ∧ code ≤ 0x0A)

/-- Exponent of the smallest subnormal of a layout. -/
def FFmt.umin (f : FFmt) : Int := 1 - (f.bias : Int) - (f.mbits : Int)

/-- Decode an element (R116, R117). -/
def decodeF (f : FFmt) (x : Nat) : FVal :=
  let m := x % 2 ^ f.mbits
  let e := x / 2 ^ f.mbits % 2 ^ f.ebits
  let s := x / 2 ^ (f.mbits + f.ebits) % 2 == 1
  if f.special = 0 ∧ e = 2 ^ f.ebits - 1 then (if m = 0 then .inf s else .nan)
  else if f.special = 1 ∧ e = 2 ^ f.ebits - 1 ∧ m = 2 ^ f.mbits - 1 then .nan
  else if e = 0 then .fin s m f.umin
  else .fin s (2 ^ f.mbits + m) (f.umin + (e : Int) - 1)

/-- An integer as a value. -/
def FVal.ofInt (x : Int) : FVal := .fin (decide (x < 0)) x.natAbs 0

/-- m × 2^e as an integer magnitude at exponent u ≤ e. -/
def scaleTo (m : Nat) (e u : Int) : Nat := m * 2 ^ (e - u).toNat

/-- a × 2^x < b × 2^y. -/
def magLt (a : Nat) (x : Int) (b : Nat) (y : Int) : Bool :=
  let u := min x y
  decide (scaleTo a x u < scaleTo b y u)

/-- ⌊log2 (m × 2^e)⌋ of a magnitude other than 0. -/
def flog2 (m : Nat) (e : Int) : Int := (Nat.log2 m : Int) + e

/-- Exact sum; a sum of zero is +0 unless both addends are −0 (R120); Infs of opposite sign give NaN (R141). -/
def FVal.add : FVal → FVal → FVal
  | .nan, _ => .nan
  | _, .nan => .nan
  | .inf a, .inf b => if a = b then .inf a else .nan
  | .inf a, .fin _ _ _ => .inf a
  | .fin _ _ _, .inf b => .inf b
  | .fin a m e, .fin b n f =>
    let u := min e f
    let x := scaleTo m e u
    let y := scaleTo n f u
    if a = b then .fin a (x + y) u
    else if x = y then .fin false 0 0
    else if x > y then .fin a (x - y) u
    else .fin b (y - x) u

/-- Sign changed. -/
def FVal.neg : FVal → FVal
  | .nan => .nan
  | .inf a => .inf (!a)
  | .fin a m e => .fin (!a) m e

/-- Exact product; 0 × Inf is NaN. -/
def FVal.mul : FVal → FVal → FVal
  | .nan, _ => .nan
  | _, .nan => .nan
  | .inf a, .inf b => .inf (a != b)
  | .inf a, .fin b n _ => if n = 0 then .nan else .inf (a != b)
  | .fin a m _, .inf b => if m = 0 then .nan else .inf (a != b)
  | .fin a m e, .fin b n f => .fin (a != b) (m * n) (e + f)

/-- Times a power of two. -/
def FVal.scale (x : FVal) (k : Int) : FVal :=
  match x with
  | .fin a m e => .fin a m (e + k)
  | y => y

/-- Magnitude. -/
def FVal.abs : FVal → FVal
  | .nan => .nan
  | .inf _ => .inf false
  | .fin _ m e => .fin false m e

/-- Ordered comparison x < y; false for NaN. -/
def FVal.lt : FVal → FVal → Bool
  | .nan, _ => false
  | _, .nan => false
  | .inf a, .inf b => a && !b
  | .inf a, .fin _ _ _ => a
  | .fin _ _ _, .inf b => !b
  | .fin a m e, .fin b n f =>
    if m = 0 ∧ n = 0 then false
    else if a && !b then true
    else if !a && b then false
    else if a then magLt n f m e else magLt m e n f

/-- Equal as numbers; false for NaN. -/
def FVal.eqv (x y : FVal) : Bool := x != .nan && y != .nan && !(x.lt y) && !(y.lt x)

/-! ## Rounding (R142 to R149) -/

/-- RND of a NARROW word (Table 4.6). -/
abbrev Rnd := Nat

/-- Bits that a narrowing draws (R147, R148). -/
def rndBits (rnd : Rnd) : Nat := if rnd = 2 then 4 else if rnd = 3 then 3 else 0

/-- Round m × 2^e to a multiple of 2^u (R146, R147); `r` is the drawn integer. -/
def roundUnit (rnd : Rnd) (r m : Nat) (e u : Int) : Nat :=
  if u ≤ e then scaleTo m e u
  else
    let k := (u - e).toNat
    let lo := m / 2 ^ k
    let rem := m % 2 ^ k
    if rnd = 0 then
      (if 2 * rem > 2 ^ k ∨ (2 * rem = 2 ^ k ∧ lo % 2 = 1) then lo + 1 else lo)
    else if rnd = 1 then lo
    else if r < rem * 2 ^ rndBits rnd / 2 ^ k then lo + 1 else lo

/-- Grid step of a layout at a magnitude: that of its binade or of the subnormals. -/
def gridStep (f : FFmt) (m : Nat) (e : Int) : Int := if m = 0 then f.umin else max (flog2 m e - f.mbits) f.umin

/-- Largest finite magnitude of a layout, as an integer and an exponent (Table 4.3). -/
def maxFin (f : FFmt) : Nat × Int :=
  let top : Int := (2 ^ f.ebits : Nat) - 1 - (f.bias : Int) - (f.mbits : Int)
  match f.special with
  | 0 => (2 ^ (f.mbits + 1) - 1, top - 1)
  | 1 => (2 ^ (f.mbits + 1) - 2, top)
  | _ => (2 ^ (f.mbits + 1) - 1, top)

/-- Code of a magnitude q × 2^u on the grid. -/
def magCode (f : FFmt) (q : Nat) (u : Int) : Nat := (u - f.umin).toNat * 2 ^ f.mbits + q

/-- Sign bit of a layout. -/
def signBit (f : FFmt) (neg : Bool) : Nat := if neg then 2 ^ (f.mbits + f.ebits) else 0

/-- The NaN written (Table 4.3); a layout without NaN has none. -/
def nanCode (f : FFmt) : Nat :=
  if f.special = 0 then (2 ^ f.ebits - 1) * 2 ^ f.mbits + 2 ^ (f.mbits - 1) else 2 ^ (f.mbits + f.ebits) - 1

/-- Inf of a layout that has one. -/
def infCode (f : FFmt) (neg : Bool) : Nat := signBit f neg + (2 ^ f.ebits - 1) * 2 ^ f.mbits

/-- Largest finite code. -/
def maxCode (f : FFmt) (neg : Bool) : Nat := signBit f neg + magCode f (maxFin f).1 (maxFin f).2

/-- Overflow result (R144, R128). -/
def overflowCode (f : FFmt) (sat neg : Bool) : Nat :=
  if sat || f.special == 2 then maxCode f neg
  else if f.special = 0 then infCode f neg
  else nanCode f

/-- Round a value onto a layout's grid and encode it (R143, R144). -/
def encodeF (f : FFmt) (rnd : Rnd) (sat : Bool) (r : Nat) : FVal → Nat
  | .nan => nanCode f
  | .inf a => if f.special = 0 then infCode f a else if sat then maxCode f a else nanCode f
  | .fin a m e =>
    let u := gridStep f m e
    let q := roundUnit rnd r m e u
    if magLt (maxFin f).1 (maxFin f).2 q u then overflowCode f sat a
    else signBit f a + magCode f q u

/-- An INT8 narrowing (R132). -/
def encodeInt8 (rnd : Rnd) (r : Nat) : FVal → Nat
  | .nan => 0
  | .inf a => if a then 0x80 else 0x7F
  | .fin a m e =>
    let q := roundUnit rnd r m e 0
    if a then (256 - min q 128) % 256 else min q 127

/-- Read an FP32 word. -/
def rdF (x : Word) : FVal := decodeF fp32F x.toNat

/-- Round to FP32, nearest-even. -/
def toF (x : FVal) : Word := BitVec.ofNat 32 (encodeF fp32F 0 false 0 x)

/-- FP32 sum, nearest-even (R140). -/
def addF (a b : Word) : Word := toF ((rdF a).add (rdF b))

/-- FP32 product, nearest-even. -/
def mulF (a b : Word) : Word := toF ((rdF a).mul (rdF b))

/-- FP32 fused product and sum, one rounding. -/
def fmaF (a b c : Word) : Word := toF (((rdF a).mul (rdF b)).add (rdF c))

/-- FP32 quotient, nearest-even: 160 quotient bits and a sticky bit decide the rounding. -/
def divV (x y : FVal) : FVal :=
  match x, y with
  | .nan, _ => .nan
  | _, .nan => .nan
  | .inf _, .inf _ => .nan
  | .inf a, .fin b _ _ => .inf (a != b)
  | .fin a _ _, .inf b => .fin (a != b) 0 0
  | .fin a m e, .fin b n f =>
    if n = 0 then (if m = 0 then .nan else .inf (a != b))
    else
      let q := m * 2 ^ 160 / n
      let st := if m * 2 ^ 160 % n = 0 then 0 else 1
      .fin (a != b) (2 * q + st) (e - f - 161)

/-- FP32 quotient. -/
def divF (a b : Word) : Word := toF (divV (rdF a) (rdF b))

/-- Integer square root by Newton steps from above. -/
def isqrt (n : Nat) : Nat :=
  let rec go : Nat → Nat → Nat
    | 0, x => x
    | k + 1, x => let y := (x + n / x) / 2; if y < x then go k y else x
  if n = 0 then 0 else go 400 (2 ^ (Nat.log2 n / 2 + 1))

/-- Square root, with a sticky bit below 80 root bits. -/
def sqrtV : FVal → FVal
  | .nan => .nan
  | .inf a => if a then .nan else .inf false
  | .fin a m e =>
    if m = 0 then .fin a 0 0
    else if a then .nan
    else
      let odd := e % 2 != 0
      let m2 := (if odd then 2 * m else m) * 2 ^ 160
      let e2 := (if odd then e - 1 else e) - 160
      let q := isqrt m2
      let st := if q * q = m2 then 0 else 1
      .fin false (2 * q + st) (e2 / 2 - 1)

/-! ## Elements and blocks (R122 to R138) -/

/-- Value of an element of a plain format (R116, R130). -/
def readElem (code x : Nat) : FVal :=
  match code with
  | 0x0B => .ofInt (toSigned 8 x)
  | 0x0C => .ofInt (toSigned 32 x)
  | _ => match layoutOf code with | some f => decodeF f x | none => .nan

/-- Fields of a NARROW word (Table 4.6). -/
structure Narrow where
  fmt : Nat
  rnd : Nat
  sat : Bool
  deriving DecidableEq, Repr

/-- A NARROW word. -/
def narrowOf (w : Nat) : Narrow := { fmt := bn w 7 0, rnd := bn w 9 8, sat := bn w 10 10 == 1 }

/-- Narrow one value to a plain format under a NARROW word with the drawn integer. -/
def narrowElem (n : Narrow) (r : Nat) (x : FVal) : Nat :=
  match n.fmt with
  | 0x0B => encodeInt8 n.rnd r x
  | 0x0C =>
    match x with
    | .fin a m e =>
      let q := roundUnit n.rnd r m e 0
      if a then (2 ^ 32 - min q (2 ^ 31)) % 2 ^ 32 else min q (2 ^ 31 - 1)
    | .inf a => if a then 2 ^ 31 else 2 ^ 31 - 1
    | .nan => 0
  | c => match layoutOf c with | some f => encodeF f n.rnd n.sat r x | none => 0

/-- Value of an E8M0 scale; none for NaN (R123). -/
def e8m0 (b : Nat) : Option Int := if b % 256 = 255 then none else some ((b % 256 : Nat) - 127 : Int)

/-- Element i of a block of w-bit elements (R125). -/
def blockElem (w i : Nat) (bytes : List Byte) : Nat := leNat bytes / 2 ^ (w * i) % 2 ^ w

/-- The 32 values of an MX block: scale times element, widened to FP32 (R121, R122, R123). -/
def readMx (code : Nat) (bytes : List Byte) (scale : Byte) : List FVal :=
  let w := elemBits code
  let all := leNat bytes
  (List.range 32).map fun i =>
    match e8m0 scale.toNat, layoutOf code with
    | some k, some f => (decodeF f (all / 2 ^ (w * i) % 2 ^ w)).scale k
    | _, _ => .nan

/-- emax of an MX element format (R127). -/
def mxEmax (code : Nat) : Int :=
  match code with
  | 0x06 => 8
  | 0x07 => 15
  | 0x08 => 2
  | 0x09 => 4
  | _ => 2

/-- Scale exponent of a block (R127): amax as a value. -/
def mxScaleExp (amax : FVal) (emax : Int) : Int :=
  match amax with
  | .fin _ m e => if m = 0 then 0 else max (-127) (min 127 (flog2 m e - emax))
  | _ => 0

/-- The larger magnitude. -/
def maxAbs (x y : FVal) : FVal := if x.abs.lt y.abs then y.abs else x.abs

/-- Codes and scale byte of an MX block (R126 to R129): `xs` are the in-range values, `rs` the drawn integers, one for each
of the 32 positions. -/
def encodeMx (code : Nat) (rnd : Rnd) (xs : List FVal) (rs : List Nat) : List Nat × Nat :=
  if xs.any fun x => match x with | .fin _ _ _ => false | _ => true then (List.replicate 32 0, 255)
  else
    let amax := xs.foldl maxAbs .zero
    let e := mxScaleExp amax (mxEmax code)
    let codes := (xs.zip rs).map fun x =>
      match layoutOf code with | some f => encodeF f rnd true x.2 (x.1.scale (-e)) | none => 0
    (codes ++ List.replicate (32 - codes.length) 0, (e + 127).toNat)

/-- Bytes of w-bit codes packed from bit 0 (R125). -/
def packBits (w : Nat) (codes : List Nat) : List Byte :=
  leBytes (codes.length * w / 8) (codes.foldr (fun c a => c % 2 ^ w + 2 ^ w * a) 0)

/-! ## Generators (R222 to R229) -/

/-- Rotate a 64-bit word left. -/
def rotl64 (x : Dword) (k : Nat) : Dword := x.rotateLeft k

/-- The output word of a state (R222). -/
def genOut (a : Dword) : Dword := rotl64 (a * 5) 7 * 9

/-- The linear state update T (R222). -/
def genStep (a b : Dword) : Dword × Dword :=
  let b1 := b ^^^ a
  (rotl64 a 24 ^^^ b1 ^^^ (b1 <<< 16), rotl64 b1 37)

/-- T on a 128-bit vector: s0 in bits [63:0], s1 in bits [127:64]. -/
def genLin (x : BitVec 128) : BitVec 128 :=
  let r := genStep (x.setWidth 64) ((x >>> 64).setWidth 64)
  (r.2.setWidth 128 <<< 64) ||| r.1.setWidth 128

/-- A linear map on 128 bits, as the images of the unit vectors. -/
abbrev Mat := List (BitVec 128)

/-- Apply a linear map. -/
def matApply : Mat → BitVec 128 → BitVec 128
  | [], _ => 0
  | c :: m, x => (if x.getLsbD 0 then c else 0) ^^^ matApply m (x >>> 1)

/-- Square a linear map. -/
def matSquare (m : Mat) : Mat := m.map (matApply m)

/-- T as a matrix. -/
def genMat : Mat := (List.range 128).map fun i => genLin (BitVec.twoPow 128 i)

/-- A map squared k times. -/
def matPow2 : Nat → Mat → Mat
  | 0, m => m
  | k + 1, m => matPow2 k (matSquare m)

/-- m^j applied to x. -/
def matPowApply : Nat → Mat → Nat → BitVec 128 → BitVec 128
  | 0, _, _, x => x
  | k + 1, m, j, x => matPowApply k (matSquare m) (j / 2) (if j % 2 = 1 then matApply m x else x)

/-- T^(J × 2^96) applied to a seed (R223); a seed of zero is 1 (R224). -/
def genStart (seedLo seedHi : Dword) (j : Nat) : Gen :=
  let x : BitVec 128 := (seedHi.setWidth 128 <<< 64) ||| seedLo.setWidth 128
  let y := matPowApply 32 (matPow2 96 genMat) j (if x = 0 then 1 else x)
  { s0 := y.setWidth 64, s1 := (y >>> 64).setWidth 64, word := 0, left := 0 }

/-- Stream index (R223). -/
def streamIx (module die core slot : Nat) : Nat :=
  (module % 1024) * 2 ^ 22 + die * 2 ^ 17 + core * 2 ^ 12 + slot

/-- The generators of a job, or of no job, with the words drawn on each core since they were taken up. -/
structure Gens where
  seedLo : Dword
  seedHi : Dword
  tbl : Tbl Gen
  words : Tbl Nat
  deriving DecidableEq, Repr

/-- A generator; one that has not drawn is at its starting state. -/
def Gens.get (g : Gens) (j : Nat) : Gen := (tfind g.tbl j).getD (genStart g.seedLo g.seedHi j)

/-- Take a fresh word. -/
def Gen.fresh (x : Gen) : Gen :=
  let r := genStep x.s0 x.s1
  { s0 := r.1, s1 := r.2, word := genOut x.s0, left := 64 }

/-- Die and core fields of a stream index, 32 × die + core (R223). -/
def streamCore (j : Nat) : Nat := j / 2 ^ 12 % 1024

/-- Draw n bits: the lowest unused bits of the current word, or of a new one when fewer remain (R229). -/
def Gens.draw (j n : Nat) (g : Gens) : Nat × Gens :=
  if n = 0 then (0, g)
  else
    let x := g.get j
    let new := x.left < n
    let y := if new then x.fresh else x
    (y.word.toNat % 2 ^ n,
     { g with tbl := tset g.tbl j { y with word := y.word >>> n, left := y.left - n }
              words := if new then tupd 0 g.words (streamCore j) (· + 1) else g.words })

/-- A sampler draw: bits [63:40] of a fresh word (R229). -/
def Gens.draw24 (j : Nat) (g : Gens) : Nat × Gens :=
  let y := (g.get j).fresh
  (y.word.toNat / 2 ^ 40, { g with tbl := tset g.tbl j { y with left := 0 } })

/-- Generators of a job, or the no-job streams for 0xFFFF (R223, R771). -/
def State.gens (s : State) (id : Nat) : Gens :=
  match s.job? id with
  | some j => { seedLo := j.seedLo, seedHi := j.seedHi, tbl := j.gens, words := [] }
  | none => { seedLo := s.noJobSeed, seedHi := 0x00000000FFFF0001, tbl := s.noJobGens, words := [] }

/-- Put generators back and count the words that cores drew (GEN_WORDS). -/
def State.putGens (s : State) (id : Nat) (g : Gens) : State :=
  let s1 := match s.job? id with
    | some _ => s.updJob id fun j => { j with gens := g.tbl }
    | none => { s with noJobGens := g.tbl }
  { s1 with cores := g.words.foldl (fun t w =>
      let i := coreIx (w.1 / 32) (w.1 % 32)
      if w.1 / 32 < 18 ∧ w.1 % 32 < 17 then
        tset t i { tget {} t i with genWords := (tget {} t i).genWords + BitVec.ofNat 64 w.2 }
      else t) s1.cores }

end Sys2Proof.Machine
end

