-- ==== Sys2Proof/WellFormed.lean ====
section
/-! DEFINITION. Which commands are well formed: a packet row carries its own opcode and action bits (Table 2.10 and the
parameter tables), and the operands of an event row name something the module has. -/

namespace Sys2Proof

/-- A VI of the module (Table 2.1). -/
def viOk (n : Nat) : Bool := decide (n ≤ 4096)

/-- An offset in the register page of a VI, or in BAR0 of VI0; registers are 32 bits wide (R47, R11). -/
def pageOk (n off : Nat) : Bool := decide (off % 4 = 0 ∧ (off < 0x10000 ∨ (n = 0 ∧ off < 0x40000)))

/-- A core CDd.Cc (R36). -/
def coreOk (d c : Nat) : Bool := decide (d < 18 ∧ c < 17)

/-- A block that a block reset can name (R654, R656). -/
def blockOk : Block → Bool
  | .core d c => coreOk d c
  | .mover d k => decide (d < 18 ∧ k < 2)
  | .hubEngine h k => decide (h < 8 ∧ k < 2)
  | .stackCtl k => decide (k < 32)
  | .weir h => decide (h < 2)
  | .sampler d | .tributary d => decide (d < 18)

/-- A packet of a ring of the module with an opcode. -/
def Packet.has (p : Packet) (op : Nat) : Bool := viOk p.vi && decide (p.sq < 8) && p.opcode.toNat == op

/-- A field of a parameter word has a value. -/
def fieldIs (w : Dword) (lo n v : Nat) : Bool := w.toNat / 2 ^ lo % 2 ^ n == v

/-- A command is well formed. -/
def Instr.wf : Instr → Bool
  | .move p => p.has 0x0101
  | .fill p => p.has 0x0102
  | .migrate p => p.has 0x0103
  | .placeMap p => p.has 0x0104 && fieldIs p.p0 0 8 1
  | .placeUnmap p => p.has 0x0104 && fieldIs p.p0 0 8 2
  | .placeQuery p => p.has 0x0104 && fieldIs p.p0 0 8 3
  | .fence p => p.has 0x0105
  | .matmul p => p.has 0x0201
  | .matmulBatched p => p.has 0x0202
  | .braidRun p => p.has 0x0203
  | .braidLoadProgram p => p.has 0x0204 && fieldIs p.p0 0 8 1
  | .braidLoadSeed p => p.has 0x0204 && fieldIs p.p0 0 8 2
  | .tableLoad p => p.has 0x0205
  | .attnFwd p => p.has 0x0206
  | .attnBwd p => p.has 0x0207
  | .rolloutOpen p => p.has 0x0301 && fieldIs p.p0 0 8 1
  | .rolloutClose p => p.has 0x0301 && fieldIs p.p0 0 8 2
  | .rolloutStep p => p.has 0x0302
  | .sample p => p.has 0x0303
  | .seqCancel p => p.has 0x0304
  | .specVerify p => p.has 0x0305
  | .prefill p => p.has 0x0306
  | .kvPoolCreate p => p.has 0x0401 && fieldIs p.p0 0 8 1
  | .kvPoolSetPolicy p => p.has 0x0401 && fieldIs p.p0 0 8 2
  | .kvPoolDestroy p => p.has 0x0401 && fieldIs p.p0 0 8 3
  | .kvShipReceive p => p.has 0x0402 && fieldIs p.p0 0 8 1
  | .kvShipSend p => p.has 0x0402 && fieldIs p.p0 0 8 2
  | .kvFork p => p.has 0x0403
  | .kvRelease p => p.has 0x0404
  | .passFwd p => p.has 0x0501 && fieldIs p.p1 0 1 0
  | .passFwdQuery p => p.has 0x0501 && fieldIs p.p1 0 1 1
  | .passBwd p => p.has 0x0502
  | .update p => p.has 0x0503
  | .stepSizeSet p => p.has 0x0504
  | .updateProgramLoad p => p.has 0x0505
  | .stowLoad p => p.has 0x0601
  | .adapterLoad p => p.has 0x0602 && fieldIs p.p0 32 8 1
  | .adapterUnload p => p.has 0x0602 && fieldIs p.p0 32 8 2
  | .freshetPush p => p.has 0x0603
  | .freshetFlip p => p.has 0x0604 && fieldIs p.p0 16 8 1
  | .freshetDiscard p => p.has 0x0604 && fieldIs p.p0 16 8 2
  | .modelDrain p => p.has 0x0605
  | .put p => p.has 0x0701
  | .get p => p.has 0x0702
  | .atomic p => p.has 0x0703
  | .signal p => p.has 0x0704
  | .shift p => p.has 0x0705
  | .permute p => p.has 0x0706
  | .reduceShift p => p.has 0x0707
  | .groupDefine p => p.has 0x0708 && fieldIs p.p0 0 8 1
  | .groupRelease p => p.has 0x0708 && fieldIs p.p0 0 8 2
  | .setDomain p => p.has 0x0708 && fieldIs p.p0 0 8 3
  | .ckptTake p => p.has 0x0801 && fieldIs p.p0 0 8 1
  | .ckptHold p => p.has 0x0801 && fieldIs p.p0 0 8 2
  | .ckptDiscard p => p.has 0x0801 && fieldIs p.p0 0 8 3
  | .ckptReadback p => p.has 0x0802 && fieldIs p.p0 0 8 1
  | .ckptExport p => p.has 0x0802 && fieldIs p.p0 0 8 2
  | .ckptList p => p.has 0x0802 && fieldIs p.p0 0 8 3
  | .restore p => p.has 0x0803
  | .rollback p => p.has 0x0804
  | .shrink p => p.has 0x0805
  | .jobCreate p => p.has 0x0901
  | .jobStart p => p.has 0x0902
  | .jobPreempt p => p.has 0x0903
  | .jobEnd p => p.has 0x0904
  | .abortPacket p => p.has 0x0905 && fieldIs p.p0 0 8 1
  | .abortJob p => p.has 0x0905 && fieldIs p.p0 0 8 2
  | .admissionSetVi p => p.has 0x0906 && fieldIs p.p0 0 8 1
  | .admissionSetMode p => p.has 0x0906 && fieldIs p.p0 0 8 2
  | .admissionQuery p => p.has 0x0906 && fieldIs p.p0 0 8 3
  | .selftestCore p => p.has 0x0A01 && fieldIs p.p0 0 8 1
  | .selftestSliced p => p.has 0x0A01 && fieldIs p.p0 0 8 2
  | .selftestStop p => p.has 0x0A01 && fieldIs p.p0 0 8 3
  | .selftestRotation p => p.has 0x0A01 && fieldIs p.p0 0 8 4
  | .calibrate p => p.has 0x0A02 && fieldIs p.p0 0 8 1
  | .linkPattern p => p.has 0x0A03 && fieldIs p.p0 24 1 0
  | .linkPatternStop p => p.has 0x0A03 && fieldIs p.p0 24 1 1
  | .evrecRead p => p.has 0x0F01
  | .fwStage p => p.has 0x0F02
  | .fwActivateTrial p => p.has 0x0F03 && fieldIs p.p0 0 8 1
  | .fwActivateCommit p => p.has 0x0F03 && fieldIs p.p0 0 8 2
  | .fwActivateDisarm p => p.has 0x0F03 && fieldIs p.p0 0 8 3
  | .fwActivateReset p => p.has 0x0F03 && fieldIs p.p0 0 8 4
  | .powerCapSet p => p.has 0x0F04 && fieldIs p.p0 0 8 1
  | .powerCapQuery p => p.has 0x0F04 && fieldIs p.p0 0 8 2
  | .setRole p => p.has 0x0F05 && fieldIs p.p0 0 8 1
  | .setPeriod p => p.has 0x0F05 && fieldIs p.p0 0 8 2
  | .armEpoch p => p.has 0x0F05 && fieldIs p.p0 0 8 3
  | .setBeaconPorts p => p.has 0x0F05 && fieldIs p.p0 0 8 4
  | .faultPolicySet p => p.has 0x0F06 && fieldIs p.p0 0 8 1
  | .faultPolicyDefaults p => p.has 0x0F06 && fieldIs p.p0 0 8 2
  | .phaseTimesRead p => p.has 0x0F07
  | .configInstall p => p.has 0x0F08 && fieldIs p.p0 0 8 1
  | .configRead p => p.has 0x0F08 && fieldIs p.p0 0 8 2
  | .saveRoutes p => p.has 0x0F08 && fieldIs p.p0 0 8 3
  | .configClear p => p.has 0x0F08 && fieldIs p.p0 0 8 4
  | .sqTailDbWrite vi q _ => viOk vi && decide (q < 8)
  | .cqHeadDbWrite vi q _ => viOk vi && decide (q < 8)
  | .sqCfgWrite vi q _ => viOk vi && decide (q < 8)
  | .cqCfgWrite vi q _ => viOk vi && decide (q < 8)
  | .viCtrlReset vi value => viOk vi && value.getLsbD 0
  | .functionLevelReset vi => viOk vi
  | .viResetComplete vi => viOk vi
  | .fltNtcCfgWrite _ => true
  | .fltNtcHeadWrite _ => true
  | .fltStatClear unit _ => decide (unit < 2100)
  | .weirRtDataWrite _ => true
  | .latchingRead vi offset => viOk vi && pageOk vi offset
  | .rcRead vi offset => viOk vi && pageOk vi offset
  | .registerWrite vi offset _ => viOk vi && pageOk vi offset
  | .irqTimeExpire vi cq => viOk vi && decide (cq < 8)
  | .barrierDispatch vi sq => viOk vi && decide (sq < 8)
  | .powerOn _ _ => true
  | .pwrGood => true
  | .pwrEnDeassert _ => true
  | .perstNAssert _ => true
  | .bootStart => true
  | .bootStageEnd _ => true
  | .pcieConfigRequest vi _ _ => viOk vi
  | .trialTimeout => true
  | .activateChipReset => true
  | .pldmFirmwareUpdate _ => true
  | .spdmRequest _ => true
  | .pldmEventRetrieve => true
  | .pcieHotReset => true
  | .pcieAerError _ => true
  | .inputVoltageChange _ => true
  | .voltageLimitLapse => true
  | .feedLost feed _ => decide (feed < 2)
  | .feedRestored feed _ => decide (feed < 2)
  | .powerMeasure _ => true
  | .thermalThrottle sensor _ => decide (sensor < 63)
  | .thermalStepTimer _ => true
  | .thermalTrip sensor _ => decide (sensor < 63)
  | .hoursTick => true
  | .fretBoundary _ => true
  | .ftuLockAcquired => true
  | .ftuHoldoverEntry => true
  | .beaconReceive port _ _ => decide (port < 20)
  | .epochInMark => true
  | .fretRefGained => true
  | .fretRefLost => true
  | .ckptFreeze _ _ => true
  | .flipDecision _ _ => true
  | .collectiveStart vi sq _ => viOk vi && decide (sq < 8)
  | .recalWindowStart stack => decide (stack < 32)
  | .recalWindowEnd stack _ => decide (stack < 32)
  | .recalDueSet stack => decide (stack < 32)
  | .recalForced stack => decide (stack < 32)
  | .scrubBurst stack frame burst result => decide (stack < 32 ∧ frame < 32768 ∧ burst < 32768 ∧ result < 3)
  | .scrubDemandSlot stack => decide (stack < 32)
  | .pageMoveStart hub => decide (hub < 8)
  | .pageDrainEnd vi _ => viOk vi
  | .pageCopyAheadDone vi _ => viOk vi
  | .pageCopyDone vi _ _ => viOk vi
  | .frameZeroed frame => decide (frame < 2 ^ 23)
  | .hostTierStream _ _ _ => true
  | .tileIssue die core _ => coreOk die core
  | .tileEnd die core _ _ => coreOk die core
  | .arrayCheckFail die core _ _ sumsA sumsB _ => coreOk die core && (sumsA ++ sumsB).all fun e => decide (e.1 < 130)
  | .arrayParityHalt die core found _ => coreOk die core && (found.1 || found.2)
  | .braidParityHalt die core spot _ => coreOk die core && decide (spot.1 < 256)
  | .capoPointReached die core _ => coreOk die core
  | .batchStep _ _ => true
  | .exhaustionPolicy _ _ _ => true
  | .kvPageCheck _ _ _ => true
  | .kvReceiveTimeout _ _ _ => true
  | .freshetChunkCheck _ _ _ => true
  | .pushClaimRetry vi sq _ => viOk vi && decide (sq < 8)
  | .freshetBusy vi sq _ => viOk vi && decide (sq < 8)
  | .regionDrainEnd _ _ _ => true
  | .drainTimeout _ _ => true
  | .ckptRegionCopyDone _ _ _ _ => true
  | .ckptCopyAheadDone _ _ _ _ => true
  | .ckptComplete _ _ => true
  | .flitReceive port _ => decide (port < 20)
  | .ethFrameReceive port _ _ _ => decide (port < 20)
  | .transitForward port _ => decide (port < 20)
  | .putData _ => true
  | .getReq _ => true
  | .getData _ => true
  | .atomicReq _ => true
  | .atomicResp _ => true
  | .signalPacket _ => true
  | .ack _ => true
  | .nak _ => true
  | .deny _ => true
  | .grantReq _ => true
  | .poolSlotGrant half => decide (half < 2)
  | .grant _ => true
  | .collData _ => true
  | .redData _ => true
  | .chunkRetransmitTimeout _ _ _ => true
  | .destUnreachable vi sq _ => viOk vi && decide (sq < 8)
  | .groupTimeout _ _ _ => true
  | .portTrained port _ _ _ => decide (port < 20)
  | .portFailed port cause => decide (port < 20 ∧ cause < 3)
  | .spareFailover failed spare _ => decide (failed < 20 ∧ spare < 20)
  | .spareUnfit port lane => decide (port < 20 ∧ lane < 4)
  | .linkPatternEnd port errs _ => decide (port < 20 ∧ errs.length = 4)
  | .cablePresence conn _ => decide (conn < 5)
  | .jobSwitchEnd _ => true
  | .jobEvictionEnd _ => true
  | .stepModeTurn => true
  | .faultEvent unit _ _ _ => decide (unit < 2100)
  | .faultWindowClose unit => decide (unit < 2100)
  | .eventRecordProgram => true
  | .blockReset b => blockOk b
  | .blockResetDrainEnd b => blockOk b
  | .blockResetRejoin b => blockOk b
  | .chipReset reason => decide (1 ≤ reason ∧ reason ≤ 3)
  | .coreWdog die core unit => coreOk die core && decide (1 ≤ unit ∧ unit ≤ 5)
  | .tribWdog die core => decide (die < 18 ∧ core < 4)
  | .hwFault pair => decide (pair < 2)
  | .selftestSlotStart die => decide (die < 18)
  | .selftestSlotEnd die failUnit _ => decide (die < 18 ∧ failUnit < 9)
  | .sliceStart die => decide (die < 18)
  | .msiXTableWrite vi entry dw _ => viOk vi && decide (entry < 4 ∧ dw < 4)
  | .spareFit port => decide (port < 20)
  | .hubEngineStall hub engine => decide (hub < 8 ∧ engine < 2)
  | .recalibrationTimeout stack => decide (stack < 32)
  | .sliceEnd die core failUnit _ => coreOk die core && decide (failUnit < 9)
  | .boundaryScan _ _ _ _ => true

end Sys2Proof
end

