-- ==== Sys2Proof/Machine/Operands.lean ====
section
/-! DEFINITION. From a ring entry to a dispatched command: the packet's bytes, the checks of Table 2.13, fetching, the
order rules of R69 and R777, FENCE, and the gate of a job that does not run (R640). -/

namespace Sys2Proof.Machine

open Sys2Proof

/-- A packet from its 64 bytes (Table 2.6). Bits that the table and a command's parameters call res are not looked at (R84,
notes/assumptions/101.md). -/
def packetOf (n q : Nat) (b : List Byte) : Packet :=
  let w (i k : Nat) : Nat := blk b i k
  { vi := n, sq := q, opcode := BitVec.ofNat 16 (w 0 2), flags := BitVec.ofNat 16 (w 2 2), viTag := BitVec.ofNat 16 (w 4 2)
    jobId := BitVec.ofNat 16 (w 6 2), seq := BitVec.ofNat 32 (w 8 4), userTag := BitVec.ofNat 32 (w 12 4)
    p0 := BitVec.ofNat 64 (w 16 8), p1 := BitVec.ofNat 64 (w 24 8), p2 := BitVec.ofNat 64 (w 32 8)
    p3 := BitVec.ofNat 64 (w 40 8), p4 := BitVec.ofNat 64 (w 48 8), p5 := BitVec.ofNat 64 (w 56 8) }

/-- The assigned opcodes (Table 2.10). -/
def opcodes : List Nat :=
  [0x0101, 0x0102, 0x0103, 0x0104, 0x0105, 0x0201, 0x0202, 0x0203, 0x0204, 0x0205, 0x0206, 0x0207,
   0x0301, 0x0302, 0x0303, 0x0304, 0x0305, 0x0306, 0x0401, 0x0402, 0x0403, 0x0404,
   0x0501, 0x0502, 0x0503, 0x0504, 0x0505, 0x0601, 0x0602, 0x0603, 0x0604, 0x0605]
  ++ [0x0701, 0x0702, 0x0703, 0x0704, 0x0705, 0x0706, 0x0707, 0x0708, 0x0801, 0x0802, 0x0803, 0x0804, 0x0805,
   0x0901, 0x0902, 0x0903, 0x0904, 0x0905, 0x0906, 0x0A01, 0x0A02, 0x0A03,
   0x0F01, 0x0F02, 0x0F03, 0x0F04, 0x0F05, 0x0F06, 0x0F07, 0x0F08]

/-- Opcodes marked VI0 in Table 2.10. -/
def vi0Only (op : Nat) : Bool :=
  opcodes.contains op && (op == 0x0906 || op / 256 == 0x0A || op / 256 == 0x0F)



end Sys2Proof.Machine

namespace Sys2Proof

/-- OPCODE of a packet. -/
def Packet.op (p : Packet) : Nat := p.opcode.toNat

/-- FLAGS.BARRIER (Table 2.7). -/
def Packet.barrier (p : Packet) : Bool := p.flags.getLsbD 1

end Sys2Proof

namespace Sys2Proof.Machine

/-- The first check of Table 2.13 that a packet fails: status, reason, RESULT0. -/
def fetchCheck (p : Packet) (s : State) : Option (Byte × Half × Nat) :=
  if p.viTag.toNat ≠ p.vi then some (0x12, 0x0001, p.viTag.toNat)
  else if p.vi ≠ 0 ∧ vi0Only p.op then some (0x12, 0x0003, p.op)
  else if !(opcodes.contains p.op) then some (0xFF, 0x0002, p.op)
  else if p.job ≠ 0xFFFF ∧ !(s.jobs.any fun j => j.id == p.job && j.vi == p.vi) then some (0x12, 0x0004, p.job)
  else none

/-- In FAILED every packet but EVREC_READ, FW_STAGE, FW_ACTIVATE and CONFIG_LOAD completes with MODULE_FAILED (R707). -/
def failedCheck (p : Packet) (s : State) : Option (Byte × Half × Nat) :=
  if s.failed && !([0x0F01, 0x0F02, 0x0F03, 0x0F08].contains p.op) then some (0xFF, 0x0F4D, p.op) else none

/-- VI_STATUS.TAG_ERR or DB_ERR becomes set, and EVT_VEC is raised if EVT_IEN says so (R48). -/
def setTagErr (n : Nat) (s : State) : State :=
  let v := s.vi n
  let s1 := s.updVi n fun v => { v with tagErr := true }
  if v.evtIen && !v.tagErr then raiseVec n v.evtVec.toNat s1 else s1

/-- VI_STATUS.DB_ERR becomes set (R48, R73). -/
def setDbErr (n : Nat) (s : State) : State :=
  let v := s.vi n
  let s1 := s.updVi n fun v => { v with dbErr := true }
  if v.evtIen && !v.dbErr then raiseVec n v.evtVec.toNat s1 else s1

/-- A packet that fails a check changes nothing but TAG_ERR and receives its final record (R82, R775). -/
def refuseFetch (p : Packet) (e : Byte × Half × Nat) (s : State) : State :=
  let s1 := if e.2.1 = 0x0001 then setTagErr p.vi s else s
  postRefused p e.1 e.2.1 e.2.2 0 s1

/-- The module fetches packets of a VI: from READY on (R704), in FAILED from VI0 only (R707), not during its reset
(R74), nor in D3hot (R762). -/
def State.fetches (s : State) (n : Nat) : Bool :=
  (s.viReady n || (s.failed && n == 0 && !(s.vi n).resetBusy)) && !(s.vi n).d3hot

/-- All checks of a packet that the module makes before its dispatch. -/
def firstRefusal (p : Packet) (s : State) : Option (Byte × Half × Nat) :=
  match fetchCheck p s with
  | some e => some e
  | none => failedCheck p s

/-- Packets of a job that have not started: held in its command list, or fetched and not dispatched (R779). -/
def State.heldOf (s : State) (id : Nat) : List Packet :=
  ((s.job? id).map (·.cmdList)).getD []
  ++ (s.vis.flatMap fun v => v.2.sqs.flatMap fun q => (q.2.waiting ++ q.2.fetched).filter fun p => p.job == id)

/-- The job of the next entry has a full command list, counting the packets that have been fetched for it and not
dispatched (R641). -/
def listFull (p : Packet) (s : State) : Bool :=
  match s.job? p.job with
  | some j => j.state != 3 && decide (4096 ≤ (s.heldOf j.id).length)
  | none => false

/-- The packet in the ring entry at the head of an SQ. -/
def State.nextEntry (s : State) (n q : Nat) : Packet :=
  let u := (s.vi n).sq q
  packetOf n q (s.hostMem.readN (u.base.toNat + 64 * u.head.toNat) 64)

/-- An SQ has an entry to fetch (R55), its CQ has room and is enabled (R63), and the job of the entry has a place
(R641). -/
def State.canFetch (s : State) (n q : Nat) : Bool :=
  let u := (s.vi n).sq q
  s.fetches n && u.en && u.head != u.tail && !((s.vi n).cq u.cq.toNat).blocked && !(listFull (s.nextEntry n q) s)

/-- Fetch one packet of an SQ: the head moves past the entry; a packet that fails a check of Table 2.13 receives its final
record, any other waits for its dispatch (R55, R777). -/
def fetchOne (n q : Nat) (s : State) : State :=
  let p := s.nextEntry n q
  let s1 := s.updSq n q fun u => { u with head := BitVec.ofNat 16 ((u.head.toNat + 1) % ringSize u.sizeLog2) }
  match firstRefusal p s1 with
  | some e => refuseFetch p e s1
  | none => s1.updSq n q fun u => { u with fetched := u.fetched ++ [p] }

/-- The first of the numbers that follow `last` in round robin order: the smallest above it, else the smallest. -/
def nextAfter (last : Nat) (l : List Nat) : Option Nat :=
  let least (m : List Nat) : Option Nat := m.foldl (fun a x => some (match a with | some y => min x y | none => x)) none
  (least (l.filter (last < ·))).or (least l)

/-- The SQ of a VI that has the VI's next turn (R57). -/
def State.turnOf (s : State) (n : Nat) : Option Nat :=
  nextAfter (s.vi n).turnSq (((s.vi n).sqs.map (·.1)).filter (s.canFetch n))

/-- The VI and SQ that have the next turn (R57). -/
def State.nextFetch (s : State) : Option (Nat × Nat) :=
  (nextAfter s.turnVi ((s.vis.map (·.1)).filter fun n => (s.turnOf n).isSome)).bind fun n => (s.turnOf n).map fun q => (n, q)

/-- Fetch one packet per turn, round robin by VI and within a VI by SQ, until no SQ has a packet to fetch (R57). -/
def fetchTurns : Nat → State → State
  | 0, s => s
  | k + 1, s =>
    match s.nextFetch with
    | none => s
    | some (n, q) => fetchTurns k (fetchOne n q { (s.updVi n fun v => { v with turnSq := q }) with turnVi := n })

/-- Entries that lie between the head and the tail of an SQ; a tail that the host moved past the head counts as any other
(R84, notes/assumptions/103.md). -/
def Sq.ahead (u : Sq) : Nat := (u.tail.toNat + ringSize u.sizeLog2 - u.head.toNat) % ringSize u.sizeLog2

/-- Fetch what can be fetched (R55, R57, R63). -/
def fetchAll (s : State) : State :=
  fetchTurns (s.vis.map fun v => (v.2.sqs.map fun e => e.2.ahead).sum).sum s

/-- A FENCE in progress holds the packet (R497). -/
def fenceHolds (p : Packet) (s : State) : Bool :=
  s.opens.any fun o =>
    match o.prog with
    | .fence _ => o.pkt.vi == p.vi && (o.pkt.p0.getLsbD 0 || o.pkt.sq == p.sq)
    | _ => false

/-- An earlier packet of the same SQ has not posted its final record (R68, R777). -/
def earlierOpen (p : Packet) (s : State) : Bool :=
  (s.dispatched p.vi).any fun k => k.sq == p.sq && k != p.key

/-- Commands that act on a job whether or not it runs: JOB_START, JOB_PREEMPT, JOB_END, ABORT (R635, R642, R649,
R651). -/
def jobFree (p : Packet) : Bool := [0x0902, 0x0903, 0x0904, 0x0905].contains p.op

/-- Position of a job in the admission queue, from 1 (R639); 0 when it is not queued. -/
def State.position (s : State) (id : Nat) : Nat :=
  match s.sched.queue.findIdx? (· == id) with
  | some i => i + 1
  | none => 0

/-- A packet of a job that is not RUNNING is held in the job's command list; a QUEUED Standard job's packet receives one
DEFERRED (R640). Otherwise it runs. -/
def jobGate (p : Packet) (eff : Packet → State → State) (s : State) : State :=
  match s.job? p.job with
  | none => eff p s
  | some j =>
    if j.state = 3 ∨ jobFree p then eff p s
    else
      let s1 := s.updJob j.id fun j => { j with cmdList := j.cmdList ++ [p] }
      if j.state = 1 ∧ j.cls = 2 ∧ !s.sched.stepMode then
        postInterim p 0x08 0x0910 (s.position j.id) s1
      else s1

/-- A packet whose turn in its SQ has come: held behind a BARRIER or a FENCE, or dispatched (R777, R497). -/
def gate (p : Packet) (eff : Packet → State → State) (s : State) : State :=
  let u := (s.vi p.vi).sq p.sq
  if !u.waiting.isEmpty || (p.barrier && earlierOpen p s) || fenceHolds p s then
    s.updSq p.vi p.sq fun u => { u with waiting := u.waiting ++ [p] }
  else jobGate p eff s

/-- A packet reaches dispatch. The packets of one SQ are dispatched in ring order (R69): one that is not the oldest
fetched waits. A packet that no fetch of the model has brought is checked here. -/
def arrive (p : Packet) (eff : Packet → State → State) (s : State) : State :=
  let f := ((s.vi p.vi).sq p.sq).fetched
  if f.contains p then
    if f.head? = some p then gate p eff (s.updSq p.vi p.sq fun u => { u with fetched := u.fetched.tail }) else s
  else
    match firstRefusal p s with
    | some e => refuseFetch p e s
    | none =>
      if f.isEmpty then gate p eff s
      else s.updSq p.vi p.sq fun u => { u with fetched := u.fetched ++ [p] }

/-- A command packet is submitted: dispatched with its effect, unless the module fetches nothing of its VI. -/
def submit (eff : Packet → State → State) (p : Packet) (s : State) : Out :=
  if viOk p.vi && decide (p.sq < 8) then .next (if s.fetches p.vi then arrive p eff s else s) else .fault .noSuchUnit

/-- An event takes place at a unit of the module. -/
def event (ok : Bool) (t : State) : Out := if ok then .next t else .fault .noSuchUnit

/-- Index that the next event record will have, 0xFFFF_FFFF when none is written (R731). -/
def State.nextEvent (s : State) : Nat :=
  let i := s.boot.evNext + s.boot.evQueue.length
  if s.boot.evFull || decide (256 ≤ s.boot.evQueue.length) || decide (65535 ≤ i) then 0xFFFFFFFF else i

/-- A packet meets an internal fault of the firmware: an event record, and FIRMWARE_ERROR with FIRMWARE_INTERNAL and the record's
index (R81, R731, Table 17.14). -/
def postInternal (p : Packet) (code : Nat) (s : State) : State :=
  postFinal p 0xFF 0x00FF s.nextEvent 0 (evrec 0x0020 0xFFFF p.op p.vi code s)

/-- The outcome of a command with malformed parameters is unpredictable within R84 and R67: one final record whose
status, reason and results are free. Where they are those of an internal fault of the firmware, that fault is recorded
(notes/assumptions/93.md). -/
def postFree (p : Packet) (s : State) : State :=
  let x := s.freeVal
  let y := s.nextFree.freeVal
  let s1 := s.nextFree.nextFree
  if x.setWidth 24 = (0x00FFFF : BitVec 24) then postInternal p (y.toNat % 2 ^ 32) s1
  else postFinal p (x.setWidth 8) ((x >>> 8).setWidth 16) y.toNat (x >>> 32).toNat s1

end Sys2Proof.Machine
end

