-- ==== Sys2Proof/Machine/Sched.lean ====
section
/-! DEFINITION. Shared operations on jobs: phase windows, the module's settings, the release of what a job owns, switches
and the admission queue, and VI reset (spec/15_job_scheduling.md; R419 to R426 of spec/10_learning_passes.md). -/

namespace Sys2Proof.Machine

open Sys2Proof

/-! ## Settings in force (R718, R720) -/

/-- The owner image in force locks a group against the journal (R720). -/
def State.groupLocked (s : State) (group : Nat) : Bool :=
  s.boot.lock.getLsbD group

/-- A journal half with room: a full one gives way to the other, into which the records in force are rewritten first (R722). -/
def Flash.withRoom (f : Flash) : Flash :=
  if f.journalUsed < 49152 then f else { f with journalB := !f.journalB, journalUsed := f.journal.length }

/-- Append a journal record (R720), replacing in force the one of the same group and item. -/
def Flash.record (f : Flash) (group item : Nat) (value : List Byte) : Flash :=
  let g := f.withRoom
  { g with
    journal := (g.journal.filter fun r => !(r.group == group && r.item == item))
      ++ [{ group := group, item := item, seq := g.journalSeq, value := value }]
    journalSeq := g.journalSeq + 1, journalUsed := g.journalUsed + 1 }

/-- A command with SAVE appends a journal record (R720 to R722). -/
def journal (group item : Nat) (value : List Byte) (s : State) : State :=
  { s with flash := s.flash.record group item value }

/-! ## Phase windows (R419 to R425) -/

/-- Open a phase window (R419). -/
def openWindow (id : Nat) (start : Dword) (s : State) : State :=
  let w : Window :=
    { start := start, step := none, counts := List.replicate 9 0, active := [], saturated := false, mbCount := 0
      tokens := 0, version := 0xFFFFFFFF }
  s.updJob id fun j => { j with window := some w }

/-! ## What a job owns (R629, R649) -/

/-- Take the schedule entries of a command out of the FTU schedule. -/
def unschedule (k : Key) (s : State) : State :=
  { s with ftu := { s.ftu with sched := s.ftu.sched.filter fun e => e.cmd != some k } }

/-- Take a command's tiles and schedule entries away; chunks already sent complete without it (R551). -/
def dropWork (k : Key) (s : State) : State :=
  let s1 := unschedule k (dropTiles k s)
  let orphan (c : TxChunk) : TxChunk := if c.cmd = some k then { c with cmd := none } else c
  { s1 with fab := { s1.fab with unacked := s1.fab.unacked.map orphan } }

/-- End a command in progress with ABORTED. -/
def abortOpen (p : Packet) (s : State) : State := postFinal p 0x02 0x0000 0 0 (dropWork p.key s)

/-- Take a packet that has not started out of its SQ and of its job's command list. -/
def unhold (p : Packet) (s : State) : State :=
  let s1 := s.updSq p.vi p.sq fun u =>
    { u with fetched := u.fetched.filter (· != p), waiting := u.waiting.filter (· != p) }
  s1.updJob p.job fun j => { j with cmdList := j.cmdList.filter (· != p) }

/-- The pages of a VI that a job owns leave the translation; their frames are released. -/
def unmapJob (n id : Nat) (s : State) : State :=
  let gone := (s.vi n).pages.filter fun e => e.2.job == id
  let s1 := s.updVi n fun v => { v with pages := v.pages.filter fun e => e.2.job != id }
  gone.foldl (fun s e =>
    let s2 := match e.2.move with | some m => releaseHome m.target s | none => s
    if e.2.saved.isSome then s2 else releaseHome e.2.home s2) s1

/-- Device frames among homes. -/
def frameCount (l : List Home) : Nat := (l.filter fun h => h.frame.isSome).length

/-- Device frames that the end of a job releases. -/
def State.framesOf (s : State) (j : Job) : Nat :=
  frameCount (((s.vi j.vi).pages.filter fun e => e.2.job == j.id && e.2.saved.isNone).map fun e => e.2.home)
  + frameCount j.ctxFrames
  + (j.ckpts.map fun c => c.slots.length).sum + (j.holds.map fun h => h.slots.length).sum
  + (j.parities.map fun x => x.frames.length).sum

/-- Oxbow frames return (R584, R608); what they held can be read by no command before it is written again (R585). -/
def freeOxbow (l : List (Nat × Nat)) (s : State) : State :=
  l.foldl (fun s x => { s with devMem := s.devMem.zero ((x.1 * 32768 + x.2) * pageSize) pageSize }) s

/-- Oxbow frames of a checkpoint return (R608). -/
def freeSlots (c : Ckpt) (s : State) : State := freeOxbow (c.slots.map (·.2)) s

/-- Parity frames that the module keeps of the step of a checkpoint. -/
def Job.parityFrames (j : Job) (c : Ckpt) : List (Nat × Nat) :=
  (j.parities.filter fun x => c.protect == 2 && x.group == c.group && x.step == c.step).flatMap (·.frames)

/-- A checkpoint of a job goes, with its slots and the parity rows that the module keeps of it (R590, R608). -/
def dropCkpt (id ckpt : Nat) (s : State) : State :=
  match (s.job? id).bind fun j => j.ckpts.find? fun c => c.id == ckpt with
  | none => s
  | some c =>
    let mine (x : Parity) : Bool := c.protect == 2 && x.group == c.group && x.step == c.step
    let gone := ((s.job? id).map fun j => j.parityFrames c).getD []
    (freeOxbow gone (freeSlots c s)).updJob id fun j =>
      { j with ckpts := j.ckpts.filter fun x => x.id != ckpt, parities := j.parities.filter fun x => !(mine x) }

/-- Every oxbow frame that a job holds. -/
def Job.oxbow (j : Job) : List (Nat × Nat) :=
  (j.ckpts.flatMap fun c => c.slots.map (·.2)) ++ j.holds.flatMap (·.slots) ++ j.parities.flatMap (·.frames)

/-- Oxbow frames of a stack, at the top of the homes (Table 12.12). -/
def State.oxbowOf (s : State) (k : Nat) : List Nat :=
  (List.range (oxbowFrames (s.stk k).oxbow)).map (s.homeFrames k + ·)

/-- An oxbow frame is given to a checkpoint or a hold (R584). -/
def State.oxbowUsed (s : State) (k f : Nat) : Bool := s.jobs.any fun j => j.oxbow.contains (k, f)

/-- Groups, pool slots, grant requests and channels of a job go (R561). -/
def dropFabric (id : Nat) (s : State) : State :=
  { s with fab := { s.fab with
      groups := s.fab.groups.filter fun g => g.job != id
      slots := s.fab.slots.filter fun x => x.job != id
      grantWaits := s.fab.grantWaits.filter fun x => x.job != id } }

/-- The job leaves scheduling: queue, turn order and holder. -/
def unqueue (id : Nat) (s : State) : State :=
  { s with sched := { s.sched with
      queue := s.sched.queue.filter (· != id)
      turns := s.sched.turns.filter (· != id)
      holder := if s.sched.holder = some id then none else s.sched.holder
      incoming := if s.sched.incoming = some id then none else s.sched.incoming
      stepSwitch := s.sched.stepSwitch && s.sched.holder != some id
      switching := s.sched.switching && s.sched.incoming != some id } }

/-- Raise a capo request on every core that runs tiles (R259). -/
def requestCapo (s : State) : State :=
  s.coreOrder.foldl (fun s x => s.updCore x.1 x.2 fun k => { k with capoReq := true }) s

/-- Cores run again: no capo request is open and none is held. -/
def clearCapo (s : State) : State :=
  { s with cores := s.cores.map fun e => (e.1, { e.2 with capoReq := false, atCapo := false }) }

/-- The streams of a job are no longer in place on any core (GEN_JOB, Table 6.19). -/
def clearStreams (id : Nat) (s : State) : State :=
  { s with cores := s.cores.map fun e =>
      (e.1, if e.2.genJob.toNat = id then { e.2 with genJob := 0xFFFF, genLoads := 0 } else e.2) }

/-- A job begins to switch in (Table 15.1). -/
def startSwitch (id : Nat) (s : State) : State :=
  let s1 := s.updJob id fun j => { j with state := 2 }
  { s1 with sched := { s1.sched with
      incoming := some id, switching := true, turnTaken := false, queue := s1.sched.queue.filter (· != id) } }

/-- Admission class of a job: that of its VI when its JOB_START was dispatched (R658). -/
def State.clsOf (s : State) (id : Nat) : Nat := ((s.job? id).map (·.cls)).getD 0

/-- A command in progress has something to run on the module: steps, tiles, passes and the fabric and page work that only a
running job does (R549). A request runs through step commands; what only waits for another command, a fret or a peer has
nothing to run. -/
def Progress.runs : Progress → Bool
  | .jobStart | .request _ _ | .cancel _ | .rolloutClose _ | .abort _ _ | .fence _ | .kvReceive _ _ _ _ _ _ | .kvRelease
  | .flip _ _ | .drain _ _ | .groupRelease _ | .jobEnd _ | .jobPreempt _ _ | .selftest _ _ | .calibrate _ _ _
  | .linkPattern _ _ | .unmap _ _ _ => false
  | _ => true

/-- A job has something to run: packets held, or commands in progress that run (R647). -/
def State.hasWork (s : State) (j : Job) : Bool :=
  !j.cmdList.isEmpty || s.opens.any fun o => o.pkt.job == j.id && o.prog.runs

/-- The started jobs in turn order, from the one after the holder round to the holder itself. -/
def State.turnOrder (s : State) : List Nat :=
  match s.sched.holder with
  | none => s.sched.turns
  | some h =>
    match s.sched.turns.findIdx? (· == h) with
    | some i => s.sched.turns.drop (i + 1) ++ s.sched.turns.take (i + 1)
    | none => s.sched.turns

/-- Of a turn order, the job whose turn comes: the first with work; a Backfill job only when no Reserved or Standard job has
any (R647). -/
def State.firstBusy (s : State) (order : List Nat) : Option Nat :=
  let busy := order.filter fun i => match s.job? i with | some j => s.hasWork j | none => false
  ((busy.filter fun i => s.clsOf i != 3) ++ busy).head?

/-- The job whose turn comes (R647). -/
def State.nextTurn (s : State) : Option Nat := s.firstBusy s.turnOrder

/-- With the module free, the head of the queue, or in STEP mode the first job of the turn order with something to run,
switches in (R637, R647). -/
def startNext (order : List Nat) (s : State) : State :=
  if s.sched.holder.isSome || s.sched.incoming.isSome then s
  else if s.sched.stepMode then
    match s.firstBusy order with
    | none => s
    | some id => startSwitch id s
  else
    match s.sched.queue with
    | [] => s
    | id :: _ => startSwitch id s

/-- Frets a job has held the module (Table 15.2). -/
def State.fretsHeld (s : State) (j : Job) : Nat :=
  if j.state = 3 ∨ j.state = 4 then (s.ftu.count - j.heldFrom).toNat else 0

/-- Everything a job owns is released and its ID is free (R649). The window closes (R420). Records are posted by the
caller. -/
def releaseJob (id : Nat) (s : State) : State :=
  match s.job? id with
  | none => s
  | some j =>
    let s1 := closeWindow id 2 s.ftu.count s
    let s2 := dropFabric id (unmapJob j.vi id s1)
    let s3 := freeOxbow j.oxbow s2
    let s4 := j.ctxFrames.foldl (fun s h => releaseHome h s) s3
    let s5 := unqueue id <| clearStreams id { s4 with jobs := s4.jobs.filter fun x => x.id != id }
    startNext (s.turnOrder.filter (· != id)) (if s.sched.holder = some id then clearCapo s5 else s5)

/-- The job's other packets end with ABORTED (R779, R651); `me` is the JOB_END itself. The JOB_START is left. -/
def abortPackets (id : Nat) (me : Key) (s : State) : State :=
  let s1 := (s.opens.filter fun o => o.pkt.job == id && o.pkt.key != me && o.prog != .jobStart).foldl
    (fun s o => abortOpen o.pkt s) s
  (s1.heldOf id).foldl (fun s p => if p.key = me then s else postFinal p 0x02 0x0000 0 0 (unhold p s)) s1

/-- VI0's JOB_PREEMPTs of a job that is gone end with JOB_UNKNOWN (R67, notes/assumptions/95.md). -/
def endPreempts (id : Nat) (s : State) : State :=
  s.opens.foldl (fun s o =>
    match o.prog with
    | .jobPreempt j _ => if j = id then postErr o.pkt 0x0907 id s else s
    | _ => s) s

/-- JOB_END acts (R649, R779): the job's packets end, an open JOB_START completes with JOB_ENDED (Table 15.2), the job is
released, and JOB_END completes with the frames released. -/
def endJob (p : Packet) (s : State) : State :=
  match s.job? p.job with
  | none => postErr p 0x0907 p.job s
  | some j =>
    let frames := s.framesOf j
    let s1 := abortPackets j.id p.key s
    let s2 := match j.start with
      | some q => postFinal q 0x00 0x0914 (s.fretsHeld j) 0 s1
      | none => s1
    fetchAll (postDone p frames 0 (endPreempts j.id (releaseJob j.id s2)))

/-! ## VI reset (R74, R75) -/

/-- A VI reset starts: the module stops fetching for the VI, ends its jobs without a record, and unmaps its range. -/
def startViReset (n : Nat) (s : State) : State :=
  let mine := s.opens.filter fun o => o.pkt.vi == n
  let s1 := s.updVi n fun v =>
    { v with resetBusy := true, sqs := v.sqs.map fun e => (e.1, { e.2 with fetched := [], waiting := [] })
             cqs := v.cqs.map fun e => (e.1, { e.2 with held := [] }) }
  let s2 := mine.foldl (fun s o => dropWork o.pkt.key s) { s1 with opens := s1.opens.filter fun o => o.pkt.vi != n }
  let s3 := (s.jobs.filter fun j => j.vi == n).foldl (fun s j => endPreempts j.id (releaseJob j.id s)) s2
  let s4 := unmapJob n 0xFFFF s3
  let s5 := settleFences s4.opens.length s4
  s5

/-! ## Switches (R643, R477) -/

/-- Save the SRAM and STAGE pages of a job into its context area, frame by frame (R477). -/
def savePages (j : Job) (s : State) : State :=
  let pages := (s.vi j.vi).pages.filter fun e =>
    e.2.job == j.id && (match e.2.home with | .sram _ _ _ => true | .stage _ _ => true | _ => false)
  (pages.zip j.ctxFrames).foldl (fun s x =>
    let m := x.1.2
    let s0 := s.copySpan m.home.base x.2.base pageSize
    let s1 := { s0 with devMem := s0.devMem.zero m.home.base.2 pageSize }
    s1.updVi j.vi fun v => { v with pages := tset v.pages x.1.1 { m with saved := some x.2 } }) s

/-- Return the saved pages of a job to their SRAM and STAGE frames (R477). -/
def returnPages (j : Job) (s : State) : State :=
  let pages := (s.vi j.vi).pages.filter fun e => e.2.job == j.id && e.2.saved.isSome
  pages.foldl (fun s x =>
    let m := x.2
    let s1 := s.copySpan m.now.base m.home.base pageSize
    s1.updVi j.vi fun v => { v with pages := tset v.pages x.1 { m with saved := none } }) s

/-- A context area moves to CTX_HOST (R634): saved copies go with it, the frames are released. What the rest of a context
area holds is not stated, so the host range holds free bytes there. -/
def evictJob (id : Nat) (s : State) : State :=
  match s.job? id with
  | none => s
  | some j =>
    let n := j.ctxFrames.length
    let host := (List.range n).map fun i => Home.host (j.ctxHost + i * pageSize)
    let m0 := s.hostMem.writeN j.ctxHost (s.freeBytes (n * pageSize))
    let saved := (s.vi j.vi).pages.filter fun e => e.2.job == j.id && e.2.saved.isSome
    let s1 := saved.foldl (fun s e =>
      match j.ctxFrames.findIdx? (fun h => some h == e.2.saved) with
      | none => s
      | some i =>
        let dst := Home.host (j.ctxHost + i * pageSize)
        (s.copySpan e.2.now.base dst.base pageSize).updVi j.vi fun v =>
          { v with pages := tset v.pages e.1 { e.2 with saved := some dst } })
      { s.nextFree with hostMem := m0 }
    let s2 := j.ctxFrames.foldl (fun s h => releaseHome h s) s1
    s2.updJob id fun j => { j with evicted := true, ctxFrames := host }

/-- An evicted job's context comes back to HBM frames when there are enough (R631, R643). -/
def recallCtx (id : Nat) (s : State) : Option State :=
  match s.job? id with
  | none => some s
  | some j =>
    if !j.evicted then some s
    else
      let fr := s.pickFrames (List.range 32) j.ctxFrames.length
      if fr.length < j.ctxFrames.length then none
      else
        let saved := (s.vi j.vi).pages.filter fun e => e.2.job == j.id && e.2.saved.isSome
        let s1 := saved.foldl (fun s e =>
          match (j.ctxFrames.zip fr).find? (fun x => some x.1 == e.2.saved) with
          | none => s
          | some (h, f) =>
            (s.copySpan h.base f.base pageSize).updVi j.vi fun v =>
              { v with pages := tset v.pages e.1 { e.2 with saved := some f } }) s
        some (s1.updJob id fun j => { j with evicted := false, ctxFrames := fr })

/-- Resident contexts (R630). -/
def State.resident (s : State) : Nat := (s.jobs.filter fun j => !j.evicted).length

/-- The SUSPENDED job that ran least recently and may be evicted (R634). -/
def State.evictable (s : State) : Option Job :=
  (s.jobs.filter fun j => j.state == 5 && !j.evicted && j.ctxHost != 0).foldl
    (fun best j => match best with
      | none => some j
      | some b => if j.lastRan < b.lastRan then some j else some b) none

end Sys2Proof.Machine
end

