-- ==== Sys2Proof/Machine/Fret.lean ====
section
/-! DEFINITION. Fret time (spec/03_fret_time.md): the counter, lock, epochs, beacons, the schedule and FRET_CONFIG. -/

namespace Sys2Proof.Machine

open Sys2Proof

/-- FTU_STATUS (Table 3.8). -/
def ftuStatus (f : Ftu) : Nat :=
  f.masterId.toNat * 2 ^ 16 + b2n f.countErr * 2 ^ 5 + b2n f.armed * 2 ^ 4 + f.source.toNat * 2 ^ 2 + f.state.toNat

/-- Change the FTU. -/
def State.updFtu (s : State) (f : Ftu → Ftu) : State := { s with ftu := f s.ftu }

/-- SOURCE of a role while it follows its source (Table 3.1). -/
def sourceOf (f : Ftu) : BitVec 2 :=
  match f.role.toNat with
  | 1 => if f.refPresent then 1 else 0
  | 2 => 1
  | 3 => 2
  | _ => 0

/-! ## Scheduled actions (R105 to R107) -/

/-- The condition of Table 3.3 that refuses an action for fret n: status, reason, RESULT0. -/
def schedRefusal (n : Nat) (s : State) : Option (Byte × Half × Nat) :=
  let c := s.ftu.count.toNat
  if n ≤ c then some (0xFF, 0x0F20, c)
  else if c + 2 ^ 40 < n then some (0xFF, 0x0F21, c)
  else if s.ftu.state.toNat < 2 then some (0xFF, 0x0F22, ftuStatus s.ftu)
  else if 256 ≤ s.ftu.sched.length then some (0x10, 0x0F23, n)
  else none

/-- Enter an action in the schedule. -/
def schedule (k : SchedKind) (n : Nat) (cmd : Option Key) (s : State) : State :=
  s.updFtu fun f => { f with sched := f.sched ++ [{ kind := k, fret := n, cmd := cmd }] }

/-- Order of the kinds at one boundary (R107); configuration actions are not begun by a row of their own. -/
def SchedKind.order : SchedKind → Nat
  | .ckpt => 0
  | .flip => 1
  | .coll => 2
  | .selftest => 3
  | .recal => 4
  | .epoch => 5
  | .period => 6

/-- The entry that begins next: of the entries whose fret has begun, the one of the lowest fret, then of the first kind
in the order of Table 3.4, then the first entered (R107). -/
def nextDue (s : State) : Option SchedEntry :=
  (s.ftu.sched.filter fun e => decide (e.fret ≤ s.ftu.count.toNat ∧ e.kind.order < 5)).foldl
    (fun best e => match best with
      | none => some e
      | some b => if e.fret < b.fret ∨ (e.fret = b.fret ∧ e.kind.order < b.kind.order) then some e else some b) none

/-- The due entry is this command's: it begins now and leaves the schedule. -/
def takeDue (kind : SchedKind) (k : Key) (s : State) : Option State :=
  match nextDue s with
  | some e => if e.kind = kind ∧ e.cmd = some k then some (unschedule k s) else none
  | none => none

/-- What a scheduled command had set up goes when its action never begins (R93). -/
def cancelSched (o : OpenCmd) (s : State) : State :=
  match o.prog with
  | .flip job model =>
    (match (s.job? job).bind fun j => j.models.find? fun m => m.handle == model with
     | none => s
     | some m =>
       (vwrite o.pkt.vi (m.wbase + 20) (leBytes 4 0xFFFFFFFF) s).updJob job fun j =>
         { j with models := j.models.map fun m => if m.handle = model then { m with flip := none } else m })
  | .take job ckpt => dropCkpt job ckpt s
  | .coll group _ _ _ _ _ =>
    { s with fab := { s.fab with groups := s.fab.groups.map fun g =>
        if g.job = o.pkt.job ∧ g.num = group then { g with queue := g.queue.filter (· != o.pkt) } else g } }
  | .selftest d _ => s.updDie d fun x => { x with coreTestWaits := none }
  | _ => s

/-! ## Times kept as counts -/

/-- A deadline kept as a count (0: none) when the counter goes from `old` to `new` within one fret. -/
def moveDeadline (old new d : Nat) : Nat := if d = 0 then 0 else max 1 (new + (d - old))

/-- The counts that a command in progress measures from, and its deadlines, when the counter jumps. -/
def Progress.moveCount (old new : Dword) : Progress → Progress
  | .kvReceive k t st u n bad => .kvReceive k t st (moveDeadline old.toNat new.toNat u) n bad
  | .push ph r off a b c u got => .push ph r off a b c (moveDeadline old.toNat new.toNat u) got
  | .coll g op st out recv u => .coll g op st out recv (moveDeadline old.toNat new.toNat u)
  | .linkPattern p u => .linkPattern p (moveDeadline old.toNat new.toNat u)
  | .pass b since w => .pass b (since + new - old) w
  | .passRun b since w t ws blk out sp => .passRun b (since + new - old) w t ws blk out sp
  | .passOut b since w t out a sig => .passOut b (since + new - old) w t out a sig
  | .updateRun d start ws => .updateRun d (start + new - old) ws
  | x => x

/-- The counter takes a count that is not the next one: what runs for a number of frets goes on for as many
(notes/assumptions/114.md). `old` is the count that this fret would have had. -/
def jumpCount (old new : Dword) (s : State) : State :=
  { s with
    ftu := { s.ftu with count := new }
    opens := s.opens.map fun o => { o with prog := o.prog.moveCount old new }
    jobs := s.jobs.map fun j =>
      { j with
        heldFrom := j.heldFrom + new - old, deferred := j.deferred.map fun x => (x.1, x.2 + new - old)
        models := j.models.map fun m => { m with drain := m.drain.map fun x => (x.1, new.toNat + (x.2 - old.toNat)) } } }

/-- Start of an epoch (R93): the counter takes 0, FTU_EPOCH increases, the FTU is disarmed, a pending period is dropped,
COUNT_ERR clears (R104), and every scheduled action that has not begun ends with EPOCH_RESET. -/
def startEpoch (s : State) : State :=
  let keys := s.ftu.sched.filterMap fun e => e.cmd
  let s1 := (jumpCount (s.ftu.count + 1) 0 s).updFtu fun f =>
    { f with epoch := f.epoch + 1, armed := false, pendingUs := 0, countErr := false, sched := []
             markWaiting := false }
  keys.foldl (fun s k => match s.open? k with
    | some o => postErr o.pkt 0x0F24 s.ftu.epoch.toNat (cancelSched o s)
    | none => s) s1

/-! ## The boundary (R85, R92, R102) -/

/-- Magnitude of a signed phase error in ns. -/
def errAbs (e : Half) : Nat := (toSigned 16 e.toNat).natAbs

/-- One boundary check with its observation (R102): consecutive passes within ±20 ns and consecutive counted failures. -/
def check (obs : Option Half) (f : Ftu) : Ftu :=
  let pass := match obs with | some e => decide (errAbs e ≤ 100) | none => false
  let near := match obs with | some e => decide (errAbs e ≤ 20) | none => false
  let counting := f.counting || pass || f.role != 1
  { f with phaseErr := obs.getD f.phaseErr, goodChecks := if near then f.goodChecks + 1 else 0,
           badChecks := if pass || !counting then 0 else f.badChecks + 1, counting := counting }

/-- The check that a boundary makes: a follower's against its source, a master's against FRET_REF once it is or has been
present (R102, R772); none in SOLO or UNSET. -/
def boundaryCheck (refPhase : Option Half) (f : Ftu) : Ftu :=
  let ref := if f.refPresent then refPhase else none
  match f.role.toNat with
  | 1 => if f.refPresent || f.counting then check ref f else f
  | 2 => if f.state = 0 then f else check ref f
  | 3 => if f.state = 0 then f else check (f.obs.map fun o => o.2.2) f
  | _ => f

/-- A master's entered epoch start for the fret that would begin. -/
def epochDue (f : Ftu) : Bool :=
  f.role == 1 && f.armed && f.sched.any fun e => e.kind == .epoch && e.fret == f.count.toNat + 1

/-- Count of the fret that begins: 0 at an epoch start (R93) or for an UNSET follower that has had an epoch mark (R85),
else one more. A beacon's count adopted since the mark stands. -/
def advance (s : State) : State :=
  let f := s.ftu
  if epochDue f then
    (startEpoch s).updFtu fun f => { f with epochOut := true }
  else if f.markWaiting && decide (2 ≤ f.role.toNat) then
    let adopt (f : Ftu) : Ftu :=
      if f.state = 0 then { f with state := 1, source := sourceOf f, goodChecks := 0, badChecks := 0 } else f
    if f.armed then (startEpoch s).updFtu adopt
    else if f.state = 0 then (jumpCount (f.count + 1) 0 s).updFtu fun f => adopt { f with markWaiting := false }
    else s.updFtu fun f => { f with count := f.count + 1, markWaiting := false }
  else s.updFtu fun f => { f with count := f.count + 1 }

/-- A pending period takes effect at the boundary that begins its fret (R89). -/
def takePeriod (f : Ftu) : Ftu :=
  let f1 := match f.bootPeriod with
    | some p => { f with periodUs := p, bootPeriod := none }
    | none => f
  if f1.sched.any fun e => e.kind == .period && e.fret == f1.count.toNat then
    { f1 with periodUs := f1.pendingUs, pendingUs := 0
              sched := f1.sched.filter fun e => !(e.kind == .period && e.fret == f1.count.toNat) }
  else f1

/-- A change of role takes effect (R773, R91); the role it has with another master ID changes the ID only
(notes/assumptions/106.md). -/
def takeRole (f : Ftu) : Ftu :=
  match f.pendingRole with
  | none => f
  | some (r, id) =>
    if r = f.role then { f with masterId := id, pendingRole := none }
    else
      let f1 := { f with
        role := r, masterId := id, pendingRole := none, armed := false, counting := false, goodChecks := 0
        badChecks := 0, obs := none, markWaiting := false, state := if 2 ≤ r.toNat then 0 else 2
        sched := f.sched.filter fun e => e.kind != SchedKind.epoch }
      { f1 with source := if r = 1 then sourceOf f1 else 0 }

/-- The beacon of the fret that begins (R97). -/
def beaconOf (s : State) (mark : Bool) : Beacon :=
  { count := s.ftu.count, epoch := s.ftu.epoch, period := s.ftu.periodUs, masterId := BitVec.ofNat 16 s.moduleId, hops := 0
    holdover := s.ftu.state == 3, epochMark := mark }

/-- Native-mode ports in service that are set in FTU_BEACON_TX (R96). -/
def State.beaconPorts (s : State) : List Nat :=
  (List.range 20).filter fun p => s.ftu.beaconTx.getLsbD p && !(s.port p).eth && ((s.port p).state == 2 || (s.port p).state == 4)

/-- A master sends one beacon on each beacon port (R96). -/
def sendBeacons (mark : Bool) (s : State) : State :=
  if s.ftu.role = 1 then
    { s with fab := { s.fab with beacons := s.beaconPorts.map fun p => (p, beaconOf s mark) } }
  else { s with fab := { s.fab with beacons := [] } }

/-- The FTU's part of a fret boundary, in the order of R107: check, epoch start or count, period, role, beacons. -/
def ftuBoundary (refPhase : Option Half) (s : State) : State :=
  let mark := epochDue s.ftu
  let s1 := s.updFtu fun f => { boundaryCheck refPhase f with obs := none, epochOut := false }
  let s2 := (advance s1).updFtu fun f => takeRole (takePeriod f)
  sendBeacons mark s2

/-- Boundaries left of every open fault window (R666). -/
def countWindows (s : State) : State :=
  { s with faults := s.faults.map fun e => (e.1, { e.2 with left := e.2.left - 1 }) }

/-- FTU_LOCK_ACQUIRED: 16 consecutive passing checks within ±20 ns in ACQUIRING or HOLDOVER (R102, R772). -/
def lockAcquired (s : State) : State :=
  if 16 ≤ s.ftu.goodChecks ∧ (s.ftu.state = 1 ∨ s.ftu.state = 3) then
    s.updFtu fun f => { f with state := 2, source := sourceOf f, badChecks := 0 }
  else s

/-- FTU_HOLDOVER_ENTRY: 2 consecutive counted checks failed while LOCKED (R102, R103). -/
def holdoverEntry (s : State) : State :=
  if 2 ≤ s.ftu.badChecks ∧ s.ftu.state = 2 then
    let s1 := s.updFtu fun f =>
      { f with state := 3, source := 0, lockLoss := satAdd f.lockLoss 1, goodChecks := 0, badChecks := 0 }
    faultEvent1 2092 (ftuStatus s1.ftu) s1
  else s

/-- An epoch mark reaches the FTU (R92, R94): taken by an armed or an UNSET follower, ignored and counted by a master
and by any other follower; nothing in SOLO. -/
def epochMark (f : Ftu) : Ftu :=
  if f.role = 0 then f
  else if f.role = 1 then { f with epochIgn := satAdd f.epochIgn 1 }
  else if f.armed ∨ f.state = 0 then { f with markWaiting := true }
  else { f with epochIgn := satAdd f.epochIgn 1 }

/-- A beacon is accepted: at a follower, of its master (R98). -/
def accepts (f : Ftu) (b : Beacon) : Bool := decide (2 ≤ f.role.toNat) && b.masterId == f.masterId

/-- The observation of the fret comes from the port of the lowest hop count, then of the lowest number (R98). -/
def observe (port : Nat) (b : Beacon) (phase : Half) (f : Ftu) : Ftu :=
  match f.obs with
  | some (h, p, _) =>
    if b.hops.toNat < h ∨ (b.hops.toNat = h ∧ port < p) then { f with obs := some (b.hops.toNat, port, phase) } else f
  | none => { f with obs := some (b.hops.toNat, port, phase) }

/-- A relayed beacon goes out on every beacon port with the hop count raised by one, unless it came with 8 (R99). -/
def relay (b : Beacon) (s : State) : State :=
  if 8 ≤ b.hops.toNat then s
  else { s with fab := { s.fab with
    beacons := s.fab.beacons ++ s.beaconPorts.map fun p => (p, { b with hops := b.hops + 1 }) } }

/-- The FTU's own count of the fret that a beacon begins: the count it adopts from it, 0 where the beacon's mark starts an epoch
here (R93), else the count it has (R104, notes/assumptions/33.md). -/
def ownCount (f : Ftu) (b : Beacon) : Dword :=
  if f.state = 0 then b.count else if b.epochMark && f.armed then 0 else f.count

/-- BEACON_RECEIVE (R94, R98, R99, R104). An epoch mark of a beacon that is not accepted counts in EPOCH_IGN at a master only
(notes/assumptions/105.md). -/
def beaconIn (port : Nat) (b : Beacon) (phase : Half) (s : State) : State :=
  if !(accepts s.ftu b) then
    if b.epochMark && s.ftu.role == 1 then s.updFtu epochMark else s
  else
    let unset := s.ftu.state = 0
    let s0 :=
      if unset then
        (jumpCount s.ftu.count b.count s).updFtu fun f =>
          { f with state := 1, source := sourceOf f, goodChecks := 0, badChecks := 0 }
      else s
    let s1 :=
      if b.count != ownCount s.ftu b || b.period != s.ftu.periodUs then
        faultEvent1 2093 (b.count.toNat % 2 ^ 32) (s0.updFtu fun f => { f with countErr := true })
      else s0
    let s2 := s1.updFtu fun f => observe port b phase f
    let s3 := if b.epochMark && !(unset && !s.ftu.armed) then s2.updFtu epochMark else s2
    relay b s3

/-- FRET_REF becomes present (R772). -/
def refGained (f : Ftu) : Ftu :=
  { f with refPresent := true, source := if f.role = 1 ∧ f.state = 2 then 1 else f.source
           counting := if f.role = 1 ∧ f.state = 2 then false else f.counting }

/-- FRET_REF becomes absent (R760): its observations are missing, and a master runs on its oscillator (R772). -/
def refLost (f : Ftu) : Ftu :=
  { f with refPresent := false, source := if f.role = 1 then 0 else f.source }

/-- FTU_LOCK_ACQUIRED (R102). -/
def execFtuLockAcquired (s : State) : Out := .next (lockAcquired s)

/-- FTU_HOLDOVER_ENTRY (R103). -/
def execFtuHoldoverEntry (s : State) : Out := .next (holdoverEntry s)

/-- BEACON_RECEIVE (R98). -/
def execBeaconReceive (port : Nat) (b : Beacon) (phase : Half) (s : State) : Out :=
  event (decide (port < 20)) (beaconIn port b phase s)

/-- EPOCH_IN_MARK (R94). -/
def execEpochInMark (s : State) : Out := .next (s.updFtu epochMark)

/-- FRET_REF_GAINED (R772). -/
def execFretRefGained (s : State) : Out := .next (s.updFtu refGained)

/-- FRET_REF_LOST (R760). -/
def execFretRefLost (s : State) : Out := .next (s.updFtu refLost)

/-! ## FRET_CONFIG (R110, R111, R773, R774) -/

/-- CONFIG_LOCKED of a command with SAVE (R721). -/
def lockRefusal (save : Bool) (group : Nat) (s : State) : Option (Byte × Half × Nat) :=
  if save && s.groupLocked group then some (0xFF, 0x0F4B, group) else none

/-- Complete a packet with a refusal. -/
def refuse (p : Packet) (e : Byte × Half × Nat) (s : State) : State := postFinal p e.1 e.2.1 e.2.2 0 s

/-- SET_ROLE: the change takes effect at the next fret boundary (R773). -/
def effSetRole (p : Packet) (s : State) : State :=
  let save := p.p1.getLsbD 31
  match lockRefusal save 1 s with
  | some e => refuse p e s
  | none =>
    let role := BitVec.ofNat 2 (bf p.p1 17 16)
    let id := BitVec.ofNat 16 (bf p.p1 15 0)
    let s1 := s.updFtu fun f => { f with pendingRole := some (role, id) }
    postDone p 0 0 (if save then journal 1 0 (leBytes 4 (role.toNat * 2 ^ 16 + id.toNat)) s1 else s1)

/-- SET_PERIOD (R89, R111): FRET_PERIOD first, then Table 3.3, then a locked group. -/
def effSetPeriod (p : Packet) (s : State) : State :=
  let us := bf p.p1 9 0
  let n := p.p2.toNat
  let save := p.p1.getLsbD 31
  if us = 0 ∨ 1000 < us then postErr p 0x0F25 us s
  else
    match (schedRefusal n s).or (lockRefusal save 1 s) with
    | some e => refuse p e s
    | none =>
      let s1 := s.updFtu fun f =>
        { f with pendingUs := BitVec.ofNat 10 us, sched := f.sched.filter fun e => e.kind != .period }
      let s2 := schedule .period n none s1
      postDone p 0 0 (if save then journal 1 1 (leBytes 4 us) s2 else s2)

/-- ARM_EPOCH (R91, R111, R774). -/
def effArmEpoch (p : Packet) (s : State) : State :=
  if s.ftu.role = 1 then
    let n := p.p2.toNat
    match schedRefusal n s with
    | some e => refuse p e s
    | none =>
      postDone p 0 0 (schedule .epoch n none (s.updFtu fun f =>
        { f with armed := true, sched := f.sched.filter fun e => e.kind != SchedKind.epoch }))
  else postDone p 0 0 (s.updFtu fun f => { f with armed := true })

/-- SET_BEACON_PORTS (R110). -/
def effSetBeaconPorts (p : Packet) (s : State) : State :=
  postDone p 0 0 (s.updFtu fun f => { f with beaconTx := BitVec.ofNat 20 (bf p.p1 19 0) })

/-- SET_ROLE (R773). -/
def execSetRole (p : Packet) (s : State) : Out := submit effSetRole p s

/-- SET_PERIOD (R111). -/
def execSetPeriod (p : Packet) (s : State) : Out := submit effSetPeriod p s

/-- ARM_EPOCH (R91). -/
def execArmEpoch (p : Packet) (s : State) : Out := submit effArmEpoch p s

/-- SET_BEACON_PORTS (R110). -/
def execSetBeaconPorts (p : Packet) (s : State) : Out := submit effSetBeaconPorts p s

end Sys2Proof.Machine
end

