-- ==== Sys2Proof/Machine/Memory.lean ====
section
/-! DEFINITION. Memory tiers (spec/12_memory_tiers.md): PLACE, MIGRATE, page moves, MOVE, FILL, FENCE, and the stacks. -/

namespace Sys2Proof.Machine

open Sys2Proof

/-! ## Places (R25, R479 to R481) -/

/-- Home stacks of a compute die (Table 1.2). -/
def homeStacks (d : Nat) : List Nat :=
  let e := if d = 16 then 2 else if d = 17 then 10 else d
  let h := e / 2
  [4 * h + 2 + e % 2, (4 * h + 4 + e % 2) % 32]

/-- Stacks in service that are home stacks of an active die. -/
def State.defaultMask (s : State) : List Nat :=
  (List.range 32).filter fun k => s.inService k && s.activeDies.any fun d => (homeStacks d).contains k

/-- The stacks that a selector names; 0 names the default (Table 12.3). -/
def State.maskStacks (s : State) (sel : Nat) : List Nat :=
  if sel % 2 ^ 32 = 0 then s.defaultMask else (List.range 32).filter fun k => sel.testBit k

/-- A selector names what cannot be a home (Table 12.4, HOME_INVALID). -/
def State.badSelector (s : State) (kind sel : Nat) : Bool :=
  match kind with
  | 0 =>
    let d := bn sel 20 16
    let c := bn sel 12 8
    !((s.die d).role == 1 && decide (c < 17) && s.role d c == 0)
  | 1 => false
  | 2 => (s.maskStacks sel).isEmpty || !((s.maskStacks sel).all s.inService)
  | 3 => false
  | _ => sel % 2 ^ 16 == s.moduleId

/-- HOME of a home (Table 12.1). -/
def Home.kind : Home → Nat
  | .sram _ _ _ => 0
  | .stage _ _ => 1
  | .hbm _ _ => 2
  | .host _ => 3
  | .remote _ _ => 4

/-- PLACE of a home (Table 12.5). -/
def Home.place : Home → Nat
  | .sram d c _ => d * 256 + c
  | .stage h _ => h
  | .hbm k _ => k
  | .host _ => 0
  | .remote m _ => m

/-- A free SRAM or stage frame of a place for an owner. -/
def State.freeSlot (s : State) (owner kind sel : Nat) (taken : List Home) : Option Home :=
  if kind = 0 then
    (firstFree (fun i => s.frameFree owner (.sram (bn sel 20 16) (bn sel 12 8) i)
      && !(taken.contains (.sram (bn sel 20 16) (bn sel 12 8) i))) 4 0).map fun i => .sram (bn sel 20 16) (bn sel 12 8) i
  else
    (firstFree (fun i => s.frameFree owner (.stage (sel % 8) i) && !(taken.contains (.stage (sel % 8) i))) 64 0).map
      fun i => .stage (sel % 8) i

/-- Deal pages to target homes in ascending VA order (R480): `cur` gives a page's present home, for MIGRATE. A page that
already has the target's kind and place is skipped (none). Stacks with no free frame drop out of the rotation. Answers the
targets in order and how many pages found no frame. -/
def dealHomes (s : State) (owner kind sel first addr : Nat) (cur : Nat → Option Home) :
    Nat → List Nat → List Nat → List Home → List (Nat × Option Home) × Nat
  | 0, _, pages, _ => ([], pages.length)
  | _, _, [], _ => ([], 0)
  | n + 1, rot, p :: ps, taken =>
    let here (q : Nat) : Bool :=
      match cur p with | some h => h.kind == kind && h.place == q | none => false
    let skip (rot' : List Nat) :=
      let r := dealHomes s owner kind sel first addr cur n rot' ps taken
      ((p, none) :: r.1, r.2)
    let give (h : Home) (rot' : List Nat) :=
      let r := dealHomes s owner kind sel first addr cur n rot' ps (h :: taken)
      ((p, some h) :: r.1, r.2)
    match kind with
    | 2 =>
      match rot with
      | [] => ([], (p :: ps).length)
      | k :: ks =>
        if here k then skip (ks ++ [k])
        else
          match s.freeHbm k taken with
          | some h => give h (ks ++ [k])
          | none => dealHomes s owner kind sel first addr cur n ks (p :: ps) taken
    | 3 => if here 0 then skip rot else give (.host (addr + (p - first) * pageSize)) rot
    | 4 => if here (sel % 2 ^ 16) then skip rot else give (.remote (sel % 2 ^ 16) (addr + (p - first) * pageSize)) rot
    | _ =>
      if here (if kind = 0 then bn sel 20 16 * 256 + bn sel 12 8 else sel % 8) then skip rot
      else
        match s.freeSlot owner kind sel taken with
        | some h => give h rot
        | none => ([], (p :: ps).length)

/-- Page numbers of a range. -/
def pageRange (va n : Nat) : List Nat := (List.range n).map fun i => va / pageSize + i

/-- The conditions that PLACE MAP and MIGRATE share, in the row order of Table 12.4, up to the selector. -/
def placeRefusal (p : Packet) (isMap : Bool) (s : State) : Option (Byte × Half × Nat) :=
  let n := bf p.p0 63 32
  let kind := bf p.p0 10 8
  let va := p.p1.toNat
  let addr := p.p3.toNat
  let pages := pageRange va n
  let far := kind == 3 || kind == 4
  if va % pageSize ≠ 0 then some (0xFF, 0x0107, va)
  else if far && addr % pageSize != 0 then some (0xFF, 0x0107, addr)
  else if isMap ∧ va = 0 then some (0xFF, 0x0108, 0)
  else if 2 ^ 52 < va + n * pageSize then some (0xFF, 0x0108, max va (2 ^ 52))
  else
    match pages.find? fun g => (tfind (s.vi p.vi).pages g).isSome == isMap with
    | some g => some (0xFF, if isMap then 0x0105 else 0x0106, g * pageSize)
    | none =>
      if s.badSelector kind p.p2.toNat then some (0xFF, 0x0104, p.p2.toNat)
      else if isMap && decide ((s.quota p.vi).pages < s.quotaUse p.vi + n) then
        some (0x10, 0x0102, s.quotaUse p.vi + n - (s.quota p.vi).pages)
      else if isMap && decide (8388608 < s.mapped + n) then some (0x10, 0x0103, s.mapped)
      else none

/-- PAGES or HOME that no command may carry (R84). -/
def placeMalformed (p : Packet) : Bool :=
  bf p.p0 63 32 == 0 || decide (1048576 < bf p.p0 63 32) || decide (4 < bf p.p0 10 8)

/-- Enter a mapping; a device frame reads as zero (R482). -/
def mapPage (n job g : Nat) (h : Home) (s : State) : State :=
  let s1 := s.updVi n fun v => { v with pages := tset v.pages g { home := h, job := job, move := none } }
  match h.base with
  | (.dev, a) => { s1 with devMem := s1.devMem.zero a pageSize }
  | _ => s1

/-- PLACE MAP (R480 to R482). -/
def effPlaceMap (p : Packet) (s : State) : State :=
  if placeMalformed p then postFree p s
  else
    match placeRefusal p true s with
    | some e => refuse p e s
    | none =>
      let kind := bf p.p0 10 8
      let sel := p.p2.toNat
      let pages := pageRange p.p1.toNat (bf p.p0 63 32)
      let rot := s.maskStacks sel
      let r := dealHomes s p.job kind sel (p.p1.toNat / pageSize) p.p3.toNat (fun _ => none) (pages.length + rot.length) rot pages []
      if r.2 ≠ 0 then postCap p 0x0101 r.2 s
      else
        postDone p 0 0 (r.1.foldl (fun s x => match x.2 with
          | some h => mapPage p.vi p.job x.1 h s
          | none => s) s)

/-- A page that a checkpoint has not copied is copied before it is unmapped (Table 14.4). -/
def keepPage (n g : Nat) (s : State) : State :=
  s.jobs.foldl (fun s j =>
    if j.vi = n then
      j.ckpts.foldl (fun s c => (c.todo.filter fun r => r / 32 == g).foldl (fun s r => copyRegion n g (r % 32) s j c) s) s
    else s) s

/-- Unmap one page and release its frame (R483). -/
def unmapPage (n g : Nat) (s : State) : State :=
  match tfind (s.vi n).pages g with
  | none => s
  | some m =>
    let s0 := keepPage n g s
    let s1 := s0.updVi n fun v => { v with pages := terase v.pages g }
    if m.saved.isSome then s1 else releaseHome m.home s1

/-- PLACE UNMAP (R483, R778): pages in motion are unmapped after their release. PAGES outside Table 12.2 is malformed (R84). -/
def effPlaceUnmap (p : Packet) (s : State) : State :=
  let n := bf p.p0 63 32
  let va := p.p1.toNat
  if n = 0 ∨ 1048576 < n then postFree p s
  else if va % pageSize ≠ 0 then postErr p 0x0107 va s
  else if 2 ^ 52 < va + n * pageSize then postErr p 0x0108 (max va (2 ^ 52)) s
  else
    let pages := pageRange va n
    let mapped := pages.filter fun g => (tfind (s.vi p.vi).pages g).isSome
    let moving := mapped.filter fun g => ((tfind (s.vi p.vi).pages g).bind (·.move)).isSome
    let still := mapped.filter fun g => !(moving.contains g)
    let s1 := still.foldl (fun s g => unmapPage p.vi g s) s
    if moving.isEmpty then postDone p mapped.length (n - mapped.length) s1
    else s1.openCmd p (.unmap moving still.length (n - mapped.length))

/-- Consecutive pages from a page on with the same HOME and PLACE (Table 12.5). -/
def runLength (t : Tbl Mapping) (h : Home) (g : Nat) : Nat → Nat
  | 0 => 0
  | k + 1 =>
    match tfind t g with
    | some m => if m.home.kind = h.kind ∧ m.home.place = h.place then 1 + runLength t h (g + 1) k else 0
    | none => 0

/-- PLACE QUERY (R484, R778). -/
def effPlaceQuery (p : Packet) (s : State) : State :=
  let va := p.p1.toNat
  let t := (s.vi p.vi).pages
  let g := va / pageSize
  if va % pageSize ≠ 0 then postErr p 0x0107 va s
  else if 2 ^ 52 ≤ va then postErr p 0x0108 va s
  else
    match tfind t g with
    | some m =>
      postDone p (m.home.place * 2 ^ 48 + 256 * b2n m.move.isSome + m.home.kind)
        (min (runLength t m.home g t.length) 0xFFFFFFFF) s
    | none =>
      let next := ((t.map (·.1)).filter fun k => decide (g < k)).foldl min (2 ^ 31)
      postDone p 0xFF (min (next - g) 0xFFFFFFFF) s

/-- MIGRATE (R481, R485): target frames are reserved at dispatch; the hubs' engines move the pages. -/
def effMigrate (p : Packet) (s : State) : State :=
  if placeMalformed p then postFree p s
  else
    match placeRefusal p false s with
    | some e => refuse p e s
    | none =>
      let kind := bf p.p0 10 8
      let sel := p.p2.toNat
      let pages := pageRange p.p1.toNat (bf p.p0 63 32)
      let rot := s.maskStacks sel
      let cur (g : Nat) : Option Home := (tfind (s.vi p.vi).pages g).map (·.home)
      let r := dealHomes s p.job kind sel (p.p1.toNat / pageSize) p.p3.toNat cur (pages.length + rot.length) rot pages []
      if r.2 ≠ 0 then postCap p 0x0101 r.2 s
      else
        let todo := r.1.filterMap fun x => x.2.map fun h => (x.1, h)
        let skipped := pages.length - todo.length
        if todo.isEmpty then postDone p 0 skipped s else s.openCmd p (.migrate todo 0 skipped false)

/-! ## Pages in motion (R485 to R492) -/

/-- Hub of a home, where it has one: stacks 4h to 4h + 3 and stage buffers. -/
def Home.hubOf : Home → Option Nat
  | .hbm k _ => some (k / 4)
  | .stage h _ => some h
  | _ => none

/-- The engine of a fenced hub's work: that of the next hub in ring order (Table 16.6). -/
def engineOf (fenced : Nat → Bool) : Nat → Nat → Nat
  | 0, h => h
  | n + 1, h => if fenced h then engineOf fenced n ((h + 1) % 8) else h

/-- Hub whose engine moves a page (R485): that of its source home, or of its target; hub 0 where neither has one. -/
def State.moveHub (s : State) (src dst : Home) : Nat :=
  engineOf (fun h => (s.hub h).migFenced) 8 ((src.hubOf.or dst.hubOf).getD 0)

/-- Pages that a hub's engine has in motion. -/
def State.movingOn (s : State) (h : Nat) : Nat :=
  (s.vis.map fun v => (v.2.pages.filter fun e => match e.2.move with | some m => m.hub == h | none => false).length).sum

/-- The job of a command runs, or the command has none. -/
def State.runs (s : State) (p : Packet) : Bool :=
  match s.job? p.job with
  | some j => j.state == 3
  | none => true

/-- A MIGRATE that has no page left to move and none in motion completes (R485, R486). -/
def finishMigrate (k : Key) (s : State) : State :=
  match s.open? k with
  | some { pkt := p, prog := .migrate todo moved skipped aborted } =>
    let inMotion := (s.vi p.vi).pages.any fun e => match e.2.move with | some m => m.cmd == some k | none => false
    if todo.isEmpty && !inMotion then
      if aborted then postFinal p 0x02 0x0000 0 0 s else postDone p moved skipped s
    else s
  | _ => s

/-- The next page of a MIGRATE that an engine may start: not in motion, of this hub. A page that a move before has brought
to the target's kind and place is skipped. -/
def startMove (h : Nat) (o : OpenCmd) (s : State) : Option State :=
  match o.prog with
  | .migrate todo moved skipped false =>
    let ready := todo.find? fun x =>
      match tfind (s.vi o.pkt.vi).pages x.1 with
      | some m => m.move.isNone && s.moveHub m.home x.2 == h
      | none => true
    match ready with
    | none => none
    | some (g, to_) =>
      let rest := todo.filter fun x => x.1 != g
      match tfind (s.vi o.pkt.vi).pages g with
      | none => some (finishMigrate o.pkt.key (s.setProg o.pkt.key (.migrate rest moved (skipped + 1) false)))
      | some m =>
        if m.home.kind = to_.kind ∧ m.home.place = to_.place then
          some (finishMigrate o.pkt.key (s.setProg o.pkt.key (.migrate rest moved (skipped + 1) false)))
        else
          let mv : PageMove := { target := to_, phase := 1, hub := h, cmd := some o.pkt.key }
          some ((s.setProg o.pkt.key (.migrate rest moved skipped false)).updVi o.pkt.vi fun v =>
            { v with pages := tset v.pages g { m with move := some mv } })
  | _ => none

/-- PAGE_MOVE_START: the hub's engine marks the next page of the oldest MIGRATE that has one for it, at most four at
once (R485, R488). -/
def pageMoveStart (h : Nat) (s : State) : State :=
  if 4 ≤ s.movingOn h || s.blkRst.any (fun r => r.block == .hubEngine h 0) then s
  else ((s.opens.filter fun o => s.runs o.pkt).findSome? fun o => startMove h o s).getD s

/-- Change a page's move. -/
def setMove (n g : Nat) (f : PageMove → PageMove) (s : State) : State :=
  s.updVi n fun v =>
    match tfind v.pages g with
    | some m => { v with pages := tset v.pages g { m with move := m.move.map f } }
    | none => v

/-- Phase of a page's move; 0 when it is not in motion. -/
def State.movePhase (s : State) (n g : Nat) : Nat :=
  (((tfind (s.vi n).pages g).bind (·.move)).map (·.phase)).getD 0

/-- A checkpoint that has fixed its freeze point has not copied some region of the page (R492). -/
def State.owesCopy (s : State) (n g : Nat) : Bool :=
  s.jobs.any fun j => j.vi == n && j.ckpts.any fun c => c.todo.any fun r => r / 32 == g

/-- PAGE_DRAIN_END: phase 2 ends; phase 3 follows when a checkpoint has not copied the page, else phase 4 (R488). -/
def pageDrainEnd (n g : Nat) (s : State) : State :=
  if s.movePhase n g = 1 then setMove n g (fun m => { m with phase := if s.owesCopy n g then 3 else 4 }) s else s

/-- A page in motion has its former home or its target on a stack that is held for recalibration: the move pauses (Table 12.8). -/
def State.movePaused (s : State) (n g : Nat) : Bool :=
  let held (h : Home) : Bool := match h with | .hbm k _ => (s.stk k).state == 3 | _ => false
  (tfind (s.vi n).pages g).any fun m => m.move.any fun mv => held m.now || held mv.target

/-- PAGE_COPY_AHEAD_DONE: the page lands in the checkpoint's first destination and counts as copied (R492). -/
def pageCopyAheadDone (n g : Nat) (s : State) : State :=
  if s.movePhase n g = 3 && !(s.movePaused n g) then
    let h := (((tfind (s.vi n).pages g).bind (·.move)).map (·.hub)).getD 0
    let s1 := (List.range 32).foldl (fun s i => copyAhead n (g * pageSize + i * 65536) s) s
    setMove n g (fun m => { m with phase := 4 }) (s1.updHub h fun x => { x with ahead := satAdd x.ahead 1 })
  else s

/-- UNMAPs that waited for a page unmap it now (Table 12.8). -/
def serveUnmaps (n g : Nat) (s : State) : State :=
  s.opens.foldl (fun s o =>
    match o.prog with
    | .unmap waits done skipped =>
      if o.pkt.vi = n ∧ waits.contains g then
        let s1 := unmapPage n g s
        let rest := waits.filter (· != g)
        if rest.isEmpty then postDone o.pkt (done + 1) skipped s1
        else s1.setProg o.pkt.key (.unmap rest (done + 1) skipped)
      else s
    | _ => s) s

/-- PAGE_COPY_DONE: 2 MiB copied, the translation names the new home, the former frame is zeroed and freed (R488);
`ns` is the longest wait of an access on the page (MEM_WAIT). -/
def pageCopyDone (n g ns : Nat) (s : State) : State :=
  match tfind (s.vi n).pages g with
  | some m =>
    match m.move with
    | some mv =>
      if mv.phase ≠ 4 || s.movePaused n g then s
      else
        let s1 := s.copySpan m.now.base mv.target.base pageSize
        let s2 := s1.updVi n fun v =>
          { v with pages := tset v.pages g { m with home := mv.target, move := none, saved := none } }
        let s3 := if m.saved.isSome then s2 else releaseHome m.home s2
        let s4 := s3.updHub mv.hub fun x => { x with mig := satAdd x.mig 1 }
        let s5 := { s4 with ctr := { s4.ctr with memWait := satMax s4.ctr.memWait ns } }
        let s6 := match mv.cmd with
          | some k =>
            (match s5.open? k with
             | some { pkt := _, prog := .migrate todo moved skipped ab } =>
               finishMigrate k (s5.setProg k (.migrate todo (moved + 1) skipped ab))
             | _ => s5)
          | none => s5
        serveUnmaps n g s6
    | none => s
  | none => s

/-- FRAME_ZEROED: the frame returns to the free frames (R76). -/
def frameZeroed (f : Nat) (s : State) : State := { s with zeroing := s.zeroing.filter (· != f) }

/-! ## MOVE, FILL, FENCE (R493 to R497) -/

/-- The mover engines that are not fenced, dies in ascending order, M0 before M1, as stream indices (R494, Table 6.12).
Rows are dealt over them in turn (notes/assumptions/10.md). -/
def State.movers (s : State) : List Nat :=
  s.activeDies.flatMap fun d =>
    (if (s.die d).m0Fenced then [] else [streamIx s.moduleId d 17 1])
    ++ (if (s.die d).m1Fenced then [] else [streamIx s.moduleId d 17 2])

/-- Formats that MOVE converts (R494). -/
def moveFmt (c : Nat) : Bool := [0x01, 0x02, 0x03, 0x04, 0x05, 0x0B].contains c

/-- Elements of a row of bytes. -/
def rowElems (size : Nat) : Nat → List Byte → List Nat
  | 0, _ => []
  | n + 1, bs => leNat (bs.take size) :: rowElems size n (bs.drop size)

/-- Convert elements one by one, drawing for each (R147, R148, R494). -/
def convElems (src : Nat) (nw : Narrow) (j : Nat) : List Nat → Gens → List Byte × Gens
  | [], g => ([], g)
  | x :: xs, g =>
    let d := if nw.fmt = 0x01 then (0, g) else g.draw j (rndBits nw.rnd)
    let y := narrowElem nw d.1 (readElem src x)
    let r := convElems src nw j xs d.2
    (leBytes (elemBits nw.fmt / 8) y ++ r.1, r.2)

/-- Bytes that row i writes, and the generators after it. -/
def moveRow (p : Packet) (engines : List Nat) (i : Nat) (bs : List Byte) (g : Gens) : List Byte × Gens :=
  if p.p4.getLsbD 32 then
    let src := bf p.p4 31 24
    let size := elemBits src / 8
    let j := engines.getD (i % engines.length) 0
    convElems src (narrowOf (bf p.p4 15 0)) j (rowElems size (bs.length / size) bs) g
  else (bs, g)

/-- Rows i to i + n - 1 of a MOVE, until an access fails (R82): each is read whole and then written, in order, which shows where
the ranges overlap (notes/assumptions/100.md). -/
def moveRows (p : Packet) : Nat → Nat → State → State × Option MemErr
  | 0, _, s => (s, none)
  | n + 1, i, s =>
    match vread p.vi s (p.p0.toNat + i * bf p.p3 63 32) (bf p.p2 63 32) with
    | .error e => (s, some e)
    | .ok bs =>
      let r := moveRow p s.movers i bs (s.gens p.job)
      let w := vstore p (p.p1.toNat + i * bf p.p3 31 0) r.1 (if p.p4.getLsbD 32 then s.putGens p.job r.2 else s)
      match w.2 with
      | some e => (w.1, some e)
      | none => moveRows p n (i + 1) w.1

/-- Malformed parameters of a MOVE (R494, R84). -/
def moveMalformed (p : Packet) : Bool :=
  bf p.p2 63 32 == 0 || bf p.p2 31 0 == 0
  || (p.p4.getLsbD 32 && (!(moveFmt (bf p.p4 31 24)) || !(moveFmt (bf p.p4 7 0))
      || bf p.p2 63 32 % (elemBits (bf p.p4 31 24) / 8) != 0))

/-- Finish a command that reads and writes memory in one go. -/
def finishMem (p : Packet) (r : State × Option MemErr) (r0 r1 : Nat) : State :=
  match r.2 with
  | some e => memFail p e r.1
  | none => postDone p r0 r1 r.1

/-- MOVE (R493, R494). -/
def effMove (p : Packet) (s : State) : State :=
  if moveMalformed p then postFree p s
  else finishMem p (moveRows p (bf p.p2 31 0) 0 (markPhase p.job 8 s)) 0 0

/-- The bytes that FILL writes. -/
def fillBytes (p : Packet) : List Byte :=
  (List.range p.p1.toNat).map fun i => BitVec.ofNat 8 (p.p2.toNat / 2 ^ (8 * (i % 8)))

/-- FILL (R495). -/
def effFill (p : Packet) (s : State) : State :=
  if p.p0.toNat % 8 ≠ 0 ∨ p.p1.toNat % 8 ≠ 0 then postFree p s
  else finishMem p (vstore p p.p0.toNat (fillBytes p) (markPhase p.job 8 s)) 0 0

/-- FENCE (R497): it awaits every packet in scope that is dispatched and has not posted its final record. -/
def effFence (p : Packet) (s : State) : State :=
  let awaits := (s.dispatched p.vi).filter fun k => (p.p0.getLsbD 0 || k.sq == p.sq) && k != p.key
  if awaits.isEmpty then postDone p 0 0 s else s.openCmd p (.fence awaits)

/-! ## Stacks (R499 to R513, R694, R695) -/

/-- CALIBRATE (R694, R695): entered in the fret schedule (R105). -/
def effCalibrate (p : Packet) (s : State) : State :=
  let mask := bf p.p1 31 0
  let ks := (List.range 32).filter fun k => mask.testBit k
  if ks.isEmpty || !(ks.all s.inService) then postErr p 0x0A03 mask s
  else
    match schedRefusal p.p2.toNat s with
    | some e => refuse p e s
    | none => (schedule .recal p.p2.toNat (some p.key) s).openCmd p (.calibrate ks 0 0)

/-- The CALIBRATE whose window on a stack is due or has begun, with the state in which its entry has left the
schedule. -/
def dueWindow (k : Nat) (s : State) : Option (OpenCmd × State) :=
  s.opens.findSome? fun o =>
    match o.prog with
    | .calibrate left _ _ =>
      if !(left.contains k) then none
      else if s.ftu.sched.any fun e => e.cmd == some o.pkt.key then
        (takeDue .recal o.pkt.key s).map fun s1 => (o, s1)
      else some (o, s)
    | _ => none

/-- RECAL_WINDOW_START: traffic held, recalibration begins (R502). -/
def recalStart (k : Nat) (s : State) : State :=
  match dueWindow k s with
  | none => s
  | some (_, s1) => if (s1.stk k).state = 1 then s1.updStk k fun t => { t with state := 3, holdForced := false } else s1

/-- Repairs of a window: the first `rows` of at most 8 due rows are repaired, the others of them have no spare row and
their frames are to be retired (R504). -/
def repairRows (k rows : Nat) (s : State) : State :=
  let due := (s.stk k).rowsDue.take 8
  let done := due.take rows
  let bad := due.drop rows
  let s1 := s.updStk k fun t =>
    { t with rowsDue := t.rowsDue.drop 8, soft := satAdd t.soft done.length, retireNext := t.retireNext ++ bad }
  done.foldl (fun s f => addHint 1 (k + 256 * f) 0 s) s1

/-- The windows of a CALIBRATE end one by one; it completes with the last (R694). -/
def closeWindowOf (k repairs : Nat) (s : State) : State :=
  (s.opens.findSome? fun o =>
    match o.prog with
    | .calibrate left n d =>
      if left.contains k && !(s.ftu.sched.any fun e => e.cmd == some o.pkt.key) then
        let rest := left.filter (· != k)
        some (if rest.isEmpty then postDone o.pkt (n + repairs) (d + 1) s
              else s.setProg o.pkt.key (.calibrate rest (n + repairs) (d + 1)))
      else none
    | _ => none).getD s

/-- RECAL_WINDOW_END: recalibration and repairs end, traffic is released (R502 to R504). -/
def recalEnd (k rows : Nat) (s : State) : State :=
  let t := s.stk k
  if t.state ≠ 3 then s
  else
    let n := min rows (min 8 t.rowsDue.length)
    let s1 := repairRows k rows s
    let s2 := s1.updStk k fun t =>
      { t with state := 1, recalDue := false, holdForced := false
               windows := if t.holdForced then t.windows else satAdd t.windows 1 }
    if t.holdForced then s2 else closeWindowOf k n s2

/-- RECAL_FORCED: after RECAL_DUE has stayed set for 1 s the controller holds the stack on its own (R503). -/
def recalForced (k : Nat) (s : State) : State :=
  let t := s.stk k
  if t.recalDue && t.state == 1 then
    s.updStk k fun t => { t with state := 3, holdForced := true, forced := satAdd t.forced 1 }
  else s

/-- A corrected error of a row in this scrub pass; at 4 the row is due for repair (R504). The model counts rows by the
frame that holds them (notes/assumptions/11.md). -/
def rowError (k f : Nat) (s : State) : State :=
  s.updStk k fun t =>
    let n := tget 0 t.rowErrs f + 1
    { t with rowErrs := tset t.rowErrs f n
             rowsDue := if n = 4 ∧ !(t.rowsDue.contains f) then t.rowsDue ++ [f] else t.rowsDue }

/-- A frame is the former home or the target of a page in motion. -/
def State.frameMoving (s : State) (k f : Nat) : Bool :=
  s.vis.any fun v => v.2.pages.any fun e => e.2.move.any fun mv => e.2.now == .hbm k f || mv.target == .hbm k f

/-- SCRUB_BURST: one burst read; result 0 clean, 1 corrected, 2 uncorrectable (R510 to R513). The scrubber skips the frames of a
page in motion and visits them later in its pass (Table 12.8). -/
def scrubBurst (k f b result : Nat) (s : State) : State :=
  if !(s.inService k) || s.frameMoving k f then s
  else
    let s1 :=
      match result with
      | 1 => faultEvent1 (1950 + 3 * k) f (rowError k f s)
      | 2 => faultEvent1 (1950 + 3 * k + 1) (lastErrWord true f b) (s.updStk k fun t =>
          { t with ueScrub := satAdd t.ueScrub 1, lastErr := BitVec.ofNat 32 (lastErrWord true f b)
                   ueBursts := if t.ueBursts.contains (f, b) then t.ueBursts else t.ueBursts ++ [(f, b)] })
      | _ => s
    s1.updStk k fun t =>
      if t.scrubDone + 1 = 2 ^ 30 then { t with scrubDone := 0, scrubPasses := satAdd t.scrubPasses 1, rowErrs := [] }
      else { t with scrubDone := t.scrubDone + 1 }

/-! ## The commands -/

/-- MOVE (R493). -/
def execMove (p : Packet) (s : State) : Out := submit effMove p s
/-- FILL (R495). -/
def execFill (p : Packet) (s : State) : Out := submit effFill p s
/-- MIGRATE (R485). -/
def execMigrate (p : Packet) (s : State) : Out := submit effMigrate p s
/-- PLACE_MAP (R482). -/
def execPlaceMap (p : Packet) (s : State) : Out := submit effPlaceMap p s
/-- PLACE_UNMAP (R483). -/
def execPlaceUnmap (p : Packet) (s : State) : Out := submit effPlaceUnmap p s
/-- PLACE_QUERY (R484). -/
def execPlaceQuery (p : Packet) (s : State) : Out := submit effPlaceQuery p s
/-- FENCE (R497). -/
def execFence (p : Packet) (s : State) : Out := submit effFence p s
/-- CALIBRATE (R694). -/
def execCalibrate (p : Packet) (s : State) : Out := submit effCalibrate p s
/-- PAGE_MOVE_START (R488). -/
def execPageMoveStart (hub : Nat) (s : State) : Out := event (decide (hub < 8)) (pageMoveStart hub s)
/-- PAGE_DRAIN_END (R488). -/
def execPageDrainEnd (vi page : Nat) (s : State) : Out := event (viOk vi) (pageDrainEnd vi page s)
/-- PAGE_COPY_AHEAD_DONE (R492). -/
def execPageCopyAheadDone (vi page : Nat) (s : State) : Out := event (viOk vi) (pageCopyAheadDone vi page s)
/-- FRAME_ZEROED (R76). -/
def execFrameZeroed (frame : Nat) (s : State) : Out := .next (frameZeroed frame s)
/-- RECAL_WINDOW_START (R502). -/
def execRecalWindowStart (stack : Nat) (s : State) : Out := event (decide (stack < 32)) (recalStart stack s)
/-- RECAL_WINDOW_END (R502). -/
def execRecalWindowEnd (stack rows : Nat) (s : State) : Out := event (decide (stack < 32)) (recalEnd stack rows s)
/-- RECAL_DUE_SET (R502). -/
def execRecalDueSet (stack : Nat) (s : State) : Out :=
  event (decide (stack < 32)) (s.updStk stack fun t => { t with recalDue := true })
/-- RECAL_FORCED (R503). -/
def execRecalForced (stack : Nat) (s : State) : Out := event (decide (stack < 32)) (recalForced stack s)
/-- RECALIBRATION_TIMEOUT (R678): a recalibration not complete within 40 µs of the hold raises HBM_TRAIN with INFO 1. -/
def execRecalibrationTimeout (stack : Nat) (s : State) : Out :=
  event (decide (stack < 32)) (if (s.stk stack).state = 3 then faultEvent1 (1950 + 3 * stack + 2) 1 s else s)
/-- SCRUB_BURST (R510). -/
def execScrubBurst (stack frame burst result : Nat) (s : State) : Out :=
  event (decide (stack < 32 ∧ frame < 32768 ∧ burst < 32768)) (scrubBurst stack frame burst result s)
/-- SCRUB_DEMAND_SLOT (R511): the scrubber takes a demand slot; only the time of demand traffic changes. -/
def execScrubDemandSlot (stack : Nat) (s : State) : Out := event (decide (stack < 32)) s

end Sys2Proof.Machine
end

