-- ==== Sys2Proof/Machine/Jobs.lean ====
section
/-! DEFINITION. Jobs, admission, pre-emption and switches (spec/15_job_scheduling.md). -/

namespace Sys2Proof.Machine

open Sys2Proof

/-! ## Creating (R630 to R632) -/

/-- Frames of a context area: 24 MiB for each active core and 4 MiB for each active die (R631). -/
def State.ctxSize (s : State) : Nat :=
  12 * (s.activeDies.map fun d => (s.activeCoresOf d).length).sum + 2 * s.activeDies.length

/-- The lowest job ID that no job holds (R630). -/
def State.freeJobId (s : State) : Nat :=
  (firstFree (fun i => !(s.jobs.any fun j => j.id == i)) 1024 0).getD 0

/-- A job as JOB_CREATE makes it. -/
def newJob (id n ctxHost : Nat) (frames : List Home) : Job :=
  { id := id, vi := n, state := 0, ctxHost := ctxHost, evicted := false, ctxFrames := frames, cmdList := [], start := none
    deferred := none, heldFrom := 0, lastRan := 0, cls := 0, lastRoll := none, preempt := 0, preemptBy := 0, capoFret := 0, everRun := false
    seedLo := 0, seedHi := 0, seedLoads := 0, progs := [], funcs := [], gens := [], upds := [], stepSize := none
    passes := [], window := none, rollouts := [], pools := [], models := [], ckpts := [], holds := [], parities := []
    domain := 0 }

/-- Why a context area cannot be had: the largest shortfall among quota, module limit and free frames (R632). -/
def State.ctxShort (s : State) (n size : Nat) : Nat :=
  max (max (s.quotaUse n + size - (s.quota n).pages) (s.mapped + size - 8388608)) (size - s.memFree)

/-- JOB_CREATE (R632): refusals in the order of its list. -/
def effJobCreate (p : Packet) (s : State) : State :=
  let mine := (s.jobs.filter fun j => j.vi == p.vi).length
  let size := s.ctxSize
  let full := 256 ≤ s.resident
  if p.p0.toNat % pageSize ≠ 0 then postFree p s
  else if (s.quota p.vi).cls = 0 then postFinal p 0x11 0x0904 p.vi 0 s
  else if (s.quota p.vi).jobs ≤ mine then postCap p 0x0901 mine s
  else if 1024 ≤ s.jobs.length ∨ (full ∧ s.evictable.isNone) then postCap p 0x0902 s.resident s
  else if s.ctxShort p.vi size ≠ 0 then postCap p 0x0903 (s.ctxShort p.vi size) s
  else
    let frames := s.pickFrames (List.range 32) size
    let id := s.freeJobId
    let s1 := match s.evictable with
      | some j => if full then evictJob j.id s else s
      | none => s
    postDone p id size { s1 with jobs := s1.jobs ++ [newJob id p.vi p.p0.toNat frames] }

/-! ## The admission queue (R636 to R639) -/

/-- Put a job in the queue: Reserved ahead of Standard, at the head or the tail of its class (R637). -/
def enqueue (id : Nat) (atHead : Bool) (s : State) : State :=
  let res := s.sched.queue.filter fun i => s.clsOf i == 1
  let std := s.sched.queue.filter fun i => s.clsOf i != 1
  let q := if s.clsOf id = 1 then (if atHead then id :: res else res ++ [id]) ++ std
           else res ++ (if atHead then id :: std else std ++ [id])
  (s.updJob id fun j => { j with state := 1 }) |> fun s1 => { s1 with sched := { s1.sched with queue := q } }

/-- The JOB_START of a queued Standard job receives DEFERRED with its position (R639). -/
def defer (id : Nat) (s : State) : State :=
  match s.job? id with
  | some j =>
    (match j.start with
     | some q =>
       postInterim q 0x08 0x0910 (s.position id)
         (s.updJob id fun j => { j with deferred := some (s.position id, s.ftu.count) })
     | none => s)
  | none => s

/-- Queue a job at the tail of its class; a Standard job is told its position. -/
def enqueueTail (id : Nat) (s : State) : State :=
  let s1 := enqueue id false s
  if s.clsOf id = 2 then defer id s1 else s1

/-- The job that holds the module for Table 15.3: the one switching in, else the holder. -/
def State.holding (s : State) : Option Nat := s.sched.incoming.or s.sched.holder

/-- Pre-empt a job at its next capo point: cause 1 by class, 2 by command, 3 by ABORT (R638, R642, R651). -/
def preempt (id cause by_ : Nat) (s : State) : State :=
  let s1 := s.updJob id fun j => { j with preempt := cause, preemptBy := by_ }
  match s.job? id with
  | some j => if j.state = 3 then requestCapo s1 else s1
  | none => s1

/-- A pre-emption of the holder is in progress. -/
def State.preempting (s : State) (id : Nat) : Bool :=
  match s.job? id with
  | some j => j.preempt != 0 || j.state == 4
  | none => false

/-- An arrival that pre-empts a holder of lower class (Table 15.3, R637): to the head of its class, or behind an arrival
that is pre-empting already; a Standard job that it overtakes is told its position. -/
def arriveOver (id h : Nat) (s : State) : State :=
  if s.preempting h then
    let s1 := enqueue id false s
    if s.clsOf id = 1 then
      (s1.sched.queue.filter fun i => s1.clsOf i == 2 && ((s1.job? i).map fun j => j.deferred.isNone) == some true).foldl
        (fun s i => defer i s) s1
    else if s1.position id ≠ 1 then defer id s1 else s1
  else preempt h 1 id (enqueue id true s)

/-- Admission in JOB mode (Table 15.3). -/
def admitJob (id : Nat) (s : State) : State :=
  let cls := s.clsOf id
  match s.holding with
  | none =>
    if s.sched.queue.isEmpty then startSwitch id s
    else enqueueTail id s
  | some h =>
    let hc := s.clsOf h
    if cls = 1 ∧ hc ≠ 1 ∨ cls = 2 ∧ hc = 3 then arriveOver id h s
    else enqueueTail id s

/-- A Backfill arrival is refused unless the module and the queue are free (Table 15.3). -/
def backfillBusy (cls : Nat) (s : State) : Bool :=
  !s.sched.stepMode && cls == 3 && (s.holding.isSome || !s.sched.queue.isEmpty)

/-- The first JOB_START sets the seed (R226) and opens the first window (R419). -/
def firstStart (id : Nat) (s : State) : State :=
  match s.job? id with
  | some j =>
    if j.everRun then s
    else
      openWindow id s.ftu.count (s.updJob id fun j =>
        { j with everRun := true, seedLo := s.ftu.count, seedHi := BitVec.ofNat 64 (id * 2 ^ 16 + 1), gens := [] })
  | none => s

/-- JOB_START (R635, R636, R647). -/
def effJobStart (p : Packet) (s : State) : State :=
  match s.job? p.job with
  | none => postErr p 0x0907 p.job s
  | some j =>
    if j.state ≠ 0 ∧ j.state ≠ 5 then postErr p 0x0906 j.state s
    else if (s.quota j.vi).cls = 0 then
      postFinal p 0x11 0x0904 j.vi 0
        { s with ctr := { s.ctr with refusalsClass := satAdd s.ctr.refusalsClass 1 } }
    else if backfillBusy (s.quota j.vi).cls s then
      postCap p 0x0905 (s.holding.getD 0xFFFF)
        { s with ctr := { s.ctr with refusalsBackfill := satAdd s.ctr.refusalsBackfill 1 } }
    else
      let s1 := (firstStart j.id s).openCmd p .jobStart
      let s2 := s1.updJob j.id fun j =>
        { j with start := some p, deferred := none, preempt := 0, cls := (s.quota j.vi).cls }
      if s.sched.stepMode then
        let s3 := s2.updJob j.id fun j => { j with state := 1 }
        let s4 := { s3 with sched := { s3.sched with turns := s3.sched.turns ++ [j.id] } }
        if s4.holding.isNone then startSwitch j.id s4 else s4
      else admitJob j.id s2

/-! ## Pre-emption and the switch (R638, R642, R643) -/

/-- The open JOB_START of a job completes. -/
def closeStart (id : Nat) (status : Byte) (reason : Half) (r0 r1 : Nat) (s : State) : State :=
  match (s.job? id).bind (·.start) with
  | some q => postFinal q status reason r0 r1 (s.updJob id fun j => { j with start := none })
  | none => s

/-- The holder reaches the capo point of its pre-emption (Tables 15.1, 15.2): its JOB_START completes, it switches out,
and the next job switches in. -/
def jobCapo (s : State) : State :=
  match s.sched.holder.bind s.job? with
  | none => s
  | some j =>
    if j.preempt = 0 ∨ j.state ≠ 3 then s
    else
      let c := s.ftu.count
      let s0 := { s with sched := { s.sched with turns := s.sched.turns.filter (· != j.id) } }
      let next := if s0.sched.stepMode then s0.firstBusy (s.turnOrder.filter (· != j.id)) else s0.sched.queue.head?
      let s1 := (if j.preempt = 1 then closeStart j.id 0x18 0x0911 c.toNat (next.getD 0xFFFF) s0
        else if j.preempt = 2 then closeStart j.id 0x18 0x0912 c.toNat 0xFFFF s0
        else closeStart j.id 0x02 0x0000 0 0 s0)
      let s2 := s1.updJob j.id fun j => { j with state := 4, preempt := 0, capoFret := c }
      let s3 := { s2 with
        ctr := { s2.ctr with
          preemptsClass := satAdd s2.ctr.preemptsClass (if j.preempt = 1 then 1 else 0)
          preemptsCommand := satAdd s2.ctr.preemptsCommand (if j.preempt = 2 then 1 else 0) }
        sched := { s2.sched with switching := true } }
      match next with
      | some id => startSwitch id s3
      | none => s3

/-- A switched-out job's JOB_PREEMPTs complete, or go on to its eviction (R642). -/
def finishPreempts (id us : Nat) (s : State) : State :=
  s.opens.foldl (fun s o =>
    match o.prog with
    | .jobPreempt j evict =>
      if j ≠ id then s
      else
        match s.job? id with
        | some x => if evict && x.ctxHost != 0 && !x.evicted then s else postDone o.pkt x.capoFret.toNat us s
        | none => s
    | _ => s) s

/-- The outgoing job has left the cores: its pages are in its context area, and it is SUSPENDED, or between turns in STEP
mode (R477, R647). -/
def switchOut (us : Nat) (s : State) : State :=
  match s.sched.holder.bind s.job? with
  | some j =>
    if j.state ≠ 4 then s
    else
      let s1 := (savePages j s).updJob j.id fun j => { j with state := if j.start.isSome then 1 else 5 }
      finishPreempts j.id us { clearStreams j.id s1 with sched := { s1.sched with holder := none } }
  | none => s

/-- Streams of a job are in place on every active core (GEN_JOB). -/
def placeStreams (id loads : Nat) (s : State) : State :=
  s.activeDies.foldl (fun s d => (s.activeCoresOf d).foldl (fun s c =>
    s.updCore d c fun k => { k with genJob := BitVec.ofNat 16 id, genLoads := BitVec.ofNat 16 loads }) s) s

/-- The incoming job is on the cores and RUNNING (R643); a pre-emption that is due asks for its first capo
point (R638). None while an evicted context finds no frames. -/
def switchIn (id us : Nat) (s : State) : Option State :=
  match s.job? id with
  | none => some s
  | some j =>
    let s0 := if j.evicted && decide (256 ≤ s.resident) then
      (match s.evictable with | some x => evictJob x.id s | none => s) else s
    match recallCtx id s0 with
    | none => none
    | some s1 =>
      let s2 := returnPages ((s1.job? id).getD j) s1
      let s3 := s2.updJob id fun j =>
        { j with state := 3, heldFrom := s.ftu.count, lastRan := s.sched.runs + 1 }
      let s4 := { clearCapo s3 with
        sched := { s3.sched with holder := some id, incoming := none, switching := false, runs := s.sched.runs + 1 }
        ctr := { s3.ctr with jobSwitches := satAdd s3.ctr.jobSwitches 1, jobSwitchLong := satMax s3.ctr.jobSwitchLong us } }
      let s5 := placeStreams id j.seedLoads s4
      some (if j.preempt ≠ 0 then requestCapo s5 else s5)

/-- The packets held in a running job's command list run in dispatch order (R640). -/
def runHeld (run : Packet → State → State) (id : Nat) : Nat → State → State
  | 0, s => s
  | n + 1, s =>
    match s.job? id with
    | some j =>
      if j.state ≠ 3 then s
      else
        match j.cmdList with
        | [] => s
        | q :: rest => runHeld run id n (run q (s.updJob id fun j => { j with cmdList := rest }))
    | none => s

/-- JOB_SWITCH_END (R643, R644): the streaming ends. -/
def switchEnd (run : Packet → State → State) (us : Nat) (s : State) : State :=
  if !s.sched.switching then s
  else
    let s1 := switchOut us s
    match s1.sched.incoming with
    | none => startNext s1.turnOrder { clearCapo s1 with sched := { s1.sched with switching := false } }
    | some id =>
      match switchIn id us s1 with
      | none => s1
      | some s2 => fetchAll (runHeld run id (((s2.job? id).map fun j => j.cmdList.length).getD 0) s2)

/-- JOB_PREEMPT of a job that is removed from the queue or lies SUSPENDED (R642). -/
def preemptIdle (p : Packet) (j : Job) (s : State) : State :=
  let evict := p.p0.getLsbD 16
  let s1 := if j.state = 1 then
      (closeStart j.id 0x18 0x0913 s.ftu.count.toNat 0 (unqueue j.id s)).updJob j.id fun j => { j with state := 5 }
    else s
  if evict && j.state != 0 && j.ctxHost != 0 && !j.evicted then s1.openCmd p (.jobPreempt j.id true)
  else postDone p 0 0 s1

/-- JOB_PREEMPT (R642). -/
def effJobPreempt (p : Packet) (s : State) : State :=
  let id := if p.vi = 0 ∧ p.job = 0xFFFF then bf p.p0 15 0 else p.job
  match s.job? id with
  | none => if p.vi = 0 then postErr p 0x0907 id s else postFree p s
  | some j =>
    if j.state = 2 ∨ j.state = 3 then
      (if j.preempt = 0 then preempt id 2 0xFFFF s else s).openCmd p (.jobPreempt id (p.p0.getLsbD 16))
    else if j.state = 4 then s.openCmd p (.jobPreempt id (p.p0.getLsbD 16))
    else preemptIdle p j s

/-- JOB_EVICTION_END: every page of the context area has moved (R634). -/
def evictionEnd (id : Nat) (s : State) : State :=
  let waits := s.opens.filter fun o => o.prog == .jobPreempt id true
  match s.job? id with
  | some j =>
    if j.state = 5 ∧ !j.evicted ∧ j.ctxHost ≠ 0 ∧ !waits.isEmpty then
      waits.foldl (fun s o => postDone o.pkt j.capoFret.toNat 0 s) (evictJob id s)
    else s
  | none => s

/-! ## STEP mode (R646 to R648) -/

/-- The started jobs in class order, and within a class in dispatch order (R648). -/
def State.classOrder (s : State) : List Nat :=
  (s.sched.turns.filter fun i => s.clsOf i == 1) ++ (s.sched.turns.filter fun i => s.clsOf i == 2)
    ++ (s.sched.turns.filter fun i => s.clsOf i == 3)

/-- The change to JOB mode takes effect (R648). -/
def toJobMode (s : State) : State :=
  let order := s.classOrder
  let s1 := { s with sched := { s.sched with stepMode := false, toJobMode := false, turns := [] } }
  match order with
  | [] => s1
  | first :: rest =>
    let others := rest.filter fun i => s.clsOf i != 3
    let back := rest.filter fun i => s.clsOf i == 3
    let counted (s : State) : State := { s with ctr := { s.ctr with preemptsClass := satAdd s.ctr.preemptsClass 1 } }
    let s2 := back.foldl (fun s i => (counted (closeStart i 0x18 0x0911 s.ftu.count.toNat first s)).updJob i fun j =>
      { j with state := if j.state = 3 then 4 else 5 }) s1
    let s3 := others.foldl (fun s i =>
      let st : Nat := match s.job? i with | some j => j.state | none => 0
      let s' := { s with sched := { s.sched with queue := s.sched.queue ++ [i] } }
      if st = 3 then s'.updJob i fun j => { j with state := 4 } else s') s2
    let s4 := others.foldl (fun s i => if s.clsOf i = 2 then defer i s else s) s3
    if s.sched.holder = some first then s4 else startSwitch first s4

/-- The job that holds the module next: in the change to JOB mode the first in class order, else that of the next turn. -/
def State.turnTo (s : State) : Option Nat := if s.sched.toJobMode then s.classOrder.head? else s.nextTurn

/-- The turn passes, at the capo point of the job that held it (R647, R648). -/
def passTurn (s0 : State) : State :=
  let s : State := { s0 with sched := { s0.sched with turnTaken := false } }
  if s.sched.toJobMode then toJobMode s
  else
    match s.nextTurn with
    | none => s
    | some id =>
      if s.sched.holder = some id then s
      else
        let s1 := match s.sched.holder with
          | some h => s.updJob h fun j => { j with state := 4 }
          | none => s
        startSwitch id s1

/-- The turn in progress is not over: the job that holds it has a step pending and has not taken its batch step (R647). -/
def State.midTurn (s : State) : Bool :=
  !s.sched.turnTaken && (s.sched.holder.any fun h => s.opens.any fun o =>
    o.pkt.job == h && (match o.prog with | .rolloutStep _ _ _ _ | .specVerify _ _ => true | _ => false))

/-- STEP_MODE_TURN: the previous turn ends; the next job with something to run takes its turn. When it is another job, the
holder first reaches its capo point (R259, R647). -/
def stepTurn (s : State) : State :=
  if !s.sched.stepMode || s.sched.switching || s.sched.stepSwitch || s.midTurn then s
  else if s.sched.holder.isSome && s.turnTo.isSome && s.turnTo != s.sched.holder then
    requestCapo { s with sched := { s.sched with stepSwitch := true } }
  else passTurn s

/-- Every core is at the capo point of a turn: the turn passes, or the holder goes on. -/
def turnCapo (s : State) : State :=
  let s1 := passTurn { s with sched := { s.sched with stepSwitch := false } }
  if s1.sched.switching then s1 else clearCapo s1

/-! ## ADMISSION_CLASS (R657, R658) -/

/-- ADMISSION_CLASS SET_VI. -/
def effAdmissionSetVi (p : Packet) (s : State) : State :=
  let n := bf p.p0 28 16
  let save := p.p0.getLsbD 60
  if 4096 < n ∨ 8388608 < bf p.p1 23 0 ∨ 1024 < bf p.p2 10 0 then postFree p s
  else
    match lockRefusal save 3 s with
    | some e => refuse p e s
    | none =>
      let q : Quota := { cls := bf p.p0 9 8, pages := bf p.p1 23 0, jobs := bf p.p2 10 0 }
      let s1 := { s with quotas := tset s.quotas n q }
      postDone p 0 0
        (if save then journal 3 n (leBytes 4 q.cls ++ leBytes 4 q.pages ++ leBytes 4 q.jobs) s1 else s1)

/-- ADMISSION_CLASS SET_MODE (R648): to STEP at once, to JOB at the end of the turn in progress. -/
def setMode (step : Bool) (s : State) : State :=
  if step then
    if s.sched.stepMode then { s with sched := { s.sched with toJobMode := false } }
    else
      { s with sched := { s.sched with
          stepMode := true, turns := s.sched.incoming.toList ++ s.sched.holder.toList.filter
            (fun h => (s.job? h).any fun j => j.start.isSome) ++ s.sched.queue, queue := [] } }
  else if !s.sched.stepMode then s
  else if s.sched.holder.isNone && s.sched.incoming.isNone then toJobMode s
  else { s with sched := { s.sched with toJobMode := true } }

/-- ADMISSION_CLASS SET_MODE. -/
def effAdmissionSetMode (p : Packet) (s : State) : State :=
  let save := p.p0.getLsbD 60
  match lockRefusal save 3 s with
  | some e => refuse p e s
  | none =>
    let s1 := setMode (p.p0.getLsbD 8) s
    postDone p 0 0 (if save then journal 3 0x2000 (leBytes 4 (b2n (p.p0.getLsbD 8))) s1 else s1)

/-- ADMISSION_CLASS QUERY. -/
def effAdmissionQuery (p : Packet) (s : State) : State :=
  let n := bf p.p0 28 16
  if 4096 < n then postFree p s
  else
    let q := s.quota n
    postDone p (q.jobs * 2 ^ 32 + q.cls * 2 ^ 8) q.pages s

/-! ## JOB_END (R649) -/

/-- JOB_END: with FORCE at once; without, when every earlier packet of the job has posted its final record. -/
def effJobEnd (p : Packet) (s : State) : State :=
  if p.p0.getLsbD 0 then endJob p s
  else
    let earlier := ((s.opens.filter fun o => o.pkt.job == p.job && o.prog != .jobStart).map fun o => o.pkt.key)
      ++ ((s.job? p.job).map fun j => j.cmdList.map Packet.key).getD []
    if earlier.isEmpty then endJob p s else s.openCmd p (.jobEnd earlier)

/-- JOB_CREATE (R632). -/
def execJobCreate (p : Packet) (s : State) : Out := submit effJobCreate p s
/-- JOB_START (R635). -/
def execJobStart (p : Packet) (s : State) : Out := submit effJobStart p s
/-- JOB_PREEMPT (R642). -/
def execJobPreempt (p : Packet) (s : State) : Out := submit effJobPreempt p s
/-- ADMISSION_SET_VI (R657). -/
def execAdmissionSetVi (p : Packet) (s : State) : Out := submit effAdmissionSetVi p s
/-- ADMISSION_SET_MODE (R648). -/
def execAdmissionSetMode (p : Packet) (s : State) : Out := submit effAdmissionSetMode p s
/-- ADMISSION_QUERY (R657). -/
def execAdmissionQuery (p : Packet) (s : State) : Out := submit effAdmissionQuery p s
/-- JOB_EVICTION_END (R634). -/
def execJobEvictionEnd (job : Nat) (s : State) : Out := .next (evictionEnd job s)
/-- STEP_MODE_TURN (R647). -/
def execStepModeTurn (s : State) : Out := .next (stepTurn s)

end Sys2Proof.Machine
end

