-- ==== Sys2Proof/Machine/Tiling.lean ====
section
/-! DEFINITION. How firmware cuts products into tiles and places them (spec/07_tiling.md), and the Braid program image with
its rate (R193 to R201 of spec/06_braid_fabric.md). -/

namespace Sys2Proof.Machine

open Sys2Proof

/-! ## Clock and cores -/

/-- The step in force (R749): the smallest of the cap, thermal, measured and input limits, never below 4. -/
def State.clockStep (s : State) : Nat :=
  let w := s.power
  let limit := if w.voltLimit || w.oneFeed then 12 else 32
  max 4 (min (min w.capStep w.thermalStep) (min w.measStep limit))

/-- Arithmetic cycles of the longest tile (R256): 20,000 × f with f = step / 8 GHz. -/
def State.tileLimit (s : State) : Nat := 2500 * s.clockStep

/-- The core whose generator states a physical core draws from: while a standby stands in, the core it stands in for
(R227). -/
def State.streamOf (s : State) (d c : Nat) : Nat :=
  let x := s.die d
  if c = x.standby ∧ x.standFor.toNat ≠ 0x1F then x.standFor.toNat else c

/-! ## Braid program images (R198 to R201) -/

/-- One node word (Table 6.4). -/
structure Node where
  op : Nat
  bf16 : Bool
  sweep2 : Bool
  a : Nat
  b : Nat
  c : Nat
  imm : Nat
  aux : Nat
  deriving DecidableEq, Repr

/-- A program image (Table 6.3). -/
structure Prog where
  nodes : List Node
  inputs : Nat
  outputs : Nat
  consts : List Word
  sweeps : Nat
  rowLen : Nat
  inFmt : List Nat
  outSrc : List Nat
  outNarrow : List Nat
  deriving DecidableEq, Repr

/-- Decode a node word. -/
def nodeOf (w : Nat) : Node :=
  { op := bn w 63 58, bf16 := bn w 57 57 == 1, sweep2 := bn w 56 56 == 1, a := bn w 55 48, b := bn w 47 40, c := bn w 39 32
    imm := bn w 31 16, aux := bn w 15 0 }

/-- Decode a program image. -/
def progOf (b : List Byte) : Prog :=
  let n := blk b 1 1
  let nc := blk b 4 1
  { nodes := (List.range n).map fun i => nodeOf (blk b (64 + 8 * i) 8)
    inputs := blk b 2 1, outputs := blk b 3 1
    consts := (List.range nc).map fun i => BitVec.ofNat 32 (blk b (64 + 8 * n + 4 * i) 4)
    sweeps := blk b 5 1, rowLen := blk b 8 4
    inFmt := (List.range 8).map fun i => blk b (16 + i) 1
    outSrc := (List.range 4).map fun i => blk b (24 + i) 1
    outNarrow := (List.range 4).map fun i => blk b (28 + 2 * i) 2 }

/-- A storage format code (Table 4.1). -/
def fmtOk (c : Nat) : Bool := decide (1 ≤ c ∧ c ≤ 0x0D)

/-- The REDUCE nodes of a program, by node number. -/
def Prog.reduces (q : Prog) : List Nat :=
  (List.range q.nodes.length).filter fun i => match q.nodes[i]? with | some n => n.op == 0x0C | none => false

/-- An operand source that a node may name (Table 6.5); a row result is read in sweep 2 only, from a REDUCE that
accumulates in sweep 1. -/
def Prog.srcOk (q : Prog) (i : Nat) (n : Node) (x : Nat) : Bool :=
  if x < 0x20 then decide (x < i)
  else if x < 0x28 then decide (x - 0x20 < q.inputs)
  else if x < 0x38 then true
  else if x ≤ 0x3A then true
  else if 0x3C ≤ x ∧ x ≤ 0x3F then
    q.sweeps == 2 && n.sweep2 && (match q.reduces[x - 0x3C]? with
      | some r => (match q.nodes[r]? with | some m => !m.sweep2 | none => false)
      | none => false)
  else false

/-- SRC_A, SRC_B and SRC_C are operands of the operation (Table 6.2). -/
def Node.uses (n : Node) : Bool × Bool × Bool :=
  (n.op != 0x0E && n.op != 0x0F,
   [0x01, 0x02, 0x03, 0x04, 0x05, 0x06, 0x07].contains n.op || (n.op == 0x0A && n.aux % 2 == 1), n.op == 0x03 || n.op == 0x07)

/-- A node with no reserved value; a field that its operation does not use may hold any (R201). -/
def Prog.nodeOk (q : Prog) (i : Nat) (n : Node) : Bool :=
  decide (1 ≤ n.op ∧ n.op ≤ 0x0F) && (!n.uses.1 || q.srcOk i n n.a) && (!n.uses.2.1 || q.srcOk i n n.b)
  && (!n.uses.2.2 || q.srcOk i n n.c)
  && (n.op != 0x06 || decide (n.aux % 8 ≤ 5))
  && (n.op != 0x0B || [0x02, 0x03, 0x04, 0x05, 0x0B].contains (n.aux % 256))
  && (n.op != 0x0C || decide (n.aux % 8 ≤ 5))

/-- An output that a program may name (R199, R200). -/
def Prog.outOk (q : Prog) (o : Nat) : Bool :=
  let src := q.outSrc.getD o 0
  let node := q.nodes[src % 32]?
  fmtOk (q.outNarrow.getD o 0 % 256) && (match node with
    | some n => src < 128 || n.op == 0x0C
    | none => false)

/-- A BLOCK REDUCE that accumulates in sweep 1 and that an operand of sweep 2 reads (R206). -/
def Prog.blockRead (q : Prog) : Bool :=
  (List.range 4).any fun k =>
    (match (q.reduces[k]?).bind fun r => q.nodes[r]? with
     | some m => m.aux / 8 % 2 == 1 && !m.sweep2
     | none => false)
    && q.nodes.any fun n => n.sweep2 && ((n.uses.1 && n.a == 0x3C + k) || (n.uses.2.1 && n.b == 0x3C + k)
      || (n.uses.2.2 && n.c == 0x3C + k))

/-- A program image with no reserved value, of the length its header gives, embedded ones (R400) apart. -/
def progOk (b : List Byte) (embedded : Bool) : Bool :=
  let q := progOf b
  let n := q.nodes.length
  blk b 0 1 == 1 && decide (1 ≤ n ∧ n ≤ 32) && decide (q.inputs ≤ 8) && decide (1 ≤ q.outputs ∧ q.outputs ≤ 4)
  && decide (q.consts.length ≤ 16) && (q.sweeps == 1 || q.sweeps == 2)
  && (embedded || decide (1 ≤ q.rowLen ∧ q.rowLen ≤ 2 ^ 24))
  && b.length == 64 + 8 * n + 4 * q.consts.length
  && (List.range n).all (fun i => match q.nodes[i]? with | some m => q.nodeOk i m | none => false)
  && (embedded || (List.range q.inputs).all fun i => fmtOk (q.inFmt.getD i 0))
  && (List.range q.outputs).all (fun o => q.outOk o)
  && (embedded || !(q.sweeps == 2 && decide (1048576 < q.rowLen) && q.blockRead))

/-- Replicas of a program (R193). -/
def Prog.replicas (q : Prog) : Nat := 32 / max 1 q.nodes.length

/-- Output o supplies the weight plane of the SV1 output before it (R200). -/
def Prog.supplies (q : Prog) (o : Nat) : Bool :=
  o != 0 && decide (o < q.outputs) && q.outNarrow.getD (o - 1) 0 % 256 == 0x0D && q.outNarrow.getD o 0 % 256 == 0x0D
  && decide (128 ≤ q.outSrc.getD o 0) && decide (q.outSrc.getD (o - 1) 0 < 128)
  && (match q.nodes[q.outSrc.getD o 0 % 32]? with | some n => n.aux / 8 % 2 == 1 | none => false)

/-- Bits of 32 elements of a stream in both planes: MX scales and SV1 weights take part. -/
def bits32 (fmt : Nat) : Nat := 32 * elemBits fmt + (if isMx fmt then 8 else if fmt = 0x0D then 2 else 0)

/-- Bits read and written per 32 elements over all streams, broadcast inputs and row results left out (R196). -/
def Prog.streamBits (q : Prog) (inFmt : List Nat) (bcast : List Bool) : Nat :=
  ((List.range q.inputs).map fun i => if bcast.getD i false then 0 else bits32 (inFmt.getD i 0)).sum
  + ((List.range q.outputs).map fun o =>
      if q.outSrc.getD o 0 < 128 then bits32 (q.outNarrow.getD o 0 % 256) else 0).sum

/-- Elements per core cycle (R196). -/
def Prog.rate (q : Prog) (inFmt : List Nat) (bcast : List Bool) : Nat :=
  let b := q.streamBits inFmt bcast
  max 1 (min (64 * q.replicas) (if b = 0 then 64 * q.replicas else 524288 / b))

/-- Latency of a node (Table 6.2). -/
def nodeLatency (op : Nat) : Nat :=
  match op with
  | 0x01 | 0x02 => 3
  | 0x03 => 4
  | 0x0B | 0x0F => 2
  | 0x0D => 5
  | _ => 1

/-- Latency of a tile (Table 6.5's text): the longest path through the graph, and 4 cycles at each end. -/
def Prog.latency (q : Prog) : Nat :=
  let depths := q.nodes.foldl (fun (l : List Nat) n =>
    let d (x : Nat) : Nat := if x < 0x20 then l.getD x 0 else 0
    l ++ [max (d n.a) (max (d n.b) (d n.c)) + nodeLatency n.op]) []
  8 + depths.foldl max 0

/-! ## Operand pairs (Tables 4.5, 5.4, 5.10) -/

/-- Rates of an operand pair: twice the issue cycles per vector, and weights per cycle of the matrix-vector path. -/
def pairRates (x w : Nat) : Option (Nat × Nat) :=
  let f8 (c : Nat) : Bool := decide (0x04 ≤ c ∧ c ≤ 0x0A)
  if x = 0x0A ∧ w = 0x0A then some (1, 128)
  else if f8 x && f8 w then some (2, 64)
  else if x = 0x0B ∧ w = 0x0B then some (2, 64)
  else if x = w ∧ (x = 0x02 ∨ x = 0x03) then some (8, 32)
  else none

/-! ## The cut (R246 to R252) -/

/-- Costs that the cut depends on: twice the issue cycles per vector, drain cycles per vector as a fraction, 32 times the
bytes of operand and result elements, the limit of R256 and the active cores. -/
structure Cost where
  c2 : Nat
  dNum : Nat
  dDen : Nat
  bx32 : Nat
  bw32 : Nat
  by32 : Nat
  limit : Nat
  cores : Nat
  deriving DecidableEq, Repr

/-- cycles(Mt, P) of R248. -/
def Cost.cycles (k : Cost) (mt p : Nat) : Nat :=
  let a := cdiv (mt * k.c2) 2
  let b := max a (cdiv (mt * k.dNum) k.dDen)
  1 + (p - 1) * max 130 a + max 130 b + 263

/-- 32 times the staged bytes of R248. -/
def Cost.staged32 (k : Cost) (mt p : Nat) (split : Bool) : Nat :=
  mt * (128 * p) * k.bx32 + 128 * p * 256 * k.bw32 + mt * 256 * (if split then 256 else k.by32)

/-- A cut of a product: rows per tile, passes per tile, and the counts of Table 7.2. -/
structure Cut where
  mt : Nat
  p : Nat
  nM : Nat
  nN : Nat
  nK : Nat
  deriving DecidableEq, Repr

/-- The while loop of R249: rows first, then K, then rows below 256. -/
def cutLoop (k : Cost) (mf ptot : Nat) : Nat → Nat → Nat → Nat × Nat
  | 0, nM, p => (nM, p)
  | n + 1, nM, p =>
    let mt := cdiv mf nM
    if k.limit < k.cycles mt p ∨ 8 * 2 ^ 20 * 32 < k.staged32 mt p (p < ptot) then
      if 256 < mt then cutLoop k mf ptot n (nM + 1) p
      else if 1 < p then cutLoop k mf ptot n nM (p - 1)
      else if 1 < mt then cutLoop k mf ptot n (nM + 1) p
      else (nM, p)
    else (nM, p)

/-- The loop of R249 that spreads rows over cores. -/
def spreadLoop (cores mf nb : Nat) : Nat → Nat → Nat
  | 0, nM => nM
  | n + 1, nM => if (nM + 1) * nb ≤ cores ∧ 256 ≤ cdiv mf (nM + 1) then spreadLoop cores mf nb n (nM + 1) else nM

/-- The array tiles of a product (R249). -/
def cutArrays (k : Cost) (mf kLen n : Nat) : Cut :=
  let ptot := cdiv kLen 128
  let r := cutLoop k mf ptot (mf + ptot) (cdiv mf 1024) ptot
  let nK := cdiv ptot r.2
  let nN := cdiv n 256
  let nM := spreadLoop k.cores mf (nN * nK) k.cores r.1
  { mt := cdiv mf nM, p := cdiv ptot nK, nM := nM, nN := nN, nK := nK }

/-- Elements of a row that the activation buffer holds (R186). -/
def actLimit (fmt : Nat) : Nat :=
  if isMx fmt then 131072 / (32 * elemBits fmt) * 32 else 131072 / elemBits fmt

/-- Kt and Nt of a matrix-vector tile (R247). -/
def mvTile (fmt w kLen limit : Nat) : Nat × Nat :=
  let k0 := min kLen (actLimit fmt)
  let kt := if k0 < 32 then k0 else max 32 (min k0 ((limit - 64) * w / 64) / 32 * 32)
  (kt, max 64 ((limit - 64) * w / kt / 64 * 64))

/-- Units dealt to core order index i of C cores: (first, count) (R263). -/
def dealt (t c i : Nat) : Nat × Nat :=
  let q := t / c
  let r := t % c
  (i * q + min i r, if i < r then q + 1 else q)

/-- Core order index that takes unit u of t (R263). -/
def dealIx (t c u : Nat) : Nat :=
  let q := t / c
  let r := t % c
  if u < r * (q + 1) then u / (q + 1) else r + (u - r * (q + 1)) / max 1 q

/-! ## Operand tables (Tables 6.8, R241) -/

/-- One entry of an operand or binding table. -/
structure Entry where
  base : Nat
  plane2 : Nat
  stride : Nat
  stride2 : Nat
  batch : Nat
  deriving DecidableEq, Repr

/-- Entry i of a table. -/
def entryOf (b : List Byte) (i : Nat) : Entry :=
  { base := blk b (32 * i) 8, plane2 := blk b (32 * i + 8) 8, stride := blk b (32 * i + 16) 4
    stride2 := blk b (32 * i + 20) 4, batch := blk b (32 * i + 24) 8 }

/-- An entry moved on to problem b (R241, R242). -/
def Entry.problem (e : Entry) (fmt b : Nat) : Entry :=
  { e with base := e.base + b * e.batch
           plane2 := e.plane2 + b * (if isMx fmt then e.batch / (4 * elemBits fmt) else 0) }

/-- Read one element of a row: its code, and the code of its scale (MX) or weight (SV1) (R124, R125, R133). -/
def readElemAt (n : Nat) (e : Entry) (fmt row i : Nat) (s : State) : Except MemErr (Nat × Nat) :=
  let a := e.base + row * e.stride
  let b := e.plane2 + row * e.stride2
  if isMx fmt then
    let w := elemBits fmt
    let bit := w * (i % 32)
    let first := a + 4 * w * (i / 32) + bit / 8
    let len := (bit % 8 + w + 7) / 8
    match vread n s first len, vread1 n (b + i / 32) s with
    | .ok bs, .ok sc => .ok (leNat bs / 2 ^ (bit % 8) % 2 ^ w, sc.toNat)
    | .error x, _ => .error x
    | _, .error x => .error x
  else if fmt = 0x0D then
    match vread1 n (a + 32 * (i / 256) + i % 256 / 8) s, vread n s (b + 2 * (i / 256)) 2 with
    | .ok v, .ok w => .ok (v.toNat / 2 ^ (i % 8) % 2, leNat w)
    | .error x, _ => .error x
    | _, .error x => .error x
  else
    let size := elemBits fmt / 8
    match vread n s (a + i * size) size with
    | .ok bs => .ok (leNat bs, 127)
    | .error x => .error x

/-- Value of an element read (R121, R122, R130, R134). -/
def elemVal (fmt : Nat) (x : Nat × Nat) : FVal :=
  if isMx fmt then
    match e8m0 x.2, layoutOf fmt with
    | some k, some f => (decodeF f x.1).scale k
    | _, _ => .nan
  else if fmt = 0x0D then (if x.2 = 0 then .zero else .fin (x.1 == 1) x.2 0)
  else readElem fmt x.1

/-- Collect reads, in order, until one fails. -/
def collect (f : Nat → Except MemErr (Nat × Nat)) : List Nat → Except MemErr (List (Nat × Nat))
  | [] => .ok []
  | i :: is =>
    match f i with
    | .error e => .error e
    | .ok x =>
      match collect f is with
      | .error e => .error e
      | .ok xs => .ok (x :: xs)

end Sys2Proof.Machine
end

