-- ==== Sys2Proof/Machine/Braid.lean ====
section
/-! DEFINITION. What the Braid computes (R193 to R207, R217 to R221, R229, R230 of spec/06_braid_fabric.md): node
operations, function tables, reductions, rows and stores. -/

namespace Sys2Proof.Machine

open Sys2Proof

/-! ## Node operations (Table 6.2) -/

/-- Round a node's result to its precision. -/
def toPrec (bf16 : Bool) (x : FVal) : Word :=
  if bf16 then BitVec.ofNat 32 (encodeF bf16F 0 false 0 x * 65536) else toF x

/-- Smaller value; −0 below +0. -/
def fmin (a b : FVal) : FVal :=
  if a = .nan ∨ b = .nan then .nan
  else if a.lt b then a
  else if b.lt a then b
  else match a with | .fin true 0 _ => a | _ => b

/-- Larger value; +0 above −0. -/
def fmax (a b : FVal) : FVal :=
  if a = .nan ∨ b = .nan then .nan
  else if b.lt a then a
  else if a.lt b then b
  else match a with | .fin true 0 _ => b | _ => a

/-- Whether a COND b holds (CMP). -/
def cmpHolds (cond : Nat) (a b : FVal) : Bool :=
  match cond with
  | 0 => a.eqv b
  | 1 => !(a.eqv b)
  | 2 => a.lt b
  | 3 => a.lt b || a.eqv b
  | 4 => b.lt a
  | _ => b.lt a || a.eqv b

/-- 1.0. -/
def oneF : Word := 0x3F800000

/-- Zero, of either sign. -/
def FVal.isZero : FVal → Bool
  | .fin _ 0 _ => true
  | _ => false

/-- Integer value of SHIFT_SCALE's b: toward zero, limited to −512 to 511; none for NaN. -/
def shiftInt : FVal → Option Int
  | .nan => none
  | .inf a => some (if a then -512 else 511)
  | .fin a m e =>
    let q : Nat := if 0 ≤ e then m * 2 ^ (min e 64).toNat else m / 2 ^ (-e).toNat
    some (if a then max (-512) (-(q : Int)) else min 511 (q : Int))

/-- Result of a node without tables or random bits. -/
def nodeOp (n : Node) (a b c : Word) : Word :=
  let x := rdF a
  let y := rdF b
  match n.op with
  | 0x01 => toPrec n.bf16 (x.add y)
  | 0x02 => toPrec n.bf16 (x.mul y)
  | 0x03 => toPrec n.bf16 ((x.mul y).add (rdF c))
  | 0x04 => toPrec n.bf16 (fmin x y)
  | 0x05 => toPrec n.bf16 (fmax x y)
  | 0x06 => if cmpHolds (n.aux % 8) x y then oneF else 0
  | 0x07 => toPrec n.bf16 (if x.isZero then rdF c else y)
  | 0x08 => toPrec n.bf16 (match x with
    | .nan => .nan
    | .inf s => .fin s 1 0
    | .fin s m e => if m = 0 then .fin s m e else .fin s 1 0)
  | 0x09 => toPrec n.bf16 x.abs
  | 0x0A =>
    let k := toSigned 8 (n.imm % 256)
    (if n.aux % 2 = 1 then
      match shiftInt y with
      | some j => toPrec n.bf16 (x.scale (k + j))
      | none => toPrec n.bf16 .nan
    else toPrec n.bf16 (x.scale k))
  | _ => toPrec n.bf16 x

/-! ## Function tables (R217 to R221) -/

/-- FP32 word at a byte of a table. -/
def tblWord (b : List Byte) (i : Nat) : Word := BitVec.ofNat 32 (blk b i 4)

/-- c0 + d (c1 + d c2) of a segment, each operation rounded (R219). -/
def tblPoly (b : List Byte) (seg : Nat) (d : Word) : Word :=
  let c (k : Nat) : Word := tblWord b (32 + 12 * seg + 4 * k)
  addF (c 0) (mulF d (addF (c 1) (mulF d (c 2))))

/-- A value outside the domain: C0 + C1 (x − edge) (R219). -/
def tblEdge (b : List Byte) (i : Nat) (x edge : FVal) : Word :=
  addF (tblWord b i) (mulF (tblWord b (i + 4)) (toF (x.add edge.neg)))

/-- Quotient of a magnitude by 2^h, rounded down. -/
def floorScale (m : Nat) (e h : Int) : Nat := if h ≤ e then m * 2 ^ (e - h).toNat else m / 2 ^ (h - e).toNat

/-- A lookup in LINEAR mode (R217). -/
def tblLinear (b : List Byte) (x : FVal) : Word :=
  let h := toSigned 8 (blk b 2 1)
  let lo := rdF (tblWord b 4)
  let hi := lo.add (.fin false 256 h)
  if x.lt lo then tblEdge b 8 x lo
  else if x.lt hi then
    match x.add lo.neg with
    | .fin _ m e =>
      let seg := min 255 (floorScale m e h)
      tblPoly b seg (toF (x.add (lo.add (.fin false seg h)).neg))
    | _ => toF .nan
  else tblEdge b 16 x hi

/-- A lookup in FLOAT mode (R218). -/
def tblFloat (b : List Byte) (x : FVal) : Word :=
  let emin : Int := (blk b 1 1 : Nat) - 127
  let top : FVal := .fin false 1 (emin + 16)
  if !(top.neg.lt x) then tblEdge b 8 x top.neg
  else if !(x.lt top) then tblEdge b 16 x top
  else
    match x with
    | .fin s m e =>
      let base := if s then 128 else 0
      if m = 0 ∨ flog2 m e < emin then tblPoly b base (toF ((FVal.fin false m e).add (.fin true 1 emin)))
      else
        let k := flog2 m e
        let q := floorScale m e (k - 3)
        tblPoly b (base + 8 * (k - emin).toNat + (q - 8)) (toF ((FVal.fin false m e).add (.fin true q (k - 3))))
    | _ => toF .nan

/-- One table of 3,104 bytes; a function that is not loaded gives +0 (R221). -/
def tblLookup (img : Option (List Byte)) (deriv : Bool) (x : Word) : Word :=
  match rdF x, img with
  | .nan, _ => toF .nan
  | _, none => 0
  | v, some f =>
    let b := if deriv then f.drop 3104 else f.take 3104
    if blk b 0 1 = 0 then tblLinear b v else tblFloat b v

/-! ## exp and ln (R204) -/

/-- ln 2 × 2^160. -/
def ln2Fix : Nat := 1013035739299659071135698605846798551586536899366

/-- Sum of r^i / i! from term t on, at 2^−160. -/
def expTerms (r : Nat) : Nat → Nat → Nat → Nat
  | 0, _, t => t
  | n + 1, i, t => t + expTerms r n (i + 1) (t * r / 2 ^ 160 / i)

/-- exp of a value between −2^8 and 2^8, to far more digits than FP32 holds. -/
def expFix (neg : Bool) (m : Nat) (e : Int) : FVal :=
  let a : Nat := if 0 ≤ e + 160 then m * 2 ^ (e + 160).toNat else m / 2 ^ (-(e + 160)).toNat
  let x : Int := if neg then -(a : Int) else a
  let k := x / (ln2Fix : Int)
  .fin false (expTerms (x - k * (ln2Fix : Int)).toNat 40 1 (2 ^ 160)) (k - 160)

/-- Sum of z^(2i+1) / (2i+1) from term t on, at 2^−160. -/
def atanhTerms (z2 : Nat) : Nat → Nat → Nat → Nat
  | 0, i, t => t / i
  | n + 1, i, t => t / i + atanhTerms z2 n (i + 2) (t * z2 / 2 ^ 160)

/-- ln of m × 2^e, to far more digits than FP32 holds. -/
def lnFix (m : Nat) (e : Int) : FVal :=
  let n := Nat.log2 m
  let f := m * 2 ^ 160 / 2 ^ n
  let z := (f - 2 ^ 160) * 2 ^ 160 / (f + 2 ^ 160)
  let y : Int := (2 * atanhTerms (z * z / 2 ^ 160) 60 1 z : Nat) + ((n : Int) + e) * (ln2Fix : Int)
  .fin (decide (y < 0)) y.natAbs (-160)

/-- A result within the relative error of R204: v × (1 + d × 2^−41), for a d between −2^21 and 2^21 that the hardware picks;
v itself, rounded, where rounding would leave the bound. -/
def within20 (v : FVal) (pick : Nat) : Word :=
  let y := toF (v.mul ((FVal.fin false 1 0).add (.fin false (pick % 2 ^ 22) (-41)) |>.add (.fin true 1 (-20))))
  let d := ((rdF y).add v.neg).abs
  if d.lt (v.abs.scale (-20)) then y else toF v

/-- exp, exact at the infinities. -/
def expW (x : Word) : Word :=
  match rdF x with
  | .nan => toF .nan
  | .inf true => 0
  | .inf false => toF (.inf false)
  | .fin s m e =>
    if m = 0 then oneF
    else if 8 ≤ flog2 m e then toF (if s then .zero else .inf false)
    else within20 (expFix s m e) (Config.expErr x)

/-- ln, exact at 0 and infinity. -/
def lnW (x : Word) : Word :=
  match rdF x with
  | .nan => toF .nan
  | .inf true => toF .nan
  | .inf false => toF (.inf false)
  | .fin s m e => if m = 0 then toF (.inf true) else if s then toF .nan else within20 (lnFix m e) (Config.lnErr x)

/-- a − b, rounded. -/
def subF (a b : Word) : Word := toF ((rdF a).add (rdF b).neg)

/-! ## Reductions (R202 to R204) -/

/-- A partial result: the value, and s of LSE. -/
abbrev Partial := Word × Word

/-- Two partials combined (R203, R204). -/
def redJoin (kind : Nat) (p q : Partial) : Partial :=
  match kind with
  | 1 => (toF (fmax (rdF p.1) (rdF q.1)), 0)
  | 2 => (toF (fmin (rdF p.1) (rdF q.1)), 0)
  | 3 => (toF (fmax (rdF p.1) (rdF q.1)), 0)
  | 5 =>
    let m := toF (fmax (rdF p.1) (rdF q.1))
    (m, addF (mulF p.2 (expW (subF p.1 m))) (mulF q.2 (expW (subF q.1 m))))
  | _ => (addF p.1 q.1, 0)

/-- The partial of one element. -/
def redOne (kind : Nat) (a : Word) : Partial :=
  match kind with
  | 3 => (toF (rdF a).abs, 0)
  | 4 => (mulF a a, 0)
  | 5 => (a, oneF)
  | _ => (a, 0)

/-- A lane takes its next element. -/
def redStep (kind : Nat) (p : Option Partial) (a : Word) : Partial :=
  match p with
  | none => redOne kind a
  | some p => if kind = 4 then (fmaF a a p.1, 0) else redJoin kind p (redOne kind a)

/-- The result of a partial. -/
def redResult (kind : Nat) (p : Partial) : Word := if kind = 5 then addF p.1 (lnW p.2) else p.1

/-- Join of partials that may be empty. -/
def optJoin (kind : Nat) : Option Partial → Option Partial → Option Partial
  | some p, some q => some (redJoin kind p q)
  | some p, none => some p
  | none, q => q

/-- One level of the tree: pairs joined, an odd last one carried up. -/
def treeLevel (kind : Nat) : List (Option Partial) → List (Option Partial)
  | a :: b :: t => optJoin kind a b :: treeLevel kind t
  | l => l

/-- The pairwise tree (R203). -/
def tree (kind : Nat) : Nat → List (Option Partial) → Option Partial
  | _, [] => none
  | _, [a] => a
  | 0, a :: _ => a
  | n + 1, l => tree kind n (treeLevel kind l)

/-! ## Rows -/

/-- What a run of a program has at hand: the image, the row length and input formats in force, 16 constants, the vote
weight, the functions of the job, and the stream index of each lane (Table 6.12). -/
structure BCtx where
  q : Prog
  rowLen : Nat
  inFmt : List Nat
  consts : List Word
  vote : Nat
  funcs : Tbl (List Byte)
  job : Nat
  base : Nat

/-- What a row carries from chunk to chunk: generators, lane partials by 2,048 × REDUCE + 64 × replica + lane, and results
by 2^20 × REDUCE + block; and the row or block results stored, as (output, block, value, bits drawn). -/
structure RowSt where
  g : Gens
  parts : Tbl Partial
  results : Tbl Word
  rowOut : List (Nat × Nat × Word × Nat)

/-- Cell of node n in replica r (R193), as the first lane of its generators. -/
def BCtx.lane (x : BCtx) (r n l : Nat) : Nat := x.base + 64 * (r * x.q.nodes.length + n) + l

/-- Draw n bits in a lane. -/
def RowSt.draw (t : RowSt) (j n : Nat) : Nat × RowSt :=
  let d := t.g.draw j n
  (d.1, { t with g := d.2 })

/-- Operand of a node (Table 6.5). -/
def BCtx.src (x : BCtx) (row i : Nat) (ins vals : List Word) (t : RowSt) (code : Nat) : Word :=
  if code < 0x20 then vals.getD code 0
  else if code < 0x28 then ins.getD (code - 0x20) 0
  else if code < 0x38 then x.consts.getD (code - 0x28) 0
  else if code = 0x39 then toF (.fin false i 0)
  else if code = 0x3A then toF (.fin false row 0)
  else if 0x3C ≤ code then
    let k := code - 0x3C
    let blocky := match (x.q.reduces[k]?).bind (fun r => x.q.nodes[r]?) with
      | some n => n.aux / 8 % 2 == 1
      | none => false
    tget 0 t.results (2 ^ 20 * k + if blocky then i / 256 else 0)
  else 0

/-- A node runs on one element of one lane (R197, R229). -/
def BCtx.node (x : BCtx) (row i r l k : Nat) (n : Node) (ins vals : List Word) (t : RowSt) : Word × RowSt :=
  let a := x.src row i ins vals t n.a
  let b := x.src row i ins vals t n.b
  let c := x.src row i ins vals t n.c
  let j := x.lane r k l
  match n.op with
  | 0x0B =>
    let nw := narrowOf n.aux
    let d := t.draw j (rndBits nw.rnd)
    (toPrec n.bf16 (readElem nw.fmt (narrowElem nw d.1 (rdF a))), d.2)
  | 0x0D => (toPrec n.bf16 (rdF (tblLookup (tfind x.funcs (4 * (n.aux % 2) + n.aux / 2 % 4)) (n.aux / 8 % 2 == 1) a)), t)
  | 0x0E =>
    let d := t.draw j 16
    (if d.1 < n.imm then oneF else 0, d.2)
  | 0x0F =>
    let d := t.draw j 24
    (toPrec n.bf16 (.fin false d.1 (-24)), d.2)
  | _ => (nodeOp n a b c, t)

/-- The nodes run in order on one element (R201, R205, R230). -/
def BCtx.nodesGo (x : BCtx) (sweep1 : Bool) (row i r l : Nat) (ins : List Word) :
    List Node → Nat → List Word → RowSt → List Word × RowSt
  | [], _, vals, t => (vals, t)
  | n :: ns, k, vals, t =>
    if sweep1 && n.sweep2 then x.nodesGo sweep1 row i r l ins ns (k + 1) (vals ++ [0]) t
    else
      let y := x.node row i r l k n ins vals t
      x.nodesGo sweep1 row i r l ins ns (k + 1) (vals ++ [y.1]) y.2

/-- A REDUCE node accumulates in this sweep (R205). -/
def BCtx.counts (x : BCtx) (sweep1 : Bool) (n : Node) : Bool := x.q.sweeps == 1 || sweep1 == !n.sweep2

/-- The REDUCE nodes take an element in range, with the value that operand a holds (R202 to R204). -/
def BCtx.accumulate (x : BCtx) (sweep1 : Bool) (row i r l : Nat) (ins vals : List Word) (t : RowSt) : RowSt :=
  (x.q.reduces.zip (List.range x.q.reduces.length)).foldl (fun t e =>
    match x.q.nodes[e.1]? with
    | some n =>
      if x.counts sweep1 n then
        let key := 2048 * e.2 + 64 * r + l
        { t with parts := tset t.parts key (redStep (n.aux % 8) (tfind t.parts key) (x.src row i ins vals t n.a)) }
      else t
    | none => t) t

/-- End of a block or row: the lanes of a REDUCE are combined and its result is kept (R203). -/
def BCtx.finish (x : BCtx) (k kind block : Nat) (t : RowSt) : RowSt :=
  let lanes (r : Nat) : Option Partial := tree kind 7 ((List.range 64).map fun l => tfind t.parts (2048 * k + 64 * r + l))
  match tree kind 6 ((List.range x.q.replicas).map lanes) with
  | some p => { t with parts := t.parts.filter fun e => e.1 / 2048 != k
                       results := tset t.results (2 ^ 20 * k + block) (redResult kind p) }
  | none => t

/-- After a chunk: the block results that end with it, or the row results (R202). -/
def BCtx.finishAll (x : BCtx) (sweep1 : Bool) (chunk : Nat) (t : RowSt) : RowSt :=
  let last := 64 * (chunk + 1) ≥ x.rowLen
  (x.q.reduces.zip (List.range x.q.reduces.length)).foldl (fun t e =>
    match x.q.nodes[e.1]? with
    | some n =>
      if !(x.counts sweep1 n) then t
      else if n.aux / 8 % 2 = 1 then (if last || chunk % 4 == 3 then x.finish e.2 (n.aux % 8) (chunk / 4) t else t)
      else if last then x.finish e.2 (n.aux % 8) 0 t
      else t
    | none => t) t

/-- Bits that a store draws for a value (R148, R135). -/
def storeBits (word : Nat) (bf16 : Bool) (v : Word) : Nat :=
  let nw := narrowOf word
  if nw.fmt = 0x01 then 0
  else if nw.fmt = 0x02 ∧ bf16 then 0
  else if nw.fmt = 0x0D then (if rdF v = .nan || (rdF v).isZero then 1 else 0)
  else rndBits nw.rnd

/-- The row or block results stored when a row or block ends in the sweep that writes (R199, R230). -/
def BCtx.rowStores (x : BCtx) (chunk : Nat) (t : RowSt) : RowSt :=
  let last := 64 * (chunk + 1) ≥ x.rowLen
  (List.range x.q.outputs).foldl (fun t o =>
    let src := x.q.outSrc.getD o 0
    let k := (x.q.reduces.findIdx? (· == src % 32)).getD 0
    match x.q.nodes[src % 32]? with
    | some n =>
      let block := n.aux / 8 % 2 == 1
      if src < 128 || x.q.supplies o || !(last || (block && chunk % 4 == 3)) then t
      else
        let b := if block then chunk / 4 else 0
        let v := tget 0 t.results (2 ^ 20 * k + b)
        let d := t.draw (x.lane 0 (src % 32) 0) (storeBits (x.q.outNarrow.getD o 0) false v)
        { d.2 with rowOut := d.2.rowOut ++ [(o, b, v, d.1)] }
    | none => t) t

/-- The lane results stored to each output, with the bits drawn (R230); padded lanes draw too (R195). -/
def BCtx.stores (x : BCtx) (r l : Nat) (vals : List Word) : List Nat → RowSt → List (Word × Nat) × RowSt
  | [], t => ([], t)
  | o :: os, t =>
    let src := x.q.outSrc.getD o 0
    if 128 ≤ src then
      let y := x.stores r l vals os t
      ((0, 0) :: y.1, y.2)
    else
      let v := vals.getD src 0
      let prec := match x.q.nodes[src]? with | some n => n.bf16 | none => false
      let d := t.draw (x.lane r src l) (storeBits (x.q.outNarrow.getD o 0) prec v)
      let y := x.stores r l vals os d.2
      ((v, d.1) :: y.1, y.2)

/-- One element: its nodes, its share in the reductions, its stores; answers the stored values of each output. -/
def BCtx.elem (x : BCtx) (sweep1 : Bool) (row i r l : Nat) (ins : List Word) (t : RowSt) : List (Word × Nat) × RowSt :=
  let inRange := i < x.rowLen
  let y := x.nodesGo sweep1 row i r l (if inRange then ins else []) x.q.nodes 0 [] t
  let t1 := if inRange then x.accumulate sweep1 row i r l ins y.1 y.2 else y.2
  if sweep1 then ([], t1) else x.stores r l y.1 (List.range x.q.outputs) t1

/-- The 64 lanes of a chunk. -/
def BCtx.lanes (x : BCtx) (sweep1 : Bool) (row chunk : Nat) (ins : Nat → List Word) :
    List Nat → RowSt → List (List (Word × Nat)) × RowSt
  | [], t => ([], t)
  | l :: ls, t =>
    let i := 64 * chunk + l
    let y := x.elem sweep1 row i (chunk % x.q.replicas) l (ins i) t
    let z := x.lanes sweep1 row chunk ins ls y.2
    ((if i < x.rowLen then y.1 :: z.1 else z.1), z.2)

/-- Chunks of a row in order; answers the stored values of each element in range. -/
def BCtx.chunks (x : BCtx) (sweep1 : Bool) (row : Nat) (ins : Nat → List Word) :
    List Nat → RowSt → List (List (Word × Nat)) × RowSt
  | [], t => ([], t)
  | c :: cs, t =>
    let y := x.lanes sweep1 row c ins (List.range 64) t
    let t1 := x.finishAll sweep1 c y.2
    let z := x.chunks sweep1 row ins cs (if sweep1 then t1 else x.rowStores c t1)
    (y.1 ++ z.1, z.2)

/-! ## Stores -/

/-- Cut a list into pieces of n. -/
def pieces (n : Nat) : Nat → List α → List (List α)
  | 0, _ => []
  | k + 1, l => if l.isEmpty then [] else l.take n :: pieces n k (l.drop n)

/-- Sign bit of an SV1 encoding: of ±0 and NaN the bit drawn (R135). -/
def sv1Bit (v : FVal) (r : Nat) : Nat :=
  match v with
  | .nan => r % 2
  | .inf a => b2n a
  | .fin a m _ => if m = 0 then r % 2 else b2n a

/-- An unsigned vote weight from a block result (R200). -/
def voteOf (v : Word) : Nat :=
  match rdF v with
  | .nan => 0
  | .inf a => if a then 0 else 65535
  | .fin a m e => if a then 0 else min 65535 (roundUnit 0 0 m e 0)

/-- Bytes of the two planes of a run of values in a format, the run beginning with a block (R124 to R129, R133, R138).
`weights` gives W of each SV1 block. -/
def encodeRun (word : Nat) (weights : Nat → Nat) (vs : List (FVal × Nat)) : List Byte × List Byte :=
  let nw := narrowOf word
  if isMx nw.fmt then
    let bs := (pieces 32 vs.length vs).map fun b =>
      encodeMx nw.fmt nw.rnd (b.map (·.1)) (b.map (·.2))
    (bs.flatMap fun b => packBits (elemBits nw.fmt) b.1, bs.map fun b => BitVec.ofNat 8 b.2)
  else if nw.fmt = 0x0D then
    let bs := pieces 256 vs.length vs
    (bs.flatMap fun b => leBytes 32 ((b.map fun v => sv1Bit v.1 v.2).foldr (fun d a => d + 2 * a) 0),
     (List.range bs.length).flatMap fun i => leBytes 2 (weights i))
  else (vs.flatMap fun v => leBytes (elemBits nw.fmt / 8) (narrowElem nw v.2 v.1), [])

/-- Byte offset of element i in the first plane of a row that begins a block at i. -/
def planeOff (fmt i : Nat) : Nat :=
  if isMx fmt then 4 * elemBits fmt * (i / 32) else if fmt = 0x0D then 32 * (i / 256) else i * (elemBits fmt / 8)

/-- Byte offset in the second plane. -/
def plane2Off (fmt i : Nat) : Nat := if isMx fmt then i / 32 else if fmt = 0x0D then 2 * (i / 256) else 0

/-- Write bytes of a VI's range; answers the state and the access that failed (R82). -/
def vput (n va : Nat) (bs : List Byte) (s : State) : State × Option MemErr :=
  (vwrite n va bs s, (s.firstUnmapped n va bs.length).map MemErr.notMapped)

/-- Write a run of values to both planes of a row from element i on; answers the state and the first access that
failed. -/
def storeRun (n : Nat) (e : Entry) (word row i : Nat) (weights : Nat → Nat) (vs : List (FVal × Nat)) (s : State) :
    State × Option MemErr :=
  let fmt := word % 256
  let b := encodeRun word weights vs
  let w1 := vput n (e.base + row * e.stride + planeOff fmt i) b.1 s
  match w1.2 with
  | some x => (w1.1, some x)
  | none => vput n (e.plane2 + row * e.stride2 + plane2Off fmt i) b.2 w1.1

/-- Run a store, unless an earlier one failed. -/
def andThen (r : State × Option MemErr) (f : State → State × Option MemErr) : State × Option MemErr :=
  match r.2 with
  | some _ => r
  | none => f r.1

end Sys2Proof.Machine
end

