-- ==== Sys2Proof/Machine/Works.lean ====
section
/-! DEFINITION. The works of commands: what firmware cuts into tiles, places on cores, stages and runs. A work is a product
with its adapters and epilogue, the rows of a Braid program, the layer scalars of an UPDATE, a transposition, or the
choice and the sum of experts (R139 to R141 of spec/04_number_formats.md; spec/05_matrix_arrays.md; R205, R212 of
spec/06_braid_fabric.md; spec/07_tiling.md; R404 to R409 of spec/10_learning_passes.md; R431, R460 to R464 of
spec/11_weights_and_freshet.md). -/

namespace Sys2Proof.Machine

open Sys2Proof

/-! ## Operands -/

/-- Bytes of a row of a format, in both planes. -/
def rowBytes (fmt n : Nat) : Nat :=
  if isMx fmt then cdiv n 32 * (4 * elemBits fmt + 1) else if fmt = 0x0D then cdiv n 256 * 34 else n * (elemBits fmt / 8)

/-- Bytes of a row in the first plane (R126, R138). -/
def plane1Bytes (fmt n : Nat) : Nat :=
  if isMx fmt then cdiv n 32 * (4 * elemBits fmt) else if fmt = 0x0D then cdiv n 256 * 32 else n * (elemBits fmt / 8)

/-- Bytes of a row in the second plane. -/
def plane2Bytes (fmt n : Nat) : Nat := if isMx fmt then cdiv n 32 else if fmt = 0x0D then 2 * cdiv n 256 else 0

/-- An operand of a VI as a table entry gives it (Table 6.8). -/
def opndOf (n : Nat) (e : Entry) (fmt : Nat) (outer : Bool) : Opnd :=
  { vi := n, base := e.base, plane2 := e.plane2, stride := e.stride, stride2 := e.stride2, batch := e.batch, fmt := fmt
    outer := outer }

/-- Rows one after another, the second plane at the next multiple of 64 (R430, Table 10.13). -/
def denseOpnd (n base fmt rows cols : Nat) : Opnd :=
  { vi := n, base := base, plane2 := cdiv (base + rows * plane1Bytes fmt cols) 64 * 64, stride := plane1Bytes fmt cols
    stride2 := plane2Bytes fmt cols, fmt := fmt }

/-- Bytes that such rows take, up to the next multiple of 64. -/
def denseBytes (fmt rows cols : Nat) : Nat :=
  cdiv (rows * plane1Bytes fmt cols) 64 * 64 + cdiv (rows * plane2Bytes fmt cols) 64 * 64

/-- The entry of a problem (R241, R242). -/
def Opnd.entry (o : Opnd) (problem : Nat) : Entry :=
  Entry.problem { base := o.base, plane2 := o.plane2, stride := o.stride, stride2 := o.stride2, batch := o.batch } o.fmt problem

/-- Where row r, element k of a problem lies: an entry, its row and its element (R241, R243, R335, R431). -/
def Opnd.spot (o : Opnd) (problem r0 k0 : Nat) : Entry × Nat × Nat :=
  if o.tiled ≠ 0 then
    let r := if o.outer then k0 else r0
    let k := if o.outer then r0 else k0
    let w := elemBits o.fmt
    let tile := r / 256 * cdiv o.tiled 128 + k / 128
    let at_ := o.base + tile * (256 * 16 * w + if isMx o.fmt then 1024 else 0)
    ({ base := at_, plane2 := at_ + 256 * 16 * w, stride := 16 * w, stride2 := 4, batch := 0 }, r % 256, k % 128)
  else
    let k := k0
    let x := o.pick.getD r0 r0
    let e := o.entry problem
    if !o.pages.isEmpty then
      let page := o.pages.getD (x / max 1 o.pt) 0
      ({ e with base := e.base + page, plane2 := e.plane2 + page }, x % max 1 o.pt, k)
    else if o.outer then (e, k, x)
    else (e, x, k)

/-- Read element k of row r of a problem: its code and the code of its scale or weight. -/
def Opnd.read (o : Opnd) (problem r k : Nat) (s : State) : Except MemErr (Nat × Nat) :=
  let x := o.spot problem r k
  readElemAt o.vi x.1 o.fmt x.2.1 x.2.2 s

/-- Read a run of elements of a row, in order, until one fails. -/
def Opnd.run (o : Opnd) (problem r k0 n : Nat) (s : State) : Except MemErr (List (Nat × Nat)) :=
  collect (fun i => o.read problem r (k0 + i) s) (List.range n)

/-- Bytes that elements k0 to k0 + n − 1 of a row cover, in both planes: as (VI, address, length). -/
def Opnd.rowSpan (o : Opnd) (problem r k0 n : Nat) : List (Nat × Nat × Nat) :=
  if n = 0 then []
  else if o.outer then
    (List.range n).flatMap fun i =>
      let x := o.spot problem r (k0 + i)
      span x.1 x.2.1 x.2.2 (x.2.2 + 1)
  else if o.tiled ≠ 0 then
    (List.range (cdiv (k0 + n) 128 - k0 / 128)).flatMap fun b =>
      let x := o.spot problem r (128 * (k0 / 128 + b))
      span x.1 x.2.1 0 128
  else
    let x := o.spot problem r k0
    span x.1 x.2.1 k0 (k0 + n)
where
  /-- Bytes of elements i to j − 1 of a row of an entry. -/
  span (e : Entry) (row i j : Nat) : List (Nat × Nat × Nat) :=
    let a := if isMx o.fmt then 4 * elemBits o.fmt * (i / 32) else if o.fmt = 0x0D then i / 256 * 32 else i * (elemBits o.fmt / 8)
    let b := if isMx o.fmt then i / 32 else if o.fmt = 0x0D then i / 256 * 2 else 0
    let p2 := plane2Bytes o.fmt j - b
    (o.vi, e.base + row * e.stride + a, plane1Bytes o.fmt j - a)
      :: (if p2 = 0 then [] else [(o.vi, e.plane2 + row * e.stride2 + b, p2)])

/-- Store values from element i of a row on; transposed, value by value (R382). -/
def Opnd.store (o : Opnd) (word problem row i : Nat) (weights : Nat → Nat) (vs : List (FVal × Nat)) (s : State) :
    State × Option MemErr :=
  if o.outer then
    (vs.zip (List.range vs.length)).foldl (fun a v => andThen a fun s =>
      storeRun o.vi (o.entry problem) word (i + v.2) row weights [v.1] s) (s, none)
  else
    let x := o.spot problem row i
    storeRun o.vi x.1 word x.2.1 x.2.2 weights vs s

/-- Lists that several reads give, one after another, until one fails. -/
def gather (f : α → Except MemErr (List (Nat × Nat))) : List α → Except MemErr (List (Nat × Nat))
  | [] => .ok []
  | r :: rs =>
    match f r with
    | .error e => .error e
    | .ok v =>
      match gather f rs with
      | .error e => .error e
      | .ok vs => .ok (v ++ vs)

/-- A vector along K re-blocked by the turn buffer (R185): new scales over each 32, nearest-even. -/
def reblock (fmt : Nat) (vs : List (Nat × Nat)) : List (Nat × Nat) :=
  (pieces 32 vs.length vs).flatMap fun b =>
    let e := encodeMx fmt 0 (b.map (elemVal fmt)) (b.map fun _ => 0)
    (e.1.take b.length).map fun c => (c, e.2)

/-- A vector of an operand along a K range, as it is staged (R243, R253). -/
def Opnd.stage (o : Opnd) (problem r k0 n : Nat) (s : State) : Except MemErr (List (Nat × Nat)) :=
  match o.run problem r k0 n s with
  | .error x => .error x
  | .ok v => .ok (if o.outer && isMx o.fmt then reblock o.fmt v else v)

/-! ## The program of a work -/

/-- The program, with the row length, formats and outputs in force (R400). -/
def Work.theProg (w : Work) : Prog :=
  let q := progOf w.prog
  { q with rowLen := w.rowLen, inFmt := w.inFmt, outputs := w.outs.length
           outSrc := w.outs.map fun j => q.outSrc.getD j 0, outNarrow := w.outs.map fun j => q.outNarrow.getD j 0 }

/-- A product with an epilogue program, or a sum of experts with one. -/
def Work.epilogue (w : Work) : Bool := !w.prog.isEmpty && w.kind != .rows && w.kind != .scalars

/-- Inputs of the program that are streams: the drain is input 0 of an epilogue (R244). -/
def Work.skip (w : Work) : Nat := b2n w.epilogue

/-- Broadcast inputs (R196). -/
def Work.bcast (w : Work) : List Bool :=
  (List.range (progOf w.prog).inputs).map fun i => decide (w.skip ≤ i) && (w.ins.getD (i - w.skip) {}).stride == 0

/-- Elements per core cycle of the program (R196). -/
def Work.rate (w : Work) : Nat := w.theProg.rate w.inFmt w.bcast

/-- Bytes of the broadcast inputs. -/
def Work.bcastBytes (w : Work) : Nat :=
  ((List.range (progOf w.prog).inputs).map fun i =>
    if w.bcast.getD i false then rowBytes (w.inFmt.getD i 0) w.rowLen else 0).sum

/-! ## Cutting a product (R246 to R252, R263) -/

/-- W is homed outside core SRAM. -/
def State.outsideSram (s : State) (n va : Nat) : Bool :=
  match s.mapping n va with
  | some m => match m.home with | .sram _ _ _ => false | _ => true
  | none => n != scratchVi

/-- Runs on the matrix-vector path (R246). -/
def useMvp (path mf : Nat) (outside class3 : Bool) : Bool :=
  path == 2 || (path == 0 && decide (mf ≤ 8) && (outside || class3))

/-- Twice the issue cycles per vector of an operand pair. -/
def pairC2 (fx fw : Nat) : Nat := ((pairRates fx fw).map (·.1)).getD 2

/-- Cost figures of a product (R248). -/
def State.costOf (s : State) (w : Work) : Cost :=
  let fmt := w.word % 256
  let x32 (f : Nat) : Nat := 4 * elemBits f + b2n (isMx f)
  let dn := elemBits fmt
  let d :=
    if w.epilogue && w.kind == .product then
      let num := w.n * s.clockStep
      let den := 16 * w.rate
      if dn * den < num * 16 then (num, den) else (dn, 16)
    else (dn, 16)
  { c2 := pairC2 w.x.fmt w.w.fmt, dNum := d.1, dDen := d.2, bx32 := x32 w.x.fmt, bw32 := x32 w.w.fmt, by32 := 4 * elemBits fmt
    limit := s.tileLimit, cores := s.coreOrder.length }

/-- The cut of a product of a work: the cut, Nt and Kt. -/
def State.cutOf (s : State) (w : Work) : Cut × Nat × Nat :=
  if w.mvp then
    let t := mvTile w.x.fmt (((pairRates w.x.fmt w.w.fmt).map (·.2)).getD 64) w.k s.tileLimit
    ({ mt := min 8 w.m, p := cdiv t.1 128, nM := cdiv w.m 8, nN := cdiv w.n t.2, nK := cdiv w.k t.1 }, t.2, t.1)
  else (cutArrays (s.costOf w) w.m w.k w.n, 256, 0)

/-- A tile with its operands not staged. -/
def tileOf (k : Key) (wi : Nat) (u : TileUnit) (kind : Nat) (at_ : Nat × Nat)
    (problem row0 rows col0 cols k0 kLen kIdx passes : Nat) : Tile :=
  { cmd := k, work := wi, unit := u, kind := kind, die := at_.1, core := at_.2, problem := problem, row0 := row0, rows := rows
    col0 := col0, cols := cols, k0 := k0, kLen := kLen, kIdx := kIdx, passes := passes, issued := false, reruns := 0 }

/-- Ranges of at most `per` of n: (first, count). -/
def ranges (n per : Nat) : List (Nat × Nat) :=
  (List.range (cdiv n (max 1 per))).map fun i => (i * max 1 per, min (max 1 per) (n - i * max 1 per))

/-- Elements per cycle of a summing tile (R196, R781). -/
def sumRate (nK fmt : Nat) : Nat := max 1 (min 2048 (524288 / (32 * 32 * nK + bits32 fmt)))

/-- The tiles of one output block: its K ranges in ascending order, and the summing tiles of a split block (R250), each within
40,000 core cycles (R256). For a matrix-vector tile the count of passes holds Nt. -/
def blockTiles (k : Key) (wi : Nat) (w : Work) (at_ : Nat × Nat) (c : Cut) (nt kt b row0 rows n : Nat) : List Tile :=
  let width := if w.mvp then nt else 256
  let span := if w.mvp then kt else 128 * c.p
  let cols := min width (w.n - n * width)
  let ptot := cdiv w.k 128
  ((List.range c.nK).map fun i =>
    tileOf k wi (if w.mvp then .mvp else .arrays) (if w.mvp then 1 else 0) at_ b row0 rows (n * width) cols (i * span)
      (min span (w.k - i * span)) i (if w.mvp then nt else min c.p (ptot - i * c.p)))
  ++ (if c.nK = 1 then []
      else (ranges rows ((40000 - 11) * sumRate c.nK (w.word % 256) / (64 * cdiv cols 64))).map fun r =>
        tileOf k wi .braid 2 at_ b (row0 + r.1) r.2 (n * width) cols 0 w.k c.nK 0)

/-- Core cycles of the overhead of a program tile (Table 6.9). -/
def Prog.overhead (q : Prog) (bcast : Nat) : Nat := 64 + cdiv bcast 2048 + q.latency

/-- Rows of a tile: within 40,000 core cycles, and for two sweeps within the row-value buffer (R206, R256). -/
def Prog.rowsPerTile (q : Prog) (rate bcast : Nat) : Nat :=
  let span := 64 * cdiv q.rowLen 64
  let byTime := (40000 - q.overhead bcast) / max 1 q.sweeps * rate / max 1 span
  let blocks := cdiv q.rowLen 256
  let blocky := q.nodes.any fun n => n.op == 0x0C && n.aux / 8 % 2 == 1
  if q.sweeps = 2 then min byTime (if blocky then max 1 (4096 / max 1 blocks) else 4096) else byTime

/-- Tiles of one row that is longer than a tile: pieces of whole blocks, sweep by sweep (R212). `passes` names the
sweep. -/
def splitRow (k : Key) (wi : Nat) (q : Prog) (kind : Nat) (at_ : Nat × Nat) (rate bcast problem row : Nat) : List Tile :=
  let chunks := cdiv q.rowLen 64
  let per := max 4 ((40000 - q.overhead bcast) * rate / 64 / 4 * 4)
  let sweeps := if q.sweeps = 2 then [1, 2] else [2]
  sweeps.flatMap fun w => (List.range (cdiv chunks per)).map fun i =>
    tileOf k wi .braid kind at_ problem row 1 (i * per) (min per (chunks - i * per)) 0 0 i w

/-- Program tiles of some rows on one core (R206, R212, R256). -/
def rowTiles (k : Key) (wi : Nat) (w : Work) (kind : Nat) (at_ : Nat × Nat) (problem row0 rows : Nat) : List Tile :=
  let q := w.theProg
  let per := q.rowsPerTile w.rate w.bcastBytes
  if per = 0 then (List.range rows).flatMap fun r => splitRow k wi q kind at_ w.rate w.bcastBytes problem (row0 + r)
  else (ranges rows per).map fun r => tileOf k wi .braid kind at_ problem (row0 + r.1) r.2 0 0 0 0 0 0

/-- The epilogue tiles of a row range: one on the arrays, whose cut already bounds it (R256), pieces on the matrix-vector
path. -/
def epilogueTiles (k : Key) (wi : Nat) (w : Work) (at_ : Nat × Nat) (b row0 rows : Nat) : List Tile :=
  if w.mvp then rowTiles k wi w 3 at_ b row0 rows else [tileOf k wi .braid 3 at_ b row0 rows 0 w.n 0 0 0 0]

/-- The core of block n of row range m of problem b, dealt in whole runs: of one block, or with an epilogue of one row range
(R263). -/
def dealPlace (w : Work) (c : Cut) (order : List (Nat × Nat)) (b m n : Nat) : Nat × Nat :=
  let units := w.problems * c.nM * (if w.epilogue then 1 else c.nN)
  order.getD (dealIx units (max 1 order.length) (if w.epilogue then b * c.nM + m else (b * c.nM + m) * c.nN + n)) (0, 0)

/-- Every tile of a product in the order of R263, with the core of each block. -/
def productTiles (k : Key) (wi : Nat) (w : Work) (c : Cut) (nt kt : Nat) (place : Nat → Nat → Nat → Nat × Nat) : List Tile :=
  (List.range w.problems).flatMap fun b =>
    (List.range c.nM).flatMap fun m =>
      let row0 := m * c.mt
      let rows := min c.mt (w.m - row0)
      ((List.range c.nN).flatMap fun n => blockTiles k wi w (place b m n) c nt kt b row0 rows n)
      ++ (if w.epilogue then epilogueTiles k wi w (place b m 0) b row0 rows else [])

/-- The tiles of a run: whole rows, dealt over the core order in runs as R263 deals tiles (notes/assumptions/12.md). -/
def runTiles (k : Key) (wi : Nat) (w : Work) (order : List (Nat × Nat)) : List Tile :=
  let cs := max 1 order.length
  (List.range cs).flatMap fun i =>
    let d := dealt w.rows cs i
    rowTiles k wi w 4 (order.getD i (0, 0)) 0 d.1 d.2

/-- Units of a kind without a cut of its own, dealt one after another over the core order. -/
def dealTiles (order : List (Nat × Nat)) (l : List α) (f : Nat × Nat → α → List Tile) : List Tile :=
  let cs := max 1 order.length
  (l.zip (List.range l.length)).flatMap fun x => f (order.getD (dealIx l.length cs x.2) (0, 0)) x.1

/-- A transposition: one tile for each half of the turn buffer that it fills, 128 rows by 256 columns of the result
(R182, R184). -/
def transposeTiles (k : Key) (wi : Nat) (w : Work) (order : List (Nat × Nat)) : List Tile :=
  dealTiles order ((ranges w.m 128).flatMap fun r => (ranges w.n 256).map fun c => (r, c)) fun at_ x =>
    [tileOf k wi .arrays 6 at_ 0 x.1.1 x.1.2 x.2.1 x.2.2 0 0 0 0]

/-- The choice of experts, and the sum of their outputs with its epilogue, by whole rows. -/
def expertTiles (k : Key) (wi : Nat) (w : Work) (kind : Nat) (order : List (Nat × Nat)) : List Tile :=
  dealTiles order (ranges w.m (max 1 (40000 * 64 / (64 * cdiv w.n 64)))) fun at_ r =>
    tileOf k wi .braid kind at_ 0 r.1 r.2 0 w.n 0 0 0 0 :: (if w.epilogue then rowTiles k wi w 3 at_ 0 r.1 r.2 else [])

end Sys2Proof.Machine
end

