-- ==== Sys2Proof/Machine/WorkRun.lean ====
section
/-! DEFINITION. What the tiles of products, programs, transpositions and experts stage, compute and write (R140, R141, R148 of
spec/04_number_formats.md; R162 to R165, R188 of spec/05_matrix_arrays.md; R199, R205, R212, R229, R230, R781 of
spec/06_braid_fabric.md and spec/07_tiling.md; R406 to R409 of spec/10_learning_passes.md; R460 to R464 of
spec/11_weights_and_freshet.md). -/

namespace Sys2Proof.Machine

open Sys2Proof

/-- An element as it is read: its code, and the code of its scale or weight. -/
abbrev Elem := Nat × Nat

/-! ## Products (R140, R141, R131, R188) -/

/-- An INT32 accumulation that holds at its limit once it has left its range (R131): value, and held. -/
def intAdd (a : Int × Bool) (x : Int) : Int × Bool :=
  let y := a.1 + x
  if a.2 then a
  else if y < -(2 ^ 31) then (-(2 ^ 31), true)
  else if 2 ^ 31 - 1 < y then (2 ^ 31 - 1, true)
  else (y, false)

/-- Integer value of an INT8 element. -/
def intElem (x : Elem) : Int := toSigned 8 x.1

/-- Running FP32 sum over products, each addition rounded (R140). -/
def sumPlain (acc : Word) (l : List (FVal × FVal)) : Word := l.foldl (fun a e => toF ((rdF a).add (e.1.mul e.2))) acc

/-- Running FP32 sum over blocks of 32, each block exact (R140). -/
def sumBlocks (acc : Word) (l : List (FVal × FVal)) : Word :=
  (pieces 32 l.length l).foldl (fun a b => toF ((rdF a).add (b.foldl (fun v e => v.add (e.1.mul e.2)) .zero))) acc

/-- Running column sum of one vector and one weight column. -/
def dotFrom (acc : Word) (fx fw : Nat) (xs ws : List Elem) : Word :=
  let l := (xs.map (elemVal fx)).zip (ws.map (elemVal fw))
  if isMx fx || isMx fw then sumBlocks acc l else sumPlain acc l

/-- Column sum of one vector and one weight column over a run of the reduction. -/
def dotFp (fx fw : Nat) (xs ws : List Elem) : Word := dotFrom 0 fx fw xs ws

/-- Exact INT8 sum of a run of the reduction. -/
def dotInt (xs ws : List Elem) : Int := ((xs.zip ws).map fun e => intElem e.1 * intElem e.2).sum

/-- A run of the reduction of a tile: some rows against all columns. A tile of a product has one for X against W, and one for
U against B of each variant with rows in it (R461, R462). -/
structure Seg where
  fx : Nat
  fw : Nat
  rows : List (Nat × List Elem)
  cols : List (List Elem)
  deriving DecidableEq, Repr

/-- Length of the run. -/
def Seg.len (g : Seg) : Nat := (g.cols.headD []).length

/-- Elements [128 p, 128 p + 128) of a vector. -/
def cut128 (p : Nat) (v : List Elem) : List Elem := (v.drop (128 * p)).take 128

/-- The passes of a run on the arrays, in order (R153). -/
def Seg.passes (g : Seg) : List Seg :=
  (List.range (cdiv g.len 128)).map fun p =>
    { g with rows := g.rows.map fun r => (r.1, cut128 p r.2), cols := g.cols.map (cut128 p) }

/-- The runs of a result row, in order: passes on the arrays, whole runs on the matrix-vector path. -/
def runsOf (mvp : Bool) (segs : List Seg) (r c : Nat) : List (Nat × Nat × List Elem × List Elem) :=
  (segs.flatMap fun g => if mvp then [g] else g.passes).filterMap fun g =>
    (g.rows.find? fun x => x.1 == r).map fun x => (g.fx, g.fw, x.2, g.cols.getD c [])

/-- A result element of a row over the runs of a tile (R140, R162, R188, R461). -/
def dotSegs (mvp : Bool) (segs : List Seg) (r c : Nat) : FVal :=
  let l := runsOf mvp segs r c
  if (l.headD (0, 0, [], [])).1 = 0x0B then
    let sums := if mvp then l.flatMap fun g => (g.2.2.1.zip g.2.2.2).map fun e => intElem e.1 * intElem e.2
      else l.map fun g => dotInt g.2.2.1 g.2.2.2
    .ofInt (sums.foldl intAdd (0, false)).1
  else if mvp then rdF (l.foldl (fun a g => dotFrom a g.1 g.2.1 g.2.2.1 g.2.2.2) 0)
  else
    rdF ((l.foldl (fun (a : Option Word) g =>
      let y := dotFp g.1 g.2.1 g.2.2.1 g.2.2.2
      some (match a with | none => y | some b => addF b y)) none).getD 0)

/-- Accumulator format of an operand pair (Table 4.5): INT32 or FP32. -/
def accFmt (fx : Nat) : Nat := if fx = 0x0B then 0x0C else 0x01

/-! ## Rows that take part -/

/-- Row and problem of a row of a product: its own problem, or that of a folded one (R251). -/
def Work.rowAt (w : Work) (problem r : Nat) : Nat × Nat := if w.fold = 0 then (problem, r) else (r / w.fold, r % w.fold)

/-- Entries of a row's choice of experts: (expert, weight), in descending order of weight (R463). -/
def choiceOf (s : State) (o : Opnd) (k row : Nat) : List (Nat × Word) :=
  (List.range k).map fun i =>
    let b := (List.range 8).map fun j =>
      match s.xlate o.vi (o.base + 8 * (row * k + i) + j) with | some x => (s.space x.1).read x.2 | none => 0
    (blk b 0 4, BitVec.ofNat 32 (blk b 4 4))

/-- The rows of a tile that take part: with experts, those whose choice holds this expert (R463). -/
def State.rowsIn (s : State) (w : Work) (t : Tile) : List Nat :=
  let l := (List.range t.rows).map (t.row0 + ·)
  match w.gate with
  | none => l
  | some (o, k, e) => l.filter fun r => (choiceOf s o k r).any fun c => c.1 == e

/-- Adapters with rows in a tile, if it is the last of its K ranges (R461, R462): the rows, as this work counts them. -/
def Work.addsOf (w : Work) (t : Tile) : List (AdapterW × List Nat) :=
  if t.kIdx + 1 ≠ w.nK then []
  else w.adds.filterMap fun a =>
    let rs := a.rows.filter fun r => decide (t.row0 ≤ r ∧ r < t.row0 + t.rows)
    if rs.isEmpty then none else some (a, rs)

/-! ## Staging (R243, R253, R254, R257) -/

/-- Operands of a product tile: rows of X, columns of W, then rows of U and columns of B of each adapter. -/
def stageProduct (w : Work) (t : Tile) (s : State) : Except MemErr (List Elem) :=
  let cols := (List.range t.cols).map (t.col0 + ·)
  let x (r : Nat) := let a := w.rowAt t.problem r; w.x.stage a.1 a.2 t.k0 t.kLen s
  let wt (c : Nat) := w.w.stage (if w.fold = 0 then t.problem else 0) c t.k0 t.kLen s
  match gather x (s.rowsIn w t) with
  | .error e => .error e
  | .ok xs =>
    match gather wt cols with
    | .error e => .error e
    | .ok ws =>
      match gather (fun (a : AdapterW × List Nat) =>
          match gather (fun r => a.1.u.stage 0 (a.1.rows.findIdx (· == r)) 0 a.1.rank s) a.2 with
          | .error e => .error e
          | .ok us =>
            match gather (fun c => a.1.b.stage 0 c 0 a.1.rank s) cols with
            | .error e => .error e
            | .ok bs => .ok (us ++ bs)) (w.addsOf t) with
      | .error e => .error e
      | .ok as => .ok (xs ++ ws ++ as)

/-- Vectors of a length, one after another. -/
def vecs (len : Nat) (l : List Elem) (n : Nat) : List (List Elem) := (List.range n).map fun i => (l.drop (i * len)).take len

/-- The runs of a product tile, from its staged operands. -/
def State.segsOf (s : State) (w : Work) (t : Tile) : List Seg :=
  let rows := s.rowsIn w t
  let n := rows.length
  let first : Seg := { fx := w.x.fmt, fw := w.w.fmt, rows := rows.zip (vecs t.kLen t.staged n)
                       cols := vecs t.kLen (t.staged.drop (n * t.kLen)) t.cols }
  first :: ((w.addsOf t).foldl (fun (a : List Seg × List Elem) y =>
    let m := y.2.length
    (a.1 ++ [{ fx := y.1.u.fmt, fw := y.1.b.fmt, rows := y.2.zip (vecs y.1.rank a.2 m)
               cols := vecs y.1.rank (a.2.drop (m * y.1.rank)) t.cols }], a.2.drop ((m + t.cols) * y.1.rank)))
    ([], t.staged.drop ((n + t.cols) * t.kLen))).1

/-- Input elements of rows of a program, input by input for each row; broadcast inputs are read at row 0. -/
def stageRows (w : Work) (rows : List Nat) (s : State) : Except MemErr (List Elem) :=
  gather (fun r => gather (fun (i : Nat) => (w.ins.getD i {}).run 0 r 0 w.rowLen s)
    (List.range ((progOf w.prog).inputs - w.skip))) rows

/-- Row of a program that a row of a tile is: of a product, over all its problems. -/
def Work.progRow (w : Work) (t : Tile) (r : Nat) : Nat := t.problem * w.m + r

/-- Operands of a tile of a work (R257); those of attention apart. -/
def stageWork (w : Work) (t : Tile) (s : State) : Except MemErr (List Elem) :=
  let rows := (List.range t.rows).map (t.row0 + ·)
  match t.kind with
  | 0 | 1 => stageProduct w t s
  | 3 => stageRows w (rows.map (w.progRow t)) s
  | 4 => stageRows w rows s
  | 6 => gather (fun r => gather (fun c => w.x.run 0 c r 1 s) ((List.range t.cols).map (t.col0 + ·))) rows
  | 7 => gather (fun r => w.x.run 0 r 0 w.n s) rows
  | 8 => gather (fun r => gather (fun (e : Nat × Word) => (w.parts.getD e.1 {}).run 0 r 0 w.n s)
      (match w.gate with | some (o, k, _) => choiceOf s o k r | none => [])) rows
  | _ => .ok []

/-! ## Draws (R148, R164, R188, R229, R781) -/

/-- Stream index of a lane or column generator of a core (Table 6.12, R227). -/
def State.stream (s : State) (d c slot : Nat) : Nat := streamIx s.moduleId d (s.streamOf d c) slot

/-- Draw n bits from each of a list of generators. -/
def drawAll (n : Nat) : List Nat → Gens → List Nat × Gens
  | [], g => ([], g)
  | j :: js, g =>
    let d := g.draw j n
    let r := drawAll n js d.2
    (d.1 :: r.1, r.2)

/-- Draw n bits from each generator of a list, row after row. -/
def drawRows (n : Nat) (slots : List Nat) (rows : Nat) (g : Gens) : List (List Nat) × Gens :=
  (List.range rows).foldl (fun (a : List (List Nat) × Gens) _ =>
    let d := drawAll n slots a.2
    (a.1 ++ [d.1], d.2)) ([], g)

/-- Column generator of data column j of a 256-column block: array A, then B (Table 6.12). -/
def colSlot (j : Nat) : Nat := if j < 128 then 2048 + j else 2178 + (j - 128)

/-- Bits that a narrowing to a format draws for a value (R164, R188). -/
def drainBits (word acc : Nat) : Nat :=
  let nw := narrowOf word
  if nw.fmt = acc then 0 else rndBits nw.rnd

/-- Bits drawn for rows of an array tile: every data column of both arrays, vector by vector (R164). -/
def drawArrays (s : State) (t : Tile) (n rows : Nat) (g : Gens) : List (List Nat) × Gens :=
  drawRows n ((List.range 256).map fun j => s.stream t.die t.core (colSlot j)) rows g

/-- Bits drawn for a matrix-vector tile: every column up to Nt, 8 rows each (R188, R247). -/
def drawMvp (s : State) (t : Tile) (n : Nat) (g : Gens) : List (List Nat) × Gens :=
  let cols := (List.range t.passes).foldl (fun (a : List (List Nat) × Gens) c =>
    let d := drawAll n (List.replicate 8 (s.stream t.die t.core (2048 + c % 64))) a.2
    (a.1 ++ [d.1], d.2)) ([], g)
  ((List.range 8).map fun r => cols.1.map fun c => c.getD r 0, cols.2)

/-- Generators of the Braid lanes that narrow rows of n elements: element 64c + l in lane l of cell c mod 32, whole chunks
(R781, R195). -/
def State.rowLanes (s : State) (d c n : Nat) : List Nat :=
  (List.range (64 * cdiv n 64)).map fun e => s.stream d c (64 * (e / 64 % 32) + e % 64)

/-! ## Results -/

/-- Values as they read back after a narrowing: what the Braid takes from the drain (R244). -/
def narrowBack (word : Nat) (vs : List (FVal × Nat)) : List FVal :=
  let nw := narrowOf word
  if isMx nw.fmt then
    (pieces 32 vs.length vs).flatMap fun b =>
      let e := encodeMx nw.fmt nw.rnd (b.map (·.1)) (b.map (·.2))
      (e.1.take b.length).map fun c => elemVal nw.fmt (c, e.2)
  else vs.map fun v => readElem nw.fmt (narrowElem nw v.2 v.1)

/-- Marks of the words that a work keeps between tiles; below them the number of a K range. -/
abbrev epilogueIx : Nat := 2 ^ 24
/-- Lane partials of a split row. -/
abbrev carryPart : Nat := 2 ^ 24 + 1
/-- Row results of a split row. -/
abbrev carryRes : Nat := 2 ^ 24 + 2
/-- The layer's scalars: the chain is the problem, the scalar the column (R405). -/
abbrev markScal : Nat := 2 ^ 24 + 3
/-- Row results of a REDUCE that feeds a scalar; the node is the column (R406). -/
abbrev markRed : Nat := 2 ^ 24 + 4
/-- Row results stored in whole blocks when the work ends; the output is added. -/
abbrev carryOut : Nat := 2 ^ 24 + 8

/-- Keep words for later tiles of a command. -/
def keep (l : List Part) (s : State) : State := { s with partials := s.partials ++ l }

/-- Drop the words of a command that are no longer needed. -/
def unkeep (f : Part → Bool) (s : State) : State := { s with partials := s.partials.filter fun e => !(f e) }

/-- A word that a command keeps. -/
def State.kept (s : State) (k : Key) (wi mark problem row col : Nat) : Option Word :=
  (s.partials.find? fun e => e.cmd == k && e.work == wi && e.mark == mark && e.problem == problem && e.row == row
    && e.col == col).map (·.val)

/-- Words of one row of results, from a column on. -/
def rowParts (t : Tile) (mark row col0 : Nat) (vs : List Word) : List Part :=
  (vs.zip (List.range vs.length)).map fun v =>
    { cmd := t.cmd, work := t.work, mark := mark, problem := t.problem, row := row, col := col0 + v.2, val := v.1 }

/-- Keep FP32 values of a row in core SRAM, as partials of a K range or as rows for the epilogue (R250, R263). -/
def keepRow (t : Tile) (r mark : Nat) (vs : List FVal) (s : State) : State := keep (rowParts t mark r t.col0 (vs.map toF)) s

/-- Result row r of a product or sum: handed to the epilogue, or written to Y (R163, R244, R255). -/
def putRow (w : Work) (t : Tile) (r : Nat) (vs : List (FVal × Nat)) (s : State) : State × Option MemErr :=
  if w.epilogue then (keepRow t r epilogueIx (narrowBack w.word vs) s, none)
  else
    let a := w.rowAt t.problem r
    w.y.store w.word a.1 a.2 t.col0 (fun _ => 0) vs s

/-- Put rows with their values and bits, in order. -/
def putRows (w : Work) (t : Tile) : List (Nat × List FVal × List Nat) → State × Option MemErr → State × Option MemErr
  | [], a => a
  | x :: xs, a => putRows w t xs (andThen a fun s => putRow w t x.1 (x.2.1.zip (x.2.2 ++ List.replicate x.2.1.length 0)) s)

/-- A product tile ends (R162 to R165, R188, R250). -/
def endProduct (w : Work) (t : Tile) (id : Nat) (s : State) : State × Option MemErr :=
  let segs := s.segsOf w t
  let rows := s.rowsIn w t
  let vals (r : Nat) : List FVal := (List.range t.cols).map fun c => dotSegs (t.kind == 1) segs r c
  if w.nK ≠ 1 then (rows.foldl (fun s r => keepRow t r t.kIdx (vals r) s) s, none)
  else
    let n := drainBits w.word (accFmt w.x.fmt)
    let d := if t.kind = 1 then drawMvp s t n (s.gens id) else drawArrays s t n rows.length (s.gens id)
    putRows w t ((rows.zip (List.range rows.length)).map fun r => (r.1, vals r.1, d.1.getD r.2 [])) (s.putGens id d.2, none)

/-- The summing tile: partials in ascending order of range, narrowed with the bits of R781's lanes (R250, R781). -/
def endSumming (w : Work) (t : Tile) (id : Nat) (s : State) : State × Option MemErr :=
  let d := drawRows (drainBits w.word 0x01) (s.rowLanes t.die t.core t.cols) t.rows (s.gens id)
  let at_ (r c k : Nat) : Word := (s.kept t.cmd t.work k t.problem r (t.col0 + c)).getD 0
  let vals (r : Nat) : List FVal := (List.range t.cols).map fun c =>
    rdF ((List.range (t.kIdx - 1)).foldl (fun a k => addF a (at_ r c (k + 1))) (at_ r c 0))
  let mine (e : Part) : Bool :=
    e.cmd == t.cmd && e.work == t.work && e.problem == t.problem && decide (t.row0 ≤ e.row ∧ e.row < t.row0 + t.rows)
    && decide (t.col0 ≤ e.col ∧ e.col < t.col0 + t.cols) && decide (e.mark < t.kIdx)
  putRows w t ((List.range t.rows).map fun r => (t.row0 + r, vals (t.row0 + r), d.1.getD r []))
    ((unkeep mine s).putGens id d.2, none)

/-! ## Program tiles -/

/-- Words kept under a mark for a row, as (column, problem, word). -/
def State.carried (s : State) (k : Key) (wi mark row : Nat) : List (Nat × Nat × Word) :=
  (s.partials.filter fun e => e.cmd == k && e.work == wi && e.mark == mark && e.row == row).map fun e => (e.col, e.problem, e.val)

/-- Row state at the start of a tile: what earlier tiles of the row left (R212). -/
def State.rowStart (s : State) (k : Key) (wi row : Nat) (g : Gens) : RowSt :=
  let a := s.carried k wi carryPart row
  { g := g
    parts := (a.filter fun e => e.2.1 == 0).map fun e =>
      (e.1, e.2.2, ((a.find? fun x => x.1 == e.1 && x.2.1 == 1).map fun x => x.2.2).getD 0)
    results := (s.carried k wi carryRes row).map fun e => (e.1, e.2.2), rowOut := [] }

/-- Keep the row state for the next tile of the row. -/
def keepCarry (k : Key) (wi row : Nat) (t : RowSt) (s : State) : State :=
  let p (mark problem col : Nat) (v : Word) : Part :=
    { cmd := k, work := wi, mark := mark, problem := problem, row := row, col := col, val := v }
  keep ((t.parts.flatMap fun e => [p carryPart 0 e.1 e.2.1, p carryPart 1 e.1 e.2.2])
      ++ (t.results.map fun e => p carryRes 0 e.1 e.2))
    (unkeep (fun e => e.cmd == k && e.work == wi && (e.mark == carryPart || e.mark == carryRes) && e.row == row) s)

/-- Where the outputs of a run go. -/
structure RunOut where
  cmd : Key
  work : Nat
  dsts : List Opnd
  vote : Nat

/-- Results of rows or blocks kept for an output in MX or SV1, whose blocks span rows. -/
def keepOut (out : RunOut) (o ix : Nat) (v : Word) (bits : Nat) (s : State) : State :=
  let p (problem : Nat) (v : Word) : Part :=
    { cmd := out.cmd, work := out.work, mark := carryOut + o, problem := problem, row := 0, col := ix, val := v }
  keep [p 0 v, p 1 (BitVec.ofNat 32 bits)] s

/-- Store the row and block results of a row (R199). -/
def storeRowOut (x : BCtx) (out : RunOut) (row : Nat) (l : List (Nat × Nat × Word × Nat)) (a : State × Option MemErr) :
    State × Option MemErr :=
  l.foldl (fun a e =>
    let word := x.q.outNarrow.getD e.1 0
    let fmt := word % 256
    let n := match x.q.nodes[x.q.outSrc.getD e.1 0 % 32]? with
      | some n => if n.aux / 8 % 2 = 1 then cdiv x.rowLen 256 else 1
      | none => 1
    let ix := row * n + e.2.1
    andThen a fun s =>
      if isMx fmt || fmt == 0x0D then (keepOut out e.1 ix e.2.2.1 e.2.2.2 s, none)
      else { out.dsts.getD e.1 {} with stride := 0 }.store word 0 0 ix (fun _ => out.vote) [(rdF e.2.2.1, e.2.2.2)] s) a

/-- Store the lane results of a run of elements of a row (R199, R200). -/
def storeElems (x : BCtx) (out : RunOut) (row i0 : Nat) (vals : List (List (Word × Nat))) (results : Tbl Word)
    (a : State × Option MemErr) : State × Option MemErr :=
  (List.range x.q.outputs).foldl (fun a o =>
    if 128 ≤ x.q.outSrc.getD o 0 then a
    else
      let word := x.q.outNarrow.getD o 0
      let k := (x.q.reduces.findIdx? (· == x.q.outSrc.getD (o + 1) 0 % 32)).getD 0
      let weights (b : Nat) : Nat :=
        if x.q.supplies (o + 1) then voteOf (tget 0 results (2 ^ 20 * k + i0 / 256 + b)) else out.vote
      let vs := vals.map fun v => let y := v.getD o (0, 0); (rdF y.1, y.2)
      andThen a fun s => (out.dsts.getD o {}).store word 0 row i0 weights vs s) a

/-- The rows of a program tile, with the REDUCE results of each row. `ins` gives the input words of an element of a row;
`part` names a piece of a split row (first chunk, chunks, sweep). -/
def runRowsR (x : BCtx) (out : RunOut) (ins : Nat → Nat → List Word) (rows : List Nat) (part : Option (Nat × Nat × Nat))
    (s : State) : (State × Option MemErr) × List (Nat × Tbl Word) :=
  let chunks := match part with
    | some (c0, n, _) => (List.range n).map (c0 + ·)
    | none => List.range (cdiv x.rowLen 64)
  let first := x.q.sweeps == 2 && (match part with | some (_, _, w) => w == 1 | none => true)
  let second := match part with | some (_, _, w) => w == 2 | none => true
  let start (r : Nat) (g : Gens) (s : State) : RowSt := s.rowStart out.cmd out.work r g
  -- sweep 1 over all rows, then sweep 2 over the same rows (R205)
  let a1 := rows.foldl (fun (a : List (Nat × RowSt) × Gens) r =>
    let t := start r a.2 s
    let t1 := if first then (x.chunks true r (ins r) chunks t).2 else t
    (a.1 ++ [(r, t1)], t1.g)) ([], s.gens x.job)
  let a2 := a1.1.foldl (fun (a : (State × Option MemErr) × Gens × List (Nat × Tbl Word)) e =>
    let t := { e.2 with g := a.2.1 }
    if second then
      let y := x.chunks false e.1 (ins e.1) chunks t
      let b := storeElems x out e.1 (64 * chunks.headD 0) y.1 y.2.results a.1
      let c := storeRowOut x out e.1 y.2.rowOut b
      (if part.isSome then (keepCarry out.cmd out.work e.1 { y.2 with rowOut := [] } c.1, c.2) else c, y.2.g,
       a.2.2 ++ [(e.1, y.2.results)])
    else ((keepCarry out.cmd out.work e.1 t a.1.1, a.1.2), t.g, a.2.2)) ((s, none), a1.2, [])
  ((a2.1.1.putGens x.job a2.2.1, a2.1.2), a2.2.2)

/-- The rows of a program tile. -/
def runRows (x : BCtx) (out : RunOut) (ins : Nat → Nat → List Word) (rows : List Nat) (part : Option (Nat × Nat × Nat))
    (s : State) : State × Option MemErr :=
  (runRowsR x out ins rows part s).1

/-- Scalar i of a layer: +0 until an op writes it (R405). -/
def State.scalar (s : State) (k : Key) (chain i : Nat) : Word := (s.kept k 0 markScal chain 0 i).getD 0

/-- The eight scalars of a layer replaced. -/
def putScalars (k : Key) (chain : Nat) (vs : List Word) (s : State) : State :=
  keep ((vs.zip (List.range 8)).map fun v =>
      { cmd := k, work := 0, mark := markScal, problem := chain, row := 0, col := v.2, val := v.1 })
    (unkeep (fun e => e.cmd == k && e.mark == markScal && e.problem == chain) s)

/-- The constants of a work's program (R401, Table 6.7). -/
def State.constsOf (s : State) (k : Key) (w : Work) : List Word :=
  if w.scal then w.consts.take 8 ++ (List.range 8).map (s.scalar k w.chain) else w.consts

/-- Context of a program run on a core. -/
def State.bctx (s : State) (k : Key) (w : Work) (id d c : Nat) : BCtx :=
  { q := w.theProg, rowLen := w.rowLen, inFmt := w.inFmt, consts := s.constsOf k w, vote := w.vote
    funcs := ((s.job? id).map (·.funcs)).getD [], job := id, base := s.stream d c 0 }

/-- Input words of element i of the j-th row of a tile from its staged elements. -/
def stagedIn (w : Work) (staged : List Elem) (j i : Nat) : List Word :=
  let n := (progOf w.prog).inputs - w.skip
  (List.range n).map fun k =>
    toF (elemVal (w.inFmt.getD (w.skip + k) 0) (staged.getD ((j * n + k) * w.rowLen + i) (0, 127)))

/-- The piece of a split row that a tile is. -/
def Tile.part (t : Tile) : Option (Nat × Nat × Nat) := if t.passes = 0 then none else some (t.col0, t.cols, t.passes)

/-- The row results of the REDUCE nodes that feed scalars, kept until the op ends (R406). -/
def keepRed (t : Tile) (w : Work) (l : List (Nat × Tbl Word)) (s : State) : State :=
  keep (l.flatMap fun r => ((List.range w.red.length).filter fun n => w.red.getD n 0xF != 0xF).map fun n =>
    { cmd := t.cmd, work := t.work, mark := markRed, problem := 0, row := r.1, col := n, val := tget 0 r.2 (2 ^ 20 * n) }) s

/-- A program tile of a run ends (R205, R212). -/
def endRun (w : Work) (t : Tile) (id : Nat) (s : State) : State × Option MemErr :=
  let x := s.bctx t.cmd w id t.die t.core
  let out : RunOut := { cmd := t.cmd, work := t.work, dsts := w.dsts, vote := w.vote }
  let a := runRowsR x out (fun r i => stagedIn w t.staged (r - t.row0) i) ((List.range t.rows).map (t.row0 + ·)) t.part s
  if w.red.all (· == 0xF) then a.1 else (keepRed t w a.2 a.1.1, a.1.2)

/-- The epilogue tile of a row range: input 0 is the drain (R244, R263). -/
def endEpilogue (w : Work) (t : Tile) (id : Nat) (s : State) : State × Option MemErr :=
  let x := s.bctx t.cmd w id t.die t.core
  let row0 := w.progRow t t.row0
  let out : RunOut := { cmd := t.cmd, work := t.work, dsts := w.dsts, vote := w.vote }
  let ins (r i : Nat) : List Word :=
    (s.kept t.cmd t.work epilogueIx t.problem (t.row0 + (r - row0)) i).getD 0 :: stagedIn w t.staged (r - row0) i
  let a := runRows x out ins ((List.range t.rows).map (row0 + ·)) t.part s
  let last := t.passes = 0 || cdiv w.rowLen 64 ≤ t.col0 + t.cols
  (if last then unkeep (fun e => e.cmd == t.cmd && e.work == t.work && e.mark == epilogueIx && e.problem == t.problem
      && decide (t.row0 ≤ e.row ∧ e.row < t.row0 + t.rows)) a.1 else a.1, a.2)

/-- Combine the row results of a REDUCE node in row order (R406); a row result of LSE enters as the pair of itself
and 1. -/
def combineRows (kind rows : Nat) (at_ : Nat → Option Word) : Word :=
  match tree kind rows ((List.range rows).map fun r => (at_ r).map fun v => (v, if kind = 5 then oneF else 0)) with
  | some p => redResult kind p
  | none => 0

/-- The scalars that an ended op writes (R406). -/
def endScalars (k : Key) (wi : Nat) (w : Work) (s : State) : State :=
  if w.red.all (· == 0xF) then s
  else
    let q := progOf w.prog
    let new (v : Nat) : Word :=
      match (List.range w.red.length).find? fun n => w.red.getD n 0xF == v with
      | some n =>
        (match (q.reduces[n]?).bind fun i => q.nodes[i]? with
         | some m => combineRows (m.aux % 8) w.rows fun r => s.kept k wi markRed 0 r n
         | none => s.scalar k w.chain v)
      | none => s.scalar k w.chain v
    unkeep (fun e => e.cmd == k && e.work == wi && e.mark == markRed) (putScalars k w.chain ((List.range 8).map new) s)

/-- The tile of a SCALAR op (R407): one row of 8 elements, S0 to S7 in, output 0 back in FP32. -/
def endScalarOp (w : Work) (t : Tile) (id : Nat) (s : State) : State :=
  let q := { progOf w.prog with rowLen := 8, inFmt := [0x01], outputs := 1 }
  let x : BCtx := { s.bctx t.cmd w id t.die t.core with q := q, rowLen := 8, inFmt := [0x01] }
  let ins (i : Nat) : List Word := [s.scalar t.cmd w.chain i]
  let t0 : RowSt := { g := s.gens id, parts := [], results := [], rowOut := [] }
  let t1 := if q.sweeps = 2 then (x.chunks true 0 ins [0] t0).2 else t0
  let y := x.chunks false 0 ins [0] t1
  let nw := narrowOf (q.outNarrow.headD 0)
  putScalars t.cmd w.chain (y.1.map fun l => let v := l.headD (0, 0); BitVec.ofNat 32 (narrowElem nw v.2 (rdF v.1)))
    (s.putGens id y.2.g)

/-- Row results in MX or SV1 are written when the work's last tile has ended. -/
def flushOut (k : Key) (wi : Nat) (w : Work) (s : State) : State × Option MemErr :=
  let q := w.theProg
  (List.range q.outputs).foldl (fun a o =>
    let l := s.carried k wi (carryOut + o) 0
    let n := (l.filter fun e => e.2.1 == 0).length
    let at_ (i b : Nat) : Word := ((l.find? fun e => e.1 == i && e.2.1 == b).map fun e => e.2.2).getD 0
    if n = 0 then a
    else andThen a fun s => { w.dsts.getD o {} with stride := 0 }.store (q.outNarrow.getD o 0) 0 0 0 (fun _ => w.vote)
      ((List.range n).map fun i => (rdF (at_ i 0), (at_ i 1).toNat)) s)
    (unkeep (fun e => e.cmd == k && e.work == wi && decide (carryOut ≤ e.mark ∧ e.mark < carryOut + 4)) s, none)

/-! ## Transposition (R409) -/

/-- A tile of a TRANSPOSE op: 128 rows by 256 columns of the result. The values are widened to FP32 and rounded with the bits
of the column generators. -/
def endTranspose (w : Work) (t : Tile) (id : Nat) (s : State) : State × Option MemErr :=
  let d := drawArrays s t (if w.word % 256 = 0x0D then 1 else if w.word % 256 = w.x.fmt then 0 else drainBits w.word 0x01) t.rows (s.gens id)
  (List.range t.rows).foldl (fun a r => andThen a fun s =>
    let vs := ((t.staged.drop (r * t.cols)).take t.cols).map fun e => rdF (toF (elemVal w.x.fmt e))
    w.y.store w.word 0 (t.row0 + r) t.col0 (fun _ => w.vote) (vs.zip (d.1.getD r [])) s) (s.putGens id d.2, none)

/-! ## Experts (R463, R464) -/

/-- Insert a candidate after those of larger logit, and of equal logit and lower index. -/
def insertTop (c : Nat × FVal) : List (Nat × FVal) → List (Nat × FVal)
  | [] => [c]
  | d :: ds => if d.2.lt c.2 then c :: d :: ds else d :: insertTop c ds

/-- The experts of a row (R463): the largest logits, the lower index on a tie, with the weights of a softmax in FP32. -/
def chooseExperts (topK : Nat) (logits : List FVal) : List (Nat × Word) :=
  let top := (((List.range logits.length).zip logits).foldl (fun l c => insertTop c l) []).take topK
  let m := toF ((top.headD (0, .zero)).2)
  let es := top.map fun c => expW (subF (toF c.2) m)
  let sum := es.foldl addF 0
  (top.zip es).map fun c => (c.1.1, divF c.2 sum)

/-- A tile that chooses the experts of its rows; `k` experts a row, 8 bytes each. -/
def endRoute (w : Work) (t : Tile) (s : State) : State × Option MemErr :=
  (List.range t.rows).foldl (fun a r => andThen a fun s =>
    let l := ((t.staged.drop (r * w.n)).take w.n).map (elemVal w.x.fmt)
    let at_ (e : Nat) : Nat := ((w.tables.find? fun g => g.1.contains (t.row0 + r)).map fun g => g.2.getD e e).getD e
    let bs := (chooseExperts w.k l).flatMap fun c => leBytes 4 (at_ c.1) ++ leBytes 4 c.2.toNat
    vput w.y.vi (w.y.base + 8 * w.k * (t.row0 + r)) bs s) (s, none)

/-- A tile that sums the weighted expert outputs of its rows, in descending order of weight, in FP32 (R464). -/
def endExperts (w : Work) (t : Tile) (id : Nat) (s : State) : State × Option MemErr :=
  let k := match w.gate with | some (_, k, _) => k | none => 0
  let choice (r : Nat) : List (Nat × Word) := match w.gate with | some (o, k, _) => choiceOf s o k r | none => []
  let d := drawRows (drainBits w.word 0x01) (s.rowLanes t.die t.core w.n) t.rows (s.gens id)
  let vals (r : Nat) : List FVal := (List.range w.n).map fun c =>
    rdF ((((choice (t.row0 + r)).zip (List.range k)).foldl (fun (a : Option Word) e =>
      let y := mulF e.1.2 (toF (elemVal 0x01 (t.staged.getD ((r * k + e.2) * w.n + c) (0, 127))))
      some (match a with | none => y | some b => addF b y)) none).getD 0)
  putRows w t ((List.range t.rows).map fun r => (t.row0 + r, vals r, d.1.getD r [])) (s.putGens id d.2, none)

/-! ## Address ranges (R179, R180, R215, R216, R491) -/

/-- Output ranges of rows of a work's program: of a REDUCE, the row's or its blocks' results; whole when they are in MX or
SV1. -/
def Work.progOuts (w : Work) (rows : List Nat) : List (Nat × Nat × Nat) :=
  let q := w.theProg
  (List.range q.outputs).flatMap fun o =>
    let fmt := q.outNarrow.getD o 0 % 256
    let d : Opnd := { w.dsts.getD o {} with fmt := fmt }
    let n := match q.nodes[q.outSrc.getD o 0 % 32]? with
      | some n => if n.aux / 8 % 2 = 1 then cdiv q.rowLen 256 else 1
      | none => 1
    if q.supplies o then []
    else if q.outSrc.getD o 0 < 128 then rows.flatMap fun r => d.rowSpan 0 r 0 q.rowLen
    else if isMx fmt || fmt == 0x0D then { d with stride := 0 }.rowSpan 0 0 0 ((if w.kind = WorkKind.rows then w.rows else w.m * w.problems) * n)
    else rows.flatMap fun r => { d with stride := 0 }.rowSpan 0 0 (r * n) n

/-- What a tile writes outside core SRAM, and with `whole` what its rows' epilogue will write. -/
def Work.outSpans (w : Work) (t : Tile) (whole : Bool) : List (Nat × Nat × Nat) :=
  let rows := (List.range t.rows).map (t.row0 + ·)
  let y : Opnd := { w.y with fmt := w.word % 256 }
  match t.kind with
  | 4 => w.progOuts rows
  | 3 => w.progOuts (rows.map (w.progRow t))
  | 7 => rows.map fun r => (w.y.vi, w.y.base + 8 * w.k * r, 8 * w.k)
  | 5 => []
  | _ =>
    if w.epilogue then (if whole then w.progOuts (rows.map (w.progRow t)) else [])
    else if t.kind < 2 ∧ w.nK ≠ 1 then []
    else rows.flatMap fun r => let a := w.rowAt t.problem r; y.rowSpan a.1 a.2 t.col0 t.cols

/-- What a tile reads, and with `whole` what its rows' epilogue will read. -/
def Work.inSpans (w : Work) (t : Tile) (whole : Bool) : List (Nat × Nat × Nat) :=
  let rows := (List.range t.rows).map (t.row0 + ·)
  let cols := (List.range t.cols).map (t.col0 + ·)
  let prog (rs : List Nat) : List (Nat × Nat × Nat) :=
    (w.ins.zip (List.range w.ins.length)).flatMap fun o =>
      rs.flatMap fun r => { o.1 with fmt := w.inFmt.getD (w.skip + o.2) 0 }.rowSpan 0 r 0 w.rowLen
  match t.kind with
  | 0 | 1 =>
    (rows.flatMap fun r => let a := w.rowAt t.problem r; w.x.rowSpan a.1 a.2 t.k0 t.kLen)
    ++ (cols.flatMap fun c => w.w.rowSpan (if w.fold = 0 then t.problem else 0) c t.k0 t.kLen)
    ++ ((w.addsOf t).flatMap fun a =>
      (a.2.flatMap fun r => a.1.u.rowSpan 0 (a.1.rows.findIdx (· == r)) 0 a.1.rank)
      ++ cols.flatMap fun c => a.1.b.rowSpan 0 c 0 a.1.rank)
    ++ (if whole && w.epilogue then prog (rows.map (w.progRow t)) else [])
  | 3 => prog (rows.map (w.progRow t))
  | 4 => prog rows
  | 6 => cols.flatMap fun c => w.x.rowSpan 0 c t.row0 t.rows
  | 7 => rows.flatMap fun r => w.x.rowSpan 0 r 0 w.n
  | 8 => rows.flatMap fun r => w.parts.flatMap fun o => o.rowSpan 0 r 0 w.n
  | _ => []

end Sys2Proof.Machine
end

