-- ==== Sys2Proof/Machine/AttnWork.lean ====
section
/-! DEFINITION. The tiles of attention and of its gradients: cut, staging and arithmetic (R303 to R307 of
spec/08_rollout_generation.md; R388 to R391 of spec/10_learning_passes.md). The vectors of a problem, one entry of the length
table and one KV head, are its query rows and the heads that read the KV head; they are cut into groups of at most 256, and the
keys into the blocks of 128 of R305. -/

namespace Sys2Proof.Machine

open Sys2Proof

/-! ## Problems and vectors -/

/-- Query heads of a KV head. -/
def AttnW.group (a : AttnW) : Nat := a.heads / max 1 a.kvHeads

/-- Entry and KV head of a problem. -/
def AttnW.entryOf (a : AttnW) (problem : Nat) : LenEntry × Nat :=
  (a.entries.getD (problem / max 1 a.kvHeads) { qOff := 0, qLen := 0, kvLen := 0, kvRef := 0 }, problem % max 1 a.kvHeads)

/-- Query row (of the entry) and head of vector v of a problem (R304). -/
def AttnW.vec (a : AttnW) (problem v : Nat) : Nat × Nat :=
  (v / max 1 a.group, problem % max 1 a.kvHeads * a.group + v % max 1 a.group)

/-- The visible keys of a query row of an entry: first, and one past the last (R304). -/
def AttnW.visible (a : AttnW) (e : LenEntry) (i : Nat) : Nat × Nat :=
  let pos := e.kvLen - e.qLen + i
  (if a.window = 0 then 0 else pos + 1 - a.window, if a.causal then min e.kvLen (pos + 1) else e.kvLen)

/-- A key is visible to a vector. -/
def AttnW.sees (a : AttnW) (problem v j : Nat) : Bool :=
  let e := (a.entryOf problem).1
  let x := a.visible e (a.vec problem v).1
  decide (x.1 ≤ j ∧ j < x.2)

/-- Runs on the matrix-vector path (R307, R391). -/
def AttnW.mvp (a : AttnW) (e : LenEntry) : Bool := decide (e.qLen * a.group ≤ 8)

/-- K or V of a problem's entry: the operand, and the row of position 0. -/
def AttnW.kv (a : AttnW) (o : Opnd) (problem : Nat) : Opnd × Nat :=
  let e := (a.entryOf problem).1
  if a.pages.isEmpty then (o, e.kvRef) else ({ o with pages := a.pages.getD (problem / max 1 a.kvHeads) [] }, 0)

/-! ## The cut -/

/-- Key ranges of a group of vectors: (first key, keys) of each block of 128, in ascending order. -/
def AttnW.blocks (a : AttnW) (problem v0 n : Nat) : List (Nat × Nat) :=
  let e := (a.entryOf problem).1
  let lo := (a.visible e (a.vec problem v0).1).1
  let hi := (a.visible e (a.vec problem (v0 + n - 1)).1).2
  ((List.range (cdiv hi 128)).drop (lo / 128)).map fun b =>
    let x := max lo (128 * b)
    (x, min hi (128 * (b + 1)) - x)

/-- The tiles of one problem: for each group and block, scores, softmax, values and rescaling, or the four kinds of the
gradients; `kIdx` is 1 in the last block of a group. -/
def problemTiles (k : Key) (wi : Nat) (a : AttnW) (bwd : Bool) (at_ : Nat × Nat) (problem : Nat) : List Tile :=
  let e := (a.entryOf problem).1
  let u := if a.mvp e then TileUnit.mvp else TileUnit.arrays
  (ranges (e.qLen * a.group) 256).flatMap fun g =>
    let bs := a.blocks problem g.1 g.2
    ((bs.zip (List.range bs.length)).flatMap fun b =>
      let last := b2n (b.2 + 1 == bs.length)
      let t (u : TileUnit) (kind : Nat) : Tile := tileOf k wi u kind at_ problem g.1 g.2 0 a.dim b.1.1 b.1.2 last 0
      if bwd then [t u 13, t .braid 14, t u 15] else [t u 9, t .braid 10, t u 11, t .braid 12])
    ++ (if bwd then [tileOf k wi .braid 16 at_ problem g.1 g.2 0 a.dim 0 0 0 0] else [])

/-- Every tile of an attention: problems dealt over the core order as R263 deals units; dK and dV are narrowed when all sums
are complete. -/
def attnTiles (k : Key) (wi : Nat) (a : AttnW) (bwd : Bool) (order : List (Nat × Nat)) : List Tile :=
  let ps := (List.range (a.entries.length * a.kvHeads)).filter fun p => (a.entryOf p).1.qLen != 0
  dealTiles order ps (fun at_ p => problemTiles k wi a bwd at_ p)
  ++ (if bwd then dealTiles order ps fun at_ p =>
        (ranges (a.entryOf p).1.kvLen 128).map fun r => tileOf k wi .braid 16 at_ p r.1 r.2 1 a.dim 0 0 0 0
      else [])

/-! ## Staging -/

/-- Vectors of a tile. -/
def Tile.vs (t : Tile) : List Nat := (List.range t.rows).map (t.row0 + ·)

/-- Keys of a tile. -/
def Tile.keys (t : Tile) : List Nat := (List.range t.kLen).map (t.k0 + ·)

/-- The rows of Q, O or dO of a tile's vectors. -/
def stageQ (a : AttnW) (o : Opnd) (t : Tile) (s : State) : Except MemErr (List Elem) :=
  gather (fun v => let y := a.vec t.problem v; o.run 0 ((a.entryOf t.problem).1.qOff + y.1) (y.2 * a.dim) a.dim s) t.vs

/-- The rows of K or V of a tile's keys. -/
def stageK (a : AttnW) (o : Opnd) (t : Tile) (s : State) : Except MemErr (List Elem) :=
  let y := a.kv o t.problem
  gather (fun j => y.1.run 0 (y.2 + j) ((a.entryOf t.problem).2 * a.dim) a.dim s) t.keys

/-- lse of each vector of a tile (R388). -/
def stageLse (a : AttnW) (t : Tile) (s : State) : Except MemErr (List Elem) :=
  gather (fun v =>
    let y := a.vec t.problem v
    match vread a.st.vi s (a.st.base + 8 * (((a.entryOf t.problem).1.qOff + y.1) * a.heads + y.2) + 4) 4 with
    | .ok b => .ok [(leNat b, 0)]
    | .error e => .error e) t.vs

/-- Lists one after another, unless one failed. -/
def joined : List (Except MemErr (List Elem)) → Except MemErr (List Elem)
  | [] => .ok []
  | .error e :: _ => .error e
  | .ok x :: xs => match joined xs with | .ok y => .ok (x ++ y) | .error e => .error e

/-- Operands of a tile of an attention. -/
def stageAttn (a : AttnW) (t : Tile) (s : State) : Except MemErr (List Elem) :=
  match t.kind with
  | 9 => joined [stageQ a a.q t s, stageK a a.k t s]
  | 11 => stageK a a.v t s
  | 13 => joined [stageQ a a.q t s, stageK a a.k t s, stageQ a a.dO t s, stageK a a.v t s]
  | 14 => joined [stageQ a a.dO t s, stageQ a a.o t s, stageLse a t s]
  | 15 => joined [stageQ a a.q t s, stageQ a a.dO t s, stageK a a.k t s]
  | _ => .ok []

/-! ## Words kept between tiles -/

/-- Words under a mark for a row of a tile's problem: a column's. -/
def State.at_ (s : State) (t : Tile) (mark v c : Nat) : Option Word := s.kept t.cmd t.work mark t.problem v c

/-- Replace the words of a row under a mark, from column 0 on. -/
def putWords (t : Tile) (mark v : Nat) (vs : List Word) (s : State) : State :=
  keep (rowParts t mark v 0 vs)
    (unkeep (fun e => e.cmd == t.cmd && e.work == t.work && e.mark == mark && e.problem == t.problem && e.row == v) s)

/-- Keep the results of a product for visible keys, under a mark. -/
def keepVisible (a : AttnW) (t : Tile) (mark : Nat) (f : Nat → Nat → Word) (s : State) : State :=
  keep (t.vs.flatMap fun v => ((List.range t.kLen).filter fun c => a.sees t.problem v (t.k0 + c)).map fun c =>
    { cmd := t.cmd, work := t.work, mark := mark, problem := t.problem, row := v, col := c, val := f v c }) s

/-- Columns of a tile whose keys a vector sees. -/
def Tile.seen (t : Tile) (a : AttnW) (v : Nat) : List Nat := (List.range t.kLen).filter fun c => a.sees t.problem v (t.k0 + c)

/-- Columns d of rows of vectors. -/
def columns (dim : Nat) (rows : List (List Elem)) : List (List Elem) :=
  (List.range dim).map fun d => rows.map fun r => r.getD d (0, 127)

/-- A code that an earlier tile kept, as an element of a format without scales. -/
def State.codeAt (s : State) (t : Tile) (mark v c : Nat) : Elem := (((s.at_ t mark v c).map (·.toNat)).getD 0, 127)

/-- The runs of the reduction of an attention tile. -/
def State.attnSegs (s : State) (a : AttnW) (fdo : Nat) (t : Tile) : List Seg :=
  let part (i n : Nat) : List (List Elem) := vecs a.dim (t.staged.drop (i * a.dim)) n
  let row (mark v : Nat) : List Elem := (List.range t.kLen).map (s.codeAt t mark v)
  match t.kind with
  | 9 => [{ fx := a.q.fmt, fw := a.k.fmt, rows := t.vs.zip (part 0 t.rows), cols := part t.rows t.kLen }]
  | 11 => [{ fx := a.fpv, fw := a.v.fmt, rows := t.vs.map fun v => (v, row 3 v), cols := columns a.dim (part 0 t.kLen) }]
  | 13 => [{ fx := a.q.fmt, fw := a.k.fmt, rows := t.vs.zip (part 0 t.rows), cols := part t.rows t.kLen },
      { fx := fdo, fw := a.v.fmt, rows := t.vs.zip (part (t.rows + t.kLen) t.rows), cols := part (2 * t.rows + t.kLen) t.kLen }]
  | 15 =>
    let keys (mark : Nat) : List (Nat × List Elem) := (List.range t.kLen).map fun c => (c, t.vs.map fun v => s.codeAt t mark v c)
    [{ fx := fdo, fw := a.k.fmt, rows := t.vs.map fun v => (v, row 3 v), cols := columns a.dim (part (2 * t.rows) t.kLen) },
     { fx := fdo, fw := a.q.fmt, rows := keys 3, cols := columns a.dim (part 0 t.rows) },
     { fx := a.fpv, fw := fdo, rows := keys 2, cols := columns a.dim (part t.rows t.rows) }]
  | _ => []

/-! ## Forward (R305, R306) -/

/-- The larger of two FP32 values. -/
def maxF (a b : Word) : Word := if (rdF a).lt (rdF b) then b else a

/-- −Infinity in FP32. -/
def negInfF : Word := 0xFF800000

/-- exp(m − mn): 1.0 when they are equal, 0.0 when m is −Infinity (R305). -/
def rescale (m mn : Word) : Word := if m = mn then oneF else if m = negInfF then 0 else expW (subF m mn)

/-- Scores, or scores and dO · V, of a tile. -/
def endScores (a : AttnW) (fdo : Nat) (t : Tile) (s : State) : State :=
  let segs := s.attnSegs a fdo t
  let mvp := t.unit == .mvp
  ((segs.zip (List.range segs.length)).foldl fun s g =>
    keepVisible a t g.2 (fun v c => toF (dotSegs mvp [g.1] v c)) s) s

/-- Maximum, probabilities and sum of one vector over the keys of a block that it sees. -/
def softmaxRow (a : AttnW) (t : Tile) (v : Nat) (s : State) : State :=
  let cs := t.seen a v
  if cs.isEmpty then s
  else
    let ss := cs.map fun c => mulF a.scale ((s.at_ t 0 v c).getD 0)
    let m := (s.at_ t 1 v 0).getD negInfF
    let mn := ss.foldl maxF m
    let r := rescale m mn
    let ps := ss.map fun x => narrowElem { fmt := a.fpv, rnd := 0, sat := false } 0 (rdF (expW (subF x mn)))
    let sum := ps.foldl (fun b c => toF ((rdF b).add (readElem a.fpv c))) 0
    let l := addF (mulF ((s.at_ t 2 v 0).getD 0) r) sum
    keep ((cs.zip ps).map fun e => { cmd := t.cmd, work := t.work, mark := 3, problem := t.problem, row := v, col := e.1
                                     val := BitVec.ofNat 32 e.2 })
      (putWords t 4 v [r] (putWords t 2 v [l] (putWords t 1 v [mn] s)))

/-- The softmax tile. -/
def endSoftmax (a : AttnW) (t : Tile) (s : State) : State :=
  unkeep (fun e => e.cmd == t.cmd && e.work == t.work && e.mark == 0 && e.problem == t.problem)
    (t.vs.foldl (fun s v => softmaxRow a t v s) s)

/-- The value tile: the block's sums. A key that a vector does not see takes no part. -/
def endValues (a : AttnW) (t : Tile) (s : State) : State :=
  match s.attnSegs a 0 t with
  | g :: _ =>
    let s1 := t.vs.foldl (fun s v =>
      let cs := t.seen a v
      if cs.isEmpty then s
      else
        let xs := cs.map fun c => s.codeAt t 3 v c
        putWords t 5 v ((List.range a.dim).map fun d =>
          let col := g.cols.getD d []
          toF (dotSegs (t.unit == .mvp) [{ g with rows := [(0, xs)], cols := [cs.map fun c => col.getD c (0, 127)] }] 0 0)) s) s
    unkeep (fun e => e.cmd == t.cmd && e.work == t.work && e.mark == 3 && e.problem == t.problem) s1
  | [] => s

/-- Bits of the narrowing of rows of an attention by the Braid lanes of the tile's core. -/
def drawHead (a : AttnW) (t : Tile) (word rows id : Nat) (s : State) : List (List Nat) × State :=
  let d := drawRows (drainBits word 0x01) (s.rowLanes t.die t.core a.dim) rows (s.gens id)
  (d.1, s.putGens id d.2)

/-- The result of a vector: output and statistics (R305, R306). -/
def putHead (a : AttnW) (t : Tile) (v : Nat) (bits : List Nat) (s : State) : State × Option MemErr :=
  let y := a.vec t.problem v
  let row := (a.entryOf t.problem).1.qOff + y.1
  let m := (s.at_ t 1 v 0).getD negInfF
  let l := (s.at_ t 2 v 0).getD 0
  let vals := (List.range a.dim).map fun d => rdF (divF ((s.at_ t 6 v d).getD 0) l)
  andThen (a.o.store a.word 0 row (y.2 * a.dim) (fun _ => 0) (vals.zip (bits ++ List.replicate a.dim 0)) s) fun s =>
    if a.stats then
      vput a.st.vi (a.st.base + 8 * (row * a.heads + y.2)) (leBytes 4 m.toNat ++ leBytes 4 (addF m (lnW l)).toNat) s
    else (s, none)

/-- The rescaling tile; in the last block it narrows and writes. -/
def endRescale (a : AttnW) (t : Tile) (id : Nat) (s : State) : State × Option MemErr :=
  let s1 := t.vs.foldl (fun s v =>
    if (t.seen a v).isEmpty then s
    else
      let r := (s.at_ t 4 v 0).getD oneF
      putWords t 6 v ((List.range a.dim).map fun d =>
        addF (mulF ((s.at_ t 6 v d).getD 0) r) ((s.at_ t 5 v d).getD 0)) s) s
  if t.kIdx = 0 then (s1, none)
  else
    let d := drawHead a t a.word t.rows id s1
    let w := (t.vs.zip (List.range t.rows)).foldl (fun w v =>
      andThen w fun s => putHead a t v.1 (d.1.getD v.2 []) s) (d.2, none)
    (unkeep (fun e => e.cmd == t.cmd && e.work == t.work && e.problem == t.problem && decide (e.mark < 7)
      && decide (t.row0 ≤ e.row ∧ e.row < t.row0 + t.rows)) w.1, w.2)

/-! ## Gradients (R388, R389) -/

/-- Probabilities and score gradients of a tile. -/
def endGrads (a : AttnW) (fdo fo : Nat) (t : Tile) (s : State) : State :=
  let part (i : Nat) : List Elem := (t.staged.drop (i * a.dim)).take a.dim
  let w (f : Nat) (e : Elem) : FVal := rdF (toF (elemVal f e))
  let s1 := (t.vs.zip (List.range t.rows)).foldl (fun s v =>
    let dsum := sumPlain 0 (((part v.2).map (w fdo)).zip ((part (t.rows + v.2)).map (w fo)))
    let lse := BitVec.ofNat 32 ((t.staged.drop (2 * t.rows * a.dim)).getD v.2 (0, 0)).1
    keep ((t.seen a v.1).flatMap fun c =>
      let sc := mulF a.scale ((s.at_ t 0 v.1 c).getD 0)
      let pc := narrowElem { fmt := a.fpv, rnd := 0, sat := false } 0 (rdF (expW (subF sc lse)))
      let ds := narrowElem { fmt := fdo, rnd := 0, sat := false } 0
        (rdF (mulF (toF (readElem a.fpv pc)) (subF ((s.at_ t 1 v.1 c).getD 0) dsum)))
      let p (mark x : Nat) : Part :=
        { cmd := t.cmd, work := t.work, mark := mark, problem := t.problem, row := v.1, col := c, val := BitVec.ofNat 32 x }
      [p 2 pc, p 3 ds]) s) s
  unkeep (fun e => e.cmd == t.cmd && e.work == t.work && decide (e.mark < 2) && e.problem == t.problem) s1

/-- Add products to a sum of FP32 words, each addition rounded (R140, R388). -/
def addProducts (acc : List Word) (c : FVal) (xs : List FVal) : List Word :=
  (acc.zip xs).map fun e => toF ((rdF e.1).add (c.mul e.2))

/-- Add products to the sums of a row that a command keeps under a mark: dQ by vector, dK and dV by KV row and head. -/
def addTo (t : Tile) (mark problem row dim : Nat) (c : FVal) (xs : List FVal) (s : State) : State :=
  let t1 := { t with problem := problem }
  putWords t1 mark row (addProducts ((List.range dim).map fun d => (s.at_ t1 mark row d).getD 0) c xs) s

/-- Row under which dK and dV of a key are kept: the KV row and head. -/
def AttnW.kvKey (a : AttnW) (problem j : Nat) : Nat :=
  ((a.entryOf problem).1.kvRef + j) * max 1 a.kvHeads + (a.entryOf problem).2

/-- The sums of a tile: dQ, dK and dV over its visible pairs, vectors and keys ascending. -/
def endSums (a : AttnW) (fdo : Nat) (t : Tile) (s : State) : State :=
  let part (i : Nat) : List Elem := (t.staged.drop (i * a.dim)).take a.dim
  let s1 := (t.vs.zip (List.range t.rows)).foldl (fun s v =>
    (t.seen a v.1).foldl (fun s c =>
      let g := (rdF a.scale).mul (readElem fdo (s.codeAt t 3 v.1 c).1)
      let p := readElem a.fpv (s.codeAt t 2 v.1 c).1
      let key := a.kvKey t.problem (t.k0 + c)
      addTo t 6 0 key a.dim p ((part (t.rows + v.2)).map (elemVal fdo))
        (addTo t 5 0 key a.dim g ((part v.2).map (elemVal a.q.fmt))
          (addTo t 4 t.problem v.1 a.dim g ((part (2 * t.rows + c)).map (elemVal a.k.fmt)) s))) s) s
  unkeep (fun e => e.cmd == t.cmd && e.work == t.work && (e.mark == 2 || e.mark == 3) && e.problem == t.problem) s1

/-- Write one narrowed row part of dQ, dK or dV. -/
def putGrad (a : AttnW) (t : Tile) (o : Opnd) (word mark problem key row head : Nat) (bits : List Nat)
    (w : State × Option MemErr) : State × Option MemErr :=
  andThen w fun s =>
    let vals := (List.range a.dim).map fun d => rdF ((s.at_ { t with problem := problem } mark key d).getD 0)
    o.store word 0 row (head * a.dim) (fun _ => 0) (vals.zip (bits ++ List.replicate a.dim 0)) s

/-- The KV row is one that an earlier entry of the length table with query rows covers too. -/
def AttnW.covered (a : AttnW) (problem j : Nat) : Bool :=
  let row := (a.entryOf problem).1.kvRef + j
  (a.entries.take (problem / max 1 a.kvHeads)).any fun e => e.qLen != 0 && decide (e.kvRef ≤ row ∧ row < e.kvRef + e.kvLen)

/-- A narrowing tile of the gradients: dQ of a group of vectors, or dK and dV of some keys (R389). -/
def endNarrow (a : AttnW) (t : Tile) (id : Nat) (s : State) : State × Option MemErr :=
  let e := a.entryOf t.problem
  if t.col0 = 0 then
    let d := drawHead a t a.word t.rows id s
    (t.vs.zip (List.range t.rows)).foldl (fun w v =>
      let y := a.vec t.problem v.1
      putGrad a t a.dq a.word 4 t.problem v.1 (e.1.qOff + y.1) y.2 (d.1.getD v.2 []) w) (d.2, none)
  else
    let js := t.vs.filter fun j => !(a.covered t.problem j)
    let d := drawHead a t a.wDkv (2 * js.length) id s
    (js.zip (List.range js.length)).foldl (fun w j =>
      let key := a.kvKey t.problem j.1
      putGrad a t a.dv a.wDkv 6 0 key (e.1.kvRef + j.1) e.2 (d.1.getD (2 * j.2 + 1) [])
        (putGrad a t a.dk a.wDkv 5 0 key (e.1.kvRef + j.1) e.2 (d.1.getD (2 * j.2) []) w)) (d.2, none)

/-- A tile of an attention ends. -/
def endAttn (a : AttnW) (t : Tile) (id : Nat) (s : State) : State × Option MemErr :=
  match t.kind with
  | 9 | 13 => (endScores a a.dO.fmt t s, none)
  | 10 => (endSoftmax a t s, none)
  | 11 => (endValues a t s, none)
  | 12 => endRescale a t id s
  | 14 => (endGrads a a.dO.fmt a.o.fmt t s, none)
  | 15 => (endSums a a.dO.fmt t s, none)
  | _ => endNarrow a t id s

/-! ## Address ranges -/

/-- What a tile of an attention writes outside core SRAM. -/
def AttnW.outSpans (a : AttnW) (t : Tile) : List (Nat × Nat × Nat) :=
  let e := a.entryOf t.problem
  let q (o : Opnd) (word : Nat) : List (Nat × Nat × Nat) := t.vs.flatMap fun v =>
    let y := a.vec t.problem v
    { o with fmt := word % 256 }.rowSpan 0 (e.1.qOff + y.1) (y.2 * a.dim) a.dim
  match t.kind with
  | 12 =>
    if t.kIdx = 0 then []
    else q a.o a.word ++ (if a.stats then t.vs.map fun v =>
      let y := a.vec t.problem v
      (a.st.vi, a.st.base + 8 * ((e.1.qOff + y.1) * a.heads + y.2), 8) else [])
  | 16 =>
    if t.col0 = 0 then q a.dq a.word
    else t.vs.flatMap fun j => [a.dk, a.dv].flatMap fun o =>
      { o with fmt := a.wDkv % 256 }.rowSpan 0 (e.1.kvRef + j) (e.2 * a.dim) a.dim
  | _ => []

/-- What a tile of an attention reads outside core SRAM. -/
def AttnW.inSpans (a : AttnW) (t : Tile) : List (Nat × Nat × Nat) :=
  let e := a.entryOf t.problem
  let q (o : Opnd) : List (Nat × Nat × Nat) := t.vs.flatMap fun v =>
    let y := a.vec t.problem v
    o.rowSpan 0 (e.1.qOff + y.1) (y.2 * a.dim) a.dim
  let k (o : Opnd) : List (Nat × Nat × Nat) :=
    let y := a.kv o t.problem
    t.keys.flatMap fun j => y.1.rowSpan 0 (y.2 + j) (e.2 * a.dim) a.dim
  match t.kind with
  | 9 => q a.q ++ k a.k
  | 11 => k a.v
  | 13 => q a.q ++ k a.k ++ q a.dO ++ k a.v
  | 14 => q a.dO ++ q a.o
  | 15 => q a.q ++ q a.dO ++ k a.k
  | _ => []

end Sys2Proof.Machine
end

