-- ==== Sys2Proof/Machine/UpdImage.lean ====
section
/-! DEFINITION. Update images (R399, R400, R410 of spec/10_learning_passes.md), and what commands use of a job's program slots
and functions (R210, R220 of spec/06_braid_fabric.md). -/

namespace Sys2Proof.Machine

open Sys2Proof

/-! ## Update images (R399) -/

/-- One op word (Table 10.10). -/
structure UpdOp where
  kind : Nat
  prog : Nat
  ta : Bool
  tb : Bool
  ins : List Nat
  outs : List Nat
  red : List Nat
  word : Nat
  deriving DecidableEq, Repr

/-- An update image (Table 10.9). -/
structure UpdImg where
  ops : List UpdOp
  progs : List (List Byte)
  consts : List Word
  deriving DecidableEq, Repr

/-- Nibbles of a field, lowest first. -/
def nibbles (n v : Nat) : List Nat := (List.range n).map fun i => v / 16 ^ i % 16

/-- Decode an op word. -/
def updOpOf (b : List Byte) : UpdOp :=
  { kind := blk b 0 1, prog := blk b 1 1, ta := (b.getD 2 0).getLsbD 0, tb := (b.getD 2 0).getLsbD 1
    ins := nibbles 8 (blk b 4 4), outs := nibbles 4 (blk b 8 2), red := nibbles 4 (blk b 10 2), word := blk b 12 2 }

/-- Embedded programs one after another, by their lengths. -/
def embedded : List Nat → List Byte → List (List Byte)
  | [], _ => []
  | n :: ns, b => b.take n :: embedded ns (b.drop n)

/-- Decode an update image. -/
def updOf (b : List Byte) : UpdImg :=
  let n := blk b 1 1
  { ops := (List.range n).map fun i => updOpOf ((b.drop (64 + 16 * i)).take 16)
    progs := embedded ((List.range (blk b 2 1)).map fun i => blk b (28 + 2 * i) 2) (b.drop (64 + 16 * n))
    consts := (List.range 6).map fun i => BitVec.ofNat 32 (blk b (4 + 4 * i) 4) }

/-- Op kinds of Table 10.10. -/
def UpdOp.isElem (o : UpdOp) : Bool := o.kind == 1
/-- As `isElem`. -/
def UpdOp.isScalar (o : UpdOp) : Bool := o.kind == 2
/-- As `isElem`. -/
def UpdOp.isMatmul (o : UpdOp) : Bool := o.kind == 3
/-- As `isElem`. -/
def UpdOp.isTranspose (o : UpdOp) : Bool := o.kind == 4
/-- As `isElem`. -/
def UpdOp.isSplit (o : UpdOp) : Bool := o.kind == 5

/-- Program of an op. -/
def UpdImg.progOf (g : UpdImg) (o : UpdOp) : Prog := Machine.progOf (g.progs.getD o.prog [])

/-- A RED entry names a REDUCE node of the program, without BLOCK (R406). -/
def redOk (q : Prog) (n v : Nat) : Bool :=
  v == 0xF || (decide (v < 8) && (match (q.reduces[n]?).bind fun i => q.nodes[i]? with
    | some m => m.aux / 8 % 2 == 0
    | none => false))

/-- An op with no reserved value (Table 10.10, R400, R406 to R410). -/
def UpdImg.opOk (g : UpdImg) (o : UpdOp) : Bool :=
  decide (1 ≤ o.kind ∧ o.kind ≤ 5)
  && (if o.isElem then
        decide (o.prog < g.progs.length) && o.outs.headD 0xF != 0xF
        && (List.range 4).all fun n => redOk (g.progOf o) n (o.red.getD n 0xF)
      else if o.isScalar then
        decide (o.prog < g.progs.length) && decide ((g.progOf o).inputs ≤ 1)
        && decide ((g.progOf o).outSrc.headD 0 < 128) && (g.progOf o).outNarrow.headD 0 % 256 == 0x01
      else if o.isMatmul then !(o.ta && o.tb)
      else true)

/-- An update image with no reserved value, of the length its header gives (R399, R400, R410). -/
def updOk (b : List Byte) : Bool :=
  let g := updOf b
  blk b 0 1 == 1 && decide (1 ≤ g.ops.length ∧ g.ops.length ≤ 16) && decide (1 ≤ g.progs.length ∧ g.progs.length ≤ 4)
  && b.length == 64 + 16 * g.ops.length + (g.progs.map (·.length)).sum
  && g.progs.all (fun x => progOk x true && (progOf x).consts.isEmpty) && g.ops.all g.opOk
  && decide ((g.ops.filter UpdOp.isSplit).length ≤ 1)

/-- The ops of a part of the list (R410, R412). -/
def UpdImg.part (g : UpdImg) (second : Bool) : List UpdOp :=
  match g.ops.findIdx? UpdOp.isSplit with
  | none => if second then [] else g.ops
  | some i => if second then g.ops.drop (i + 1) else g.ops.take i

/-- The part runs the last op of the list (R413). -/
def UpdImg.runsLast (g : UpdImg) (second : Bool) : Bool := second || !(g.ops.any UpdOp.isSplit)

/-! ## Slots and functions that commands use (R210, R220, R398) -/

/-- The program in a slot of a job. -/
def State.progAt (s : State) (id slot : Nat) : Option (List Byte) := (s.job? id).bind fun j => tfind j.progs slot

/-- Slot that a run or product names. -/
def slotOf (p : Packet) : Option Nat :=
  if p.op = 0x0203 then some (bf p.p0 4 0)
  else if (p.op = 0x0201 ∨ p.op = 0x0202) ∧ p.p3.getLsbD 2 then some (bf p.p3 12 8)
  else none

/-- What a load writes: a slot, 32 + function, or 64 + update slot. -/
def loadTarget (p : Packet) : Nat :=
  if p.op = 0x0204 then bf p.p0 12 8 else if p.op = 0x0505 then 64 + bf p.p2 2 0 else 32 + 4 * bf p.p0 0 0 + bf p.p0 9 8

/-- Functions that a program's TABLE nodes name, as targets of loads. -/
def funcsOf (img : List Byte) : List Nat :=
  (progOf img).nodes.filterMap fun n => if n.op = 0x0D then some (32 + 4 * (n.aux % 2) + n.aux / 2 % 4) else none

/-- The image that a target will hold for a command: of the last load ahead of it that waits, else the one in place. -/
def State.imageAhead (s : State) (ahead : List OpenCmd) (id target : Nat) : Option (List Byte) :=
  match (ahead.filter fun o => o.prog == .slotLoad && o.pkt.job == id && loadTarget o.pkt == target).getLast? with
  | some o => (match vread o.pkt.vi s o.pkt.p1.toNat (bf o.pkt.p2 15 0) with | .ok b => some b | .error _ => none)
  | none =>
    if target < 32 then s.progAt id target
    else (s.job? id).bind fun j => tfind j.upds (target - 64)

/-- Programs of the pieces that a pass covers. -/
def State.passProgs (s : State) (p : Packet) : List (List Byte) :=
  match (s.job? p.job).bind fun j => j.models.find? fun m => m.handle == bf p.p1 63 48 with
  | some m => ((m.pieces.drop (bf p.p1 47 32)).take (bf p.p1 31 16)).filterMap fun c =>
      m.programs[if p.op = 0x0502 then c.bwd else c.fwd]?
  | none => []

/-- Slots and functions that a command uses, with the commands ahead of it (R210, R220): of a run or product, an UPDATE or a
pass. -/
def State.runReads (s : State) (ahead : List OpenCmd) (p : Packet) : List Nat :=
  match slotOf p with
  | some k => k :: ((s.imageAhead ahead p.job k).map funcsOf).getD []
  | none =>
    if p.op = 0x0503 then
      let t := 64 + bf p.p2 2 0
      t :: ((s.imageAhead ahead p.job t).map fun b => (updOf b).progs.flatMap funcsOf).getD []
    else if p.op = 0x0501 ∨ p.op = 0x0502 then (s.passProgs p).flatMap funcsOf
    else []

/-- A load of the same job that waits and writes something that the run reads (R210). -/
def State.loadAhead (s : State) (opens : List OpenCmd) (p : Packet) : Bool :=
  opens.any fun o => o.prog == .slotLoad && o.pkt.job == p.job && (s.runReads opens p).contains (loadTarget o.pkt)

/-- A command among some, in order, that uses what a load writes, or a load of the same target that waits (R210). -/
def State.usesTarget (s : State) (p : Packet) : List OpenCmd → List OpenCmd → Bool
  | _, [] => false
  | ahead, o :: rest =>
    (o.pkt.job == p.job && o.pkt.key != p.key && ((s.runReads ahead o.pkt).contains (loadTarget p)
      || (o.prog == .slotLoad && loadTarget o.pkt == loadTarget p)))
    || s.usesTarget p (ahead ++ [o]) rest

/-- A run of the same job that uses what a load writes, dispatched before it and not ended (R210). -/
def State.userAhead (s : State) (opens : List OpenCmd) (p : Packet) : Bool := s.usesTarget p [] opens

end Sys2Proof.Machine
end

