-- ==== Sys2Proof/Machine/Products.lean ====
section
/-! DEFINITION. MATMUL, MATMUL_BATCHED and BRAID_RUN: parameters, dispatch and works (R211 to R213 of spec/06_braid_fabric.md;
R240 to R252 of spec/07_tiling.md). -/

namespace Sys2Proof.Machine

open Sys2Proof

/-! ## The commands -/

/-- A product command (Table 7.1). -/
structure Prod where
  m : Nat
  n : Nat
  k : Nat
  fx : Nat
  fw : Nat
  word : Nat
  batch : Nat
  slot : Nat
  path : Nat
  toBraid : Bool
  wKN : Bool
  xKM : Bool
  deriving DecidableEq, Repr

/-- The fields of a product command; MATMUL is one problem. -/
def prodOf (p : Packet) : Prod :=
  { m := bf p.p0 63 32, n := bf p.p0 31 0, k := bf p.p1 63 32, fx := bf p.p1 31 24, fw := bf p.p1 23 16
    word := bf p.p1 15 0, batch := if p.op = 0x0202 then bf p.p3 63 32 else 1, slot := bf p.p3 12 8
    path := bf p.p3 7 6, toBraid := p.p3.getLsbD 2, wKN := p.p3.getLsbD 1, xKM := p.p3.getLsbD 0 }

/-- A result format that a pair of operands can narrow to (R163). -/
def resultOk (fx fmt : Nat) : Bool := fmtOk fmt && fmt != 0x0D && !(fmt == 0x0C && accFmt fx != 0x0C)

/-- Malformed parameters of a product (R139, R163, R240, R243, R84). -/
def prodMalformed (p : Packet) : Bool :=
  let q := prodOf p
  q.m == 0 || q.n == 0 || decide (2 ^ 24 < q.n) || q.k == 0 || decide (2 ^ 24 < q.k)
  || q.batch == 0 || decide (2 ^ 20 < q.batch) || q.path == 3 || (q.wKN && q.xKM)
  || (pairRates q.fx q.fw).isNone || !(resultOk q.fx (q.word % 256)) || decide (p.p2.toNat % 32 ≠ 0)

/-- Binding table and constants, as read at dispatch. -/
def readTables (n : Nat) (bind const : Nat) (s : State) : Except MemErr (List Byte) :=
  match vread n s bind 384 with
  | .error e => .error e
  | .ok b =>
    if const = 0 then .ok b
    else match vread n s const 64 with | .error e => .error e | .ok c => .ok (b ++ c)

/-- The 16 constants of a run (Table 6.7): those read, else the program's own. -/
def runConsts (q : Prog) (tables : List Byte) : List Word :=
  if tables.length = 448 then (List.range 16).map fun i => BitVec.ofNat 32 (blk tables (384 + 4 * i) 4)
  else (List.range 16).map fun i => q.consts.getD i 0

/-- A work with a program of its own image: inputs from `skip` on, and all its outputs (Table 6.8). -/
def withProg (n : Nat) (img tables : List Byte) (skip : Nat) (w : Work) : Work :=
  let q := progOf img
  { w with
    prog := img, rowLen := q.rowLen, inFmt := q.inFmt.take q.inputs, outs := List.range q.outputs, consts := runConsts q tables
    ins := (List.range (q.inputs - skip)).map fun i => opndOf n (entryOf tables (skip + i)) (q.inFmt.getD (skip + i) 0) false
    dsts := (List.range q.outputs).map fun o => opndOf n (entryOf tables (8 + o)) (q.outNarrow.getD o 0 % 256) false }

/-! ## Products -/

/-- The work of a product command (R241, R251). -/
def State.prodWork (s : State) (p : Packet) (tables : List Byte) (prog : Option (List Byte)) : Work :=
  let q := prodOf p
  let ew := entryOf tables 1
  let folded := p.op == 0x0202 && ew.batch == 0 && decide (q.batch * q.m ≤ 65536)
  let mf := if folded then q.batch * q.m else q.m
  let w : Work := {
    kind := .product, m := mf, n := q.n, k := q.k, problems := if folded then 1 else q.batch, fold := if folded then q.m else 0
    x := opndOf p.vi (entryOf tables 0) q.fx q.xKM, w := opndOf p.vi ew q.fw q.wKN
    y := opndOf p.vi (entryOf tables 2) (q.word % 256) false, word := q.word
    mvp := useMvp q.path mf (s.outsideSram p.vi ew.base) false }
  match prog with
  | some img => withProg p.vi img (tables.drop 96) 1 w
  | none => w

/-- n in a field of w bits; a number that does not fit leaves the field open (notes/assumptions/13.md). -/
def fitField (w n : Nat) (free : Dword) : Nat := if n < 2 ^ w then n else free.toNat % 2 ^ w

/-- RESULT0 and RESULT1 of a product (Table 7.2). -/
def productResults (total : Nat) (c : Cut) (w : Work) (free : Dword) : Nat × Nat :=
  (fitField 32 total free * 2 ^ 32 + fitField 16 c.mt free * 2 ^ 16 + fitField 8 c.nK free * 2 ^ 8 + b2n w.mvp,
   fitField 16 c.p free * 2 ^ 16 + b2n (w.fold != 0))

/-- A product is dispatched with its tables read: cut and placed (R238). -/
def launchProduct (p : Packet) (tables : List Byte) (prog : Option (List Byte)) (s : State) : State :=
  let w := s.prodWork p tables prog
  let c := s.cutOf w
  let w1 := { w with nK := c.1.nK }
  let tiles := productTiles p.key 0 w1 c.1 c.2.1 c.2.2 (dealPlace w1 c.1 s.coreOrder)
  let r := productResults tiles.length c.1 w s.freeVal
  { s.nextFree.openCmd p (.works [w1] r.1 r.2 0 []) with tiles := s.tiles ++ tiles }

/-- An epilogue program fits the product (R244). -/
def epilogueFits (q : Prod) (g : Prog) : Bool :=
  g.rowLen == q.n && g.sweeps == 1 && decide (1 ≤ g.inputs) && g.inFmt.getD 0 0 == q.word % 256

/-- A product with its loads in place (R213, R244). -/
def startProduct (p : Packet) (s : State) : State :=
  let q := prodOf p
  match vread p.vi s p.p2.toNat 96 with
  | .error e => memFail p e s
  | .ok ops =>
    if !q.toBraid then launchProduct p ops none s
    else
      match s.progAt p.job q.slot with
      | none => postErr p 0x0221 q.slot s
      | some img =>
        if !(epilogueFits q (progOf img)) then postFree p s
        else
          match readTables p.vi p.p4.toNat p.p5.toNat s with
          | .error e => memFail p e s
          | .ok b => launchProduct p (ops ++ b) (some img) s

/-- MATMUL and MATMUL_BATCHED (R240). -/
def effMatmul (p : Packet) (s : State) : State :=
  if prodMalformed p then postFree p s
  else if s.loadAhead s.opens p then s.openCmd p .slotRun
  else startProduct p s

/-! ## BRAID_RUN -/

/-- A BRAID_RUN with its loads in place (R211 to R213). -/
def startRun (p : Packet) (s : State) : State :=
  match s.progAt p.job (bf p.p0 4 0) with
  | none => postErr p 0x0221 (bf p.p0 4 0) s
  | some img =>
    match readTables p.vi p.p1.toNat p.p2.toNat s with
    | .error e => memFail p e s
    | .ok tables =>
      let w := withProg p.vi img tables 0 { kind := .rows, rows := bf p.p0 63 32, vote := bf p.p0 31 16 }
      let tiles := runTiles p.key 0 w s.coreOrder
      { s.openCmd p (.works [w] 0 0 0 []) with tiles := s.tiles ++ tiles }

/-- BRAID_RUN (R211). -/
def effBraidRun (p : Packet) (s : State) : State :=
  if bf p.p0 63 32 = 0 ∨ p.p1.toNat % 32 ≠ 0 then postFree p s
  else if s.loadAhead s.opens p then s.openCmd p .slotRun
  else startRun p s

end Sys2Proof.Machine
end

