-- ==== Sys2Proof/Machine/Update.lean ====
section
/-! DEFINITION. What an UPDATE is cut into: the works of its layers (R400 to R413, R417 of spec/10_learning_passes.md), and the
phase window that an UPDATE closes (R420, R423). -/

namespace Sys2Proof.Machine

open Sys2Proof

/-! ## Layers (R402) -/

/-- A tensor descriptor (Table 10.13). -/
structure Tensor where
  base : Nat
  plane2 : Nat
  rows : Nat
  cols : Nat
  fmt : Nat
  deriving DecidableEq, Repr

/-- A layer entry (Table 10.12). -/
structure Layer where
  vote : Nat
  tt : Nat
  ts : List Tensor
  deriving DecidableEq, Repr

/-- Decode a layer entry. -/
def layerOf (b : List Byte) : Layer :=
  { vote := blk b 0 2, tt := blk b 2 1
    ts := (List.range 8).map fun i =>
      let o := 32 + 32 * i
      { base := blk b o 8, plane2 := blk b (o + 8) 8, rows := blk b (o + 16) 4, cols := blk b (o + 20) 4, fmt := blk b (o + 24) 1 } }

/-- A tensor as an operand: rows one after another. -/
def Tensor.opnd (t : Tensor) (n : Nat) : Opnd :=
  { vi := n, base := t.base, plane2 := t.plane2, stride := plane1Bytes t.fmt t.cols, stride2 := plane2Bytes t.fmt t.cols
    fmt := t.fmt }

/-- The tensor that an op binds, if it is used. -/
def Layer.bound (l : Layer) (i : Nat) : Option Tensor := (l.ts[i]?).filter fun t => t.base != 0

/-- Two tensors of one shape. -/
def Tensor.like (a b : Tensor) : Bool := a.rows == b.rows && a.cols == b.cols

/-- An op fits the tensors of a layer (R163, R167, R400, R404, R408, R409). -/
def UpdImg.fits (g : UpdImg) (l : Layer) (o : UpdOp) : Bool :=
  let q := g.progOf o
  match l.bound (o.outs.headD 0xF) with
  | none => o.isScalar || o.isSplit
  | some d =>
    if o.isElem then
      (List.range q.inputs).all (fun i => (l.bound (o.ins.getD i 0xF)).any fun t => t.like d)
      && (List.range q.outputs).all fun j =>
          o.outs.getD j 0xF == 0xF || (l.bound (o.outs.getD j 0xF)).any fun t =>
            q.outNarrow.getD j 0 % 256 == t.fmt && (128 ≤ q.outSrc.getD j 0 || t.like d)
    else if o.isMatmul then
      match l.bound (o.ins.getD 0 0xF), l.bound (o.ins.getD 1 0xF) with
      | some a, some b =>
        let m := if o.ta then a.cols else a.rows
        let k := if o.ta then a.rows else a.cols
        (pairRates a.fmt b.fmt).isSome && o.word % 256 == d.fmt && resultOk a.fmt d.fmt && d.rows == m
        && !(o.ta && !o.tb && isMx a.fmt && isMx b.fmt)
        && (if o.tb then b.cols == k && b.rows == d.cols else b.rows == k && b.cols == d.cols)
      | _, _ => false
    else if o.isTranspose then
      (l.bound (o.ins.getD 0 0xF)).any fun a => a.rows == d.cols && a.cols == d.rows && o.word % 256 == d.fmt
    else true

/-! ## The works of a layer -/

/-- What the works of a layer are made of: packet, image, layer and its index, and η. -/
structure UpdCtx where
  pkt : Packet
  img : UpdImg
  layer : Layer
  ix : Nat
  eta : Word

/-- Constants 0 to 7 of the programs (Table 10.11). -/
def UpdCtx.consts (x : UpdCtx) : List Word := [x.eta, toF (.fin false x.pkt.p0.toNat 0)] ++ x.img.consts

/-- Outputs of an op that take part, by number: those bound to a tensor, and one that supplies the weight plane of such an
output (R200). -/
def boundOuts (q : Prog) (o : UpdOp) : List Nat :=
  (List.range q.outputs).filter fun j => o.outs.getD (if q.supplies j then j - 1 else j) 0xF != 0xF

/-- The operand that an op binds. -/
def UpdCtx.opnd (x : UpdCtx) (i : Nat) : Opnd := ((x.layer.bound i).map fun t => t.opnd x.pkt.vi).getD {}

/-- An ELEM op (R400, R404, R406): ROW_LEN and formats of its tensors, unbound outputs left out. -/
def UpdCtx.elem (x : UpdCtx) (o : UpdOp) (d : Tensor) : Work :=
  let q := x.img.progOf o
  let js := boundOuts q o
  { kind := .rows, chain := x.ix, rows := d.rows, prog := x.img.progs.getD o.prog [], rowLen := d.cols
    inFmt := (List.range q.inputs).map fun i => (x.opnd (o.ins.getD i 0xF)).fmt
    outs := js, consts := x.consts, scal := true, vote := x.layer.vote
    ins := (List.range q.inputs).map fun i => x.opnd (o.ins.getD i 0xF)
    dsts := js.map fun j => x.opnd (o.outs.getD j 0xF), red := o.red }

/-- A SCALAR op (R407). -/
def UpdCtx.scalar (x : UpdCtx) (o : UpdOp) : Work :=
  { kind := .scalars, chain := x.ix, prog := x.img.progs.getD o.prog [], rowLen := 8, inFmt := [0x01], outs := [0]
    consts := x.consts, scal := true, vote := x.layer.vote }

/-- A MATMUL op (R408): X is stored M × K, or K × M with TA; W is stored K × N, or N × K with TB. -/
def UpdCtx.matmul (x : UpdCtx) (o : UpdOp) (d a b : Tensor) (s : State) : Work :=
  { kind := .product, chain := x.ix, m := d.rows, n := d.cols, k := if o.ta then a.rows else a.cols
    x := { a.opnd x.pkt.vi with outer := o.ta }, w := { b.opnd x.pkt.vi with outer := !o.tb }, y := d.opnd x.pkt.vi
    word := o.word, mvp := useMvp 0 d.rows (s.outsideSram x.pkt.vi b.base) false }

/-- The work of an op on the layer; none where it binds nothing. -/
def UpdCtx.work (x : UpdCtx) (s : State) (o : UpdOp) : Option Work :=
  if o.isScalar then some (x.scalar o)
  else if o.isSplit then none
  else
    match x.layer.bound (o.outs.headD 0xF) with
    | none => none
    | some d =>
      if o.isElem then some (x.elem o d)
      else
        match x.layer.bound (o.ins.getD 0 0xF), x.layer.bound (o.ins.getD 1 0xF) with
        | some a, b =>
          if o.isMatmul then b.map fun b => x.matmul o d a b s
          else some { kind := .transpose, chain := x.ix, m := d.rows, n := d.cols, x := a.opnd x.pkt.vi, y := d.opnd x.pkt.vi
                      word := o.word, vote := x.layer.vote }
        | none, _ => none

/-! ## Tiles of works -/

/-- The K ranges of a product, as firmware cuts it at dispatch (R238, R249). -/
def State.planWork (s : State) (w : Work) : Work := if w.kind = .product then { w with nK := (s.cutOf w).1.nK } else w

/-- The tiles of a work over some cores, in order. -/
def State.tilesOf (s : State) (k : Key) (wi : Nat) (w : Work) (order : List (Nat × Nat)) : List Tile :=
  match w.kind with
  | .product => let c := s.cutOf w; productTiles k wi w c.1 c.2.1 c.2.2 (dealPlace w c.1 order)
  | .rows => runTiles k wi w order
  | .scalars => [tileOf k wi .braid 5 (order.getD (w.chain % max 1 order.length) (0, 0)) 0 0 1 0 8 0 0 0 0]
  | .transpose => transposeTiles k wi w order
  | .attn => attnTiles k wi w.attn false order
  | .attnBwd => attnTiles k wi w.attn true order
  | .route => expertTiles k wi w 7 order
  | .experts => expertTiles k wi w 8 order

/-- The tiles of a list of works, each over its own cores. -/
def State.tilesAll (s : State) (k : Key) (ws : List (Work × List (Nat × Nat))) : List Tile :=
  (ws.zip (List.range ws.length)).flatMap fun w => s.tilesOf k w.2 w.1.1 w.1.2

/-! ## A layer of an UPDATE -/

/-- The image in an UPDATE's slot. -/
def State.updImg (s : State) (p : Packet) : Option UpdImg :=
  ((s.job? p.job).bind fun j => tfind j.upds (bf p.p2 2 0)).map updOf

/-- Layers of an UPDATE. -/
def layerCount (p : Packet) : Nat := bf p.p2 31 16

/-- Layer i of an UPDATE's table. -/
def readLayer (p : Packet) (i : Nat) (s : State) : Except MemErr Layer :=
  match vread p.vi s (p.p1.toNat + 288 * i) 288 with
  | .error e => .error e
  | .ok b => .ok (layerOf b)

/-- Set the tag of the region of a model of the job whose buffer 0 begins at an address (R413, R440). -/
def setTagAt (n id base version : Nat) (s : State) : State :=
  if base = 0 then s
  else
    ((s.job? id).map (·.models)).getD [] |>.foldl (fun s m =>
      (List.range m.regions.length).foldl (fun s i =>
        let e := m.wbase + 256 + 64 * i
        let rd (a k : Nat) : Nat := leNat ((List.range k).map fun j =>
          match s.xlate n (a + j) with | some x => (s.space x.1).read x.2 | none => 0)
        if rd e 8 = base then vwrite n (e + 48) (leBytes 4 version) s else s) s) s

/-- The tags of T0 and TT become NEW_VERSION (R413). -/
def tagLayer (p : Packet) (l : Layer) (s : State) : State :=
  let v := bf p.p2 63 32
  let at_ (i : Nat) : Nat := ((l.ts[i]?).map (·.base)).getD 0
  let s1 := setTagAt p.vi p.job (at_ 0) v s
  if l.tt = 0xFF then s1 else setTagAt p.vi p.job (at_ l.tt) v s1

/-- The ops of the part have run on a layer: its tags are set with the last op (R413). -/
def endLayer (p : Packet) (i : Nat) (s : State) : State × Option MemErr :=
  match s.updImg p, readLayer p i s with
  | none, _ => (s, none)
  | _, .error e => (s, some e)
  | some g, .ok l => (if g.runsLast (p.p2.getLsbD 4) then tagLayer p l s else s, none)

/-! ## The phase window (R421) and completion -/

/-- Step, microbatch count and version of a job's window: of the first command that names a step (R421). -/
def noteStep (id : Nat) (step : Dword) (mb : Nat) (version : Option Word) (s : State) : State :=
  let set (w : Window) : Window :=
    { w with step := w.step.or (some step), mbCount := if mb = 0 then w.mbCount else mb
             version := version.getD w.version }
  s.updJob id fun j => { j with window := j.window.map set }

/-- Frets of a job's window up to this one. -/
def State.windowLen (s : State) (id : Nat) : Nat :=
  match (s.job? id).bind (·.window) with
  | some w => (s.ftu.count - w.start).toNat + 1
  | none => 0

/-- PHASE_OUT's first unmapped byte, where the end of an UPDATE writes a phase record there (R82, R423). -/
def State.phaseHole (s : State) (p : Packet) : Option Nat :=
  if p.p2.getLsbD 5 && p.p3 != 0 && ((s.job? p.job).bind (·.window)).isSome then s.firstUnmapped p.vi p.p3.toNat 96 else none

/-- An UPDATE completes (R414), or its phase record cannot be written whole (R82). -/
def doneUpdate (p : Packet) (layers : Nat) (start : Dword) (s : State) : State :=
  let frets := (s.ftu.count - start).toNat
  let x := s.freeVal
  let f := if frets < 2 ^ 32 then frets else x.toNat % 2 ^ 32
  let len := if p.p2.getLsbD 5 then s.windowLen p.job % 2 ^ 32 else 0
  let s1 := { s.nextFree with ctr := { s.ctr with lrnUpdates := satAdd s.ctr.lrnUpdates 1 } }
  match s1.phaseHole p with
  | some va => memFail p (.notMapped va) s1
  | none => postDone p (f * 2 ^ 32 + layers) len s1

/-- Lowest layer not completed. -/
def lowestLeft (p : Packet) (done : List Nat) : Nat :=
  ((List.range (layerCount p)).find? fun i => !(done.contains i)).getD 0

/-- Address ranges of the tensors of a layer. -/
def Layer.spans (l : Layer) : List (Nat × Nat) :=
  (l.ts.filter fun t => t.base != 0).flatMap fun t =>
    (t.base, t.rows * plane1Bytes t.fmt t.cols)
    :: (if plane2Bytes t.fmt t.cols = 0 then [] else [(t.plane2, t.rows * plane2Bytes t.fmt t.cols)])

/-- The tensors of the layers not completed hold unpredictable values: free bytes (R416). -/
def scrambleLayers (p : Packet) (done : List Nat) (s : State) : State :=
  ((List.range (layerCount p)).filter fun i => !(done.contains i)).foldl (fun s i =>
    match readLayer p i s with
    | .error _ => s
    | .ok l => l.spans.foldl (fun s x => vwrite p.vi x.1 (s.freeBytes x.2) s.nextFree) s) s

end Sys2Proof.Machine
end

