-- ==== Sys2Proof/Machine/Passes.lean ====
section
/-! DEFINITION. Passes: parameters, pass block and completion (Tables 10.2, 10.3, 10.7; R366 to R372 of
spec/10_learning_passes.md). -/

namespace Sys2Proof.Machine

open Sys2Proof

/-! ## Passes: parameters (Tables 10.2, 10.3, 10.7) -/

/-- Fields of a pass command. -/
structure PassP where
  bwd : Bool
  step : Dword
  model : Nat
  first : Nat
  pieces : Nat
  version : Nat
  mb : Nat
  mbCount : Nat
  word : Nat
  gWord : Nat
  strictT : Bool
  noDx : Bool
  deriving DecidableEq, Repr

/-- The fields of a packet. -/
def passOf (p : Packet) : PassP :=
  { bwd := p.op == 0x0502, step := p.p0, model := bf p.p1 63 48, first := bf p.p1 47 32, pieces := bf p.p1 31 16
    version := bf p.p2 63 32, mb := bf p.p2 31 16, mbCount := bf p.p2 15 0 + 1, word := bf p.p4 15 0
    gWord := bf p.p4 31 16, strictT := p.p4.getLsbD 32, noDx := p.p4.getLsbD 33 }

/-- Malformed parameters of a pass (R84). -/
def PassP.bad (x : PassP) (p : Packet) : Bool :=
  x.pieces == 0 || p.p3.toNat % 64 != 0
  || (if x.bwd then !([0x02, 0x03, 0x04, 0x05].contains (x.word % 256)) || !([0x01, 0x02].contains (x.gWord % 256))
      else !(fmtOk (x.word % 256)) || x.word % 256 == 0x0D)

/-- A pass command that is not a QUERY. -/
def isPass (p : Packet) (bwd : Bool) : Bool :=
  if bwd then p.op == 0x0502 else p.op == 0x0501 && !(p.p1.getLsbD 0)

/-- A pass block (Table 10.3). -/
structure PassBlock where
  inp : Nat
  inCtr : Nat
  inValue : Nat
  out : Nat
  outModule : Nat
  outCtr : Nat
  save : Nat
  lentab : Nat
  rows : Nat
  seqs : Nat
  gacc : Nat
  deriving DecidableEq, Repr

/-- The block of a pass. -/
def blockOf (b : List Byte) : PassBlock :=
  { inp := blk b 0 8, inCtr := blk b 8 8, inValue := blk b 16 8, out := blk b 24 8, outModule := blk b 32 2, outCtr := blk b 40 8
    save := blk b 48 8, lentab := blk b 56 8, rows := blk b 64 4, seqs := blk b 68 4, gacc := blk b 72 8 }

/-! ## Completion (R368, R372) -/

/-- Add to a 64-bit counter in a VI's range (R543). -/
def bumpCounter (n a v : Nat) (s : State) : State :=
  if a = 0 then s
  else
    match vread n s a 8 with
    | .ok d => vwrite n a (leBytes 8 (leNat d + v)) s
    | .error _ => s

/-- A pass completes with DONE (R372); `total` tiles were issued. -/
def donePass (p : Packet) (since : Dword) (waited total : Nat) (s : State) : State :=
  let x := passOf p
  let add (e : StepPasses) : StepPasses :=
    if e.step ≠ x.step then e
    else if x.bwd then { e with bwdDone := e.bwdDone ++ [x.mb] } else { e with fwdDone := e.fwdDone ++ [x.mb] }
  let s1 := s.updJob p.job fun j => { j with passes := j.passes.map add }
  let s2 := { s1.nextFree with ctr :=
    if x.bwd then { s1.ctr with lrnBwd := satAdd s1.ctr.lrnBwd 1 } else { s1.ctr with lrnFwd := satAdd s1.ctr.lrnFwd 1 } }
  postDone p (fitField 32 (s.ftu.count - since).toNat s.freeVal * 2 ^ 32 + fitField 32 total s.freeVal) (waited % 2 ^ 32) s2

/-- The tiles of a pass have ended: OUT and its SIGNAL go to another module, or the pass completes (R368). `out` lists where OUT
lies in the scratch memory. -/
def endPassRun (p : Packet) (since : Dword) (waited total : Nat) (block : List Byte) (out : List (Nat × Nat)) (s : State) :
    State :=
  let x := passOf p
  let b := blockOf block
  let signal := b.outCtr != 0 && !(x.bwd && x.noDx)
  let bytes := out.flatMap fun r => s.peek scratchVi r.1 r.2
  let s1 := dropTiles p.key (s.setProg p.key (.pass x.bwd since waited))
  if b.outModule ≠ 0xFFFF ∧ (bytes ≠ [] ∨ signal) then
    s1.setProg p.key (.passOut x.bwd since waited total bytes 0 signal)
  else donePass p since waited total (if signal then bumpCounter p.vi b.outCtr 1 s1 else s1)

end Sys2Proof.Machine
end

