-- ==== Sys2Proof/Machine/Tiles.lean ====
section
/-! DEFINITION. Tiles on their cores: issue, end, halts and reruns, capo points, and the loads of slots, functions and
seeds (spec/05_matrix_arrays.md, spec/06_braid_fabric.md, spec/07_tiling.md). -/

namespace Sys2Proof.Machine

open Sys2Proof

/-! ## Loads and the runs that wait for them (R208 to R210, R220) -/

/-- A slot load takes effect (R209, R398): every core of the job holds the image. -/
def finishLoad (p : Packet) (s : State) : State :=
  if p.op = 0x0204 then
    match vread p.vi s p.p1.toNat (bf p.p2 15 0) with
    | .error e => memFail p e s
    | .ok img =>
      if !(progOk img false) then postFree p s
      else postDone p 0 0 (s.updJob p.job fun j => { j with progs := tset j.progs (bf p.p0 12 8) img })
  else if p.op = 0x0505 then
    match vread p.vi s p.p1.toNat (bf p.p2 15 0) with
    | .error e => memFail p e s
    | .ok img =>
      if !(updOk img) then postFree p s
      else postDone p 0 0 (s.updJob p.job fun j => { j with upds := tset j.upds (bf p.p0 2 0) img })
  else
    match vread p.vi s p.p1.toNat 6208 with
    | .error e => memFail p e s
    | .ok img => postDone p 0 0 (s.updJob p.job fun j => { j with funcs := tset j.funcs (4 * bf p.p0 0 0 + bf p.p0 9 8) img })

/-- The first load or run that waits and need wait no longer, with the commands before it (R210). -/
def nextSlotWork (s : State) : List OpenCmd → List OpenCmd → Option OpenCmd
  | _, [] => none
  | before, o :: rest =>
    let ready := match o.prog with
      | .slotLoad => !(s.userAhead before o.pkt)
      | .slotRun => !(s.loadAhead before o.pkt)
      | _ => false
    if ready then some o else nextSlotWork s (before ++ [o]) rest

/-- Loads and runs that waited take effect, in order (R210). -/
def serveSlots : Nat → State → State
  | 0, s => s
  | n + 1, s =>
    match nextSlotWork s [] s.opens with
    | none => s
    | some o =>
      serveSlots n (match o.prog with
        | .slotLoad => finishLoad o.pkt s
        | _ => if o.pkt.op = 0x0203 then startRun o.pkt (s.closeCmd o.pkt.key) else startProduct o.pkt (s.closeCmd o.pkt.key))

/-- After a command has ended: whatever waited for its slot. -/
def settleSlots (s : State) : State := serveSlots s.opens.length s

/-- BRAID_LOAD PROGRAM, TABLE_LOAD and UPDATE_PROGRAM_LOAD (R208, R210, R220, R398). -/
def effSlotLoad (p : Packet) (s : State) : State :=
  if (s.job? p.job).isNone ∨ (p.op = 0x0204 ∧ 384 < bf p.p2 15 0) then postFree p s
  else if s.userAhead s.opens p then s.openCmd p .slotLoad
  else finishLoad p s

/-! ## Seeds (R224, R225) -/

/-- Ask a list of cores for a capo point (R259). -/
def askCapo (l : List (Nat × Nat)) (s : State) : State :=
  l.foldl (fun s x => s.updCore x.1 x.2 fun k => { k with capoReq := true, atCapo := false }) s

/-- BRAID_LOAD SEED (R225). -/
def effSeedLoad (p : Packet) (s : State) : State :=
  if (s.job? p.job).isNone then postFree p s
  else askCapo s.coreOrder (s.openCmd p (.seedLoad s.coreOrder))

/-- Every core has reached its capo point: the streams start from the new seed (R225). -/
def finishSeed (p : Packet) (s : State) : State :=
  let s1 := s.updJob p.job fun j => { j with seedLo := p.p1, seedHi := p.p2, gens := [], seedLoads := j.seedLoads + 1 }
  let loads := ((s1.job? p.job).map (·.seedLoads)).getD 0
  postDone p 0 0 (placeStreams p.job (min loads 0xFFFF) s1)

/-- Seed loads that this core held up (R225). -/
def serveSeeds (d c : Nat) (s : State) : State :=
  s.opens.foldl (fun s o =>
    match o.prog with
    | .seedLoad cores =>
      if !(cores.contains (d, c)) then s
      else
        let rest := cores.filter (· != (d, c))
        if rest.isEmpty then finishSeed o.pkt s else s.setProg o.pkt.key (.seedLoad rest)
    | _ => s) s

/-! ## Works and their tiles -/

/-- The works of a command in progress. -/
def OpenCmd.works (o : OpenCmd) : List Work :=
  match o.prog with
  | .works ws _ _ _ _ => ws
  | .passRun _ _ _ _ ws _ _ _ => ws
  | .updateRun _ _ ws => ws
  | _ => []

/-- The work that a tile is of. -/
def OpenCmd.workOf (o : OpenCmd) (t : Tile) : Work := o.works.getD t.work { kind := .rows }

/-- Operands of a tile (R257). -/
def stageTile (w : Work) (t : Tile) (s : State) : Except MemErr (List Elem) :=
  if t.kind < 9 then stageWork w t s else stageAttn w.attn t s

/-- What a tile computes and writes back. -/
def tileEffect (w : Work) (t : Tile) (id : Nat) (s : State) : State × Option MemErr :=
  match t.kind with
  | 0 | 1 => endProduct w t id s
  | 2 => endSumming w t id s
  | 3 => endEpilogue w t id s
  | 4 => endRun w t id s
  | 5 => (endScalarOp w t id s, none)
  | 6 => endTranspose w t id s
  | 7 => endRoute w t s
  | 8 => endExperts w t id s
  | _ => endAttn w.attn t id s

/-- What a tile writes, as (VI, address, length); with `whole` the epilogue of its rows too. -/
def tileOuts (w : Work) (t : Tile) (whole : Bool) : List (Nat × Nat × Nat) :=
  if t.kind < 9 then w.outSpans t whole else w.attn.outSpans t

/-- What a tile reads. -/
def tileIns (w : Work) (t : Tile) (whole : Bool) : List (Nat × Nat × Nat) :=
  if t.kind < 9 then w.inSpans t whole else w.attn.inSpans t

/-- The runs of the reduction of a tile. -/
def State.tileSegs (s : State) (w : Work) (t : Tile) : List Seg :=
  if t.kind < 2 then s.segsOf w t else s.attnSegs w.attn w.attn.dO.fmt t

/-- Blocks of 256 columns of a run. -/
def Seg.blocks (g : Seg) : List Seg := (pieces 256 g.cols.length g.cols).map fun c => { g with cols := c }

/-- The passes of a tile on the arrays in order, each with the bits of its result elements where it is a LAST pass. -/
def State.tilePasses (s : State) (w : Work) (t : Tile) : List (Seg × Option Nat) :=
  let mark (bits : Nat) (l : List Seg) : List (Seg × Option Nat) :=
    (l.zip (List.range l.length)).map fun g => (g.1, if g.2 + 1 = l.length then some bits else none)
  if t.kind = 0 then mark (if w.nK = 1 then elemBits (w.word % 256) else 32) ((s.tileSegs w t).flatMap Seg.passes)
  else (s.tileSegs w t).flatMap fun g => g.blocks.flatMap fun b => mark 32 b.passes

/-- 16 times the issue cycles per vector of a pass: its operand pair's, or its drain's where that is slower (R165). -/
def passCost (g : Seg × Option Nat) : Nat := max (8 * pairC2 g.1.fx g.1.fw) (g.2.getD 0)

/-- Issue cycles of a pass. -/
def passCycles (g : Seg × Option Nat) : Nat := cdiv (g.1.rows.length * passCost g) 16

/-! ## Issue (R257, R264) -/

/-- A tile's command belongs to a running job or to none. -/
def State.runnable (s : State) (t : Tile) : Bool :=
  match s.open? t.cmd with
  | some o => s.runs o.pkt
  | none => false

/-- Rows of two tiles of one problem meet. -/
def rowsMeet (t u : Tile) : Bool :=
  t.problem == u.problem && decide (t.row0 < u.row0 + u.rows ∧ u.row0 < t.row0 + t.rows)

/-- Of two tiles of one work, the second waits for the first: the K ranges of a summing tile, the row range of an epilogue
(R250, R263), and the order of an attention's problem. -/
def waitsInWork (t u : Tile) : Bool :=
  match t.kind with
  | 2 => decide (u.kind < 2) && t.col0 == u.col0 && rowsMeet t u
  | 3 => (decide (u.kind < 3) || u.kind == 8) && rowsMeet t u
  | 15 => t.problem == u.problem || u.kind == 15
  | 16 => t.problem == u.problem || t.col0 == 1
  | k => decide (9 ≤ k) && t.problem == u.problem

/-- Tile t, placed after tile u, waits for it: an earlier work of its chain, an earlier tile of its work, or the additions into G of
a PASS_BWD dispatched before (R267, R384, R403). -/
def State.tileWaits (s : State) (t u : Tile) : Bool :=
  match s.open? t.cmd, s.open? u.cmd with
  | some o, some q =>
    let a := o.workOf t
    let b := q.workOf u
    if t.cmd = u.cmd then
      (if t.work = u.work then waitsInWork t u else decide (u.work < t.work) && a.chain == b.chain)
    else a.grad && b.grad && o.pkt.job == q.pkt.job && t.kind == 3
  | _, _ => false

/-- Tiles placed before a tile. -/
def State.tilesBefore (s : State) (t : Tile) : List Tile := s.tiles.takeWhile (· != t)

/-- A core takes new tiles: no capo request, not fenced, no test slice, no reset (R259, R654, R687). -/
def State.takesTiles (s : State) (d c : Nat) : Bool :=
  let k := s.core d c
  !k.capoReq && !k.atCapo && !k.fenced && !k.inSlice && !(s.blkRst.any fun r => r.block == .core d c)

/-- The tile that a core issues next: the first placed on it (R264); a tile that halted stands first on its core (R261). -/
def State.nextTile (s : State) (d c : Nat) : Option Tile :=
  s.tiles.find? fun t => t.die == d && t.core == c && !t.issued && s.runnable t

/-- The tile in progress on a unit of a core. -/
def State.tileOn (s : State) (d c : Nat) (u : TileUnit) : Option Tile :=
  s.tiles.find? fun t => t.die == d && t.core == c && t.unit == u && t.issued

/-- The turn buffer brings an operand of the tile (R243, R409). -/
def usesTurn (w : Work) (t : Tile) : Bool :=
  t.kind == 6 || (t.kind == 0 && ((w.x.outer && (isMx w.x.fmt || w.grad)) || (w.w.outer && (isMx w.w.fmt || w.grad))))

/-- A unit begins a tile (Tables 5.7, 5.12, 6.9): the arrays prime, the Braid is set up. -/
def busyUnit (t : Tile) (turn : Bool) (s : State) : State :=
  s.updCore t.die t.core fun k =>
    match t.unit with
    | .arrays => { k with a := { k.a with state := 1 }, b := { k.b with state := 1 }, half0 := if turn then 1 else 0, half1 := 0 }
    | .mvp => { k with mvpState := 1, mvpRows := BitVec.ofNat 4 (min 8 t.rows) }
    | .braid => { k with brdState := 1, brdSweep := 0 }

/-- A range lies in a covered SRAM or STAGE region that a checkpoint has not copied yet (R595). -/
def State.owesRegion (s : State) (x : Nat × Nat × Nat) : Bool :=
  (granules 65536 x.2.1 x.2.2).any fun a =>
    (match (s.mapping x.1 a).map Mapping.now with | some (.sram _ _ _) | some (.stage _ _) => true | _ => false)
    && s.jobs.any fun j => j.vi == x.1 && j.ckpts.any fun c => c.todo.contains (a / 65536)

/-- A range touches a page in motion (R491). -/
def State.inMotion (s : State) (x : Nat × Nat × Nat) : Bool :=
  (granules pageSize x.2.1 x.2.2).any fun a => ((s.mapping x.1 a).bind (·.move)).isSome

/-- An access of the tile must wait before it is issued (R491, R595). -/
def State.accessWaits (s : State) (w : Work) (t : Tile) : Bool :=
  let outs := tileOuts w t false
  outs.any s.owesRegion || (outs ++ tileIns w t false).any s.inMotion

/-- A tile of a pass reads a host-tier region that is not in the stage buffers (R466). -/
def State.streamWaits (s : State) (o : OpenCmd) (w : Work) (t : Tile) : Bool :=
  (o.pkt.op == 0x0501 || o.pkt.op == 0x0502) && ((s.job? o.pkt.job).map (·.models)).any fun ms =>
    ms.any fun m => m.hostTier.any fun i => !(m.streamed.contains i) &&
      (let base := s.rd o.pkt.vi (m.wbase + 256 + 64 * i) 8
       let bytes := ((m.regions[i]?).map (·.bytes)).getD 0
       (tileIns w t false).any fun x => x.1 == o.pkt.vi && decide (x.2.1 < base + bytes ∧ base < x.2.1 + x.2.2))

/-- A tile waits for a host-tier region: FSH_STALL counts it once (R470). -/
def stallTile (t : Tile) (s : State) : State :=
  if t.stalled then s
  else
    { s with tiles := s.tiles.map fun x => if x = t then { x with stalled := true } else x
             ctr := { s.ctr with fshStall := satAdd s.ctr.fshStall 1 } }

/-- A tile is issued: TIL_TILES and TIL_SPLITS of its die (R269). -/
def countIssue (t : Tile) (s : State) : State :=
  s.updDie t.die fun x => { x with tilTiles := satAdd x.tilTiles 1, tilSplits := satAdd x.tilSplits (b2n (t.kind == 2)) }

/-- TILE_ISSUE (R257): the next tile of a core is staged and issued on its unit; a failed read ends its command (R82, R508,
R509). -/
def tileIssue (d c : Nat) (u : TileUnit) (s : State) : State :=
  if !(s.takesTiles d c) || (s.tileOn d c u).isSome then s
  else
    match s.nextTile d c with
    | none => s
    | some t =>
      if t.unit ≠ u ∨ ((s.tilesBefore t).any fun x => s.tileWaits t x) then s
      else
        match s.open? t.cmd with
        | none => s
        | some o =>
          let w := o.workOf t
          if s.accessWaits w t then s
          else if s.streamWaits o w t then stallTile t s
          else
            match stageTile w t s with
            | .error e => settleSlots (memFail o.pkt e (dropTiles t.cmd s))
            | .ok st =>
              let s1 := { s with tiles := s.tiles.map fun x => if x = t then { x with issued := true, staged := st } else x }
              markWork o.pkt (busyUnit t (usesTurn w t) (countIssue t s1))

/-! ## Phases of a tile in progress -/

/-- A tile's program has a first sweep to run (R205, R212). -/
def twoSweeps (w : Work) (t : Tile) : Bool :=
  (t.kind == 3 || t.kind == 4 || t.kind == 5) && t.passes != 2 && (progOf w.prog).sweeps == 2

/-- The halves of the turn buffer move on: one fills while the other is read (R184). -/
def turnNext (h0 h1 : BitVec 2) : BitVec 2 × BitVec 2 :=
  match h0.toNat, h1.toNat with
  | 1, 0 => (2, 0)
  | 2, 0 => (3, 1)
  | 3, 1 => (3, 2)
  | 3, 2 => (1, 3)
  | 1, 3 => (2, 3)
  | 2, 3 => (3, 1)
  | _, _ => (h0, h1)

/-- A unit with a tile in progress enters its next phase: PRIME, RUN, FLUSH; run, drain; SETUP, SWEEP1, SWEEP2, DRAIN. -/
def phaseNext (two : Bool) (u : TileUnit) (k : Core) : Core :=
  match u with
  | .arrays =>
    let next (a : Arr) : Arr := if a.state = 1 then { a with state := 2 } else if a.state = 2 then { a with state := 3 } else a
    let h := turnNext k.half0 k.half1
    { k with a := next k.a, b := next k.b, half0 := h.1, half1 := h.2 }
  | .mvp => { k with mvpState := 2 }
  | .braid =>
    if k.brdState = 1 then (if two then { k with brdState := 2, brdSweep := 1 } else { k with brdState := 3, brdSweep := 2 })
    else if k.brdState = 2 then { k with brdState := 3, brdSweep := 2 }
    else if k.brdState = 3 then { k with brdState := 4 }
    else k

/-- Time passes with no command: every tile in progress enters the next phase of its unit (notes/assumptions/108.md). -/
def tickUnits (s : State) : State :=
  (s.tiles.filter (·.issued)).foldl (fun s t =>
    let two := match s.open? t.cmd with | some o => twoSweeps (o.workOf t) t | none => false
    s.updCore t.die t.core (phaseNext two t.unit)) s

/-! ## Counters (R192, R236, R269) -/

/-- Add to a counter kept in units, with the rest below a unit. -/
def addUnits (unit : Nat) (cnt : Word) (rest n : Nat) : Word × Nat := (satAdd cnt ((rest + n) / unit), (rest + n) % unit)

/-- Passes and issue cycles of a tile's arrays (ARR_PASSES, ARR_ACTIVE). -/
def countPasses (passes cycles : Nat) (a : Arr) : Arr :=
  let u := addUnits 1024 a.active a.activeRest cycles
  { a with passes := a.passes + BitVec.ofNat 64 passes, active := u.1, activeRest := u.2 }

/-- Sum over a column's rows in row order, products exact (R140, R171). -/
def columnSum (xs : List FVal) (w : List FVal) : Word := sumPlain 0 (xs.zip w)

/-- A value that is an Inf or a NaN. -/
def notFinite (x : FVal) : Bool := match x with | .fin _ _ _ => false | _ => true

/-- Weight columns of a pass that array x holds, as values. -/
def passWeights (g : Seg) (x : Nat) : List (List FVal) :=
  let v (e : Elem) : FVal := if g.fw = 0x0B then .ofInt (intElem e) else elemVal g.fw e
  ((g.cols.drop (128 * x)).take 128).map fun c => c.map v

/-- The elements of a vector, as values. -/
def passVector (g : Seg) (r : List Elem) : List FVal := r.map fun e => if g.fx = 0x0B then .ofInt (intElem e) else elemVal g.fx e

/-- Check weights c1 and c2 (Table 5.8): formed exactly; rounded to FP32 but for INT8. -/
def checkWeights (g : Seg) (ws : List (List FVal)) : List FVal × List FVal :=
  let n := g.len
  let rnd (v : FVal) : FVal := if g.fx = 0x0B then v else rdF (toF v)
  ((List.range n).map fun i => rnd ((ws.map fun w => w.getD i .zero).foldl FVal.add .zero),
   (List.range n).map fun i => rnd (((ws.zip (List.range ws.length)).map fun w =>
      (w.1.getD i .zero).mul (.fin false (w.2 + 1) 0)).foldl FVal.add .zero))

/-- The sums of a vector in array x: the data columns, then those of c1 and c2 (R171). -/
def passSums (g : Seg) (x : Nat) (r : List Elem) : List FVal × FVal × FVal :=
  let ws := passWeights g x
  let c := checkWeights g ws
  let xs := passVector g r
  let exact (w : List FVal) : FVal := ((xs.zip w).map fun e => e.1.mul e.2).foldl FVal.add .zero
  let ys : List FVal := ((g.cols.drop (128 * x)).take 128).map fun w =>
    if g.fx = 0x0B then .ofInt (dotInt r w) else rdF (dotFp g.fx g.fw r w)
  let pad : List FVal :=
    if g.fx = 0x0B then [] else
    List.replicate (128 - ys.length) (rdF (columnSum xs (List.replicate g.len .zero)))
  (ys ++ pad, if g.fx = 0x0B then exact c.1 else rdF (columnSum xs c.1), if g.fx = 0x0B then exact c.2 else rdF (columnSum xs c.2))

/-- The check of a vector is skipped: some sum is an Inf or NaN (R174). -/
def sumsSkipped (mode : Nat) (y : List FVal × FVal × FVal) : Bool :=
  y.1.any notFinite || notFinite y.2.1 || (mode == 2 && notFinite y.2.2)

/-- Vectors of a pass whose check is skipped in array x. -/
def skippedIn (mode x : Nat) (g : Seg) : Nat :=
  if mode = 0 ∨ g.fx = 0x0B then 0 else (g.rows.filter fun r => sumsSkipped mode (passSums g x r.2)).length

/-- Passes that ran, with the issue cycles, on both arrays of a tile's core. -/
def countArrays (t : Tile) (l : List Seg) (passes cycles : Nat) (s : State) : State :=
  s.updCore t.die t.core fun k =>
    let up (a : Arr) (x : Nat) : Arr :=
      let b := countPasses passes cycles a
      { b with skipped := satAdd b.skipped (l.map (skippedIn a.chkMode.toNat x)).sum }
    { k with a := up k.a 0, b := up k.b 1 }

/-- Core cycles of a Braid tile: program tiles by R196, firmware's own by the bits that they read and write. -/
def braidCycles (w : Work) (t : Tile) : Nat :=
  let own (bits n : Nat) : Nat := 11 + cdiv (t.rows * (64 * cdiv n 64)) (max 1 (min 2048 (524288 / bits)))
  match t.kind with
  | 2 => own (1024 * t.kIdx + bits32 (w.word % 256)) t.cols
  | 3 | 4 | 5 =>
    let g := w.theProg
    let elems := if t.passes = 0 then max 1 t.rows * (64 * cdiv (if t.kind = 5 then 8 else g.rowLen) 64) else 64 * t.cols
    g.latency + (if t.passes = 0 then g.sweeps else 1) * cdiv elems w.rate
  | 7 | 8 => own 2048 w.n
  | 10 | 14 => own 2048 (max 1 t.kLen)
  | _ => own 2048 (max 1 w.attn.dim)

/-- What an ended tile leaves in the counters of its core. The cycles that the matrix-vector path waited for weights are time
that the model does not have: free. -/
def countTile (w : Work) (t : Tile) (ns : Nat) (s : State) : State :=
  let stall := s.freeVal.toNat % 2 ^ 32
  let s0 := if t.unit = .mvp then s.nextFree else s
  let s1 := s0.updDie t.die fun x => { x with tilLong := satMax x.tilLong ns }
  match t.unit with
  | .arrays =>
    let l := if t.kind = 6 then [] else s.tilePasses w t
    let s2 := countArrays t (l.map (·.1)) l.length (l.map passCycles).sum s1
    -- the set that the tile's last pass left in use (R155)
    let sel (a : Arr) : Arr := { a with sel := if l.isEmpty then a.sel else l.length % 2 == 0 }
    s2.updCore t.die t.core fun k => { k with a := sel k.a, b := sel k.b }
  | .mvp =>
    let bytes := ((s.tileSegs w t).map fun g => g.cols.length * g.len * elemBits g.fw / 8).sum
    s1.updCore t.die t.core fun k =>
      let u := addUnits 65536 k.mvpStream k.mvpRest bytes
      { k with mvpStream := u.1, mvpRest := u.2, mvpStall := satAdd k.mvpStall stall }
  | .braid =>
    s1.updCore t.die t.core fun k =>
      let u := addUnits 1024 k.brdActive k.brdRest (braidCycles w t)
      { k with brdActive := u.1, brdRest := u.2 }

/-! ## The weight sets (R155) -/

/-- The codes that the passes of a tile leave in the two weight sets of an array: of the last pass that used each. -/
def heldSets (l : List Seg) (x : Nat) : List (List Elem) × List (List Elem) :=
  let of_ (i : Nat) : List (List Elem) :=
    match ((l.zip (List.range l.length)).filter fun g => g.2 % 2 == i).getLast? with
    | some g => (g.1.cols.drop (128 * x)).take 128
    | none => []
  (of_ 0, of_ 1)

/-- The weight sets after the passes of a tile. A set that no pass used keeps its weights. -/
def loadSets (t : Tile) (l : List Seg) (s : State) : State :=
  s.updCore t.die t.core fun k =>
    let up (a : Arr) (x : Nat) : Arr :=
      let h := heldSets l x
      { a with set0 := if l.length = 0 then a.set0 else h.1, set1 := if l.length < 2 then a.set1 else h.2 }
    { k with a := up k.a 0, b := up k.b 1 }

/-! ## Output regions (R180, R216, R652) -/

/-- Ranges hold unpredictable values: free bytes. -/
def scramble (l : List (Nat × Nat × Nat)) (s : State) : State :=
  l.foldl (fun s x => vwrite x.1 x.2.1 (s.freeBytes x.2.2) s.nextFree) s

/-- The output region of a work. -/
def Work.region (w : Work) : List (Nat × Nat × Nat) :=
  let t (kind problem rows cols kIdx : Nat) : Tile := { tileOf { vi := 0, sq := 0, seq := 0 } 0 .braid kind (0, 0) problem 0 rows 0 cols 0 0 kIdx 0 with rows := rows }
  match w.kind with
  | .rows => w.outSpans (t 4 0 w.rows 0 0) true
  | .attn =>
    (List.range (w.attn.entries.length * w.attn.kvHeads)).flatMap fun p =>
      w.attn.outSpans (t 12 p ((w.attn.entryOf p).1.qLen * w.attn.group) 0 1)
  | .attnBwd =>
    ((List.range (w.attn.entries.length * w.attn.kvHeads)).filter fun p => (w.attn.entryOf p).1.qLen != 0).flatMap fun p =>
      w.attn.outSpans (t 16 p ((w.attn.entryOf p).1.qLen * w.attn.group) 0 0)
      ++ w.attn.outSpans (t 16 p (w.attn.entryOf p).1.kvLen 1 0)
  | .scalars | .route => []
  | _ => (List.range w.problems).flatMap fun b => w.outSpans (t (if w.epilogue then 3 else 2) b w.m w.n 0) true

/-- The output region of a command becomes unpredictable (R180, R216, R386, R416). -/
def scrambleOut (o : OpenCmd) (s : State) : State :=
  match o.prog with
  | .works ws _ _ _ _ => scramble (ws.flatMap Work.region) s
  | .passRun false _ _ _ _ _ _ spans => scramble (spans.map fun x => (o.pkt.vi, x.1, x.2)) s
  | .updateRun done _ _ => scrambleLayers o.pkt done s
  | _ => s

/-! ## Aborts that wait (R651, R653) -/

/-- An ABORT with no target left completes: PACKET with DONE, or DONE_BEFORE_ABORT when its target had ended; JOB with the
packets aborted. -/
def finishAbort (p : Packet) (count : Nat) (s : State) : State :=
  if bf p.p0 7 0 = 1 then
    if count = 0 then postFinal p 0x01 0 (bf p.p1 31 0) 0 s else postDone p 0 0 s
  else postDone p count 0 s

/-- ABORTs that wait for a target learn how it ended. -/
def noteAbort (target : Key) (aborted : Bool) (s : State) : State :=
  s.opens.foldl (fun s o =>
    match o.prog with
    | .abort targets count =>
      if targets.contains target then
        let left := targets.filter (· != target)
        let c := count + b2n aborted
        if left.isEmpty then finishAbort o.pkt c s else s.setProg o.pkt.key (.abort left c)
      else s
    | _ => s) s

/-- An ABORT is pending for a packet. -/
def State.abortOn (s : State) (k : Key) : Bool :=
  s.opens.any fun o => match o.prog with | .abort t _ => t.contains k | _ => false

/-- A tile of a command that an ABORT stops has ended or is discarded: with the last one in progress the command ends, and its
destination holds free bytes (R652). -/
def tileAborted (o : OpenCmd) (s : State) : State :=
  if s.tiles.any fun t => t.cmd == o.pkt.key then s
  else
    settleSlots (noteAbort o.pkt.key true (postFinal o.pkt 0x02 0x0000 0 0 (dropTiles o.pkt.key (scrambleOut o s))))

/-! ## End (R245, R264) -/

/-- The last tile of a work has ended: row results in MX or SV1, layer scalars, and copies. -/
def workEnd (k : Key) (wi : Nat) (w : Work) (s : State) : State × Option MemErr :=
  let a := flushOut k wi w s
  let b : State × Option MemErr := (endScalars k wi w a.1, a.2)
  w.copies.foldl (fun a c => andThen a fun s => vput c.2.1.vi c.2.1.base (s.peek c.1.vi c.1.base c.2.2) s) b

/-- The chain of an UPDATE whose last tile has ended is a layer completed (R413, R414). -/
def layerDone (o : OpenCmd) (done : List Nat) (start : Dword) (ws : List Work) (i : Nat) (s : State) : State :=
  let a := endLayer o.pkt i s
  match a.2 with
  | some e => settleSlots (memFail o.pkt e (dropTiles o.pkt.key a.1))
  | none =>
    let d := done ++ [i]
    if layerCount o.pkt ≤ d.length then settleSlots (doneUpdate o.pkt d.length start (dropTiles o.pkt.key a.1))
    else a.1.setProg o.pkt.key (.updateRun d start ws)

/-- A tile of a command has ended: the command goes on, or completes with its last tile (R245, R372, R414). -/
def tileDone (o : OpenCmd) (w : Work) (t : Tile) (s : State) : State :=
  let mine := s.tiles.filter fun u => u.cmd == t.cmd
  if mine.any fun u => u.work == t.work then s
  else
    let a := workEnd t.cmd t.work w s
    match a.2 with
    | some e => settleSlots (memFail o.pkt e (dropTiles t.cmd a.1))
    | none =>
      match o.prog with
      | .works _ r0 r1 _ _ => if mine.isEmpty then settleSlots (postDone o.pkt r0 r1 (dropTiles t.cmd a.1)) else a.1
      | .passRun _ since waited total _ block out _ =>
        if mine.isEmpty then settleSlots (endPassRun o.pkt since waited total block out a.1) else a.1
      | .updateRun done start ws =>
        if mine.any fun u => (o.workOf u).chain == w.chain then a.1 else layerDone o done start ws w.chain a.1
      | _ => a.1

/-- The tile's results, with what it leaves in the counters and weight sets of its core, `ns` after its issue. -/
def endEffect (w : Work) (t : Tile) (id ns : Nat) (s : State) : State × Option MemErr :=
  let l := if t.unit = .arrays ∧ t.kind ≠ 6 then (s.tilePasses w t).map (·.1) else []
  tileEffect w t id (loadSets t l (countTile w t ns s))

/-- TILE_END (R264): the tile in progress on a unit ends, `ns` after its issue. -/
def tileEnd (d c : Nat) (u : TileUnit) (ns : Nat) (s : State) : State :=
  match s.tileOn d c u with
  | none => s
  | some t =>
    let s0 := idleUnit d c u { s with tiles := s.tiles.filter (· != t) }
    match s.open? t.cmd with
    | none => s0
    | some o =>
      let w := o.workOf t
      let a := endEffect w t o.pkt.job ns (markWork o.pkt s0)
      match a.2 with
      | some e => settleSlots (memFail o.pkt e (dropTiles t.cmd a.1))
      | none => if a.1.abortOn t.cmd then tileAborted o a.1 else tileDone o w t a.1

/-! ## Halts and reruns (R178 to R181, R215, R216) -/

/-- Two lists of ranges meet. -/
def spansMeet (a b : List (Nat × Nat × Nat)) : Bool :=
  a.any fun x => b.any fun y => x.1 == y.1 && decide (x.2.1 < y.2.1 + y.2.2 ∧ y.2.1 < x.2.1 + x.2.2)

/-- The tile's Braid program writes over one of the tile's inputs (R179, R215). -/
def overwritesInputs (w : Work) (t : Tile) : Bool := !w.prog.isEmpty && spansMeet (tileOuts w t true) (tileIns w t true)

/-- The unit of a halted tile shows HALT until the core's next tile is issued or the command ends (Tables 5.7, 6.9). -/
def haltUnit (t : Tile) (s : State) : State :=
  (idleUnit t.die t.core t.unit s).updCore t.die t.core fun k =>
    match t.unit with
    | .arrays => { k with a := { k.a with state := 4 }, b := { k.b with state := 4 } }
    | .mvp => { k with mvpState := 3 }
    | .braid => { k with brdState := 5 }

/-- A halted tile runs again once, from its start, unless it has done so or may not (R179, R215); else its command ends and
its output region is unpredictable (R180, R216). `ns` is the time from its issue until it is discarded (R269). -/
def haltTile (o : OpenCmd) (w : Work) (t : Tile) (scrambles : Bool) (status : Byte) (reason : Half) (r0 r1 ns : Nat) (s : State) :
    State :=
  let s0 := s.updDie t.die fun x => { x with tilLong := satMax x.tilLong ns }
  if s.abortOn t.cmd then tileAborted o { haltUnit t s0 with tiles := s0.tiles.filter (· != t) }
  else if t.reruns % 2 = 0 && !(overwritesInputs w t) then
    let s1 := haltUnit t s0
    { s1 with tiles := s1.tiles.map fun x => if x = t then { x with issued := false, staged := [], reruns := x.reruns + 1 } else x }
  else
    let s1 := if scrambles then scrambleOut o s0 else s0
    settleSlots (postFinal o.pkt status reason r0 r1 (dropTiles t.cmd (idleUnit t.die t.core t.unit s1)))

/-- Vectors of a LAST pass that have drawn before the verdict of vector v (R178): those whose drawing cycle falls within three
cycles after v's. -/
def drawnBefore (cost rows v : Nat) : Nat :=
  ((List.range rows).filter fun w => decide (w * cost / 16 < v * cost / 16 + 3)).length

/-- `n` vectors of the halted LAST pass of a product tile have drawn: the bits stay drawn (R178). -/
def haltDraws (w : Work) (t : Tile) (id n : Nat) (s : State) : State :=
  if t.kind = 0 ∧ w.nK = 1 then s.putGens id (drawArrays s t (drainBits w.word (accFmt w.x.fmt)) n (s.gens id)).2 else s

/-- Location word (Table 5.9). -/
def locWord (col d c arr : Nat) : Nat := col * 2 ^ 24 + d * 2 ^ 16 + c * 2 ^ 8 + arr

/-- Change array x of a core. -/
def updArr (d c x : Nat) (f : Arr → Arr) (s : State) : State :=
  s.updCore d c fun k => if x = 0 then { k with a := f k.a } else { k with b := f k.b }

/-- What the arrays did until a tile halted: the passes before the failing one complete, its vectors checked up to the failing one,
and issue until the verdict, 263 cycles after it (R157, R158). -/
def haltPasses (w : Work) (t : Tile) (pass vector : Nat) (s : State) : State :=
  let l := s.tilePasses w t
  let before := (l.take pass).map passCycles |>.sum
  let at_ := match l[pass]? with | some g => vector * passCost g / 16 | none => 0
  let part := match l[pass]? with | some g => [{ g.1 with rows := g.1.rows.take vector }] | none => []
  countArrays t (((l.take pass).map (·.1)) ++ part) pass (min (l.map passCycles).sum (before + at_ + 263)) s

/-! ## The checksum (R171 to R176) -/

/-- A magnitude rounded up to FP32. -/
def roundUpF (v : FVal) : FVal :=
  let y := toF v
  if (rdF y).lt v then rdF (y + 1) else rdF y

/-- τ of a vector and a weight set (R172). -/
def checkTau (g : Seg) (x : Nat) (r : List Elem) : FVal :=
  if g.fx = 0x0B then .zero
  else
    let ws := passWeights g x
    let norm := ((passVector g r).map FVal.abs).foldl FVal.add .zero
    let rows := (List.range g.len).map fun i => (ws.map fun w => (w.getD i .zero).abs).foldl FVal.add .zero
    let wmax := rows.foldl (fun a b => if a.lt b then b else a) .zero
    ((norm.mul (roundUpF wmax)).scale (-12)).add (.fin false 1 (-126))

/-- The sums of a vector with those that the drain stage saw in their place: columns 0 to 127, c1 as column 128 in CHK_MODE 2 and
129 in CHK_MODE 1, c2 as column 129 (Table 5.8). -/
def seenSums (g : Seg) (mode x : Nat) (r : List Elem) (sums : List (Nat × Nat × Dword)) : List FVal × FVal × FVal :=
  let y := passSums g x r
  let v (d : Dword) : FVal := if g.fx = 0x0B then .ofInt d.toInt else rdF (BitVec.ofNat 32 (d.toNat % 2 ^ 32))
  let at_ (c : Nat) (old : FVal) : FVal := match sums.find? fun e => e.1 == x && e.2.1 == c with | some e => v e.2.2 | none => old
  ((List.range 128).map fun c => at_ c (y.1.getD c .zero), at_ (if mode = 2 then 128 else 129) y.2.1,
   if mode = 2 then at_ 129 y.2.2 else y.2.2)

/-- The verdict of a vector's check in an array (R171 to R175): none where it passes, else the column located, 0xFF for none. -/
def checkVerdict (g : Seg) (mode x : Nat) (r : List Elem) (sums : List (Nat × Nat × Dword)) : Option Nat :=
  let y := seenSums g mode x r sums
  if mode = 0 ∨ sumsSkipped mode y then none
  else
    let d1 := (y.1.foldl FVal.add .zero).add y.2.1.neg
    let d2 := (((y.1.zip (List.range 128)).map fun e => e.1.mul (.fin false (e.2 + 1) 0)).foldl FVal.add .zero).add y.2.2.neg
    let tau := checkTau g x r
    let past (d : FVal) (k : Int) : Bool := (tau.scale k).lt d.abs
    if !(past d1 0 || (mode == 2 && past d2 7)) then none
    else if mode == 2 && past d1 6 then
      some (((List.range 128).find? fun n =>
        !((d1.abs.scale (-2)).lt ((d2.add (d1.mul (.fin true (n + 1) 0))).abs))).getD 0xFF)
    else some 0xFF

/-- An array records a failed check and raises its fault source (R178). -/
def recordFail (d c vector : Nat) (f : Nat × Nat) (s : State) : State :=
  faultEvent1 (6 * coreIx d c) (locWord f.2 d c f.1) (updArr d c f.1 (fun a => { a with
    mismatch := satAdd a.mismatch 1, lastValid := true, lastLocated := f.2 != 0xFF, lastColumn := BitVec.ofNat 8 f.2
    lastVector := BitVec.ofNat 10 vector }) s)

/-- ARRAY_CHECK_FAIL (R171 to R180): in a vector of a pass the drain stages saw some sums in place of the right ones. The checks
of both arrays are formed; a sum within its thresholds changes nothing here. -/
def arrayCheckFail (d c pass vector : Nat) (sums : List (Nat × Nat × Dword)) (ns : Nat) (s : State) : State :=
  match s.tileOn d c .arrays with
  | none => s
  | some t =>
    match s.open? t.cmd with
    | none => s
    | some o =>
      let w := o.workOf t
      let l := if t.kind = 6 then [] else s.tilePasses w t
      match l[pass]? with
      | none => s
      | some g =>
        match g.1.rows[vector]? with
        | none => s
        | some r =>
          let k := s.core d c
          let fails := [(0, k.a.chkMode.toNat), (1, k.b.chkMode.toNat)].filterMap fun x =>
            (checkVerdict g.1 x.2 x.1 r.2 sums).map fun col => (x.1, col)
          match fails with
          | [] => s
          | f :: _ =>
            let drawn := if pass + 1 = l.length then drawnBefore (passCost g) g.1.rows.length vector else 0
            let s1 := haltPasses w t pass vector (haltDraws w t o.pkt.job drawn s)
            haltTile o w t true 0x32 0x0210 (locWord f.2 d c f.1) (pass * 65536 + vector) ns
              (fails.foldl (fun s f => recordFail d c vector f s) s1)

/-- A parity error in a tile of an UPDATE ends it without a rerun (R416). -/
def endUpdateParity (o : OpenCmd) (t : Tile) (done : List Nat) (s : State) : State :=
  let s1 := scrambleLayers o.pkt done s
  settleSlots (postFinal o.pkt 0x31 0x0509 done.length (lowestLeft o.pkt done)
    (dropTiles t.cmd (idleUnit t.die t.core t.unit s1)))

/-- A parity error halts a tile (R181, R215): a tile of an UPDATE ends it (R416). -/
def parityHalt (o : OpenCmd) (w : Work) (t : Tile) (reason : Half) (r0 r1 ns : Nat) (s : State) : State :=
  match o.prog with
  | .updateRun done _ _ => endUpdateParity o t done (s.updDie t.die fun x => { x with tilLong := satMax x.tilLong ns })
  | _ => haltTile o w t true 0x31 reason r0 r1 ns s

/-- ARRAY_PARITY_HALT (R181): array A, B or both found a parity error in a pass; `drawn` vectors of a LAST pass had drawn. -/
def arrayParityHalt (d c : Nat) (inA inB : Bool) (pass drawn ns : Nat) (s : State) : State :=
  match s.tileOn d c .arrays with
  | none => s
  | some t =>
    match s.open? t.cmd with
    | none => s
    | some o =>
      let w := o.workOf t
      let l := if t.kind = 6 then [] else s.tilePasses w t
      let arrs := (if inA then [0] else []) ++ if inB then [1] else []
      match l[pass]?, arrs with
      | some g, f :: _ =>
        let s1 := if pass + 1 = l.length then haltDraws w t o.pkt.job (min drawn g.1.rows.length) s else s
        let s2 := arrs.foldl (fun s x => faultEvent1 (6 * coreIx d c + 1) (locWord 0xFF d c x) s) (haltPasses w t pass 0 s1)
        parityHalt o w t 0x0211 (locWord 0xFF d c f) (pass * 65536 + 0xFFFF) ns s2
      | _, _ => s

/-- BRAID_PARITY_HALT of a tile (R215, R216, R416). -/
def braidParityHalt (d c cell row ns : Nat) (s : State) : State :=
  match s.tileOn d c .braid with
  | none => s
  | some t =>
    match s.open? t.cmd with
    | none => s
    | some o =>
      let s1 := s.updCore d c fun k => { k with brdParity := satAdd k.brdParity 1 }
      parityHalt o (o.workOf t) t 0x0220 (cell % 32 * 2 ^ 24 + d * 2 ^ 16 + c * 2 ^ 8) (row % 2 ^ 32) ns
        (faultEvent1 (6 * coreIx d c + 2) (cell % 32 * 2 ^ 24) s1)

/-! ## Capo points (R258, R259) -/

/-- A pre-emption of the job that holds the module is due, or its turn has ended. -/
def State.preemptDue (s : State) : Bool :=
  match s.sched.holder.bind s.job? with
  | some j => (j.preempt != 0 && j.state == 3) || s.sched.stepSwitch
  | none => false

/-- The core under test hands its work to the standby (R227, R265, Table 16.11). -/
def handOver (d c : Nat) (s : State) : State :=
  let b := (s.die d).standby
  let s1 := s.updDie d fun x => { x with standFor := BitVec.ofNat 5 c }
  { s1 with tiles := s1.tiles.map fun t => if t.die = d ∧ t.core = c then { t with core := b } else t }

/-- The core at its capo point is the target of a test slot and has not handed over. -/
def State.handsOver (s : State) (d c : Nat) : Bool :=
  let x := s.die d
  x.testing.toNat == c && x.standFor == 0x1F && c != x.standby

/-- The standby whose work returns at its capo point: the slot's test has ended (Table 16.11). -/
def State.givesBack (s : State) (d c : Nat) : Bool :=
  let x := s.die d
  c == x.standby && x.standFor != 0x1F && x.testing == 0x1F && !(s.standsForGood d)

/-- Every core that runs tiles is at a capo point. -/
def State.allAtCapo (s : State) : Bool := s.coreOrder.all fun x => (s.core x.1 x.2).atCapo

/-- A unit that a capo point finds halted is idle: its tile is issued again when the job resumes (R261, Tables 5.7, 5.12, 6.9). -/
def clearHalt (k : Core) : Core :=
  let arr (a : Arr) : Arr := if a.state = 4 then { a with state := 0 } else a
  { k with
    a := arr k.a, b := arr k.b
    mvpState := if k.mvpState = 3 then 0 else k.mvpState
    brdState := if k.brdState = 5 then 0 else k.brdState }

/-- Every core is at its capo point: the pre-emption takes place, or the turn passes. -/
def switchCapo (s : State) : State :=
  match s.sched.holder.bind s.job? with
  | some j => if j.preempt ≠ 0 ∧ j.state = 3 then jobCapo { s with sched := { s.sched with stepSwitch := false } } else turnCapo s
  | none => s

/-- CAPO_POINT_REACHED (R258 to R260): the tiles in progress have ended, `ns` after the request. What asked for the point
takes place; a core that only a seed load, a hand-over or a slice asked runs on. -/
def capoPoint (d c ns : Nat) (s : State) : State :=
  if !(s.core d c).capoReq || (s.core d c).atCapo || s.tiles.any (fun t => t.die == d && t.core == c && t.issued) then s
  else
    let s1 := s.updDie d fun x => { x with tilCapo := satMax x.tilCapo ns }
    let s2 := serveSeeds d c s1
    let hand := s2.handsOver d c
    let s3 := if hand then handOver d c s2 else s2
    let s4 := if (s3.core d c).sliceDue then s3.updCore d c fun k => { k with sliceDue := false, inSlice := true } else s3
    let back := s4.givesBack d c
    let e := if back then (s4.die d).standFor.toNat else if hand then (s4.die d).standby else c
    let s5 := if back then handBack d s4 else s4
    let due := s5.preemptDue
    let s6 := s5.updCore d c fun k => { clearHalt k with capoReq := false, atCapo := false }
    let s7 := s6.updCore d e fun k => { k with capoReq := due, atCapo := due }
    if due && s7.allAtCapo then switchCapo s7 else s7

/-! ## The commands -/

/-- MATMUL (R240). -/
def execMatmul (p : Packet) (s : State) : Out := submit effMatmul p s
/-- MATMUL_BATCHED (R251). -/
def execMatmulBatched (p : Packet) (s : State) : Out := submit effMatmul p s
/-- BRAID_RUN (R211). -/
def execBraidRun (p : Packet) (s : State) : Out := submit effBraidRun p s
/-- BRAID_LOAD_PROGRAM (R209). -/
def execBraidLoadProgram (p : Packet) (s : State) : Out := submit effSlotLoad p s
/-- BRAID_LOAD_SEED (R225). -/
def execBraidLoadSeed (p : Packet) (s : State) : Out := submit effSeedLoad p s
/-- TABLE_LOAD (R220). -/
def execTableLoad (p : Packet) (s : State) : Out := submit effSlotLoad p s

/-- A core of the module (Table 1.2). -/
def isCore (d c : Nat) : Bool := decide (d < 18 ∧ c < 17)

/-- TILE_ISSUE (R257). -/
def execTileIssue (die core : Nat) (u : TileUnit) (s : State) : Out := event (isCore die core) (tileIssue die core u s)
/-- TILE_END (R264). -/
def execTileEnd (die core : Nat) (u : TileUnit) (ns : Nat) (s : State) : Out := event (isCore die core) (tileEnd die core u ns s)
/-- The sums observed in both arrays, each with its array. -/
def sumsOf (sumsA sumsB : List (Nat × Dword)) : List (Nat × Nat × Dword) := sumsA.map (0, ·) ++ sumsB.map (1, ·)

/-- ARRAY_CHECK_FAIL (R178). -/
def execArrayCheckFail (die core pass vector : Nat) (sumsA sumsB : List (Nat × Dword)) (ns : Nat) (s : State) : Out :=
  event (isCore die core) (arrayCheckFail die core pass vector (sumsOf sumsA sumsB) ns s)
/-- ARRAY_PARITY_HALT (R181). -/
def execArrayParityHalt (die core : Nat) (found : Bool × Bool) (halt : HaltAt) (s : State) : Out :=
  event (isCore die core) (arrayParityHalt die core found.1 found.2 halt.pass halt.drawn halt.ns s)
/-- BRAID_PARITY_HALT (R215). -/
def execBraidParityHalt (die core : Nat) (spot : Nat × Nat) (ns : Nat) (s : State) : Out :=
  event (isCore die core) (braidParityHalt die core spot.1 spot.2 ns s)
/-- UPDATE_PROGRAM_LOAD (R398). -/
def execUpdateProgramLoad (p : Packet) (s : State) : Out := submit effSlotLoad p s
/-- CAPO_POINT_REACHED (R259). -/
def execCapoPointReached (die core ns : Nat) (s : State) : Out := event (isCore die core) (capoPoint die core ns s)

end Sys2Proof.Machine
end

