-- ==== Sys2Proof/Machine/Transport.lean ====
section
/-! DEFINITION. The transport (R527 to R535, R545 to R555 of spec/13_fabric_collectives.md): packets, chunks, routes, and
what a remote operation does at its destination. The spec gives no layout for the data of the packets that carry no
memory bytes; the model's is in notes/assumptions/14.md. -/

namespace Sys2Proof.Machine

open Sys2Proof

/-! ## Packets (R531, R532) -/

/-- The 32 bytes of a transport header (Table 13.6). -/
def headerBytes (p : FabPkt) : List Byte :=
  leBytes 2 p.dst.toNat ++ leBytes 2 p.src.toNat ++ leBytes 2 p.dstJob.toNat ++ [p.kind]
  ++ leBytes 1 (b2n p.first + 2 * b2n p.last + 4 * p.hops.toNat) ++ leBytes 4 p.domain.toNat ++ leBytes 4 p.chunkSeq.toNat
  ++ leBytes 2 p.data.length ++ [p.stream] ++ [0] ++ leBytes 4 p.crc.toNat ++ leBytes 8 p.addr.toNat

/-- A transport packet from its bytes; LENGTH data bytes follow the header. -/
def packetFrom (b : List Byte) : FabPkt :=
  { dst := BitVec.ofNat 16 (blk b 0 2), src := BitVec.ofNat 16 (blk b 2 2), dstJob := BitVec.ofNat 16 (blk b 4 2)
    kind := b.getD 6 0, first := (b.getD 7 0).getLsbD 0, last := (b.getD 7 0).getLsbD 1
    hops := BitVec.ofNat 4 (blk b 7 1 / 4), domain := BitVec.ofNat 32 (blk b 8 4)
    chunkSeq := BitVec.ofNat 32 (blk b 12 4), stream := b.getD 18 0, crc := BitVec.ofNat 32 (blk b 20 4)
    addr := BitVec.ofNat 64 (blk b 24 8), data := (b.drop 32).take (blk b 16 2) }

/-- The packets of a chunk: at most 4,096 data bytes each, the CRC-32C of the chunk with the last (R532). -/
def chunkPackets (h : FabPkt) (data : List Byte) : List FabPkt :=
  let ps := if data.isEmpty then [[]] else pieces 4096 data.length data
  (ps.zip (List.range ps.length)).map fun x =>
    let last := x.2 + 1 == ps.length
    { h with first := x.2 == 0, last := last, addr := h.addr + BitVec.ofNat 64 (4096 * x.2), data := x.1
             crc := if last then crc32c data else 0 }

/-! ## Routes (R552 to R555) -/

/-- A Weir half is withdrawn (Table 16.6). -/
def State.halfFenced (s : State) (h : Nat) : Bool := if h = 0 then s.fab.x0Fenced else s.fab.x1Fenced

/-- The port that carries a named port's traffic: itself while it is UP or STANDING_IN, else the spare that stands in for
it (R520, R553). -/
def State.carrier (s : State) (p : Nat) : Option Nat :=
  let t := s.port p
  if (t.state = 2 ∧ !t.spare) ∨ t.state = 4 then some p
  else (List.range 20).find? fun q => (s.port q).state == 4 && (s.port q).standsFor.toNat == p

/-- The ports over which packets for a module may leave: of its route entry, in the entry's mode, on a Weir half in
service (R553, R555, R674). -/
def State.routePorts (s : State) (dst : Nat) : List Nat :=
  let e := tget 0 s.fab.routes dst
  ((List.range 20).filter fun p => e.getLsbD p).filterMap fun p =>
    match s.carrier p with
    | some q =>
      if (s.port q).eth == e.getLsbD 31 && !s.halfFenced (q / 10) then some q else none
    | none => none

/-- The port of a packet, by the hash of R553. -/
def State.portFor (s : State) (p : FabPkt) : Option Nat :=
  let l := s.routePorts p.dst.toNat
  l[Config.pathHash p.src.toNat p.dst.toNat p.stream.toNat % l.length]?

/-- Count what a port sends (PORT_TX). -/
def countTx (q n : Nat) (s : State) : State :=
  s.updPort q fun t => { t with tx := satAdd t.tx ((t.txRest + n) / 2 ^ 20), txRest := (t.txRest + n) % 2 ^ 20 }

/-- Bytes [251:0] of a flit (Table 13.3). -/
def flitBytes (f : Flit) : List Byte :=
  [f.kind] ++ leBytes 1 (b2n f.sop + 2 * b2n f.eop) ++ leBytes 2 f.seq.toNat
  ++ leBytes 2 (f.ack.toNat + 2 ^ 12 * b2n f.ackValid + 2 ^ 13 * b2n f.nak) ++ leBytes 2 f.credit.toNat ++ leBytes 4 0
  ++ f.payload

/-- LCRC holds over a flit (R522). -/
def lcrcOk (f : Flit) : Bool := f.lcrc == crc32 (flitBytes f)

/-- Put a flit on the line of a port, under its LCRC. -/
def putLine (q : Nat) (f : Flit) (s : State) : State :=
  countTx q 1 { s with fab := { s.fab with line := s.fab.line ++ [(q, { f with lcrc := crc32 (flitBytes f) })] } }

/-- The flits of a packet: 240 bytes each, from SOP to EOP (R522, R531). SEQ is given when one is sent. -/
def flitsOf (p : FabPkt) : List Flit :=
  let b := headerBytes p ++ p.data
  let ps := pieces 240 b.length b
  ((List.range ps.length).zip ps).map fun e =>
    { kind := 1, sop := e.1 == 0, eop := e.1 + 1 == ps.length, seq := 0, ack := 0, ackValid := false, nak := false, credit := 0
      payload := e.2 ++ List.replicate (240 - e.2.length) 0, lcrc := 0 }

/-- Kinds that go ahead of the others (R576): ACK, NAK, GRANT. -/
def pktUrgent (p : FabPkt) : Bool := p.kind == 0x08 || p.kind == 0x09 || p.kind == 0x11

/-- Class of a packet on a link and its weight (R576): 0 remote operations, 1 transit, 2 and up the groups. -/
def State.linkClass (s : State) (p : FabPkt) : Nat × Nat :=
  if p.src.toNat ≠ s.moduleId then (1, 64)
  else if p.kind.toNat < 0x10 then (0, 16)
  else
    match s.fab.groups.find? fun g => g.num == p.stream.toNat && g.members.contains (p.dst, p.dstJob) with
    | some g => (2 + 64 * g.job + g.num, g.weight)
    | none => (0, 16)

/-- Bytes of a packet. -/
def pktSize (p : FabPkt) : Nat := 32 + p.data.length

/-- Deficit round robin (R576): the class in turn sends while its deficit covers its next packet, then the turn passes to
the next class, which gains its weight × 4,096. Answers the packet and the classes as they then stand. -/
def drrPick (cls : FabPkt → Nat × Nat) (queue : List FabPkt) : Nat → List (Nat × Nat) → Option (FabPkt × List (Nat × Nat))
  | 0, _ => none
  | _, [] => none
  | n + 1, (c, d) :: rest =>
    match queue.find? fun p => !(pktUrgent p) && (cls p).1 == c with
    | none => drrPick cls queue n (gain rest)
    | some p => if pktSize p ≤ d then some (p, (c, d - pktSize p) :: rest) else drrPick cls queue n (gain (rest ++ [(c, d)]))
where
  /-- The next class gains its round's bytes. -/
  gain : List (Nat × Nat) → List (Nat × Nat)
    | [] => []
    | (c, d) :: t =>
      (c, d + 4096 * ((queue.find? fun p => !(pktUrgent p) && (cls p).1 == c).map fun p => (cls p).2).getD 0) :: t

/-- The classes with packets queued: one whose queue has emptied loses its deficit, a new one joins at the end (R576). -/
def liveClasses (cls : FabPkt → Nat × Nat) (queue : List FabPkt) (l : List (Nat × Nat)) : List (Nat × Nat) :=
  let on := (queue.filter fun p => !(pktUrgent p)).map fun p => (cls p).1
  let kept := l.filter fun e => on.contains e.1
  on.foldl (fun a c => if a.any fun e => e.1 == c then a else a ++ [(c, 0)]) kept

/-- The next packet of a port's queue (R576). -/
def nextPacket (s : State) (t : Port) : Option (FabPkt × List (Nat × Nat)) :=
  match t.queue.find? pktUrgent with
  | some p => some (p, t.classes)
  | none =>
    let l := liveClasses s.linkClass t.queue t.classes
    drrPick s.linkClass t.queue (4 * l.length + 4) l

/-- Remove the first copy of a packet. -/
def dropFirst (p : FabPkt) : List FabPkt → List FabPkt
  | [] => []
  | q :: t => if q = p then t else q :: dropFirst p t

/-- A native port sends what it can: a DATA flit for each credit, with its SEQ, while the replay buffer has room (R523,
R524). -/
def drainPort (q : Nat) : Nat → State → State
  | 0, s => s
  | n + 1, s =>
    let t := s.port q
    match t.cur with
    | f :: rest =>
      if t.credits = 0 ∨ 2048 ≤ t.replay.length ∨ !(t.state == 2 || t.state == 4) then s
      else
        let g := { f with seq := t.txSeq }
        drainPort q n (putLine q g (s.updPort q fun t =>
          { t with cur := rest, credits := t.credits - 1, txSeq := t.txSeq + 1, replay := t.replay ++ [g] }))
    | [] =>
      match nextPacket s t with
      | none => s
      | some (p, cl) =>
        drainPort q n (s.updPort q fun t => { t with cur := flitsOf p, queue := dropFirst p t.queue, classes := cl })

/-- Steps that drain what a port holds. -/
def drainFuel (t : Port) : Nat := t.cur.length + (t.queue.map fun p => 2 + pktSize p / 240 + 1).sum + 1

/-- A native port sends what it can. -/
def drain (q : Nat) (s : State) : State := drainPort q (drainFuel (s.port q)) s

/-! ## Ethernet frames (R527 to R529) -/

/-- Bytes of a number, highest first. -/
def beBytes (n x : Nat) : List Byte := (leBytes n x).reverse

/-- IPv6 address of a module (R529). -/
def State.ipv6 (s : State) (m : Nat) : List Byte :=
  beBytes 8 (tget 0 s.fab.prefixes (m / 1024)).toNat ++ List.replicate 6 0 ++ beBytes 2 m

/-- One's complement sum of 16-bit words, for the UDP checksum. -/
def onesSum : List Byte → Nat
  | a :: b :: t => a.toNat * 256 + b.toNat + onesSum t
  | [a] => a.toNat * 256
  | [] => 0

/-- UDP checksum of a pseudo-header and datagram; 0 is sent as 0xFFFF. -/
def udpSum (b : List Byte) : Nat :=
  let fold (x : Nat) : Nat := x / 65536 + x % 65536
  let c := 65535 - fold (fold (onesSum b))
  if c = 0 then 65535 else c

/-- Setting i of a port (configuration group 5): mode, role, VLAN tag (2 bytes; 0 none), traffic class, PFC priority. -/
def State.portSetting (s : State) (q i n : Nat) : Nat := ((s.setting 5 q).map fun b => blk b i n).getD 0

/-- The Ethernet frame of a packet, from the VLAN tag or EtherType on (R527, R528). -/
def ethFrame (q : Nat) (p : FabPkt) (s : State) : List Byte :=
  let body := headerBytes p ++ p.data
  let h := Config.pathHash p.src.toNat p.dst.toNat p.stream.toNat
  let len := 8 + body.length
  let src := s.ipv6 p.src.toNat
  let dst := s.ipv6 p.dst.toNat
  let udp (sum : Nat) : List Byte := beBytes 2 (h % 65536) ++ beBytes 2 47621 ++ beBytes 2 len ++ beBytes 2 sum ++ body
  let sum := udpSum (src ++ dst ++ beBytes 4 len ++ [0, 0, 0, 17] ++ udp 0)
  let vlan := s.portSetting q 2 2
  (if vlan = 0 then [] else [0x81, 0x00] ++ beBytes 2 vlan) ++ [0x86, 0xDD]
    ++ beBytes 4 (6 * 2 ^ 28 + s.portSetting q 4 1 * 2 ^ 20 + h % 2 ^ 20) ++ beBytes 2 len ++ [17, 64] ++ src ++ dst ++ udp sum

/-- A packet goes to a port: queued and sent by credit in native mode, one frame in Ethernet mode (R531). -/
def putPort (q : Nat) (p : FabPkt) (s : State) : State :=
  if (s.port q).eth then countTx q 1 { s with fab := { s.fab with frames := s.fab.frames ++ [(q, ethFrame q p s)] } }
  else drain q (s.updPort q fun t => { t with queue := t.queue ++ [p] })

/-- A packet leaves by a port of its route; without one it reaches nothing (R521, R552). A packet for this module itself
needs no port (R545). -/
def sendPkt (p : FabPkt) (s : State) : State :=
  let kept : State := { s with fab := { s.fab with sent := s.fab.sent ++ [p] } }
  if p.dst.toNat = s.moduleId then kept
  else
    match s.portFor p with
    | none => s
    | some q => putPort q p kept

/-- The packets of a chunk leave in order. -/
def sendPkts (ps : List FabPkt) (s : State) : State := ps.foldl (fun s p => sendPkt p s) s

/-! ## Channels (R534, R535) -/

/-- Number of a channel toward a job. -/
def chanCode (job chan : Nat) : Nat := 64 * job + chan

/-- Number of the stream of a group operation toward a job. -/
def groupCode (job group : Nat) : Nat := 2 ^ 22 + 64 * job + group

/-- Next CHUNK_SEQ of a stream toward a module. -/
def State.nextSeq (s : State) (dst : Half) (code : Nat) : Word :=
  ((s.fab.txNext.find? fun e => e.1 == dst && e.2.2.1 == code).map fun e => e.2.2.2).getD 0

/-- Set the next CHUNK_SEQ of a stream. -/
def setSeq (dst : Half) (code : Nat) (n : Word) (s : State) : State :=
  { s with fab := { s.fab with
      txNext := (s.fab.txNext.filter fun e => !(e.1 == dst && e.2.2.1 == code)) ++ [(dst, 0, code, n)] } }

/-- Kind of a chunk. -/
def TxChunk.kind (c : TxChunk) : Nat := ((c.pkts.head?).map fun p => p.kind.toNat).getD 0

/-- A chunk that answers a request (GET_DATA, ATOMIC_RESP). -/
def TxChunk.answers (c : TxChunk) : Bool := c.kind == 3 || c.kind == 5

/-- A chunk is sent and kept until it is acknowledged (R534). -/
def sendChunk (cmd : Option Key) (code : Nat) (h : FabPkt) (data : List Byte) (s : State) : State :=
  let ps := chunkPackets h data
  sendPkts ps { s with fab := { s.fab with unacked := s.fab.unacked ++
    [{ dst := h.dst, stream := code, chunk := h.chunkSeq, cmd := cmd, pkts := ps, crcFails := 0 }] } }

/-- A request chunk of the stream is not yet acknowledged: the model sends the next one after it
(notes/assumptions/15.md). -/
def State.streamBusy (s : State) (dst : Half) (code : Nat) : Bool :=
  s.fab.unacked.any fun c => c.dst == dst && c.stream == code && !c.answers

/-- The unacknowledged chunk that an answer or acknowledgement names. -/
def State.unacked? (s : State) (dst : Half) (code : Nat) (chunk : Word) (answers : Bool) : Option TxChunk :=
  s.fab.unacked.find? fun c => c.dst == dst && c.stream == code && c.chunk == chunk && c.answers == answers

/-- Take a chunk out of those kept. -/
def dropChunk (c : TxChunk) (s : State) : State :=
  { s with fab := { s.fab with unacked := s.fab.unacked.filter (· != c) } }

/-- Send a kept chunk again (R534). -/
def resend (c : TxChunk) (s : State) : State :=
  sendPkts c.pkts { s with fab := { s.fab with retx := satAdd s.fab.retx 1 } }

/-- The channel in reception from a module. -/
def State.rxOf (s : State) (src : Half) (code : Nat) : RxChannel :=
  (s.fab.rx.find? fun c => c.src == src && c.stream == code).getD { src := src, stream := code, next := 0, data := [], fails := 0 }

/-- Replace a channel in reception. -/
def setRx (c : RxChannel) (s : State) : State :=
  { s with fab := { s.fab with rx := (s.fab.rx.filter fun x => !(x.src == c.src && x.stream == c.stream)) ++ [c] } }

/-- What the arrival of a packet means for its chunk (R533 to R535). -/
inductive Arrival where
  /-- The chunk is not complete, or a copy of it is passed over. -/
  | more
  /-- The chunk is complete, in sequence, and its CRC matches: its data. -/
  | whole (data : List Byte)
  /-- Its CRC fails: the data as received. -/
  | bad (data : List Byte)
  /-- A copy of a chunk already applied has arrived. -/
  | again
  /-- The chunk is ahead of its sequence. -/
  | ahead
  deriving DecidableEq, Repr

/-- Take a packet of a stream. -/
def takeChunk (p : FabPkt) (code : Nat) (s : State) : State × Arrival :=
  let c := s.rxOf p.src code
  if p.chunkSeq = c.next then
    let d := (if p.first then [] else c.data) ++ p.data
    if !p.last then (setRx { c with data := d } s, .more)
    else if p.crc = crc32c d then (setRx { c with data := [], next := c.next + 1, fails := 0 } s, .whole d)
    else (setRx { c with data := [], fails := c.fails + 1 } s, .bad d)
  else if !p.last then (s, .more)
  else if (p.chunkSeq - c.next).getLsbD 31 then (s, .again)
  else (s, .ahead)

/-- A packet that goes back to the sender of another. -/
def replyPkt (p : FabPkt) (kind : Byte) (data : List Byte) : FabPkt :=
  { p with dst := p.src, src := p.dst, kind := kind, first := true, last := true, hops := 0, data := data
           crc := crc32c data, addr := 0 }

/-- ACK of a chunk (R533). -/
def sendAck (p : FabPkt) (s : State) : State := sendPkt (replyPkt p 0x08 [p.kind]) s

/-- NAK of a chunk, for its CRC (1) or its place in the sequence (2) (R534). -/
def sendNak (p : FabPkt) (cause : Nat) (s : State) : State :=
  let s1 := if cause = 1 then { s with fab := { s.fab with crcFails := satAdd s.fab.crcFails 1 } } else s
  sendPkt (replyPkt p 0x09 [p.kind, BitVec.ofNat 8 cause]) s1

/-- A DENY of a chunk. -/
def denyPkt (p : FabPkt) (status : Byte) (reason : Half) (r0 : Nat) : FabPkt :=
  replyPkt p 0x0A ([p.kind, status] ++ leBytes 2 reason.toNat ++ leBytes 8 r0)

/-- DENY of a chunk that fails a check of Table 13.8, counted in WEIR_DENY (R547). -/
def sendDeny (p : FabPkt) (status : Byte) (reason : Half) (r0 : Nat) (s : State) : State :=
  sendPkt (denyPkt p status reason r0) { s with fab := { s.fab with denied := satAdd s.fab.denied 1 } }

/-! ## Remote operations at their destination (R538 to R547) -/

/-- One remote operation of at most a chunk; `dest` is where its answer goes at the source (ADDR of GET_DATA and
ATOMIC_RESP, Table 13.6). -/
inductive Req where
  | put (addr : Nat) (data : List Byte)
  | get (addr n dest : Nat)
  | atomic (op addr a b dest : Nat)
  | signal (addr v : Nat)
  deriving DecidableEq, Repr

/-- What comes back from it. -/
inductive Resp where
  | ok (data : List Byte)
  | deny (status : Byte) (reason : Half) (r0 : Nat)
  deriving DecidableEq, Repr

/-- First byte and length of the access. -/
def Req.span : Req → Nat × Nat
  | .put a d => (a, d.length)
  | .get a n _ => (a, n)
  | .atomic _ a _ _ _ => (a, 8)
  | .signal a _ => (a, 8)

/-- The first check of Table 13.8 that fails. -/
def reqRefusal (job : Nat) (domain : Word) (r : Req) (s : State) : Option (Byte × Half × Nat) :=
  match s.job? job with
  | none => some (0x12, 0x0701, s.moduleId * 2 ^ 16 + job)
  | some j =>
    if domain = 0 ∨ domain ≠ j.domain then some (0x12, 0x0702, s.moduleId * 2 ^ 16 + job)
    else
      match s.firstUnmapped j.vi r.span.1 r.span.2 with
      | some a => some (0x12, 0x0703, a)
      | none =>
        match r with
        | .atomic _ a _ _ _ | .signal a _ => if a % 8 ≠ 0 then some (0xFF, 0x0704, a) else none
        | _ => none

/-- A failed read at the destination, as the command sees it. -/
def memDeny (e : MemErr) : Resp :=
  match e with
  | .notMapped va => .deny 0x12 0x0703 va
  | .parity va => .deny 0x31 0x0110 va
  | .ue va => .deny 0x31 0x0111 va

/-- New value of a word under an ATOMIC (R540). -/
def atomicNew (op old a b : Nat) : Nat := if op = 1 then (old + a) % 2 ^ 64 else if old = a then b else old

/-- A remote operation takes effect (R538 to R541, R547). -/
def doReq (job : Nat) (domain : Word) (r : Req) (s : State) : State × Resp :=
  match reqRefusal job domain r s with
  | some e => (s, .deny e.1 e.2.1 e.2.2)
  | none =>
    let n := ((s.job? job).map (·.vi)).getD 0
    match r with
    | .put a d => (vwrite n a d s, .ok [])
    | .get a k _ =>
      match vread n s a k with
      | .ok d => (s, .ok d)
      | .error e => (s, memDeny e)
    | .atomic op a x y _ =>
      match vread n s a 8 with
      | .ok d => (vwrite n a (leBytes 8 (atomicNew op (leNat d) x y)) s, .ok d)
      | .error e => (s, memDeny e)
    | .signal a v =>
      match vread n s a 8 with
      | .ok d => (vwrite n a (leBytes 8 (leNat d + v)) s, .ok d)
      | .error e => (s, memDeny e)

/-- KIND of a request. -/
def Req.kind : Req → Byte
  | .put _ _ => 0x01
  | .get _ _ _ => 0x02
  | .atomic _ _ _ _ _ => 0x04
  | .signal _ _ => 0x06

/-- Data bytes of a request's packets: of a GET, the bytes asked for, the asking job and the answer's address; of an ATOMIC,
OP, A, B and the same; of a SIGNAL, VALUE and the asking job (notes/assumptions/14.md). -/
def Req.data (from_ : Nat) : Req → List Byte
  | .put _ d => d
  | .get _ n dest => leBytes 8 n ++ leBytes 2 from_ ++ leBytes 8 dest
  | .atomic op _ a b dest => leBytes 1 op ++ leBytes 8 a ++ leBytes 8 b ++ leBytes 2 from_ ++ leBytes 8 dest
  | .signal _ v => leBytes 8 v ++ leBytes 2 from_

/-- The request that a chunk's data spell; `a` is its address. -/
def reqOf (kind : Byte) (a : Nat) (d : List Byte) : Req :=
  match kind.toNat with
  | 0x02 => .get a (blk d 0 8) (blk d 10 8)
  | 0x04 => .atomic (blk d 0 1) a (blk d 1 8) (blk d 9 8) (blk d 19 8)
  | 0x06 => .signal a (blk d 0 8)
  | _ => .put a d

/-- Asking job and answer's address in a request's data. -/
def askerOf (kind : Byte) (d : List Byte) : Nat × Nat :=
  match kind.toNat with
  | 0x02 => (blk d 8 2, blk d 10 8)
  | 0x04 => (blk d 17 2, blk d 19 8)
  | _ => (blk d 8 2, 0)

/-- Answer's address of a request. -/
def Req.dest : Req → Nat
  | .get _ _ x => x
  | .atomic _ _ _ _ x => x
  | _ => 0

/-- Fabric domain of a job; 0 without one (R546). -/
def State.domainOf (s : State) (id : Nat) : Word := ((s.job? id).map (·.domain)).getD 0

/-- A command sends a request on a channel. -/
def sendReq (cmd : Key) (dst : Half) (dstJob chan from_ : Nat) (r : Req) (s : State) : State :=
  let code := chanCode dstJob chan
  let n := s.nextSeq dst code
  let h : FabPkt :=
    { dst := dst, src := BitVec.ofNat 16 s.moduleId, dstJob := BitVec.ofNat 16 dstJob, kind := r.kind, first := true
      last := true, hops := 0, domain := s.domainOf from_, chunkSeq := n, stream := BitVec.ofNat 8 chan, crc := 0
      addr := BitVec.ofNat 64 r.span.1, data := [] }
  sendChunk (some cmd) code h (r.data from_) (setSeq dst code (n + 1) s)

end Sys2Proof.Machine
end

