-- ==== Sys2Proof/Machine/Models.lean ====
section
/-! DEFINITION. Models (spec/11_weights_and_freshet.md): stow images, the freshet table, STOW_LOAD, ADAPTER_LOAD and UNLOAD,
the flip and its decision, and the checks of a push at its destination. -/

namespace Sys2Proof.Machine

open Sys2Proof

/-! ## Stow images (R429) -/

/-- Where a part of an image lies within it. -/
def partOk (len off size : Nat) : Bool := decide (128 ≤ off ∧ off + size ≤ len)

/-- Offsets of piece entries' fields that are invalid: a reserved KIND, or a count out of its range (Table 11.3). -/
def pieceBad (b : List Byte) : List Nat :=
  (List.range (blk b 22 2)).flatMap fun i =>
    let e := blk b 48 8 + 32 * i
    let kind := blk b e 1
    (if 1 ≤ kind ∧ kind ≤ 4 then [] else [e])
    ++ (if kind = 3 ∧ (blk b (e + 1) 1 = 0 ∨ 8 < blk b (e + 1) 1) then [e + 1] else [])
    ++ (if kind = 4 ∧ (blk b (e + 24) 2 = 0 ∨ 4096 < blk b (e + 24) 2) then [e + 24] else [])

/-- The least of some offsets. -/
def firstOff : List Nat → Option Nat
  | [] => none
  | a :: l => some (l.foldl min a)

/-- Byte offset of the first bad field of an image (Table 11.5), for KIND `kind`. -/
def imageBad (b : List Byte) (len kind : Nat) : Option Nat :=
  let h (i k : Nat) : Nat := blk b i k
  let r := h 20 2
  let checks : List (Nat × Bool) :=
    [(0, h 0 4 == 0x54535642), (4, h 4 1 == 1), (5, h 5 1 == kind), (20, r != 0),
     (22, if kind = 1 then h 22 2 != 0 else h 22 2 == 0), (24, decide (h 24 2 ≤ 4096)),
     (36, kind != 1 || decide (1 ≤ h 36 4 ∧ h 36 4 ≤ 1048576)),
     (40, partOk len (h 40 8) (64 * r)),
     (48, if kind = 1 then partOk len (h 48 8) (32 * h 22 2) else h 48 8 == 0),
     (56, if h 24 2 = 0 then h 56 8 == 0 else partOk len (h 56 8) 64 && h 56 8 % 64 == 0),
     (64, h 64 8 == 0 || partOk len (h 64 8) 2), (72, h 72 8 == len)]
  match checks.find? fun c => !c.2 with
  | some c => some c.1
  | none =>
    firstOff (((List.range r).map fun i => h 40 8 + 64 * i).filter (fun e => decide (len < h e 8 + h (e + 8) 8))
      ++ (if kind = 1 then pieceBad b else []))

/-- Region entry i of an image (Table 11.2). -/
def regionOf (b : List Byte) (variant i : Nat) : Region :=
  let e := blk b 40 8 + 64 * i
  { bytes := blk b (e + 8) 8, rows := blk b (e + 16) 4, cols := blk b (e + 20) 4, fmt := blk b (e + 24) 1
    order := blk b (e + 25) 1, home := blk b (e + 26) 1, flags := b.getD (e + 27) 0, twin := blk b (e + 28) 2
    piece := blk b (e + 30) 2, alpha := BitVec.ofNat 32 (blk b (e + 36) 4), variant := variant, checked := 0 }

/-- Data of region i of an image. -/
def regionData (b : List Byte) (i : Nat) : List Byte :=
  let e := blk b 40 8 + 64 * i
  (b.drop (blk b e 8)).take (blk b (e + 8) 8)

/-- Piece entry i of an image (Table 11.3). -/
def pieceOf (b : List Byte) (i : Nat) : Piece :=
  let e := blk b 48 8 + 32 * i
  { kind := blk b e 1, topK := blk b (e + 1) 1, w := blk b (e + 2) 2, wt := blk b (e + 4) 2, bias := blk b (e + 6) 2
    fwd := blk b (e + 8) 2, bwd := blk b (e + 10) 2, save := b.getD (e + 12) 0, flags := b.getD (e + 13) 0
    layer := blk b (e + 14) 2, scale := BitVec.ofNat 32 (blk b (e + 16) 4), window := blk b (e + 20) 4
    experts := blk b (e + 24) 2 }

/-- Program images of a stow image, one after another on 64-byte boundaries (R429, R198). -/
def programsOf (b : List Byte) : Nat → Nat → List (List Byte)
  | 0, _ => []
  | n + 1, off =>
    let len := 64 + 8 * blk b (off + 1) 1 + 4 * blk b (off + 4) 1
    (b.drop off).take len :: programsOf b n (off + cdiv len 64 * 64)

/-- The routing table of an image (R463): as many 16-bit entries as the EXPERTS piece has experts. -/
def routeOf (b : List Byte) (experts : Nat) : List Half :=
  if blk b 64 8 = 0 then [] else (List.range experts).map fun i => BitVec.ofNat 16 (blk b (blk b 64 8 + 2 * i) 2)

/-- Experts of a model's EXPERTS piece. -/
def expertsOf (ps : List Piece) : Nat := ((ps.find? fun p => p.kind == 4).map (·.experts)).getD 0

/-- The image passes its CRCs; else the region index (Table 11.5). -/
def imageCrc (b : List Byte) : Option Nat :=
  if (crc32c (b.take 124)).toNat ≠ blk b 124 4 then some 0xFFFFFFFF
  else (List.range (blk b 20 2)).find? fun i =>
    (crc32c (regionData b i)).toNat != blk b (blk b 40 8 + 64 * i + 32) 4

/-! ## The freshet table (Tables 11.6 to 11.9) -/

/-- FIXED: by its flag, or by its order (R432). -/
def Region.fixed (r : Region) : Bool := r.flags.getLsbD 0 || r.order == 1

/-- The region's entry is not in use. -/
def Region.free (r : Region) : Bool := r.variant == 0xFFFF

/-- Entry of region i. -/
def Model.entry (m : Model) (i : Nat) : Nat := m.wbase + 256 + 64 * i

/-- A field of a region's entry. -/
def State.ent (s : State) (n : Nat) (m : Model) (i off k : Nat) : Nat := s.rd n (m.entry i + off) k

/-- SSTATE of a state word. -/
def ssOf (w : Nat) : Nat := bn w 2 0

/-- State word of region i. -/
def State.stw (s : State) (n : Nat) (m : Model) (i : Nat) : Nat := s.ent n m i 16 8

/-- Change SSTATE of region i. -/
def setSs (n : Nat) (m : Model) (i st : Nat) (s : State) : State :=
  wr n (m.entry i + 16) 8 (s.stw n m i / 8 * 8 + st) s

/-- Indices of the regions in use. -/
def Model.indices (m : Model) : List Nat :=
  (List.range m.regions.length).filter fun i => match m.regions[i]? with | some r => !r.free | none => false

/-- Indices of the regions that are not FIXED. -/
def Model.live (m : Model) : List Nat :=
  m.indices.filter fun i => match m.regions[i]? with | some r => !r.fixed | none => false

/-- The model of a job with a handle. -/
def State.model? (s : State) (id h : Nat) : Option Model :=
  (s.job? id).bind fun j => j.models.find? fun m => m.handle == h

/-- Change a model. -/
def State.updModel (s : State) (id h : Nat) (f : Model → Model) : State :=
  s.updJob id fun j => { j with models := j.models.map fun m => if m.handle = h then f m else m }

/-- STATE of the header: 0 OPEN, 1 DRAINING, 2 CLOSED. -/
def State.modelState (s : State) (n : Nat) (m : Model) : Nat := s.rd n (m.wbase + 4) 1

/-- Version of the last load or flip. -/
def State.modelVersion (s : State) (n : Nat) (m : Model) : Nat := s.rd n (m.wbase + 16) 4

/-- A region whose tag is not the version (R433, R371): the first one of a list. -/
def State.wrongTag (s : State) (n : Nat) (m : Model) (version : Nat) (l : List Nat) : Option Nat :=
  l.find? fun i => m.live.contains i && s.ent n m i 48 4 != version

/-- MODEL_UNKNOWN and MODEL_DRAINING of a command that names a model (R469, R467), else the model. -/
def State.nameModel (s : State) (p : Packet) (h : Nat) : Except (Byte × Half × Nat) Model :=
  match s.model? p.job h with
  | none => .error (0xFF, 0x0608, h)
  | some m => if s.modelState p.vi m ≠ 0 then .error (0xFF, 0x0609, h) else .ok m

/-! ## Areas (R436, R437) -/

/-- Chunks of 256 KiB. -/
def chunks (n : Nat) : Nat := cdiv n 262144

/-- Buffers of a region. -/
def buffers (shadow : Bool) (r : Region) : Nat := if shadow && !r.fixed then 2 else 1

/-- Host-tier regions: HOME 2, FIXED, at most 512 MiB, from the highest index down until the device size is within the
limit (R437). -/
def tierRegions (shadow : Bool) (limitMib : Nat) (rs : List Region) : List Nat :=
  let pagesOf (r : Region) : Nat := buffers shadow r * cdiv r.bytes pageSize
  let total := (rs.map pagesOf).sum
  let ix := (List.range rs.length).reverse
  if limitMib = 0 then []
  else
    (ix.foldl (fun (acc : List Nat × Nat) i =>
      match rs[i]? with
      | some r =>
        if limitMib < 2 * acc.2 ∧ r.home = 2 ∧ r.fixed ∧ r.bytes ≤ 2 ^ 29 then (i :: acc.1, acc.2 - pagesOf r) else acc
      | none => acc) ([], total)).1

/-- Home kind of each page of an area: `head` pages in HBM, then the buffers of each region. -/
def areaKinds (shadow : Bool) (tier : List Nat) (head : Nat) (rs : List Region) : List Nat :=
  List.replicate head 2
  ++ ((rs.zip (List.range rs.length)).flatMap fun x =>
      let kind := if tier.contains x.2 then 3 else if x.1.home = 1 then 0 else 2
      List.replicate (buffers shadow x.1 * cdiv x.1.bytes pageSize) kind)

/-- Free SRAM frames of the active cores, at most `need`, in core order. -/
def State.pickSram (s : State) (owner need : Nat) : List Home :=
  ((s.coreOrder.flatMap fun x => (List.range 4).map fun i => Home.sram x.1 x.2 i).filter (s.frameFree owner)).take need

/-- Homes for the pages of an area: SRAM pages while frames last, HBM pages dealt over the home stacks (R437, R480),
host-tier pages at an address that the spec does not give (notes/assumptions/16.md). None, with the frames lacking, when
HBM has too few. -/
def State.areaHomes (s : State) (owner first : Nat) (kinds : List Nat) : Except Nat (List (Nat × Home)) :=
  let pages := (kinds.zip (List.range kinds.length)).map fun x => (first + x.2, x.1)
  let sram := s.pickSram owner (pages.filter fun x => x.2 == 0).length
  let inSram := ((pages.filter fun x => x.2 == 0).zip sram).map fun x => (x.1.1, x.2)
  let inHost := (pages.filter fun x => x.2 == 3).map fun x =>
    (x.1, Home.host ((s.freeVal.toNat % 2 ^ 52 / pageSize + (x.1 - first)) * pageSize))
  let rest := (pages.filter fun x => x.2 == 2 || (x.2 == 0 && !(inSram.any fun y => y.1 == x.1))).map (·.1)
  let rot := s.defaultMask
  let r := dealHomes s owner 2 0 first 0 (fun _ => none) (rest.length + rot.length) rot rest []
  if r.2 ≠ 0 then .error r.2
  else .ok (inSram ++ inHost ++ r.1.filterMap fun x => x.2.map fun h => (x.1, h))

/-- MiB lacking for an area (MODEL_SPACE): by quota, module limit or frames. -/
def State.areaShort (s : State) (n pages frames : Nat) : Nat :=
  2 * max (max (s.quotaUse n + pages - (s.quota n).pages) (s.mapped + pages - 8388608)) frames

/-- Map an area, its device pages reading as zero. -/
def mapArea (n job : Nat) (l : List (Nat × Home)) (s : State) : State :=
  l.foldl (fun s x => mapPage n job x.1 x.2 s) s.nextFree

/-- Unmap an area of 2 MiB units. -/
def unmapArea (n base units : Nat) (s : State) : State :=
  (List.range units).foldl (fun s i => unmapPage n (base / pageSize + i) s) s

/-- The area lies in unmapped pages of the range. -/
def State.areaFree (s : State) (n base units : Nat) : Bool :=
  base % pageSize == 0 && base != 0 && decide (base + units * pageSize ≤ 2 ^ 52)
  && (pageRange base units).all fun g => (tfind (s.vi n).pages g).isNone

/-- Enter one region in the freshet table and copy its data into buffer 0 (R438, R441). -/
def putRegion (n wbase i : Nat) (shadow : Bool) (buf checks version : Nat) (r : Region) (data : List Byte) (s : State) :
    State :=
  let two := buffers shadow r == 2
  let b1 := if two then buf + cdiv r.bytes pageSize * pageSize else 0
  let e := leBytes 8 buf ++ leBytes 8 b1 ++ leBytes 8 (0xFFFFFFFFFFFF0000 + b2n two) ++ leBytes 8 0 ++ leBytes 8 r.bytes
    ++ leBytes 8 (if two then checks else 0) ++ leBytes 4 version ++ leBytes 4 (chunks r.bytes) ++ [r.flags]
    ++ leBytes 7 0
  vwrite n buf data (vwrite n (wbase + 256 + 64 * i) e s)

/-- Enter the regions of an image from index `i` on; buffers follow one another from `buf`, check arrays from `checks`. -/
def putRegions (n wbase version : Nat) (shadow : Bool) (img : List Byte) :
    List Region → Nat → Nat → Nat → Nat → State → State
  | [], _, _, _, _, s => s
  | r :: rs, k, i, buf, checks, s =>
    let two := buffers shadow r
    putRegions n wbase version shadow img rs (k + 1) (i + 1) (buf + two * cdiv r.bytes pageSize * pageSize)
      (checks + (if two = 2 then 4 * chunks r.bytes else 0))
      (putRegion n wbase i shadow buf checks version r (regionData img k) s)

/-- Bytes of the check arrays of regions with a second buffer. -/
def checkBytes (shadow : Bool) (rs : List Region) : Nat :=
  4 * (rs.map fun r => if buffers shadow r = 2 then chunks r.bytes else 0).sum

/-! ## STOW_LOAD (R435 to R439) -/

/-- Lowest handle that the job does not hold. -/
def freeHandle (j : Job) : Nat := (firstFree (fun h => !(j.models.any fun m => m.handle == h)) 257 0).getD 0

/-- The refusals of an image (Table 2.16), with BAD_VERSION of R434 after them. -/
def imageRefusal (b : List Byte) (len kind : Nat) : Option (Byte × Half × Nat) :=
  match imageBad b len kind with
  | some off => some (0xFF, 0x0603, off)
  | none =>
    match imageCrc b with
    | some i => some (0x32, 0x0604, i)
    | none => if blk b 16 4 = 0xFFFFFFFF then some (0xFF, 0x0616, 0xFFFFFFFF) else none

/-- A model as STOW_LOAD makes it. -/
def modelOf (b : List Byte) (handle wbase units : Nat) (shadow : Bool) (rs : List Region) (tier : List Nat) : Model :=
  let ps := (List.range (blk b 22 2)).map (pieceOf b)
  { handle := handle, wbase := wbase, units := units, shadow := shadow, shapeId := BitVec.ofNat 64 (blk b 8 8)
    layers := blk b 26 2, kvHeads := blk b 28 2, headDim := blk b 30 2, fmtK := blk b 32 1, fmtV := blk b 33 1
    vocab := blk b 36 4, regions := rs, pieces := ps, programs := programsOf b (blk b 24 2) (blk b 56 8)
    route := routeOf b (expertsOf ps), variants := [], hostTier := tier, streamed := [], flip := none, drain := none }

/-- STOW_LOAD with its image read. -/
def loadModel (p : Packet) (b : List Byte) (j : Job) (s : State) : State :=
  let shadow := p.p0.getLsbD 8
  let extra := bf p.p4 15 0
  let wbase := p.p3.toNat
  let rs := (List.range (blk b 20 2)).map (regionOf b 0)
  let tier := tierRegions shadow (bf p.p4 63 32) rs
  let tab := 256 + 64 * (rs.length + extra)
  let head := cdiv (tab + checkBytes shadow rs) pageSize
  let kinds := areaKinds shadow tier head rs
  let version := blk b 16 4
  if 256 ≤ j.models.length then postCap p 0x0601 j.models.length s
  else if !(s.areaFree p.vi wbase kinds.length) then postFree p s
  else
    match s.areaHomes p.job (wbase / pageSize) kinds with
    | .error lack => postCap p 0x0602 (s.areaShort p.vi kinds.length lack) s
    | .ok homes =>
      if s.areaShort p.vi kinds.length 0 ≠ 0 then postCap p 0x0602 (s.areaShort p.vi kinds.length 0) s
      else
        let h := freeHandle j
        let hdr := leBytes 2 h ++ leBytes 2 rs.length ++ leBytes 1 0 ++ leBytes 1 (b2n shadow) ++ leBytes 2 extra
          ++ leBytes 8 (blk b 8 8) ++ leBytes 4 version ++ leBytes 4 0xFFFFFFFF ++ leBytes 8 0 ++ leBytes 8 0 ++ leBytes 8 0
        let s1 := vwrite p.vi wbase hdr (mapArea p.vi p.job homes s)
        let s2 := putRegions p.vi wbase version shadow b rs 0 0 (wbase + head * pageSize) (wbase + tab) s1
        let m := modelOf b h wbase kinds.length shadow rs tier
        postDone p (tier.length * 2 ^ 32 + h) kinds.length (s2.updJob p.job fun j => { j with models := j.models ++ [m] })

/-- STOW_LOAD (R435). -/
def effStowLoad (p : Packet) (s : State) : State :=
  match s.job? p.job with
  | none => postFree p s
  | some j =>
    match vread p.vi s p.p1.toNat p.p2.toNat with
    | .error e => memFail p e s
    | .ok b =>
      match imageRefusal b p.p2.toNat 1 with
      | some e => refuse p e s
      | none => loadModel p b j s

/-! ## Adapters and variants (R457, R458, R465) -/

/-- A command in progress names the model: a push, an entered flip, a pass, or a step of a rollout on it. -/
def State.namedBy (s : State) (id h : Nat) (o : OpenCmd) : Bool :=
  o.pkt.job == id && (
    match o.pkt.op with
    | 0x0603 | 0x0604 => bf o.pkt.p0 15 0 == h
    | 0x0501 | 0x0502 => bf o.pkt.p1 63 48 == h
    | 0x0302 | 0x0305 =>
      ((s.job? id).bind fun j => j.rollouts.find? fun r => r.id == bf o.pkt.p0 7 0).any fun r => r.model == h
    | _ => false)

/-- A variant of the model is in use or in reception (R465). -/
def State.variantBusy (s : State) (n id : Nat) (m : Model) (v : Variant) : Bool :=
  ((s.job? id).map fun j => j.rollouts.any fun r =>
    r.model == m.handle && r.reqs.any fun q => bf q.2.pkt.p0 31 16 == v.num).getD false
  || (s.opens.any fun o => s.namedBy id m.handle o)
  || ((List.range v.count).any fun i => ssOf (s.stw n m (v.first + i)) == 2)

/-- An adapter pair outside Table 4.5: A and B are multiplied with U in the format of A (R460). -/
def adapterBad (rs : List Region) : Option Nat :=
  (List.range rs.length).find? fun i =>
    match rs[i]? with
    | some r => r.flags.getLsbD 2 && (match rs[r.twin]? with | some t => (pairRates r.fmt t.fmt).isNone | none => true)
    | none => false

/-- First index of a run of `count` region entries that are not in use, within the table's room. -/
def Model.freeRun (m : Model) (room count : Nat) : Option Nat :=
  let used (i : Nat) : Bool := match m.regions[i]? with | some r => !r.free | none => false
  firstFree (fun i => decide (i + count ≤ room) && (List.range count).all fun k => !(used (i + k))) (room + 1) 0

/-- An entry not in use. -/
def freeRegion : Region :=
  { bytes := 0, rows := 0, cols := 0, fmt := 0, order := 0, home := 0, flags := 1, twin := 0xFFFF, piece := 0, alpha := 0
    variant := 0xFFFF, checked := 0 }

/-- Put regions at an index of the list. -/
def placeRegions (old : List Region) (i : Nat) (rs : List Region) : List Region :=
  let l := old ++ List.replicate (i + rs.length - old.length) freeRegion
  l.take i ++ rs ++ l.drop (i + rs.length)

/-- REGIONS and EXTRA_FREE of the header after `k` entries are taken (or given back). -/
def tallyEntries (n : Nat) (m : Model) (used free : Nat) (s : State) : State :=
  wr n (m.wbase + 6) 2 free (wr n (m.wbase + 2) 2 used s)

/-- A variant goes: its area is unmapped and its entries are free (R465). -/
def dropVariant (n id : Nat) (m : Model) (v : Variant) (s : State) : State :=
  let s1 := unmapArea n v.wbase v.units s
  let s2 := tallyEntries n m (s1.rd n (m.wbase + 2) 2 - v.count) (s1.rd n (m.wbase + 6) 2 + v.count) s1
  s2.updModel id m.handle fun m => { m with
    variants := m.variants.filter fun x => x.num != v.num
    regions := placeRegions m.regions v.first (List.replicate v.count freeRegion) }

/-- Regions of a variant's image. -/
def variantRegions (p : Packet) (b : List Byte) : List Region := (List.range (blk b 20 2)).map (regionOf b (bf p.p0 31 16))

/-- Kinds of the pages of a variant's area, and its first data page. -/
def variantArea (m : Model) (rs : List Region) : List Nat × Nat :=
  let head := cdiv (checkBytes m.shadow rs) pageSize
  (areaKinds m.shadow [] head rs, head)

/-- Where an accepted variant goes: its first entry, and the homes of its area; or how the packet ends (R458). -/
def variantPlace (p : Packet) (rs : List Region) (m : Model) (s : State) : Except (State → State) (Nat × List (Nat × Home)) :=
  let kinds := (variantArea m rs).1
  match m.freeRun (s.rd p.vi (m.wbase + 2) 2 + s.rd p.vi (m.wbase + 6) 2) rs.length with
  | none => .error (postErr p 0x0605 m.handle)
  | some first =>
    if !(s.areaFree p.vi p.p3.toNat kinds.length) then .error (postFree p)
    else
      match s.areaHomes p.job (p.p3.toNat / pageSize) kinds with
      | .error lack => .error (postCap p 0x0602 (s.areaShort p.vi kinds.length lack))
      | .ok homes =>
        if s.areaShort p.vi kinds.length 0 ≠ 0 then .error (postCap p 0x0602 (s.areaShort p.vi kinds.length 0))
        else .ok (first, homes)

/-- A variant is laid out in its area and entered (R458). -/
def loadVariant (p : Packet) (b : List Byte) (rs : List Region) (m : Model) (x : Nat × List (Nat × Home)) (s : State) : State :=
  let wbase := p.p3.toNat
  let area := variantArea m rs
  let s1 := mapArea p.vi p.job x.2 s
  let s2 := putRegions p.vi m.wbase (blk b 16 4) m.shadow b rs 0 x.1 (wbase + area.2 * pageSize) wbase s1
  let s3 := tallyEntries p.vi m (s.rd p.vi (m.wbase + 2) 2 + rs.length) (s.rd p.vi (m.wbase + 6) 2 - rs.length) s2
  let v : Variant :=
    { num := bf p.p0 31 16, wbase := wbase, units := area.1.length, first := x.1, count := rs.length
      route := routeOf b (expertsOf m.pieces) }
  postDone p x.1 rs.length (s3.updModel p.job m.handle fun m => { m with
    variants := m.variants ++ [v], regions := placeRegions m.regions x.1 rs })

/-- The loaded variant with a number. -/
def Model.variant? (m : Model) (v : Nat) : Option Variant := m.variants.find? fun x => x.num == v

/-- ADAPTER_LOAD (R457, R458): refusals in the order of Table 2.16; that of an unmapped image stands behind MODEL_UNKNOWN
(notes/assumptions/104.md). A refused packet leaves the variant that it would have replaced (R775). -/
def effAdapterLoad (p : Packet) (s : State) : State :=
  match s.nameModel p (bf p.p0 15 0) with
  | .error e => refuse p e s
  | .ok m =>
    match vread p.vi s p.p1.toNat p.p2.toNat with
    | .error e => memFail p e s
    | .ok b =>
      match imageRefusal b p.p2.toNat 2 with
      | some e => refuse p e s
      | none =>
        let rs := variantRegions p b
        let old := m.variant? (bf p.p0 31 16)
        let room := s.rd p.vi (m.wbase + 6) 2 + ((old.map (·.count)).getD 0)
        if blk b 8 8 ≠ m.shapeId.toNat ∨ room < rs.length then postErr p 0x0605 m.handle s
        else
          match adapterBad rs with
          | some i => postErr p 0x0606 i s
          | none =>
            if old.any fun v => s.variantBusy p.vi p.job m v then postErr p 0x0607 (bf p.p0 31 16) s
            else
              let s1 := match old with | some v => dropVariant p.vi p.job m v s | none => s
              let m1 := (s1.model? p.job m.handle).getD m
              match variantPlace p rs m1 s1 with
              | .error f => f s
              | .ok x => loadVariant p b rs m1 x s1

/-- ADAPTER_UNLOAD (R465). A variant that is not loaded is VARIANT_UNKNOWN's case of no command here: its outcome is open. -/
def effAdapterUnload (p : Packet) (s : State) : State :=
  match s.nameModel p (bf p.p0 15 0) with
  | .error e => refuse p e s
  | .ok m =>
    match m.variant? (bf p.p0 31 16) with
    | none => postFree p s
    | some v =>
      if s.variantBusy p.vi p.job m v then postErr p 0x0607 v.num s
      else postDone p 0 0 (dropVariant p.vi p.job m v s)

/-! ## Flip and discard (R448 to R456) -/

/-- FRESHET_FLIP (R449): the refusals of its list, then those of Table 3.3. -/
def effFlip (p : Packet) (s : State) : State :=
  let version := bf p.p1 31 0
  match s.model? p.job (bf p.p0 15 0) with
  | none => postErr p 0x0608 (bf p.p0 15 0) s
  | some m =>
    if version = 0xFFFFFFFF then postErr p 0x0616 version s
    else if m.flip.isSome then postErr p 0x0615 (s.rd p.vi (m.wbase + 20) 4) s
    else if !m.shadow then postErr p 0x0610 m.handle s
    else if s.modelState p.vi m ≠ 0 then postErr p 0x0609 m.handle s
    else
      match schedRefusal p.p2.toNat s with
      | some e => refuse p e s
      | none =>
        let s1 := schedule .flip p.p2.toNat (some p.key) s
        let s2 := wr p.vi (m.wbase + 24) 8 p.p2.toNat (wr p.vi (m.wbase + 20) 4 version s1)
        (s2.updModel p.job m.handle fun m => { m with flip := some p }).openCmd p (.flip p.job m.handle)

/-- The flip is no longer entered. -/
def clearFlip (n id : Nat) (m : Model) (s : State) : State :=
  (wr n (m.wbase + 20) 4 0xFFFFFFFF s).updModel id m.handle fun m => { m with flip := none }

/-- A region qualifies for the release (R450). -/
def State.verifiedAt (s : State) (n : Nat) (m : Model) (version i : Nat) : Bool :=
  let w := s.stw n m i
  ssOf w == 3 && w / 2 ^ 32 == version

/-- Release of one region (R451). -/
def releaseRegion (n version : Nat) (m : Model) (s : State) (i : Nat) : State :=
  let w := s.stw n m i
  let w1 := s.ent n m i 48 4 * 2 ^ 32 + bn w 31 16 * 2 ^ 16 + (1 - bn w 4 4) * 16 + 5
  wr n (m.entry i + 48) 4 version (wr n (m.entry i + 16) 8 w1 s)

/-- The decision at fret N (R450 to R452). -/
def decideFlip (p : Packet) (m : Model) (s0 : State) : State :=
  let n := p.vi
  let version := bf p.p1 31 0
  let s := clearFlip n p.job m s0
  let live := m.live
  if live.all fun i => s.ent n m i 48 4 == version then postDone p version 0 s
  else
    let bad := live.filter fun i => !(s.verifiedAt n m version i)
    if bad.isEmpty then
      let s1 := live.foldl (releaseRegion n version m) s
      let s2 := wr n (m.wbase + 32) 8 (s.rd n (m.wbase + 32) 8 + 1) (wr n (m.wbase + 16) 4 version s1)
      postDone p version live.length
        { s2 with ctr := { s2.ctr with fshReleased := satAdd s2.ctr.fshReleased 1 } }
    else
      let failed := bad.any fun i => ssOf (s.stw n m i) == 4
      let s1 := wr n (m.wbase + 40) 8 (s.rd n (m.wbase + 40) 8 + 1) s
      postFinal p 0x40 (if failed then 0x0621 else 0x0620) (s.modelVersion n m) bad.length
        { s1 with ctr := { s1.ctr with fshHeld := satAdd s1.ctr.fshHeld 1 } }

/-- FLIP_DECISION (R450): the entry of the fret schedule begins. -/
def flipDecision (id h : Nat) (s : State) : State :=
  match s.model? id h with
  | none => s
  | some m =>
    match m.flip with
    | none => s
    | some p =>
      match takeDue .flip p.key s with
      | some s1 => decideFlip p m s1
      | none => s

/-- Chunks of a reception that have been checked; `noCheck` once it has ended, until a push writes ARRIVED again. -/
abbrev noCheck : Nat := 2 ^ 64

/-- Set the chunks checked of a region. -/
def setChecked (id h i c : Nat) (s : State) : State :=
  s.updModel id h fun m => { m with regions := m.regions.mapIdx fun k r => if k = i then { r with checked := c } else r }

/-- FRESHET_DISCARD (R455). -/
def effDiscard (p : Packet) (s : State) : State :=
  match s.nameModel p (bf p.p0 15 0) with
  | .error e => refuse p e s
  | .ok m =>
    if m.flip.isSome then postErr p 0x0615 (s.rd p.vi (m.wbase + 20) 4) s
    else
      let hit := m.indices.filter fun i =>
        let st := ssOf (s.stw p.vi m i)
        st == 3 || st == 4 || (st == 2 && p.p0.getLsbD 24)
      postDone p hit.length 0 (hit.foldl (fun s i => setSs p.vi m i 1 (setChecked p.job m.handle i noCheck s)) s)

/-! ## Reception of a push, drains, the host tier (R446, R454, R466) -/

/-- FRESHET_CHUNK_CHECK (R446): the next chunk that has arrived is checked. -/
def chunkCheck (id h i : Nat) (s : State) : State :=
  match s.job? id, s.model? id h with
  | some j, some m =>
    (match m.regions[i]? with
     | none => s
     | some r =>
       let n := j.vi
       let w := s.stw n m i
       let arrived := s.ent n m i 24 8
       let c := r.checked
       let total := s.ent n m i 52 4
       if ssOf w ≠ 2 ∨ arrived ≤ c ∨ total ≤ c then s
       else
         let buf := s.ent n m i (if bn w 4 4 = 0 then 8 else 0) 8
         let data := s.peek n (buf + c * 262144) (min 262144 (r.bytes - c * 262144))
         let s1 := setChecked id h i (c + 1) s
         if (crc32c data).toNat = s.rd n (s.ent n m i 40 8 + 4 * c) 4 then
           let up := s1.ctr.fshRest + 1
           let s2 := { s1 with ctr := { s1.ctr with
             fshReceived := satAdd s1.ctr.fshReceived (up / 64), fshRest := up % 64 } }
           if c + 1 = total then setSs n m i 3 (setChecked id h i noCheck s2) else s2
         else setSs n m i 4 { setChecked id h i noCheck s1 with ctr := { s1.ctr with fshFails := satAdd s1.ctr.fshFails 1 } })
  | _, _ => s

/-- A pass that runs on the model under a version. -/
def passUnder (id : Nat) (m : Model) (o : OpenCmd) : Option Nat :=
  match o.prog with
  | .passRun _ _ _ _ _ _ _ _ => if o.pkt.job = id ∧ bf o.pkt.p1 63 48 = m.handle then some (bf o.pkt.p2 63 32) else none
  | _ => none

/-- A rollout's step or a pass on the model runs under a version that is no longer in force (R453). -/
def State.formerReader (s : State) (id : Nat) (m : Model) (version : Nat) : Bool :=
  (((s.job? id).map fun j => j.rollouts.any fun r =>
    r.model == m.handle && !r.stepCmds.isEmpty && r.version.toNat != version).getD false)
  || s.opens.any fun o => (passUnder id m o).any fun v => v != version

/-- REGION_DRAIN_END (R454). -/
def regionDrainEnd (id h i : Nat) (s : State) : State :=
  match s.job? id, s.model? id h with
  | some j, some m =>
    if m.indices.contains i && ssOf (s.stw j.vi m i) == 5 && !(s.formerReader id m (s.ent j.vi m i 48 4)) then
      setSs j.vi m i 1 s
    else s
  | _, _ => s

/-- HOST_TIER_STREAM (R466): a host-tier region is in the stage buffers; the last three are kept. -/
def hostTierStream (id h i : Nat) (s : State) : State :=
  match s.model? id h with
  | some m =>
    if m.hostTier.contains i then
      let bytes := ((m.regions[i]?).map (·.bytes)).getD 0
      let u := addUnits 65536 s.ctr.fshStream s.ctr.fshStreamRest bytes
      let kept := (m.streamed.filter (· != i)) ++ [i]
      let s1 := s.updModel id h fun m => { m with streamed := kept.drop (kept.length - 3) }
      { s1 with ctr := { s1.ctr with fshStream := u.1, fshStreamRest := u.2 } }
    else s
  | none => s

/-! ## The commands -/

/-- STOW_LOAD (R435). -/
def execStowLoad (p : Packet) (s : State) : Out := submit effStowLoad p s
/-- ADAPTER_LOAD (R457). -/
def execAdapterLoad (p : Packet) (s : State) : Out := submit effAdapterLoad p s
/-- ADAPTER_UNLOAD (R465). -/
def execAdapterUnload (p : Packet) (s : State) : Out := submit effAdapterUnload p s
/-- FRESHET_FLIP (R449). -/
def execFreshetFlip (p : Packet) (s : State) : Out := submit effFlip p s
/-- FRESHET_DISCARD (R455). -/
def execFreshetDiscard (p : Packet) (s : State) : Out := submit effDiscard p s
/-- FLIP_DECISION (R450). -/
def execFlipDecision (job model : Nat) (s : State) : Out := .next (flipDecision job model s)
/-- FRESHET_CHUNK_CHECK (R446). -/
def execFreshetChunkCheck (job model region : Nat) (s : State) : Out := .next (chunkCheck job model region s)
/-- REGION_DRAIN_END (R454). -/
def execRegionDrainEnd (job model region : Nat) (s : State) : Out := .next (regionDrainEnd job model region s)
/-- HOST_TIER_STREAM (R466). -/
def execHostTierStream (job model region : Nat) (s : State) : Out := .next (hostTierStream job model region s)

end Sys2Proof.Machine
end

