-- ==== Sys2Proof/Machine/Kv.lean ====
section
/-! DEFINITION. KV page pools (spec/09_kv_pages.md): the structures at META, the operations on REF and PIN, the pool
commands, fork, release, and the receiving side of KV_SHIP. -/

namespace Sys2Proof.Machine

open Sys2Proof

/-- First byte of a page. -/
def State.pageVa (s : State) (n : Nat) (q : Pool) (page : Nat) : Nat := q.arena + page * s.kvStr n q

/-- Copy one stride within the VI's range. -/
def copyStride (n : Nat) (q : Pool) (src dst : Nat) (s : State) : State := vwrite n dst (s.peek n src (s.kvStr n q)) s

/-- SPILL of the control block. -/
def State.spillVa (s : State) (n : Nat) (q : Pool) (slot : Nat) : Nat := s.cb n q 64 8 + slot * s.kvStr n q

/-- Layers, bytes of a position's K and V, and of a layer's K and V blocks of a pool (R317). -/
structure KvGeo where
  layers : Nat
  k : Nat
  v : Nat
  bk : Nat
  bv : Nat
  deriving DecidableEq, Repr

/-- Geometry of a pool. -/
def State.kvGeo (s : State) (n : Nat) (q : Pool) : KvGeo :=
  let h := s.cb n q 6 2 * s.cb n q 8 2
  let pt := s.kvPt n q
  let k := h * kvSize (s.cb n q 1 1)
  let v := h * kvSize (s.cb n q 2 1)
  { layers := s.cb n q 4 2, k := k, v := v, bk := pt * k, bv := pt * v }

/-- Address of the page that holds a position of a table, in its page or its spill slot. -/
def State.posVa (s : State) (n : Nat) (q : Pool) (t pos : Nat) : Nat :=
  let e := s.te n q t (pos / s.kvPt n q)
  if teSpilled e then s.spillVa n q (tePage e) else s.pageVa n q (tePage e)

/-- A spill slot falls free. -/
def freeSpill (n id : Nat) (q : Pool) (slot : Nat) (s : State) : State :=
  (setCb n q 56 4 (s.cb n q 56 4 + 1) s).updPool id q.id fun x => { x with spillUsed := x.spillUsed.filter (· != slot) }

/-- An entry is cleared: its reference or its spill slot goes. -/
def clearEntry (n id : Nat) (q : Pool) (t j : Nat) (s : State) : State :=
  let e := s.te n q t j
  let s1 := setTe n q t j noPage s
  if teValid e then dropRef n q (tePage e) s1 else if teSpilled e then freeSpill n id q (tePage e) s1 else s1

/-- Entries that lie wholly at or beyond a position are cleared, in ascending order (Table 9.8). -/
def releaseFrom (n id : Nat) (q : Pool) (t pos : Nat) (s : State) : State :=
  let used := s.used n q t
  let first := cdiv pos (s.kvPt n q)
  if used ≤ first then s
  else
    let s1 := ((List.range used).drop first).foldl (fun s j => clearEntry n id q t j s) s
    fixUsed n q t first s1

/-- The end of a sequence: the table is emptied. -/
def emptyTable (n id : Nat) (q : Pool) (t : Nat) (s : State) : State := releaseFrom n id q t 0 s

/-- A new page in an entry that is not VALID. -/
def newEntry (n : Nat) (q : Pool) (t j : Nat) (s : State) : Option State :=
  (allocPage n q s).map fun x => fixUsed n q t (max (j + 1) (s.used n q t)) (setTe n q t j (teList x.1) x.2)

/-- Copy-on-write of an entry (R346). -/
def cowEntry (n : Nat) (q : Pool) (t j : Nat) (s : State) : Option State :=
  let old := tePage (s.te n q t j)
  (allocPage n q s).map fun x =>
    let s1 := setTe n q t j (teList x.1) (copyStride n q (s.pageVa n q old) (s.pageVa n q x.1) x.2)
    let s2 := bumpCb n q 80 1 (dropRef n q old s1)
    { s2 with ctr := { s2.ctr with kvCows := satAdd s2.ctr.kvCows 1 } }

/-- Entries that cover positions below a length. -/
def State.covers (s : State) (n : Nat) (q : Pool) (len : Nat) : Nat := cdiv len (s.kvPt n q)

/-- Entries of a source table that a share takes: VALID, below the length. -/
def State.sharable (s : State) (n : Nat) (q : Pool) (src len : Nat) : List (Nat × Nat) :=
  (s.listed n q src).filter fun x => decide (x.1 < s.covers n q len)

/-- Pages that a share copies, their REF being 255 (R340). -/
def State.copiesFor (s : State) (n : Nat) (q : Pool) (src len : Nat) : Nat :=
  ((s.sharable n q src len).filter fun x => s.pageRef n q x.2 == 255).length

/-- Share one entry of a source table into a destination table (R336, R340). -/
def shareEntry (n : Nat) (q : Pool) (src dst : Nat) (s : State) (x : Nat × Nat) : State :=
  if s.pageRef n q x.2 = 255 then
    match allocPage n q s with
    | some y => setTe n q dst x.1 (teList y.1) (copyStride n q (s.pageVa n q x.2) (s.pageVa n q y.1) y.2)
    | none => s
  else takeRef n q x.2 (setTe n q dst x.1 (s.te n q src x.1) s)

/-- Share the pages of a table below a length; none when copies exceed the free pages. -/
def sharePages (n : Nat) (q : Pool) (src dst len : Nat) (s : State) : Option State :=
  if s.kvFree n q < s.copiesFor n q src len then none
  else
    let l := s.sharable n q src len
    some (fixUsed n q dst (min (s.covers n q len) (s.used n q src)) (l.foldl (fun s x => shareEntry n q src dst s x) s))

/-! ## Accesses of the pool commands (R82) -/

/-- First byte that no page maps among the ranges that a command uses, in order. -/
def State.firstHole (s : State) (n : Nat) (l : List (Nat × Nat)) : Option Nat :=
  l.findSome? fun x => s.firstUnmapped n x.1 x.2

/-- The ranges that a command on a pool uses: the control block, the descriptors and some tables (R327 to R329). -/
def State.poolRanges (s : State) (n : Nat) (q : Pool) (tables : List Nat) : List (Nat × Nat) :=
  (q.metaVa, 256) :: (q.metaVa + 256, 8 * s.cb n q 16 4)
  :: (tables.filter (· < s.kvTables n q)).map fun t => (s.tblVa n q t, s.cb n q 24 4)

/-- A command on a pool goes on when what it uses is mapped (R82). -/
def withPool (p : Packet) (q : Pool) (tables : List Nat) (more : State → List (Nat × Nat)) (f : State → State) (s : State) : State :=
  match s.firstHole p.vi (if (s.firstUnmapped p.vi q.metaVa 256).isSome then [(q.metaVa, 256)]
      else s.poolRanges p.vi q tables ++ more s) with
  | some va => memFail p (.notMapped va) s
  | none => f s

/-! ## Pool commands (R320 to R325) -/

/-- Fields of a CREATE that Table 9.2 rules out, or a stride above 16 MiB (R323). -/
def poolBad (p : Packet) : Bool :=
  let layers := bf p.p0 47 32
  let heads := bf p.p1 15 0
  let dim := bf p.p1 31 16
  let pages := bf p.p1 63 32
  let tables := bf p.p4 31 0
  let pos := bf p.p4 63 32
  layers == 0 || decide (1024 < layers) || !(kvFmt (bf p.p0 31 24)) || !(kvFmt (bf p.p0 23 16)) || bf p.p0 9 8 == 3
  || pages == 0 || decide (16777215 < pages) || decide (dim < 32 ∨ 512 < dim) || dim % 32 != 0 || heads == 0
  || decide (256 < heads) || p.p2.toNat % 4096 != 0 || p.p3.toNat % 4096 != 0 || pos == 0 || decide (4194304 < pos)
  || tables == 0 || decide (1048576 < tables)
  || decide (16777216 < kvStride (ptOf (bf p.p0 9 8)) layers heads dim (bf p.p0 23 16) (bf p.p0 31 24))

/-- The structures at META as CREATE writes them (R322). -/
def poolImage (p : Packet) : List Byte :=
  let pt := ptOf (bf p.p0 9 8)
  let pages := bf p.p1 63 32
  let pos := bf p.p4 63 32
  let tb := tableBytes pos pt
  let stride := kvStride pt (bf p.p0 47 32) (bf p.p1 15 0) (bf p.p1 31 16) (bf p.p0 23 16) (bf p.p0 31 24)
  let cbk := leBytes 1 (bf p.p0 9 8) ++ leBytes 1 (bf p.p0 23 16) ++ leBytes 1 (bf p.p0 31 24) ++ leBytes 1 0
    ++ leBytes 2 (bf p.p0 47 32) ++ leBytes 2 (bf p.p1 15 0) ++ leBytes 2 (bf p.p1 31 16) ++ leBytes 2 0
    ++ leBytes 4 stride ++ leBytes 4 pages ++ leBytes 4 (bf p.p4 31 0) ++ leBytes 4 tb ++ leBytes 4 pos
    ++ leBytes 4 pages ++ leBytes 4 0 ++ leBytes 4 (pages - 1) ++ leBytes 4 0 ++ leBytes 4 0 ++ leBytes 4 0
    ++ leBytes 4 0 ++ leBytes 4 10000 ++ leBytes 8 0 ++ leBytes 40 0 ++ leBytes 144 0
  let descs := (List.range pages).flatMap fun i => leBytes 8 ((if i + 1 = pages then noPage else i + 1) * 2 ^ 24)
  let tbl := [0, 0xFF] ++ leBytes 62 0 ++ ((List.range (cdiv pos pt)).flatMap fun _ => leBytes 8 noPage)
    ++ leBytes (tb - 64 - 8 * cdiv pos pt) 0
  cbk ++ descs ++ ((List.range (bf p.p4 31 0)).flatMap fun _ => tbl)

/-- Lowest pool ID that the job does not use. -/
def freePool (j : Job) : Nat := (firstFree (fun k => !(j.pools.any fun q => q.id == k)) 17 0).getD 0

/-- KV_POOL_CREATE (R322, R323). -/
def effPoolCreate (p : Packet) (s : State) : State :=
  match s.job? p.job with
  | none => postFree p s
  | some j =>
    let total := (j.pools.map fun q => s.cb j.vi q 16 4).sum
    if poolBad p then postErr p 0x0403 0xFFFF s
    else if 16 ≤ j.pools.length ∨ 2 ^ 24 < total + bf p.p1 63 32 then postCap p 0x0402 j.pools.length s
    else
      let w := vstore p p.p3.toNat (poolImage p) s
      match w.2 with
      | some e => memFail p e w.1
      | none =>
        let q : Pool := { id := freePool j, arena := p.p2.toNat, metaVa := p.p3.toNat, pendPolicy := none, spillUsed := [] }
        postDone p q.id (w.1.cb p.vi q 12 4)
          (w.1.updJob p.job fun j => { j with pools := j.pools ++ [q] })

/-- Write a spill area into the control block. -/
def putSpill (n : Nat) (q : Pool) (area slots : Nat) (s : State) : State :=
  setCb n q 56 4 (slots - q.spillUsed.length) (setCb n q 52 4 slots (setCb n q 64 8 area s))

/-- Write a policy into the control block. -/
def putPolicy (n : Nat) (q : Pool) (x : Nat × Nat × Nat × Nat) (s : State) : State :=
  putSpill n q x.2.2.1 x.2.2.2 (setCb n q 60 4 x.2.1 (setCb n q 3 1 x.1 s))

/-- Rollouts on a pool. -/
def State.rolloutsOn (s : State) (id k : Nat) : List Rollout :=
  ((s.job? id).map fun j => j.rollouts.filter fun r => r.pool == k).getD []

/-- KV_POOL_SET_POLICY (R324): at the next step boundary of each rollout on the pool; at once where there is none. -/
def effPoolPolicy (p : Packet) (s : State) : State :=
  let k := bf p.p0 63 48
  match s.pool? p.job k with
  | none => postErr p 0x0401 k s
  | some q =>
    let x := (bf p.p0 9 8, bf p.p1 31 0, p.p2.toNat, bf p.p3 31 0)
    if 2 ≤ x.1 ∨ p.p2.toNat % 4096 ≠ 0 ∨ 16777215 < x.2.2.2 then postFree p s
    else if (s.firstUnmapped p.vi q.metaVa 256).isSome then
      memFail p (.notMapped ((s.firstUnmapped p.vi q.metaVa 256).getD 0)) s
    else if (x.2.2.1 ≠ s.cb p.vi q 64 8 ∨ x.2.2.2 ≠ s.cb p.vi q 52 4) ∧ !q.spillUsed.isEmpty then postErr p 0x0404 k s
    else
      let s1 := match q.pendPolicy with | some y => putPolicy p.vi q y.1 s | none => s
      if (s.rolloutsOn p.job k).isEmpty then
        postDone p 0 0 ((putPolicy p.vi q x s1).updPool p.job k fun q => { q with pendPolicy := none })
      else postDone p 0 0 (s1.updPool p.job k fun q => { q with pendPolicy := some (x, []) })

/-- POLICY and WAIT_FRETS that a rollout acts under. -/
def State.policyOf (s : State) (n : Nat) (q : Pool) (r : Nat) : Nat × Nat :=
  match q.pendPolicy with
  | some (x, l) => if l.contains r then (x.1, x.2.1) else (s.cb n q 3 1, s.cb n q 60 4)
  | none => (s.cb n q 3 1, s.cb n q 60 4)

/-- A rollout's step boundary takes a pending policy; with the last rollout it is in force (R324). The pool has one spill area: it
is the new one as soon as a rollout takes the policy while no slot holds a page. -/
def takePolicy (n id k r : Nat) (s : State) : State :=
  match s.pool? id k with
  | some q =>
    (match q.pendPolicy with
     | some (x, l) =>
       let l1 := if l.contains r then l else l ++ [r]
       if (s.rolloutsOn id k).all fun y => l1.contains y.id then
         (putPolicy n q x s).updPool id k fun q => { q with pendPolicy := none }
       else
         (if q.spillUsed.isEmpty then putSpill n q x.2.2.1 x.2.2.2 s else s).updPool id k fun q =>
           { q with pendPolicy := some (x, l1) }
     | none => s)
  | none => s

/-- KV_POOL_DESTROY (R325). -/
def effPoolDestroy (p : Packet) (s : State) : State :=
  let k := bf p.p0 63 48
  match s.pool? p.job k with
  | none => postErr p 0x0401 k s
  | some q =>
    withPool p q [] (fun _ => []) (fun s =>
      let inUse := (List.range (s.cb p.vi q 16 4)).any fun i => s.desc p.vi q i % 65536 != 0
      if inUse || !(s.rolloutsOn p.job k).isEmpty then postErr p 0x0404 k s
      else postDone p 0 0 (s.updJob p.job fun j => { j with pools := j.pools.filter fun x => x.id != k })) s

/-! ## Tables (R330, R331, R334, R353, R354) -/

/-- A table is FREE_STANDING and empty. -/
def State.tableIdle (s : State) (n : Nat) (q : Pool) (t : Nat) : Bool := s.th n q t 0 1 == 0 && s.used n q t == 0

/-- The first run of tables that are all FREE_STANDING and empty (R331). -/
def State.tableRun (s : State) (n : Nat) (q : Pool) (slots : Nat) : Option Nat :=
  firstFree (fun t => decide (t + slots ≤ s.kvTables n q) && (List.range slots).all fun i => s.tableIdle n q (t + i))
    (s.kvTables n q) 0

/-- Bind tables to the slots of a rollout (R331). -/
def bindTables (n : Nat) (q : Pool) (r base slots : Nat) (s : State) : State :=
  (List.range slots).foldl (fun s i =>
    setTh n q (base + i) 2 2 i (setTh n q (base + i) 1 1 r (setTh n q (base + i) 0 1 1 s))) s

/-- At CLOSE the tables of a rollout are unbound: an empty one is FREE_STANDING (R334). -/
def unbindTables (n : Nat) (q : Pool) (base slots : Nat) (s : State) : State :=
  (List.range slots).foldl (fun s i =>
    let t := base + i
    let s1 := setTh n q t 1 1 0xFF s
    if s.th n q t 0 1 = 1 ∧ s.used n q t = 0 then setTh n q t 0 1 0 s1 else s1) s

/-- The slot of an open rollout to which a table belongs. -/
def State.slotOfTable (s : State) (id k t : Nat) : Option (Rollout × Nat) :=
  ((s.rolloutsOn id k).find? fun r => decide (r.tbase ≤ t ∧ t < r.tbase + r.slots)).map fun r => (r, t - r.tbase)

/-- STATE of a table that has been emptied: BOUND while its rollout is open (R334, R354). -/
def State.restState (s : State) (id k t : Nat) : Nat := if (s.slotOfTable id k t).isSome then 1 else 0

/-- STATE of a slot of a rollout (Table 8.2). -/
def State.slotState (s : State) (n : Nat) (r : Rollout) (slot : Nat) : Nat := s.rd n (r.seqtab + 64 * slot + 4) 1

/-- A table is BOUND to a slot that is not FREE. -/
def State.tableBusy (s : State) (n id k : Nat) (q : Pool) (t : Nat) : Bool :=
  s.th n q t 0 1 == 1 && (match s.slotOfTable id k t with | some x => s.slotState n x.1 x.2 != 0 | none => false)

/-- KV_FORK with its structures mapped (R353). -/
def forkTable (p : Packet) (q : Pool) (src dst len : Nat) (s : State) : State :=
  let n := p.vi
  if s.kvTables n q ≤ src ∨ s.kvTables n q ≤ dst then postFree p s
  else if !(s.tableIdle n q dst) then postErr p 0x0407 dst s
  else if s.th n q src 0 1 = 3
      ∨ (List.range (min (s.covers n q len) (s.used n q src))).any (fun j => teSpilled (s.te n q src j)) then
    postErr p 0x0407 src s
  else
    match sharePages n q src dst len s with
    | none => postCap p 0x0406 (s.kvFree n q) s
    | some s1 => postDone p (s.sharable n q src len).length 0 s1

/-- KV_FORK (R353). -/
def effKvFork (p : Packet) (s : State) : State :=
  let k := bf p.p0 63 48
  let src := bf p.p0 47 24
  let dst := bf p.p0 23 0
  let len := bf p.p1 31 0
  match s.pool? p.job k with
  | none => postErr p 0x0401 k s
  | some q =>
    let n := p.vi
    withPool p q [dst, src]
      (fun s => ((s.sharable n q src len).filter fun x => s.pageRef n q x.2 == 255).map fun x => (s.pageVa n q x.2, s.kvStr n q))
      (forkTable p q src dst len) s

/-- A KV_SHIP send of the table has not posted its final record. -/
def State.sending (s : State) (id k t : Nat) : Bool :=
  s.opens.any fun o => o.pkt.job == id && o.pkt.op == 0x0402 && bf o.pkt.p0 7 0 == 2 && bf o.pkt.p0 63 48 == k
    && bf o.pkt.p0 47 24 == t

/-- KV_RELEASE acts (R354). -/
def releaseNow (p : Packet) (q : Pool) (s : State) : State :=
  let n := p.vi
  let t := bf p.p0 47 24
  let pos := bf p.p1 31 0
  let refs := ((s.listed n q t).filter fun x => decide (cdiv pos (s.kvPt n q) ≤ x.1)).length
  let s1 := releaseFrom n p.job q t pos s
  let st := s.th n q t 0 1
  let s2 := if st ≠ 0 ∧ s1.used n q t = 0 then setTh n q t 0 1 (s.restState p.job q.id t) s1 else s1
  postDone p refs (s1.kvFree n q - s.kvFree n q) s2

/-- KV_RELEASE (R354). -/
def effKvRelease (p : Packet) (s : State) : State :=
  let k := bf p.p0 63 48
  let t := bf p.p0 47 24
  match s.pool? p.job k with
  | none => postErr p 0x0401 k s
  | some q =>
    withPool p q [t] (fun _ => []) (fun s =>
      if s.kvTables p.vi q ≤ t then postFree p s
      else if s.th p.vi q t 0 1 = 3 ∨ s.tableBusy p.vi p.job k q t then postErr p 0x0407 t s
      else if s.sending p.job k t then s.openCmd p .kvRelease
      else releaseNow p q s) s

/-- KV_RELEASEs whose send has posted its final record act now. -/
def settleReleases (s : State) : State :=
  s.opens.foldl (fun s o =>
    if o.prog = .kvRelease ∧ !(s.sending o.pkt.job (bf o.pkt.p0 63 48) (bf o.pkt.p0 47 24)) then
      match s.pool? o.pkt.job (bf o.pkt.p0 63 48) with
      | some q => releaseNow o.pkt q s
      | none => s
    else s) s

/-! ## KV_SHIP, the receiving side (R356, R358, R359) -/

/-- Allocate pages into entries from `j` on. -/
def fillTable (n : Nat) (q : Pool) (t : Nat) : Nat → Nat → State → State
  | 0, _, s => s
  | k + 1, j, s =>
    match allocPage n q s with
    | some x => fillTable n q t k (j + 1) (setTe n q t j (teList x.1) x.2)
    | none => s

/-- KV_SHIP_RECEIVE (R356). -/
def effKvReceive (p : Packet) (s : State) : State :=
  let k := bf p.p0 63 48
  let t := bf p.p0 47 24
  let pages := bf p.p1 31 0
  let frets := bf p.p2 63 32
  let n := p.vi
  match s.pool? p.job k with
  | none => postErr p 0x0401 k s
  | some q =>
    withPool p q [t] (fun _ => []) (fun s =>
      let st := s.th n q t 0 1
      if s.kvTables n q ≤ t ∨ cdiv (s.kvMaxPos n q) (s.kvPt n q) < pages then postFree p s
      else if s.used n q t ≠ 0 ∨ !(st = 0 ∨ (st = 1 ∧ !(s.tableBusy n p.job k q t))) then postErr p 0x0407 t s
      else if s.kvFree n q < pages then postCap p 0x0406 (s.kvFree n q) s
      else
        let s1 := fixUsed n q t pages (fillTable n q t pages 0 s)
        let hdr := leBytes 4 (bf p.p1 63 32) ++ leBytes 4 pages ++ leBytes 2 (bf p.p2 15 0)
        let s2 := wr n (s.tblVa n q t + 24) 8 0 (vwrite n (s.tblVa n q t + 8) hdr s1)
        let s3 := setTh n q t 0 1 3 s2
        s3.openCmd p (.kvReceive k t st (if frets = 0 then 0 else s.ftu.count.toNat + frets) 0 none)) s

/-- The open receive on a table. -/
def State.receiveOn (s : State) (id k t : Nat) : Option OpenCmd :=
  s.opens.find? fun o => o.pkt.job == id && (match o.prog with | .kvReceive a b _ _ _ _ => a == k && b == t | _ => false)

/-- A receive has checked its last page: it completes (R358). -/
def finishReceive (p : Packet) (q : Pool) (t former : Nat) (bad : Option Nat) (s : State) : State :=
  match bad with
  | none => postDone p 0 0 (setTh p.vi q t 0 1 (if s.used p.vi q t = 0 then s.restState p.job q.id t else former) s)
  | some j =>
    let s2 := setTh p.vi q t 0 1 (s.restState p.job q.id t) (emptyTable p.vi p.job q t s)
    postFinal p 0x32 0x0421 j 0 { s2 with ctr := { s2.ctr with kvShipCrc := satAdd s2.ctr.kvShipCrc 1 } }

/-- KV_PAGE_CHECK (R358): the next page that has arrived is checked against its entry's CRC. -/
def pageCheck (id k t : Nat) (s : State) : State :=
  match s.receiveOn id k t, s.pool? id k with
  | some { pkt := p, prog := .kvReceive _ _ former until_ checked bad }, some q =>
    let n := p.vi
    -- none expected: ARRIVED has reached SHIP_PAGES
    if s.th n q t 12 4 = 0 then finishReceive p q t former bad s
    else if s.th n q t 24 8 ≤ checked ∨ s.th n q t 12 4 ≤ checked then s
    else
      let e := s.te n q t checked
      let good := crc32c (s.peek n (s.pageVa n q (tePage e)) (s.kvStr n q)) == BitVec.ofNat 32 (e / 2 ^ 32)
      let bad1 := if good then bad else bad.or (some checked)
      let s1 := if good then { s with ctr := { s.ctr with kvShipPages := satAdd s.ctr.kvShipPages 1 } } else s
      if checked + 1 = s.th n q t 12 4 then finishReceive p q t former bad1 s1
      else s1.setProg p.key (.kvReceive k t former until_ (checked + 1) bad1)
  | _, _ => s

/-- KV_RECEIVE_TIMEOUT (R359). -/
def receiveTimeout (id k t : Nat) (s : State) : State :=
  match s.receiveOn id k t, s.pool? id k with
  | some { pkt := p, prog := .kvReceive _ _ _ until_ _ _ }, some q =>
    if until_ = 0 ∨ s.ftu.count.toNat < until_ ∨ s.th p.vi q t 12 4 ≤ s.th p.vi q t 24 8 then s
    else
      let s1 := setTh p.vi q t 0 1 4 s
      postErr p 0x0422 (s.th p.vi q t 24 8) { s1 with ctr := { s1.ctr with kvShipTimeout := satAdd s1.ctr.kvShipTimeout 1 } }
  | _, _ => s

/-! ## The commands -/

/-- KV_POOL_CREATE (R322). -/
def execKvPoolCreate (p : Packet) (s : State) : Out := submit effPoolCreate p s
/-- KV_POOL_SET_POLICY (R324). -/
def execKvPoolSetPolicy (p : Packet) (s : State) : Out := submit effPoolPolicy p s
/-- KV_POOL_DESTROY (R325). -/
def execKvPoolDestroy (p : Packet) (s : State) : Out := submit effPoolDestroy p s
/-- KV_FORK (R353). -/
def execKvFork (p : Packet) (s : State) : Out := submit effKvFork p s
/-- KV_RELEASE (R354). -/
def execKvRelease (p : Packet) (s : State) : Out := submit effKvRelease p s
/-- KV_SHIP_RECEIVE (R356). -/
def execKvShipReceive (p : Packet) (s : State) : Out := submit effKvReceive p s
/-- KV_PAGE_CHECK (R358). -/
def execKvPageCheck (job pool table : Nat) (s : State) : Out := .next (pageCheck job pool table s)
/-- KV_RECEIVE_TIMEOUT (R359). -/
def execKvReceiveTimeout (job pool table : Nat) (s : State) : Out := .next (receiveTimeout job pool table s)

end Sys2Proof.Machine
end

