-- ==== Sys2Proof/Machine/Pieces.lean ====
section
/-! DEFINITION. The works of a model's pieces: forward and backward, with their adapters, epilogues, experts, attention, saved
state and gradients (R373 to R391 of spec/10_learning_passes.md; R430, R431, R460 to R464 of
spec/11_weights_and_freshet.md), and the stages that a pass is cut into (R266, R267 of spec/07_tiling.md). How the pieces are
wired where the spec does not say is in notes/assumptions/109.md to 112.md. -/

namespace Sys2Proof.Machine

open Sys2Proof

/-! ## Regions and pieces -/

/-- Address of the active buffer of region i (Table 11.8). -/
def State.regionVa (s : State) (n : Nat) (m : Model) (i : Nat) : Nat := s.ent n m i (if bn (s.stw n m i) 4 4 = 0 then 0 else 8) 8

/-- Region i. -/
def Model.region (m : Model) (i : Nat) : Region := (m.regions[i]?).getD freeRegion

/-- Region i as an operand: rows one after another, or tiles (R430, R431). -/
def State.regionOpnd (s : State) (n : Nat) (m : Model) (i : Nat) : Opnd :=
  let r := m.region i
  let a := s.regionVa n m i
  if r.order = 1 then { vi := n, base := a, fmt := r.fmt, tiled := r.cols } else denseOpnd n a r.fmt r.rows r.cols

/-- An operand from element i of its rows on, i a multiple of 32. -/
def Opnd.shift (o : Opnd) (i : Nat) : Opnd := { o with base := o.base + plane1Bytes o.fmt i, plane2 := o.plane2 + plane2Bytes o.fmt i }

/-- One row, read for every row. -/
def Opnd.broadcast (o : Opnd) : Opnd := { o with stride := 0, stride2 := 0 }

/-- A product of K and V width: KV_HEADS × HEAD_DIM columns. -/
def Model.kvWidth (m : Model) : Nat := m.kvHeads * m.headDim

/-- Piece i. -/
def Model.piece (m : Model) (i : Nat) : Piece :=
  (m.pieces[i]?).getD { kind := 0, topK := 0, w := 0xFFFF, wt := 0xFFFF, bias := 0xFFFF, fwd := 0xFFFF, bwd := 0xFFFF, save := 0
                        flags := 0, layer := 0, scale := 0, window := 0, experts := 0 }

/-- Columns of a piece's product. -/
def Model.cols (m : Model) (i : Nat) : Nat := (m.region (m.piece i).w).rows

/-- Pieces i, i + 1 and i + 2 form Q, K and V for the attention after them. -/
def Model.triple (m : Model) (i : Nat) : Bool :=
  (m.piece i).kind == 1 && (m.piece (i + 1)).kind == 1 && (m.piece (i + 2)).kind == 1 && (m.piece (i + 3)).kind == 2
  && m.cols (i + 1) == m.kvWidth && m.cols (i + 2) == m.kvWidth

/-- Piece i reads the rows that the piece before it reads: K and V beside Q, EXPERTS beside its ROUTER. -/
def Model.shares (m : Model) (first i : Nat) : Bool :=
  (decide (first + 1 ≤ i) && m.triple (i - 1)) || (decide (first + 2 ≤ i) && m.triple (i - 2))
  || (decide (first + 1 ≤ i) && (m.piece i).kind == 4 && (m.piece (i - 1)).kind == 3)

/-- The piece of a range whose output piece i reads; none: the rows that enter the range. -/
def Model.srcOf (m : Model) (first : Nat) : Nat → Option Nat
  | 0 => none
  | i + 1 => if i < first then none else if m.shares first (i + 1) then m.srcOf first i else some i

/-- Pieces of a range that read the same rows as piece i. -/
def Model.sharers (m : Model) (first count i : Nat) : List Nat :=
  ((List.range count).map (first + ·)).filter fun j => (m.piece j).kind != 2 && m.srcOf first j == m.srcOf first i

/-- Elements of a row that piece i reads: an attention reads Q, K and V side by side. -/
def Model.inCols (m : Model) (first count i : Nat) : Nat :=
  if (m.piece i).kind = 2 then
    match ((List.range count).map (first + ·)).find? fun j => decide (i < j) && (m.piece j).kind != 2 with
    | some j => (m.region (m.piece j).w).cols + 2 * m.kvWidth
    | none => 3 * m.kvWidth
  else (m.region (m.piece i).w).cols

/-- The adapter pair of a variant at a piece: its regions A and B (Table 11.2). -/
def Model.pairOf (m : Model) (v i : Nat) : Option (Nat × Nat) :=
  (m.indices.find? fun r => (m.region r).flags.getLsbD 2 && (m.region r).variant == v && (m.region r).piece == i).map fun r =>
    let first := ((m.variants.find? fun x => decide (x.first ≤ r ∧ r < x.first + x.count)).map (·.first)).getD 0
    (r, first + (m.region r).twin)

/-- Region of each logical expert of an EXPERTS piece for rows of a variant (R463). -/
def Model.expertRegions (m : Model) (v i : Nat) : List Nat :=
  let q := m.piece i
  let own := ((m.variant? v).map (·.route)).getD []
  let table := if own.isEmpty && v == 0 then m.route else own
  (List.range q.experts).map fun e => ((table[e]?).map (·.toNat)).getD (q.w + e)

/-! ## Programs of firmware's own -/

/-- A node word: operation and sources. -/
def nodeWord (op a b : Nat) : Nat := op * 2 ^ 58 + a * 2 ^ 48 + b * 2 ^ 40 + 0x38 * 2 ^ 32

/-- Image of a one-sweep program whose output is its last node. -/
def ownProg (nodes inFmt : List Nat) (word : Nat) (consts : List Word) : List Byte :=
  [1, BitVec.ofNat 8 nodes.length, BitVec.ofNat 8 inFmt.length, 1, BitVec.ofNat 8 consts.length, 1, 0, 0] ++ leBytes 8 0
  ++ ((List.range 8).flatMap fun i => leBytes 1 (inFmt.getD i 0)) ++ leBytes 4 (nodes.length - 1) ++ leBytes 2 word
  ++ List.replicate 34 0 ++ nodes.flatMap (leBytes 8) ++ consts.flatMap fun c => leBytes 4 c.toNat

/-- Input 0 times a constant. -/
def scaleProg (fmt word : Nat) (c : Word) : List Byte := ownProg [nodeWord 0x02 0x20 0x28] [fmt] word [c]

/-- The sum of the inputs in order; of one input, itself. -/
def addProg (inFmt : List Nat) (word : Nat) : List Byte :=
  let nodes := match inFmt.length with
    | 0 | 1 => [nodeWord 0x0A 0x20 0x38]
    | n + 2 => nodeWord 0x01 0x20 0x21 :: (List.range n).map fun i => nodeWord 0x01 i (0x22 + i)
  ownProg nodes inFmt word []

/-- An image with another NARROW word for output 0. -/
def setOut0 (img : List Byte) (word : Nat) : List Byte := img.take 28 ++ leBytes 2 word ++ img.drop 30

/-- An image run on rows of n elements: each input takes the format of its operand. -/
def runProg (w : Work) (img : List Byte) (n : Nat) (inFmt : List Nat) (ins dsts : List Opnd) : Work :=
  let q := progOf img
  { w with prog := img, rowLen := n, inFmt := inFmt, outs := List.range q.outputs, consts := runConsts q [], ins := ins
           dsts := dsts }

/-! ## The plan -/

/-- Rows of values: an operand, and the elements of a row. -/
structure Act where
  o : Opnd
  cols : Nat
  deriving DecidableEq, Repr

/-- What the pieces of a range are run on: a pass, or a step. -/
structure PlanCtx where
  n : Nat
  m : Model
  rows : Nat
  first : Nat
  count : Nat
  /-- NARROW word of a pass's activations; none in a step -/
  word : Option Nat
  /-- the rows that enter the range -/
  inp : Act
  entries : List LenEntry
  /-- SAVE, in a forward pass -/
  save : Option Nat
  /-- variants with their rows -/
  groups : List (Nat × List Nat)
  /-- the pool of a step, and the pages of each entry -/
  pool : Option Pool
  pages : List (List Nat)
  /-- where the rows that leave the range go; none: they stay in the scratch memory -/
  outVa : Option Nat
  /-- by piece of the range: split by columns, and the end of a stage -/
  split : List Bool
  ends : List Bool

/-- The works so far, each with its piece. -/
structure Plan where
  works : List (Nat × Work)
  /-- first free byte of the command's scratch memory -/
  top : Nat
  /-- output of each piece; in a backward pass a share of the gradient of its output -/
  outs : List (Nat × Act)
  /-- ranges that hold free bytes: rows of which the spec states no values -/
  fills : List (Nat × Nat × Nat)
  /-- rows of ones -/
  ones : List (Opnd × Nat)
  /-- words to set in the scratch memory -/
  words : List (Nat × Nat)
  /-- where the choice of experts lies, and experts chosen per row -/
  choice : Option (Opnd × Nat)
  deriving DecidableEq, Repr

/-- An empty plan over a command's scratch memory. -/
def Plan.start (base : Nat) : Plan := { works := [], top := base, outs := [], fills := [], ones := [], words := [], choice := none }

/-- Rows in the scratch memory. -/
def Plan.alloc (a : Plan) (fmt rows cols : Nat) : Opnd × Plan :=
  (denseOpnd scratchVi a.top fmt rows cols, { a with top := a.top + denseBytes fmt rows cols })

/-- Fill rows with free values. -/
def Plan.fill (a : Plan) (o : Opnd) (rows cols : Nat) : Plan :=
  { a with fills := a.fills ++ [(o.vi, o.base, rows * plane1Bytes o.fmt cols)]
      ++ if plane2Bytes o.fmt cols = 0 then [] else [(o.vi, o.plane2, rows * plane2Bytes o.fmt cols)] }

/-- Rows of free values in the scratch memory. -/
def Plan.free (a : Plan) (fmt rows cols : Nat) : Opnd × Plan :=
  let x := a.alloc fmt rows cols
  (x.1, x.2.fill x.1 rows cols)

/-- Add a work of a piece. -/
def Plan.push (a : Plan) (i : Nat) (w : Work) : Plan := { a with works := a.works ++ [(i, w)] }

/-- Copies that end the last work. -/
def Plan.copyLast (a : Plan) (l : List (Opnd × Opnd × Nat)) : Plan :=
  match a.works.getLast? with
  | some e => { a with works := a.works.dropLast ++ [(e.1, { e.2 with copies := e.2.copies ++ l })] }
  | none => a

/-- Note the output of a piece. -/
def Plan.out (a : Plan) (i : Nat) (x : Act) : Plan := { a with outs := a.outs ++ [(i, x)] }

/-- Both planes of rows one after another, as byte copies. -/
def rowCopies (src dst : Opnd) (rows cols : Nat) : List (Opnd × Opnd × Nat) :=
  let f := src.fmt
  (src, dst, rows * plane1Bytes f cols)
  :: (if plane2Bytes f cols = 0 then []
      else [({ src with base := src.plane2 }, { dst with base := dst.plane2 }, rows * plane2Bytes f cols)])

/-! ## SAVE (R373) -/

/-- The epilogue program of a piece. -/
def Model.fwdProg (m : Model) (i : Nat) : Option (List Byte) := m.programs[(m.piece i).fwd]?

/-- Elements of a row of output j of a program over rows of n. -/
def Prog.outCols (p : Prog) (j n : Nat) : Nat :=
  if p.outSrc.getD j 0 < 128 then n
  else match p.nodes[p.outSrc.getD j 0 % 32]? with | some x => if x.aux / 8 % 2 = 1 then cdiv n 256 else 1 | none => 1

/-- Formats that the output of a piece can have in a pass: the activations', or its program's. -/
def Model.outFmts (m : Model) (act : Nat) (i : Option Nat) : List Nat :=
  act :: (match i.bind m.fwdProg with | some b => [(progOf b).outNarrow.getD 0 0 % 256] | none => [])

/-- Room for rows in any of some formats. -/
def roomFor (fmts : List Nat) (rows cols : Nat) : Nat := (fmts.map fun f => denseBytes f rows cols).foldl max 0

/-- Sizes of what a piece saves: X and outputs 0 to 3; of an attention Q, K, V, O and its statistics, or Q, K and V side by
side in the first. -/
def Model.slotSizes (m : Model) (first count act rows i : Nat) : List Nat :=
  let q := m.piece i
  if q.kind = 2 then
    let w := m.inCols first count i
    let three := decide (first + 3 ≤ i) && m.triple (i - 3)
    let h := if three then m.cols (i - 3) else if first < i then m.cols (i - 1) - 2 * m.kvWidth else w - 2 * m.kvWidth
    let f (j : Nat) : List Nat := m.outFmts act (if first < i then some j else none)
    (if three then [roomFor (f (i - 3)) rows h, roomFor (f (i - 2)) rows m.kvWidth, roomFor (f (i - 1)) rows m.kvWidth]
     else [roomFor (f (i - 1)) rows (h + 2 * m.kvWidth), 0, 0])
    ++ [denseBytes act rows h, cdiv (rows * (h / max 1 m.headDim) * 8) 64 * 64]
  else
    let p := (m.fwdProg i).map progOf
    roomFor (m.outFmts act (m.srcOf first i)) rows (m.inCols first count i)
    :: (List.range 4).map fun j =>
      match p with
      | some p =>
        if q.save.getLsbD j ∧ j < p.outputs then
          roomFor (if j = 0 then m.outFmts act (some i) else [p.outNarrow.getD j 0 % 256]) rows (p.outCols j (m.cols i))
        else 0
      | none => 0

/-- Where slot j of piece i lies from SAVE on. -/
def Model.slotAt (m : Model) (first count act rows i j : Nat) : Nat :=
  ((List.range (i - first)).map fun k => (m.slotSizes first count act rows (first + k)).sum).sum
  + ((m.slotSizes first count act rows i).take j).sum

/-- Bytes of SAVE that a microbatch needs (R369). -/
def Model.saveBytes (m : Model) (first count act rows : Nat) : Nat :=
  ((List.range count).map fun k => (m.slotSizes first count act rows (first + k)).sum).sum

/-- Slot j of a piece as an operand. -/
def PlanCtx.slot (c : PlanCtx) (base i j fmt cols : Nat) : Opnd :=
  denseOpnd c.n (base + c.m.slotAt c.first c.count (c.word.getD 0 % 256) c.rows i j) fmt c.rows cols

/-! ## Forward (R375, R460 to R464) -/

/-- The rows that a piece reads. -/
def PlanCtx.input (c : PlanCtx) (a : Plan) (i : Nat) : Act :=
  match c.m.srcOf c.first i with
  | none => c.inp
  | some j => ((a.outs.find? fun e => e.1 == j).map (·.2)).getD c.inp

/-- The last piece of the range. -/
def PlanCtx.last (c : PlanCtx) (i : Nat) : Bool := i + 1 == c.first + c.count

/-- Format in which a step's piece without a program hands its rows on: that of the weights that read them, of K or V before an
attention, else FP32. -/
def PlanCtx.readFmt (c : PlanCtx) (i : Nat) : Nat :=
  let near (k : Nat) : Bool := decide (c.first + k ≤ i) && c.m.triple (i - k)
  if c.last i || (c.m.piece i).kind == 3 then 1
  else if near 0 || near 1 then c.m.fmtK
  else if near 2 then c.m.fmtV
  else if (c.m.piece (i + 1)).kind = 2 then c.m.fmtK
  else (c.m.region (c.m.piece (i + 1)).w).fmt

/-- Room for the output of a piece: of the last one where OUT lies. -/
def PlanCtx.room (c : PlanCtx) (i fmt cols : Nat) (a : Plan) : Opnd × Plan :=
  match c.outVa, c.last i with
  | some va, true => (denseOpnd c.n va fmt c.rows cols, a)
  | _, _ => a.alloc fmt c.rows cols

/-- NARROW word of a piece's output (Table 10.2): of the activations at the end of a stage and without a program. -/
def PlanCtx.outWord (c : PlanCtx) (i : Nat) (p : Option Prog) : Nat :=
  let own := p.map fun p => p.outNarrow.getD 0 0
  match c.word with
  | none => own.getD (c.readFmt i)
  | some w => if (c.m.piece i).kind = 3 then own.getD 1 else if c.ends.getD (i - c.first) false || c.last i then w else own.getD w

/-- The product belongs to a command of class 0x03 (R246). -/
def PlanCtx.class3 (c : PlanCtx) : Bool := c.word.isNone

/-- Place of a product of some rows, its W at an address (R246). -/
def PlanCtx.useMvp (c : PlanCtx) (s : State) (rows va : Nat) : Bool := Machine.useMvp 0 rows (s.outsideSram c.n va) c.class3

/-- Broadcast input 1 of a piece's program: its BIAS (Table 11.3). Of further inputs the spec names no source: free values. -/
def PlanCtx.sideInputs (c : PlanCtx) (s : State) (i : Nat) (p : Prog) (n : Nat) (a : Plan) : List Opnd × Plan :=
  ((List.range p.inputs).drop 1).foldl (fun (x : List Opnd × Plan) j =>
    let b := (c.m.piece i).bias
    if j = 1 ∧ b ≠ 0xFFFF then (x.1 ++ [(s.regionOpnd c.n c.m b).broadcast], x.2)
    else
      let y := x.2.free (p.inFmt.getD j 1) 1 n
      (x.1 ++ [y.1.broadcast], y.2)) ([], a)

/-- Where the outputs of a piece's program go: output 0 on to the next piece, saved outputs into SAVE. -/
def PlanCtx.outputs (c : PlanCtx) (i : Nat) (p : Prog) (word n : Nat) (a : Plan) : List Opnd × Plan :=
  (List.range p.outputs).foldl (fun (x : List Opnd × Plan) j =>
    let fmt := (if j = 0 then word else p.outNarrow.getD j 0) % 256
    match c.save, j != 0 && (c.m.piece i).save.getLsbD j with
    | some b, true => (x.1 ++ [c.slot b i (1 + j) fmt (p.outCols j n)], x.2)
    | _, _ =>
      let y := if j = 0 then c.room i fmt (p.outCols j n) x.2 else x.2.alloc fmt c.rows (p.outCols j n)
      (x.1 ++ [y.1], y.2)) ([], a)

/-- What a piece saves when its last work ends: X, and output 0. -/
def PlanCtx.saved (c : PlanCtx) (i : Nat) (x y : Act) (a : Plan) : Plan :=
  match c.save with
  | none => a
  | some b =>
    a.copyLast (rowCopies x.o (c.slot b i 0 x.o.fmt x.cols) c.rows x.cols
      ++ (if (c.m.piece i).save.getLsbD 0 ∧ (c.m.fwdProg i).isSome then
            rowCopies y.o (c.slot b i 1 y.o.fmt y.cols) c.rows y.cols else []))

/-- A product, or a sum of experts, of n columns with its epilogue: in one work, or in rows after it where the piece is split or
the program has two sweeps or no drain. -/
def PlanCtx.finish (c : PlanCtx) (s : State) (i n : Nat) (x : Act) (w : Work) (a : Plan) : Plan :=
  match c.m.fwdProg i with
  | none =>
    let word := c.outWord i none
    let y := c.room i (word % 256) n a
    let out : Act := { o := y.1, cols := n }
    c.saved i x out ((y.2.push i { w with y := y.1, word := word }).out i out)
  | some img0 =>
    let p := progOf img0
    let word := c.outWord i (some p)
    let img := setOut0 img0 word
    let side := c.sideInputs s i p n a
    let dst := c.outputs i p word n side.2
    let drain := p.inFmt.getD 0 1
    let out : Act := { o := dst.1.headD {}, cols := p.outCols 0 n }
    let a1 :=
      if w.kind = .experts ∨ (p.sweeps = 1 ∧ p.inputs ≠ 0 ∧ !(c.split.getD (i - c.first) false)) then
        dst.2.push i { runProg w img n (drain :: side.1.map (·.fmt)) side.1 dst.1 with word := drain }
      else
        let z := dst.2.alloc drain c.rows n
        let ins := if p.inputs = 0 then [] else z.1 :: side.1
        (z.2.push i { w with y := z.1, word := drain }).push i
          (runProg { kind := .rows, rows := c.rows } img n (ins.map (·.fmt)) ins dst.1)
    c.saved i x out (a1.out i out)

/-- The adapters of a piece: U = α × (X · A) as a product of its own for each variant with an adapter there (R460, R462). -/
def PlanCtx.adapters (c : PlanCtx) (s : State) (i : Nat) (x : Act) (a : Plan) : List AdapterW × Plan :=
  let groups := (0, List.range c.rows) :: c.groups.filter (·.1 != 0)
  groups.foldl (fun (y : List AdapterW × Plan) g =>
    match c.m.pairOf g.1 i with
    | none => y
    | some pr =>
      let r := c.m.region pr.1
      let w := s.regionOpnd c.n c.m pr.1
      let u := y.2.alloc r.fmt g.2.length r.rows
      let work : Work :=
        { kind := .product, m := g.2.length, n := r.rows, k := r.cols, x := { x.o with pick := g.2 }, w := w, word := 1
          mvp := c.useMvp s g.2.length w.base }
      (y.1 ++ [{ u := u.1, b := s.regionOpnd c.n c.m pr.2, rank := r.rows, rows := g.2 }],
       u.2.push i (runProg work (scaleProg 1 r.fmt r.alpha) r.rows [1] [] [u.1]))) ([], a)

/-- The physical experts of an EXPERTS piece over all variants with rows (R463). -/
def PlanCtx.physical (c : PlanCtx) (i : Nat) : List Nat := (c.groups.flatMap fun g => c.m.expertRegions g.1 i).eraseDups

/-- For the rows of each variant, the place of each logical expert among the physical ones. -/
def PlanCtx.expertTables (c : PlanCtx) (i : Nat) : List (List Nat × List Nat) :=
  let ph := c.physical i
  c.groups.map fun g => (g.2, (c.m.expertRegions g.1 i).map fun r => ph.findIdx (· == r))

/-- A PRODUCT or ROUTER piece. -/
def PlanCtx.product (c : PlanCtx) (s : State) (i : Nat) (a : Plan) : Plan :=
  let q := c.m.piece i
  let r := c.m.region q.w
  let x := c.input a i
  let ad := if q.kind = 1 then c.adapters s i x a else ([], a)
  let w := s.regionOpnd c.n c.m q.w
  let a1 := c.finish s i r.rows x
    { kind := .product, m := c.rows, n := r.rows, k := r.cols, x := x.o, w := w, adds := ad.1, mvp := c.useMvp s c.rows w.base } ad.2
  if q.kind ≠ 3 then a1
  else
    let y := ((a1.outs.getLast?).map (·.2)).getD x
    let b : Opnd := { vi := scratchVi, base := a1.top }
    let a2 := { a1 with top := a1.top + cdiv (c.rows * q.topK * 8) 64 * 64, choice := some (b, q.topK) }
    a2.push i { kind := .route, m := c.rows, n := y.cols, k := q.topK, x := y.o, y := b
                tables := if (c.m.piece (i + 1)).kind = 4 then c.expertTables (i + 1) else [] }

/-- A choice of experts that no ROUTER of the range makes: free values, one expert a row. -/
def freeChoice (rows count : Nat) (s : State) (a : Plan) : Plan :=
  let b : Opnd := { vi := scratchVi, base := a.top }
  { a with top := a.top + cdiv (rows * 8) 64 * 64, choice := some (b, 1)
           fills := a.fills ++ (List.range rows).map fun r => (scratchVi, a.top + 8 * r + 4, 4)
           words := a.words ++ (List.range rows).map fun r =>
             (a.top + 8 * r, leNat [Config.freeByte s.fresh (2 * r), Config.freeByte s.fresh (2 * r + 1)] % max 1 count) }

/-- An EXPERTS piece: a product for each physical expert on the rows that reach it, then their weighted sum (R463, R464). -/
def PlanCtx.experts (c : PlanCtx) (s : State) (i : Nat) (a : Plan) : Plan :=
  let ph := c.physical i
  let x := c.input a i
  let n := c.m.cols i
  let a0 := if a.choice.isSome ∧ c.first < i ∧ (c.m.piece (i - 1)).kind = 3 then a else freeChoice c.rows ph.length s a
  let ch := a0.choice.getD ({}, 1)
  let a1 := (ph.zip (List.range ph.length)).foldl (fun (y : List Opnd × Plan) e =>
    let w := s.regionOpnd c.n c.m e.1
    let o := y.2.alloc 1 c.rows n
    (y.1 ++ [o.1], o.2.push i
      { kind := .product, m := c.rows, n := n, k := (c.m.region e.1).cols, x := x.o, w := w, y := o.1, word := 1
        mvp := c.useMvp s c.rows w.base, gate := some (ch.1, ch.2, e.2) })) ([], a0)
  -- the outputs stand before the inputs of the epilogue
  let w : Work := { kind := .experts, m := c.rows, n := n, gate := some (ch.1, ch.2, 0), parts := a1.1 }
  c.finish s i n x w a1.2

/-- K and V of a layer of a pool (R317), in pages. -/
def State.poolOpnds (s : State) (n : Nat) (q : Pool) (layer : Nat) : Opnd × Opnd :=
  let g := s.kvGeo n q
  let base := layer * (g.bk + g.bv)
  ({ vi := n, base := base, stride := g.k, fmt := s.cb n q 1 1, pt := s.kvPt n q },
   { vi := n, base := base + g.bk, stride := g.v, fmt := s.cb n q 2 1, pt := s.kvPt n q })

/-- Q, K and V of an attention, and the columns of Q. -/
def PlanCtx.qkv (c : PlanCtx) (a : Plan) (i : Nat) : Opnd × Opnd × Opnd × Nat :=
  let get (j : Nat) : Act := ((a.outs.find? fun e => e.1 == j).map (·.2)).getD c.inp
  let kv := c.m.kvWidth
  if c.first + 3 ≤ i ∧ c.m.triple (i - 3) then ((get (i - 3)).o, (get (i - 2)).o, (get (i - 1)).o, (get (i - 3)).cols)
  else
    let p := if c.first < i then get (i - 1) else c.inp
    let h := p.cols - 2 * kv
    (p.o, p.o.shift h, p.o.shift (h + kv), h)

/-- An attention of a model (Table 11.3, R375). -/
def PlanCtx.attnW (c : PlanCtx) (i qCols : Nat) (q k v : Opnd) : AttnW :=
  let x := c.m.piece i
  { heads := qCols / max 1 c.m.headDim, kvHeads := max 1 c.m.kvHeads, dim := c.m.headDim
    fpv := if kvFmt c.m.fmtV then c.m.fmtV else v.fmt, causal := x.flags.getLsbD 0, scale := x.scale, window := x.window
    entries := c.entries, q := q, k := k, v := v }

/-- An ATTENTION piece. A step's reads K and V from the pool; they are first written there from the work's own X and W. -/
def PlanCtx.attention (c : PlanCtx) (s : State) (i : Nat) (a : Plan) : Plan :=
  let y := c.qkv a i
  let word := match c.word with | some w => w | none => c.readFmt i
  let room := c.room i (word % 256) y.2.2.2 a
  -- rows of no entry are not written
  let o := if (c.entries.map (·.qLen)).sum < c.rows then (room.1, room.2.fill room.1 c.rows y.2.2.2) else room
  let out : Act := { o := o.1, cols := y.2.2.2 }
  let kv := match c.pool with
    | some q => s.poolOpnds c.n q (c.m.piece i).layer
    | none => (y.2.1, y.2.2.1)
  let at_ : AttnW := { c.attnW i y.2.2.2 y.1 kv.1 kv.2 with word := word, pages := c.pages, o := o.1 }
  let w : Work := { kind := .attn, x := y.2.1, w := y.2.2.1, attn := at_ }
  match c.save with
  | none => (o.2.push i w).out i out
  | some b =>
    let three := decide (c.first + 3 ≤ i) && c.m.triple (i - 3)
    let kvw := c.m.kvWidth
    let copies :=
      if three then
        rowCopies y.1 (c.slot b i 0 y.1.fmt y.2.2.2) c.rows y.2.2.2 ++ rowCopies y.2.1 (c.slot b i 1 y.2.1.fmt kvw) c.rows kvw
        ++ rowCopies y.2.2.1 (c.slot b i 2 y.2.2.1.fmt kvw) c.rows kvw
      else rowCopies y.1 (c.slot b i 0 y.1.fmt (y.2.2.2 + 2 * kvw)) c.rows (y.2.2.2 + 2 * kvw)
    let st : Opnd := { vi := c.n, base := b + c.m.slotAt c.first c.count (word % 256) c.rows i 4 }
    (o.2.push i { w with attn := { at_ with stats := true, st := st }
                         copies := copies ++ rowCopies o.1 (c.slot b i 3 o.1.fmt y.2.2.2) c.rows y.2.2.2 }).out i out

/-- A piece, in the order of the entries. -/
def PlanCtx.forward (c : PlanCtx) (s : State) (a : Plan) (i : Nat) : Plan :=
  match (c.m.piece i).kind with
  | 1 | 3 => c.product s i a
  | 2 => c.attention s i a
  | 4 => c.experts s i a
  | _ => a

/-- The forward works of a range. -/
def PlanCtx.forwardAll (c : PlanCtx) (s : State) (a : Plan) : Plan :=
  ((List.range c.count).map (c.first + ·)).foldl (c.forward s) a

/-- Formats in which the pieces of the range read their X. -/
def PlanCtx.xFmts (c : PlanCtx) (a : Plan) : List Nat := (List.range c.count).map fun k => (c.input a (c.first + k)).o.fmt

/-! ## Backward (R377 to R384) -/

/-- What a backward pass adds. -/
structure BwdCtx where
  c : PlanCtx
  /-- VERSION of the pass -/
  version : Nat
  /-- DX_NARROW and GACC_NARROW -/
  dx : Nat
  gw : Nat
  noDx : Bool
  gacc : Nat
  /-- no PASS_BWD of the step was dispatched before -/
  isFirst : Bool
  /-- SAVE, with the range and activations of the forward pass, and the formats of X that it saved -/
  save : Nat
  from_ : PlanCtx
  fmts : List Nat
  /-- the rows of OUT -/
  out : Act

/-- Parameter tensors of the range in piece order, with their sizes (R384, R433). -/
def Model.tensors (m : Model) (first count size : Nat) : List (Nat × Nat) :=
  ((List.range count).map (first + ·)).flatMap fun i =>
    (m.indices.filter fun r =>
      let e := m.region r
      e.variant == 0 && e.piece == i && !e.fixed && !(e.flags.getLsbD 1)).map fun r => (r, (m.region r).rows * (m.region r).cols * size)

/-- Bytes of an element of G. -/
def BwdCtx.gSize (b : BwdCtx) : Nat := elemBits (b.gw % 256) / 8

/-- The gradient tensor of a region in G. -/
def BwdCtx.grad (b : BwdCtx) (r : Nat) : Option Opnd :=
  let l := b.c.m.tensors b.c.first b.c.count b.gSize
  if l.any fun e => e.1 == r then
    some (denseOpnd b.c.n (b.gacc + ((l.takeWhile fun e => e.1 != r).map (·.2)).sum) (b.gw % 256) (b.c.m.region r).rows
      (b.c.m.region r).cols)
  else none

/-- Saved slot j of a piece. -/
def BwdCtx.slot (b : BwdCtx) (i j fmt cols : Nat) : Opnd := b.from_.slot b.save i j fmt cols

/-- The gradient of a piece's output: IN for the last piece, else the sum of what its readers gave; free values where there are
none. -/
def BwdCtx.gradOf (b : BwdCtx) (i : Nat) (cols : Nat) (a : Plan) : Act × Plan :=
  if b.c.last i then (b.c.inp, a)
  else
    match (a.outs.filter fun e => e.1 == i).map (·.2) with
    | [] => let x := a.free (b.dx % 256) b.c.rows cols; ({ o := x.1, cols := cols }, x.2)
    | [x] => (x, a)
    | l =>
      let y := a.alloc (b.dx % 256) b.c.rows cols
      let ins := l.map (·.o)
      ({ o := y.1, cols := cols }, y.2.push i
        (runProg { kind := .rows, rows := b.c.rows } (addProg (ins.map (·.fmt)) b.dx) cols (ins.map (·.fmt)) ins [y.1]))

/-- Where dX of a piece goes: to OUT, or into the scratch memory. -/
def BwdCtx.dxTo (b : BwdCtx) (i cols : Nat) (a : Plan) : Act × Plan :=
  if b.c.m.srcOf b.c.first i = none ∧ (b.c.m.sharers b.c.first b.c.count i).length ≤ 1 then (b.out, a)
  else let y := a.alloc (b.dx % 256) b.c.rows cols; ({ o := y.1, cols := cols }, y.2)

/-- Note dX of a piece as a share of the gradient that its source's output has; number 65,536 stands for the rows that enter the
range. -/
def BwdCtx.give (b : BwdCtx) (i : Nat) (x : Act) (a : Plan) : Plan := a.out ((b.c.m.srcOf b.c.first i).getD 65536) x

/-- A product added into a gradient tensor in FP32 by a Braid tile (R379, R382, R384). -/
def BwdCtx.addInto (b : BwdCtx) (i : Nat) (w : Work) (g : Opnd) (a : Plan) : Plan :=
  let f := g.fmt
  a.push i (if b.isFirst then runProg { w with word := 1, grad := true } (addProg [1] b.gw) w.n [1] [] [g]
    else runProg { w with word := 1, grad := true } (addProg [1, f] b.gw) w.n [1, f] [g] [g])

/-- Work 1: the backward epilogue program on dY and the saved outputs; answers dZ and the per-row gradient of BIAS. -/
def BwdCtx.epilogue (b : BwdCtx) (i : Nat) (dy : Act) (a : Plan) : Act × Option Opnd × Plan :=
  let q := b.c.m.piece i
  let n := b.c.m.cols i
  match b.c.m.programs[q.bwd]? with
  | none => (dy, none, a)
  | some img0 =>
    let p := progOf img0
    let img := setOut0 img0 b.dx
    let f := (b.c.m.fwdProg i).map progOf
    let saved : List Opnd := match f with
      | some f => ((List.range f.outputs).filter fun j => q.save.getLsbD j).map fun j =>
          let fmt := if j = 0 then (if b.from_.ends.getD (i - b.from_.first) false || b.from_.last i then b.from_.word.getD 1
            else f.outNarrow.getD 0 0) else f.outNarrow.getD j 0
          b.slot i (1 + j) (fmt % 256) (f.outCols j n)
      | none => []
    let side := ((List.range p.inputs).drop (1 + saved.length)).foldl (fun (x : List Opnd × Plan) j =>
      let y := x.2.free (p.inFmt.getD j 1) b.c.rows n
      (x.1 ++ [y.1], y.2)) ([], a)
    let ins := (dy.o :: (saved ++ side.1)).take p.inputs
    let outs := (List.range p.outputs).foldl (fun (x : List Opnd × Plan) j =>
      let y := x.2.alloc ((if j = 0 then b.dx else p.outNarrow.getD j 0) % 256) b.c.rows (p.outCols j n)
      (x.1 ++ [y.1], y.2)) ([], side.2)
    ({ o := outs.1.headD {}, cols := n }, outs.1[1]?,
     outs.2.push i (runProg { kind := .rows, rows := b.c.rows } img n (ins.map (·.fmt)) ins outs.1))

/-- Work 2: dX = dZ · Wᵀ, with Wᵀ from the pre-transposed copy or through the turn buffer (Table 10.6). -/
def BwdCtx.dxWork (b : BwdCtx) (s : State) (i : Nat) (dz : Act) (a : Plan) : Plan :=
  let q := b.c.m.piece i
  let r := b.c.m.region q.w
  if b.noDx ∧ i = b.c.first then a
  else
    let y := b.dxTo i r.cols a
    let copy := q.wt ≠ 0xFFFF ∧ (s.wrongTag b.c.n b.c.m b.version [q.wt]).isNone
    let w := if copy then s.regionOpnd b.c.n b.c.m q.wt else { s.regionOpnd b.c.n b.c.m q.w with outer := true }
    b.give i y.1 (y.2.push i
      { kind := .product, m := b.c.rows, n := r.cols, k := r.rows, x := dz.o, w := w, y := y.1.o, word := b.dx, grad := true
        mvp := useMvp 0 b.c.rows (s.outsideSram b.c.n w.base) false })

/-- Work 3: dW = Xᵀ · dZ, added into the gradient of W; rows of dW run over K. -/
def BwdCtx.dwWork (b : BwdCtx) (i : Nat) (dz : Act) (a : Plan) : Plan :=
  let q := b.c.m.piece i
  let r := b.c.m.region q.w
  match b.grad q.w with
  | none => a
  | some g =>
    let f := b.fmts.getD (i - b.from_.first) (b.from_.word.getD 1 % 256)
    b.addInto i { kind := .product, m := r.cols, n := r.rows, k := b.c.rows, x := { b.slot i 0 f r.cols with outer := true }
                  w := { dz.o with outer := true } } { g with outer := true } a

/-- The gradient of BIAS: a row of ones times its per-row gradient, on the matrix-vector path (R379). -/
def BwdCtx.biasWork (b : BwdCtx) (i : Nat) (rowGrad : Option Opnd) (a : Plan) : Plan :=
  let q := b.c.m.piece i
  match rowGrad, if q.bias = 0xFFFF then none else b.grad q.bias with
  | some d, some g =>
    let o := a.alloc d.fmt 1 b.c.rows
    b.addInto i { kind := .product, m := 1, n := (b.c.m.region q.bias).cols, k := b.c.rows, x := o.1, w := { d with outer := true }
                  mvp := true } g { o.2 with ones := o.2.ones ++ [(o.1, b.c.rows)] }
  | _, _ => a

/-- The attention of a backward pass, on the state in SAVE (R388). -/
def BwdCtx.attention (b : BwdCtx) (i : Nat) (a : Plan) : Plan :=
  let m := b.c.m
  let kv := m.kvWidth
  let three := decide (b.from_.first + 3 ≤ i) && m.triple (i - 3)
  let h := if three then m.cols (i - 3) else if b.c.first < i then m.cols (i - 1) - 2 * kv else m.inCols b.c.first b.c.count i - 2 * kv
  let act := b.from_.word.getD 1 % 256
  let fmt (j : Nat) : Nat :=
    if b.from_.first ≤ j ∧ b.from_.first < i then
      (match m.fwdProg j with
       | some p => if b.from_.ends.getD (j - b.from_.first) false then act else (progOf p).outNarrow.getD 0 0 % 256
       | none => act)
    else act
  let p := b.slot i 0 (fmt (i - 1)) (h + 2 * kv)
  let q := if three then b.slot i 0 (fmt (i - 3)) h else p
  let k := if three then b.slot i 1 (fmt (i - 2)) kv else p.shift h
  let v := if three then b.slot i 2 (fmt (i - 1)) kv else p.shift (h + kv)
  let dy := b.gradOf i h a
  let f := b.dx % 256
  let st : Opnd := { vi := b.c.n, base := b.save + m.slotAt b.from_.first b.from_.count act b.c.rows i 4 }
  let base : AttnW := { b.c.attnW i h q k v with word := b.dx, wDkv := b.dx, o := b.slot i 3 act h, st := st, dO := dy.1.o }
  let give (j : Nat) (o : Opnd) (cols : Nat) (a : Plan) : Plan := a.out j { o := o, cols := cols }
  if three then
    let dq := dy.2.free f b.c.rows h
    let dk := dq.2.free f b.c.rows kv
    let dv := dk.2.free f b.c.rows kv
    give (i - 1) dv.1 kv (give (i - 2) dk.1 kv (give (i - 3) dq.1 h
      (dv.2.push i { kind := .attnBwd, attn := { base with dq := dq.1, dk := dk.1, dv := dv.1 } })))
  else
    let y := if b.c.m.srcOf b.c.first i = none then (b.out.o, dy.2) else dy.2.free f b.c.rows (h + 2 * kv)
    b.give i { o := y.1, cols := h + 2 * kv } (y.2.push i
      { kind := .attnBwd, attn := { base with dq := y.1, dk := y.1.shift h, dv := y.1.shift (h + kv) } })

/-- One piece of a backward pass (Table 10.5). Of a choice of experts and of EXPERTS the spec states no gradient: free values. -/
def BwdCtx.piece (b : BwdCtx) (s : State) (a : Plan) (i : Nat) : Plan :=
  match (b.c.m.piece i).kind with
  | 1 =>
    let dy := b.gradOf i (b.c.m.cols i) a
    let e := b.epilogue i dy.1 dy.2
    b.biasWork i e.2.1 (b.dwWork i e.1 (b.dxWork s i e.1 e.2.2))
  | 2 => b.attention i a
  | 3 | 4 =>
    if b.noDx ∧ i = b.c.first then a
    else
      let n := b.c.m.inCols b.c.first b.c.count i
      let y := b.dxTo i n a
      b.give i y.1 (y.2.fill y.1.o b.c.rows n)
  | _ => a

/-- The sum of what several pieces give to the rows that enter the range (NO_DX leaves OUT unwritten). -/
def BwdCtx.close (b : BwdCtx) (a : Plan) : Plan :=
  match (a.outs.filter fun e => e.1 == 65536).map (·.2) with
  | [] | [_] => a
  | l =>
    if b.noDx then a
    else
      let ins := l.map (·.o)
      a.push b.c.first (runProg { kind := .rows, rows := b.c.rows } (addProg (ins.map (·.fmt)) b.dx) b.out.cols (ins.map (·.fmt)) ins
        [b.out.o])

/-- Gradient tensors of which the spec states no value: of adapters, routers and experts, and of a broadcast input that no
backward program writes. -/
def BwdCtx.openTensors (b : BwdCtx) (a : Plan) : List (Nat × Nat × Nat) :=
  (b.c.m.tensors b.c.first b.c.count b.gSize).filterMap fun e =>
    match b.grad e.1 with
    | some g => if a.works.any fun w => w.2.grad && w.2.dsts.any fun d => d.base == g.base then none else some (b.c.n, g.base, e.2)
    | none => none

/-- The backward works of a range, in reverse model order. -/
def BwdCtx.backward (b : BwdCtx) (s : State) (a : Plan) : Plan :=
  let y := b.close ((((List.range b.c.count).map (b.c.first + ·)).reverse).foldl (b.piece s) a)
  { y with fills := y.fills ++ b.openTensors y }

/-! ## Stages (R266, R267) -/

/-- Firmware's estimate of a tile, in sixteenths of an arithmetic cycle (R248, R196). -/
def State.tileCost (s : State) (w : Work) (t : Tile) : Nat :=
  let k := s.costOf w
  let dim := w.attn.dim
  let n := match t.kind with
    | 9 => cdiv dim 128
    | 11 => cdiv dim 256
    | 13 => 2 * cdiv dim 128
    | _ => cdiv dim 256 * (1 + 2 * cdiv t.rows 128)
  match t.unit with
  | .arrays => 16 * k.cycles t.rows (if t.kind = 0 then t.passes else n)
  | .mvp =>
    let macs := if t.kind = 1 then t.kLen * t.passes else n * 128 * 256
    16 * (64 + cdiv macs (((pairRates w.x.fmt w.w.fmt).map (·.2)).getD 64))
  | .braid => s.clockStep * braidCycles w t

/-- Cost of a piece for a microbatch. -/
def State.pieceCost (s : State) (a : Plan) (i : Nat) : Nat :=
  (((a.works.filter fun e => e.1 == i).map (·.2)).map fun w =>
    ((s.tilesOf { vi := 0, sq := 0, seq := 0 } 0 (s.planWork w) [(0, 0)]).map (s.tileCost w)).sum).sum

/-- Parts of a piece of `nb` blocks: the fewest equal ones within a share (R266). -/
def partCount (cost share nb : Nat) : Nat :=
  ((List.range nb).find? fun p => decide (cdiv (cost * cdiv nb (p + 1)) (max 1 nb) ≤ share)).getD (nb - 1) + 1

/-- The parts of the pieces, in order: piece, blocks and cost. -/
def partsOf (blocks costs : List Nat) (cores : Nat) : List (Nat × Nat × Nat) :=
  let share := costs.sum / max 1 cores
  (List.range costs.length).flatMap fun i =>
    let c := costs.getD i 0
    let nb := blocks.getD i 1
    let p := if c ≤ share ∨ nb ≤ 1 then 1 else partCount c share nb
    (List.range p).map fun j => let d := dealt nb p j; (i, d.2, cdiv (c * d.2) (max 1 nb))

/-- Stages that a list of costs takes, none above a bound. -/
def stagesNeeded (bound : Nat) : List Nat → Nat → Nat
  | [], cur => if cur = 0 then 0 else 1
  | c :: cs, cur => if cur + c ≤ bound ∨ cur = 0 then stagesNeeded bound cs (cur + c) else 1 + stagesNeeded bound cs c

/-- The least largest-stage cost of a cut into at most `cores` stages. -/
def leastBound (costs : List Nat) (cores : Nat) : Nat :=
  let sums := (List.range costs.length).flatMap fun i =>
    ((costs.drop i).foldl (fun (l : List Nat × Nat) c => (l.1 ++ [l.2 + c], l.2 + c)) ([], 0)).1
  let top := costs.foldl max 0
  (sums.filter fun b => decide (top ≤ b) && decide (stagesNeeded b costs 0 ≤ cores)).foldl min costs.sum

/-- Sizes of the stages, each cut as early as the rest allows. -/
def earlyCuts (bound : Nat) : Nat → Nat → List Nat → List Nat
  | _, _, [] => []
  | 0, _, l => [l.length]
  | fuel + 1, cores, l =>
    match (List.range l.length).find? fun k => decide (stagesNeeded bound (l.drop (k + 1)) 0 ≤ cores - 1) with
    | some k => (k + 1) :: earlyCuts bound fuel (cores - 1) (l.drop (k + 1))
    | none => [l.length]

/-- Stage of each part. -/
def stageOfParts (costs : List Nat) (cores : Nat) : List Nat :=
  let cuts := earlyCuts (leastBound costs cores) costs.length cores costs
  (cuts.zip (List.range cuts.length)).flatMap fun c => List.replicate c.1 c.2

/-- The core of each 256-column block of each piece of a range, from the costs of its pieces (R266). -/
def State.stageCores (s : State) (blocks costs : List Nat) : List (List (Nat × Nat)) :=
  let parts := partsOf blocks costs s.coreOrder.length
  let st := stageOfParts (parts.map (·.2.2)) s.coreOrder.length
  let l := parts.zip st
  (List.range costs.length).map fun i =>
    (l.filter fun e => e.1.1 == i).flatMap fun e => List.replicate (max 1 e.1.2.1) (s.coreOrder.getD e.2 (0, 0))

/-- Blocks of the pieces of a range. -/
def PlanCtx.blocks (c : PlanCtx) : List Nat :=
  (List.range c.count).map fun k => if (c.m.piece (c.first + k)).kind = 2 then 1 else max 1 (cdiv (c.m.cols (c.first + k)) 256)

/-- A pass with its stages: the cores of its pieces, and where stages end. -/
def PlanCtx.staged (c : PlanCtx) (s : State) (base : Nat) : PlanCtx × List (List (Nat × Nat)) :=
  let a := c.forwardAll s (Plan.start base)
  let cores := s.stageCores c.blocks ((List.range c.count).map fun k => s.pieceCost a (c.first + k))
  let at_ (k : Nat) : List (Nat × Nat) := cores.getD k []
  ({ c with
     split := (List.range c.count).map fun k => (at_ k).eraseDups.length != 1
     ends := (List.range c.count).map fun k => (at_ k).eraseDups.length != 1 || (at_ k).getLast? != (at_ (k + 1)).head? }, cores)

/-- Where the output of a piece waits for the stage of a core: in its SRAM, or in an adjacent hub (R267). -/
def placeOf (bytes : Nat) (core : Nat × Nat) : Nat := if bytes ≤ 8 * 2 ^ 20 then coreIx core.1 core.2 else 306 + ringPos core.1

/-- The tiles of a work of a pass: of a product each block on its part's core, else on the core of the piece's last part. -/
def State.tilesAt (s : State) (k : Key) (wi : Nat) (w : Work) (cores : List (Nat × Nat)) : List Tile :=
  let last := cores.getLastD (0, 0)
  match w.kind with
  | .product =>
    let c := s.cutOf w
    let width := if w.mvp then c.2.1 else 256
    let nb := max 1 (cdiv w.n 256)
    productTiles k wi w c.1 c.2.1 c.2.2 fun _ _ n =>
      if w.epilogue then last else cores.getD (n * width / 256 * cores.length / nb) last
  | _ => s.tilesOf k wi w [last]

end Sys2Proof.Machine
end

