-- ==== Sys2Proof/Machine/Sampler.lean ====
section
/-! DEFINITION. The sampler (R231 to R235 of spec/06_braid_fabric.md), SAMPLE (R313 of spec/08_rollout_generation.md), and
the verification of drafts (R311). -/

namespace Sys2Proof.Machine

open Sys2Proof

/-- The sampling parameter block (Table 6.14). -/
structure Smp where
  temp : Word
  topP : Word
  topK : Nat
  full : Bool
  vocab : Nat
  deriving DecidableEq, Repr

/-- A block from its two parameter words. -/
def smpOf (lo hi : Dword) : Smp :=
  { temp := BitVec.ofNat 32 (bf lo 31 0), topP := BitVec.ofNat 32 (bf lo 63 32), topK := bf hi 15 0
    full := bf hi 23 16 == 1, vocab := bf hi 63 32 }

/-- TEMP is zero: greedy (R232). -/
def Smp.greedy (x : Smp) : Bool := x.temp.toNat % 2 ^ 31 == 0

/-- TOP_P is below 1. -/
def Smp.cuts (x : Smp) : Bool := (rdF x.topP).lt (.fin false 1 0)

/-- A block that Table 6.14 rules out (R84). -/
def Smp.bad (x : Smp) : Bool :=
  x.vocab == 0 || decide (1048576 < x.vocab) || decide (1024 < x.topK)
  || (match rdF x.temp with | .fin a m _ => a && m != 0 | _ => true)
  || !((FVal.zero).lt (rdF x.topP)) || (FVal.fin false 1 0).lt (rdF x.topP)

/-- One token of a row: token ID, logit or scaled logit, weight. -/
structure Tok where
  id : Nat
  z : Word
  e : Word
  deriving DecidableEq, Repr

/-- The included logits of a row with the largest finite value for +Inf (R231 step 1), in token-ID order. -/
def included : Nat → List Word → List (Nat × Word)
  | _, [] => []
  | i, l :: ls =>
    match rdF l with
    | .nan => included (i + 1) ls
    | .inf true => included (i + 1) ls
    | .inf false => (i, 0x7F7FFFFF) :: included (i + 1) ls
    | .fin _ _ _ => (i, l) :: included (i + 1) ls

/-- Place a token in descending z, ascending token ID among equals. -/
def insertTok (x : Tok) : List Tok → List Tok
  | [] => [x]
  | y :: t => if (rdF y.z).lt (rdF x.z) || (!((rdF x.z).lt (rdF y.z)) && decide (x.id < y.id)) then x :: y :: t
    else y :: insertTok x t

/-- Tokens in descending z, ascending token ID among equals. -/
def sortToks (l : List Tok) : List Tok := l.foldr insertTok []

/-- FP32 sum of weights in list order. -/
def sumE (l : List Tok) : Word := l.foldl (fun a x => addF a x.e) 0

/-- The shortest prefix whose running sum reaches a target; the whole list if none does (R231 step 4). -/
def prefixTo (target : Word) : Word → List Tok → List Tok
  | _, [] => []
  | run, x :: t =>
    let r := addF run x.e
    if (rdF r).lt (rdF target) then x :: prefixTo target r t else [x]

/-- The distribution of R231 steps 1 to 4: C in its walk order, with m, S_C and S_full. -/
structure Dist where
  c : List Tok
  m : Word
  sC : Word
  sFull : Word
  deriving DecidableEq, Repr

/-- Steps 1 to 4 over the included logits (TEMP not 0). -/
def distOf (x : Smp) (l : List (Nat × Word)) : Dist :=
  let zs := l.map fun t => (t.1, divF t.2 x.temp)
  let m := match zs with | [] => 0 | z :: t => t.foldl (fun a b => if (rdF a).lt (rdF b.2) then b.2 else a) z.2
  let all := zs.map fun t => ({ id := t.1, z := t.2, e := expW (subF t.2 m) } : Tok)
  let sFull := sumE all
  let k := if 0 < x.topK then (sortToks all).take x.topK else if x.cuts then (sortToks all).take 1024 else all
  let c := if x.cuts then prefixTo (mulF x.topP (if x.topK = 0 then sFull else sumE k)) 0 k else k
  let walk := if c.length = all.length then all else c
  { c := walk, m := m, sC := sumE walk, sFull := sFull }

/-- Walk weights until the running sum exceeds t, or to the last (R231 step 5). -/
def walkTo (t : Word) : Word → List Tok → Option Tok
  | _, [] => none
  | _, [x] => some x
  | run, x :: y :: r =>
    let s := addF run x.e
    if (rdF t).lt (rdF s) then some x else walkTo t s (y :: r)

/-- u = r × 2^−24 (Table 6.13). -/
def uOf (r : Nat) : Word := toF (.fin false r (-24))

/-- NaN as the sampler writes it. -/
abbrev nanF : Word := 0x7FC00000

/-- Log-probability of a token of C (R231 step 6). -/
def logProb (x : Smp) (d : Dist) (t : Tok) : Word := subF (subF t.z d.m) (lnW (if x.full then d.sFull else d.sC))

/-- The greedy choice: the largest logit, the lowest token ID among equals (R232). -/
def greedyTok : List (Nat × Word) → Nat
  | [] => 0xFFFFFFFF
  | h :: t => (t.foldl (fun a b => if (rdF a.2).lt (rdF b.2) then b else a) h).1

/-- One draw from a row of logits (R231 to R233): token and log-probability. -/
def drawTok (x : Smp) (row : List Word) (j : Nat) (g : Gens) : (Nat × Word) × Gens :=
  let l := included 0 row
  if l.isEmpty then ((0xFFFFFFFF, nanF), g)
  else if x.greedy then ((greedyTok l, 0), g)
  else
    let d := distOf x l
    let r := g.draw24 j
    match walkTo (mulF (uOf r.1) d.sC) 0 d.c with
    | some t => ((t.id, logProb x d t), r.2)
    | none => ((0xFFFFFFFF, nanF), r.2)

/-! ## Samplers of the dies (R296, R235, R236) -/

/-- Active dies in the order of R262. -/
def State.dieOrder (s : State) : List Nat := (List.range 8).flatMap fun k => s.activeDies.filter fun d => ringPos d == k

/-- Die whose sampler makes draw i: index i mod D; a fenced sampler's draws go to the next in the order (Table 16.6). -/
def State.samplerOf (s : State) (i : Nat) : Nat :=
  let l := s.dieOrder
  let at_ (k : Nat) : Nat := (l[k % l.length]?).getD 0
  let next := (List.range l.length).find? fun k => !(s.die (at_ (i + k))).smpFenced
  at_ (i + next.getD 0)

/-- Stream of a die's sampler (Table 6.12). -/
def State.samplerStream (s : State) (d : Nat) : Nat := streamIx s.moduleId d 17 0

/-- Cycles of the SELECT stage, and of the FULL stage (Table 6.15). -/
def smpSelect (x : Smp) : Nat := cdiv x.vocab 512 + 24

/-- Most cycles of the stage after SELECT (Table 6.15): CANDIDATE when greedy, FULL when C is every included token by its
settings, else the longer of the two. -/
def smpSecond (x : Smp) : Nat :=
  if x.greedy then 64 else if x.topK = 0 && !x.cuts then smpSelect x else max 400 (smpSelect x)

/-- Count a draw of a die. The sampler is busy for the draw's SELECT stage, and for as much of the stage after it as the SELECT
of a next draw does not overlap (R235); how much is free (notes/assumptions/113.md). -/
def noteDraw (d : Nat) (x : Smp) (noFinite : Bool) (s : State) : State :=
  let busy := smpSelect x + s.freeVal.toNat % (smpSecond x + 1)
  s.nextFree.updDie d fun k =>
    let u := addUnits 1024 k.smpActive k.smpRest busy
    { k with smpDraws := satAdd k.smpDraws 1, smpNofinite := satAdd k.smpNofinite (b2n noFinite), smpActive := u.1
             smpRest := u.2 }

/-- Draw number i of a command of a job: the token and its log-probability. -/
def drawAt (job i : Nat) (x : Smp) (row : List Word) (s : State) : (Nat × Word) × State :=
  let d := s.samplerOf i
  let r := drawTok x row (s.samplerStream d) (s.gens job)
  (r.1, noteDraw d x (r.1.1 == 0xFFFFFFFF) (s.putGens job r.2))

/-- A token record (Table 8.8). -/
def tokBytes (tok : Nat) (lp : Word) (version step flags : Nat) : List Byte :=
  leBytes 4 tok ++ leBytes 4 lp.toNat ++ leBytes 4 version ++ leBytes 2 step ++ leBytes 1 flags ++ leBytes 1 0

/-! ## SAMPLE (R313) -/

/-- Logits of one row: FP32, or BF16 widened. -/
def logitsOf (fmt : Nat) (bs : List Byte) : Nat → List Word
  | 0 => []
  | n + 1 =>
    if fmt = 1 then BitVec.ofNat 32 (leNat (bs.take 4)) :: logitsOf fmt (bs.drop 4) n
    else BitVec.ofNat 32 (leNat (bs.take 2) * 2 ^ 16) :: logitsOf fmt (bs.drop 2) n

/-- Draw the rows from i on. -/
def sampleRows (p : Packet) (x : Smp) : Nat → Nat → State → State × Option MemErr
  | 0, _, s => (s, none)
  | n + 1, i, s =>
    let fmt := bf p.p2 31 24
    match vread p.vi s (p.p1.toNat + i * bf p.p2 63 32) (x.vocab * (if fmt = 1 then 4 else 2)) with
    | .error e => (s, some e)
    | .ok bs =>
      let r := drawAt p.job i x (logitsOf fmt bs x.vocab) s
      let w := vstore p (p.p5.toNat + 16 * i) (tokBytes r.1.1 r.1.2 (bf p.p0 31 0) 0 0) r.2
      match w.2 with
      | some e => (w.1, some e)
      | none => sampleRows p x n (i + 1) w.1

/-- SAMPLE (R313). -/
def effSample (p : Packet) (s : State) : State :=
  let rows := bf p.p0 63 32
  let fmt := bf p.p2 31 24
  let x := smpOf p.p3 p.p4
  if rows = 0 ∨ 1048576 < rows ∨ (fmt ≠ 1 ∧ fmt ≠ 2) ∨ x.bad then postFree p s
  else finishMem p (sampleRows p x rows 0 (markPhase p.job 0 s)) 0 0

/-- SAMPLE (R313). -/
def execSample (p : Packet) (s : State) : Out := submit effSample p s

/-! ## Verification of drafts (R311) -/

/-- A candidate list (R308): tokens with their q. -/
abbrev Cand := List (Nat × Word)

/-- q of a token in a candidate list: 0 where it is not listed. -/
def qOf (l : Cand) (tok : Nat) : Word := ((l.find? fun e => e.1 == tok).map (·.2)).getD 0

/-- p of a token: e / S_C for a token of C, 0 otherwise. Greedy: 1 for the token chosen. -/
def pOf (d : Dist) (tok : Nat) : Word :=
  match d.c.find? fun t => t.id == tok with
  | some t => divF t.e d.sC
  | none => 0

/-- Residual weights over C in its order: max(0, p − q). -/
def residual (d : Dist) (l : Cand) : List Tok :=
  d.c.map fun t =>
    let r := subF (divF t.e d.sC) (qOf l t.id)
    { t with e := if (FVal.zero).lt (rdF r) then r else 0 }

/-- Greedy as a distribution: one token of weight 1. -/
def greedyDist (l : List (Nat × Word)) : Dist :=
  { c := [{ id := greedyTok l, z := 0, e := oneF }], m := 0, sC := oneF, sFull := oneF }

/-- LOGPROB of a verified token: ln p, or over the full distribution (R311). -/
def verProb (x : Smp) (d : Dist) (tok : Nat) : Word :=
  if x.greedy then 0
  else
    match d.c.find? fun t => t.id == tok with
    | some t => if x.full then logProb x d t else lnW (divF t.e d.sC)
    | none => nanF

/-- What row k of a verification gives: the token committed, its log-probability, its FLAGS (1 bit DRAFT, 2 bit RESIDUAL),
and whether the draft was accepted. -/
def verifyRow (x : Smp) (row : List Word) (draft : Nat) (q : Cand) (j : Nat) (g : Gens) : (Nat × Word × Nat × Bool) × Gens :=
  let l := included 0 row
  let r := g.draw24 j
  -- no token is in C: the draft is rejected and the residual draw finds none (R233)
  if l.isEmpty then ((0xFFFFFFFF, nanF, 4, false), r.2)
  else
    let d := if x.greedy then greedyDist l else distOf x l
    if (rdF (mulF (uOf r.1) (qOf q draft))).lt (rdF (pOf d draft)) then
      ((draft, verProb x d draft, 2, true), r.2)
    else
      let res := residual d q
      let z := sumE res
      let r2 := r.2.draw24 j
      let t := if (FVal.zero).lt (rdF z) then walkTo (mulF (uOf r2.1) z) 0 res else walkTo (mulF (uOf r2.1) d.sC) 0 d.c
      match t with
      | some t => ((t.id, verProb x d t.id, 4, false), r2.2)
      | none => ((0xFFFFFFFF, nanF, 4, false), r2.2)

end Sys2Proof.Machine
end

