-- ==== Sys2Proof/Machine/Rollout.lean ====
section
/-! DEFINITION. Rollouts (spec/08_rollout_generation.md): OPEN, CLOSE, PREFILL, SEQ_CANCEL and the step boundary (stages 1 to
5 of Table 8.7) with the pool's exhaustion policy. -/

namespace Sys2Proof.Machine

open Sys2Proof

/-! ## Access -/

/-- Insert into a sorted list. -/
def insertBy (lt : α → α → Bool) (x : α) : List α → List α
  | [] => [x]
  | y :: t => if lt x y then x :: y :: t else y :: insertBy lt x t

/-- A list in ascending order. -/
def sortBy (lt : α → α → Bool) (l : List α) : List α := l.foldr (insertBy lt) []

/-- An open rollout with its VI and its pool. -/
def State.roll? (s : State) (id k : Nat) : Option (Nat × Rollout × Pool) :=
  match s.job? id with
  | none => none
  | some j =>
    match j.rollouts.find? fun r => r.id == k with
    | none => none
    | some r => (j.pools.find? fun q => q.id == r.pool).map fun q => (j.vi, r, q)

/-- Change a rollout. -/
def State.updRoll (s : State) (id k : Nat) (f : Rollout → Rollout) : State :=
  s.updJob id fun j => { j with rollouts := j.rollouts.map fun r => if r.id = k then f r else r }

/-- A field of a sequence table entry (Table 8.2). -/
def State.se (s : State) (n : Nat) (r : Rollout) (slot off k : Nat) : Nat := s.rd n (r.seqtab + 64 * slot + off) k

/-- Set a field of a sequence table entry. -/
def setSe (n : Nat) (r : Rollout) (slot off k v : Nat) (s : State) : State := wr n (r.seqtab + 64 * slot + off) k v s

/-- LAST_FRET of a changed entry. -/
def touch (n : Nat) (r : Rollout) (slot : Nat) (s : State) : State := setSe n r slot 48 8 s.ftu.count.toNat s

/-- Set STATE of a slot, with the pool's count of HELD sequences. -/
def setState (n : Nat) (r : Rollout) (q : Pool) (slot st : Nat) (s : State) : State :=
  let old := s.slotState n r slot
  let h := s.kvHeld n q
  let s1 := if old ≠ 4 ∧ st = 4 then setCb n q 48 4 (h + 1) s else if old = 4 ∧ st ≠ 4 then setCb n q 48 4 (h - 1) s else s
  touch n r slot (setSe n r slot 4 1 st s1)

/-- The request of a slot. -/
def Rollout.req? (r : Rollout) (slot : Nat) : Option SlotReq := (r.reqs.find? fun e => e.1 == slot).map (·.2)

/-- The slot of the rollout that a sequence ID names. -/
def State.slotOf (s : State) (n : Nat) (r : Rollout) (sid : Nat) : Option Nat :=
  (r.reqs.find? fun e => s.se n r e.1 0 4 == sid).map (·.1)

/-- Slots with a request, ascending. -/
def Rollout.slotsInUse (r : Rollout) : List Nat := sortBy (fun a b => decide (a < b)) (r.reqs.map (·.1))

/-- RESULT0 and RESULT1 of a request's final record (R282). -/
def State.seqResult (s : State) (n : Nat) (r : Rollout) (slot : Nat) : Nat × Nat :=
  (s.se n r slot 0 4 + s.se n r slot 20 4 * 2 ^ 32, s.se n r slot 8 4)

/-! ## Step commands (R289) -/

/-- The rollout that holds the common order: the target of a draft rollout. -/
def Rollout.owner (r : Rollout) : Nat := if r.role = 2 then r.target else r.id

/-- The step commands of a rollout and of its draft, the running one first. -/
def State.stepList (s : State) (id k : Nat) : List Packet :=
  match s.roll? id k with
  | some (_, r, _) => (match s.roll? id r.owner with | some (_, o, _) => o.stepCmds | none => [])
  | none => []

/-- A step command names a rollout. -/
def stepNames (p : Packet) (k : Nat) : Bool := bf p.p0 7 0 == k || (p.op == 0x0305 && bf p.p0 15 8 == k)

/-- A step command of the rollout is the running one. -/
def State.stepRunning (s : State) (id k : Nat) : Bool :=
  match s.stepList id k with
  | p :: _ => stepNames p k
  | [] => false

/-- A request ended while a ROLLOUT_STEP of its rollout runs (R288, RESULT1). -/
def bumpEnded (id k : Nat) (s : State) : State :=
  match s.stepList id k with
  | p :: _ =>
    (match s.open? p.key with
     | some { pkt := _, prog := .rolloutStep r steps toks ended } =>
       if r = k then s.setProg p.key (.rolloutStep r steps toks (ended + 1)) else s
     | _ => s)
  | [] => s

/-- Sequences of a rollout in a state. -/
def State.countState (s : State) (n : Nat) (r : Rollout) (st : Nat) : Nat :=
  (r.reqs.filter fun e => s.slotState n r e.1 == st).length

/-- Take a step command out of its order. -/
def dropStep (id : Nat) (p : Packet) (s : State) : State :=
  s.updJob id fun j => { j with rollouts := j.rollouts.map fun r => { r with stepCmds := r.stepCmds.filter (· != p) } }

/-- Results of a ROLLOUT_STEP (R288): the second does not fit beyond 16 bits and is free then (notes/assumptions/13.md). -/
def stepResults (steps toks ended held : Nat) (free : Dword) : Nat × Nat :=
  (fitField 32 steps free + fitField 32 toks free * 2 ^ 32, fitField 16 held free + fitField 16 ended free * 2 ^ 16)

/-- A step command ends with a status. -/
def endStep (id : Nat) (p : Packet) (status : Byte) (reason : Half) (r0 r1 : Nat) (s : State) : State :=
  postFinal p status reason r0 r1 (dropStep id p s)

/-- A ROLLOUT_STEP completes. -/
def doneStep (id k : Nat) (p : Packet) (s : State) : State :=
  match s.open? p.key with
  | some { pkt := _, prog := .rolloutStep _ steps toks ended } =>
    let held := match s.roll? id k with | some (n, r, _) => s.countState n r 4 | none => 0
    let x := stepResults steps toks ended held s.freeVal
    endStep id p 0 0 x.1 x.2 s.nextFree
  | _ => s

/-! ## Endings (R298, R300, Table 8.9) -/

/-- A sequence ends: its table is emptied when its pages go, its slot is FREE, and its request's final record follows. -/
def endSeq (id k slot : Nat) (drop : Bool) (post : Packet → State → State) (s : State) : State :=
  match s.roll? id k with
  | none => s
  | some (n, r, q) =>
    match r.req? slot with
    | none => s
    | some x =>
      let s1 := if drop then emptyTable n id q (r.tbase + slot) s else s
      let s2 := setSe n r slot 5 1 0 (setState n r q slot 0 s1)
      post x.pkt (bumpEnded id k (s2.updRoll id k fun r =>
        { r with reqs := r.reqs.filter (fun e => e.1 != slot), withheld := r.withheld.filter fun e => e.1 != slot }))

/-- Stop tokens of a rollout; 0xFFFF_FFFF is an unused entry (Table 8.1). -/
def State.stops (s : State) (n : Nat) (r : Rollout) : List Nat :=
  if r.role = 2 ∨ r.stops = 0 then [] else
    ((List.range 4).map fun i => s.rd n (r.stops + 4 * i) 4).filter (· != 0xFFFFFFFF)

/-- End reason of a sequence with FINAL (R298). -/
def State.endReason (s : State) (n : Nat) (r : Rollout) (slot : Nat) : Half :=
  if (s.stops n r).contains (s.se n r slot 24 4) then 0x0310
  else if s.se n r slot 20 4 = s.se n r slot 16 4 then 0x0311
  else 0x0312

/-- SEQ_CANCELs of a rollout that wait for its boundary. -/
def State.cancelsOf (s : State) (id k : Nat) : List Packet :=
  s.opens.filterMap fun o =>
    match o.prog with
    | .cancel c => if c = k ∧ o.pkt.job = id then some o.pkt else none
    | _ => none

/-- Stage 2 for one slot. -/
def endSlot (id k : Nat) (closing : Bool) (s : State) (slot : Nat) : State :=
  match s.roll? id k with
  | none => s
  | some (n, r, _) =>
    match r.req? slot with
    | none => s
    | some x =>
      let sid := s.se n r slot 0 4
      let final := (s.se n r slot 5 1).testBit 1
      let cs := (s.cancelsOf id k).filter fun p => bf p.p0 63 32 == sid
      let ab := s.abortOn x.pkt.key
      if !(final || ab || closing || !cs.isEmpty) then s
      else
        let v := s.seqResult n r slot
        let why : Byte × Half :=
          if final then (0x00, s.endReason n r slot) else if ab then (0x02, 0x0000)
          else if closing then (0x04, 0x0315) else (0x04, 0x0000)
        let s1 := noteAbort x.pkt.key (!final) (endSeq id k slot true (fun p => postFinal p why.1 why.2 v.1 v.2) s)
        cs.foldl (fun s c => postFinal c (if final then 0x03 else 0x04) 0x0000 sid 0 s) s1

/-- Stage 2: every sequence with FINAL, a cancel or an abort ends, in slot order; cancels of sequences that are not present
complete. -/
def endings (id k : Nat) (closing : Bool) (s : State) : State :=
  match s.roll? id k with
  | none => s
  | some (_, r, _) =>
    let s1 := r.slotsInUse.foldl (endSlot id k closing) s
    (s1.cancelsOf id k).foldl (fun s c => postFinal c 0x03 0x0314 (bf c.p0 63 32) 0 s) s1

/-- The step commands that name a rollout which has closed: a ROLLOUT_STEP that runs completes, the others name a rollout
that is not open (R281). -/
def closeSteps (id k : Nat) (s : State) : State :=
  let l := s.stepList id k
  let run := l.head?
  (l.filter fun p => stepNames p k).foldl (fun s p =>
    if run = some p ∧ p.op = 0x0302 then doneStep id k p s else endStep id p 0xFF 0x0302 k 0 s) s

/-- A rollout's ID falls free (R273, R334): its tables are unbound and its CLOSEs complete. -/
def freeRollout (id k : Nat) (s : State) : State :=
  match s.roll? id k with
  | none => s
  | some (n, r, q) =>
    let s1 := unbindTables n q r.tbase r.slots (closeSteps id k s)
    let s2 := s1.updJob id fun j => { j with rollouts := j.rollouts.filter fun x => x.id != k }
    s2.opens.foldl (fun s o =>
      if o.pkt.job = id ∧ o.prog = .rolloutClose k then postDone o.pkt 0 0 s else s) s2

/-- Draft rollouts of a target. -/
def State.draftsOf (s : State) (id k : Nat) : List Rollout :=
  ((s.job? id).map fun j => j.rollouts.filter fun r => r.role == 2 && r.target == k).getD []

/-- A rollout closes: every sequence ends; a target's draft rollout closes in the same way (R273). -/
def closeRollout (id k : Nat) (s : State) : State :=
  let drafts := (s.draftsOf id k).map (·.id)
  let s1 := endings id k true s
  let s2 := drafts.foldl (fun s d => freeRollout id d (endings id d true s)) s1
  freeRollout id k s2

/-! ## OPEN and CLOSE (R270 to R273, R331, R332) -/

/-- DRAFT_INVALID of an OPEN (R272). -/
def draftBad (p : Packet) (j : Job) : Bool :=
  let x := smpOf p.p2 p.p3
  let t := bf p.p4 31 24
  bf p.p0 19 16 == 2
  && !((j.rollouts.any fun r => r.id == t && r.role == 0 && r.slots == bf p.p0 47 32 + 1)
       && !(j.rollouts.any fun r => r.role == 2 && r.target == t)
       && (x.greedy || decide (1 ≤ x.topK ∧ x.topK ≤ 1024) || x.cuts))

/-- The pool's shape is not that of the model's attention (R332). -/
def State.shapeBad (s : State) (n : Nat) (q : Pool) (m : Model) : Bool :=
  s.cb n q 4 2 != m.layers || s.cb n q 6 2 != m.kvHeads || s.cb n q 8 2 != m.headDim || s.cb n q 1 1 != m.fmtK
  || s.cb n q 2 1 != m.fmtV

/-- OPEN parameters that Table 8.1 rules out (R84). -/
def openBad (p : Packet) : Bool :=
  decide (2 < bf p.p0 19 16) || p.p1.toNat % 64 != 0 || (smpOf p.p2 p.p3).bad
  || (bf p.p0 19 16 == 2 && (p.p5.toNat % 64 != 0 || bf p.p4 23 16 == 0 || decide (8 < bf p.p4 23 16)))

/-- A rollout as OPEN makes it. -/
def rolloutOf (p : Packet) (id tbase : Nat) (version : Word) : Rollout :=
  { id := id, pool := bf p.p0 63 48, slots := bf p.p0 47 32 + 1, role := bf p.p0 19 16, seqtab := p.p1.toNat
    samplingLo := p.p2, samplingHi := p.p3, model := bf p.p4 63 48, batch := bf p.p4 47 32 + 1, target := bf p.p4 31 24
    depth := bf p.p4 23 16, stops := p.p5.toNat, tbase := tbase, steps := 0, version := version
    lastTaken := bf p.p0 47 32, reqs := [], stepCmds := [], closing := none
    withheld := [], stage6 := none }

/-- ROLLOUT_OPEN, OPEN (R270, R271): refusals in the order of Table 2.16. -/
def effRolloutOpen (p : Packet) (s : State) : State :=
  match s.job? p.job with
  | none => postFree p s
  | some j =>
    let k := bf p.p0 63 48
    let slots := bf p.p0 47 32 + 1
    match s.nameModel p (bf p.p4 63 48) with
    | .error e => refuse p e s
    | .ok m =>
      match s.pool? p.job k with
      | none => postErr p 0x0401 k s
      | some q =>
        if draftBad p j then postErr p 0x0303 (bf p.p4 31 24) s
        else if s.shapeBad p.vi q m then postErr p 0x0403 k s
        else if 64 ≤ j.rollouts.length then postCap p 0x0301 j.rollouts.length s
        else
          match s.tableRun p.vi q slots with
          | none => postCap p 0x0405 slots s
          | some t =>
            if openBad p then postFree p s
            else
              let id := (firstFree (fun i => !(j.rollouts.any fun r => r.id == i)) 64 0).getD 0
              let w := vstore p p.p1.toNat (List.replicate (64 * slots) 0) s
              match w.2 with
              | some e => memFail p e w.1
              | none =>
                let r := rolloutOf p id t (BitVec.ofNat 32 (s.modelVersion p.vi m))
                postDone p id t ((bindTables p.vi q id t slots w.1).updJob p.job fun j =>
                  { j with rollouts := j.rollouts ++ [r] })

/-- ROLLOUT_OPEN, CLOSE (R273): at the next boundary, at once when no step of the rollout runs. -/
def effRolloutClose (p : Packet) (s : State) : State :=
  let k := bf p.p0 15 8
  match s.roll? p.job k with
  | none => postErr p 0x0302 k s
  | some _ =>
    let s1 := s.openCmd p (.rolloutClose k)
    if s.stepRunning p.job k then s1.updRoll p.job k fun r => { r with closing := r.closing.or (some p) }
    else closeRollout p.job k s1

/-! ## PREFILL and SEQ_CANCEL (R278 to R282, R299) -/

/-- Positions a sequence may write, at acceptance (R280). -/
def posWanted (p : Packet) : Nat :=
  match bf p.p0 9 8 with
  | 0 => bf p.p2 63 32 + bf p.p2 31 0 - 1
  | 1 => bf p.p2 63 32 - 1
  | _ => 0

/-- The refusals of a PREFILL (Table 2.16). -/
def prefillRefusal (p : Packet) (n : Nat) (r : Rollout) (q : Pool) (s : State) : Option (Byte × Half × Nat) :=
  let slot := bf p.p4 47 32
  let variant := bf p.p0 31 16
  let known := variant == 0 || (match s.model? p.job r.model with | some m => (m.variant? variant).isSome | none => false)
  if s.slotState n r slot ≠ 0 then some (0xFF, 0x0304, slot)
  else if (s.slotOf n r (bf p.p0 63 32)).isSome then some (0xFF, 0x0305, bf p.p0 63 32)
  else if !known then some (0xFF, 0x030A, variant)
  else if bf p.p0 9 8 ≠ 2 ∧ s.used n q (r.tbase + slot) ≠ 0 then some (0xFF, 0x0408, slot)
  else if s.kvMaxPos n q < posWanted p then some (0xFF, 0x0309, s.kvMaxPos n q)
  else if bf p.p0 9 8 = 3 ∧ (s.slotOf n r (bf p.p1 31 0)).isNone then some (0xFF, 0x0306, bf p.p1 31 0)
  else none

/-- PREFILL parameters that do not fit Table 8.4 or the rollout's role (R84). -/
def prefillBad (p : Packet) (r : Rollout) : Bool :=
  let mode := bf p.p0 9 8
  decide (r.slots ≤ bf p.p4 47 32) || ((mode == 1) != (r.role == 1)) || (decide (mode < 2) && bf p.p2 63 32 == 0)
  || (mode != 1 && bf p.p2 31 0 == 0)

/-- The entry that an accepted PREFILL writes (Table 8.2). -/
def entryBytes (p : Packet) (fret : Nat) : List Byte :=
  let prompt := if bf p.p0 9 8 < 2 then bf p.p2 63 32 else 0
  leBytes 4 (bf p.p0 63 32) ++ leBytes 1 1 ++ leBytes 1 0 ++ leBytes 2 (bf p.p0 31 16) ++ leBytes 4 0 ++ leBytes 4 prompt
  ++ leBytes 4 (bf p.p2 31 0) ++ leBytes 4 0 ++ leBytes 4 0 ++ leBytes 2 (bf p.p4 15 0) ++ leBytes 2 0
  ++ leBytes 8 p.p3.toNat ++ leBytes 4 p.seq.toNat ++ leBytes 1 (p.sq % 8) ++ leBytes 3 0 ++ leBytes 8 fret ++ leBytes 8 0

/-- First byte that no page maps of what a rollout's sequences use: the sequence table, and the pool's structures at META (R82). -/
def State.rollHole (s : State) (n : Nat) (r : Rollout) (q : Pool) : Option Nat :=
  s.firstHole n [(r.seqtab, 64 * r.slots), (q.metaVa, 256)]
  |>.or (s.firstHole n (s.poolRanges n q ((List.range r.slots).map (r.tbase + ·))))

/-- The request of the source of a FORK (R287). -/
def State.forkSource (s : State) (n : Nat) (r : Rollout) (p : Packet) : Option Key :=
  if bf p.p0 9 8 = 3 then (s.slotOf n r (bf p.p1 31 0)).bind fun i => (r.req? i).map (·.pkt.key) else none

/-- A sequence takes the table of its slot: it is BOUND, whatever an EXPORT left it (Table 9.7). -/
def takeTable (n : Nat) (q : Pool) (t : Nat) (s : State) : State :=
  if s.th n q t 0 1 = 0 ∨ s.th n q t 0 1 = 2 then setTh n q t 0 1 1 s else s

/-- A PREFILL is accepted (R282). -/
def acceptPrefill (p : Packet) (n : Nat) (r : Rollout) (q : Pool) (s : State) : State :=
  let k := bf p.p0 7 0
  let slot := bf p.p4 47 32
  let x : SlotReq := { pkt := p, heldFrom := 1, source := s.forkSource n r p }
  let s1 := vwrite n (r.seqtab + 64 * slot) (entryBytes p s.ftu.count.toNat) (s.openCmd p (.request k slot))
  (takeTable n q (r.tbase + slot) s1).updRoll p.job k fun r => { r with reqs := r.reqs ++ [(slot, x)] }

/-- PREFILL (R278, R279, R282). -/
def effPrefill (p : Packet) (s : State) : State :=
  let k := bf p.p0 7 0
  match s.roll? p.job k with
  | none => postErr p 0x0302 k s
  | some (n, r, q) =>
    if prefillBad p r then postFree p s
    else
      match s.rollHole n r q with
      | some va => memFail p (.notMapped va) s
      | none =>
        match prefillRefusal p n r q s with
        | some e => refuse p e s
        | none => acceptPrefill p n r q s

/-- SEQ_CANCEL (R299): it waits for the boundary, or takes effect at once when no step of the rollout runs. -/
def effSeqCancel (p : Packet) (s : State) : State :=
  let k := bf p.p0 7 0
  match s.roll? p.job k with
  | none => postErr p 0x0302 k s
  | some (n, r, _) =>
    let s1 := s.openCmd p (.cancel k)
    if s.stepRunning p.job k then
      match s.slotOf n r (bf p.p0 63 32) with
      | some slot => touch n r slot (setSe n r slot 5 1 (s.se n r slot 5 1 ||| 1) s1)
      | none => s1
    else endings p.job k false s1

/-! ## Stage 4: HELD sequences (R349 to R352) -/

/-- Pages that positions [pos, pos + rows) of a table still need: new pages and copies of shared ones. -/
def State.fedNeed (s : State) (n : Nat) (q : Pool) (t pos rows : Nat) : Nat :=
  if rows = 0 then 0
  else
    let pt := s.kvPt n q
    ((List.range ((pos + rows - 1) / pt + 1)).drop (pos / pt)).countP fun j =>
      let e := s.te n q t j
      (!(teValid e) && !(teSpilled e)) || (teValid e && decide (1 < s.pageRef n q (tePage e)))

/-- Spilled entries of a table. -/
def State.spilledIn (s : State) (n : Nat) (q : Pool) (t : Nat) : List Nat :=
  (List.range (s.used n q t)).filter fun j => teSpilled (s.te n q t j)

/-- Restore one spilled entry (Table 9.8). -/
def restoreEntry (n id : Nat) (q : Pool) (t : Nat) (s : State) (j : Nat) : State :=
  let e := s.te n q t j
  match allocPage n q s with
  | none => s
  | some x =>
    let s1 := copyStride n q (s.spillVa n q (tePage e)) (s.pageVa n q x.1) x.2
    let s2 := bumpCb n q 96 1 (freeSpill n id q (tePage e) (setTe n q t j (e / 2 ^ 32 * 2 ^ 32 + teList x.1) s1))
    { s2 with ctr := { s2.ctr with kvRestores := satAdd s2.ctr.kvRestores 1 } }

/-- Spill one entry (Table 9.8): the page goes to the lowest free spill slot. -/
def spillEntry (n id k : Nat) (t j : Nat) (s : State) : State :=
  match s.pool? id k with
  | none => s
  | some q =>
    let e := s.te n q t j
    match firstFree (fun i => !(q.spillUsed.contains i)) (s.cb n q 52 4) 0 with
    | none => s
    | some slot =>
      let s1 := copyStride n q (s.pageVa n q (tePage e)) (s.spillVa n q slot) s
      let s2 := setTe n q t j (e / 2 ^ 32 * 2 ^ 32 + 2 ^ 25 + slot) (dropRef n q (tePage e) s1)
      let s3 := bumpCb n q 88 1 (setCb n q 56 4 (s.cb n q 56 4 - 1) s2)
      { s3.updPool id k (fun q => { q with spillUsed := q.spillUsed ++ [slot] }) with
        ctr := { s3.ctr with kvSpills := satAdd s3.ctr.kvSpills 1 } }

/-- A page of a victim: rollout, slot, entry. -/
abbrev VictimPage := Nat × Nat × Nat

/-- Victims of a waiting sequence, as (priority, rollout, slot), in the order of R351. -/
def State.victims (s : State) (n id k pool prio : Nat) : List (Nat × Nat × Nat) :=
  let all := (s.rolloutsOn id pool).flatMap fun r =>
    if r.id = k ∨ !(s.stepRunning id r.id) then
      r.reqs.filterMap fun e =>
        let st := s.slotState n r e.1
        let pr := s.se n r e.1 28 2
        if 2 ≤ st ∧ pr < prio then some (pr, r.id, e.1) else none
    else []
  sortBy (fun a b => decide (a.1 < b.1 ∨ (a.1 = b.1 ∧ (b.2.1 < a.2.1 ∨ (b.2.1 = a.2.1 ∧ b.2.2 < a.2.2))))) all

/-- Pages of a victim that may be spilled: REF 1 and PIN 0, ascending. -/
def State.victimPages (s : State) (n : Nat) (q : Pool) (id : Nat) (v : Nat × Nat × Nat) : List VictimPage :=
  match s.roll? id v.2.1 with
  | none => []
  | some (_, r, _) =>
    (s.listed n q (r.tbase + v.2.2)).filterMap fun x =>
      if s.pageRef n q x.2 = 1 ∧ s.pagePin n q x.2 = 0 then some (v.2.1, v.2.2, x.1) else none

/-- A sequence becomes HELD, with its interim record (R292, R352). -/
def hold (id k slot : Nat) (reason : Half) (s : State) : State :=
  match s.roll? id k with
  | none => s
  | some (n, r, q) =>
    match r.req? slot with
    | none => s
    | some x =>
      let st := s.slotState n r slot
      if st = 4 then s
      else
        let s1 := (setState n r q slot 4 s).updRoll id k fun r =>
          { r with reqs := r.reqs.map fun e => if e.1 = slot then (e.1, { e.2 with heldFrom := st }) else e }
        postInterim x.pkt 0x20 reason (s.se n r slot 0 4) s1

/-- Spill victims' pages until `need` more pages are free; none when the eligible pages or the free spill slots do not cover
it (R351). -/
def spillFor (n id k pool prio need : Nat) (q : Pool) (s : State) : Option State :=
  let pages := (s.victims n id k pool prio).flatMap (s.victimPages n q id)
  if pages.length < need ∨ s.cb n q 56 4 < need then none
  else
    let l := pages.take need
    let s1 := l.foldl (fun s v =>
      match s.roll? id v.1 with
      | some (_, r, _) => spillEntry n id pool (r.tbase + v.2.1) v.2.2 s
      | none => s) s
    some (l.foldl (fun s v => hold id v.1 v.2.1 0x0411 s) s1)

/-- What a HELD sequence needs: pages to restore or to copy, and pages for its next fed positions. -/
def State.heldNeed (s : State) (id k slot rows : Nat) : Nat × Nat :=
  match s.roll? id k with
  | none => (0, 0)
  | some (n, r, q) =>
    match r.req? slot with
    | none => (0, 0)
    | some x =>
      let t := r.tbase + slot
      if x.heldFrom = 1 then
        match s.slotOf n r (bf x.pkt.p1 31 0) with
        | some src => (s.copiesFor n q (r.tbase + src) (s.se n r src 8 4), 0)
        | none => (0, 0)
      else ((s.spilledIn n q t).length, s.fedNeed n q t (s.se n r slot 8 4) (if x.heldFrom = 2 then 1 else rows))

/-- A HELD sequence returns to its former state, its spilled pages restored (R349). A FORK held at its joining is offered
admission again. -/
def returnHeld (id k slot : Nat) (s : State) : State :=
  match s.roll? id k with
  | none => s
  | some (n, r, q) =>
    match r.req? slot with
    | none => s
    | some x =>
      let t := r.tbase + slot
      setState n r q slot x.heldFrom ((s.spilledIn n q t).foldl (restoreEntry n id q t) s)

/-- A sequence ends under the policy (R350, R352). -/
def endExhausted (id k slot : Nat) (reason : Half) (s : State) : State :=
  match s.roll? id k with
  | none => s
  | some (n, r, q) =>
    let v := s.seqResult n r slot
    let s1 := endSeq id k slot true (fun p => postFinal p 0x21 reason v.1 v.2) s
    let s2 := bumpCb n q 104 1 s1
    { s2 with ctr := { s2.ctr with kvExhausted := satAdd s2.ctr.kvExhausted 1 } }

/-- Frets since LAST_FRET of an entry (R350); of a count from before the present epoch, those since it began. -/
def State.waited (s : State) (n : Nat) (r : Rollout) (slot : Nat) : Nat :=
  let last := s.se n r slot 48 8
  if last ≤ s.ftu.count.toNat then s.ftu.count.toNat - last else s.ftu.count.toNat

/-- Stage 4 for one HELD sequence. `kept` are the pages withheld so far, by slot; `rows` gives the rows that a slot feeds in
the next step. -/
def serveHeld (id k : Nat) (rows : Nat → Nat) (a : State × List (Nat × Nat)) (slot : Nat) : State × List (Nat × Nat) :=
  let s := a.1
  match s.roll? id k with
  | none => a
  | some (n, r, q) =>
    if s.slotState n r slot ≠ 4 then a
    else
      let x := s.heldNeed id k slot (rows slot)
      let free := s.kvFree n q - (a.2.map (·.2)).sum
      let pol := s.policyOf n q k
      let need := x.1 + x.2
      if need ≤ free then (returnHeld id k slot s, a.2 ++ [(slot, x.2)])
      else if s.waited n r slot < pol.2 then a
      else if pol.1 = 0 ∨ s.cb n q 64 8 = 0 ∨ s.cb n q 52 4 = 0 then (endExhausted id k slot 0x0412 s, a.2)
      else
        match spillFor n id k r.pool (s.se n r slot 28 2) (need - free) q s with
        | some s1 => (returnHeld id k slot s1, a.2 ++ [(slot, x.2)])
        | none => (endExhausted id k slot 0x0413 s, a.2)

/-- The HELD slots in the order of R349. -/
def State.heldOrder (s : State) (n : Nat) (r : Rollout) : List Nat :=
  let l := (r.slotsInUse.filter fun i => s.slotState n r i == 4).map fun i => (s.se n r i 28 2, s.se n r i 48 8, i)
  (sortBy (fun a b => decide (b.1 < a.1 ∨ (a.1 = b.1 ∧ (a.2.1 < b.2.1 ∨ (a.2.1 = b.2.1 ∧ a.2.2 < b.2.2))))) l).map
    fun x => x.2.2

/-- Stage 4 for some HELD slots; the pages withheld for stage 6 are kept with the rollout. -/
def serveSlots4 (id k : Nat) (rows : Nat → Nat) (slots : List Nat) (s : State) : State :=
  match s.roll? id k with
  | none => s
  | some (_, r, _) =>
    let h := slots.foldl (serveHeld id k rows) (s, r.withheld)
    h.1.updRoll id k fun r => { r with withheld := h.2 }

/-- Stage 4. -/
def stageHeld (id k : Nat) (rows : Nat → Nat) (s : State) : State :=
  match s.roll? id k with
  | none => s
  | some (n, r, _) => serveSlots4 id k rows (s.heldOrder n r) s

/-! ## Stage 5: admission (R277, R284 to R287) -/

/-- The handoff record (Table 8.6). -/
def handoffBytes (sid len pending pages pt variant module version : Nat) : List Byte :=
  let b := leBytes 4 sid ++ leBytes 4 len ++ leBytes 4 pending ++ leBytes 4 pages ++ leBytes 2 pt ++ leBytes 2 variant
    ++ leBytes 2 module ++ leBytes 2 0 ++ leBytes 4 version ++ leBytes 32 0
  b ++ leBytes 4 (crc32c b).toNat

/-- An EXPORT sequence has its whole prompt: the handoff is written, its table is EXPORTED and its request completes
(R284). -/
def handOff (id k slot : Nat) (s : State) : State :=
  match s.roll? id k with
  | none => s
  | some (n, r, q) =>
    match r.req? slot with
    | none => s
    | some x =>
      let len := s.se n r slot 8 4
      let pages := s.covers n q len
      let b := handoffBytes (s.se n r slot 0 4) len (s.se n r slot 24 4) pages (s.kvPt n q) (s.se n r slot 6 2)
        s.moduleId r.version.toNat
      let w := vstore x.pkt x.pkt.p5.toNat b s
      let v := s.seqResult n r slot
      match w.2 with
      | some e => endSeq id k slot true (fun p => memFail p e) w.1
      | none =>
        noteAbort x.pkt.key false
          (endSeq id k slot false (fun p => postDone p v.1 pages) (setTh n q (r.tbase + slot) 0 1 2 w.1))

/-- A LOCAL or EXPORT sequence joins. -/
def joinPrompt (id k slot n : Nat) (r : Rollout) (q : Pool) (x : SlotReq) (s : State) : State :=
  let len := bf x.pkt.p2 63 32
  if 2 ≤ len then setState n r q slot 2 s
  else
    match vread n s x.pkt.p1.toNat 4 with
    | .error e => endSeq id k slot false (fun p => memFail p e) s
    | .ok b =>
      let s1 := setSe n r slot 24 4 (leNat b) s
      if bf x.pkt.p0 9 8 = 1 then handOff id k slot s1 else setState n r q slot 3 s1

/-- A sequence becomes LIVE with LEN positions and a pending token. -/
def joinAt (n : Nat) (r : Rollout) (q : Pool) (slot len pending : Nat) (s : State) : State :=
  setState n r q slot 3 (setSe n r slot 24 4 pending (setSe n r slot 12 4 (len + 1) (setSe n r slot 8 4 len s)))

/-- An ADOPT joins (R285, R280). -/
def joinAdopt (id k slot n : Nat) (r : Rollout) (q : Pool) (x : SlotReq) (s : State) : State :=
  match vread n s x.pkt.p1.toNat 64 with
  | .error e => endSeq id k slot false (fun p => memFail p e) s
  | .ok b =>
    let v := s.seqResult n r slot
    let len := blk b 4 4
    if (crc32c (b.take 60)).toNat ≠ blk b 60 4 then
      endSeq id k slot false (fun p => postFinal p 0x32 0x0307 v.1 v.2) s
    else if s.kvMaxPos n q < len + bf x.pkt.p2 31 0 then
      endSeq id k slot false (fun p => postFinal p 0xFF 0x0309 (s.kvMaxPos n q) v.2) s
    else joinAt n r q slot len (blk b 8 4) s

/-- A FORK joins once its source is LIVE (R287, R340, R280). -/
def joinFork (id k slot n : Nat) (r : Rollout) (q : Pool) (x : SlotReq) (s : State) : State :=
  let sid := bf x.pkt.p1 31 0
  let v := s.seqResult n r slot
  match (s.slotOf n r sid).filter fun i => (r.req? i).map (·.pkt.key) == x.source with
  | none => endSeq id k slot false (fun p => postFinal p 0xFF 0x0306 sid v.2) s
  | some src =>
    if s.slotState n r src ≠ 3 then s
    else
      let len := s.se n r src 8 4
      if s.kvMaxPos n q < len + bf x.pkt.p2 31 0 then
        endSeq id k slot false (fun p => postFinal p 0xFF 0x0309 (s.kvMaxPos n q) v.2) s
      else
        match sharePages n q (r.tbase + src) (r.tbase + slot) len s with
        | none => hold id k slot 0x0410 s
        | some s1 => joinAt n r q slot len (s.se n r src 24 4) s1

/-- Stage 5 for one slot. -/
def joinSlot (id k : Nat) (s : State) (slot : Nat) : State :=
  match s.roll? id k with
  | none => s
  | some (n, r, q) =>
    match r.req? slot with
    | none => s
    | some x =>
      if s.slotState n r slot ≠ 1 then s
      else
        match bf x.pkt.p0 9 8 with
        | 2 => joinAdopt id k slot n r q x s
        | 3 => joinFork id k slot n r q x s
        | _ => joinPrompt id k slot n r q x s

/-! ## The boundary (Table 8.7, stages 1 to 5) -/

/-- Stage 1 for every sequence (R290, R347). -/
def stageRelease (id k : Nat) (s : State) : State :=
  match s.roll? id k with
  | none => s
  | some (n, r, q) =>
    r.slotsInUse.foldl (fun s slot =>
      if 2 ≤ s.slotState n r slot then releaseFrom n id q (r.tbase + slot) (s.se n r slot 8 4) s else s) s

/-- Stage 3 (R293, R453). -/
def stageVersion (id k : Nat) (s : State) : State :=
  match s.roll? id k with
  | none => s
  | some (n, r, _) =>
    match s.model? id r.model with
    | some m => s.updRoll id k fun r => { r with version := BitVec.ofNat 32 (s.modelVersion n m) }
    | none => s

/-- A step boundary of a rollout: stages 1 to 5. A CLOSE that waits ends the rollout here. -/
def boundary (id k : Nat) (rows : State → Nat → Nat) (s : State) : State :=
  match s.roll? id k with
  | none => s
  | some (n, r, _) =>
    let s1 := stageRelease id k s
    if r.closing.isSome then closeRollout id k s1
    else
      let s2 := takePolicy n id r.pool k (stageVersion id k (endings id k false s1))
      let s3 := stageHeld id k (rows s2) s2
      match s3.roll? id k with
      | none => s3
      | some (_, r1, _) => (r1.reqs.map (·.1)).foldl (joinSlot id k) s3

/-- ROLLOUT_OPEN (R271). -/
def execRolloutOpen (p : Packet) (s : State) : Out := submit effRolloutOpen p s
/-- ROLLOUT_OPEN with ACTION CLOSE (R273). -/
def execRolloutClose (p : Packet) (s : State) : Out := submit effRolloutClose p s
/-- PREFILL (R278). -/
def execPrefill (p : Packet) (s : State) : Out := submit effPrefill p s
/-- SEQ_CANCEL (R299). -/
def execSeqCancel (p : Packet) (s : State) : Out := submit effSeqCancel p s

end Sys2Proof.Machine
end

