-- ==== Sys2Proof/Machine/Layers.lean ====
section
/-! DEFINITION. Stage 8 of a batch step (Table 8.7; R294 of spec/08_rollout_generation.md; R342 of spec/09_kv_pages.md): the
pieces of a model run on the fed rows, their tiles one after another. -/

namespace Sys2Proof.Machine

open Sys2Proof

/-! ## Works run at once -/

/-- What a plan's works find in memory: free bytes, rows of ones and words. -/
def Plan.prepare (a : Plan) (s : State) : State × Option MemErr :=
  let w1 := a.fills.foldl (fun w f => andThen w fun s => vput f.1 f.2.1 (s.freeBytes f.2.2) s.nextFree) (s, none)
  let w2 := a.ones.foldl (fun w o => andThen w fun s =>
    o.1.store o.1.fmt 0 0 0 (fun _ => 0) (List.replicate o.2 (.fin false 1 0, 0)) s) w1
  a.words.foldl (fun w x => andThen w fun s => vput scratchVi x.1 (leBytes 4 x.2) s) w2

/-- A tile is issued and ends; its time is free. -/
def runTile (w : Work) (id : Nat) (t : Tile) (s : State) : State × Option MemErr :=
  match stageTile w t s with
  | .error e => (s, some e)
  | .ok st => endEffect w { t with issued := true, staged := st } id s.freeVal.toNat (countIssue t s.nextFree)

/-- The K and V entries of the fed positions, written into the pages that hold them before the attention reads them (R294). -/
def feedKv (w : Work) (cols : Nat) (s : State) : State × Option MemErr :=
  let es := w.attn.entries
  (es.zip (List.range es.length)).foldl (fun a e =>
    (List.range e.1.qLen).foldl (fun a r =>
      [(w.x, w.attn.k), (w.w, w.attn.v)].foldl (fun a o => andThen a fun s =>
        match o.1.run 0 (e.1.qOff + r) 0 cols s with
        | .error x => (s, some x)
        | .ok v =>
          { o.2 with pages := w.attn.pages.getD e.2 [] }.store o.2.fmt 0 (e.1.kvLen - e.1.qLen + r) 0 (fun _ => 0)
            (v.map fun y => (elemVal o.1.fmt y, 0)) s) a) a) (s, none)

/-- A work runs from its first tile to its last. -/
def runWork (k : Key) (id wi : Nat) (w0 : Work) (s : State) : State × Option MemErr :=
  let w := s.planWork w0
  let a := if w.kind = .attn then feedKv w (w.attn.kvHeads * w.attn.dim) s else (s, none)
  andThen ((s.tilesOf k wi w s.coreOrder).foldl (fun a t => andThen a (runTile w id t)) a) (workEnd k wi w)

/-! ## Feeding rows -/

/-- Positions of a slot's sequence that a run of the layers feeds: slot, first position, rows. -/
abbrev Chunk := Nat × Nat × Nat

/-- A run of the layers so far: the state, the first access that failed, the works done, and the first free byte of the command's
scratch memory. -/
structure FeedSt where
  w : State × Option MemErr
  wi : Nat
  top : Nat

/-- First row of each chunk. -/
def rowStarts : Nat → List Chunk → List Nat
  | _, [] => []
  | i, c :: cs => i :: rowStarts (i + c.2.2) cs

/-- The rows of each variant among the chunks (R462). -/
def State.variantRows (s : State) (n : Nat) (r : Rollout) (cs : List Chunk) : List (Nat × List Nat) :=
  let l := (cs.zip (rowStarts 0 cs)).map fun c => (s.se n r c.1.1 6 2, (List.range c.1.2.2).map (c.2 + ·))
  (l.map (·.1)).eraseDups.map fun v => (v, (l.filter fun e => e.1 == v).flatMap (·.2))

/-- Format of the rows that enter a model: that of the weights that read them. -/
def Model.entryFmt (m : Model) : Nat := if (m.piece 0).kind = 2 then m.fmtK else (m.region (m.piece 0).w).fmt

/-- What the layers of a step run on. The rows that enter the first piece are free values: the spec does not say how tokens
become rows. -/
def State.stepCtx (s : State) (n : Nat) (r : Rollout) (q : Pool) (m : Model) (cs : List Chunk) (top : Nat) : PlanCtx × Plan :=
  let rows := (cs.map (·.2.2)).sum
  let cols := m.inCols 0 m.pieces.length 0
  let x := (Plan.start top).free m.entryFmt rows cols
  ({ n := n, m := m, rows := rows, first := 0, count := m.pieces.length, word := none, inp := { o := x.1, cols := cols }
     entries := (cs.zip (rowStarts 0 cs)).map fun c =>
       { qOff := c.2, qLen := c.1.2.2, kvLen := c.1.2.1 + c.1.2.2, kvRef := r.tbase + c.1.1 }
     save := none, groups := s.variantRows n r cs, pool := some q
     pages := cs.map fun c => (List.range (s.used n q (r.tbase + c.1))).map fun j => s.posVa n q (r.tbase + c.1) (j * s.kvPt n q)
     outVa := none, split := [], ends := [] }, x.2)

/-- Host-tier regions of a model in piece order: those that a run of its layers streams (R466). -/
def Model.tierOrder (m : Model) : List Nat :=
  (List.range m.pieces.length).flatMap fun k => m.hostTier.filter fun i => (m.region i).piece == k && !(m.region i).flags.getLsbD 1

/-- The host-tier regions are streamed as the layers run (R466); how many tiles wait for them is free. -/
def streamTier (id : Nat) (m : Model) (s : State) : State :=
  if m.tierOrder.isEmpty then s
  else
    let s1 := m.tierOrder.foldl (fun s i =>
      if ((s.model? id m.handle).map fun x => x.streamed.contains i).getD true then s else hostTierStream id m.handle i s) s
    { s1.nextFree with ctr := { s1.ctr with fshStall := satAdd s1.ctr.fshStall (s1.freeVal.toNat % 2 ^ 32) } }

/-- Run the layers of a rollout's model on chunks; answers the rows that leave the last piece. -/
def feed (id k : Nat) (key : Key) (cs : List Chunk) (a : FeedSt) : FeedSt × Option Act :=
  let s := a.w.1
  match s.roll? id k with
  | none => (a, none)
  | some (n, r, q) =>
    match s.model? id r.model with
    | none => (a, none)
    | some m =>
      if cs.isEmpty ∨ m.pieces.isEmpty then (a, none)
      else
        let c := s.stepCtx n r q m cs a.top
        let p := c.1.forwardAll s c.2
        let w0 := andThen (streamTier id m a.w.1, a.w.2) p.prepare
        let w1 := (p.works.zip (List.range p.works.length)).foldl (fun w e => andThen w (runWork key id (a.wi + e.2) e.1.2)) w0
        ({ w := w1, wi := a.wi + p.works.length, top := p.top }, (p.outs.getLast?).map (·.2))

/-- Logits of a row that left the last piece: its values where it is as wide as the vocabulary; else free, the spec giving no
other way to them. -/
def State.stepLogits (s : State) (x : Option Act) (row vocab : Nat) : List Word :=
  match x.filter fun a => a.cols == vocab with
  | none => (List.range vocab).map (Config.logit s.fresh)
  | some a =>
    match a.o.run 0 row 0 vocab s with
    | .ok v => v.map fun e => toF (elemVal a.o.fmt e)
    | .error _ => (List.range vocab).map (Config.logit s.fresh)

end Sys2Proof.Machine
end

