-- ==== Sys2Proof/Machine/Steps.lean ====
section
/-! DEFINITION. The batch step (Table 8.7, stages 6 to 10) with plain decoding, drafting (R309) and verification (R310 to
R312), the step commands, and the pool's exhaustion policy (spec/08_rollout_generation.md, spec/09_kv_pages.md). One
BATCH_STEP is atomic in the model, but for a step that waits at a pin. -/

namespace Sys2Proof.Machine

open Sys2Proof

/-- What a step does with its LIVE sequences. -/
inductive StepKind where
  | plain
  | draft (target : Rollout)
  | verify (draft : Rollout)
  deriving DecidableEq, Repr

/-! ## The draft area (R308) -/

/-- Draft slot of a sequence slot in the area of a draft rollout. -/
def draftVa (d : Rollout) (slot : Nat) : Nat := d.stops + 65600 * slot

/-- COUNT of a draft slot. -/
def State.draftCount (s : State) (n : Nat) (d : Rollout) (slot : Nat) : Nat := min 8 (s.rd n (draftVa d slot) 1)

/-- Draft token k. -/
def State.draftTok (s : State) (n : Nat) (d : Rollout) (slot k : Nat) : Nat := s.rd n (draftVa d slot + 4 + 4 * k) 4

/-- Candidate list k. -/
def State.candList (s : State) (n : Nat) (d : Rollout) (slot k : Nat) : Cand :=
  ((List.range 1024).map fun i =>
    let a := draftVa d slot + 64 + 8192 * k + 8 * i
    (s.rd n a 4, BitVec.ofNat 32 (s.rd n (a + 4) 4))).filter fun e => e.1 != 0xFFFFFFFF

/-- Bytes of a candidate list. -/
def candBytes (l : Cand) : List Byte :=
  (l.flatMap fun e => leBytes 4 e.1 ++ leBytes 4 e.2.toNat)
  ++ (List.replicate (1024 - l.length) (leBytes 4 0xFFFFFFFF ++ leBytes 4 0)).flatten

/-! ## Stage 6: selection (R291, R345, R348) -/

/-- Drafts of a draft step for a slot (R309), its fed positions below MAX_POS of the draft's pool (R280). -/
def State.draftDepth (s : State) (n : Nat) (d t : Rollout) (q : Pool) (slot : Nat) : Nat :=
  min (min d.depth (s.se n t slot 16 4 - s.se n t slot 20 4 - 1)) (s.kvMaxPos n q - s.se n t slot 8 4)

/-- Rows and drafts of a LIVE slot, its fed positions below MAX_POS (R280); none when the step leaves it out. -/
def State.liveRows (s : State) (n : Nat) (r : Rollout) (q : Pool) (kind : StepKind) (slot : Nat) : Option (Nat × Nat) :=
  match kind with
  | .plain => some (1, 0)
  | .verify d =>
    let c := min (s.draftCount n d slot) (s.kvMaxPos n q - 1 - s.se n r slot 8 4)
    some (c + 1, c)
  | .draft t =>
    if s.slotState n t slot = 3 then
      let c := s.draftDepth n r t q slot
      let m := min (s.se n t slot 8 4 + 1) (s.kvMaxPos n q) - s.se n r slot 8 4
      some (m + (c - 1), c)
    else none

/-- Slots from the one after the last taken, wrapping. -/
def liveOrder (r : Rollout) (live : List Nat) : List Nat :=
  (live.filter fun i => decide (r.lastTaken < i)) ++ (live.filter fun i => decide (i ≤ r.lastTaken))

/-- Take LIVE slots while their rows fit in the budget. -/
def takeLive (rows : Nat → Option (Nat × Nat)) : Nat → List Nat → List Fed × Nat
  | left, [] => ([], left)
  | left, i :: t =>
    match rows i with
    | none => takeLive rows left t
    | some (m, d) =>
      if left < m ∨ left = 0 then ([], left)
      else
        let x := takeLive rows (left - m) t
        ({ slot := i, rows := m, live := true, drafts := d } :: x.1, x.2)

/-- Give the budget left to PREFILL chunks in dispatch order. -/
def takePrompts (want : Nat → Nat) : Nat → List Nat → List Fed
  | _, [] => []
  | left, i :: t =>
    let m := min left (want i)
    if m = 0 then [] else { slot := i, rows := m, live := false, drafts := 0 } :: takePrompts want (left - m) t

/-- The rows chosen for a step. -/
def State.selectRows (s : State) (n : Nat) (r : Rollout) (q : Pool) (kind : StepKind) : List Fed :=
  let live := r.slotsInUse.filter fun i => s.slotState n r i == 3
  let x := takeLive (s.liveRows n r q kind) r.batch (liveOrder r live)
  let prompts := (r.reqs.map (·.1)).filter fun i => s.slotState n r i == 2
  x.1 ++ takePrompts (fun i => s.se n r i 12 4 - 1 - s.se n r i 8 4) x.2 prompts

/-- Entries of the fed positions of a table, ascending. -/
def State.fedEntries (s : State) (n : Nat) (q : Pool) (pos rows : Nat) : List Nat :=
  if rows = 0 then [] else
    let pt := s.kvPt n q
    (List.range ((pos + rows - 1) / pt + 1)).drop (pos / pt)

/-- Copy on write the shared pages of some entries, then allocate the missing ones (R345). -/
def obtain_ (n : Nat) (q : Pool) (t : Nat) (es : List Nat) (s : State) : State :=
  let s1 := es.foldl (fun s j =>
    let e := s.te n q t j
    if teValid e && decide (1 < s.pageRef n q (tePage e)) then (cowEntry n q t j s).getD s else s) s
  es.foldl (fun s j => if teValid (s.te n q t j) then s else (newEntry n q t j s).getD s) s1

/-- Positions of a PREFILL chunk whose pages are held or can be had from `free` pages (R348). -/
def State.chunkRows (s : State) (n : Nat) (q : Pool) (t pos rows free : Nat) : Nat :=
  let pt := s.kvPt n q
  let need (j : Nat) : Nat :=
    let e := s.te n q t j
    if !(teValid e) || decide (1 < s.pageRef n q (tePage e)) then 1 else 0
  let rec go : List Nat → Nat → Nat → Nat
    | [], _, last => last
    | j :: js, left, last => if left < need j then last else go js (left - need j) ((j + 1) * pt)
  min rows (go (s.fedEntries n q pos rows) free pos - pos)

/-- Pages withheld for other slots. -/
def keptFor (kept : List (Nat × Nat)) (slot : Nat) : Nat := ((kept.filter fun e => e.1 != slot).map (·.2)).sum

/-- One chosen sequence obtains its pages, or is set HELD and leaves the step (R348). -/
def obtainFor (id k : Nat) (a : State × List (Nat × Nat) × List Fed) (f : Fed) : State × List (Nat × Nat) × List Fed :=
  let s := a.1
  match s.roll? id k with
  | none => a
  | some (n, r, q) =>
    let t := r.tbase + f.slot
    let pos := s.se n r f.slot 8 4
    let free := s.kvFree n q - keptFor a.2.1 f.slot
    let rows := if f.live then (if s.fedNeed n q t pos f.rows ≤ free then f.rows else 0)
      else s.chunkRows n q t pos f.rows free
    if rows = 0 ∧ f.rows ≠ 0 then (hold id k f.slot 0x0410 s, a.2.1, a.2.2)
    else
      (obtain_ n q t (s.fedEntries n q pos rows) s, a.2.1.filter (fun e => e.1 != f.slot), a.2.2 ++ [{ f with rows := rows }])

/-- Stage 6 for the chosen sequences in order: each obtains its pages, then pins those that the step has not pinned yet; the
step waits at a pin that cannot be raised (R337, R341, R345). Answers what it has done, and whether it waits. -/
def stageSix (id k : Nat) : List Fed → Stage6 → State → State × Stage6 × Bool
  | [], x, s => (s, { x with todo := [] }, false)
  | f :: fs, x, s =>
    match s.roll? id k with
    | none => (s, { x with todo := [] }, false)
    | some (n, r, q) =>
      let a := obtainFor id k (s, x.kept, []) f
      let new := if a.2.2.isEmpty then []
        else (((a.1.listed n q (r.tbase + f.slot)).map (·.2)).filter fun p => !(x.pins.contains p)).eraseDups
      if a.1.pinnable n q new then
        stageSix id k fs { x with kept := a.2.1, taken := x.taken ++ a.2.2, pins := x.pins ++ new }
          (new.foldl (fun s p => pinPage n q p s) a.1)
      else (a.1, { x with todo := f :: fs, kept := a.2.1 }, true)

/-- The pins of a step are dropped: at the end of stage 10, or of a failed step (Table 9.8). -/
def unpinStep (n : Nat) (q : Pool) (pins : List Nat) (s : State) : State := pins.foldl (fun s p => unpinPage n q p s) s

/-- A step that waited at a pin goes on no more. -/
def dropStage6 (id k : Nat) (s : State) : State :=
  match s.roll? id k with
  | none => s
  | some (n, r, q) =>
    match r.stage6 with
    | none => s
    | some x => (unpinStep n q x.pins s).updRoll id k fun r => { r with stage6 := none, withheld := [] }

/-! ## Stages 7 and 8 -/

/-- The regions a step reads: the base and the variants of its sequences. -/
def State.stepRegions (s : State) (n : Nat) (r : Rollout) (m : Model) (fs : List Fed) : List Nat :=
  let vs := fs.map fun f => s.se n r f.slot 6 2
  m.indices.filter fun i =>
    match m.regions[i]? with | some x => (x.variant == 0 && !fs.isEmpty) || vs.contains x.variant | none => false

/-- The K and V entries of one fed position in every layer hold free bytes: of a step that failed it is not known which it had
written (R295). -/
def spoilKv (n : Nat) (q : Pool) (t pos : Nat) (s : State) : State :=
  let g := s.kvGeo n q
  let a := s.posVa n q t pos
  let p := pos % s.kvPt n q
  (List.range g.layers).foldl (fun s l =>
    let base := a + l * (g.bk + g.bv)
    let s1 := vwrite n (base + p * g.k) (s.freeBytes g.k) s.nextFree
    vwrite n (base + g.bk + p * g.v) (s1.freeBytes g.v) s1.nextFree) s

/-- Free bytes in the entries of all fed positions. -/
def spoilFed (n : Nat) (r : Rollout) (q : Pool) (fs : List Fed) (s : State) : State :=
  fs.foldl (fun s f =>
    let pos := s.se n r f.slot 8 4
    (List.range f.rows).foldl (fun s i => spoilKv n q (r.tbase + f.slot) (pos + i) s) s) s

/-! ## Stages 9 and 10 -/

/-- FLAGS, FINAL and whether the token ends the sequence (R298). -/
def State.lastTok (s : State) (n : Nat) (r : Rollout) (slot tok : Nat) : Nat × Bool :=
  let stop := (s.stops n r).contains tok
  let last := stop || decide (s.se n r slot 20 4 + 1 = s.se n r slot 16 4) || tok == 0xFFFFFFFF
  (b2n stop + 8 * b2n last, last)

/-- Count committed tokens in the job's window and the module's counter. -/
def countTokens (id c : Nat) (s : State) : State :=
  let add (w : Window) : Window := { w with tokens := w.tokens + c }
  let s1 := s.updJob id fun j => { j with window := j.window.map add }
  { s1 with ctr := { s1.ctr with genTokens := satAdd s1.ctr.genTokens c } }

/-- Commit one token of a sequence (R275, R297, R298): record, then entry. Answers whether the sequence goes on. -/
def commitTok (id n : Nat) (r : Rollout) (slot tok : Nat) (lp : Word) (flags : Nat) (s : State) : State × Bool :=
  let f := s.lastTok n r slot tok
  let gen := s.se n r slot 20 4
  let s1 := vwrite n (s.se n r slot 32 8 + 16 * gen) (tokBytes tok lp r.version.toNat ((r.steps + 1) % 2 ^ 16) (flags + f.1)) s
  let s2 := setSe n r slot 24 4 tok (setSe n r slot 20 4 (gen + 1) (setSe n r slot 8 4 (s.se n r slot 8 4 + 1) s1))
  let s3 := if f.2 then setSe n r slot 5 1 (s.se n r slot 5 1 ||| 2) s2 else s2
  (countTokens id 1 (touch n r slot s3), !f.2)

/-- One plain row: draw number `i` of the step, from its logits. -/
def plainRow (id n i : Nat) (r : Rollout) (slot : Nat) (row : List Word) (s : State) : State :=
  let d := drawAt id i (smpOf r.samplingLo r.samplingHi) row s.nextFree
  (commitTok id n r slot d.1.1 d.1.2 0 d.2).1

/-- Verification of a sequence from row k on (R311): answers the drafts accepted. `i` is the number of row 0, and `at_` its
place among the rows that left the last piece. -/
def verifyRows (id n i : Nat) (r d : Rollout) (slot count : Nat) (x : Option Act) (at_ : Nat) : Nat → Nat → State → State × Nat
  | 0, _, s => (s, 0)
  | fuel + 1, k, s =>
    let y := smpOf r.samplingLo r.samplingHi
    let row := s.stepLogits x (at_ + k) y.vocab
    if count ≤ k then (plainRow id n (i + k) r slot row s, 0)
    else
      let die := s.samplerOf (i + k)
      let v := verifyRow y row (s.draftTok n d slot k) (s.candList n d slot k) (s.samplerStream die) (s.gens id)
      let s1 := noteDraw die y (v.1.1 == 0xFFFFFFFF) (s.nextFree.putGens id v.2)
      let c := commitTok id n r slot v.1.1 v.1.2.1 v.1.2.2.1 s1
      if v.1.2.2.2 ∧ c.2 then
        let rest := verifyRows id n i r d slot count x at_ fuel (k + 1) c.1
        (rest.1, rest.2 + 1)
      else (c.1, b2n v.1.2.2.2)

/-- A draft slot as a draft step leaves it (R308, R309). -/
def putDrafts (n : Nat) (r : Rollout) (slot : Nat) (l : List (Nat × Cand)) (s : State) : State :=
  let a := draftVa r slot
  let s1 := vwrite n a (leBytes 1 l.length ++ leBytes 3 0 ++ (l.flatMap fun e => leBytes 4 e.1)) s
  (l.zip (List.range l.length)).foldl (fun s e => vwrite n (a + 64 + 8192 * e.2) (candBytes e.1.2) s) s1

/-- The candidates from which a row's draft is drawn, with their probabilities in descending order (R308). -/
def draftCands (x : Smp) (row : List Word) : Cand :=
  let l := included 0 row
  if l.isEmpty then []
  else
    let d := if x.greedy then greedyDist l else distOf x l
    (sortToks d.c).map fun t => (t.id, divF t.e d.sC)

/-- Draft tokens of a slot, drawn one after another (R309), with their candidate lists: each is fed for the next. `j` counts them,
`pos` is the position of the first, and a row of `y` gives the next one's logits. -/
def drawDrafts (id k : Nat) (key : Key) (i : Nat) (x : Smp) (slot pos : Nat) :
    Nat → Nat → Option Act × Nat → FeedSt → FeedSt × List (Nat × Cand)
  | 0, _, _, a => (a, [])
  | m + 1, j, y, a =>
    if a.w.2.isSome then (a, [])
    else
      let row := a.w.1.stepLogits y.1 y.2 x.vocab
      let t := drawAt id (i + j) x row a.w.1.nextFree
      let b : FeedSt := { a with w := (t.2, none) }
      let f := if m = 0 then (b, none) else feed id k key [(slot, pos + j, 1)] b
      let rest := drawDrafts id k key i x slot pos m (j + 1) (f.2, 0) f.1
      (rest.1, (t.1.1, draftCands x row) :: rest.2)

/-- Rows that the first run of the layers feeds of a sequence: all, but of a draft step not those of its own drafts. -/
def Fed.first (f : Fed) (kind : StepKind) : Nat :=
  match kind with
  | .draft _ => if f.live then f.rows - (f.drafts - 1) else f.rows
  | _ => f.rows

/-- Draws that a sequence may take: the rows that form logits. -/
def Fed.draws (f : Fed) (kind : StepKind) : Nat :=
  if !f.live then 0 else match kind with | .plain => 1 | .verify _ => f.drafts + 1 | .draft _ => f.drafts

/-- Number of the first draw, and first row among the rows fed, of each sequence. -/
def drawStarts (kind : StepKind) : Nat → Nat → List Fed → List (Fed × Nat × Nat)
  | _, _, [] => []
  | i, r, f :: fs => (f, i, r) :: drawStarts kind (i + f.draws kind) (r + f.first kind) fs

/-- All drafts of a draft step (R309). -/
def drawSlots (id k n : Nat) (key : Key) (r : Rollout) (x : Option Act) (l : List (Fed × Nat × Nat)) (a : FeedSt) :
    FeedSt × List (Nat × List (Nat × Cand)) :=
  (l.filter fun e => e.1.live).foldl (fun b e =>
    let m := e.1.first (.draft r)
    let pos := b.1.w.1.se n r e.1.slot 8 4 + m
    let d := drawDrafts id k key e.2.1 (smpOf r.samplingLo r.samplingHi) e.1.slot pos e.1.drafts 0 (if m = 0 then none else x, e.2.2 + m - 1) b.1
    (d.1, b.2 ++ [(e.1.slot, d.2)])) (a, [])

/-- The draft sequence of a verified slot (R312): LEN no more than the target's, and GEN (R276) and PENDING with it. -/
def followTarget (n : Nat) (r d : Rollout) (slot : Nat) (s : State) : State :=
  let len := s.se n r slot 8 4
  if s.slotState n d slot = 0 ∨ s.se n d slot 8 4 ≤ len then s
  else
    touch n d slot (setSe n d slot 24 4 (s.se n r slot 24 4)
      (setSe n d slot 20 4 (len + 1 - s.se n d slot 12 4) (setSe n d slot 8 4 len s)))

/-- Stages 9 and 10 for one LIVE sequence; `i` is the number of its first draw, `y` and `row` the rows that left the last piece
and its first among them, `ds` its drafts in a draft step. Answers accepted and offered drafts. -/
def commitLive (id n i : Nat) (r : Rollout) (kind : StepKind) (y : Option Act) (row : Nat) (ds : List (Nat × Cand)) (f : Fed)
    (s : State) : State × Nat × Nat :=
  match kind with
  | .plain => (plainRow id n i r f.slot (s.stepLogits y row (smpOf r.samplingLo r.samplingHi).vocab) s, 0, 0)
  | .verify d =>
    let x := verifyRows id n i r d f.slot f.drafts y row (f.drafts + 1) 0 s
    let s1 := if f.drafts = 0 then x.1 else wr n (draftVa d f.slot) 1 0 x.1
    (followTarget n r d f.slot s1, x.2, f.drafts)
  | .draft _ =>
    let s1 := putDrafts n r f.slot ds s
    let len := s1.se n r f.slot 8 4 + f.rows
    let s2 := setSe n r f.slot 20 4 (len + 1 - s1.se n r f.slot 12 4) (setSe n r f.slot 8 4 len s1)
    let s3 := match ds.getLast? with | some e => setSe n r f.slot 24 4 e.1 s2 | none => s2
    (touch n r f.slot s3, 0, 0)

/-- Stages 9 and 10 of all LIVE sequences in row order. -/
def commitAll (id n : Nat) (r : Rollout) (kind : StepKind) (y : Option Act) (ds : List (Nat × List (Nat × Cand))) :
    List (Fed × Nat × Nat) → State → State × Nat × Nat
  | [], s => (s, 0, 0)
  | e :: es, s =>
    if !e.1.live then commitAll id n r kind y ds es s
    else
      let x := commitLive id n e.2.1 r kind y e.2.2 ((tfind ds e.1.slot).getD []) e.1 s
      let z := commitAll id n r kind y ds es x.1
      (z.1, x.2.1 + z.2.1, x.2.2 + z.2.2)

/-- Stage 10 of a PREFILL chunk (R283, R284). -/
def commitPrompt (id k : Nat) (f : Fed) (s : State) : State :=
  match s.roll? id k with
  | none => s
  | some (n, r, q) =>
    match r.req? f.slot with
    | none => s
    | some x =>
      let pos := s.se n r f.slot 8 4
      let len := pos + f.rows
      let last := len + 1 == s.se n r f.slot 12 4
      match vread n s (x.pkt.p1.toNat + 4 * pos) (4 * (f.rows + b2n last)) with
      | .error e => endSeq id k f.slot true (fun p => memFail p e) s
      | .ok b =>
        let s1 := touch n r f.slot (setSe n r f.slot 8 4 len s)
        if !last then s1
        else
          let s2 := setSe n r f.slot 24 4 (leNat (b.drop (4 * f.rows))) s1
          if r.role = 1 then handOff id k f.slot s2 else setState n r q f.slot 3 s2

/-- How a step ended. -/
inductive StepEnd where
  /-- it waits at a pin of its stage 6 -/
  | waits
  /-- it failed (R295): status, reason and results -/
  | failed (status : Byte) (reason : Half) (r0 r1 : Nat)
  /-- an access failed (R82, R508, R509) -/
  | access (e : MemErr)
  | done (accepted offered tokens : Nat)
  deriving DecidableEq, Repr

/-- What a failing tile leaves: two failures recorded by its block, each raising its fault source (R178, R181, R215); the reset of
a block leaves its own. -/
def noteFailure (f : StepFault) (r0 r1 : Nat) (s : State) : State :=
  let d := bn r0 20 16
  let c := bn r0 12 8
  let once (s : State) : State :=
    match f with
    | .arrayChecksum => recordFail d c (r1 % 65536) (r0 % 2, r0 / 2 ^ 24 % 256) s
    | .arrayParity => faultEvent1 (6 * coreIx d c + 1) r0 s
    | .braidParity => faultEvent1 (6 * coreIx d c + 2) (r0 / 2 ^ 24 * 2 ^ 24) (s.updCore d c fun k => { k with brdParity := satAdd k.brdParity 1 })
    | .blockReset _ => s
  once (once s)

/-- Status, reason and results of a failure (R180, R181, R216, R656). -/
def failureOf (f : StepFault) (r0 r1 : Nat) : StepEnd :=
  match f with
  | .arrayChecksum => .failed 0x32 0x0210 r0 r1
  | .arrayParity => .failed 0x31 0x0211 r0 r1
  | .braidParity => .failed 0x31 0x0220 r0 r1
  | .blockReset again => .failed 0x30 (if again then 0x0920 else 0x0921) r0 r1

/-- GEN_DISCARDS counts a step that failed (R315). -/
def countDiscard (s : State) : State := { s with ctr := { s.ctr with genDiscards := satAdd s.ctr.genDiscards 1 } }

/-- First byte that no page maps of the token records that the LIVE sequences of a step have committed since a state. -/
def State.recordHole (s0 s1 : State) (n : Nat) (r : Rollout) (fs : List Fed) : Option Nat :=
  s0.firstHole n ((fs.filter (·.live)).map fun f =>
    let g := s0.se n r f.slot 20 4
    (s0.se n r f.slot 32 8 + 16 * g, 16 * (s1.se n r f.slot 20 4 - g)))

/-- Stages 8 to 10 of a step whose sequences hold their pages. -/
def stepLayers (id k n : Nat) (key : Key) (r : Rollout) (kind : StepKind) (fs : List Fed) (s : State) : State × StepEnd :=
  let s1 := if fs.any (·.live) then markPhase id 0 s else s
  let s2 := if fs.any fun f => !f.live then markPhase id 1 s1 else s1
  let l := drawStarts kind 0 0 fs
  let x := feed id k key (fs.map fun f => (f.slot, s2.se n r f.slot 8 4, f.first kind)) { w := (s2, none), wi := 0, top := key.scratch }
  let y := match kind with
    | .draft _ => drawSlots id k n key r x.2 l x.1
    | _ => (x.1, [])
  match y.1.w.2 with
  | some e => (dropTiles key y.1.w.1, .access e)
  | none =>
    let s3 := y.1.w.1
    let c := commitAll id n r kind x.2 y.2 l s3
    let hole := match kind with | .draft _ => none | _ => s3.recordHole c.1 n r fs
    match hole with
    | some va => (dropTiles key (s3.putGens id (c.1.gens id)), .access (.notMapped va))
    | none =>
      let s4 := (fs.filter fun f => !f.live).foldl (fun s f => commitPrompt id k f s) c.1
      let s5 := dropTiles key (s4.updRoll id k fun r => { r with steps := r.steps + 1 })
      let counts (x : Counters) : Counters :=
        { x with genSteps := satAdd x.genSteps 1, genDrafts := satAdd x.genDrafts c.2.2
                 genAccepts := satAdd x.genAccepts c.2.1 }
      let gens (s : State) : Nat := match kind with | .draft _ => 0 | _ => ((fs.filter (·.live)).map fun f => s.se n r f.slot 20 4).sum
      ({ s5 with ctr := counts s5.ctr }, .done c.2.1 c.2.2 (gens c.1 - gens s3))

/-- In STEP mode a batch step is the turn of its job (R647). -/
def noteTurn (id k : Nat) (s : State) : State :=
  if s.sched.stepMode then
    { s with sched := { s.sched with turnTaken := true } }.updJob id fun j => { j with lastRoll := some k }
  else s

/-- Rollouts of a job whose running step command is theirs, by handle. -/
def State.steppable (s : State) (id : Nat) : List Nat :=
  let l := ((s.job? id).map fun j => j.rollouts.map (·.id)).getD []
  sortBy (fun a b => decide (a < b)) (l.filter fun k => (s.stepList id k).head?.any fun p => bf p.p0 7 0 == k)

/-- The rollout whose batch step a turn in STEP mode takes: one that is in the middle of a step, else round robin after the
last; none once the turn has had its step (R647). -/
def State.turnRoll (s : State) (id : Nat) : Option Nat :=
  let l := s.steppable id
  let last := (s.job? id).bind (·.lastRoll)
  let mid := l.find? fun k => (s.roll? id k).any fun x => x.2.1.stage6.isSome
  if s.sched.turnTaken then none
  else mid.or ((l.find? fun k => last.all fun m => decide (m < k)).or l.head?)

/-- Stages 6 to 10 (Table 8.7); `fail` is what makes the step fail in its stage 8. -/
def runStep (id k : Nat) (key : Key) (kind : StepKind) (fail : Option (StepFault × Nat × Nat)) (s : State) : State × StepEnd :=
  match s.roll? id k with
  | none => (s, .waits)
  | some (n, r, q) =>
    let chosen := s.selectRows n r q kind
    let x : Stage6 := r.stage6.getD { todo := chosen, kept := r.withheld, taken := [], pins := [] }
    let last := ((x.todo.filter (·.live)).getLast?).map (·.slot)
    let a := stageSix id k x.todo x (s.updRoll id k fun r => { r with lastTaken := last.getD r.lastTaken })
    if a.2.2 then (a.1.updRoll id k fun r => { r with stage6 := some a.2.1 }, .waits)
    else
      let fs := a.2.1.taken
      let s1 := a.1.updRoll id k fun r => { r with stage6 := none, withheld := [] }
      let wrong := match s.model? id r.model with
        | some m => s1.wrongTag n m r.version.toNat (s1.stepRegions n r m fs)
        | none => none
      let y :=
        if wrong.isSome then (faultEvent1 2094 id (countDiscard s1), StepEnd.failed 0x32 0x0308 r.version.toNat 0)
        else
          match fail.filter fun _ => !fs.isEmpty with
          | some f => (noteFailure f.1 f.2.1 f.2.2 (countDiscard (spoilFed n r q fs s1)), failureOf f.1 f.2.1 f.2.2)
          | none => stepLayers id k n key r kind fs s1
      (noteTurn id k (unpinStep n q a.2.1.pins y.1), y.2)

/-! ## Step commands (R288, R289, R310) -/

/-- Kind of step that a rollout takes by itself. -/
def State.ownKind (s : State) (id : Nat) (r : Rollout) : StepKind :=
  if r.role = 2 then match s.roll? id r.target with | some (_, t, _) => .draft t | none => .plain else .plain

/-- Kind of step that a command runs on a rollout. -/
def State.kindOf (s : State) (id : Nat) (p : Packet) (r : Rollout) : StepKind :=
  if p.op = 0x0305 then
    match s.roll? id (bf p.p0 15 8) with | some (_, d, _) => .verify d | none => .plain
  else s.ownKind id r

/-- Rows that a slot feeds in the next step of a command (R349). -/
def nextRows (id k : Nat) (kind : StepKind) (s : State) (slot : Nat) : Nat :=
  match s.roll? id k with
  | some (n, r, q) => ((s.liveRows n r q kind slot).map (·.1)).getD 0
  | none => 1

/-- The boundary after the last step of a command; a SPEC_VERIFY's is one of its draft rollout too (R273, R299, R347). -/
def lastBoundary (id k : Nat) (kind : StepKind) (s : State) : State :=
  let s1 := boundary id k (nextRows id k kind) s
  match kind with
  | .verify d =>
    (match s1.roll? id d.id with
     | some (_, r, _) => boundary id d.id (nextRows id d.id (s1.ownKind id r)) s1
     | none => s1)
  | _ => s1

/-- A step failed: the boundary follows, and its command ends (R295). -/
def failStep (id k : Nat) (kind : StepKind) (p : Packet) (post : Packet → State → State) (s : State) : State :=
  let s1 := lastBoundary id k kind s
  if (s1.open? p.key).isSome then post p (dropStep id p s1) else s1

/-- An ABORT let the running step complete (R301): the command ends after the boundary, with the ABORT's own end. -/
def abortStep (id k : Nat) (kind : StepKind) (p : Packet) (s : State) : State :=
  failStep id k kind p (fun p s => noteAbort p.key true (postFinal p 0x02 0x0000 0 0 s)) s

/-- First byte that no page maps of what a step uses of a rollout: its sequences', the pages of its tables, its stop tokens or
draft area (R82). -/
def State.useHole (s : State) (id k : Nat) : Option Nat :=
  match s.roll? id k with
  | none => none
  | some (n, r, q) =>
    (s.rollHole n r q).or (s.firstHole n
      ((if r.role = 2 then [(r.stops, 65600 * r.slots)] else if r.stops = 0 then [] else [(r.stops, 16)])
      ++ r.slotsInUse.flatMap fun i => (s.listed n q (r.tbase + i)).map fun x => (s.pageVa n q x.2, s.kvStr n q)))

/-- First byte that no page maps of what a step uses. -/
def State.stepHole (s : State) (id k : Nat) (kind : StepKind) : Option Nat :=
  match kind with
  | .plain => s.useHole id k
  | .draft t => (s.useHole id k).or (s.useHole id t.id)
  | .verify d => (s.useHole id k).or (s.useHole id d.id)

/-- What follows a step that did not complete; none when it did. -/
def stepEnded (id k : Nat) (kind : StepKind) (p : Packet) (x : State × StepEnd) : Option State :=
  match x.2 with
  | .waits => some x.1
  | .failed status reason r0 r1 => some (failStep id k kind p (fun p => postFinal p status reason r0 r1) x.1)
  | .access e => some (failStep id k kind p (fun p => memFail p e) x.1)
  | .done _ _ _ => if x.1.abortOn p.key then some (abortStep id k kind p x.1) else none

/-- One batch step of a ROLLOUT_STEP (R288). -/
def batchPlain (id k : Nat) (p : Packet) (r : Rollout) (kind : StepKind) (fail : Option (StepFault × Nat × Nat)) (s : State) :
    State :=
  let b := if r.stage6.isSome then s else boundary id k (nextRows id k kind) s
  match b.open? p.key, b.roll? id k with
  | some { pkt := _, prog := .rolloutStep _ _ _ _ }, some (n, r1, _) =>
    let want := bf p.p0 31 16
    let busy := r1.reqs.any fun e => let st := b.slotState n r1 e.1; decide (1 ≤ st ∧ st ≤ 3)
    if want = 0 ∧ !busy then doneStep id k p b
    else
      let x := runStep id k p.key kind fail b
      match stepEnded id k kind p x with
      | some s1 => s1
      | none =>
        let got := match x.2 with | .done _ _ g => g | _ => 0
        match x.1.open? p.key with
        | some { pkt := _, prog := .rolloutStep _ steps toks ended } =>
          let s1 := x.1.setProg p.key (.rolloutStep k (steps + 1) (toks + got) ended)
          if want = steps + 1 then
            let s2 := lastBoundary id k kind s1
            if (s2.open? p.key).isSome then doneStep id k p s2 else s2
          else s1
        | _ => x.1
  | _, _ => b

/-- The batch step of a SPEC_VERIFY (R310). -/
def batchVerify (id k : Nat) (p : Packet) (r : Rollout) (kind : StepKind) (fail : Option (StepFault × Nat × Nat)) (s : State) :
    State :=
  let b := if r.stage6.isSome then s else boundary id k (nextRows id k kind) s
  match b.open? p.key, b.roll? id k with
  | some _, some _ =>
    let x := runStep id k p.key kind fail b
    match stepEnded id k kind p x, x.2 with
    | some s1, _ => s1
    | none, .done acc off got =>
      let s2 := lastBoundary id k kind x.1
      if (s2.open? p.key).isSome then endStep id p 0 0 (acc % 2 ^ 32 + got % 2 ^ 32 * 2 ^ 32) off s2 else s2
    | none, _ => x.1
  | _, _ => b

/-- BATCH_STEP (R290): the running step command of the rollout takes its next step, or goes on with one that waited at a pin;
none while a core takes no tiles (R259), or in STEP mode out of turn (R647). -/
def batchStep (id k : Nat) (fail : Option (StepFault × Nat × Nat)) (s : State) : State :=
  match s.stepList id k, s.roll? id k with
  | p :: _, some (_, r, _) =>
    if bf p.p0 7 0 ≠ k ∨ !(s.runs p) ∨ !(s.coreOrder.all fun x => s.takesTiles x.1 x.2)
        ∨ (s.sched.stepMode ∧ s.turnRoll id ≠ some k) then s
    else
      let kind := s.kindOf id p r
      match s.stepHole id k kind with
      | some va => memFail p (.notMapped va) (dropStep id p (dropStage6 id k s))
      | none => if p.op = 0x0305 then batchVerify id k p r kind fail s else batchPlain id k p r kind fail s
  | _, _ => s

/-- EXHAUSTION_POLICY (R350): stage 4 deals with one slot of a rollout. -/
def exhaustion (id k slot : Nat) (s : State) : State :=
  match s.roll? id k with
  | none => s
  | some (_, r, _) =>
    if r.stage6.isSome then s
    else
      let kind := match s.stepList id k with
        | p :: _ => if bf p.p0 7 0 = k then s.kindOf id p r else s.ownKind id r
        | [] => s.ownKind id r
      serveSlots4 id k (nextRows id k kind s) [slot] s

/-- Enter a step command in the order of its rollout. -/
def enterStep (id k : Nat) (p : Packet) (g : Progress) (s : State) : State :=
  match s.roll? id k with
  | some (_, r, _) => (s.openCmd p g).updRoll id r.owner fun r => { r with stepCmds := r.stepCmds ++ [p] }
  | none => s

/-- ROLLOUT_STEP (R288, R281). -/
def effRolloutStep (p : Packet) (s : State) : State :=
  let k := bf p.p0 7 0
  match s.roll? p.job k with
  | none => postErr p 0x0302 k s
  | some _ => enterStep p.job k p (.rolloutStep k 0 0 0) s

/-- SPEC_VERIFY (R310, R281). -/
def effSpecVerify (p : Packet) (s : State) : State :=
  let k := bf p.p0 7 0
  let d := bf p.p0 15 8
  match s.roll? p.job k, s.roll? p.job d with
  | none, _ => postErr p 0x0302 k s
  | _, none => postErr p 0x0302 d s
  | some _, some (_, r, _) =>
    if r.role ≠ 2 ∨ r.target ≠ k then postErr p 0x0303 d s
    else enterStep p.job k p (.specVerify k d) s

/-- ROLLOUT_STEP (R288). -/
def execRolloutStep (p : Packet) (s : State) : Out := submit effRolloutStep p s
/-- SPEC_VERIFY (R310). -/
def execSpecVerify (p : Packet) (s : State) : Out := submit effSpecVerify p s
/-- BATCH_STEP (R290). -/
def execBatchStep (roll : Nat × Nat) (fail : Option (StepFault × Nat × Nat)) (s : State) : Out :=
  .next (batchStep roll.1 roll.2 fail s)
/-- EXHAUSTION_POLICY (R350). -/
def execExhaustionPolicy (job rollout slot : Nat) (s : State) : Out := .next (exhaustion job rollout slot s)

end Sys2Proof.Machine
end

