-- ==== Sys2Proof/Machine/Attn.lean ====
section
/-! DEFINITION. ATTN_FWD, fused attention (R302 to R307 of spec/08_rollout_generation.md; R335, R341 of
spec/09_kv_pages.md). -/

namespace Sys2Proof.Machine

open Sys2Proof

/-- Parameters of an attention command (Table 8.10). -/
structure AttnP where
  heads : Nat
  kvHeads : Nat
  dim : Nat
  fqk : Nat
  fpv : Nat
  word : Nat
  stats : Bool
  paged : Bool
  causal : Bool
  scale : Word
  window : Nat
  deriving DecidableEq, Repr

/-- The parameters of a packet. -/
def attnOf (p : Packet) : AttnP :=
  { heads := bf p.p0 31 16, kvHeads := bf p.p0 15 0, dim := bf p.p1 63 48, fqk := bf p.p1 47 40, fpv := bf p.p1 39 32
    word := bf p.p1 31 16, stats := p.p1.getLsbD 2, paged := p.p1.getLsbD 1, causal := p.p1.getLsbD 0
    scale := BitVec.ofNat 32 (bf p.p2 63 32), window := bf p.p2 31 0 }

/-- Malformed parameters of an attention command (R84). -/
def AttnP.bad (x : AttnP) : Bool :=
  x.heads == 0 || decide (256 < x.heads) || x.kvHeads == 0 || x.heads % x.kvHeads != 0 || decide (x.dim < 32 ∨ 512 < x.dim)
  || x.dim % 32 != 0 || (pairRates x.fqk x.fqk).isNone || !(kvFmt x.fpv) || (x.window != 0 && !x.causal)
  || !(fmtOk (x.word % 256)) || x.word % 256 == 0x0D

/-- A length table. -/
def lenEntries (b : List Byte) (k : Nat) : List LenEntry :=
  (List.range k).map fun i =>
    { qOff := blk b (16 * i) 4, qLen := blk b (16 * i + 4) 4, kvLen := blk b (16 * i + 8) 4, kvRef := blk b (16 * i + 12) 4 }

/-- A paged command that R335 rules out. -/
def State.attnPagedBad (s : State) (n : Nat) (x : AttnP) (q : Pool) (layer : Nat) (es : List LenEntry) : Bool :=
  s.cb n q 1 1 != x.fqk || s.cb n q 2 1 != x.fpv || decide (s.cb n q 4 2 ≤ layer) || s.cb n q 6 2 != x.kvHeads
  || s.cb n q 8 2 != x.dim
  || es.any fun e => e.qLen != 0 && (decide (s.kvTables n q ≤ e.kvRef) ||
      (List.range (s.covers n q e.kvLen)).any fun j => let t := s.te n q e.kvRef j; !(teValid t) && !(teSpilled t))

/-- Entries of a table that hold the positions of a length table entry. -/
def State.attnEntries (s : State) (n : Nat) (q : Pool) (e : LenEntry) : List Nat :=
  if e.qLen = 0 then [] else List.range (s.covers n q e.kvLen)

/-- Pages that the command pins, each once (R337). -/
def State.attnPages (s : State) (n : Nat) (q : Pool) (es : List LenEntry) : List Nat :=
  (es.flatMap fun e => (s.attnEntries n q e).filterMap fun j =>
    let t := s.te n q e.kvRef j
    if teValid t then some (tePage t) else none).eraseDups

/-- An attention command as a work: its operands by the operand table, K and V of a KV pool by the pages of each entry. -/
def State.attnWork (s : State) (p : Packet) (x : AttnP) (ops : List Byte) (es : List LenEntry) (q : Option Pool) : Work :=
  let n := p.vi
  let kv := match q with
    | some q => s.poolOpnds n q (bf p.p4 47 32)
    | none => (opndOf n (entryOf ops 1) x.fqk false, opndOf n (entryOf ops 2) x.fpv false)
  { kind := .attn
    attn := { heads := x.heads, kvHeads := x.kvHeads, dim := x.dim, fqk := x.fqk, fpv := x.fpv, word := x.word, stats := x.stats
              causal := x.causal, scale := x.scale, window := x.window, entries := es
              pages := match q with
                | some q => es.map fun e => (s.attnEntries n q e).map fun j => s.posVa n q e.kvRef (j * s.kvPt n q)
                | none => []
              q := opndOf n (entryOf ops 0) x.fqk false, k := kv.1, v := kv.2
              o := opndOf n (entryOf ops 3) (x.word % 256) false, st := opndOf n (entryOf ops 4) 1 false } }

/-- An attention command is dispatched: its pages are pinned, its tiles cut and placed (R238, R337); with no query row it has none
and completes. -/
def launchAttn (p : Packet) (w : Work) (pool : Option Pool) (pins : List Nat) (s : State) : State :=
  let s1 := match pool with | some q => pins.foldl (fun s x => pinPage p.vi q x s) s | none => s
  let g : Progress := .works [w] 0 0 ((pool.map (·.id)).getD 0) pins
  let s2 := if (s1.open? p.key).isSome then s1.setProg p.key g else s1.openCmd p g
  let tiles := s.tilesOf p.key 0 w s.coreOrder
  if tiles.isEmpty then postDone p 0 0 (dropTiles p.key s2) else { s2 with tiles := s2.tiles ++ tiles }

/-- Run an attention command whose operand and length tables are read. -/
def runAttn (p : Packet) (x : AttnP) (ops lens : List Byte) (s : State) : State :=
  let es := lenEntries lens (bf p.p0 63 32)
  if es.any fun e => decide (e.kvLen < e.qLen) then postFree p s
  else if x.paged then
    match s.pool? p.job (bf p.p4 63 48) with
    | none => postErr p 0x0401 (bf p.p4 63 48) s
    | some q =>
      match s.firstHole p.vi (s.poolRanges p.vi q ((es.filter fun e => e.qLen != 0).map (·.kvRef))) with
      | some va => memFail p (.notMapped va) s
      | none =>
        if s.attnPagedBad p.vi x q (bf p.p4 47 32) es then postFree p s
        else
          let pins := s.attnPages p.vi q es
          if s.pinnable p.vi q pins then launchAttn p (s.attnWork p x ops es (some q)) (some q) pins s
          else if (s.open? p.key).isSome then s
          else s.openCmd p .attn
  else launchAttn p (s.attnWork p x ops es none) none [] s

/-- ATTN_FWD (R302). -/
def effAttnFwd (p : Packet) (s : State) : State :=
  let x := attnOf p
  if x.bad ∨ bf p.p0 63 32 = 0 ∨ 65536 < bf p.p0 63 32 then postFree p s
  else
    match vread p.vi s p.p3.toNat 192 with
    | .error e => memFail p e s
    | .ok ops =>
      match vread p.vi s (entryOf ops 5).base (16 * bf p.p0 63 32) with
      | .error e => memFail p e s
      | .ok lens => runAttn p x ops lens s

/-- ATTN_FWDs that wait for a pin try again (R341). -/
def settleAttn (s : State) : State :=
  s.opens.foldl (fun s o => if o.prog = .attn ∧ s.runs o.pkt then effAttnFwd o.pkt s else s) s

/-- ATTN_FWD (R305). -/
def execAttnFwd (p : Packet) (s : State) : Out := submit effAttnFwd p s

end Sys2Proof.Machine
end

