-- ==== Sys2Proof/Machine/Drain.lean ====
section
/-! DEFINITION. MODEL_DRAIN (R467, R468 of spec/11_weights_and_freshet.md). -/

namespace Sys2Proof.Machine

open Sys2Proof

/-- An entered FLIP ends with MODEL_DRAINED (R467, 2). -/
def dropFlip (n id : Nat) (m : Model) (s : State) : State :=
  match m.flip with
  | none => s
  | some f => postErr f 0x060B m.handle (clearFlip n id m (unschedule f.key s))

/-- CLOSE: the open rollouts on the model close as a CLOSE closes them (R467, 3; R273). -/
def closeOn (p : Packet) (h : Nat) (s : State) : State :=
  let ks := ((s.job? p.job).map fun j => (j.rollouts.filter fun r => r.model == h).map (·.id)).getD []
  ks.foldl (fun s k =>
    if s.stepRunning p.job k then s.updRoll p.job k fun r => { r with closing := r.closing.or (some p) }
    else if (s.roll? p.job k).isSome then closeRollout p.job k s else s) s

/-- Regions of a model in reception. -/
def State.filling (s : State) (n : Nat) (m : Model) : List Nat := m.indices.filter fun i => ssOf (s.stw n m i) == 2

/-- A drain waits no longer for a rollout or for a command that names the model (R467, 3 and 4). -/
def State.drainReady (s : State) (p : Packet) (h : Nat) : Bool :=
  !(((s.job? p.job).map fun j => j.rollouts.any fun r => r.model == h).getD false)
  && !(s.opens.any fun o => o.pkt.key != p.key && s.namedBy p.job h o)

/-- Steps 4 to 6 of R467: every state word becomes CLOSED, and with none FILLING the model goes. -/
def tryDrain (o : OpenCmd) (s : State) : State :=
  match o.prog with
  | .drain id h =>
    (match s.model? id h with
     | none => s
     | some m =>
       if !(s.drainReady o.pkt h) then s
       else
         let n := o.pkt.vi
         let wait := s.filling n m
         let s1 := (m.indices.filter fun i => !(wait.contains i)).foldl (fun s i => setSs n m i 6 s) s
         if !wait.isEmpty then s1
         else
           let units := m.units + (m.variants.map (·.units)).sum
           let s2 := m.variants.foldl (fun s v => unmapArea n v.wbase v.units s) (unmapArea n m.wbase m.units s1)
           postDone o.pkt units 0 (s2.updJob id fun j => { j with models := j.models.filter fun x => x.handle != h }))
  | _ => s

/-- MODEL_DRAIN (R467). -/
def effModelDrain (p : Packet) (s : State) : State :=
  let h := bf p.p0 15 0
  match s.model? p.job h with
  | none => postErr p 0x0608 h s
  | some m =>
    if m.drain.isSome then postErr p 0x0609 h s
    else
      let s1 := dropFlip p.vi p.job m (wr p.vi (m.wbase + 4) 1 1 s)
      let s2 := if p.p0.getLsbD 16 then closeOn p h s1 else s1
      let last := s.ftu.count.toNat + bf p.p1 31 0
      let s3 := (s2.updModel p.job h fun m => { m with drain := some (p, last) }).openCmd p (.drain p.job h)
      tryDrain { pkt := p, prog := .drain p.job h } s3

/-- Drains go on as what they wait for ends. -/
def settleDrains (s : State) : State :=
  s.opens.foldl (fun s o => tryDrain o s) s

/-- DRAIN_TIMEOUT (R468): TIMEOUT frets have passed since the dispatch of the drain. -/
def drainTimeout (id h : Nat) (s : State) : State :=
  match s.model? id h with
  | none => s
  | some m =>
    match m.drain with
    | none => s
    | some (p, last) =>
      if s.ftu.count.toNat < last then s
      else
        postErr p 0x060A (s.filling p.vi m).length (s.updModel id h fun m => { m with drain := none })

/-- MODEL_DRAIN (R467). -/
def execModelDrain (p : Packet) (s : State) : Out := submit effModelDrain p s
/-- DRAIN_TIMEOUT (R468). -/
def execDrainTimeout (job model : Nat) (s : State) : Out := .next (drainTimeout job model s)

end Sys2Proof.Machine
end

