-- ==== Sys2Proof/Machine/Learn.lean ====
section
/-! DEFINITION. Learning commands (spec/10_learning_passes.md): passes, UPDATE, STEP_SIZE_SET, ATTN_BWD and
PHASE_TIMES_READ. -/

namespace Sys2Proof.Machine

open Sys2Proof

/-! ## Order of a step (Table 10.1, R362, R363) -/

/-- A pass of a step is in progress. -/
def State.passOpen (s : State) (id : Nat) (bwd : Bool) (step : Dword) : Bool :=
  s.opens.any fun o => o.pkt.job == id && isPass o.pkt bwd && o.pkt.p0 == step

/-- What the job keeps of a step whose PASS_FWDs count as dispatched: one in progress or completed with DONE (R363). -/
def State.stepOf (s : State) (id : Nat) (step : Dword) : Option StepPasses :=
  ((s.job? id).bind fun j => j.passes.find? fun x => x.step == step).filter fun x =>
    s.passOpen id false step || !x.fwdDone.isEmpty

/-- A PASS_FWD of a later step counts as dispatched. -/
def State.laterFwd (s : State) (id : Nat) (step : Dword) : Bool :=
  ((s.job? id).map fun j => j.passes.any fun x => decide (step < x.step) && (s.stepOf id x.step).isSome).getD false

/-- A PASS_BWD of the step or of a later one counts as dispatched. -/
def State.bwdFrom (s : State) (id : Nat) (step : Dword) : Bool :=
  ((s.job? id).map fun j => j.passes.any fun x =>
    decide (step ≤ x.step) && (s.passOpen id true x.step || !x.bwdDone.isEmpty)).getD false

/-- The refusals of Table 10.1, in its order. -/
def orderRefusal (p : Packet) (x : PassP) (s : State) : Option (Byte × Half × Nat) :=
  let st := s.stepOf p.job x.step
  let wrong := if x.bwd then st.isNone || s.laterFwd p.job x.step else s.bwdFrom p.job x.step
  let done := (st.map fun e => if x.bwd then e.bwdDone else e.fwdDone).getD []
  if wrong then some (0xFF, 0x0501, x.step.toNat)
  else if x.mbCount ≤ x.mb ∨ done.contains x.mb then some (0xFF, 0x0503, x.mb)
  else
    match st with
    | some e => if e.mbCount ≠ x.mbCount then some (0xFF, 0x0502, e.mbCount) else none
    | none => none

/-- Enter a dispatched PASS_FWD in the job's steps. -/
def noteFwd (id : Nat) (x : PassP) (s : State) : State :=
  let keep := s.stepOf id x.step
  let e : StepPasses := keep.getD
    { step := x.step, mbCount := x.mbCount, saved := [], anyBwd := false, fwdDone := [], bwdDone := [] }
  s.updJob id fun j => { j with passes := (j.passes.filter fun y => y.step != x.step) ++ [e] }

/-- A PASS_FWD of another step closes the job's window at the fret before, and the next one opens (R419, R420). -/
def turnWindow (id : Nat) (step : Dword) (s : State) : State :=
  match (s.job? id).bind (·.window) with
  | some w =>
    if w.step.isNone ∨ w.step = some step then s
    else
      let s1 := openWindow id s.ftu.count (closeWindow id 0 (s.ftu.count - 1) s)
      s1.updJob id fun j => { j with window := j.window.map fun x => { x with active := w.active } }
  | none => s

/-! ## What a pass checks (R370, R371, R380, R383) -/

/-- Base regions that the pieces of a range own, by index. -/
def Model.ownedBy (m : Model) (first n : Nat) : List (Nat × Region) :=
  ((m.regions.zip (List.range m.regions.length)).filter fun e =>
    e.1.variant == 0 && decide (first ≤ e.1.piece ∧ e.1.piece < first + n)).map fun e => (e.2, e.1)

/-- TRANSPOSED. -/
def Region.transposed (r : Region) : Bool := r.flags.getLsbD 1

/-- Bytes of G for the parameter tensors of a range, at a size per element (R384, R433). -/
def Model.gradBytes (m : Model) (first n size : Nat) : Nat := ((m.tensors first n size).map (·.2)).sum

/-- First region that a pass reads whose tag is not VERSION (R371). -/
def State.passTag (s : State) (n : Nat) (m : Model) (x : PassP) : Option Nat :=
  s.wrongTag n m x.version (((m.ownedBy x.first x.pieces).filter fun e => !e.2.transposed).map (·.1))

/-- Weight regions of a piece: W, or of EXPERTS the E regions from W. -/
def Piece.weights (c : Piece) : List Nat :=
  match c.kind with
  | 1 | 3 => [c.w]
  | 4 => (List.range c.experts).map (c.w + ·)
  | _ => []

/-- Formats of a piece's weights. -/
def Model.wFmts (m : Model) (c : Piece) : List Nat := c.weights.filterMap fun i => (m.regions[i]?).map (·.fmt)

/-- The pieces of a range with their indices. -/
def Model.range (m : Model) (first n : Nat) : List (Nat × Piece) :=
  ((m.pieces.zip (List.range m.pieces.length)).filter fun e => decide (first ≤ e.2 ∧ e.2 < first + n)).map fun e => (e.2, e.1)

/-- First piece whose Wᵀ cannot be had under STRICT_T (Table 10.6). -/
def State.noCopy (s : State) (n : Nat) (m : Model) (x : PassP) : Option Nat :=
  if !x.strictT then none
  else
    ((m.range x.first x.pieces).find? fun e =>
      !(x.noDx && e.1 == x.first) && (m.wFmts e.2).any isMx
      && (e.2.wt == 0xFFFF || (s.wrongTag n m x.version [e.2.wt]).isSome)).map (·.1)

/-! ## What a forward pass leaves for the backward pass (Table 10.4) -/

/-- What the job keeps of a microbatch's PASS_FWD: its ACT_NARROW word, its first piece, and for each piece the format in which its X
was saved and whether a stage ended with it. -/
structure SavedPass where
  word : Nat
  first : Nat
  fmts : List Nat
  ends : List Bool
  deriving DecidableEq, Repr

/-- As the state holds it. -/
def SavedPass.list (x : SavedPass) : List Nat := [x.word, x.first] ++ (x.fmts.zip x.ends).map fun e => e.1 + 256 * b2n e.2

/-- What the job keeps of a microbatch. -/
def State.savedOf (s : State) (id : Nat) (step : Dword) (mb : Nat) : SavedPass :=
  let l := ((s.stepOf id step).bind fun e => tfind e.saved mb).getD []
  { word := l.getD 0 1, first := l.getD 1 0, fmts := (l.drop 2).map (· % 256), ends := (l.drop 2).map fun v => decide (256 ≤ v) }

/-- Format of the saved X of a piece. -/
def SavedPass.fmtOf (x : SavedPass) (i : Nat) : Nat := if x.first ≤ i then x.fmts.getD (i - x.first) (x.word % 256) else x.word % 256

/-- First piece whose operand pairs are outside Table 4.5 (R383). -/
def Model.badPair (m : Model) (x : PassP) (v : SavedPass) : Option Nat :=
  let dx := x.word % 256
  ((m.range x.first x.pieces).find? fun e =>
    (m.wFmts e.2).any fun f => (pairRates dx f).isNone || (pairRates (v.fmtOf e.1) dx).isNone).map (·.1)

/-! ## The plan of a pass (R266, R366 to R384) -/

/-- The range has attention pieces: the length table is read (Table 10.3). -/
def Model.attends (m : Model) (x : PassP) : Bool := (m.range x.first x.pieces).any fun e => e.2.kind == 2

/-- Length table entries that do not fit the rows of the microbatch (R303, R84). -/
def entriesBad (rows : Nat) (es : List LenEntry) : Bool :=
  es.any fun e => decide (e.kvLen < e.qLen) || (e.qLen != 0 && decide (rows < e.qOff + e.qLen ∨ rows < e.kvRef + e.kvLen))

/-- Elements of a row that leaves piece i. -/
def Model.outCols (m : Model) (x : PassP) (i : Nat) : Nat :=
  if (m.piece i).kind = 2 then
    m.inCols x.first x.pieces i - 2 * m.kvWidth
  else match m.fwdProg i with | some b => (progOf b).outCols 0 (m.cols i) | none => m.cols i

/-- What the pieces of a pass run on: IN, the length table, SAVE of a forward pass, and OUT when it is in this module. -/
def passCtx (n : Nat) (m : Model) (x : PassP) (b : PassBlock) (es : List LenEntry) : PlanCtx :=
  let f := x.word % 256
  let cols := if x.bwd then m.outCols x (x.first + x.pieces - 1) else m.inCols x.first x.pieces x.first
  { n := n, m := m, rows := b.rows, first := x.first, count := x.pieces, word := some x.word
    inp := { o := denseOpnd n b.inp f b.rows cols, cols := cols }, entries := es
    save := if x.bwd then none else some b.save, groups := [(0, List.range b.rows)], pool := none, pages := []
    outVa := if x.bwd ∨ b.outModule ≠ 0xFFFF then none else some b.out, split := [], ends := [] }

/-- A pass as it is launched: its works with their cores, what they find in memory, where OUT lies, the ranges that it writes, and
what it saves for the backward pass. -/
structure Launch where
  plan : Plan
  cores : List (List (Nat × Nat))
  out : Option Act
  spans : List (Nat × Nat)
  saved : Option SavedPass

/-- Ranges of rows one after another. -/
def rowRanges (o : Opnd) (rows cols : Nat) : List (Nat × Nat) :=
  (o.base, rows * plane1Bytes o.fmt cols)
  :: (if plane2Bytes o.fmt cols = 0 then [] else [(o.plane2, rows * plane2Bytes o.fmt cols)])

/-- A forward pass (R373, R375). -/
def State.launchFwd (s : State) (c0 : PlanCtx) (b : PassBlock) (base : Nat) : Launch :=
  let c := c0.staged s base
  let a := c.1.forwardAll s (Plan.start base)
  let out := (a.outs.getLast?).map (·.2)
  { plan := a, cores := c.2, out := out
    spans := (match out with | some o => if c0.outVa.isSome then rowRanges o.o c0.rows o.cols else [] | none => [])
      ++ [(b.save, c0.m.saveBytes c0.first c0.count (c0.word.getD 0 % 256) c0.rows)]
    saved := some { word := c0.word.getD 0, first := c0.first, fmts := c.1.xFmts a, ends := c.1.ends } }

/-- A backward pass on what a forward pass saved (R377 to R384). -/
def State.launchBwd (s : State) (c : PlanCtx) (x : PassP) (b : PassBlock) (v : SavedPass) (isFirst : Bool) (base : Nat) : Launch :=
  let cols := c.m.inCols c.first c.count c.first
  let local_ := b.outModule == 0xFFFF
  let room := (Plan.start base).alloc (x.word % 256) c.rows cols
  let out : Act := { o := if local_ then denseOpnd c.n b.out (x.word % 256) c.rows cols else room.1, cols := cols }
  let from_ : PlanCtx := { c with first := v.first, count := v.fmts.length, word := some v.word, ends := v.ends }
  let y : BwdCtx :=
    { c := c, version := x.version, dx := x.word, gw := x.gWord, noDx := x.noDx, gacc := b.gacc, isFirst := isFirst
      save := b.save, from_ := from_, fmts := v.fmts, out := out }
  let a := y.backward s room.2
  let costs := (List.range c.count).map fun k => s.pieceCost a (c.first + k)
  { plan := a, cores := s.stageCores c.blocks costs, out := if x.noDx then none else some out
    spans := (b.gacc, c.m.gradBytes c.first c.count y.gSize)
      :: (if local_ && !x.noDx then rowRanges out.o c.rows cols else [])
    saved := none }

/-- Where the output of piece k of a range waits: at the core of the stage after it, of the one before it in a backward
pass (R267, R268). -/
def Launch.place (l : Launch) (bwd : Bool) (k rows : Nat) (w : Work) : Nat :=
  let mine := (l.cores.getD k []).getLastD (0, 0)
  let next := ((l.cores.getD (if bwd then k - 1 else k + 1) []).head?).getD mine
  let o := w.dsts.headD w.y
  placeOf (denseBytes o.fmt rows (if w.dsts.isEmpty then w.n else w.rowLen)) next

/-- The works of a launch, each with its cores. -/
def Launch.works (l : Launch) (s : State) (bwd : Bool) (first rows : Nat) : List (Work × List (Nat × Nat)) :=
  l.plan.works.map fun e =>
    ({ s.planWork e.2 with place := l.place bwd (e.1 - first) rows e.2 }, l.cores.getD (e.1 - first) [])

/-- The tiles of works on the cores of their stages. -/
def State.stageTiles (s : State) (k : Key) (ws : List (Work × List (Nat × Nat))) : List Tile :=
  (ws.zip (List.range ws.length)).flatMap fun w => s.tilesAt k w.2 w.1.1 w.1.2

/-- Note in the job what a pass that starts saves, or that a PASS_BWD of the step has started (R384). -/
def notePass (id : Nat) (x : PassP) (saved : Option SavedPass) (s : State) : State :=
  s.updJob id fun j => { j with passes := j.passes.map fun e =>
    if e.step ≠ x.step then e
    else match saved with
      | some v => { e with saved := tset e.saved x.mb v.list }
      | none => { e with anyBwd := true } }

/-- A pass issues its tiles: all are cut and placed here (R238, R266). -/
def runPass (p : Packet) (m : Model) (b : PassBlock) (block : List Byte) (es : List LenEntry) (since : Dword) (waited : Nat)
    (s : State) : State :=
  let x := passOf p
  let c := passCtx p.vi m x b es
  let isFirst := !(((s.stepOf p.job x.step).map (·.anyBwd)).getD false)
  let l := if x.bwd then s.launchBwd c x b (s.savedOf p.job x.step x.mb) isFirst p.key.scratch
    else s.launchFwd c b p.key.scratch
  let ws := l.works s x.bwd x.first b.rows
  let tiles := s.stageTiles p.key ws
  let w := l.plan.prepare (notePass p.job x l.saved s).nextFree
  match w.2 with
  | some e => memFail p e (dropTiles p.key w.1)
  | none =>
    let out := if b.outModule = 0xFFFF then [] else (l.out.map fun o => rowRanges o.o b.rows o.cols).getD []
    let s1 := w.1.setProg p.key (.passRun x.bwd since waited tiles.length (ws.map (·.1)) block out l.spans)
    if tiles.isEmpty then endPassRun p since waited 0 block out s1 else { s1 with tiles := s1.tiles ++ tiles }

/-- The length table of a pass, read where the range has attention pieces. -/
def readLens (n : Nat) (m : Model) (x : PassP) (b : PassBlock) (s : State) : Except MemErr (List LenEntry) :=
  if m.attends x then
    match vread n s b.lentab (16 * b.seqs) with
    | .error e => .error e
    | .ok l => .ok (lenEntries l b.seqs)
  else .ok []

/-- A pass whose waits have ended: its checks, then its work. -/
def startPass (p : Packet) (block : List Byte) (since : Dword) (waited : Nat) (s : State) : State :=
  let x := passOf p
  let b := blockOf block
  match s.model? p.job x.model with
  | none => postErr p 0x0608 x.model s
  | some m =>
    match s.passTag p.vi m x with
    | some i =>
      let s1 := { s with ctr := { s.ctr with lrnMismatch := satAdd s.ctr.lrnMismatch 1 } }
      faultEvent1 2094 p.job (postFinal p 0x32 0x0506 (s.ent p.vi m i 48 4) x.version s1)
    | none =>
      match if x.bwd then s.noCopy p.vi m x else none, if x.bwd then m.badPair x (s.savedOf p.job x.step x.mb) else none with
      | some i, _ => postErr p 0x0505 i s
      | none, some i => postErr p 0x0504 i s
      | none, none =>
        match readLens p.vi m x b s with
        | .error e => memFail p e s
        | .ok es => if entriesBad b.rows es then postFree p s else runPass p m b block es since waited s

/-- Commands dispatched before one and not ended. -/
def State.before (s : State) (k : Key) : List OpenCmd := s.opens.takeWhile fun o => o.pkt.key != k

/-- A pass of the job that has not started. -/
def OpenCmd.passWaits (o : OpenCmd) : Bool := match o.prog with | .pass _ _ _ => true | _ => false

/-- What Table 10.1 and R365 make a pass wait for has ended: UPDATEs of earlier steps, the forward passes of the step, and
the passes dispatched before it. -/
def State.passTurn (s : State) (p : Packet) : Bool :=
  let x := passOf p
  let old := (s.before p.key).filter fun o => o.pkt.job == p.job
  !(old.any OpenCmd.passWaits)
  && (if x.bwd then ((s.stepOf p.job x.step).map fun e =>
        (List.range e.mbCount).all fun i => e.fwdDone.contains i).getD false
      else !(old.any fun o => o.pkt.op == 0x0503 && decide (o.pkt.p0 < x.step)))

/-- Try to start a pass; `tick` counts a fret spent waiting for IN_CTR alone (R372). -/
def tryPass (tick : Bool) (o : OpenCmd) (s : State) : State :=
  match o.prog with
  | .pass bwd since waited =>
    if !(s.passTurn o.pkt) then s
    else
      match vread o.pkt.vi s o.pkt.p3.toNat 128 with
      | .error e => memFail o.pkt e s
      | .ok bs =>
        let b := blockOf bs
        if b.inCtr = 0 then startPass o.pkt bs since waited s
        else
          match vread o.pkt.vi s b.inCtr 8 with
          | .error e => memFail o.pkt e s
          | .ok v =>
            if b.inValue ≤ leNat v then startPass o.pkt bs since waited s
            else s.setProg o.pkt.key (.pass bwd since (waited + b2n tick))
  | _ => s

/-- The refusals of a pass before it is dispatched (R434, R469, R370); VERSION_RESERVED stands behind MODEL_UNKNOWN
(notes/assumptions/104.md). -/
def passRefusal (p : Packet) (x : PassP) (query : Bool) (s : State) : Except (Byte × Half × Nat) Model :=
  match s.nameModel p x.model with
  | .error e => .error e
  | .ok m =>
    if x.version = 0xFFFFFFFF then .error (0xFF, 0x0616, x.version)
    else
      match if query then none else orderRefusal p x s with
      | some e => .error e
      | none => if m.pieces.length < x.first + x.pieces then .error (0xFF, 0x0507, m.pieces.length) else .ok m

/-- PASS_FWD and PASS_BWD (R362, R366). -/
def effPass (p : Packet) (s : State) : State :=
  let x := passOf p
  if x.bad p then postFree p s
  else
    match passRefusal p x false s with
    | .error e => refuse p e s
    | .ok _ =>
      let s1 := if x.bwd then s else noteFwd p.job x (turnWindow p.job x.step s)
      let s2 := noteStep p.job x.step x.mbCount (some (BitVec.ofNat 32 x.version)) s1
      let o : OpenCmd := { pkt := p, prog := .pass x.bwd s.ftu.count 0 }
      tryPass false o (s2.openCmd p o.prog)

/-- PASS_FWD with QUERY (R369): sizes only. -/
def effPassQuery (p : Packet) (s : State) : State :=
  let x := passOf p
  if x.bad p then postFree p s
  else
    match passRefusal p x true s with
    | .error e => refuse p e s
    | .ok m =>
      match vread p.vi s (p.p3.toNat + 64) 8 with
      | .error e => memFail p e s
      | .ok b =>
        postDone p (m.saveBytes x.first x.pieces (x.word % 256) (blk b 0 4))
          (cdiv (m.gradBytes x.first x.pieces 4) 4096 % 2 ^ 32) s

/-- PASS_FWD with P1 [0] set is a QUERY. -/
def effPassFwd (p : Packet) (s : State) : State := if p.p1.getLsbD 0 then effPassQuery p s else effPass p s

/-! ## UPDATE (R392 to R416, R447) -/

/-- Bases of the tensors that an UPDATE writes, as its layer table names them. -/
def State.updateBases (s : State) (p : Packet) : List Nat :=
  (List.range (layerCount p)).flatMap fun i =>
    ((layerOf (s.peek p.vi (p.p1.toNat + 288 * i) 288)).ts.filter fun t => t.base != 0).map (·.base)

/-- Bases of the regions that a push reads. -/
def State.pushBases (s : State) (p : Packet) : List Nat :=
  match s.model? p.job (bf p.p0 15 0) with
  | none => []
  | some m => (List.range (bf p.p0 47 32)).map fun i =>
      let r := bf p.p0 31 16 + i
      let w := s.stw p.vi m r
      s.ent p.vi m r (if bn w 4 4 = 0 then 0 else 8) 8

/-- A push and an UPDATE touch one region (R447). -/
def State.meets (s : State) (update push : Packet) : Bool :=
  update.vi == push.vi && ((s.updateBases update).any fun a => (s.pushBases push).contains a)

/-- An UPDATE's waits have ended (Table 10.1, R210, R447). -/
def State.updateReady (s : State) (p : Packet) : Bool :=
  let old := s.before p.key
  (match s.stepOf p.job p.p0 with
   | some e => (List.range e.mbCount).all fun i => e.bwdDone.contains i
   | none => true)
  && !(s.loadAhead old p) && !(old.any fun o => o.pkt.op == 0x0603 && s.meets p o.pkt)

/-- Every op of the part fits every layer; or the first access that fails. -/
def layersFit (p : Packet) (g : UpdImg) (s : State) : List Nat → Except MemErr Bool
  | [] => .ok true
  | i :: is =>
    match readLayer p i s with
    | .error e => .error e
    | .ok l =>
      if (g.part (p.p2.getLsbD 4)).all (g.fits l) then layersFit p g s is else .ok false

/-- The works of the layers of an UPDATE, a chain for each (R400 to R409). -/
def updWorks (p : Packet) (g : UpdImg) (eta : Word) (s : State) : List Nat → Except MemErr (List Work)
  | [] => .ok []
  | i :: is =>
    match readLayer p i s with
    | .error e => .error e
    | .ok l =>
      match updWorks p g eta s is with
      | .error e => .error e
      | .ok ws =>
        .ok ((g.part (p.p2.getLsbD 4)).filterMap (UpdCtx.work { pkt := p, img := g, layer := l, ix := i, eta := eta } s) ++ ws)

/-- Layers that no op of the part touches are complete at once (R413). -/
def endEmptyLayers (p : Packet) (tiles : List Tile) (ws : List Work) (s : State) : State :=
  (List.range (layerCount p)).foldl (fun s i =>
    if tiles.any fun t => (ws.getD t.work { kind := .rows }).chain == i then s
    else
      match s.open? p.key with
      | some o => (match o.prog with | .updateRun done start _ => layerDone o done start ws i s | _ => s)
      | none => s) s

/-- The works of an UPDATE are cut and placed (R238, R403). -/
def launchUpdate (p : Packet) (ws0 : List Work) (s : State) : State :=
  let ws := ws0.map s.planWork
  let tiles := s.tilesAll p.key (ws.map fun w => (w, s.coreOrder))
  let s1 := s.setProg p.key (.updateRun [] s.ftu.count ws)
  endEmptyLayers p tiles ws { s1 with tiles := s1.tiles ++ tiles }

/-- An UPDATE leaves its waits (R393, R394, R412, R415). -/
def startUpdate (p : Packet) (s : State) : State :=
  let tag := ((s.job? p.job).bind (·.stepSize))
  match tag.filter fun t => t.1 == p.p0 with
  | none =>
    postFinal p 0x28 0x0000 p.p0.toNat ((tag.map fun t => bf t.1 31 0).getD 0xFFFFFFFF)
      { s with ctr := { s.ctr with lrnStale := satAdd s.ctr.lrnStale 1 } }
  | some t =>
    match s.updImg p with
    | none => postErr p 0x0508 (bf p.p2 2 0) s
    | some g =>
      if p.p2.getLsbD 4 && !(g.ops.any UpdOp.isSplit) then doneUpdate p 0 s.ftu.count s
      else
        match layersFit p g s (List.range (layerCount p)) with
        | .error e => memFail p e s
        | .ok false => postFree p s
        | .ok true =>
          match updWorks p g t.2 s (List.range (layerCount p)) with
          | .error e => memFail p e s
          | .ok ws => launchUpdate p ws s

/-- Try to start an UPDATE. -/
def tryUpdate (o : OpenCmd) (s : State) : State :=
  if o.prog = .update ∧ s.updateReady o.pkt then startUpdate o.pkt s else s

/-- UPDATE (R411). -/
def effUpdate (p : Packet) (s : State) : State :=
  if bf p.p2 63 32 = 0xFFFFFFFF then postErr p 0x0616 0xFFFFFFFF s
  else if (s.job? p.job).isNone ∨ layerCount p = 0 ∨ p.p1.toNat % 32 ≠ 0 then postFree p s
  else
    let o : OpenCmd := { pkt := p, prog := .update }
    tryUpdate o ((noteStep p.job p.p0 0 none s).openCmd p .update)

/-- STEP_SIZE_SET (R392). -/
def effStepSizeSet (p : Packet) (s : State) : State :=
  match s.job? p.job with
  | none => postFree p s
  | some j =>
    postDone p ((j.stepSize.map fun t => t.1.toNat).getD 0xFFFFFFFFFFFFFFFF) 0
      (s.updJob p.job fun j => { j with stepSize := some (p.p0, BitVec.ofNat 32 (bf p.p1 31 0)) })

/-- Passes and UPDATEs that wait try again, in dispatch order (R362). -/
def settleLearn (tick : Bool) (s : State) : State :=
  s.opens.foldl (fun s o =>
    match s.open? o.pkt.key with
    | some o => if s.runs o.pkt then tryUpdate o (tryPass tick o s) else s
    | none => s) s

/-! ## ATTN_BWD (R387 to R391) -/

/-- Formats of dO and of O. -/
def attnDo (p : Packet) : Nat × Nat := (bf p.p4 47 40, bf p.p4 39 32)

/-- ATTN_BWD as a work: its operands by the operand table (Table 10.8). -/
def attnBwdWork (p : Packet) (x : AttnP) (ops : List Byte) (es : List LenEntry) : Work :=
  let n := p.vi
  let f := attnDo p
  let w := bf p.p4 63 48
  let o (i fmt : Nat) : Opnd := opndOf n (entryOf ops i) fmt false
  { kind := .attnBwd
    attn := { heads := x.heads, kvHeads := x.kvHeads, dim := x.dim, fqk := x.fqk, fpv := x.fpv, word := x.word, causal := x.causal
              scale := x.scale, window := x.window, entries := es, q := o 0 x.fqk, k := o 1 x.fqk, v := o 2 x.fpv, o := o 3 f.2
              dO := o 4 f.1, st := o 5 1, dq := o 7 (x.word % 256), dk := o 8 (w % 256), dv := o 9 (w % 256), wDkv := w } }

/-- ATTN_BWD (R387, R390). -/
def effAttnBwd (p : Packet) (s : State) : State :=
  let x := { attnOf p with stats := false, paged := false }
  let w := bf p.p4 63 48 % 256
  let n := bf p.p0 63 32
  let f := attnDo p
  if x.bad || n == 0 || decide (65536 < n) || !(fmtOk w) || w == 0x0D || !(fmtOk f.1) || !(fmtOk f.2) then postFree p s
  else if (pairRates f.1 x.fpv).isNone || (pairRates f.1 x.fqk).isNone || (pairRates x.fpv f.1).isNone then
    postErr p 0x0504 0 s
  else
    match vread p.vi s p.p3.toNat 320 with
    | .error e => memFail p e s
    | .ok ops =>
      match vread p.vi s (entryOf ops 6).base (16 * n) with
      | .error e => memFail p e s
      | .ok lens =>
        let es := lenEntries lens n
        if es.any fun e => decide (e.kvLen < e.qLen) then postFree p s
        else launchAttn p (attnBwdWork p x ops es) none [] s

/-! ## PHASE_TIMES_READ (R426) -/

/-- PHASE_TIMES_READ: unread records of the jobs asked for, oldest first, up to MAX. -/
def effPhaseTimesRead (p : Packet) (s : State) : State :=
  let id := bf p.p0 15 0
  let ix := (((s.phases.zip (List.range s.phases.length)).filter fun e =>
    !e.1.read && (id == 0xFFFF || e.1.job == id)).take (bf p.p2 31 0))
  let w := vstore p p.p1.toNat (ix.flatMap fun e => phaseBytes s.moduleId e.1) s
  match w.2 with
  | some e => memFail p e w.1
  | none =>
    let done := ix.map (·.2)
    let mark (e : PhaseRec × Nat) : PhaseRec := if done.contains e.2 then { e.1 with read := true } else e.1
    let s1 := w.1
    postDone p ix.length (min s1.ctr.phaseLost 0xFFFFFFFF)
      { s1 with phases := (s1.phases.zip (List.range s1.phases.length)).map mark, ctr := { s1.ctr with phaseLost := 0 } }

/-! ## The commands -/

/-- PASS_FWD (R366). -/
def execPassFwd (p : Packet) (s : State) : Out := submit effPassFwd p s
/-- PASS_FWD with QUERY (R369). -/
def execPassFwdQuery (p : Packet) (s : State) : Out := submit effPassFwd p s
/-- PASS_BWD (R366). -/
def execPassBwd (p : Packet) (s : State) : Out := submit effPass p s
/-- UPDATE (R411). -/
def execUpdate (p : Packet) (s : State) : Out := submit effUpdate p s
/-- STEP_SIZE_SET (R392). -/
def execStepSizeSet (p : Packet) (s : State) : Out := submit effStepSizeSet p s
/-- ATTN_BWD (R388). -/
def execAttnBwd (p : Packet) (s : State) : Out := submit effAttnBwd p s
/-- PHASE_TIMES_READ (R426). -/
def execPhaseTimesRead (p : Packet) (s : State) : Out := submit effPhaseTimesRead p s

end Sys2Proof.Machine
end

