-- ==== Sys2Proof/Machine/Ckpt.lean ====
section
/-! DEFINITION. Checkpoints (spec/14_checkpoint_recovery.md): sets and shard headers, slots, the freeze, local copies, what
is sent to and read from the modules that protect an image, and the holders' side. The spec gives no layout for what
firmware of two modules exchange; the model's is an image space at addresses from 2^63 on (notes/assumptions/14.md). -/

namespace Sys2Proof.Machine

open Sys2Proof

/-! ## Shard headers (Table 14.7) -/

/-- DATA_BYTES. -/
def hdrBytes (h : List Byte) : Nat := blk h 32 8
/-- DATA_ADDR. -/
def hdrAddr (h : List Byte) : Nat := blk h 104 8
/-- FMT. -/
def hdrFmt (h : List Byte) : Nat := blk h 5 1
/-- TENSOR_ID. -/
def hdrTensor (h : List Byte) : Nat := blk h 16 8
/-- BOX: (OFFSET, EXTENT) by dimension. -/
def hdrBox (h : List Byte) : List (Nat × Nat) :=
  (List.range (min 8 (blk h 6 1))).map fun d => (blk h (40 + 8 * d) 4, blk h (44 + 8 * d) 4)

/-- HDR_CRC matches (R613). -/
def hdrOk (h : List Byte) : Bool := blk h 124 4 == (crc32c (h.take 124)).toNat

/-- Headers of 128 bytes, one after the other. -/
def hdrsOf (b : List Byte) : List (List Byte) := pieces 128 b.length b

/-- The header as the device writes it into the directory (R600). -/
def writtenHdr (h : List Byte) (id step module job : Nat) (data : Word) : List Byte :=
  let b := h.take 7 ++ leBytes 1 id ++ leBytes 8 step ++ (h.drop 16).take 8 ++ leBytes 2 module ++ leBytes 2 job
    ++ (h.drop 28).take 84 ++ leBytes 4 data.toNat ++ (h.drop 116).take 8
  b ++ leBytes 4 (crc32c b).toNat

/-- A header as EXPORT writes it: DATA_ADDR 0, and HDR_CRC over the bytes as they then stand (R614). -/
def exportHdr (h : List Byte) : List Byte :=
  let b := h.take 104 ++ leBytes 8 0 ++ (h.drop 112).take 12
  b ++ leBytes 4 (crc32c b).toNat

/-- Keep the first occurrence of each number. -/
def dedup (l : List Nat) : List Nat := (l.foldl (fun a x => if a.contains x then a else x :: a) []).reverse

/-- Insert into a rising list. -/
def insertNat (x : Nat) : List Nat → List Nat
  | [] => [x]
  | y :: t => if x ≤ y then x :: y :: t else y :: insertNat x t

/-- Rising order. -/
def sortNat (l : List Nat) : List Nat := l.foldr insertNat []

/-- Regions that hold a byte of a range, by address / 64 KiB. -/
def regionsOf (va len : Nat) : List Nat := (granules 65536 va len).map (· / 65536)

/-- Regions covered by a set, in set order and then by ascending address (R587, R603). -/
def coveredOf (hdrs : List (List Byte)) : List Nat := dedup (hdrs.flatMap fun h => regionsOf (hdrAddr h) (hdrBytes h))

/-- Bytes [va, va + len) put together from whole regions. -/
def assemble (va len : Nat) (region : Nat → List Byte) : List Byte :=
  (((regionsOf va len).flatMap region).drop (va % 65536)).take len

/-! ## Frames (R583 to R585, R589, R590) -/

/-- Checkpoints that the freeze of a new one discards (R590). -/
def Job.doomed (j : Job) (gen2 : Bool) (but_ : Option Nat) : List Ckpt :=
  let old := j.ckpts.filter fun c => some c.id != but_
  let good := old.filter fun c => c.state == 2 || c.state == 3 || c.state == 5
  if gen2 then old.filter fun c => some c.id != good.getLast?.map (·.id) else old

/-- Stack of the slot of a page with a home (R589). -/
def slotStack (h : Home) : Nat :=
  match h with
  | .hbm k _ => k
  | .sram d _ _ => (homeStacks d).foldl min 31
  | .stage m _ => 4 * m
  | _ => 0

/-- Give each page of a set its slot, free frames first, then frames that the freeze frees; answers the slots and how many
pages found none (R588, R589). -/
def dealSlots (s : State) (freed : List (Nat × Nat)) : List (Nat × Nat) → List (Nat × Nat) → List (Nat × Nat × Nat) × Nat
  | [], _ => ([], 0)
  | (page, k) :: ps, taken =>
    let ok (f : Nat) : Bool := !(taken.contains (k, f))
    let free := (s.oxbowOf k).find? fun f => ok f && !(s.oxbowUsed k f)
    match free.or ((s.oxbowOf k).find? fun f => ok f && freed.contains (k, f)) with
    | some f =>
      let r := dealSlots s freed ps ((k, f) :: taken)
      ((page, k, f) :: r.1, r.2)
    | none =>
      let r := dealSlots s freed ps taken
      (r.1, r.2 + 1)

/-- n free oxbow frames of any stacks, stacks ascending; none where there are not enough. -/
def State.oxbowFree (s : State) (n : Nat) : Option (List (Nat × Nat)) :=
  let l := ((List.range 32).flatMap fun k =>
    ((s.oxbowOf k).filter fun f => !(s.oxbowUsed k f)).map fun f => (k, f)).take n
  if l.length = n then some l else none

/-- First byte of region i of a list of frames. -/
def frameRegion (l : List (Nat × Nat)) (i : Nat) : Option Nat :=
  (l[i / 32]?).map fun x => (x.1 * 32768 + x.2) * pageSize + i % 32 * 65536

/-- Address in device memory of a covered region's copy. -/
def Ckpt.regionAt (c : Ckpt) (r : Nat) : Option Nat :=
  (c.slots.find? fun e => e.1 == r / 32).map fun e => (e.2.1 * 32768 + e.2.2) * pageSize + r % 32 * 65536

/-- Bytes of a covered region as the slot holds them. -/
def Ckpt.region (c : Ckpt) (s : State) (r : Nat) : List Byte :=
  match c.regionAt r with
  | some a => s.devMem.readN a 65536
  | none => []

/-- Data of a shard, from the oxbow copy. -/
def Ckpt.shardData (c : Ckpt) (s : State) (h : List Byte) : List Byte := assemble (hdrAddr h) (hdrBytes h) (c.region s)

/-- A checkpoint of a job. -/
def State.ckpt? (s : State) (id ckpt : Nat) : Option Ckpt := (s.job? id).bind fun j => j.ckpts.find? fun c => c.id == ckpt

/-- Change a checkpoint. -/
def updCkpt (id ckpt : Nat) (f : Ckpt → Ckpt) (s : State) : State :=
  s.updJob id fun j => { j with ckpts := j.ckpts.map fun c => if c.id = ckpt then f c else c }

/-- COMPLETE, VERIFIED or LOCAL (Table 14.6). -/
def Ckpt.usable (c : Ckpt) : Bool := c.state == 2 || c.state == 3 || c.state == 5

/-- Frames in use for a checkpoint, parity frames of its step with them. -/
def Job.framesUsed (j : Job) (c : Ckpt) : Nat := c.slots.length + (j.parityFrames c).length

/-! ## The protective copy at its source (R602 to R604) -/

/-- Address in the image space: kind, two fields, and an offset. -/
def imgAddr (kind a b off : Nat) : Nat := 2 ^ 63 + kind * 2 ^ 59 + a * 2 ^ 48 + b * 2 ^ 32 + off

/-- Row of region i of the member of rank r among g (R603). -/
def rowOf (r i g : Nat) : Nat :=
  let j := i % (g - 1)
  g * (i / (g - 1)) + (if r ≤ j then j + 1 else j)

/-- Region of the member of rank r that lies in row k (R621). -/
def regionIn (r k g : Nat) : Nat := (g - 1) * (k / g) + (if k % g < r then k % g else k % g - 1)

/-- The members other than this one, with their ranks. -/
def Ckpt.others (c : Ckpt) : List (Nat × Half × Half) :=
  (((List.range c.members.length).zip c.members).filter fun x => c.protect == 1 || x.1 != c.rank)

/-- Transfers of the protective copy: (announcements, data transfers, header transfers). -/
def Ckpt.units (c : Ckpt) : Nat × Nat × Nat :=
  let o := c.others.length
  match c.protect with
  | 0 => (0, 0, 0)
  | 1 => (1, cdiv c.covered.length 4, c.hdrs.length)
  | _ => (o, c.covered.length, o * c.hdrs.length)

/-- All transfers of the protective copy are acknowledged. -/
def Ckpt.allSent (c : Ckpt) : Bool := decide (c.units.1 + c.units.2.1 + c.units.2.2 ≤ c.sent)

/-- What the announcement of an image says: step, freeze, frames, regions, shards, members and rank. -/
def announce (c : Ckpt) (parityFrames : Nat) : List Byte :=
  leBytes 8 c.step.toNat ++ leBytes 8 c.freeze.toNat
  ++ leBytes 4 (if c.protect = 1 then c.slots.length else parityFrames) ++ leBytes 4 c.covered.length
  ++ leBytes 4 c.hdrs.length ++ leBytes 4 c.members.length ++ leBytes 2 c.rank ++ leBytes 1 (b2n c.gen2)

/-- The next transfer of the protective copy, if what it carries is there: destination module, job, request. -/
def Ckpt.nextSend (c : Ckpt) (job frames : Nat) (s : State) : Option (Nat × Nat × Req) :=
  if c.lost.isSome ∨ 1 < c.state then none
  else
    let u := c.units
    let n := c.sent
    let to_ (x : Nat × Half × Half) (r : Req) : Option (Nat × Nat × Req) := some (x.2.1.toNat, x.2.2.toNat, r)
    if n < u.1 then
      (c.others[n]?).bind fun x => to_ x
        (.put (if c.protect = 1 then imgAddr 4 0 job 0 else imgAddr 5 c.group c.rank 0) (announce c frames))
    else if c.state ≠ 1 then none
    else if n < u.1 + u.2.1 then
      let i := n - u.1
      if c.protect = 1 then
        let rs := (c.covered.drop (4 * i)).take 4
        if rs.any c.todo.contains then none
        else (c.others.head?).bind fun x => to_ x (.put (imgAddr 0 0 job (4 * i)) (rs.flatMap (c.region s)))
      else
        match c.covered[i]? with
        | none => none
        | some r =>
          let k := rowOf c.rank i c.members.length
          if c.todo.contains r then none
          else (c.others.find? fun x => x.1 == k % c.members.length).bind fun x =>
            to_ x (.put (imgAddr 2 c.group c.rank k) (c.region s r))
    else
      let m := n - u.1 - u.2.1
      let h := m % c.hdrs.length
      if n < u.1 + u.2.1 + u.2.2 ∧ c.written.contains h then
        (c.others[m / c.hdrs.length]?).bind fun x =>
          to_ x (.put (if c.protect = 1 then imgAddr 1 0 job h else imgAddr 3 c.group c.rank h) (c.hdrs.getD h []))
      else none

/-- Regions that the n-th transfer carries (CKPT_SENT counts them). -/
def Ckpt.sentRegions (c : Ckpt) (n : Nat) : Nat :=
  let u := c.units
  if n < u.1 ∨ u.1 + u.2.1 ≤ n then 0
  else if c.protect = 1 then min 4 (c.covered.length - 4 * (n - u.1)) else 1

/-- Count regions in a register of 2 MiB units. -/
def countSent (n : Nat) (s : State) : State :=
  let r := s.ctr.ckptSentRest + n
  { s with ctr := { s.ctr with ckptSent := satAdd s.ctr.ckptSent (r / 32), ckptSentRest := r % 32 } }

/-! ## Announcements at their destination (R601, R602, R604) -/

/-- A denial of a protective transfer. -/
def peerDeny (s : State) : Resp := .deny 0xFF 0x0805 s.moduleId

/-- The newest complete image of a hold. -/
def HoldImg.complete (x : HoldImg) : Bool := x.got.length == x.regions && x.hdrs.length == x.shards

/-- A holder takes up a new image: the images that are not the newest complete one go; with GEN2 the kept one keeps its
frames (R602). -/
def beginHold (h : Hold) (step freeze : Dword) (n regions shards : Nat) (gen2 : Bool) : Hold :=
  let kept := ((h.imgs.filter HoldImg.complete).getLast?).toList
  let busy := if gen2 then kept.flatMap (·.frames) else []
  let free := h.slots.filter fun x => !(busy.contains x)
  let fr := (free ++ h.slots.filter fun x => busy.contains x).take n
  let x : HoldImg := { step := step, freeze := freeze, frames := fr, regions := regions, shards := shards, got := [], hdrs := [] }
  { h with imgs := kept ++ [x] }

/-- A region lands in the newest image of a hold: an older image that has a region in its place loses that one. -/
def holdRegion (h : Hold) (i : Nat) : Hold × Option Nat :=
  match h.imgs.getLast? with
  | none => (h, none)
  | some x =>
    match frameRegion x.frames i with
    | none => (h, none)
    | some a =>
      let lose (y : HoldImg) : HoldImg := { y with got := y.got.filter fun k => frameRegion y.frames k != some a }
      let x1 := { x with got := x.got.filter (· != i) ++ [i] }
      ({ h with imgs := h.imgs.dropLast.map lose ++ [x1] }, some a)

/-- Once the new image is complete no other is kept (R602, R590). -/
def settleHold (h : Hold) : Hold :=
  match h.imgs.getLast? with
  | some x => if x.complete then { h with imgs := [x] } else h
  | none => h

/-- Change a hold of a job. -/
def updHold (id hold : Nat) (f : Hold → Hold) (s : State) : State :=
  s.updJob id fun j => { j with holds := j.holds.map fun h => if h.id = hold then f h else h }

/-- Put regions that have arrived into a hold. -/
def landRegions (id hold : Nat) : Nat → List (List Byte) → State → State
  | _, [], s => s
  | i, d :: ds, s =>
    match (s.job? id).bind fun j => j.holds.find? fun h => h.id == hold with
    | none => s
    | some h =>
      let r := holdRegion h i
      let s1 := updHold id hold (fun _ => settleHold r.1) s
      landRegions id hold (i + 1) ds (match r.2 with
        | some a => { s1 with devMem := s1.devMem.writeN a d }
        | none => s1)

/-- Reserve parity frames of a step of a group, and note a member's image (R604). -/
def beginParity (id group : Nat) (step : Dword) (own g n rank regions shards : Nat) (s : State) : Option State :=
  match s.job? id with
  | none => none
  | some j =>
    let note (x : Parity) : Parity :=
      { x with counts := (x.counts.filter fun e => e.1 != rank) ++ [(rank, regions, shards)] }
    if j.parities.any fun x => x.group == group && x.step == step then
      some (s.updJob id fun j => { j with parities := j.parities.map fun x =>
        if x.group = group ∧ x.step = step then note x else x })
    else
      (s.oxbowFree n).map fun fr =>
        let x : Parity := { group := group, step := step, rank := own, g := g, frames := fr, counts := [], contrib := []
                            crcs := [], dirs := [] }
        s.updJob id fun j => { j with parities := j.parities ++ [note x] }

/-- Number of the parity region of a row among those that its holder keeps. -/
def Parity.rowAt (x : Parity) (k : Nat) : Option Nat := frameRegion x.frames (k / x.g)

/-- Every contribution to a row has arrived: of each other member whose image has a region there (R604). -/
def Parity.rowFull (x : Parity) (k : Nat) : Bool :=
  (List.range x.g).all fun r => r == x.rank || x.contrib.contains (k, r)
    || (match x.counts.find? fun e => e.1 == r with
        | some (_, n, _) => decide (n ≤ regionIn r k x.g)
        | none => false)

/-- Exclusive or of two blocks of bytes, the shorter taken as zero at its end. -/
def xorBytes : List Byte → List Byte → List Byte
  | [], b => b
  | a, [] => a
  | x :: a, y :: b => (x ^^^ y) :: xorBytes a b

/-- Change the newest parity checkpoint of a group that a member's image has begun in. -/
def State.parityOf (s : State) (id group rank : Nat) : Option Parity :=
  (s.job? id).bind fun j =>
    (j.parities.filter fun x => x.group == group && x.counts.any fun e => e.1 == rank).getLast?

/-- Replace a parity checkpoint. -/
def setParity (id : Nat) (y : Parity) (s : State) : State :=
  s.updJob id fun j => { j with parities := j.parities.map fun x => if x.group = y.group ∧ x.step = y.step then y else x }

/-- A contribution is XORed into its row's parity region; with the last one the row's CRC is formed (R604). -/
def contribute (id group rank k : Nat) (d : List Byte) (s : State) : Option State :=
  match s.parityOf id group rank with
  | none => none
  | some x =>
    match x.rowAt k with
    | none => none
    | some a =>
      let b := xorBytes (s.devMem.readN a 65536) d
      let s1 := { s with devMem := s.devMem.writeN a b }
      let x1 := { x with contrib := x.contrib ++ [(k, rank)] }
      some (setParity id (if x1.rowFull k then { x1 with crcs := x1.crcs ++ [(k, crc32c b)] } else x1) s1)

/-- The hold of a job for a source. -/
def State.holdFor (s : State) (id src srcJob : Nat) : Option Hold :=
  (s.job? id).bind fun j => j.holds.find? fun h => h.peerModule.toNat == src && h.peerJob.toNat == srcJob

/-- A protective transfer at its destination (R602, R604). -/
def imgWrite (id : Nat) (domain : Word) (src a : Nat) (d : List Byte) (s : State) : State × Resp :=
  let f1 := bn a 58 48
  let f2 := bn a 47 32
  let off := a % 2 ^ 32
  let deny : State × Resp := (s, peerDeny s)
  let done (x : Option State) : State × Resp := match x with | some t => (t, .ok []) | none => deny
  if domain = 0 ∨ s.domainOf id ≠ domain then deny
  else
    match bn a 62 59 with
    | 0 => (match s.holdFor id src f2 with
      | some h => (landRegions id h.id off (pieces 65536 d.length d) s, .ok [])
      | none => deny)
    | 1 => (match s.holdFor id src f2 with
      | some h =>
        let note (h : Hold) : Hold :=
          match h.imgs.getLast? with
          | some x => settleHold { h with imgs := h.imgs.dropLast ++ [{ x with hdrs := x.hdrs ++ [(off, d)] }] }
          | none => h
        (updHold id h.id note s, .ok [])
      | none => deny)
    | 2 => done (contribute id f1 f2 off d s)
    | 3 => done ((s.parityOf id f1 f2).map fun x => setParity id { x with dirs := x.dirs ++ [(f2, off, d)] } s)
    | 4 => (match s.holdFor id src f2 with
      | some h =>
        if h.slots.length < blk d 16 4 then deny
        else (updHold id h.id (fun h => beginHold h (BitVec.ofNat 64 (blk d 0 8)) (BitVec.ofNat 64 (blk d 8 8)) (blk d 16 4)
          (blk d 20 4) (blk d 24 4) (blk d 34 1 == 1)) s, .ok [])
      | none => deny)
    | 5 =>
      (match s.fab.groups.find? fun g => g.job == id && g.num == f1 with
       | some g => done (beginParity id f1 (BitVec.ofNat 64 (blk d 0 8)) g.rank (blk d 28 4) (blk d 16 4) f2 (blk d 20 4)
           (blk d 24 4) s)
       | none => deny)
    | 6 =>
      let step : Dword := BitVec.ofNat 64 (blk d 0 8)
      if f1 = 2047 then
        (match s.holdFor id src f2 with
         | some h => (updHold id h.id (fun h => { h with imgs := h.imgs.filter fun x => x.complete || x.step != step }) s, .ok [])
         | none => deny)
      else
        let gone := ((s.job? id).map fun j =>
          (j.parities.filter fun x => x.group == f1 && x.step == step).flatMap (·.frames)).getD []
        ((freeOxbow gone s).updJob id fun j =>
          { j with parities := j.parities.filter fun x => !(x.group == f1 && x.step == step) }, .ok [])
    | _ => deny

/-! ## Reads of images at their holder (R613, R617, R621) -/

/-- The images for a job that a job of a fabric domain may read, as (hold's job, hold, image). -/
def State.imagesFor (s : State) (job : Nat) (domain : Word) : List (Nat × Hold × HoldImg) :=
  s.jobs.flatMap fun j =>
    if domain ≠ 0 ∧ j.domain = domain then
      (j.holds.filter fun h => h.peerJob.toNat == job).flatMap fun h => h.imgs.map fun x => (j.id, h, x)
    else []

/-- Headers of an image in shard order, as far as they are there without a gap. -/
def headersIn (l : List (Nat × List Byte)) : Nat → Nat → List (List Byte)
  | 0, _ => []
  | n + 1, i =>
    match l.find? fun e => e.1 == i with
    | some e => e.2 :: headersIn l n (i + 1)
    | none => []

/-- The shard's regions are all held. -/
def HoldImg.has (x : HoldImg) (cov : List Nat) (h : List Byte) : Bool :=
  (regionsOf (hdrAddr h) (hdrBytes h)).all fun r => match cov.findIdx? (· == r) with | some i => x.got.contains i | none => false

/-- A page of a directory as it travels: 1,024 entries, each a header, a byte that says the shard is held, and seven of
zero. -/
def dirPage (l : List (List Byte × Bool)) (page : Nat) : List Byte :=
  ((l.drop (1024 * page)).take 1024).flatMap fun e => e.1 ++ leBytes 8 (b2n e.2)

/-- Data of a shard of an image held here. -/
def HoldImg.shardData (x : HoldImg) (s : State) (cov : List Nat) (h : List Byte) : List Byte :=
  assemble (hdrAddr h) (hdrBytes h) fun r =>
    match (cov.findIdx? (· == r)).bind (frameRegion x.frames) with
    | some a => s.devMem.readN a 65536
    | none => []

/-- First shard of an image whose header or data fails its check; 2^64 - 1 where all pass. -/
def HoldImg.verify (x : HoldImg) (s : State) : Nat :=
  let hs := headersIn x.hdrs x.shards 0
  let cov := coveredOf hs
  let bad (h : List Byte) : Bool := !(hdrOk h) || crc32c (x.shardData s cov h) != BitVec.ofNat 32 (blk h 112 4)
  (((List.range hs.length).zip hs).find? fun e => bad e.2).elim (2 ^ 64 - 1) (·.1)

/-- First row of a parity checkpoint whose CRC does not match; 2^64 - 1 where all do. -/
def Parity.verify (x : Parity) (s : State) : Nat :=
  let bad (e : Nat × Word) : Bool :=
    match x.rowAt e.1 with
    | some a => crc32c (s.devMem.readN a 65536) != e.2
    | none => true
  (x.crcs.find? bad).elim (2 ^ 64 - 1) (·.1)

/-- Parity checkpoints of a job's group. -/
def State.paritiesOf (s : State) (id group : Nat) : List Parity :=
  ((s.job? id).map fun j => j.parities.filter fun x => x.group == group).getD []

/-- A read in the image space (R613, R617). -/
def imgRead (id : Nat) (domain : Word) (src a : Nat) (s : State) : Resp :=
  let f1 := bn a 58 48
  let f2 := bn a 47 32
  let off := a % 2 ^ 32
  let here := bn off 27 0
  let imgs := s.imagesFor f2 domain
  let held := s.jobs.any fun j => j.holds.any fun h => h.peerJob.toNat == f2
  let par := (s.paritiesOf id f1)[off / 2 ^ 28]?
  let gate (r : Resp) : Resp := if domain = 0 ∨ s.domainOf id ≠ domain then .deny 0x12 0x0805 s.moduleId else r
  let absent : Resp := .deny 0xFF 0x080A s.moduleId
  match bn a 62 59 with
  | 8 =>
    if imgs.isEmpty && held then .deny 0x12 0x0805 s.moduleId
    else .ok (imgs.flatMap fun e => leBytes 8 e.2.2.step.toNat ++ leBytes 4 e.2.2.shards ++ leBytes 4 e.2.2.regions)
  | 9 =>
    match imgs[f1]? with
    | none => absent
    | some e =>
      let hs := headersIn e.2.2.hdrs e.2.2.shards 0
      .ok (dirPage (hs.map fun h => (h, e.2.2.has (coveredOf hs) h)) off)
  | 10 =>
    match (imgs[f1]?).filter fun e => e.2.2.got.contains off with
    | none => absent
    | some e => (match frameRegion e.2.2.frames off with
      | some x => .ok (s.devMem.readN x 65536)
      | none => absent)
  | 11 => gate (.ok ((s.paritiesOf id f1).flatMap fun x =>
      leBytes 8 x.step.toNat ++ (match x.counts.find? fun e => e.1 == f2 with
        | some (_, n, m) => leBytes 4 n ++ leBytes 4 m
        | none => leBytes 4 (2 ^ 32 - 1) ++ leBytes 4 0)))
  | 12 => gate (match par with
      | some x => .ok (dirPage ((headersIn ((x.dirs.filter fun e => e.1 == f2).map fun e => e.2)
          ((x.dirs.filter fun e => e.1 == f2).length) 0).map fun h => (h, true)) here)
      | none => absent)
  | 13 => gate (match par.bind fun x => (x.crcs.find? fun e => e.1 == here).bind fun _ => x.rowAt here with
      | some x => .ok (s.devMem.readN x 65536)
      | none => absent)
  | 14 => gate (match par.bind fun x => (s.job? id).bind fun j =>
        j.ckpts.find? fun c => c.usable && c.protect == 2 && c.group == f1 && c.step == x.step with
      | some c => (match c.covered[here]? with
        | some r => .ok (c.region s r)
        | none => absent)
      | none => absent)
  | 15 =>
    gate (if f1 = 2047 then
        (match (s.holdFor id src f2).bind fun h => (h.imgs.filter HoldImg.complete).getLast? with
         | some x => .ok (leBytes 8 (x.verify s))
         | none => absent)
      else
        match (s.paritiesOf id f1).find? fun x => x.step.toNat % 2 ^ 32 == off with
        | some x => .ok (leBytes 8 (x.verify s))
        | none => absent)
  | _ => absent

/-- A push writes ARRIVED of a region of a job's model: the check of its chunks starts from the first (R444, R446). -/
def restartChecks (job a len : Nat) (s : State) : State :=
  match s.job? job with
  | none => s
  | some j => j.models.foldl (fun s m => (List.range m.regions.length).foldl (fun s i =>
      if a ≤ m.entry i + 24 ∧ m.entry i + 24 < a + len then setChecked job m.handle i 0 s else s) s) s

/-- A remote operation at its destination: on memory, or on the images that the module holds. -/
def doReqAny (job : Nat) (domain : Word) (src : Nat) (r : Req) (s : State) : State × Resp :=
  match r with
  | .put a d =>
    if 2 ^ 63 ≤ a then imgWrite job domain src a d s
    else
      let x := doReq job domain r s
      (match x.2 with
       | .ok _ => (restartChecks job a d.length x.1, x.2)
       | .deny _ _ _ => x)
  | .get a _ _ => if 2 ^ 63 ≤ a then (s, imgRead job domain src a s) else doReq job domain r s
  | _ => doReq job domain r s

/-! ## Freeze and local copy (R590 to R600) -/

/-- The freeze: older checkpoints go, the image is the content of the covered regions now (R590, R591). -/
def freezeCkpt (id ckpt : Nat) (s : State) : State :=
  match s.job? id, s.ckpt? id ckpt with
  | some j, some c =>
    let s1 := (j.doomed c.gen2 (some ckpt)).foldl (fun s x => dropCkpt id x.id s) s
    updCkpt id ckpt (fun c => { c with state := 1, freeze := s.ftu.count, todo := sortNat c.covered }) (markPhase id 7 s1)
  | _, _ => s

/-- CKPT_FREEZE: the freeze fret has come (R591, R107). -/
def ckptFreeze (id ckpt : Nat) (s : State) : State :=
  match s.ckpt? id ckpt with
  | none => s
  | some c =>
    match takeDue .ckpt c.cmd s with
    | some s1 => freezeCkpt id ckpt s1
    | none => s

/-- The TAKE of a checkpoint. -/
def State.takeOf (s : State) (id ckpt : Nat) : Option Packet :=
  (s.opens.find? fun o => o.prog == .take id ckpt).map (·.pkt)

/-- The peer of a protective copy is lost: the local copy runs to its end (R607); a freeze at dispatch that waited for the
peer takes place. -/
def peerLost (id ckpt peer : Nat) (s : State) : State :=
  match s.ckpt? id ckpt, s.takeOf id ckpt with
  | some c, some p =>
    let s1 := updCkpt id ckpt (fun c => { c with lost := some peer }) (dropWork0 p.key s)
    if c.state = 0 ∧ p.p2 = 0 then freezeCkpt id ckpt s1 else s1
  | _, _ => s
where
  /-- The chunks of the command complete without it; its schedule entry stays. -/
  dropWork0 (k : Key) (s : State) : State :=
    { s with fab := { s.fab with unacked := s.fab.unacked.map fun c => if c.cmd = some k then { c with cmd := none } else c } }

/-- A checkpoint is FAILED, and its TAKE ends (R599). -/
def failTake (id ckpt : Nat) (status : Byte) (r0 r1 : Nat) (s : State) : State :=
  let s1 := updCkpt id ckpt (fun c => { c with state := 4, todo := [] }) s
  let s2 := { s1 with ctr := { s1.ctr with ckptTakeFails := satAdd s1.ctr.ckptTakeFails 1 } }
  match s2.takeOf id ckpt with
  | some p => postFinal p status 0x0807 r0 r1 (dropWork p.key s2)
  | none => s2

/-- Headers of the shards whose regions have all landed are written (R600). -/
def writeHeaders (id ckpt : Nat) (s : State) : State :=
  match s.ckpt? id ckpt with
  | none => s
  | some c =>
    if c.state ≠ 1 then s
    else
      let ready (i : Nat) (h : List Byte) : Bool :=
        !(c.written.contains i) && (regionsOf (hdrAddr h) (hdrBytes h)).all fun r => !(c.todo.contains r)
      let xs := (List.range c.hdrs.length).zip c.hdrs
      let put (e : Nat × List Byte) : List Byte :=
        if ready e.1 e.2 then writtenHdr e.2 c.id c.step.toNat s.moduleId id (crc32c (c.shardData s e.2)) else e.2
      let new := (xs.filter fun e => ready e.1 e.2).map (·.1)
      updCkpt id ckpt (fun c => { c with hdrs := xs.map put, written := c.written ++ new }) s

/-- The engine that copies a region: of its hub, or a mover of its die for SRAM (R593). -/
def copyEngine (h : Home) : Block :=
  match h with
  | .sram d _ _ => .mover d 0
  | _ => .hubEngine (h.hubOf.getD 0) 1

/-- The bursts of a region that cannot be read (R599). -/
def State.badRegion (s : State) (n r : Nat) : Option MemErr :=
  (granules 64 (r * 65536) 65536).findSome? fun va => (s.xlate n va).bind fun x => s.burstErr x va

/-- CKPT_REGION_COPY_DONE: a covered region lands in its slot (R593, R597, R600), or its read fails (R599). `result`: 0
copied, 1 parity error, 2 uncorrectable, 3 the engine was reset. -/
def regionCopyDone (id ckpt region result : Nat) (s : State) : State :=
  match s.job? id, s.ckpt? id ckpt with
  | some j, some c =>
    let engine (r : Nat) : Option Block := (s.mapping c.vi (r * 65536)).map fun m => copyEngine m.now
    let mine := c.todo.filter fun r => engine r == engine region
    if c.state ≠ 1 ∨ mine.head? ≠ some region then s
    else
      let va := region * 65536
      let s0 := markPhase id 7 s
      if result = 3 then
        let b := ((engine region).map blockWord).getD 0
        if c.repeated.contains region then failTake id ckpt 0x30 va b (countResets 0 1 s0)
        else updCkpt id ckpt (fun c => { c with repeated := c.repeated ++ [region] }) (countResets 1 0 s0)
      else if result ≠ 0 ∨ (s.badRegion c.vi region).isSome then
        failTake id ckpt 0x31 va 0 (match s.badRegion c.vi region with | some (.ue a) => recordUe c.vi a s0 | _ => s0)
      else
        let s1 := copyRegion c.vi (region / 32) (region % 32) s0 j c
        let n := s1.ctr.ckptCopiedRest + 1
        let s2 := { s1 with ctr := { s1.ctr with
          ckptCopied := satAdd s1.ctr.ckptCopied (n / 32), ckptCopiedRest := n % 32 } }
        writeHeaders id ckpt s2
  | _, _ => s

/-- CKPT_COPY_AHEAD_DONE: the region of a held write is in its slot; `ns` is how long the write was held (R594). -/
def copyAheadDone (id ckpt region ns : Nat) (s : State) : State :=
  match s.job? id, s.ckpt? id ckpt with
  | some j, some c =>
    let s1 := if c.todo.contains region then copyAhead1 c.vi (region / 32) (region % 32) s j c else s
    writeHeaders id ckpt { s1 with ctr := { s1.ctr with ckptStall := satMax s1.ctr.ckptStall ns } }
  | _, _ => s

/-- CKPT_COMPLETE: local and protective copies are done; the checkpoint is COMPLETE, or LOCAL when its peer is lost
(R606, R607). With COMPLETE the kept older one goes (R590). -/
def ckptComplete (id ckpt : Nat) (s : State) : State :=
  let s1 := writeHeaders id ckpt s
  match s1.job? id, s1.ckpt? id ckpt with
  | some j, some c =>
    if c.state ≠ 1 ∨ !c.todo.isEmpty ∨ c.written.length ≠ c.hdrs.length then s1
    else if !c.allSent && c.lost.isNone then s1
    else
      let frets := min (s.ftu.count - c.freeze).toNat 0xFFFFFFFF
      let s2 := updCkpt id ckpt (fun c => { c with state := if c.lost.isSome then 5 else 2 }) s1
      let s3 := (j.ckpts.filter fun x => x.id != ckpt && c.lost.isNone).foldl (fun s x => dropCkpt id x.id s) s2
      match s3.takeOf id ckpt with
      | none => s3
      | some p =>
        match c.lost with
        | some m => postErr p 0x0806 m s3
        | none => postDone p (j.framesUsed c * 2 ^ 32 + ckpt) frets s3
  | _, _ => s1

end Sys2Proof.Machine
end

