-- ==== Sys2Proof/Machine/Restore.lean ====
section
/-! DEFINITION. RESTORE and READBACK as computations over what has been read (R612 to R621 of
spec/14_checkpoint_recovery.md): each either ends, or names the next read at another module that it needs. -/

namespace Sys2Proof.Machine

open Sys2Proof

/-! ## Reads at other modules -/

/-- Why such a computation halts: it needs a read, or its command ends. -/
inductive Halt where
  | need (dst job addr : Nat)
  | stop (status : Byte) (reason : Half) (r0 : Nat)
  | mem (e : MemErr)
  deriving DecidableEq, Repr

/-- An answer already here, or the need for it; a denial ends the command. -/
def ask (got : List Fetched) (dst job addr : Nat) : Except Halt (List Byte) :=
  match got.find? fun f => f.dst == dst && f.dstJob == job && f.addr == addr with
  | none => .error (.need dst job addr)
  | some f => match f.deny with | none => .ok f.data | some e => .error (.stop e.1 e.2.1 e.2.2)

/-- As `ask`; none where the other module lacks it. -/
def askOpt (got : List Fetched) (dst job addr : Nat) : Except Halt (Option (List Byte)) :=
  match ask got dst job addr with
  | .ok d => .ok (some d)
  | .error (.stop _ 0x080A _) => .ok none
  | .error e => .error e

/-- A read of the command's own range. -/
def own (r : Except MemErr α) : Except Halt α :=
  match r with
  | .ok x => .ok x
  | .error e => .error (.mem e)

/-- Run over a list, keeping the answers. -/
def mapAsk (f : α → Except Halt β) : List α → Except Halt (List β)
  | [] => .ok []
  | x :: xs => do
    let y ← f x
    let ys ← mapAsk f xs
    pure (y :: ys)

/-- Pages of a directory: headers, and whether the shard is there. -/
def askDir (got : List Fetched) (dst job n : Nat) (addr : Nat → Nat) : Except Halt (List (List Byte × Bool)) := do
  let ps ← mapAsk (fun i => ask got dst job (addr i)) (List.range (cdiv n 1024))
  pure (ps.flatMap fun b => (pieces 136 b.length b).map fun e => (e.take 128, e.getD 128 0 != 0))

/-! ## Candidate shards (R617) -/

/-- A lost member's image in a parity group (R621): group number, members, the lost rank, and for each rank the place of
the step among the member's parity checkpoints. -/
structure Rebuild where
  group : Nat
  members : List (Half × Half)
  lost : Nat
  places : List (Nat × Nat)
  deriving DecidableEq, Repr

/-- Where a candidate's data comes from. -/
inductive Src where
  | own (c : Ckpt)
  | records (data : List Byte)
  | hold (dst job pos : Nat) (cov : List Nat)
  | parity (x : Rebuild) (cov : List Nat)
  deriving DecidableEq, Repr

/-- A candidate shard. -/
structure ShardCand where
  step : Nat
  writer : Nat
  idx : Nat
  hdr : List Byte
  src : Src
  deriving DecidableEq, Repr

/-- Candidates from a directory. -/
def candsOf (src : Src) (step : Nat) (l : List (List Byte × Bool)) : List ShardCand :=
  (((List.range l.length).zip l).filter fun e => e.2.2).map fun e =>
    { step := step, writer := blk e.2.1 24 2, idx := e.1, hdr := e.2.1, src := src }

/-- The job's own checkpoints (OXBOW). -/
def ownCands (p : Packet) (s : State) : List ShardCand :=
  (((s.job? p.job).map fun j => j.ckpts.filter Ckpt.usable).getD []).flatMap fun c =>
    candsOf (.own c) c.step.toNat (c.hdrs.map fun h => (h, true))

/-- Exported records at an address (SHARDS): header, data, padding to 64 bytes. -/
def recordCands (p : Packet) (s : State) : Nat → Nat → Nat → Except Halt (List ShardCand)
  | 0, _, _ => .ok []
  | n + 1, i, a => do
    let h ← own (vread p.vi s a 128)
    let d ← own (vread p.vi s (a + 128) (hdrBytes h))
    let rest ← recordCands p s n (i + 1) (a + 128 + cdiv (hdrBytes h) 64 * 64)
    pure ({ step := blk h 8 8, writer := blk h 24 2, idx := i, hdr := h, src := .records d } :: rest)

/-- The images of a holder (BUDDY), and their steps. -/
def holdCands (p : Packet) (got : List Fetched) : Except Halt (List ShardCand × List Nat) := do
  let m := bf p.p0 63 48
  let job := bf p.p0 47 32
  let t ← ask got m job (imgAddr 8 0 job 0)
  let es := (pieces 16 t.length t)
  let cs ← mapAsk (fun (e : Nat × List Byte) => do
    let dir ← askDir got m job (blk e.2 8 4) fun i => imgAddr 9 e.1 job i
    pure (candsOf (.hold m job e.1 (coveredOf (dir.map (·.1)))) (blk e.2 0 8) dir)) ((List.range es.length).zip es)
  pure (cs.flatten, es.map fun e => blk e 0 8)

/-- The rank of the lost member: where the group lists it, else this module's own (a spare in its place). -/
def lostRank (g : Group) (m job : Nat) : Nat :=
  (g.members.findIdx? fun x => x.1.toNat == m && x.2.toNat == job).getD g.rank

/-- The tables of the other members about the lost one's image: (rank, (step, shards) by place). -/
def parityTables (g : Group) (lost : Nat) (got : List Fetched) : Except Halt (List (Nat × List (Nat × Nat))) :=
  mapAsk (fun (e : Nat × Half × Half) => do
      let t ← ask got e.2.1.toNat e.2.2.toNat (imgAddr 11 g.num lost 0)
      pure (e.1, (pieces 16 t.length t).map fun b => (blk b 0 8, if blk b 8 4 = 2 ^ 32 - 1 then 0 else blk b 12 4)))
    (((List.range g.members.length).zip g.members).filter fun e => e.1 != lost)

/-- The image of a lost member of a parity group (PARITY), and the steps found. -/
def parityCands (p : Packet) (got : List Fetched) (s : State) : Except Halt (List ShardCand × List Nat) :=
  match s.fab.groups.find? fun g => g.job == p.job && g.num == bf p.p0 21 16 with
  | none => .error (.stop 0xFF 0x0805 (bf p.p0 63 48))
  | some g => do
    let x := lostRank g (bf p.p0 63 48) (bf p.p0 47 32)
    let ts ← parityTables g x got
    let steps := dedup (ts.flatMap fun t => (t.2.filter fun e => e.2 != 0).map (·.1))
    let cs ← mapAsk (fun step => do
      let places := ts.filterMap fun t => (t.2.findIdx? fun e => e.1 == step).map fun i => (t.1, i)
      match ts.findSome? fun t => (t.2.findIdx? fun e => e.1 == step && e.2 != 0).map fun i => (t.1, i, ((t.2.getD i (0, 0)).2)) with
      | none => pure []
      | some (r, i, n) => do
        let m := g.members.getD r (0, 0)
        let dir ← askDir got m.1.toNat m.2.toNat n fun k => imgAddr 12 g.num x (i * 2 ^ 28 + k)
        let rb : Rebuild := { group := g.num, members := g.members, lost := x, places := places }
        pure (candsOf (.parity rb (coveredOf (dir.map (·.1)))) step dir)) steps
    pure (cs.flatten, steps)

/-- The candidates of a RESTORE, and the distinct steps found (R617, R619). -/
def candidates (p : Packet) (got : List Fetched) (s : State) : Except Halt (List ShardCand × List Nat) :=
  match bf p.p0 7 0 with
  | 1 => .ok (ownCands p s, (ownCands p s).map (·.step))
  | 2 => holdCands p got
  | 3 => parityCands p got s
  | _ => do
    let l ← recordCands p s (bf p.p3 63 32) 0 p.p2.toNat
    pure (l, l.map (·.step))

/-! ## Data of a shard (R618, R621) -/

/-- A region of the lost member's image: the parity region XOR the regions of the row at the other members (R621). -/
def rebuildRegion (got : List Fetched) (x : Rebuild) (i : Nat) : Except Halt (List Byte) := do
  let g := x.members.length
  let k := rowOf x.lost i g
  let h := k % g
  let at_ (r : Nat) : Half × Half := x.members.getD r (0, 0)
  let place (r : Nat) : Option Nat := (x.places.find? fun e => e.1 == r).map (·.2)
  let short (r : Nat) : Halt := .stop 0xFF 0x080A r
  let need (r kind off : Nat) : Except Halt (List Byte) :=
    match place r with
    | none => .error (short r)
    | some q => do
      let d ← askOpt got (at_ r).1.toNat (at_ r).2.toNat (imgAddr kind x.group x.lost (q * 2 ^ 28 + off))
      match d with
      | some d => pure d
      | none => .error (short r)
  let row ← need h 13 k
  let rest ← mapAsk (fun r => do
    let t ← ask got (at_ h).1.toNat (at_ h).2.toNat (imgAddr 11 x.group r 0)
    let n := blk t (16 * (place h).getD 0 + 8) 4
    if regionIn r k g < n then need r 14 (regionIn r k g) else pure []) ((List.range g).filter fun r => r != x.lost && r != h)
  pure (rest.foldl xorBytes row)

/-- Bytes of a region for a source. -/
def srcRegion (got : List Fetched) (s : State) (src : Src) (r : Nat) : Except Halt (List Byte) :=
  match src with
  | .own c => .ok (c.region s r)
  | .records _ => .ok []
  | .hold m job pos cov =>
    match cov.findIdx? (· == r) with
    | some i => ask got m job (imgAddr 10 pos job i)
    | none => .ok []
  | .parity x cov =>
    match cov.findIdx? (· == r) with
    | some i => rebuildRegion got x i
    | none => .ok []

/-- The data of a candidate; none when a check of it fails (R618). -/
def candData (got : List Fetched) (s : State) (c : ShardCand) : Except Halt (Option (List Byte)) := do
  let d ← match c.src with
    | .records d => pure d
    | _ => do
      let a := hdrAddr c.hdr
      let rs ← mapAsk (srcRegion got s c.src) (regionsOf a (hdrBytes c.hdr))
      pure ((rs.flatten.drop (a % 65536)).take (hdrBytes c.hdr))
  pure (if hdrOk c.hdr && crc32c d == BitVec.ofNat 32 (blk c.hdr 112 4) then some d else none)

/-! ## Boxes (R611, R618, R620) -/

/-- Elements of a box in row-major order, dimension 0 innermost. -/
def coords : List (Nat × Nat) → List (List Nat)
  | [] => [[]]
  | (o, e) :: t => (coords t).flatMap fun c => (List.range e).map fun i => (o + i) :: c

/-- The element lies in the box. -/
def inBox : List (Nat × Nat) → List Nat → Bool
  | [], [] => true
  | (o, e) :: t, x :: c => decide (o ≤ x ∧ x < o + e) && inBox t c
  | _, _ => false

/-- Number of the run along dimension 0 that holds an element of a box. -/
def runIx : List (Nat × Nat) → List Nat → Nat
  | (o, e) :: t, x :: c => (x - o) + e * runIx t c
  | _, _ => 0

/-- Bytes of the two planes of a run of n elements. -/
def planeBytes (fmt n : Nat) : Nat × Nat :=
  if isMx fmt then (4 * elemBits fmt * cdiv n 32, cdiv n 32)
  else if fmt = 0x0D then (32 * cdiv n 256, 2 * cdiv n 256)
  else (n * elemBits fmt / 8, 0)

/-- Elements of a block of a format. -/
def blockOfFmt (fmt : Nat) : Nat := if isMx fmt then 32 else if fmt = 0x0D then 256 else 1

/-- Code of an element of a box, and the second-plane entry of its block. -/
def boxElem (fmt : Nat) (box : List (Nat × Nat)) (d : List Byte) (c : List Nat) : Nat × Nat :=
  let e0 := (box.headD (0, 1)).2
  let i := c.headD 0 - (box.headD (0, 1)).1
  let run := runIx box.tail c.tail
  let runs := ((box.tail.map (·.2)).foldl (· * ·) 1)
  let pb := planeBytes fmt e0
  let w := elemBits fmt
  let bit := run * pb.1 * 8 + w * i
  let code := blk d (bit / 8) 5 / 2 ^ (bit % 8) % 2 ^ w
  let size := if isMx fmt then 1 else if fmt = 0x0D then 2 else 0
  (code, blk d (runs * pb.1 + run * pb.2 + size * (i / blockOfFmt fmt)) size)

/-- The shard that gives an element: lowest WRITER_MODULE, then lowest index (R620). -/
def pick (l : List ShardCand) (t : List Byte) (c : List Nat) : Option ShardCand :=
  (l.filter fun x => hdrTensor x.hdr == hdrTensor t && hdrFmt x.hdr == hdrFmt t && inBox (hdrBox x.hdr) c).foldl
    (fun best x => match best with
      | none => some x
      | some b => if x.writer < b.writer ∨ (x.writer = b.writer ∧ x.idx < b.idx) then some x else some b) none

/-- Data of a target, from the data of the shards (R611): its first plane run by run, then its second. -/
def targetData (l : List ShardCand) (data : List (ShardCand × List Byte)) (t : List Byte) : List Byte :=
  let fmt := hdrFmt t
  let box := hdrBox t
  let e0 := (box.headD (0, 1)).2
  let es := (coords box).map fun c =>
    match pick l t c with
    | some x => boxElem fmt (hdrBox x.hdr) (((data.find? fun e => e.1 == x).map (·.2)).getD []) c
    | none => (0, 0)
  let runs := pieces e0 es.length es
  let pad (n : Nat) (r : List (Nat × Nat)) : List (Nat × Nat) := r ++ List.replicate (cdiv r.length n * n - r.length) (0, 0)
  let b := blockOfFmt fmt
  let size := if isMx fmt then 1 else if fmt = 0x0D then 2 else 0
  (runs.flatMap fun r => packBits (elemBits fmt) ((pad b r).map (·.1)))
    ++ (if size = 0 then [] else runs.flatMap fun r => (pieces b r.length r).flatMap fun x => leBytes size (x.headD (0, 0)).2)

/-! ## RESTORE (R618 to R620) -/

/-- Falling order without repeats. -/
def stepsDown (l : List Nat) : List Nat := (sortNat (dedup l)).reverse

/-- Try the steps that qualify, until one whose used shards all pass their checks: the step, the shards read, and what to
write where. -/
def tryStep (got : List Fetched) (s : State) (cands : List ShardCand) (targets : List (List Byte)) :
    List Nat → Except Halt (Option (Nat × Nat × List (Nat × List Byte)))
  | [] => .ok none
  | step :: rest => do
    let l := cands.filter fun c => c.step == step
    let picks := targets.flatMap fun t => (coords (hdrBox t)).map fun c => pick l t c
    if picks.any Option.isNone then tryStep got s cands targets rest
    else
      let used := l.filter fun c => picks.contains (some c)
      let ds ← mapAsk (fun c => do
        let d ← candData got s c
        pure (c, d)) used
      if ds.any fun e => e.2.isNone then tryStep got s cands targets rest
      else
        let data := ds.map fun e => (e.1, e.2.getD [])
        pure (some (step, used.length, targets.map fun t => (hdrAddr t, targetData l data t)))

/-- The outcome of a RESTORE: what to write, or none and the steps found. -/
def restoreEval (p : Packet) (got : List Fetched) (s : State) :
    Except Halt (Option (Nat × Nat × List (Nat × List Byte)) × List Nat × List (List Byte)) := do
  let tb ← own (vread p.vi s p.p4.toNat (128 * bf p.p3 31 0))
  let targets := hdrsOf tb
  let x ← candidates p got s
  let steps := if p.p1 = 0xFFFFFFFFFFFFFFFF then stepsDown (x.1.map (·.step)) else [p.p1.toNat]
  let r ← tryStep got s x.1 targets steps
  pure (r, stepsDown x.2, targets)

/-- Write the targets of a RESTORE, until an access fails. -/
def writeTargets (p : Packet) : List (Nat × List Byte) → State → State × Option MemErr
  | [], s => (s, none)
  | (a, d) :: ts, s =>
    match vstore p a d s with
    | (s1, some e) => (s1, some e)
    | (s1, none) => writeTargets p ts s1

/-- The targets hold free bytes (R619, R624). -/
def scrambleTargets (p : Packet) (targets : List (List Byte)) (s : State) : State :=
  targets.foldl (fun s t => vwrite p.vi (hdrAddr t) (s.freeBytes (hdrBytes t)) s.nextFree) s

/-- A RESTORE ends (R619, R620). -/
def finishRestore (p : Packet) (r : Option (Nat × Nat × List (Nat × List Byte)) × List Nat × List (List Byte)) (s : State) :
    State :=
  let s0 := markPhase p.job 7 s
  match r.1 with
  | some (step, n, ws) => finishMem p (writeTargets p ws s0) step n
  | none =>
    let steps := r.2.1.take 64
    let w := vstore p p.p5.toNat (steps.flatMap fun x => leBytes 8 x) (scrambleTargets p r.2.2 s0)
    match w.2 with
    | some e => memFail p e w.1
    | none => postFinal p 0x38 0x0000 0 steps.length w.1

/-- The read that a RESTORE waits for, or its end. -/
def stepRestore (p : Packet) (got : List Fetched) (s : State) : (Nat × Nat × Nat) ⊕ State :=
  match restoreEval p got s with
  | .ok r => .inr (finishRestore p r s)
  | .error (.need m j a) => .inl (m, j, a)
  | .error (.stop st rs r0) => .inr (postFinal p st rs r0 0 s)
  | .error (.mem e) => .inr (memFail p e s)

/-! ## READBACK (R613) -/

/-- First shard of a checkpoint whose header or data does not match. -/
def Ckpt.badShard (c : Ckpt) (s : State) : Option Nat :=
  (((List.range c.hdrs.length).zip c.hdrs).find? fun e =>
    !(hdrOk e.2) || crc32c (c.shardData s e.2) != BitVec.ofNat 32 (blk e.2 112 4)).map (·.1)

/-- Outcome of a READBACK: the reason and RESULT0 of a failure, or none. -/
def readbackEval (id : Nat) (c : Ckpt) (got : List Fetched) (s : State) : Except Halt (Option (Half × Nat)) :=
  match c.badShard s with
  | some i => .ok (some (0x0808, i))
  | none =>
    if c.protect = 0 ∨ c.state = 5 then .ok none
    else do
      let mine := if c.protect = 2 then
          ((s.paritiesOf id c.group).find? fun x => x.step == c.step).bind fun x =>
            if x.verify s = 2 ^ 64 - 1 then none else some (x.verify s)
        else none
      let a := if c.protect = 1 then imgAddr 15 2047 id 0 else imgAddr 15 c.group 0 (c.step.toNat % 2 ^ 32)
      let rs ← mapAsk (fun (x : Nat × Half × Half) => do
        let d ← ask got x.2.1.toNat x.2.2.toNat a
        pure (blk d 0 8)) c.others
      match mine.or (rs.find? fun v => v != 2 ^ 64 - 1) with
      | some v => pure (some (if c.protect = 1 then 0x0808 else 0x0809, v))
      | none => pure none

/-- The read that a READBACK waits for, or its end: VERIFIED, or FAILED and counted. -/
def stepReadback (p : Packet) (id ckpt : Nat) (got : List Fetched) (s : State) : (Nat × Nat × Nat) ⊕ State :=
  match s.ckpt? id ckpt with
  | none => .inr (postErr p 0x0804 ckpt s)
  | some c =>
    match readbackEval id c got s with
    | .ok none => .inr (postDone p c.hdrs.length 0 (updCkpt id ckpt (fun c => { c with state := 3 }) s))
    | .ok (some (reason, i)) =>
      let s1 := updCkpt id ckpt (fun c => { c with state := 4 }) s
      .inr (postFinal p 0x39 reason i 0 { s1 with ctr := { s1.ctr with ckptVerifyFails := satAdd s1.ctr.ckptVerifyFails 1 } })
    | .error (.need m j a) => .inl (m, j, a)
    | .error (.stop st rs r0) => .inr (postFinal p st rs r0 0 s)
    | .error (.mem e) => .inr (memFail p e s)

end Sys2Proof.Machine
end

