-- ==== Sys2Proof/Machine/Remote.lean ====
section
/-! DEFINITION. Commands with work at other modules (spec/13_fabric_collectives.md R536 to R551, and R357, R368, R444, R602):
what each sends next, what an answer does to it, and the pump that lets them advance. -/

namespace Sys2Proof.Machine

open Sys2Proof

/-- What a command in progress would do next. -/
inductive Want where
  /-- Nothing before something else happens. -/
  | idle
  /-- It advances or ends here. -/
  | go (t : State)
  /-- It sends a request: module, job, channel. -/
  | send (dst job chan : Nat) (r : Req)

/-- Channel that firmware uses (R357, R368, R444, R602). -/
abbrev fwChan : Nat := 15

/-- Bytes of a chunk at most (R532). -/
abbrev chunkMax : Nat := 262144

/-! ## PUT, GET, ATOMIC, SIGNAL (R536 to R545) -/

/-- DST_MODULE, DST_JOB and CHANNEL of a remote operation (Table 13.7). -/
def remoteTo (p : Packet) : Nat × Nat × Nat := (bf p.p0 63 48, bf p.p0 47 32, bf p.p0 11 8)

/-- LOCAL_CTR of a remote operation. -/
def localCtr (p : Packet) : Nat := if p.op = 0x0703 then p.p5.toNat else p.p4.toNat

/-- The next request of a remote operation, after `done` bytes. -/
def wantRemote (p : Packet) (done : Nat) (s : State) : Want :=
  let x := remoteTo p
  let send := Want.send x.1 x.2.1 x.2.2
  match p.op with
  | 0x0701 =>
    let n := min chunkMax (p.p3.toNat - done)
    if n = 0 then (if p.p5 = 0 then .idle else send (.signal p.p5.toNat 1))
    else
      (match vread p.vi s (p.p1.toNat + done) n with
       | .ok d => send (.put (p.p2.toNat + done) d)
       | .error e => .go (memFail p e s))
  | 0x0702 => send (.get (p.p2.toNat + done) (min chunkMax (p.p3.toNat - done)) (p.p1.toNat + done))
  | 0x0703 => send (.atomic (bf p.p0 23 16) p.p2.toNat p.p3.toNat p.p4.toNat p.p1.toNat)
  | _ => send (.signal p.p2.toNat p.p3.toNat)

/-- Add to a counter of the command's range, if it names one (R543). -/
def raiseCtr (p : Packet) (a v : Nat) (s : State) : State × Option MemErr :=
  if a = 0 then (s, none)
  else
    match vread p.vi s a 8 with
    | .ok d => vstore p a (leBytes 8 (leNat d + v)) s
    | .error e => (s, some e)

/-- A remote operation is done: LOCAL_CTR is raised and it completes (R538 to R541). -/
def endRemote (p : Packet) (r0 : Nat) (s : State) : State := finishMem p (raiseCtr p (localCtr p) 1 s) r0 0

/-- A remote operation has its answer. -/
def remoteAnswer (p : Packet) (done : Nat) (aborted : Bool) (d : List Byte) (s : State) : State :=
  let stop (t : State) : State := postFinal p 0x02 0x0000 0 0 t
  match p.op with
  | 0x0701 =>
    if aborted then stop s
    else
      let n := min chunkMax (p.p3.toNat - done)
      if n = 0 then endRemote p p.p3.toNat s
      else if done + n = p.p3.toNat ∧ p.p5 = 0 then endRemote p p.p3.toNat s
      else s.setProg p.key (.remote (done + n) (done + n) false)
  | 0x0702 =>
    let w := vstore p (p.p1.toNat + done) d s
    (match w.2 with
     | some e => memFail p e w.1
     | none =>
       if aborted then stop w.1
       else if p.p3.toNat ≤ done + d.length then endRemote p 0 w.1
       else w.1.setProg p.key (.remote (done + d.length) (done + d.length) false))
  | 0x0703 =>
    let w := if p.p1 = 0 then (s, none) else vstore p p.p1.toNat d s
    (match w.2 with
     | some e => memFail p e w.1
     | none => if aborted then stop w.1 else endRemote p (leNat d) w.1)
  | _ => if aborted then stop s else endRemote p (leNat d) s

/-! ## KV_SHIP SEND (R357) -/

/-- Local page j of a send: a page, or a spill slot marked by bit 24. -/
def sendPages (n : Nat) (q : Pool) (t : Nat) (s : State) : List Nat :=
  (List.range (s.used n q t)).map fun j =>
    let e := s.te n q t j
    if teSpilled e && !(teValid e) then 2 ^ 24 + tePage e else tePage e

/-- Bytes of a local page of a send: one stride. -/
def sendBytes (p : Packet) (q : Pool) (page : Nat) (s : State) : Except MemErr (List Byte) :=
  vread p.vi s (if page < 2 ^ 24 then s.pageVa p.vi q page else s.spillVa p.vi q (page - 2 ^ 24)) (s.kvStr p.vi q)

/-- Pages of a send that are pinned. -/
def realPages (l : List Nat) : List Nat := l.filter fun x => decide (x < 2 ^ 24)

/-- The pins of a send are dropped (Table 9.8). -/
def unpinSend (p : Packet) (l : List Nat) (s : State) : State :=
  match s.pool? p.job (bf p.p0 63 48) with
  | some q => (realPages l).foldl (fun s x => unpinPage p.vi q x s) s
  | none => s

/-- Address of the destination table's header, from the destination's control block. -/
def destTable (p : Packet) (cb : List Byte) : Nat :=
  p.p3.toNat + 256 + 8 * blk cb 16 4 + bf p.p5 23 0 * blk cb 24 4

/-- The destination qualifies (R357, 2). -/
def shipReady (p : Packet) (q : Pool) (cb hdr : List Byte) (used : Nat) (s : State) : Bool :=
  blk cb 0 1 == s.cb p.vi q 0 1 && blk cb 12 4 == s.kvStr p.vi q && blk cb 1 1 == s.cb p.vi q 1 1
  && blk cb 2 1 == s.cb p.vi q 2 1 && blk hdr 0 1 == 3 && blk hdr 8 4 == bf p.p1 63 32 && blk hdr 16 2 == s.moduleId
  && blk hdr 12 4 == used

/-- The next request of a send: phase 9 waits for its pins, taken at dispatch (Table 9.8); 0 control block, 1 header, 2 entries,
6 reads a page, 3 page, 4 CRC, 5 signal. `got` holds 64 bytes of the control block, the entries, and the page. -/
def wantSend (p : Packet) (phase page off : Nat) (pages : List Nat) (got : List Byte) (s : State) : Want :=
  match s.pool? p.job (bf p.p0 63 48) with
  | none => .idle
  | some q =>
    let send := Want.send (bf p.p2 15 0) p.job fwChan
    let get (a n : Nat) : Want := send (.get a n a)
    let tbl := destTable p got
    let x := pages.getD page 0
    let head := 64 + 8 * pages.length
    match phase with
    | 9 =>
      let l := sendPages p.vi q (bf p.p0 47 24) s
      if s.pinnable p.vi q (realPages l) then
        .go (((realPages l).foldl (fun s x => pinPage p.vi q x s) s).setProg p.key (.kvSend 0 0 0 l []))
      else .idle
    | 0 => get p.p3.toNat 256
    | 1 => get tbl 64
    | 2 => get (tbl + 64 + (got.length - 64)) (min chunkMax (8 * pages.length - (got.length - 64)))
    | 6 =>
      (match sendBytes p q x s with
       | .ok d => .go (s.setProg p.key (.kvSend 3 page 0 pages (got.take head ++ d)))
       | .error e => .go (memFail p e (unpinSend p pages s)))
    | 3 => send (.put (p.p4.toNat + tePage (blk got (64 + 8 * page) 8) * s.kvStr p.vi q + off) ((got.drop (head + off)).take chunkMax))
    | 4 => send (.put (tbl + 64 + 8 * page + 4) (leBytes 4 (crc32c (got.drop head)).toNat))
    | _ => send (.signal (tbl + 24) 1)

/-- A send has its answer. -/
def sendAnswer (p : Packet) (phase page off : Nat) (pages : List Nat) (got d : List Byte) (s : State) : State :=
  match s.pool? p.job (bf p.p0 63 48) with
  | none => s
  | some q =>
    let set (a b c : Nat) (g : List Byte) : State := s.setProg p.key (.kvSend a b c pages g)
    match phase with
    | 0 => set 1 0 0 (d.take 64)
    | 1 =>
      if shipReady p q got d pages.length s then (if pages.isEmpty then postDone p 0 0 s else set 2 0 0 got)
      else postErr p 0x0420 (bf p.p5 23 0) (unpinSend p pages s)
    | 2 => set (if got.length - 64 + d.length = 8 * pages.length then 6 else 2) 0 0 (got ++ d)
    | 3 =>
      let n := min chunkMax (s.kvStr p.vi q - off)
      if off + n = s.kvStr p.vi q then set 4 page 0 got else set 3 page (off + n) got
    | 4 => set 5 page 0 got
    | _ => if page + 1 = pages.length then postDone p 0 0 (unpinSend p pages s) else set 6 (page + 1) 0 got

/-- KV_SHIP_SEND (R357). -/
def effKvSend (p : Packet) (s : State) : State :=
  match s.pool? p.job (bf p.p0 63 48) with
  | none => postErr p 0x0401 (bf p.p0 63 48) s
  | some q =>
    if s.kvTables p.vi q ≤ bf p.p0 47 24 then postFree p s else s.openCmd p (.kvSend 9 0 0 [] [])

/-! ## FRESHET_PUSH (R443 to R445, R447) -/

/-- Entry of the i-th region of a push, as read from the destination. -/
def pushEntry (got : List Byte) (i off n : Nat) : Nat := blk got (64 * i + off) n

/-- Destination address of that entry. -/
def destEntry (p : Packet) (i : Nat) : Nat := p.p2.toNat + 256 + 64 * (bf p.p0 31 16 + i)

/-- Chunk c of a local region: of its active buffer (R444). -/
def pushChunk (p : Packet) (m : Model) (i c : Nat) (s : State) : Except MemErr (List Byte) :=
  let r := bf p.p0 31 16 + i
  let bytes := s.ent p.vi m r 32 8
  let buf := s.ent p.vi m r (if bn (s.stw p.vi m r) 4 4 = 0 then 0 else 8) 8
  vread p.vi s (buf + c * chunkMax) (min chunkMax (bytes - c * chunkMax))

/-- A push stops (R445). -/
def stopPush (p : Packet) (i : Nat) (reason : Half) (s : State) : State := postErr p reason (bf p.p0 31 16 + i) s

/-- The next region of a push, or its end (R444, 5): `i` regions are behind it. -/
def pushNext (p : Packet) (m : Model) (got : List Byte) : Nat → Nat → Nat → Nat → Nat → State → State
  | 0, _, sent, skipped, fixed, s => postDone p sent (skipped * 2 ^ 16 + fixed) s
  | n + 1, i, sent, skipped, fixed, s =>
    if (m.regions[bf p.p0 31 16 + i]?).any Region.fixed then pushNext p m got n (i + 1) sent skipped (fixed + 1) s
    else s.setProg p.key (.push 2 i 0 sent skipped fixed 0 got)

/-- Go on after region i. -/
def pushOn (p : Packet) (m : Model) (got : List Byte) (i sent skipped fixed : Nat) (s : State) : State :=
  pushNext p m got (bf p.p0 47 32 - (i + 1)) (i + 1) sent skipped fixed s

/-- What the state word of a destination region makes of the claim (R444, 3; Table 11.11). -/
def pushClaim (p : Packet) (m : Model) (got : List Byte) (i sent skipped fixed until_ w : Nat) (s : State) : State :=
  match ssOf w with
  | 1 | 4 => s.setProg p.key (.push 3 i w sent skipped fixed until_ got)
  | 3 =>
    if w / 2 ^ 32 = bf p.p1 31 0 then pushOn p m got i sent (skipped + 1) fixed s else stopPush p i 0x0614 s
  | 2 | 5 =>
    let last := if until_ = 0 then s.ftu.count.toNat + bf p.p1 63 32 else until_
    if bf p.p1 63 32 = 0 then stopPush p i 0x0613 s
    else s.setProg p.key (.push 7 i w sent skipped fixed last got)
  | 0 => stopPush p i 0x0610 s
  | _ => stopPush p i 0x0612 s

/-- The word of a claim: VERSION, this module, ACTIVE kept, FILLING. -/
def claimWord (p : Packet) (w : Nat) (s : State) : Nat := bf p.p1 31 0 * 2 ^ 32 + s.moduleId * 2 ^ 16 + bn w 4 4 * 16 + 2

/-- The destination qualifies (R444, 2): the first region that does not. -/
def pushReady (p : Packet) (m : Model) (got : List Byte) (s : State) : Option Nat :=
  (List.range (bf p.p0 47 32)).find? fun i => pushEntry got i 32 8 != s.ent p.vi m (bf p.p0 31 16 + i) 32 8

/-- A push starts: its tags are checked (R444, 1). -/
def startPush (p : Packet) (m : Model) (s : State) : State :=
  let l := (List.range (bf p.p0 47 32)).map (bf p.p0 31 16 + ·)
  match s.wrongTag p.vi m (bf p.p1 31 0) l with
  | some i => postErr p 0x0611 i s
  | none => s.setProg p.key (.push 0 0 0 0 0 0 0 [])

/-- The next request of a push: phase 10 waits (R447); 0 header, 1 entries, 2 state word, 3 claim, 4 ARRIVED, 5 chunk,
6 CRC, 8 signal; 7 waits for a blocked claim. In phase 3 `off` is the word read, later the chunk. -/
def wantPush (p : Packet) (phase i off : Nat) (got : List Byte) (s : State) : Want :=
  match s.model? p.job (bf p.p0 15 0) with
  | none => .idle
  | some m =>
    let send := Want.send (bf p.p0 63 48) p.job fwChan
    let get (a n : Nat) : Want := send (.get a n a)
    let buf := pushEntry got i (if bn (pushEntry got i 16 8) 4 4 = 0 then 8 else 0) 8
    match phase with
    | 10 =>
      if (s.before p.key).any fun o => o.pkt.op == 0x0503 && s.meets o.pkt p then .idle else .go (startPush p m s)
    | 0 => get p.p2.toNat 256
    | 1 => get (destEntry p 0 + got.length) (min chunkMax (64 * bf p.p0 47 32 - got.length))
    | 2 => get (destEntry p i + 16) 8
    | 3 => send (.atomic 2 (destEntry p i + 16) off (claimWord p off s) 0)
    | 4 => send (.put (destEntry p i + 24) (leBytes 8 0))
    | 5 =>
      (match pushChunk p m i off s with
       | .ok d => send (.put (buf + off * chunkMax) d)
       | .error e => .go (memFail p e s))
    | 6 =>
      (match pushChunk p m i off s with
       | .ok d => send (.put (pushEntry got i 40 8 + 4 * off) (leBytes 4 (crc32c d).toNat))
       | .error e => .go (memFail p e s))
    | 8 => send (.signal (destEntry p i + 24) 1)
    | _ => .idle

/-- A push has its answer. -/
def pushAnswer (p : Packet) (phase i off sent skipped fixed until_ : Nat) (got d : List Byte) (s : State) : State :=
  match s.model? p.job (bf p.p0 15 0) with
  | none => s
  | some m =>
    let set (a x : Nat) (g : List Byte) : State := s.setProg p.key (.push a i x sent skipped fixed until_ g)
    match phase with
    | 0 => if blk d 4 1 ≠ 0 ∨ blk d 8 8 ≠ m.shapeId.toNat then postErr p 0x0612 0xFFFFFFFF s else set 1 0 []
    | 1 =>
      let g := got ++ d
      if g.length < 64 * bf p.p0 47 32 then set 1 0 g
      else
        (match pushReady p m g s with
         | some k => stopPush p k 0x0612 s
         | none => pushNext p m g (bf p.p0 47 32) 0 0 0 0 s)
    | 2 => pushClaim p m got i sent skipped fixed until_ (leNat d) s
    | 3 =>
      if leNat d = off then
        s.setProg p.key (.push 4 i 0 sent skipped fixed 0
          (got.take (64 * i + 16) ++ leBytes 8 (claimWord p off s) ++ got.drop (64 * i + 24)))
      else pushClaim p m got i sent skipped fixed until_ (leNat d) s
    | 4 => set 5 0 got
    | 5 => set 6 off got
    | 6 => set 8 off got
    | 8 =>
      if off + 1 < chunks (s.ent p.vi m (bf p.p0 31 16 + i) 32 8) then set 5 (off + 1) got
      else pushOn p m got i (sent + 1) skipped fixed s
    | _ => s

/-- FRESHET_PUSH (R443). -/
def effPush (p : Packet) (s : State) : State :=
  match s.nameModel p (bf p.p0 15 0) with
  | .error e => refuse p e s
  | .ok m =>
    if bf p.p0 47 32 = 0 ∨ m.regions.length < bf p.p0 31 16 + bf p.p0 47 32 then postFree p s
    else if bf p.p1 31 0 = 0xFFFFFFFF then postErr p 0x0616 0xFFFFFFFF s
    else s.openCmd p (.push 10 0 0 0 0 0 0 [])

/-! ## All of them -/

/-- Frames that a TAKE with PARITY reserves on every member. -/
def takeFrames (p : Packet) : Nat := bf p.p5 31 0

/-- What a command in progress wants. -/
def wantOf (o : OpenCmd) (s : State) : Want :=
  let fetch (x : (Nat × Nat × Nat) ⊕ State) : Want :=
    match x with
    | .inl (m, j, a) => .send m j fwChan (.get a chunkMax a)
    | .inr t => .go t
  match o.prog with
  | .remote done _ aborted => if aborted then .idle else wantRemote o.pkt done s
  | .kvSend phase page off pages got => wantSend o.pkt phase page off pages got s
  | .push phase i off _ _ _ _ got => wantPush o.pkt phase i off got s
  | .passOut _ _ _ _ out acked signal =>
    let b := blockOf (s.peek o.pkt.vi o.pkt.p3.toNat 128)
    let send := Want.send b.outModule o.pkt.job fwChan
    if acked < out.length then send (.put (b.out + acked) ((out.drop acked).take chunkMax))
    else if signal then send (.signal b.outCtr 1) else .idle
  | .take id ckpt =>
    (match s.ckpt? id ckpt with
     | some c => (match c.nextSend id (takeFrames o.pkt) s with
       | some (m, j, r) => .send m j fwChan r
       | none => .idle)
     | none => .idle)
  | .restore got => fetch (stepRestore o.pkt got s)
  | .readback id ckpt got => fetch (stepReadback o.pkt id ckpt got s)
  | _ => .idle

/-- A TAKE that its peer denies before the freeze changes nothing: the checkpoint goes (R588). After the freeze it is
FAILED. -/
def denyTake (p : Packet) (id ckpt : Nat) (status : Byte) (reason : Half) (r0 : Nat) (s : State) : State :=
  match s.ckpt? id ckpt with
  | some c =>
    if c.state = 0 then postFinal p status reason r0 0 (dropCkpt id ckpt (dropWork p.key s))
    else
      let s1 := updCkpt id ckpt (fun c => { c with state := 4, todo := [] }) (dropWork p.key s)
      postFinal p status reason r0 0 { s1 with ctr := { s1.ctr with ckptTakeFails := satAdd s1.ctr.ckptTakeFails 1 } }
  | none => postFinal p status reason r0 0 s

/-- An answer of a protective transfer: the next one may go; with the last announcement a freeze at dispatch takes
place (P2 FRET 0). -/
def takeAnswer (p : Packet) (id ckpt : Nat) (s : State) : State :=
  match s.ckpt? id ckpt with
  | none => s
  | some c =>
    let s1 := countSent (c.sentRegions c.sent) (updCkpt id ckpt (fun c => { c with sent := c.sent + 1 }) s)
    if c.sent + 1 = c.units.1 ∧ c.state = 0 ∧ p.p2 = 0 then freezeCkpt id ckpt s1 else markPhase id 7 s1

/-- A command in progress has the answer to its request. -/
def answer (o : OpenCmd) (dst job addr : Nat) (r : Resp) (s0 : State) : State :=
  let p := o.pkt
  let s := markWork p s0
  let keep : Fetched :=
    match r with
    | .ok d => { dst := dst, dstJob := job, addr := addr, data := d, deny := none }
    | .deny st rs r0 => { dst := dst, dstJob := job, addr := addr, data := [], deny := some (st, rs, r0) }
  match o.prog, r with
  | .restore got, _ => s.setProg p.key (.restore (got ++ [keep]))
  | .readback id ckpt got, _ => s.setProg p.key (.readback id ckpt (got ++ [keep]))
  | .take id ckpt, .deny st rs r0 => denyTake p id ckpt st rs r0 s
  | .take id ckpt, .ok _ => takeAnswer p id ckpt s
  | .remote done _ aborted, .ok d => remoteAnswer p done aborted d s
  | .remote _ _ aborted, .deny st rs r0 => if aborted then postFinal p 0x02 0x0000 0 0 s else postFinal p st rs r0 0 s
  | .kvSend phase page off pages got, .ok d => sendAnswer p phase page off pages got d s
  | .kvSend _ _ _ pages _, .deny st rs r0 => postFinal p st rs r0 0 (unpinSend p pages s)
  | .push phase i off sent skipped fixed until_ got, .ok d => pushAnswer p phase i off sent skipped fixed until_ got d s
  | .passOut bwd since waited total out acked signal, .ok _ =>
    let n := min chunkMax (out.length - acked)
    let still := signal && decide (acked < out.length)
    if acked + n < out.length ∨ still then s.setProg p.key (.passOut bwd since waited total out (acked + n) signal)
    else donePass p since waited total s
  | _, .deny st rs r0 => postFinal p st rs r0 0 s
  | _, _ => s

/-! ## The pump -/

/-- Module and channel on which a remote operation of a host command is ordered (R542). -/
def OpenCmd.lane (o : OpenCmd) : Option (Nat × Nat) :=
  match o.prog with
  | .remote _ _ _ => some ((remoteTo o.pkt).1, (remoteTo o.pkt).2.2)
  | _ => none

/-- An earlier command of the job on the same channel toward the same module has not taken effect (R542). -/
def State.laneBusy (s : State) (o : OpenCmd) : Bool :=
  o.lane.isSome && (s.before o.pkt.key).any fun e => e.pkt.job == o.pkt.job && e.lane == o.lane

/-- A remote operation of a job touches a page in motion. -/
def State.reqMoving (s : State) (job : Nat) (r : Req) : Bool :=
  match s.job? job with
  | some j => decide (r.span.1 < 2 ^ 63) && s.inMotion (j.vi, r.span.1, r.span.2)
  | none => false

/-- A request of a command goes out; one for this module itself takes effect and is answered at once (R545). -/
def issue (o : OpenCmd) (dst job chan : Nat) (r : Req) (s : State) : State :=
  let s1 := markWork o.pkt s
  if dst = s.moduleId then
    let x := doReqAny job (s.domainOf o.pkt.job) dst r s1
    answer o dst job r.span.1 x.2 x.1
  else sendReq o.pkt.key (BitVec.ofNat 16 dst) job chan o.pkt.job r s1

/-- The next thing that a command can do: none while its job does not run (R549), its channel has an unacknowledged
request (notes/assumptions/15.md), an earlier command holds the channel, or it reaches this module's own page in motion (R490). -/
def advanceOne (o : OpenCmd) (s : State) : Option State :=
  if !(s.runs o.pkt) || s.laneBusy o then none
  else
    match wantOf o s with
    | .idle => none
    | .go t => some t
    | .send dst job chan r =>
      if dst ≠ s.moduleId ∧ s.streamBusy (BitVec.ofNat 16 dst) (chanCode job chan) then none
      else if dst = s.moduleId ∧ s.reqMoving job r then none
      else some (issue o dst job chan r s)

/-- Let the commands in progress advance, the oldest first, until none can. -/
def pumpN : Nat → State → State
  | 0, s => s
  | n + 1, s =>
    match s.opens.findSome? fun o => advanceOne o s with
    | some t => pumpN n t
    | none => s

/-- Steps of the pump at one event: more than any one event's own traffic needs. -/
abbrev pumpFuel : Nat := 2 ^ 24

/-- Let the commands in progress advance. -/
def pump (s : State) : State := pumpN pumpFuel s

/-- Parameters that no remote operation may carry (R537, R543, R84). -/
def remoteBad (p : Packet) : Bool :=
  bf p.p0 11 8 == 15 || localCtr p % 8 != 0
  || (match p.op with
      | 0x0701 => p.p3 == 0 || decide (2 ^ 40 < p.p3.toNat) || p.p5.toNat % 8 != 0
      | 0x0702 => p.p3 == 0 || decide (2 ^ 40 < p.p3.toNat)
      | 0x0703 => bf p.p0 23 16 != 1 && bf p.p0 23 16 != 2
      | _ => p.p3 == 0 || decide (2 ^ 32 < p.p3.toNat))

/-- PUT, GET, ATOMIC and SIGNAL (R536). -/
def effRemote (p : Packet) (s : State) : State :=
  if remoteBad p then postFree p s else pump (s.openCmd p (.remote 0 0 false))

/-- PUT (R538). -/
def execPut (p : Packet) (s : State) : Out := submit effRemote p s
/-- GET (R539). -/
def execGet (p : Packet) (s : State) : Out := submit effRemote p s
/-- ATOMIC (R540). -/
def execAtomic (p : Packet) (s : State) : Out := submit effRemote p s
/-- SIGNAL (R541). -/
def execSignal (p : Packet) (s : State) : Out := submit effRemote p s
/-- KV_SHIP_SEND (R357). -/
def execKvShipSend (p : Packet) (s : State) : Out := submit (fun p s => pump (effKvSend p s)) p s
/-- FRESHET_PUSH (R444). -/
def execFreshetPush (p : Packet) (s : State) : Out := submit (fun p s => pump (effPush p s)) p s

/-- PUSH_CLAIM_RETRY: a blocked claim is tried again (R444, 3). -/
def claimRetry (k : Key) (s : State) : State :=
  match s.open? k with
  | some { pkt := p, prog := .push 7 i _ sent skipped fixed until_ got } =>
    pump (s.setProg p.key (.push 2 i 0 sent skipped fixed until_ got))
  | _ => s

/-- FRESHET_BUSY: a claim is still blocked after WAIT frets (R445). -/
def freshetBusy (k : Key) (s : State) : State :=
  match s.open? k with
  | some { pkt := p, prog := .push 7 i _ _ _ _ until_ _ } =>
    if s.ftu.count.toNat < until_ then s else stopPush p i 0x0613 s
  | _ => s

/-- PUSH_CLAIM_RETRY (R444). -/
def execPushClaimRetry (vi sq : Nat) (seq : Word) (s : State) : Out :=
  event (viOk vi) (claimRetry { vi := vi, sq := sq, seq := seq } s)
/-- FRESHET_BUSY (R445). -/
def execFreshetBusy (vi sq : Nat) (seq : Word) (s : State) : Out :=
  event (viOk vi) (freshetBusy { vi := vi, sq := sq, seq := seq } s)

end Sys2Proof.Machine
end

