-- ==== Sys2Proof/Machine/Collect.lean ====
section
/-! DEFINITION. Groups and collectives (spec/13_fabric_collectives.md R556 to R575): SHIFT, PERMUTE and REDUCE_SHIFT as each
member runs them, the reduction pool and its grants. -/

namespace Sys2Proof.Machine

open Sys2Proof

/-! ## Parameters (R562, R563, R565) -/

/-- A collective command. -/
structure Coll where
  /-- 0 SHIFT, 1 PERMUTE, 2 REDUCE_SHIFT -/
  kind : Nat
  group : Nat
  dist : Nat
  gather : Bool
  elems : Nat
  bytes : Nat
  src : Nat
  acc : Nat
  dst : Nat
  inFmt : Nat
  wire : Nat
  out : Nat
  table : Nat
  start : Nat
  deriving DecidableEq, Repr

/-- The fields of a packet. -/
def collOf (p : Packet) : Coll :=
  let red := p.op == 0x0707
  { kind := p.op - 0x0705, group := bf p.p0 5 0, dist := bf p.p0 31 16, gather := red && bf p.p0 11 8 == 1
    elems := bf p.p0 63 32, bytes := p.p3.toNat, src := p.p1.toNat, acc := if red then p.p2.toNat else 0
    dst := if red then p.p3.toNat else p.p2.toNat, inFmt := bf p.p4 31 24, wire := bf p.p4 63 48, out := bf p.p4 47 32
    table := p.p5.toNat, start := if red then p.p5.toNat else p.p4.toNat }

/-- FMT of WIRE_NARROW. -/
def Coll.wireFmt (x : Coll) : Nat := x.wire % 256

/-- FMT of OUT_NARROW. -/
def Coll.outFmt (x : Coll) : Nat := x.out % 256

/-- A reduction of votes. -/
def Coll.votes (x : Coll) : Bool := x.inFmt == 0x0D

/-- Format combinations that R566 rules out. -/
def Coll.badFmt (x : Coll) : Bool :=
  let a := [0x01, 0x02, 0x06, 0x07, 0x0D]
  !(a.contains x.inFmt) || !(a.contains x.wireFmt) || !((a ++ [0x03, 0x04, 0x05]).contains x.outFmt)
  || ([x.inFmt, x.wireFmt, x.outFmt].contains 0x0D && !(x.inFmt == 0x0D && x.wireFmt == 0x0D && x.outFmt == 0x0D))

/-- The group of a job. -/
def State.group? (s : State) (id num : Nat) : Option Group := s.fab.groups.find? fun g => g.job == id && g.num == num

/-- Change a group. -/
def updGroup (id num : Nat) (f : Group → Group) (s : State) : State :=
  { s with fab := { s.fab with groups := s.fab.groups.map fun g => if g.job = id ∧ g.num = num then f g else g } }

/-- Members of a group. -/
def Group.size (g : Group) : Nat := g.members.length

/-- Entries of a PERMUTE table. -/
def permTable (p : Packet) (g : Group) (s : State) : Except MemErr (List Nat) :=
  match vread p.vi s p.p5.toNat (2 * g.size) with
  | .ok b => .ok ((List.range g.size).map fun i => blk b (2 * i) 2)
  | .error e => .error e

/-- A table is a permutation (R563). -/
def isPerm (n : Nat) (t : List Nat) : Bool := (List.range n).all fun i => t.contains i

/-! ## Chunks (R562, R569, R572) -/

/-- Elements of a reduction chunk. -/
def Coll.chunkElems (x : Coll) : Nat := if x.votes then 32768 else 65536

/-- Segment j of a GATHER: first element and length (R569). -/
def Coll.segment (x : Coll) (g j : Nat) : Nat × Nat :=
  let b := if x.votes then 256 else if [x.inFmt, x.wireFmt, x.outFmt].any isMx then 32 else 1
  let l := b * cdiv x.elems (g * b)
  (j * l, min ((j + 1) * l) x.elems - j * l)

/-- First element and length of what goes to member m. -/
def Coll.part (x : Coll) (g m : Nat) : Nat × Nat := if x.gather then x.segment g m else (0, x.elems)

/-- Chunks of a transfer to member m. -/
def Coll.chunksTo (x : Coll) (g m : Nat) : Nat :=
  if x.kind = 2 then cdiv (x.part g m).2 x.chunkElems else cdiv x.bytes chunkMax

/-- Whom the member sends to and receives from, with the chunks of each: SHIFT and MODE 0 by distance, PERMUTE by its
table, MODE 1 every other member whose segment is not empty. -/
def Coll.partners (x : Coll) (g r : Nat) (table : List Nat) : List (Nat × Nat × Nat) × List (Nat × Nat × Nat) :=
  if x.gather then
    let others := (List.range g).filter fun m => m != r
    ((others.filter fun m => (x.part g m).2 != 0).map fun m => (m, x.chunksTo g m, 0),
     if (x.part g r).2 = 0 then [] else others.map fun m => (m, x.chunksTo g r, 0))
  else
    let a := if x.kind = 1 then table.getD r r else (r + x.dist) % g
    let b := if x.kind = 1 then (table.findIdx? (· == r)).getD r else (r + g - x.dist) % g
    (if a = r then [] else [(a, x.chunksTo g a, 0)], if b = r then [] else [(b, x.chunksTo g b, 0)])

/-- First element and length of chunk k of a run of elements. -/
def Coll.chunkAt (x : Coll) (run : Nat × Nat) (k : Nat) : Nat × Nat :=
  (run.1 + k * x.chunkElems, min x.chunkElems (run.2 - k * x.chunkElems))

/-! ## Elements (R566, R570, R571) -/

/-- Bytes of elements [e, e + n) of a buffer of `total` elements: its first plane, then its second, which follows the
whole first plane. -/
def readElems (n fmt base total e len : Nat) (s : State) : Except MemErr (List Byte) :=
  match vread n s (base + planeOff fmt e) (planeBytes fmt len).1 with
  | .error x => .error x
  | .ok a =>
    match vread n s (base + (planeBytes fmt total).1 + plane2Off fmt e) (planeBytes fmt len).2 with
    | .error x => .error x
    | .ok b => .ok (a ++ b)

/-- Write elements the same way. -/
def writeElems (p : Packet) (fmt base total e : Nat) (d : List Byte × List Byte) (s : State) : State × Option MemErr :=
  andThen (vstore p (base + planeOff fmt e) d.1 s) fun s =>
    vstore p (base + (planeBytes fmt total).1 + plane2Off fmt e) d.2 s

/-- Elements of a chunk's data: code and second-plane entry. -/
def chunkCodes (fmt n : Nat) (d : List Byte) : List (Nat × Nat) := (List.range n).map fun i => boxElem fmt [(0, n)] d [i]

/-- The half that reduces chunk k: XD(k mod 2), or the other where that one is withdrawn (R572, R674). -/
def State.redHalf (s : State) (k : Nat) : Nat := if s.halfFenced (k % 2) then 1 - k % 2 else k % 2

/-- The Weir lanes' generators for n elements on a half (Table 6.12). -/
def weirLanes (s : State) (half n : Nat) : List Nat := (List.range n).map fun i => streamIx s.moduleId (18 + half) 0 (i % 256)

/-- Narrow FP32 values in the Weir, drawing from its lanes (R570, R571, R148). -/
def weirNarrow (job word half : Nat) (vs : List FVal) (s : State) : (List Byte × List Byte) × State :=
  let nw := narrowOf word
  let n := if isMx nw.fmt then cdiv vs.length 32 * 32 else vs.length
  let bits := if nw.fmt = 0x01 then 0 else rndBits nw.rnd
  let d := drawAll bits (weirLanes s half n) (s.gens job)
  (encodeRun word (fun _ => 0) (vs.zip d.1), s.putGens job d.2)

/-- Data of a reduction chunk on the wire (R570, R572). -/
def redData (p : Packet) (x : Coll) (run : Nat × Nat) (k : Nat) (s : State) : Except MemErr (List Byte × State) :=
  let c := x.chunkAt run k
  match readElems p.vi x.inFmt x.src x.elems c.1 c.2 s with
  | .error e => .error e
  | .ok d =>
    if x.inFmt = x.wireFmt then .ok (d, s)
    else
      let w := weirNarrow p.job x.wire (s.redHalf k) ((chunkCodes x.inFmt c.2 d).map fun e => rdF (toF (elemVal x.inFmt e))) s
      .ok (w.1.1 ++ w.1.2, w.2)

/-- One contribution enters a slot (R571). -/
def addInto (x : Coll) (fmt n : Nat) (d : List Byte) (t : PoolSlot) : PoolSlot :=
  let cs := chunkCodes fmt n d
  if x.votes then
    let w := (pieces 256 cs.length cs).map fun b => (b.headD (0, 0)).2
    let v (e : Nat × Nat) : Int := if e.1 = 1 then -(e.2 : Int) else e.2
    { t with
      tallies := if t.tallies.isEmpty then cs.map v else (t.tallies.zip cs).map fun e => e.1 + v e.2
      weights := if t.weights.isEmpty then w else (t.weights.zip w).map fun e => e.1 + e.2 }
  else
    let vs := cs.map fun e => toF (elemVal fmt e)
    { t with sums := if t.sums.isEmpty then vs else (t.sums.zip vs).map fun e => addF e.1 e.2 }

/-- Sign bit of a vote result at element i (R137). -/
def voteSign (t : Int) (i : Nat) : Nat := if t < 0 then 1 else if 0 < t then 0 else i % 2

/-- The result of a slot, as bytes of both planes (R571, R137). -/
def slotResult (job : Nat) (x : Coll) (t : PoolSlot) (s : State) : (List Byte × List Byte) × State :=
  if x.votes then
    let bits := (List.range t.tallies.length).map fun i => voteSign (t.tallies.getD i 0) i
    (((pieces 256 bits.length bits).flatMap fun b => leBytes 32 (b.foldr (fun d a => d + 2 * a) 0),
      t.weights.flatMap fun w => leBytes 2 (min w 65535)), s)
  else weirNarrow job x.out t.half (t.sums.map rdF) s

/-! ## Ending -/

/-- The collective in progress of a group with an operation number. -/
def State.collAt (s : State) (id num op : Nat) : Option OpenCmd :=
  s.opens.find? fun o => o.pkt.job == id && (match o.prog with | .coll g n _ _ _ _ => g == num && n == op | _ => false)

/-- A group leaves the module. -/
def freeGroup (id num : Nat) (s : State) : State :=
  { s with fab := { s.fab with
      groups := s.fab.groups.filter fun g => !(g.job == id && g.num == num)
      slots := s.fab.slots.filter fun t => !(t.job == id && t.group == num)
      grantWaits := s.fab.grantWaits.filter fun t => !(t.job == id && t.group == num) } }

/-- RELEASEs whose group's commands have ended free it (R561). -/
def settleGroups (s : State) : State :=
  s.opens.foldl (fun s o =>
    match o.prog with
    | .groupRelease num =>
      (match s.group? o.pkt.job num with
       | some g => if g.queue.isEmpty then postDone o.pkt 0 0 (freeGroup o.pkt.job num s) else s
       | none => postDone o.pkt 0 0 s)
    | _ => s) s

/-- A collective leaves its group: its slots and the requests for them go, and its chunks complete without it (R560,
R551). -/
def leaveGroup (p : Packet) (num op : Nat) (s : State) : State :=
  let s1 := updGroup p.job num (fun g => { g with queue := g.queue.filter (· != p) }) (dropWork p.key s)
  { s1 with fab := { s1.fab with
      slots := s1.fab.slots.filter fun t => !(t.job == p.job && t.group == num && t.op == op)
      grantWaits := s1.fab.grantWaits.filter fun t => !(t.job == p.job && t.group == num && t.op == op) } }

/-- A collective ends with a status. -/
def endColl (p : Packet) (num op : Nat) (status : Byte) (reason : Half) (r0 r1 : Nat) (s : State) : State :=
  settleGroups (postFinal p status reason r0 r1 (leaveGroup p num op s))

/-- A collective ends because an access failed. -/
def failColl (p : Packet) (num op : Nat) (e : MemErr) (s : State) : State :=
  settleGroups (memFail p e (leaveGroup p num op s))

/-! ## The pool (R573, R574) -/

/-- Groups of the module with a reduction command in progress. -/
def State.reducing (s : State) : List (Nat × Nat) :=
  (s.fab.groups.filter fun g => g.queue.any fun p => p.op == 0x0707).map fun g => (g.job, g.num)

/-- Slots of a half that a group holds. -/
def State.slotsOf (s : State) (half job num : Nat) : Nat :=
  (s.fab.slots.filter fun t => t.half == half && t.job == job && t.group == num).length

/-- Slots of a half in use. -/
def State.slotsIn (s : State) (half : Nat) : Nat := (s.fab.slots.filter fun t => t.half == half).length

/-- Deficit of a waiting group (R576). -/
def State.deficit (s : State) (job num : Nat) : Nat :=
  ((s.fab.deficits.find? fun e => e.1 == job && e.2.1 == num).map (·.2.2)).getD 0

/-- Bytes that a granted slot costs its group's deficit. -/
abbrev slotCost : Nat := 262144

/-- Bytes of deficit that a group gains in a round (R576). -/
def State.gain (s : State) (job num : Nat) : Nat := 4096 * max 1 (((s.group? job num).map (·.weight)).getD 1)

/-- The waiting group that deficit order serves next: the rounds that the first to reach the cost needs, then the first of
those in order of request. -/
def deficitTurn (s : State) (l : List (Nat × Nat)) : Option ((Nat × Nat) × List (Nat × Nat × Nat)) :=
  let rounds (e : Nat × Nat) : Nat := cdiv (slotCost - s.deficit e.1 e.2) (s.gain e.1 e.2)
  match l with
  | [] => none
  | a :: _ =>
    let n := l.foldl (fun m e => min m (rounds e)) (rounds a)
    let d := l.map fun e => (e.1, e.2, s.deficit e.1 e.2 + n * s.gain e.1 e.2)
    (d.find? fun e => decide (slotCost ≤ e.2.2)).map fun w =>
      ((w.1, w.2.1), d.map fun e => if e.1 = w.1 ∧ e.2.1 = w.2.1 then (e.1, e.2.1, e.2.2 - slotCost) else e)

/-- A request that may be granted: its operation is dispatched here and its half is in service (R573, R674). -/
def State.eligible (s : State) (half : Nat) : List GrantWait :=
  s.fab.grantWaits.filter fun w => w.half == half && !s.halfFenced half && (s.collAt w.job w.group w.op).isSome

/-- The slot of a reduction chunk. -/
def State.slot? (s : State) (job num op chunk : Nat) : Option PoolSlot :=
  s.fab.slots.find? fun t => t.job == job && t.group == num && t.op == op && t.chunk == chunk

/-- GRANT of a chunk to a member. -/
def sendGrant (w : GrantWait) (s : State) : State :=
  let job := (((s.group? w.job w.group).bind fun g => g.members[w.member]?).map (·.2)).getD 0
  sendPkt { dst := w.src, src := BitVec.ofNat 16 s.moduleId, dstJob := job, kind := 0x11, first := true, last := true, hops := 0
            domain := s.domainOf w.job, chunkSeq := BitVec.ofNat 32 w.chunk, stream := BitVec.ofNat 8 w.group, crc := crc32c []
            addr := BitVec.ofNat 64 (w.op * 2 ^ 32), data := [] } s

/-- A request leaves the waiting ones. -/
def dropWait (w : GrantWait) (s : State) : State :=
  { s with fab := { s.fab with grantWaits := s.fab.grantWaits.filter (· != w) } }

/-- A slot is taken: it starts from ACC, where there is one (R571, R573). -/
def openSlot (w : GrantWait) (s : State) : State :=
  match s.collAt w.job w.group w.op, s.group? w.job w.group with
  | some o, some g =>
    let x := collOf o.pkt
    let run := x.part g.size g.rank
    let c := x.chunkAt run w.chunk
    let t : PoolSlot := { half := w.half, job := w.job, group := w.group, op := w.op, chunk := w.chunk, from_ := [], sums := []
                          tallies := [], weights := [] }
    let put (t : PoolSlot) : State := { s with fab := { s.fab with slots := s.fab.slots ++ [t] } }
    if x.acc = 0 then put t
    else
      (match readElems o.pkt.vi x.inFmt x.acc x.elems c.1 c.2 s with
       | .ok d => put (addInto x x.inFmt c.2 d t)
       | .error e => failColl o.pkt w.group w.op e s)
  | _, _ => s

/-- The request of a half that is granted next: one whose slot is there already, else the oldest of a group under its
entitlement, else the next in deficit order (R574). -/
def nextGrant (half : Nat) (s : State) : Option (GrantWait × State) :=
  let l := s.eligible half
  match l.find? fun w => (s.slot? w.job w.group w.op w.chunk).isSome with
  | some w => some (w, s)
  | none =>
    if 96 ≤ s.slotsIn half then none
    else
      let share := 96 / max 1 s.reducing.length
      match l.find? fun w => decide (s.slotsOf half w.job w.group < share) with
      | some w => some (w, s)
      | none =>
        let gs := (l.map fun w => (w.job, w.group)).foldl (fun a e => if a.contains e then a else a ++ [e]) []
        match deficitTurn s gs with
        | none => none
        | some (e, d) => (l.find? fun w => w.job == e.1 && w.group == e.2).map fun w =>
            (w, { s with fab := { s.fab with deficits := d } })

/-- POOL_SLOT_GRANT: the next request of a half is granted. -/
def grantOne (half : Nat) (s : State) : Option State :=
  (nextGrant half s).map fun x =>
    let w := x.1
    let s1 := dropWait w x.2
    let s2 := if (s1.slot? w.job w.group w.op w.chunk).isSome then s1 else openSlot w s1
    if (s2.collAt w.job w.group w.op).isSome then sendGrant w s2 else s2

/-- Grant what a half can grant now. -/
def grantAll (half : Nat) : Nat → State → State
  | 0, s => s
  | n + 1, s => match grantOne half s with | some t => grantAll half n t | none => s

/-- Grant what both halves can. -/
def settleGrants (s : State) : State :=
  let n := s.fab.grantWaits.length
  grantAll 1 n (grantAll 0 n s)

/-! ## Running (R559, R564, R575) -/

/-- Entries of the FTU schedule of a command. -/
def State.scheduled (s : State) (k : Key) : Bool := s.ftu.sched.any fun e => e.cmd == some k

/-- Fret at which a wait for partners ends; 0: no limit (R560). -/
def untilFret (g : Group) (s : State) : Nat := if g.timeout = 0 then 0 else s.ftu.count.toNat + g.timeout

/-- A chunk of a group operation goes to a member. -/
def sendGroup (p : Packet) (g : Group) (op m k : Nat) (kind : Byte) (first per : Nat) (d : List Byte) (s : State) : State :=
  let dst := g.members.getD m (0, 0)
  let h : FabPkt :=
    { dst := dst.1, src := BitVec.ofNat 16 s.moduleId, dstJob := dst.2, kind := kind, first := true, last := true, hops := 0
      domain := s.domainOf p.job, chunkSeq := BitVec.ofNat 32 k, stream := BitVec.ofNat 8 g.num, crc := 0, addr := 0, data := [] }
  let at_ (x : FabPkt) : FabPkt :=
    { x with addr := BitVec.ofNat 64 (op * 2 ^ 32 + (first + x.addr.toNat / 4096 * per) % 2 ^ 32) }
  let ps := (chunkPackets h d).map at_
  sendPkts ps { s with fab := { s.fab with unacked := s.fab.unacked ++
    [{ dst := dst.1, stream := groupCode dst.2.toNat g.num, chunk := BitVec.ofNat 32 k, cmd := some p.key, pkts := ps
       crcFails := 0 }] } }

/-- A chunk of a group stream toward a member is not acknowledged. -/
def State.groupBusy (s : State) (dst : Half × Half) (num : Nat) : Bool :=
  s.fab.unacked.any fun c => c.dst == dst.1 && c.stream == groupCode dst.2.toNat num && decide (0x10 ≤ c.kind)

/-- Elements of the first plane in a packet. -/
def perPacket (fmt : Nat) : Nat := 32768 / elemBits fmt

/-- The next chunk of a started collective: its data for SHIFT and PERMUTE, the request for a grant for a reduction
(R573). -/
def sendNext (p : Packet) (g : Group) (op : Nat) (out : List (Nat × Nat × Nat)) (s : State) : Option State :=
  let x := collOf p
  match out.find? fun e => decide (e.2.2 < e.2.1) && !(s.groupBusy (g.members.getD e.1 (0, 0)) g.num) with
  | none => none
  | some (m, _, k) =>
    if x.kind = 2 then some (sendGroup p g op m k 0x10 0 0 [] (markPhase p.job 4 s))
    else
      match vread p.vi s (x.src + k * chunkMax) (min chunkMax (x.bytes - k * chunkMax)) with
      | .ok d => some (sendGroup p g op m k 0x12 (k * chunkMax) 4096 d (markPhase p.job 4 s))
      | .error e => some (failColl p g.num op e s)

/-- A collective starts at the head of its group, when its start fret has come (R559, R564). An entry of PERMUTE equal to
the rank copies SRC to DST (R563). -/
def startColl (p : Packet) (g : Group) (op : Nat) (out recv : List (Nat × Nat × Nat)) (s : State) : State :=
  let x := collOf p
  let s1 := s.setProg p.key (.coll g.num op true out recv (untilFret g s))
  if x.kind = 1 ∧ out.isEmpty then
    match vread p.vi s1 x.src x.bytes with
    | .error e => failColl p g.num op e s1
    | .ok d =>
      match vstore p x.dst d s1 with
      | (s2, some e) => failColl p g.num op e s2
      | (s2, none) => s2
  else s1

/-- Chunks sent or received in all. -/
def chunksOf (l : List (Nat × Nat × Nat)) : Nat := (l.map (·.2.2)).sum

/-- What the head of a group can do now. -/
def advanceColl (g : Group) (s : State) : Option State :=
  match g.queue.head?.bind fun p => s.open? p.key with
  | some { pkt := p, prog := .coll _ op started out recv _ } =>
    if !started then (if s.runs p && !(s.scheduled p.key) then some (startColl p g op out recv s) else none)
    else if (out ++ recv).all fun e => e.2.1 == e.2.2 then
      let red := (collOf p).kind = 2
      some (endColl p g.num op 0x00 0x0000 (if red then chunksOf out else 0) (if red then chunksOf recv else 0) s)
    else if s.runs p then sendNext p g op out s else none
  | _ => none

/-- Let the groups advance until none can. -/
def pumpGroups : Nat → State → State
  | 0, s => s
  | n + 1, s =>
    match s.fab.groups.findSome? fun g => advanceColl g s with
    | some t => pumpGroups n t
    | none => s

/-- Let every command with fabric work advance. -/
def pumpAll (s : State) : State := pumpGroups pumpFuel (settleGrants (pump s))

/-- A collective is given the next operation number of its group (R559). -/
def enterColl (p : Packet) (g : Group) (table : List Nat) (s : State) : State :=
  let x := collOf p
  let r := x.partners g.size g.rank table
  let s1 := updGroup p.job g.num (fun g => { g with nextOp := g.nextOp + 1, queue := g.queue ++ [p] }) s
  let s2 := s1.openCmd p (.coll g.num g.nextOp false r.1 r.2 (untilFret g s))
  pumpAll (if x.start = 0 then s2 else schedule .coll x.start (some p.key) s2)

/-- Parameters that R84 makes malformed, apart from a table. -/
def collBad (x : Coll) (g : Group) : Bool :=
  (x.kind != 1 && !x.gather && (x.dist == 0 || decide (g.size ≤ x.dist)))
  || (x.kind == 2 && (x.elems == 0 || x.badFmt))

/-- SHIFT, PERMUTE and REDUCE_SHIFT (R562 to R569): unknown group, malformed parameters, a wire format that level 2 does
not carry, then Table 3.3. -/
def effColl (p : Packet) (s : State) : State :=
  let x := collOf p
  let closing := s.opens.any fun o => o.pkt.job == p.job && o.prog == .groupRelease x.group
  match (s.group? p.job x.group).filter fun _ => !closing with
  | none => postErr p 0x0711 x.group s
  | some g =>
    if collBad x g ∨ (p.op = 0x0707 ∧ 1 < bf p.p0 11 8) then postFree p s
    else if x.kind = 2 ∧ g.level = 2 ∧ !([0x06, 0x07, 0x0D].contains x.wireFmt) then postErr p 0x0714 x.wireFmt s
    else
      match if x.kind = 1 then permTable p g s else .ok [] with
      | .error e => memFail p e s
      | .ok t =>
        if x.kind = 1 ∧ !(isPerm g.size t) then postFree p s
        else
          match if x.start = 0 then none else schedRefusal x.start s with
          | some e => refuse p e s
          | none => enterColl p g t s

/-- COLLECTIVE_START: the start fret has come (R564, R107). -/
def collStart (k : Key) (s : State) : State :=
  match takeDue .coll k s with
  | some t => pumpAll t
  | none => s

/-- GROUP_TIMEOUT: a collective that has started has no chunk or grant from a partner for TIMEOUT frets (R560). -/
def groupTimeout (id num member : Nat) (s : State) : State :=
  match ((s.group? id num).bind fun g => g.queue.head?).bind fun p => s.open? p.key with
  | some { pkt := p, prog := .coll _ op true _ _ until_ } =>
    if until_ = 0 ∨ s.ftu.count.toNat < until_ then s else pumpAll (endColl p num op 0xFF 0x0713 member 0 s)
  | _ => s

/-! ## GROUP_DEFINE (R556, R557, R561, R546) -/

/-- GROUP_DEFINE DEFINE. -/
def effGroupDefine (p : Packet) (s : State) : State :=
  let num := bf p.p0 13 8
  let n := bf p.p2 31 0
  let rank := bf p.p2 63 32
  let level := bf p.p0 25 24
  if bf p.p0 23 16 = 0 ∨ level = 0 ∨ level = 3 ∨ n < 2 ∨ 65536 < n ∨ n ≤ rank then postFree p s
  else
    match vread p.vi s p.p1.toNat (4 * n) with
    | .error e => memFail p e s
    | .ok b =>
      let ms : List (Half × Half) := (List.range n).map fun i =>
        (BitVec.ofNat 16 (blk b (4 * i) 2), BitVec.ofNat 16 (blk b (4 * i + 2) 2))
      let me := ms.getD rank (0, 0)
      if 64 ≤ s.fab.groups.length then postCap p 0x0710 s.fab.groups.length s
      else if (s.group? p.job num).isSome ∨ me.1.toNat ≠ s.moduleId ∨ me.2.toNat ≠ p.job
          ∨ (level = 1 ∧ ms.any fun m => m.1.toNat / 1024 != s.moduleId / 1024) then
        postErr p 0x0715 num s
      else
        let g : Group := { job := p.job, num := num, members := ms, rank := rank, level := level, weight := bf p.p0 23 16
                           timeout := bf p.p3 31 0, nextOp := 0, queue := [] }
        postDone p 0 0 { s with fab := { s.fab with groups := s.fab.groups ++ [g] } }

/-- GROUP_DEFINE RELEASE (R561). -/
def effGroupRelease (p : Packet) (s : State) : State :=
  let num := bf p.p0 13 8
  match s.group? p.job num with
  | none => postErr p 0x0711 num s
  | some _ => settleGroups (s.openCmd p (.groupRelease num))

/-- GROUP_DEFINE SET_DOMAIN (R546). -/
def effSetDomain (p : Packet) (s : State) : State :=
  postDone p 0 0 (s.updJob p.job fun j => { j with domain := BitVec.ofNat 32 (bf p.p0 63 32) })

/-- SHIFT (R562). -/
def execShift (p : Packet) (s : State) : Out := submit effColl p s
/-- PERMUTE (R563). -/
def execPermute (p : Packet) (s : State) : Out := submit effColl p s
/-- REDUCE_SHIFT (R565). -/
def execReduceShift (p : Packet) (s : State) : Out := submit effColl p s
/-- GROUP_DEFINE (R557). -/
def execGroupDefine (p : Packet) (s : State) : Out := submit effGroupDefine p s
/-- GROUP_RELEASE (R561). -/
def execGroupRelease (p : Packet) (s : State) : Out := submit effGroupRelease p s
/-- SET_DOMAIN (R546). -/
def execSetDomain (p : Packet) (s : State) : Out := submit effSetDomain p s
/-- COLLECTIVE_START (R564). -/
def execCollectiveStart (vi sq : Nat) (seq : Word) (s : State) : Out :=
  event (viOk vi) (collStart { vi := vi, sq := sq, seq := seq } s)
/-- POOL_SLOT_GRANT (R574). -/
def execPoolSlotGrant (half : Nat) (s : State) : Out := event (decide (half < 2)) ((grantOne half s).getD s)

end Sys2Proof.Machine
end

