-- ==== Sys2Proof/Machine/Chunks.lean ====
section
/-! DEFINITION. Packets, flits and frames that arrive, and the ports (spec/13_fabric_collectives.md R518 to R555, R559, R571,
R573, R577 to R580; R737 of spec/18_pins_power_electrical.md). -/

namespace Sys2Proof.Machine

open Sys2Proof

/-! ## Transit (R554) -/

/-- A packet for another module is forwarded by its route with HOPS raised, or dropped at HOPS 15. -/
def transit (p : FabPkt) (s : State) : State :=
  if p.hops = 15 then { s with fab := { s.fab with drops := satAdd s.fab.drops 1 } }
  else
    let p1 := { p with hops := p.hops + 1 }
    match s.portFor p1 with
    | none => s
    | some q => putPort q p1 { s with fab := { s.fab with forwarded := s.fab.forwarded ++ [(q, p1)] } }

/-! ## Chunk checks (R533, R534) -/

/-- Channel of a packet (Table 13.6). -/
def pktChan (p : FabPkt) : Nat := p.stream.toNat % 16

/-- Group of a packet. -/
def pktGroup (p : FabPkt) : Nat := p.stream.toNat % 64

/-- Address of the first byte of the chunk whose last packet has arrived. -/
def chunkBase (p : FabPkt) (d : List Byte) : Nat := p.addr.toNat + p.data.length - d.length

/-- The Weir half that checks a chunk: of its reduction chunk (R572), else of the port that faces its source. -/
def crcHalf (p : FabPkt) (s : State) : Nat :=
  if p.kind = 0x13 then s.redHalf p.chunkSeq.toNat
  else match s.portFor (replyPkt p 0x09 []) with | some q => q / 10 | none => 0

/-- A chunk's CRC fails: NAK, and at its third failure FAB_CRC (R534). -/
def crcBad (p : FabPkt) (code : Nat) (s : State) : State :=
  let s1 := sendNak p 1 s
  if (s1.rxOf p.src code).fails = 3 then faultEvent1 (2086 + 3 * crcHalf p s1) p.src.toNat s1 else s1

/-- Assemble a chunk of a stream whose order its command keeps: whether its CRC matches, and its data. -/
def assembleChunk (p : FabPkt) (code : Nat) (s : State) : State × Option (Bool × List Byte) :=
  let c := s.rxOf p.src code
  let d := (if p.first then [] else c.data) ++ p.data
  let f := if c.next = p.chunkSeq then c.fails else 0
  if !p.last then (setRx { c with data := d, next := p.chunkSeq, fails := f } s, none)
  else
    let ok := p.crc == crc32c d
    (setRx { c with data := [], next := p.chunkSeq, fails := if ok then 0 else f + 1 } s, some (ok, d))

/-! ## Requests at their destination (R533 to R547) -/

/-- The answer to a request goes back and is kept until it is acknowledged (R534, R535). -/
def sendAnswerPkt (p : FabPkt) (kind : Byte) (job dest : Nat) (d : List Byte) (s : State) : State :=
  let h : FabPkt :=
    { replyPkt p kind [] with dstJob := BitVec.ofNat 16 job, domain := s.domainOf p.dstJob.toNat, addr := BitVec.ofNat 64 dest }
  sendChunk none (chanCode job (pktChan p)) h d s

/-- A chunk of a request is complete: it takes effect, and is acknowledged, answered or denied. -/
def applyReq (p : FabPkt) (d : List Byte) (s : State) : State :=
  let r := reqOf p.kind (chunkBase p d) d
  let x := doReqAny p.dstJob.toNat p.domain p.src.toNat r s
  match x.2 with
  | .deny st rs r0 => sendDeny p st rs r0 x.1
  | .ok a =>
    let to_ := askerOf p.kind d
    match p.kind.toNat with
    | 0x01 => sendAck p x.1
    | 0x02 => sendAnswerPkt p 0x03 to_.1 to_.2 a x.1
    | _ => sendAnswerPkt p 0x05 to_.1 to_.2 a x.1

/-- A PUT chunk whose CRC failed may have written bad data within its range (R534): the bytes there are free. -/
def scrambleChunk (p : FabPkt) (d : List Byte) (s : State) : State :=
  let a := chunkBase p d
  if p.kind ≠ 0x01 ∨ 2 ^ 63 ≤ a then s
  else
    match reqRefusal p.dstJob.toNat p.domain (.put a d) s, s.job? p.dstJob.toNat with
    | none, some j => vwrite j.vi a (s.freeBytes d.length) s.nextFree
    | _, _ => s

/-- A packet of a request arrives. -/
def takeRequest (p : FabPkt) (s : State) : State :=
  let code := chanCode p.dstJob.toNat (pktChan p)
  let x := takeChunk p code s
  match x.2 with
  | .more => x.1
  | .whole d => pumpAll (applyReq p d x.1)
  | .bad d => crcBad p code (scrambleChunk p d x.1)
  | .ahead => sendNak p 2 x.1
  | .again =>
    match x.1.fab.unacked.find? fun c =>
        c.answers && c.dst == p.src && c.chunk == p.chunkSeq && c.stream % 64 == pktChan p && p.kind != 0x01 with
    | some c => resend c x.1
    | none => sendAck p x.1

/-! ## Ends of commands by their chunks -/

/-- Address and job that a kept chunk was sent to. -/
def TxChunk.target (c : TxChunk) : Nat × Nat :=
  ((c.pkts.head?.map fun p => p.addr.toNat).getD 0, (c.pkts.head?.map fun p => p.dstJob.toNat).getD 0)

/-- A command ends because of one of its chunks. -/
def endByChunk (c : TxChunk) (status : Byte) (reason : Half) (r0 : Nat) (s : State) : State :=
  match c.cmd.bind s.open? with
  | none => s
  | some o =>
    match o.prog with
    | .coll g op _ _ _ _ => endColl o.pkt g op status reason r0 0 s
    | .restore _ | .readback _ _ _ =>
      if reason = 0x0706 then postFinal o.pkt status reason r0 0 (dropWork o.pkt.key s)
      else answer o c.dst.toNat c.target.2 c.target.1 (.deny status reason r0) s
    | _ => answer o c.dst.toNat c.target.2 c.target.1 (.deny status reason r0) s

/-- A kept chunk has failed its CRC: sent again, or with the third failure its command ends with CHUNK_CRC (R534). The
stream goes on with the same chunk number. -/
def chunkFailed (c : TxChunk) (again : Bool) (s : State) : State :=
  if c.crcFails + 1 < 3 then
    let c1 := { c with crcFails := c.crcFails + 1 }
    let s1 := { s with fab := { s.fab with unacked := s.fab.unacked.map fun x => if x = c then c1 else x } }
    if again then resend c1 s1 else s1
  else
    let s1 := dropChunk c s
    let s2 := if c.kind < 0x10 && !c.answers && again then setSeq c.dst c.stream c.chunk s1 else s1
    endByChunk c 0x32 0x0706 c.chunk.toNat s2

/-! ## Answers at the source (R539, R540) -/

/-- A GET's local range may hold bad data of a chunk whose CRC failed (R534). -/
def scrambleAnswer (o : OpenCmd) (a : Nat) (d : List Byte) (s : State) : State :=
  if o.pkt.op = 0x0702 then vwrite o.pkt.vi a (s.freeBytes d.length) s.nextFree else s

/-- A packet of GET_DATA or ATOMIC_RESP arrives. -/
def takeAnswerPkt (p : FabPkt) (s : State) : State :=
  let code := 2 ^ 23 + chanCode p.dstJob.toNat (pktChan p)
  let x := assembleChunk p code s
  match x.2 with
  | none => x.1
  | some (ok, d) =>
    let a := chunkBase p d
    let mine (c : TxChunk) : Bool :=
      c.dst == p.src && c.chunk == p.chunkSeq && c.stream % 64 == pktChan p
        && (if p.kind = 0x03 then c.kind == 2 else c.kind == 4 || c.kind == 6)
        && (match c.pkts with
            | q :: _ => decide (askerOf q.kind q.data = (p.dstJob.toNat, if c.kind = 6 then 0 else a))
            | [] => false)
    match x.1.fab.unacked.find? mine with
    | none => if ok then sendAck p x.1 else crcBad p code x.1
    | some c =>
      if !ok then
        let s1 := match c.cmd.bind x.1.open? with | some o => scrambleAnswer o a d x.1 | none => x.1
        pumpAll (chunkFailed c false (crcBad p code s1))
      else
        let s1 := dropChunk c (sendAck p x.1)
        match c.cmd.bind s1.open? with
        | none => pumpAll s1
        | some o => pumpAll (answer o c.dst.toNat c.target.2 c.target.1 (.ok d) s1)

/-! ## ACK, NAK, DENY at the source (R534, R547) -/

/-- The kept chunk that an ACK, NAK or DENY names: its first data byte is the KIND of the chunk. -/
def State.named (s : State) (p : FabPkt) : Option TxChunk :=
  let k := (p.data.headD 0).toNat
  let code := if 0x10 ≤ k then groupCode p.dstJob.toNat (pktGroup p) else chanCode p.dstJob.toNat (pktChan p)
  s.fab.unacked.find? fun c => c.dst == p.src && c.stream == code && c.chunk == p.chunkSeq && c.kind == k

/-- A chunk of a collective is acknowledged: the member's count rises and the wait for partners starts again (R560). -/
def bumpOut (c : TxChunk) (o : OpenCmd) (s : State) : State :=
  match o.prog with
  | .coll num op started out recv _ =>
    (match s.group? o.pkt.job num with
     | some g =>
       let hit (e : Nat × Nat × Nat) : Bool :=
         let m := g.members.getD e.1 (0, 0)
         m.1 == c.dst && groupCode m.2.toNat num == c.stream && e.2.2 == c.chunk.toNat
       s.setProg o.pkt.key
         (.coll num op started (out.map fun e => if hit e then (e.1, e.2.1, e.2.2 + 1) else e) recv (untilFret g s))
     | none => s)
  | _ => s

/-- ACK (R534). -/
def takeAck (p : FabPkt) (s : State) : State :=
  match s.named p with
  | none => s
  | some c =>
    if c.answers then dropChunk c s
    else if c.kind = 1 then
      match c.cmd.bind s.open? with
      | none => pumpAll (dropChunk c s)
      | some o => pumpAll (answer o c.dst.toNat c.target.2 c.target.1 (.ok []) (dropChunk c s))
    else if c.kind = 0x12 ∨ c.kind = 0x13 then
      match c.cmd.bind s.open? with
      | none => pumpAll (dropChunk c s)
      | some o => pumpAll (bumpOut c o (dropChunk c s))
    else s

/-- NAK (R534). -/
def takeNak (p : FabPkt) (s : State) : State :=
  match s.named p with
  | none => s
  | some c =>
    if p.data.getD 1 0 = 1 then
      if c.answers ∧ 3 ≤ c.crcFails + 1 then dropChunk c s else pumpAll (chunkFailed c true s)
    else resend c s

/-- DENY (R547). -/
def takeDeny (p : FabPkt) (s : State) : State :=
  match s.named p with
  | none => s
  | some c =>
    pumpAll (endByChunk c (p.data.getD 1 0) (BitVec.ofNat 16 (blk p.data 2 2)) (blk p.data 4 8) (dropChunk c s))

/-! ## Group operations at the receiver (R559, R571, R573) -/

/-- Operation number of a packet of a group operation. -/
def pktOp (p : FabPkt) : Nat := bf p.addr 63 32

/-- The member of a group that a packet comes from: one that the operation expects chunk k from, else the first of that
module. -/
def senderOf (g : Group) (recv : List (Nat × Nat × Nat)) (src : Half) (k : Nat) : Option Nat :=
  let here (m : Nat) : Bool := (g.members.getD m (0, 0)).1 == src
  ((recv.find? fun e => here e.1 && e.2.2 == k).or (recv.find? fun e => here e.1)).map (·.1)

/-- Both commands of a chunk that does not fit its operation end with GROUP_MISMATCH (R559). -/
def mismatch (p : FabPkt) (o : OpenCmd) (num op : Nat) (s : State) : State :=
  pumpAll (endColl o.pkt num op 0xFF 0x0712 op 0 (sendPkt (denyPkt p 0xFF 0x0712 op) s))

/-- Job and domain checks of a group packet (Table 13.8). -/
def groupDenied (p : FabPkt) (s : State) : Option (Half × Nat) :=
  let w := s.moduleId * 2 ^ 16 + p.dstJob.toNat
  match s.job? p.dstJob.toNat with
  | none => some (0x0701, w)
  | some j => if p.domain = 0 ∨ p.domain ≠ j.domain then some (0x0702, w) else none

/-- GRANT_REQ (R573). -/
def takeGrantReq (p : FabPkt) (s : State) : State :=
  match groupDenied p s with
  | some e => sendDeny p 0x12 e.1 e.2 s
  | none =>
    let id := p.dstJob.toNat
    let num := pktGroup p
    let op := pktOp p
    let k := p.chunkSeq.toNat
    match s.group? id num with
    | none => s
    | some g =>
      let wait (m : Nat) : GrantWait :=
        { half := s.redHalf k, job := id, group := num, op := op, chunk := k, member := m, src := p.src }
      let enter (m : Nat) : State :=
        if s.fab.grantWaits.contains (wait m) then s
        else pumpAll { s with fab := { s.fab with grantWaits := s.fab.grantWaits ++ [wait m] } }
      match s.collAt id num op with
      | some o =>
        (match o.prog with
         | .coll _ _ _ _ recv _ =>
           (match senderOf g recv p.src k with
            | none => mismatch p o num op s
            | some m =>
              let got := ((recv.find? fun e => e.1 == m).map (·.2.2)).getD 0
              let total := ((recv.find? fun e => e.1 == m).map (·.2.1)).getD 0
              if (collOf o.pkt).kind ≠ 2 ∨ total ≤ k then mismatch p o num op s
              else if k < got then sendGrant (wait m) s
              else enter m)
         | _ => s)
      | none =>
        if op < g.nextOp then s
        else match senderOf g ((List.range g.size).map fun m => (m, 0, 0)) p.src 0 with
          | some m => enter m
          | none => s

/-- GRANT: the reduction chunk is formed and sent (R570, R573). -/
def takeGrant (p : FabPkt) (s : State) : State :=
  let job := p.dstJob.toNat
  let num := pktGroup p
  let hit (c : TxChunk) : Bool :=
    c.kind == 0x10 && c.dst == p.src && c.chunk == p.chunkSeq && c.stream % 64 == num
      && (match c.cmd.bind s.open? with | some o => o.pkt.job == job | none => false)
  match s.fab.unacked.find? hit with
  | none => s
  | some c =>
    match c.cmd.bind s.open?, s.group? job num with
    | some o, some g =>
      (match o.prog with
       | .coll _ op started out recv _ =>
         let x := collOf o.pkt
         let m := ((out.find? fun e =>
           let t := g.members.getD e.1 (0, 0)
           t.1 == c.dst && groupCode t.2.toNat num == c.stream).map (·.1)).getD 0
         let run := x.part g.size m
         let k := c.chunk.toNat
         let s1 := markPhase job 4 ((dropChunk c s).setProg o.pkt.key (.coll num op started out recv (untilFret g s)))
         (match redData o.pkt x run k s1 with
          | .error e => pumpAll (failColl o.pkt num op e s1)
          | .ok (d, s2) => sendGroup o.pkt g op m k 0x13 (x.chunkAt run k).1 (perPacket x.wireFmt) d s2)
       | _ => s)
    | _, _ => s

/-- A chunk of a collective is in: counted, and the wait for partners starts again. -/
def countIn (o : OpenCmd) (g : Group) (m : Nat) (s : State) : State :=
  match s.open? o.pkt.key with
  | some { pkt := _, prog := .coll num op started out recv _ } =>
    s.setProg o.pkt.key (.coll num op started out
      (recv.map fun e => if e.1 = m then (e.1, e.2.1, e.2.2 + 1) else e) (untilFret g s))
  | _ => s

/-- A SHIFT or PERMUTE chunk is written to DST (R562, R563). -/
def applyColl (p : FabPkt) (o : OpenCmd) (g : Group) (op m k : Nat) (d : List Byte) (s : State) : State :=
  let x := collOf o.pkt
  match vstore o.pkt (x.dst + k * chunkMax) d (markPhase o.pkt.job 4 s) with
  | (s1, some e) => pumpAll (failColl o.pkt g.num op e s1)
  | (s1, none) => pumpAll (sendAck p (countIn o g m s1))

/-- A reduction chunk enters its slot; with the last contribution DST is written and the slot freed (R571, R573). -/
def applyRed (p : FabPkt) (o : OpenCmd) (g : Group) (op m k senders : Nat) (d : List Byte) (s : State) : State :=
  let x := collOf o.pkt
  let run := x.part g.size g.rank
  let c := x.chunkAt run k
  match s.slot? o.pkt.job g.num op k with
  | none => sendNak p 2 s
  | some t =>
    let t1 := addInto x x.wireFmt c.2 d { t with from_ := t.from_ ++ [m] }
    let put (l : List PoolSlot) (s : State) : State :=
      { s with fab := { s.fab with slots := (s.fab.slots.filter (· != t)) ++ l } }
    let s0 := markPhase o.pkt.job 4 s
    if t1.from_.length < senders then pumpAll (sendAck p (countIn o g m (put [t1] s0)))
    else
      let r := slotResult o.pkt.job x t1 (put [] s0)
      match writeElems o.pkt x.outFmt x.dst run.2 (c.1 - run.1) r.1 r.2 with
      | (s1, some e) => pumpAll (failColl o.pkt g.num op e s1)
      | (s1, none) => pumpAll (sendAck p (countIn o g m s1))

/-- Bytes of chunk k that an operation expects from a member. -/
def Coll.bytesOf (x : Coll) (g r k : Nat) : Nat :=
  if x.kind = 2 then
    let b := planeBytes x.wireFmt (x.chunkAt (x.part g r) k).2
    b.1 + b.2
  else min chunkMax (x.bytes - k * chunkMax)

/-- COLL_DATA and RED_DATA (R559, R571). -/
def takeGroupData (p : FabPkt) (s : State) : State :=
  match groupDenied p s with
  | some e => if p.last then sendDeny p 0x12 e.1 e.2 s else s
  | none =>
    let id := p.dstJob.toNat
    let num := pktGroup p
    let op := pktOp p
    let k := p.chunkSeq.toNat
    let code := groupCode id num
    let x := assembleChunk p code s
    match x.2, x.1.group? id num with
    | some (ok, d), some g =>
      (match x.1.collAt id num op with
       | none => if op < g.nextOp then sendAck p x.1 else sendNak p 2 x.1
       | some o =>
         let c := collOf o.pkt
         (match o.prog with
          | .coll _ _ _ _ recv _ =>
            if !ok then
              crcBad p code (if c.kind = 2 then x.1 else
                vwrite o.pkt.vi (c.dst + k * chunkMax) (x.1.freeBytes (c.bytesOf g.size g.rank k)) x.1.nextFree)
            else
              (match (senderOf g recv p.src k).bind fun m => recv.find? fun e => e.1 == m with
               | none => mismatch p o num op x.1
               | some (m, total, got) =>
                 if (c.kind = 2 ∧ p.kind ≠ 0x13) ∨ (c.kind ≠ 2 ∧ p.kind ≠ 0x12) ∨ total ≤ k
                     ∨ d.length ≠ c.bytesOf g.size g.rank k then mismatch p o num op x.1
                 else if k < got then sendAck p x.1
                 else if got < k then sendNak p 2 x.1
                 else if c.kind = 2 then applyRed p o g op m k recv.length d x.1
                 else applyColl p o g op m k d x.1)
          | _ => x.1))
    | _, _ => x.1

/-! ## Packets that arrive -/

/-- A packet of a request. -/
def asks (p : FabPkt) : Bool := p.kind == 0x01 || p.kind == 0x02 || p.kind == 0x04 || p.kind == 0x06

/-- Packets of one source, job and channel keep their order (R542). -/
def sameChannel (p q : FabPkt) : Bool := p.src == q.src && p.dstJob == q.dstJob && pktChan p == pktChan q

/-- The request that a packet belongs to touches a page in motion: the packet's bytes, with those of its chunk that came before. -/
def State.pktMoves (s : State) (p : FabPkt) : Bool :=
  let c := s.rxOf p.src (chanCode p.dstJob.toNat (pktChan p))
  let d := (if p.first || c.next != p.chunkSeq then [] else c.data) ++ p.data
  asks p && s.reqMoving p.dstJob.toNat (reqOf p.kind (chunkBase p d) d)

/-- A packet is held at its destination hub: its page is in motion, or an earlier one of its channel is held (R490). -/
def State.holdsPkt (s : State) (held : List FabPkt) (p : FabPkt) : Bool :=
  (asks p && held.any (sameChannel p)) || s.pktMoves p

/-- A packet for this module takes effect. -/
def takeOwn (p : FabPkt) (s : State) : State :=
  match p.kind.toNat with
  | 0x01 | 0x02 | 0x04 | 0x06 => takeRequest p s
  | 0x03 | 0x05 => takeAnswerPkt p s
  | 0x08 => takeAck p s
  | 0x09 => takeNak p s
  | 0x0A => takeDeny p s
  | 0x10 => takeGrantReq p s
  | 0x11 => takeGrant p s
  | 0x12 | 0x13 => takeGroupData p s
  | _ => s

/-- A transport packet reaches the module: its own, at once or held for a page in motion, or in transit. -/
def takePacket (p : FabPkt) (s : State) : State :=
  if p.dst.toNat ≠ s.moduleId then transit p s
  else if s.holdsPkt s.fab.heldPkts p then { s with fab := { s.fab with heldPkts := s.fab.heldPkts ++ [p] } }
  else takeOwn p s

/-- Held packets in order: each takes effect unless its page is in motion or one before it stays held. -/
def releasePkts : List FabPkt → State → State
  | [], s => s
  | p :: l, s =>
    if s.holdsPkt s.fab.heldPkts p then releasePkts l { s with fab := { s.fab with heldPkts := s.fab.heldPkts ++ [p] } }
    else releasePkts l (takeOwn p s)

/-- A page has left motion: the requests held for it, and the commands that waited, go on (R489, R490). -/
def motionEnds (s : State) : State :=
  pumpAll (releasePkts s.fab.heldPkts { s with fab := { s.fab with heldPkts := [] } })

/-- PAGE_COPY_DONE (R488). -/
def execPageCopyDone (vi page ns : Nat) (s : State) : Out := event (viOk vi) (motionEnds (pageCopyDone vi page ns s))

/-- A packet row of a kind. -/
def packetRow (kind : Byte) (p : FabPkt) (s : State) : Out := .next (takePacket { p with kind := kind } s)

/-- PUT_DATA (R547). -/
def execPutData (p : FabPkt) (s : State) : Out := packetRow 0x01 p s
/-- GET_REQ (R539). -/
def execGetReq (p : FabPkt) (s : State) : Out := packetRow 0x02 p s
/-- GET_DATA (R539). -/
def execGetData (p : FabPkt) (s : State) : Out := packetRow 0x03 p s
/-- ATOMIC_REQ (R540). -/
def execAtomicReq (p : FabPkt) (s : State) : Out := packetRow 0x04 p s
/-- ATOMIC_RESP (R540). -/
def execAtomicResp (p : FabPkt) (s : State) : Out := packetRow 0x05 p s
/-- SIGNAL_PACKET (R541). -/
def execSignalPacket (p : FabPkt) (s : State) : Out := packetRow 0x06 p s
/-- ACK (R534). -/
def execAck (p : FabPkt) (s : State) : Out := packetRow 0x08 p s
/-- NAK (R534). -/
def execNak (p : FabPkt) (s : State) : Out := packetRow 0x09 p s
/-- DENY (R547). -/
def execDeny (p : FabPkt) (s : State) : Out := packetRow 0x0A p s
/-- GRANT_REQ (R573). -/
def execGrantReq (p : FabPkt) (s : State) : Out := packetRow 0x10 p s
/-- GRANT (R573). -/
def execGrant (p : FabPkt) (s : State) : Out := packetRow 0x11 p s
/-- COLL_DATA (R559). -/
def execCollData (p : FabPkt) (s : State) : Out := packetRow 0x12 p s
/-- RED_DATA (R571). -/
def execRedData (p : FabPkt) (s : State) : Out := packetRow 0x13 p s
/-- TRANSIT_FORWARD (R554). -/
def execTransitForward (port : Nat) (p : FabPkt) (s : State) : Out := event (decide (port < 20)) (transit p s)

/-! ## Time-outs (R534, R550) -/

/-- CHUNK_RETRANSMIT_TIMEOUT: a chunk without ACK for 100 µs is sent again. -/
def retransmit (dst : Half) (stream : Nat) (chunk : Word) (s : State) : State :=
  match s.fab.unacked.find? fun c => c.dst == dst && c.stream == stream && c.chunk == chunk with
  | some c => resend c s
  | none => s

/-- Bytes of a collective that its receivers have acknowledged. -/
def collAcked (x : Coll) (g : Group) (out : List (Nat × Nat × Nat)) : Nat :=
  (out.map fun e => ((List.range e.2.2).map fun k => x.bytesOf g.size e.1 k).sum).sum

/-- Bytes of the regions that a push has sent whole, before region i: those that it claimed. -/
def pushedBytes (p : Packet) (m : Model) (i : Nat) (got : List Byte) (s : State) : Nat :=
  ((List.range i).map fun j =>
    let w := pushEntry got j 16 8
    if ssOf w = 2 ∧ bn w 31 16 = s.moduleId then s.ent p.vi m (bf p.p0 31 16 + j) 32 8 else 0).sum

/-- Bytes that the destination has acknowledged (R550). -/
def ackedBytes (o : OpenCmd) (s : State) : Nat :=
  match o.prog with
  | .remote _ acked _ => acked
  | .passOut _ _ _ _ _ acked _ => acked
  | .kvSend phase page off _ _ =>
    (match s.pool? o.pkt.job (bf o.pkt.p0 63 48) with
     | some q => if phase < 3 ∨ phase = 9 then 0 else page * s.kvStr o.pkt.vi q
         + (if phase = 3 then off else if phase = 6 then 0 else s.kvStr o.pkt.vi q)
     | none => 0)
  | .push phase i off _ _ _ _ got =>
    (match s.model? o.pkt.job (bf o.pkt.p0 15 0) with
     | some m => pushedBytes o.pkt m i got s + (if phase = 5 ∨ phase = 6 ∨ phase = 8 then
         min (s.ent o.pkt.vi m (bf o.pkt.p0 31 16 + i) 32 8) ((if phase = 5 then off else off + 1) * chunkMax) else 0)
     | none => 0)
  | .coll num _ _ out _ _ =>
    (match s.group? o.pkt.job num with
     | some g => collAcked (collOf o.pkt) g out
     | none => 0)
  | _ => 0

/-- The command has a chunk that no ACK has come for, or waits behind one on its stream. -/
def unansweredBy (o : OpenCmd) (s : State) : Option Half :=
  match s.fab.unacked.find? fun c => c.cmd == some o.pkt.key with
  | some c => some c.dst
  | none =>
    match wantOf o s with
    | .send dst job chan _ =>
      if s.streamBusy (BitVec.ofNat 16 dst) (chanCode job chan) then some (BitVec.ofNat 16 dst) else none
    | _ => none

/-- DEST_UNREACHABLE: a command whose chunks receive no ACK for 10 ms ends (R550), one that an ABORT
has stopped with ABORTED (R551); a protective transfer loses its peer (R607). -/
def destUnreachable (k : Key) (s : State) : State :=
  match s.open? k with
  | none => s
  | some o =>
    match unansweredBy o s with
    | none => s
    | some dst =>
      let n := ackedBytes o s
      match o.prog with
      | .take id ckpt =>
        pumpAll (peerLost id ckpt dst.toNat s)
      | .coll num op _ _ _ _ => pumpAll (endColl o.pkt num op 0xFF 0x0705 n 0 s)
      | .remote _ _ true => pumpAll (abortOpen o.pkt s)
      | .kvSend _ _ _ pages _ => pumpAll (postErr o.pkt 0x0705 n (unpinSend o.pkt pages (dropWork k s)))
      | _ => pumpAll (postErr o.pkt 0x0705 n (dropWork k s))

/-- CHUNK_RETRANSMIT_TIMEOUT (R534). -/
def execChunkRetransmitTimeout (dst : Half) (stream : Nat) (chunk : Word) (s : State) : Out := .next (retransmit dst stream chunk s)
/-- DEST_UNREACHABLE (R550). -/
def execDestUnreachable (vi sq : Nat) (seq : Word) (s : State) : Out :=
  event (viOk vi) (destUnreachable { vi := vi, sq := sq, seq := seq } s)

/-! ## The native link (R522 to R525) -/

/-- A port carries traffic. -/
def Port.live (t : Port) : Bool := t.state == 2 || t.state == 4

/-- Answer a flit: the last sequence received in order, a NAK, credits returned. -/
def replyFlit (q : Nat) (nak : Bool) (credit : Half) (s : State) : State :=
  putLine q { kind := 0, sop := false, eop := false, seq := 0, ack := (s.port q).rxSeq, ackValid := true, nak := nak
              credit := credit, payload := List.replicate 240 0, lcrc := 0 } s

/-- Flits after an acknowledged sequence number. -/
def replayAfter (ack : BitVec 12) (l : List Flit) : List Flit :=
  match l.findIdx? fun f => f.seq == ack with
  | some i => l.drop (i + 1)
  | none => l

/-- ACK, NAK and CREDIT of a flit: acknowledged flits leave the replay buffer, a NAK replays the rest, credits are
gained (R523, R524). -/
def flitAck (q : Nat) (f : Flit) (s : State) : State :=
  let s1 := s.updPort q fun t =>
    { t with replay := if f.ackValid || f.nak then replayAfter f.ack t.replay else t.replay, credits := t.credits + f.credit.toNat }
  let s2 :=
    if f.nak then
      let l := (s1.port q).replay
      l.foldl (fun s g => putLine q g s) (s1.updPort q fun t => { t with replays := satAdd t.replays l.length })
    else s1
  drain q s2

/-- The payload of a DATA flit: at EOP the packet is taken. -/
def flitData (q : Nat) (f : Flit) (s : State) : State :=
  let b := (if f.sop then [] else (s.port q).rxBuf) ++ f.payload
  if f.eop then takePacket (packetFrom b) (s.updPort q fun t => { t with rxBuf := [] })
  else s.updPort q fun t => { t with rxBuf := b }

/-- FLIT_RECEIVE (R522 to R525): a flit is discarded with a NAK when its LCRC fails or its SEQ does not follow; a BEACON
flit has no SEQ and its payload is BEACON_RECEIVE's. -/
def flitIn (q : Nat) (f : Flit) (s : State) : State :=
  let t := s.port q
  if t.eth || !t.live then s
  else if !lcrcOk f then (if f.kind = 3 then s else replyFlit q true 0 s)
  else if f.kind = 1 ∨ f.kind = 2 then
    if f.seq ≠ t.rxSeq + 1 then replyFlit q true 0 s
    else
      let s1 := flitAck q f (s.updPort q fun t => { t with rxSeq := f.seq })
      let s2 := replyFlit q false (if f.kind = 1 then 1 else 0) s1
      if f.kind = 1 then flitData q f s2 else s2
  else if f.kind = 0 ∨ f.kind = 3 then flitAck q f s
  else s

/-- FLIT_RECEIVE (R523). -/
def execFlitReceive (port : Nat) (f : Flit) (s : State) : Out := event (decide (port < 20)) (flitIn port f s)

/-- ETH_FRAME_RECEIVE: a frame whose FCS or UDP checksum fails is discarded and counted (R528). -/
def ethIn (q : Nat) (fcsOk udpOk : Bool) (p : FabPkt) (s : State) : State :=
  if !(s.port q).eth || !(s.port q).live then s
  else if !(fcsOk && udpOk) then s.updPort q fun t => { t with drops := satAdd t.drops 1 }
  else if p.dst.toNat = s.moduleId then takePacket p s
  else s

/-- ETH_FRAME_RECEIVE (R528). -/
def execEthFrameReceive (port : Nat) (fcsOk udpOk : Bool) (p : FabPkt) (s : State) : Out :=
  event (decide (port < 20)) (ethIn port fcsOk udpOk p s)

/-! ## Ports (R517 to R521, R577 to R580, R737) -/

/-- A port's link is empty: before training, and when it fails. -/
def clearLink (t : Port) : Port :=
  { t with txSeq := 0, rxSeq := 0xFFF, replay := [], credits := 0, rxBuf := [], queue := [], cur := [], classes := [] }

/-- Training of all four lanes ends (R518); a port that was FAILED returns to FAILED (R578). -/
def portUp (peer : Half) (peerPort : BitVec 5) (delay : Half) (t : Port) : Port :=
  { clearLink t with peer := peer, peerPort := peerPort, delay := delay, lanes := 0xF
                     state := if t.wasFailed then 3 else 2 }

/-- A port trains again after a pattern where its cable is mated; one that was FAILED returns to FAILED (R578, R737). -/
def trainAgain (t : Port) : Port :=
  { t with state := if t.cable then 1 else if t.wasFailed then 3 else 0, pattern := none }

/-- PORT_TRAINED: a port in training, or DOWN with its cable mated, trains. -/
def portTrained (q : Nat) (peer : Half) (peerPort : BitVec 5) (delay : Half) (s : State) : State :=
  let t := s.port q
  if t.state = 1 ∨ (t.state = 0 ∧ t.cable) then s.updPort q (portUp peer peerPort delay) else s

/-- PORT_FAILED (R519): a port that carries traffic becomes FAILED and raises FAB_LINK. -/
def portFailed (q cause : Nat) (s : State) : State :=
  if (s.port q).live then
    faultEvent1 (2046 + 2 * q) cause (s.updPort q fun t => { clearLink t with state := 3, standsFor := 0 })
  else s

/-- A spare qualifies for a failed port (R520). -/
def qualifies (f sp : Port) (peerSpare : Bool) : Bool :=
  sp.spare && sp.state == 2 && !sp.unfit && peerSpare && sp.peer == f.peer && f.state == 3

/-- SPARE_FAILOVER (R520). -/
def spareFailover (f q : Nat) (peerSpare : Bool) (s : State) : State :=
  if qualifies (s.port f) (s.port q) peerSpare && !((List.range 20).any fun k =>
      (s.port k).state == 4 && (s.port k).standsFor.toNat == f) then
    s.updPort q fun t => { t with state := 4, standsFor := BitVec.ofNat 5 f }
  else s

/-- SPARE_UNFIT (R580). -/
def spareUnfit (q lane : Nat) (s : State) : State :=
  let t := s.port q
  if t.spare && t.state == 2 && !t.unfit then faultEvent1 (2046 + 2 * q + 1) lane (s.updPort q fun t => { t with unfit := true })
  else s

/-- SPARE_FIT (R580). -/
def spareFit (q : Nat) (s : State) : State :=
  s.updPort q fun t => { t with unfit := t.unfit && !(t.spare && t.state == 2) }

/-- CBL_PRSNT_N of J(2 + k): the ports of an unmated cable do not train (R737). -/
def cablePresence (k : Nat) (present : Bool) (s : State) : State :=
  [0, 1, 2, 3].foldl (fun s i => s.updPort (4 * k + i) fun t =>
    { t with
      cable := present
      state := if present && t.state == 0 && decide (6 ≤ s.boot.stage) then 1
               else if !present && t.state == 1 then 0 else t.state }) s

/-- PORT_TRAINED (R518). -/
def execPortTrained (port : Nat) (peer : Half) (peerPort : BitVec 5) (delay : Half) (s : State) : Out :=
  event (decide (port < 20)) (portTrained port peer peerPort delay s)
/-- PORT_FAILED (R519). -/
def execPortFailed (port cause : Nat) (s : State) : Out := event (decide (port < 20)) (portFailed port cause s)
/-- SPARE_FAILOVER (R520). -/
def execSpareFailover (failed spare : Nat) (peerSpare : Bool) (s : State) : Out :=
  event (decide (failed < 20 ∧ spare < 20)) (spareFailover failed spare peerSpare s)
/-- SPARE_UNFIT (R580). -/
def execSpareUnfit (port lane : Nat) (s : State) : Out := event (decide (port < 20 ∧ lane < 4)) (spareUnfit port lane s)
/-- SPARE_FIT (R580). -/
def execSpareFit (port : Nat) (s : State) : Out := event (decide (port < 20)) (spareFit port s)
/-- CABLE_PRESENCE (R737). -/
def execCablePresence (conn : Nat) (present : Bool) (s : State) : Out :=
  event (decide (conn < 5)) (cablePresence conn present s)

/-! ## LINK_PATTERN (R577 to R579) -/

/-- A port may be given to LINK_PATTERN: a SPARE that does not stand in, a FAILED or a DOWN port. -/
def patternFree (t : Port) : Bool :=
  (t.spare && t.state != 4 && t.state != 5) || t.state == 3 || t.state == 0

/-- LINK_PATTERN (R578). -/
def effLinkPattern (p : Packet) (s : State) : State :=
  let q := bf p.p0 4 0
  if 20 ≤ q then postFree p s
  else if !(patternFree (s.port q)) then postErr p 0x0A30 q s
  else
    (s.updPort q fun t => { clearLink t with state := 5, wasFailed := t.wasFailed || t.state == 3, pattern := some p.key }).openCmd p
      (.linkPattern q (s.ftu.count.toNat + bf p.p1 31 0))

/-- The pattern of a port ends: its command completes with the errors of its lanes and the bits checked per lane, and the
port trains again where its cable is mated (R578, R579, R737). -/
def endPattern (o : OpenCmd) (q : Nat) (errs : List Nat) (bits : Nat) (s : State) : State :=
  let es := (List.range 4).map fun l => if o.pkt.p0.getLsbD (8 + l) then errs.getD l 0 else 0
  let b (l : Nat) : Byte := BitVec.ofNat 8 (min 255 (es.getD l 0))
  let s1 := s.updPort q fun t =>
    { trainAgain t with pat0 := b 0, pat1 := b 1, pat2 := b 2, pat3 := b 3 }
  postDone o.pkt es.sum (bits / 2 ^ 30) s1

/-- The LINK_PATTERN that runs on a port. -/
def State.patternOn (s : State) (q : Nat) : Option OpenCmd :=
  s.opens.find? fun o => match o.prog with | .linkPattern k _ => k == q | _ => false

/-- LINK_PATTERN with STOP: the running pattern ends with what its checkers have counted, which the command does not
carry: free counts. Without a pattern there is nothing to stop. -/
def effLinkPatternStop (p : Packet) (s : State) : State :=
  let q := bf p.p0 4 0
  if 20 ≤ q then postFree p s
  else
    match s.patternOn q with
    | some o =>
      let v (i : Nat) : Nat := (Config.freeVal (s.fresh + i)).toNat
      let es := [v 0, v 1, v 2, v 3]
      let n := ((List.range 4).map fun l => if o.pkt.p0.getLsbD (8 + l) then es.getD l 0 else 0).sum
      postDone p n (v 4 / 2 ^ 30) (endPattern o q es (v 4) { s with fresh := s.fresh + 5 })
    | none => if patternFree (s.port q) then postDone p 0 0 s else postErr p 0x0A30 q s

/-- LINK_PATTERN_END: DURATION frets have passed (R578). -/
def linkPatternEnd (q : Nat) (errs : List Nat) (bits : Nat) (s : State) : State :=
  match s.patternOn q with
  | some o =>
    (match o.prog with
     | .linkPattern _ u => if u ≤ s.ftu.count.toNat then endPattern o q errs bits s else s
     | _ => s)
  | none => s

/-- LINK_PATTERN (R578). -/
def execLinkPattern (p : Packet) (s : State) : Out := submit effLinkPattern p s
/-- LINK_PATTERN_STOP (R578). -/
def execLinkPatternStop (p : Packet) (s : State) : Out := submit effLinkPatternStop p s
/-- LINK_PATTERN_END (R578). -/
def execLinkPatternEnd (port : Nat) (errs : List Nat) (bits : Nat) (s : State) : Out :=
  event (decide (port < 20)) (linkPatternEnd port errs bits s)

end Sys2Proof.Machine
end

