-- ==== Sys2Proof/Machine/Recover.lean ====
section
/-! DEFINITION. The commands of spec/14_checkpoint_recovery.md: TAKE, HOLD, DISCARD, READBACK, EXPORT, LIST, RESTORE, ROLLBACK
and SHRINK, and the events of a checkpoint. -/

namespace Sys2Proof.Machine

open Sys2Proof

/-! ## TAKE (R586 to R591) -/

/-- Pages of a set with the stack of their slots, and the first page with a HOST or REMOTE home (R588, R589). -/
def setPages (n : Nat) (hdrs : List (List Byte)) (s : State) : List (Nat × Nat) × Option Nat :=
  let pages := dedup ((coveredOf hdrs).map (· / 32))
  let now (g : Nat) : Option Home := (s.mapping n (g * pageSize)).map Mapping.now
  (pages.map fun g => (g, ((now g).map slotStack).getD 0),
   (pages.find? fun g => match now g with | some (.host _) | some (.remote _ _) => true | _ => false).map (· * pageSize))

/-- First byte of a shard that no page maps. -/
def setUnmapped (n : Nat) (hdrs : List (List Byte)) (s : State) : Option Nat :=
  hdrs.findSome? fun h => s.firstUnmapped n (hdrAddr h) (hdrBytes h)

/-- Lowest number not in use. -/
def lowestFree (used : List Nat) : Nat := (firstFree (fun i => !(used.contains i)) (used.length + 1) 0).getD 0

/-- The group of a TAKE with PARITY: LEVEL 1 and of the job. -/
def parityGroup (p : Packet) (s : State) : Option Group := (s.group? p.job (bf p.p0 21 16)).filter fun g => g.level == 1

/-- The checkpoint that a TAKE sets up. -/
def newCkpt (p : Packet) (j : Job) (hdrs : List (List Byte)) (slots : List (Nat × Nat × Nat)) (s : State) : Ckpt :=
  let protect := bf p.p0 9 8
  let peer : Half × Half := (BitVec.ofNat 16 (bf p.p0 63 48), BitVec.ofNat 16 (bf p.p0 47 32))
  let g := if protect = 2 then parityGroup p s else none
  { id := lowestFree (j.ckpts.map (·.id)), state := 0, step := p.p1, protect := protect, gen2 := p.p0.getLsbD 12
    peerModule := if protect = 1 then peer.1 else 0, peerJob := if protect = 1 then peer.2 else 0
    group := if protect = 2 then bf p.p0 21 16 else 0
    members := if protect = 1 then [peer] else (g.map (·.members)).getD [], rank := (g.map (·.rank)).getD 0
    freeze := 0, cmd := p.key, vi := p.vi, hdrs := hdrs, written := [], slots := slots, todo := [], covered := coveredOf hdrs
    sent := 0, lost := none, repeated := [] }

/-- A TAKE is accepted: the freeze takes place at its fret, at once, or with FRET 0 and a peer when that has agreed. -/
def startTake (p : Packet) (j : Job) (c : Ckpt) (s : State) : State :=
  let s1 := (s.updJob j.id fun j => { j with ckpts := j.ckpts ++ [c] }).openCmd p (.take j.id c.id)
  if p.p2 ≠ 0 then pumpAll (schedule .ckpt p.p2.toNat (some p.key) s1)
  else if c.protect = 0 then freezeCkpt j.id c.id s1
  else pumpAll s1

/-- A TAKE whose slots are found: its parity frames, and the conditions of Table 3.3. -/
def takeSlots (p : Packet) (j : Job) (hdrs : List (List Byte)) (slots : List (Nat × Nat × Nat)) (s : State) : State :=
  let c := newCkpt p j hdrs slots s
  let s1 := s.updJob j.id fun j => { j with ckpts := j.ckpts ++ [c] }
  let ready : Option State :=
    if c.protect ≠ 2 then some s
    else
      (parityGroup p s).bind fun g =>
        (beginParity j.id c.group c.step g.rank g.size (takeFrames p) g.rank c.covered.length c.hdrs.length s1).map fun t =>
          t.updJob j.id fun j => { j with ckpts := j.ckpts.filter fun x => x.id != c.id }
  match ready, if p.p2 = 0 then none else schedRefusal p.p2.toNat s with
  | none, _ => postErr p 0x0805 s.moduleId s
  | some _, some e => refuse p e s
  | some t, none => startTake p j c t

/-- CKPT_BEGIN TAKE: the conditions of Table 14.3 in its order. -/
def effTake (p : Packet) (s : State) : State :=
  let n := bf p.p4 31 0
  if bf p.p0 9 8 = 3 ∨ n = 0 ∨ 2 ^ 20 < n ∨ p.p3.toNat % 64 ≠ 0 then postFree p s
  else
    match s.job? p.job with
    | none => postFree p s
    | some j =>
      match j.ckpts.find? fun c => decide (c.state < 2) with
      | some c => postErr p 0x0801 c.id s
      | none =>
        match vread p.vi s p.p3.toNat (128 * n) with
        | .error e => memFail p e s
        | .ok b =>
          let hdrs := hdrsOf b
          match setUnmapped p.vi hdrs s, setPages p.vi hdrs s with
          | some a, _ => postFinal p 0x12 0x0005 a 0 s
          | none, (_, some a) => postErr p 0x0803 a s
          | none, (pages, none) =>
            let gone := (j.doomed (p.p0.getLsbD 12) none).flatMap fun c => c.slots.map (·.2) ++ j.parityFrames c
            let d := dealSlots s gone pages []
            if d.2 ≠ 0 then postCap p 0x0802 d.2 s else takeSlots p j hdrs d.1 s

/-! ## HOLD and DISCARD (R601, R608, R609) -/

/-- CKPT_BEGIN HOLD. -/
def effHold (p : Packet) (s : State) : State :=
  let n := bf p.p5 31 0
  match s.job? p.job, s.oxbowFree n with
  | some j, some l =>
    let h : Hold := { id := lowestFree (j.holds.map (·.id)), peerModule := BitVec.ofNat 16 (bf p.p0 63 48)
                      peerJob := BitVec.ofNat 16 (bf p.p0 47 32), slots := l, imgs := [] }
    postDone p h.id 0 (s.updJob j.id fun j => { j with holds := j.holds ++ [h] })
  | some _, none =>
    let free := ((List.range 32).map fun k => ((s.oxbowOf k).filter fun f => !(s.oxbowUsed k f)).length).sum
    postCap p 0x0802 (n - free) s
  | none, _ => postFree p s

/-- DISCARD of a hold. -/
def discardHold (p : Packet) (j : Job) (s : State) : State :=
  let id := bf p.p1 7 0
  match j.holds.find? fun h => h.id == id with
  | none => postErr p 0x0804 id s
  | some h =>
    if h.imgs.any fun x => !x.complete then postErr p 0x0801 id s
    else postDone p h.slots.length 0
      ((freeOxbow h.slots s).updJob j.id fun j => { j with holds := j.holds.filter fun x => x.id != id })

/-- CKPT_BEGIN DISCARD. -/
def effCkptDiscard (p : Packet) (s : State) : State :=
  let id := bf p.p1 7 0
  match s.job? p.job with
  | none => postFree p s
  | some j =>
    if p.p1.getLsbD 8 then discardHold p j s
    else
      match j.ckpts.find? fun c => c.id == id with
      | none => postErr p 0x0804 id s
      | some c =>
        if c.state < 2 then postErr p 0x0801 id s else postDone p (j.framesUsed c) 0 (dropCkpt j.id id s)

/-! ## READBACK, EXPORT, LIST (R612 to R615) -/

/-- CKPT_VERIFY READBACK. -/
def effReadback (p : Packet) (s : State) : State :=
  let id := bf p.p1 7 0
  match s.ckpt? p.job id with
  | some c => if c.usable then pumpAll (s.openCmd p (.readback p.job id [])) else postErr p 0x0804 id s
  | none => postErr p 0x0804 id s

/-- Write exported records until one would pass MAX: records and bytes written (R614). -/
def exportShards (p : Packet) (c : Ckpt) : List (List Byte) → Nat → Nat → State → State
  | [], n, b, s => postDone p n b s
  | h :: hs, n, b, s =>
    let size := 128 + cdiv (hdrBytes h) 64 * 64
    if bf p.p3 31 0 < b + size then postDone p n b s
    else
      let d := c.shardData s h
      let rec_ := exportHdr h ++ d ++ List.replicate (size - 128 - d.length) 0
      match vstore p (p.p2.toNat + b) rec_ s with
      | (s1, some e) => memFail p e s1
      | (s1, none) => exportShards p c hs (n + 1) (b + size) s1

/-- CKPT_VERIFY EXPORT. -/
def effExport (p : Packet) (s : State) : State :=
  let id := bf p.p1 7 0
  match s.ckpt? p.job id with
  | some c => if c.usable then exportShards p c c.hdrs 0 0 s else postErr p 0x0804 id s
  | none => postErr p 0x0804 id s

/-- LIST entry of a checkpoint (Table 14.8). -/
def ckptEntry (j : Job) (c : Ckpt) : List Byte :=
  leBytes 8 c.step.toNat ++ leBytes 1 c.id ++ leBytes 1 c.state ++ leBytes 1 c.protect ++ leBytes 1 (2 * b2n c.gen2)
  ++ leBytes 2 c.peerModule.toNat ++ leBytes 2 c.peerJob.toNat ++ leBytes 4 (j.framesUsed c) ++ leBytes 4 c.hdrs.length
  ++ leBytes 8 c.freeze.toNat

/-- LIST entry of a hold. -/
def holdEntry (h : Hold) : List Byte :=
  let x := (h.imgs.filter HoldImg.complete).getLast?
  leBytes 8 ((x.map fun x => x.step.toNat).getD (2 ^ 64 - 1)) ++ leBytes 1 h.id ++ leBytes 1 (if x.isSome then 2 else 0)
  ++ leBytes 1 1 ++ leBytes 1 1 ++ leBytes 2 h.peerModule.toNat ++ leBytes 2 h.peerJob.toNat ++ leBytes 4 h.slots.length
  ++ leBytes 4 ((x.map (·.shards)).getD 0) ++ leBytes 8 ((x.map fun x => x.freeze.toNat).getD 0)

/-- CKPT_VERIFY LIST. -/
def effList (p : Packet) (s : State) : State :=
  match s.job? p.job with
  | none => postFree p s
  | some j =>
    let l := (j.ckpts.map (ckptEntry j) ++ j.holds.map holdEntry).take (bf p.p3 31 0 / 32)
    finishMem p (vstore p p.p2.toNat l.flatten s) l.length 0

/-! ## RESTORE (R616) -/

/-- RESTORE. -/
def effRestore (p : Packet) (s : State) : State :=
  let n := bf p.p3 31 0
  let src := bf p.p0 7 0
  if src = 0 ∨ 4 < src ∨ n = 0 ∨ 2 ^ 20 < n then postFree p s else pumpAll (s.openCmd p (.restore []))

/-! ## ROLLBACK (R622, R623) -/

/-- The checkpoint that a ROLLBACK names. -/
def rollbackTarget (p : Packet) (j : Job) : Option Ckpt :=
  (if p.p1 = 0xFFFFFFFFFFFFFFFF then j.ckpts.getLast? else (j.ckpts.filter fun c => c.step == p.p1).getLast?).filter
    fun c => c.state != 4

/-- A region's image goes back to its page (R622, 3). -/
def putBack (p : Packet) (c : Ckpt) : List Nat → State → State × Option MemErr
  | [], s => (s, none)
  | r :: rs, s =>
    match vstore p (r * 65536) (c.region s r) s with
    | (s1, some e) => (s1, some e)
    | (s1, none) => putBack p c rs s1

/-- Buffer-0 bases of the regions that lie wholly within an image, over the models loaded without SHADOW (R622, 4). -/
def taggedBases (n : Nat) (j : Job) (c : Ckpt) (s : State) : List Nat :=
  j.models.flatMap fun m =>
    if m.shadow then []
    else
      (m.indices.filter fun i =>
        (regionsOf (s.ent n m i 0 8) (s.ent n m i 32 8)).all fun r => c.covered.contains r).map fun i => s.ent n m i 0 8

/-- A ROLLBACK whose target is usable writes the image back and ends. -/
def runRollback (p : Packet) (j : Job) (c : Ckpt) (s : State) : State :=
  match putBack p c c.covered (markPhase j.id 7 s) with
  | (s1, some e) => memFail p e s1
  | (s1, none) =>
    let s2 := if p.p0.getLsbD 8 then
        (taggedBases p.vi j c s1).foldl (fun s a => setTagAt p.vi j.id a (bf p.p2 31 0) s) s1
      else s1
    postDone p (65536 * c.covered.length) 0 s2

/-- ROLLBACKs whose target has become usable run; one whose target has failed or gone ends (R622, R623). -/
def settleRollbacks (s : State) : State :=
  s.opens.foldl (fun s o =>
    match o.prog with
    | .rollback id ckpt =>
      (match s.job? id, s.ckpt? id ckpt with
       | some j, some c =>
         if c.usable then runRollback o.pkt j c s
         else if c.state = 4 then postErr o.pkt 0x0804 o.pkt.p1.toNat s else s
       | _, _ => postErr o.pkt 0x0804 o.pkt.p1.toNat s)
    | _ => s) s

/-- A checkpoint newer than the target goes; its running TAKE completes with ABORTED (R622, 1). -/
def discardNewer (id : Nat) (c : Ckpt) (s : State) : State :=
  let s1 := match s.takeOf id c.id with | some q => abortOpen q s | none => s
  dropCkpt id c.id s1

/-- ROLLBACK. -/
def effRollback (p : Packet) (s : State) : State :=
  match s.job? p.job with
  | none => postFree p s
  | some j =>
    match rollbackTarget p j with
    | none => postErr p 0x0804 p.p1.toNat s
    | some c =>
      match setUnmapped p.vi c.hdrs s with
      | some a => postFinal p 0x12 0x0005 a 0 s
      | none =>
        if p.p0.getLsbD 8 ∧ bf p.p2 31 0 = 0xFFFFFFFF then postErr p 0x0616 0xFFFFFFFF s
        else
          let newer := (j.ckpts.dropWhile fun x => x.id != c.id).tail
          let s1 := newer.foldl (fun s x => discardNewer j.id x s) s
          settleRollbacks (s1.openCmd p (.rollback j.id c.id))

/-! ## SHRINK (R625) -/

/-- A group that includes a lost module ends: its commands with ABORTED, then the group is released. -/
def shrinkGroup (g : Group) (s : State) : State :=
  let s1 := s.opens.foldl (fun s o =>
    match o.prog with
    | .coll num op _ _ _ _ =>
      if o.pkt.job = g.job ∧ num = g.num then postFinal o.pkt 0x02 0x0000 0 0 (leaveGroup o.pkt num op s) else s
    | _ => s) s
  settleGroups (freeGroup g.job g.num s1)

/-- SHRINK applies R607 to a checkpoint: one that is complete becomes LOCAL. -/
def shrinkCkpt (id m : Nat) (c : Ckpt) (s : State) : State :=
  if !(c.members.any fun x => x.1.toNat == m) then s
  else if c.state < 2 then peerLost id c.id m s
  else updCkpt id c.id (fun c => { c with state := if c.usable then 5 else c.state }) s

/-- SHRINK. -/
def effShrink (p : Packet) (s : State) : State :=
  let m := bf p.p0 63 48
  let gs := s.fab.groups.filter fun g => g.job == p.job && g.members.any fun x => x.1.toNat == m
  let s1 := gs.foldl (fun s g => shrinkGroup g s) s
  let toward (o : OpenCmd) : Bool :=
    o.pkt.job == p.job && (match o.prog with | .remote _ _ _ => (remoteTo o.pkt).1 == m | _ => false)
  let s2 := (s1.opens.filter toward).foldl (fun s o => abortOpen o.pkt s) s1
  let s3 := (((s2.job? p.job).map (·.ckpts)).getD []).foldl (fun s c => shrinkCkpt p.job m c s) s2
  pumpAll (postDone p gs.length 0 s3)

/-! ## Rows -/

/-- A GROUP_TIMEOUT may end a collective, or find that a protective transfer waits for a member of its parity
group (R607). -/
def groupTimeoutAll (id num member : Nat) (s : State) : State :=
  let s1 := groupTimeout id num member s
  match s1.group? id num with
  | none => s1
  | some g =>
    let dst := (g.members.getD member (0, 0)).1
    let waits (o : OpenCmd) : Bool :=
      match o.prog with
      | .take i k => i == id && (match s1.ckpt? i k with | some c => c.protect == 2 && c.group == num | none => false)
          && s1.fab.unacked.any fun c => c.cmd == some o.pkt.key && c.dst == dst
      | _ => false
    if g.timeout = 0 then s1
    else
      match s1.opens.find? waits with
      | some { pkt := _, prog := .take i k } => pumpAll (peerLost i k dst.toNat s1)
      | _ => s1

/-- Checkpoint events: what they free goes on. -/
def ckptEvent (t : State) : Out := .next (settleRollbacks (pumpAll t))

/-- CKPT_TAKE (R588). -/
def execCkptTake (p : Packet) (s : State) : Out := submit effTake p s
/-- CKPT_HOLD (R601). -/
def execCkptHold (p : Packet) (s : State) : Out := submit effHold p s
/-- CKPT_DISCARD (R608). -/
def execCkptDiscard (p : Packet) (s : State) : Out := submit effCkptDiscard p s
/-- CKPT_READBACK (R613). -/
def execCkptReadback (p : Packet) (s : State) : Out := submit effReadback p s
/-- CKPT_EXPORT (R614). -/
def execCkptExport (p : Packet) (s : State) : Out := submit effExport p s
/-- CKPT_LIST (R615). -/
def execCkptList (p : Packet) (s : State) : Out := submit effList p s
/-- RESTORE (R618). -/
def execRestore (p : Packet) (s : State) : Out := submit effRestore p s
/-- ROLLBACK (R622). -/
def execRollback (p : Packet) (s : State) : Out := submit effRollback p s
/-- SHRINK (R625). -/
def execShrink (p : Packet) (s : State) : Out := submit effShrink p s
/-- CKPT_FREEZE (R591). -/
def execCkptFreeze (job ckpt : Nat) (s : State) : Out := ckptEvent (ckptFreeze job ckpt s)
/-- CKPT_REGION_COPY_DONE (R593). -/
def execCkptRegionCopyDone (job ckpt region result : Nat) (s : State) : Out :=
  ckptEvent (regionCopyDone job ckpt region result s)
/-- CKPT_COPY_AHEAD_DONE (R594). -/
def execCkptCopyAheadDone (job ckpt region ns : Nat) (s : State) : Out := ckptEvent (copyAheadDone job ckpt region ns s)
/-- CKPT_COMPLETE (R606). -/
def execCkptComplete (job ckpt : Nat) (s : State) : Out := ckptEvent (ckptComplete job ckpt s)
/-- GROUP_TIMEOUT (R560). -/
def execGroupTimeout (job group member : Nat) (s : State) : Out := .next (groupTimeoutAll job group member s)

end Sys2Proof.Machine
end

