-- ==== Sys2Proof/Machine/Abort.lean ====
section
/-! DEFINITION. ABORT (R650 to R653, R780 of spec/15_job_scheduling.md), with what each running command does on it (R301, R486,
R551, R608, R624, R652), and the end of a command by a fault of its data. -/

namespace Sys2Proof.Machine

open Sys2Proof

/-! ## What stops (R652 and the rules it names) -/

/-- A running command ends with ABORTED, its tiles, schedule entries and waiting chunks taken away. -/
def stopNow (o : OpenCmd) (s : State) : State := abortOpen o.pkt s

/-- A step command starts no further step: the boundary follows, and it ends. -/
def stopStep (k : Nat) (p : Packet) (status : Byte) (reason : Half) (r0 r1 : Nat) (s : State) : State :=
  match (s.stepList p.job k).head?, s.roll? p.job k with
  | some q, some (_, r, _) =>
    let s1 := if q = p then lastBoundary p.job k (s.kindOf p.job p r) (dropStage6 p.job k s) else s
    if (s1.open? p.key).isSome then endStep p.job p status reason r0 r1 s1 else s1
  | _, _ => endStep p.job p status reason r0 r1 s

/-- A step of the rollout is under way: it waits at a pin. -/
def State.midStep (s : State) (id k : Nat) : Bool := match s.roll? id k with | some (_, r, _) => r.stage6.isSome | none => false

/-- An ABORT of a step command lets the running step complete (R301). -/
def abortSteps (k : Nat) (p : Packet) (s : State) : State :=
  if s.midStep p.job k ∧ s.abortOn p.key ∧ (s.stepList p.job k).head? = some p then s else stopStep k p 0x02 0x0000 0 0 s

/-- An ABORT is pending for a request (FLAGS.ABORT_PENDING): its sequence ends at the next boundary, at once when no step of the
rollout runs (Table 8.9). -/
def stopRequest (id k slot : Nat) (s : State) : State :=
  match s.roll? id k with
  | none => s
  | some (n, r, _) =>
    let s1 := touch n r slot (setSe n r slot 5 1 (s.se n r slot 5 1 ||| 4) s)
    if s.stepRunning id k then s1 else endings id k false s1

/-- A cancel that is taken back leaves no CANCEL_PENDING, unless another names the sequence. -/
def dropCancel (p : Packet) (k : Nat) (s : State) : State :=
  match s.roll? p.job k with
  | none => s
  | some (n, r, _) =>
    match s.slotOf n r (bf p.p0 63 32) with
    | none => s
    | some slot =>
      if (s.cancelsOf p.job k).any fun q => q != p && bf q.p0 63 32 == bf p.p0 63 32 then s
      else setSe n r slot 5 1 (s.se n r slot 5 1 / 2 * 2) s

/-- The protective images of a checkpoint at its peers are discarded (R608). -/
def discardImages (p : Packet) (c : Ckpt) (s : State) : State :=
  if c.lost.isSome then s
  else
    let a := if c.protect = 1 then imgAddr 6 2047 p.job 0 else imgAddr 6 c.group c.rank 0
    c.others.foldl (fun s x => sendReq p.key x.2.1 x.2.2.toNat fwChan p.job (.put a (leBytes 8 c.step.toNat)) s) s

/-- An ABORT of a TAKE stops the copy, makes the checkpoint FAILED and releases held writes (R608). -/
def stopTake (o : OpenCmd) (id ckpt : Nat) (s : State) : State :=
  match s.ckpt? id ckpt with
  | none => stopNow o s
  | some c =>
    let s1 := updCkpt id ckpt (fun c => { c with state := 4, todo := [] }) s
    let s2 := { s1 with ctr := { s1.ctr with ckptTakeFails := satAdd s1.ctr.ckptTakeFails 1 } }
    stopNow o (discardImages o.pkt c s2)

/-- What an ABORT of a command undoes outside its VI: images at peers (R608), a die under test, a port (R652). -/
def stopOutside (o : OpenCmd) (s : State) : State :=
  match o.prog with
  | .take id ckpt => (match s.ckpt? id ckpt with | some c => discardImages o.pkt c s | none => s)
  | .selftest d _ => s.updDie d fun x => { x with coreTest := none, coreTestWaits := none }
  | .linkPattern q _ => s.updPort q trainAgain
  | _ => s

/-- A VI reset: every job of the VI ends as an ABORT ends it, without a record (R74). -/
def viReset (n : Nat) (s : State) : State :=
  motionEnds (startViReset n ((s.opens.filter fun o => o.pkt.vi == n).foldl (fun s o => stopOutside o s) s))

/-- Covered pages of a checkpoint hold free bytes (R624). -/
def scrambleCovered (n id ckpt : Nat) (s : State) : State :=
  match s.ckpt? id ckpt with
  | none => s
  | some c => c.covered.foldl (fun s r => vwrite n (r * 65536) (s.freeBytes 65536) s.nextFree) s

/-- The open JOB_START of a job is aborted: the job leaves the queue and is SUSPENDED, or is pre-empted at its capo point
(Table 15.5). -/
def stopStart (id : Nat) (s : State) : State :=
  match s.job? id with
  | none => s
  | some j =>
    if j.state = 2 ∨ j.state = 3 then preempt id 3 0xFFFF s
    else
      let s1 := { s with sched := { s.sched with
        queue := s.sched.queue.filter (· != id), turns := s.sched.turns.filter (· != id) } }
      closeStart id 0x02 0x0000 0 0 (s1.updJob id fun j => { j with state := if j.state = 1 then 5 else j.state })

/-- Targets of a RESTORE, as its packet names them. -/
def restoreTargets (p : Packet) (s : State) : List (List Byte) :=
  match vread p.vi s p.p4.toNat (128 * bf p.p3 31 0) with
  | .ok b => hdrsOf b
  | .error _ => []

/-- A command with tiles issues none any more; it ends when those in progress have ended (R652), at once when a JOB_END stops it. -/
def stopTiles (o : OpenCmd) (s : State) : State :=
  let s1 := { s with tiles := s.tiles.filter fun t => t.cmd != o.pkt.key || t.issued }
  if (s1.tiles.any fun t => t.cmd == o.pkt.key) ∧ s.abortOn o.pkt.key then s1 else settleSlots (stopNow o (scrambleOut o s1))

/-- A running command stops for an ABORT. It ends here, or it stays in progress until what it has under way has ended. -/
def stopOpen (o : OpenCmd) (s : State) : State :=
  let p := o.pkt
  match o.prog with
  | .works _ _ _ _ _ | .passRun _ _ _ _ _ _ _ _ | .updateRun _ _ _ => stopTiles o s
  | .migrate _ moved skipped _ => finishMigrate p.key (s.setProg p.key (.migrate [] moved skipped true))
  | .rolloutClose k =>
    stopNow o (s.updRoll p.job k fun r => { r with closing := if r.closing = some p then none else r.closing })
  | .rolloutStep k _ _ _ => abortSteps k p s
  | .specVerify target _ => abortSteps target p s
  | .request k slot => stopRequest p.job k slot s
  | .cancel k => stopNow o (dropCancel p k s)
  | .kvReceive k t _ _ _ _ =>
    (match s.pool? p.job k with
     | some q => stopNow o (setTh p.vi q t 0 1 4 s)
     | none => stopNow o s)
  | .kvSend _ _ _ pages _ => stopNow o (unpinSend p pages s)
  | .flip _ _ => stopNow o (cancelSched o s)
  | .drain id h => stopNow o (s.updModel id h fun m => { m with drain := none })
  | .remote sent acked _ =>
    if s.fab.unacked.any fun c => c.cmd == some p.key then s.setProg p.key (.remote sent acked true) else stopNow o s
  | .coll num op _ _ _ _ => endColl p num op 0x02 0x0000 0 0 s
  | .take id ckpt => stopTake o id ckpt s
  | .restore _ => stopNow o (scrambleTargets p (restoreTargets p s) s)
  | .rollback id ckpt => stopNow o (scrambleCovered p.vi id ckpt s)
  | .jobStart => stopStart p.job s
  | .selftest d _ => stopNow o (s.updDie d fun x => { x with coreTest := none, coreTestWaits := none })
  | .linkPattern q _ => stopNow o (s.updPort q trainAgain)
  | .slotRun | .slotLoad => settleSlots (stopNow o s)
  | .unmap _ _ _ | .fence _ | .seedLoad _ | .abort _ _ | .attn | .kvRelease | .pass _ _ _ | .passOut _ _ _ _ _ _ _ | .update
  | .push _ _ _ _ _ _ _ _ | .groupRelease _ | .readback _ _ _ | .jobEnd _ | .jobPreempt _ _ | .calibrate _ _ _ => stopNow o s

/-! ## ABORT (R650 to R653) -/

/-- ABORTs whose targets have ended complete; a target that left without a word of its own ended with ABORTED. -/
def settleAborts (s : State) : State :=
  s.opens.foldl (fun s o =>
    match s.open? o.pkt.key with
    | some { pkt := p, prog := .abort targets count } =>
      let left := targets.filter fun k => (s.dispatched k.vi).contains k
      let n := count + (targets.length - left.length)
      if left.isEmpty then finishAbort p n s else s.setProg p.key (.abort left n)
    | _ => s) s

/-- A packet that has not started ends with ABORTED and has no effect (Table 15.5). -/
def abortHeld (p : Packet) (s : State) : State := postFinal p 0x02 0x0000 0 0 (unhold p s)

/-- An ABORT acts on packets that have not started and on commands in progress, and completes after them. -/
def runAbort (p : Packet) (held : List Packet) (running : List OpenCmd) (s : State) : State :=
  let s1 := held.foldl (fun s q => abortHeld q s) s
  let s2 := s1.openCmd p (.abort (running.map fun o => o.pkt.key) held.length)
  let s3 := running.foldl (fun s o =>
    match s.open? o.pkt.key with | some x => stopOpen x s | none => s) s2
  fetchAll (pumpAll (settleAborts s3))

/-- ABORT with ACTION PACKET (R650, R780). -/
def effAbortPacket (p : Packet) (s : State) : State :=
  let mine (q : Packet) : Bool :=
    q.vi == p.vi && q.sq == bf p.p0 10 8 && q.seq.toNat == bf p.p1 31 0 && q.jobId == p.jobId && q.key != p.key
  match (s.heldOf p.job).find? mine, s.opens.find? fun o => mine o.pkt with
  | some q, _ => runAbort p [q] [] s
  | none, some o => runAbort p [] [o] s
  | none, none => postFinal p 0x01 0x0000 (bf p.p1 31 0) 0 s

/-- ABORT with ACTION JOB (R653). -/
def effAbortJob (p : Packet) (s : State) : State :=
  let mine (q : Packet) : Bool := q.vi == p.vi && q.jobId == p.jobId && q.key != p.key
  runAbort p ((s.heldOf p.job).filter mine) (s.opens.filter fun o => mine o.pkt && o.prog != .jobStart) s

/-- JOB_END: with FORCE the job's running commands stop as an ABORT stops them (R649). -/
def effJobEndAll (p : Packet) (s : State) : State :=
  if p.p0.getLsbD 0 then
    let running := s.opens.filter fun o => o.pkt.job == p.job && o.pkt.key != p.key && o.prog != .jobStart
    motionEnds (endJob p (running.foldl (fun s o => match s.open? o.pkt.key with | some x => stopOpen x s | none => s) s))
  else motionEnds (effJobEnd p s)

/-- ABORT_PACKET (R650). -/
def execAbortPacket (p : Packet) (s : State) : Out := submit effAbortPacket p s
/-- ABORT_JOB (R653). -/
def execAbortJob (p : Packet) (s : State) : Out := submit effAbortJob p s
/-- JOB_END (R649). -/
def execJobEnd (p : Packet) (s : State) : Out := submit effJobEndAll p s

/-! ## A command whose data met a fault -/

/-- A running command ends with the status of a fault: its destination keeps what has been written. -/
def failOpen (o : OpenCmd) (status : Byte) (reason : Half) (r0 r1 : Nat) (s : State) : State :=
  let p := o.pkt
  match o.prog with
  | .coll num op _ _ _ _ => endColl p num op status reason r0 r1 s
  | .rolloutStep k _ _ _ => stopStep k p status reason r0 r1 s
  | .specVerify target _ => stopStep target p status reason r0 r1 s
  | .kvSend _ _ _ pages _ => postFinal p status reason r0 r1 (unpinSend p pages (dropWork p.key s))
  | .take id ckpt => failTake id ckpt status r0 r1 s
  | .request _ _ | .jobStart | .cancel _ | .fence _ | .abort _ _ | .jobEnd _ | .jobPreempt _ _ => s
  | _ => settleSlots (postFinal p status reason r0 r1 (dropWork p.key s))

end Sys2Proof.Machine
end

