-- ==== Sys2Proof/Machine/Crypto.lean ====
section
/-! DEFINITION. The published algorithms that R711 and R719 name: SHA-512 (FIPS 180-4) and the verification of an ECDSA
signature on P-521 (FIPS 186, SEC 1). Their numbers are those standards' (notes/assumptions/20.md); octet strings are
big-endian as they fix them (R11). -/

namespace Sys2Proof.Machine

/-! ## SHA-512 -/

/-- A 64-bit word of SHA-512. -/
abbrev W64 := BitVec 64

/-- The largest x < 2^k with x^e ≤ v, bit by bit from above. -/
def rootOf (e v : Nat) : Nat → Nat → Nat
  | 0, acc => acc
  | k + 1, acc => rootOf e v k (if (acc + 2 ^ k) ^ e ≤ v then acc + 2 ^ k else acc)

/-- n below 441 is prime, by trial division up to 20. -/
def smallPrime (n : Nat) : Bool := decide (2 ≤ n) && ((List.range 21).drop 2).all fun d => n % d != 0 || n == d

/-- The first 80 primes. -/
def shaPrimes : List Nat := (List.range 410).filter smallPrime

/-- The first 64 bits of the fraction of the e-th root of a prime. -/
def rootFrac (e p : Nat) : W64 := BitVec.ofNat 64 (rootOf e (p * 2 ^ (64 * e)) 72 0)

/-- The eight words of a hash value in progress. -/
structure ShaState where
  a : W64
  b : W64
  c : W64
  d : W64
  e : W64
  f : W64
  g : W64
  h : W64
  deriving DecidableEq, Repr

/-- A hash value from a list of eight words. -/
def shaOf (ws : List W64) : ShaState :=
  { a := ws.getD 0 0, b := ws.getD 1 0, c := ws.getD 2 0, d := ws.getD 3 0
    e := ws.getD 4 0, f := ws.getD 5 0, g := ws.getD 6 0, h := ws.getD 7 0 }

/-- The initial hash value: square roots of the first eight primes. -/
def shaInit : ShaState := shaOf ((shaPrimes.take 8).map (rootFrac 2))

/-- The 80 round constants: cube roots of the first 80 primes. -/
def shaConsts : List W64 := shaPrimes.map (rootFrac 3)

/-- Words of a message schedule, the newest first, extended by n. -/
def shaExpand : Nat → List W64 → List W64
  | 0, ws => ws
  | n + 1, ws =>
    let x := ws.getD 1 0
    let y := ws.getD 14 0
    let s1 := x.rotateRight 19 ^^^ x.rotateRight 61 ^^^ (x >>> 6)
    let s0 := y.rotateRight 1 ^^^ y.rotateRight 8 ^^^ (y >>> 7)
    shaExpand n ((s1 + ws.getD 6 0 + s0 + ws.getD 15 0) :: ws)

/-- One round with its constant and schedule word. -/
def shaRound (x : ShaState) (kw : W64 × W64) : ShaState :=
  let s1 := x.e.rotateRight 14 ^^^ x.e.rotateRight 18 ^^^ x.e.rotateRight 41
  let t1 := x.h + s1 + ((x.e &&& x.f) ^^^ (~~~x.e &&& x.g)) + kw.1 + kw.2
  let s0 := x.a.rotateRight 28 ^^^ x.a.rotateRight 34 ^^^ x.a.rotateRight 39
  let t2 := s0 + ((x.a &&& x.b) ^^^ (x.a &&& x.c) ^^^ (x.b &&& x.c))
  { a := t1 + t2, b := x.a, c := x.b, d := x.c, e := x.d + t1, f := x.e, g := x.f, h := x.g }

/-- A number from octets, highest first. -/
def beNum (bs : List Byte) : Nat := bs.foldl (fun n b => n * 256 + b.toNat) 0

/-- n octets of a number, highest first. -/
def beOctets (n v : Nat) : List Byte := ((List.range n).map fun i => BitVec.ofNat 8 (v >>> (8 * i))).reverse

/-- The hash value after a block of 128 octets. -/
def shaBlock (ks : List W64) (x : ShaState) (blk : List Byte) : ShaState :=
  let ws := (List.range 16).map fun i => BitVec.ofNat 64 (beNum ((blk.drop (8 * i)).take 8))
  let y := (ks.zip (shaExpand 64 ws.reverse).reverse).foldl shaRound x
  { a := x.a + y.a, b := x.b + y.b, c := x.c + y.c, d := x.d + y.d
    e := x.e + y.e, f := x.f + y.f, g := x.g + y.g, h := x.h + y.h }

/-- Blocks of 128 octets one after another. -/
def shaBlocks (ks : List W64) : Nat → ShaState → List Byte → ShaState
  | 0, x, _ => x
  | n + 1, x, bs => shaBlocks ks n (shaBlock ks x (bs.take 128)) (bs.drop 128)

/-- A message padded to whole blocks. -/
def shaPad (m : List Byte) : List Byte :=
  m ++ 0x80 :: List.replicate ((239 - m.length % 128) % 128) 0 ++ beOctets 16 (8 * m.length)

/-- SHA-512 of a message: 64 octets. -/
def sha512 (m : List Byte) : List Byte :=
  let bs := shaPad m
  let x := shaBlocks shaConsts (bs.length / 128) shaInit bs
  [x.a, x.b, x.c, x.d, x.e, x.f, x.g, x.h].flatMap fun w => beOctets 8 w.toNat

/-- HMAC-SHA-512 (RFC 2104). -/
def hmac512 (key m : List Byte) : List Byte :=
  let k := if 128 < key.length then sha512 key else key
  let k0 := k ++ List.replicate (128 - k.length) 0
  sha512 ((k0.map (· ^^^ 0x5C)) ++ sha512 ((k0.map (· ^^^ 0x36)) ++ m))

/-- HKDF with SHA-512 for 64 octets (RFC 5869): extract, and one block of expand. -/
def hkdf512 (salt ikm info : List Byte) : List Byte :=
  hmac512 (hmac512 (if salt.isEmpty then List.replicate 64 0 else salt) ikm) (info ++ [1])

/-! ## ECDSA on P-521 -/

/-- The field prime of P-521. -/
def p521 : Nat := 2 ^ 521 - 1

/-- Order of the base point. -/
def n521 : Nat :=
  0x1fffffffffffffffffffffffffffffffffffffffffffffffffffffffffffffffffa51868783bf2f966b7fcc0148f709a5d03bb5c9b8899c47aebb6fb71e91386409

/-- Coefficient b of the curve y² = x³ − 3x + b. -/
def b521 : Nat :=
  0x51953eb9618e1c9a1f929a21a0b68540eea2da725b99b315f3b8b489918ef109e156193951ec7e937b1652c0bd3bb1bf073573df883d2c34f1ef451fd46b503f00

/-- The base point. -/
def g521 : Nat × Nat :=
  (0xc6858e06b70404e9cd9e3ecb662395b4429c648139053fb521f828af606b4d3dbaa14b5e77efe75928fe1dc127a2ffa8de3348b3c1856a429bf97e7e31c2e5bd66,
   0x11839296a789a3bc0045c8a5fb42c7d1bd998f54449579b446817afbd17273e662c97ee72995ef42640c550b9013fad0761353c7086a272c24088be94769fd16650)

/-- x^k modulo m: the bits of k from the n-th down. -/
def powMod (m x k : Nat) : Nat → Nat → Nat
  | 0, acc => acc
  | n + 1, acc => powMod m x k n (if k.testBit n then acc * acc % m * x % m else acc * acc % m)

/-- Inverse modulo a prime below 2^521. -/
def invMod (m x : Nat) : Nat := powMod m x (m - 2) 521 1

/-- A point in Jacobian coordinates (x / z², y / z³); z = 0 is the point at infinity. -/
structure JPoint where
  x : Nat
  y : Nat
  z : Nat
  deriving DecidableEq, Repr

/-- a − b in the field. -/
def fsub (a b : Nat) : Nat := (a + (p521 - b % p521)) % p521

/-- A point added to itself. -/
def JPoint.double (q : JPoint) : JPoint :=
  let d := q.z * q.z % p521
  let g := q.y * q.y % p521
  let b := q.x * g % p521
  let a := 3 * (fsub q.x d * (q.x + d) % p521) % p521
  let x := fsub (a * a) (8 * b)
  { x := x, y := fsub (a * fsub (4 * b) x) (8 * (g * g)), z := 2 * q.y * q.z % p521 }

/-- Two points added. -/
def JPoint.add (q r : JPoint) : JPoint :=
  if q.z = 0 then r else if r.z = 0 then q else
    let z1 := q.z * q.z % p521
    let z2 := r.z * r.z % p521
    let u1 := q.x * z2 % p521
    let u2 := r.x * z1 % p521
    let s1 := q.y * r.z % p521 * z2 % p521
    let s2 := r.y * q.z % p521 * z1 % p521
    if u1 = u2 then if s1 = s2 then q.double else { x := 1, y := 1, z := 0 }
    else
      let h := fsub u2 u1
      let t := fsub s2 s1
      let hh := h * h % p521
      let hhh := h * hh % p521
      let v := u1 * hh % p521
      let x := fsub (t * t) (hhh + 2 * v)
      { x := x, y := fsub (t * fsub v x) (s1 * hhh), z := q.z * r.z % p521 * h % p521 }

/-- k times a point: the bits of k from the n-th down. -/
def JPoint.times (q : JPoint) (k : Nat) : Nat → JPoint → JPoint
  | 0, acc => acc
  | n + 1, acc => JPoint.times q k n (if k.testBit n then acc.double.add q else acc.double)

/-- The public key of a private key, an uncompressed point of 133 octets. -/
def publicKey (k : Nat) : List Byte :=
  let q := JPoint.times { x := g521.1, y := g521.2, z := 1 } k 521 { x := 1, y := 1, z := 0 }
  let zi := invMod p521 q.z
  let zz := zi * zi % p521
  4 :: beOctets 66 (q.x * zz % p521) ++ beOctets 66 (q.y * (zz * zi % p521) % p521)

/-- A public key, an uncompressed point of 133 octets on the curve. -/
def keyPoint (key : List Byte) : Option (Nat × Nat) :=
  let x := beNum ((key.drop 1).take 66)
  let y := beNum ((key.drop 67).take 66)
  if key.length = 133 ∧ key.getD 0 0 = 4 ∧ x < p521 ∧ y < p521 ∧
      y * y % p521 = (x * x * x + (p521 - 3) * x + b521) % p521 then some (x, y) else none

/-- A signature (r then s, 66 octets each) over a digest verifies against a key (R711, R719). -/
def ecdsaOk (digest sig key : List Byte) : Bool :=
  let r := beNum (sig.take 66)
  let s := beNum ((sig.drop 66).take 66)
  match keyPoint key with
  | none => false
  | some (x, y) =>
    if sig.length ≠ 132 ∨ r = 0 ∨ n521 ≤ r ∨ s = 0 ∨ n521 ≤ s then false
    else
      let w := invMod n521 s
      let none_ : JPoint := { x := 1, y := 1, z := 0 }
      let a := JPoint.times { x := g521.1, y := g521.2, z := 1 } (beNum digest * w % n521) 521 none_
      let b := JPoint.times { x := x, y := y, z := 1 } (r * w % n521) 521 none_
      let q := a.add b
      let zi := invMod p521 q.z
      q.z != 0 && q.x * (zi * zi % p521) % p521 % n521 == r

end Sys2Proof.Machine
end

