-- ==== Sys2Proof/Machine/Queues.lean ====
section
/-! DEFINITION. Queues, doorbells, interrupts and VI reset (spec/02_command_protocol.md). -/

namespace Sys2Proof.Machine

open Sys2Proof

/-! ## Doorbells (R55, R62, R73) -/

/-- A doorbell value is accepted: below the ring size, and the queue is enabled (Table 2.9). -/
def dbOk (en : Bool) (log2 : BitVec 5) (idx : Nat) : Bool := en && decide (idx < ringSize log2)

/-- SQ_TAIL_DB: a new tail, and fetching up to it. -/
def sqTail (n q : Nat) (value : Word) (s : State) : State :=
  let u := (s.vi n).sq q
  let idx := bw value 15 0
  if !(dbOk u.en u.sizeLog2 idx) then setDbErr n s
  else if u.tail.toNat = idx then s
  else fetchAll (s.updSq n q fun u => { u with tail := BitVec.ofNat 16 idx })

/-- CQ_HEAD_DB: records consumed; held records are written and fetching resumes (R63). -/
def cqHead (n q : Nat) (value : Word) (s : State) : State :=
  let c := (s.vi n).cq q
  let idx := bw value 15 0
  if !(dbOk c.en c.sizeLog2 idx) then setDbErr n s
  else if c.head.toNat = idx then s
  else
    let s1 := s.updCq n q fun c => { c with head := BitVec.ofNat 16 idx }
    fetchAll (roomMade n q s1)

/-- SQ_TAIL_DB_WRITE (R55, R73). -/
def execSqTailDbWrite (vi q : Nat) (value : Word) (s : State) : Out :=
  event (viOk vi && decide (q < 8)) (if s.viOn vi then sqTail vi q value s else s)

/-- CQ_HEAD_DB_WRITE (R62, R63, R73). -/
def execCqHeadDbWrite (vi q : Nat) (value : Word) (s : State) : Out :=
  event (viOk vi && decide (q < 8)) (if s.viOn vi then cqHead vi q value s else s)

/-! ## Queue configuration (R50 to R53) -/

/-- A ring size that R50 accepts. -/
def sizeOk (n : Nat) : Bool := decide (4 ≤ n ∧ n ≤ 16)

/-- A write to SQ_CFG: SIZE_LOG2 and CQ only while IDLE is 1 (R51); EN only with a legal size (R50); enabling zeroes head
and tail (R52). -/
def sqCfg (n q : Nat) (value : Word) (s : State) : State :=
  let idle := s.sqIdle n q
  s.updSq n q fun u =>
    let size := if idle then BitVec.ofNat 5 (bw value 4 0) else u.sizeLog2
    let cq := if idle then BitVec.ofNat 3 (bw value 10 8) else u.cq
    let en := value.getLsbD 31 && sizeOk size.toNat
    let start := en && !u.en
    { u with sizeLog2 := size, cq := cq, en := en, head := if start then 0 else u.head,
             tail := if start then 0 else u.tail }

/-- A write to CQ_CFG: SIZE_LOG2 only while EN is 0; interrupt settings at once (R51, R66); enabling zeroes head and tail
and sets the phase (R52). -/
def cqCfgFields (value : Word) (c : Cq) : Cq :=
  let size := if c.en then c.sizeLog2 else BitVec.ofNat 5 (bw value 4 0)
  let en := value.getLsbD 31 && sizeOk size.toNat
  let start := en && !c.en
  let ien := value.getLsbD 30
  let same := ien && c.ien
  { c with sizeLog2 := size, en := en, head := if start then 0 else c.head, tail := if start then 0 else c.tail,
           phase := if start then true else c.phase, ien := ien, vec := BitVec.ofNat 2 (bw value 29 28),
           irqTime := BitVec.ofNat 8 (bw value 23 16), irqCount := BitVec.ofNat 8 (bw value 15 8),
           unsig := if same then c.unsig else 0, timer := same && c.unsig != 0 && bw value 23 16 != 0 }

/-- A change of IRQ_COUNT takes effect at once: the vector is raised when the unsignalled records already number IRQ_COUNT + 1
(R51, R66). -/
def countMet (n q : Nat) (s : State) : State :=
  let c := (s.vi n).cq q
  if c.ien && decide (c.irqCount.toNat + 1 ≤ c.unsig) then
    raiseVec n c.vec.toNat (s.updCq n q fun c => { c with unsig := 0, timer := false })
  else s

/-- CQ_CFG written; a CQ with room again takes its held records, and fetching resumes (R63). -/
def cqCfg (n q : Nat) (value : Word) (s : State) : State :=
  let s1 := countMet n q (s.updCq n q (cqCfgFields value))
  fetchAll (roomMade n q s1)

/-- SQ_CFG_WRITE (R50 to R53). -/
def execSqCfgWrite (vi q : Nat) (value : Word) (s : State) : Out :=
  event (viOk vi && decide (q < 8)) (if s.viOn vi then sqCfg vi q value s else s)

/-- CQ_CFG_WRITE (R50 to R52). -/
def execCqCfgWrite (vi q : Nat) (value : Word) (s : State) : Out :=
  event (viOk vi && decide (q < 8)) (if s.viOn vi then cqCfg vi q value s else s)

/-! ## VI reset (R74, R75) -/

/-- VI_CTRL_RESET: a write of 1 to VI_CTRL.RESET (R74); a write of 0 starts nothing. -/
def execViCtrlReset (vi : Nat) (value : Word) (s : State) : Out :=
  event (viOk vi) (if s.viOn vi && value.getLsbD 0 then viReset vi s else s)

/-- FUNCTION_LEVEL_RESET (R74). One of VI0 leaves VF Enable, NumVFs and the VFs as they are (notes/assumptions/99.md). -/
def execFunctionLevelReset (vi : Nat) (s : State) : Out :=
  event (viOk vi) (if s.viOn vi then viReset vi s else s)

/-- The register page returns to its Reset values and READY to 1 (R75): the VI's entry leaves the table. -/
def viResetDone (n : Nat) (s : State) : State :=
  if (s.vi n).resetBusy then { s with vis := terase s.vis n } else s

/-- VI_RESET_COMPLETE (R75). -/
def execViResetComplete (vi : Nat) (s : State) : Out := event (viOk vi) (viResetDone vi s)

/-! ## Interrupts (R66, R776) -/

/-- The oldest unsignalled record of a CQ is IRQ_TIME µs old: the vector is raised; count and timer restart (R66). -/
def irqExpire (n c : Nat) (s : State) : State :=
  let q := (s.vi n).cq c
  if q.ien && q.timer && q.unsig != 0 then
    raiseVec n q.vec.toNat (s.updCq n c fun q => { q with unsig := 0, timer := false })
  else s

/-- IRQ_TIME_EXPIRE (R66). -/
def execIrqTimeExpire (vi cq : Nat) (s : State) : Out := event (viOk vi && decide (cq < 8)) (irqExpire vi cq s)

/-- A host write to one double word of an MSI-X table entry (R776); a cleared Mask bit sends a held message. -/
def msixWrite (n k dw : Nat) (value : Word) (s : State) : State :=
  sendPending n (s.updVi n fun v =>
    let e := v.vec k
    let e' : MsixEntry :=
      match dw with
      | 0 => { e with addr := BitVec.ofNat 64 (e.addr.toNat / 2 ^ 32 * 2 ^ 32 + value.toNat / 4 * 4) }
      | 1 => { e with addr := BitVec.ofNat 64 (value.toNat * 2 ^ 32 + e.addr.toNat % 2 ^ 32) }
      | 2 => { e with data := value }
      | _ => { e with mask := value.getLsbD 0 }
    { v with msix := tset v.msix k e' })

/-- MSI_X_TABLE_WRITE (R776). -/
def execMsiXTableWrite (vi entry dw : Nat) (value : Word) (s : State) : Out :=
  event (viOk vi && decide (entry < 4 ∧ dw < 4)) (if s.viOn vi then msixWrite vi entry dw value s else s)

end Sys2Proof.Machine
end

