-- ==== Sys2Proof/Machine/Faults.lean ====
section
/-! DEFINITION. Fault events, policy, notices, event records, watchdogs and block resets (spec/16_faults_safety.md; R654 to R656 of
spec/15_job_scheduling.md; R728 to R731 of spec/17_boot_identity_records.md). -/

namespace Sys2Proof.Machine

open Sys2Proof

/-! ## Events (R666 to R678) -/

/-- The command of an access ends with a status (R507, R509). -/
def failAccess (a : Option Access) (status : Byte) (reason : Half) (s : State) : State :=
  match a with
  | none => s
  | some x =>
    match s.open? { vi := x.vi, sq := x.sq, seq := x.seq } with
    | some o => failOpen o status reason (x.va / 64 * 64) 0 s
    | none => s

/-- A burst of HBM that an access names. -/
def State.burstAt (s : State) (a : Option Access) : Option (Nat × Nat × Nat) :=
  a.bind fun x => (s.xlate x.vi x.va).bind burstOf

/-- A write burst that failed its parity is stored as received (R507): the next reader finds the mismatch. -/
def markParity (a : Option Access) (s : State) : State :=
  match s.burstAt a with
  | some (k, f, b) => s.updStk k fun t =>
      { t with badParity := if t.badParity.contains (f, b) then t.badParity else t.badParity ++ [(f, b)] }
  | none => s

/-- A parity error in a pool slot of a Weir half ends the command of its chunk without a rerun (Table 13.14, WEIR_PARITY). -/
def poolParity (half slot : Nat) (s : State) : State :=
  match (s.fab.slots.filter fun t => t.half == half)[slot]? with
  | none => s
  | some t =>
    match s.collAt t.job t.group t.op with
    | some o => pumpAll (endColl o.pkt t.group t.op 0x31 0x0707 t.chunk 0 s)
    | none => s

/-- What an event leaves in the registers of its own block, and how the command whose data met the fault ends (R507 to
R509, R513). -/
def faultEffect (u n : Nat) (info : Word) (a : Option Access) (s : State) : State :=
  match unitKind u with
  | 3 | 8 | 10 | 12 => failAccess a 0x31 0x0110 s
  | 11 =>
    failAccess a 0x31 0x0110
      (markParity a (s.updHub ((u - 1926) / 3) fun x => { x with parity := satAdd x.parity n }))
  | 14 => s.updStk ((u - 1950) / 3) fun t => { t with ce := satAdd t.ce n }
  | 15 =>
    let bad (t : Stack) : List (Nat × Nat) :=
      let b := (bw info 29 15, bw info 14 0)
      if t.ueBursts.contains b then t.ueBursts else t.ueBursts ++ [b]
    if info.getLsbD 30 then
      s.updStk ((u - 1950) / 3) fun t => { t with ueScrub := satAdd t.ueScrub n, lastErr := info, ueBursts := bad t }
    else
      failAccess a 0x31 0x0111
        (s.updStk ((u - 1950) / 3) fun t => { t with ueRead := satAdd t.ueRead n, lastErr := info, ueBursts := bad t })
  | 20 => poolParity ((u - 2086) / 3) info.toNat s
  | _ => s

/-- FAULT_EVENT: `n` events of a unit in one core cycle (R667, R668). -/
def faultEvent (u n : Nat) (info : Word) (a : Option Access) (s : State) : State :=
  if n = 0 then s else faultEvents u n info.toNat (faultEffect u n info a s)

/-- FAULT_WINDOW_CLOSE: W boundaries have passed since the window opened (R666). -/
def windowClose (u : Nat) (s : State) : State :=
  if (s.fault u).left = 0 then s.updFault u fun f => { f with window := 0 } else s

/-- FAULT_EVENT (R667). -/
def execFaultEvent (unit count : Nat) (info : Word) (access : Option Access) (s : State) : Out :=
  event (decide (unit < 2100)) (faultEvent unit count info access s)
/-- FAULT_WINDOW_CLOSE (R666). -/
def execFaultWindowClose (unit : Nat) (s : State) : Out := event (decide (unit < 2100)) (windowClose unit s)

/-! ## Watchdogs and stalls (R678, R691 to R693) -/

/-- A core's watchdog has something to watch: a tile in progress on the unit, or an open capo request (R691). -/
def State.watched (s : State) (d c unit : Nat) : Bool :=
  match unit with
  | 1 | 2 => (s.tileOn d c .arrays).isSome
  | 3 => (s.tileOn d c .mvp).isSome
  | 4 => (s.tileOn d c .braid).isSome
  | 5 => (s.core d c).capoReq && !(s.core d c).atCapo
  | _ => false

/-- CORE_WDOG (R691). -/
def execCoreWdog (die core unit : Nat) (s : State) : Out :=
  event (isCore die core) (if s.watched die core unit then faultEvent1 (6 * coreIx die core + 4) unit s else s)
/-- TRIB_WDOG (R692). -/
def execTribWdog (die core : Nat) (s : State) : Out :=
  event (decide (die < 18 ∧ core < 4)) (faultEvent1 (1836 + 5 * die) core s)
/-- HW_FAULT: of the active pair (R34, R693). -/
def execHwFault (pair : Nat) (s : State) : Out :=
  event (decide (pair < 2)) (if b2n s.boot.pair = pair then faultEvent1 2096 pair s else s)
/-- HUB_ENGINE_STALL (R678). -/
def execHubEngineStall (hub engine : Nat) (s : State) : Out :=
  event (decide (hub < 8 ∧ engine < 2)) (faultEvent1 (1926 + 3 * hub + 2) engine s)
/-- PCIE_AER_ERROR (R678): an uncorrectable PCIe error. -/
def execPcieAerError (status : Word) (s : State) : Out := .next (faultEvent1 2095 status.toNat s)

/-! ## Registers of the units and of the ring (R664, R670, R677) -/

/-- FLT_STAT_CLEAR: ones clear SEVERE and EVENT; with both 0 the unit releases ERR_N (Table 16.3, R670). -/
def statClear (u : Nat) (value : Word) (s : State) : State :=
  s.updFault u fun f =>
    let sv := f.severe && !value.getLsbD 31
    let ev := f.event && !value.getLsbD 30
    { f with severe := sv, event := ev, errHeld := f.errHeld && (sv || ev) }

/-- FLT_NTC_CFG, as CQ_CFG: SIZE_LOG2 while EN is 0, EN with a legal size, and enabling zeroes head and tail (R50 to R52,
R677). -/
def ntcCfg (value : Word) (r : Ntc) : Ntc :=
  let size := if r.en then r.sizeLog2 else BitVec.ofNat 5 (bw value 4 0)
  let en := value.getLsbD 31 && sizeOk size.toNat
  let start := en && !r.en
  { r with sizeLog2 := size, en := en, head := if start then 0 else r.head, tail := if start then 0 else r.tail
           phase := if start then true else r.phase }

/-- FLT_NTC_CFG_WRITE (R677). -/
def execFltNtcCfgWrite (value : Word) (s : State) : Out := .next { s with ntc := ntcCfg value s.ntc }
/-- FLT_NTC_HEAD_WRITE: notices consumed (R62, R677). -/
def execFltNtcHeadWrite (value : Word) (s : State) : Out :=
  .next { s with ntc := { s.ntc with head := BitVec.ofNat 16 (bw value 15 0) } }
/-- FLT_STAT_CLEAR (R664, R670). -/
def execFltStatClear (unit : Nat) (value : Word) (s : State) : Out := event (decide (unit < 2100)) (statClear unit value s)

/-! ## FAULT_POLICY (R679 to R681) -/

/-- FLT_CFG and FLT_MASK (less KIND) of a unit, as the configuration store keeps them (Table 17.8, group 0x02). -/
def policyBytes (p : Packet) : List Byte :=
  leBytes 4 (bf p.p2 31 0) ++ leBytes 4 (bf p.p3 29 24 * 2 ^ 24 + bf p.p3 21 16 * 2 ^ 16 + bf p.p3 9 8 * 2 ^ 8)

/-- The settings that SET gives. -/
def policyCfg (p : Packet) : Byte × BitVec 24 × BitVec 6 × BitVec 6 × BitVec 2 :=
  (BitVec.ofNat 8 (bf p.p2 31 24), BitVec.ofNat 24 (bf p.p2 23 0), BitVec.ofNat 6 (bf p.p3 29 24),
   BitVec.ofNat 6 (bf p.p3 21 16), BitVec.ofNat 2 (bf p.p3 9 8))

/-- Defaults of a unit as the configuration store keeps them. -/
def defaultBytes (u : Nat) : List Byte :=
  let d := kindDefault (unitKind u)
  leBytes 4 (d.1 * 2 ^ 24 + d.2.1) ++ leBytes 4 (d.2.2.2 * 2 ^ 24 + d.2.2.1 * 2 ^ 16)

/-- FAULT_POLICY on its range: the units change and their windows close (R680). -/
def setPolicies (cfg : Option (Byte × BitVec 24 × BitVec 6 × BitVec 6 × BitVec 2)) (us : List Nat) (s : State) : State :=
  us.foldl (fun s u => s.updFault u fun f => { f with cfg := cfg, window := 0, left := 0 }) s

/-- FAULT_POLICY: the range first, then COUNT and N (R681), then a locked group (R721). -/
def faultPolicy (set : Bool) (p : Packet) (s : State) : State :=
  let first := bf p.p1 15 0
  let count := bf p.p1 31 16
  let save := p.p0.getLsbD 60
  if 2100 < first + count then postErr p 0x0F30 (max first 2100) s
  else if count = 0 ∨ (set ∧ bf p.p2 31 24 = 0) then postErr p 0x0F30 0xFFFF s
  else
    match lockRefusal save 2 s with
    | some e => refuse p e s
    | none =>
      let us := (List.range count).map (first + ·)
      let s1 := setPolicies (if set then some (policyCfg p) else none) us s
      let s2 := if save then
          us.foldl (fun s u => journal 2 u (if set then policyBytes p else defaultBytes u) s) s1
        else s1
      postDone p count 0 s2

/-- FAULT_POLICY, SET. -/
def effFaultPolicySet (p : Packet) (s : State) : State := faultPolicy true p s
/-- FAULT_POLICY, DEFAULTS. -/
def effFaultPolicyDefaults (p : Packet) (s : State) : State := faultPolicy false p s
/-- FAULT_POLICY_SET (R680). -/
def execFaultPolicySet (p : Packet) (s : State) : Out := submit effFaultPolicySet p s
/-- FAULT_POLICY_DEFAULTS (R680). -/
def execFaultPolicyDefaults (p : Packet) (s : State) : Out := submit effFaultPolicyDefaults p s

/-! ## Event records (R728, R730, R731) -/

/-- A record of this moment. -/
def State.recNow (s : State) (code a : Nat) : EvRec :=
  { code := BitVec.ofNat 16 code, source := 0xFFFF, cycles := s.boot.cycles, hours := s.boot.hours
    seconds := s.boot.seconds, p0 := BitVec.ofNat 32 a, p1 := 0, p2 := 0 }

/-- EVENT_RECORD_PROGRAM: the oldest waiting record is programmed at the next index, or EVREC_FULL at index 65,535 and none
after it (R731); once the queue has room, an EVREC_LOST record follows a loss (R730). -/
def programRecord (s : State) : State :=
  match s.boot.evQueue with
  | [] => s
  | e :: rest =>
    if s.boot.evFull then { s with boot := { s.boot with evQueue := [] } }
    else
      let full := 65535 ≤ s.boot.evNext
      let rec_ := if full then s.recNow 0x03FF s.boot.evNext else e
      let b := s.boot.evLostNew
      let lost := if b = 0 then [] else [s.recNow 0x0300 b]
      { s with
        flash := { s.flash with events := s.flash.events ++ [rec_] }
        boot := { s.boot with
          evNext := s.boot.evNext + 1, evFull := full, evLostNew := 0
          evQueue := if full then [] else rest ++ lost } }

/-- EVENT_RECORD_PROGRAM (R698, R728). -/
def execEventRecordProgram (s : State) : Out := .next (programRecord s)

/-! ## Block reset (R654 to R656, R16) -/

/-- A core's own test ends aborted when its reset or that of its standby falls into the slot (Table 16.12); the hand-over
stays. -/
def abortTest (d c : Nat) (s : State) : State :=
  let x := s.die d
  let met := x.testing.toNat = c ∨ (c = x.standby ∧ x.testing ≠ 0x1F)
  if met then s.updDie d fun x => { x with testing := 0x1F, tstAborted := satAdd x.tstAborted 1 } else s

/-- BLOCK_RESET: phase 1 fences the block; one that is in a reset already starts no second (R654, R672). -/
def blockReset (b : Block) (s : State) : State :=
  if s.blkRst.any fun r => r.block == b then s
  else
    let s1 := startBlockReset b s
    match b with
    | .core d c => abortTest d c s1
    | _ => s1

/-- A tile that a core's reset met: issued again once when a repeat is idempotent, else its command ends (R656,
Table 15.7). -/
def resetTile (b : Block) (o : OpenCmd) (t : Tile) (s : State) : State :=
  let again := t.kind ≠ 5 ∧ !(overwritesInputs (o.workOf t) t)
  if s.abortOn t.cmd then tileAborted o { idleUnit t.die t.core t.unit s with tiles := s.tiles.filter (· != t) }
  else if again ∧ t.reruns < 2 then
    countResets 1 0 { idleUnit t.die t.core t.unit s with
      tiles := s.tiles.map fun x => if x = t then { x with issued := false, staged := [], reruns := x.reruns + 2 } else x }
  else
    settleSlots (postReset o.pkt (if again then 0x0920 else 0x0921) (blockWord b) 0
      (dropTiles t.cmd (idleUnit t.die t.core t.unit s)))

/-- The tiles in progress on a core are answered BLOCK_RESET. -/
def resetTiles (d c : Nat) (s : State) : State :=
  (s.tiles.filter fun t => t.die == d && t.core == c && t.issued).foldl (fun s t =>
    match s.open? t.cmd with
    | some o => if s.tiles.contains t then resetTile (.core d c) o t s else s
    | none => s) s

/-- Registers of an array after a block reset (R16, R170, Table 5.12). -/
def resetArr (a : Arr) : Arr :=
  { a with state := 0, skipped := 0, mismatch := 0, lastValid := false, lastLocated := false, lastColumn := 0xFF
           lastVector := 0, active := 0, activeRest := 0 }

/-- Registers of a core after a block reset (R16; Tables 5.12 and 6.19): generators keep their state (R228). -/
def resetCore (k : Core) : Core :=
  { k with a := resetArr k.a, b := resetArr k.b, mvpRows := 0, mvpState := 0, mvpStream := 0, mvpRest := 0, mvpStall := 0
           half1 := 0, half0 := 0, brdSweep := 0, brdState := 0, brdActive := 0, brdRest := 0, genJob := 0xFFFF, genLoads := 0 }

/-- A page whose move the reset of its engine met: moved once more; the second time its MIGRATE ends and the page keeps its
home (R487). -/
def resetMove (h n g : Nat) (mv : PageMove) (s : State) : State :=
  if !mv.again then countResets 1 0 (setMove n g (fun m => { m with phase := 1, again := true }) s)
  else
    let s1 := releaseHome mv.target (s.updVi n fun v =>
      match tfind v.pages g with
      | some m => { v with pages := tset v.pages g { m with move := none } }
      | none => v)
    match mv.cmd.bind s1.open? with
    | some { pkt := p, prog := .migrate _ moved _ _ } => postReset p 0x0920 (blockWord (.hubEngine h 0)) moved s1
    | _ => s1

/-- Pages in motion that a hub's migration engine moves. -/
def State.movesOf (s : State) (h : Nat) : List (Nat × Nat × PageMove) :=
  s.vis.flatMap fun v => v.2.pages.filterMap fun e =>
    match e.2.move with
    | some m => if m.hub = h then some (v.1, e.1, m) else none
    | none => none

/-- Pool slots of a half that hold sums end their commands: a reduction partly added is not repeated (Table 15.7). -/
def resetPool (h : Nat) (s : State) : State :=
  let mine := s.fab.slots.filter fun t => t.half == h && !t.from_.isEmpty
  pumpAll (mine.foldl (fun s t =>
    match s.collAt t.job t.group t.op with
    | some o => countResets 0 1 (endColl o.pkt t.group t.op 0x30 0x0921 (blockWord (.weir h)) 0 s)
    | none => s) s)

/-- Phases 2 and 3: the requests that the reset met are answered, firmware repeats or ends them, and the block's registers
return to their Reset values (R16, R654, R656). -/
def drainReset (b : Block) (s : State) : State :=
  match b with
  | .core d c => (resetTiles d c s).updCore d c resetCore
  | .mover _ _ => s
  | .hubEngine h k =>
    if k = 0 then
      motionEnds <| ((s.movesOf h).foldl (fun s x => resetMove h x.1 x.2.1 x.2.2 s) s).updHub h fun x => { x with mig := 0, ahead := 0 }
    else s
  | .stackCtl k =>
    s.updStk k fun t =>
      { t with recalDue := false, ce := 0, ueScrub := 0, ueRead := 0, lastErr := 0, scrubDone := 0, rowErrs := []
               forced := 0, windows := 0 }
  | .weir h =>
    let s1 := resetPool h s
    { s1 with fab := { s1.fab with
        retx := 0, denied := 0, drops := 0, rtIndex := 0, pfxIndex := 0 } }
  | .sampler d =>
    s.updDie d fun x =>
      { x with smpQueued := 0, smpFull := false, smpCand := false, smpSelect := false, smpDraws := 0, smpNofinite := 0
               smpActive := 0, smpRest := 0 }
  | .tributary d =>
    s.updDie d fun x => { x with tilTiles := 0, tilLong := 0, tilCapo := 0, tilSplits := 0, tstSlots := 0, tstLast := 0 }

/-- BLOCK_RESET_DRAIN_END (R656). -/
def blockDrainEnd (b : Block) (s : State) : State :=
  if s.blkRst.any fun r => r.block == b && r.phase == 1 then
    let s1 := drainReset b s
    { s1 with blkRst := s1.blkRst.map fun r => if r.block = b then { r with phase := 2 } else r }
  else s

/-- BLOCK_RESET_REJOIN: the block accepts requests again; with the reset of a standby that met a slot the target takes its
work back (R654, Table 16.12). -/
def blockRejoin (b : Block) (s : State) : State :=
  if s.blkRst.any fun r => r.block == b && r.phase == 2 then
    let s1 := { s with blkRst := s.blkRst.filter fun r => r.block != b }
    match b with
    | .core d c =>
      if c = (s.die d).standby ∧ (s.die d).testing = 0x1F ∧ !(s.standsForGood d) then handBack d s1 else s1
    | _ => s1
  else s

/-- BLOCK_RESET (R654). -/
def execBlockReset (b : Block) (s : State) : Out := event (blockOk b) (blockReset b s)
/-- BLOCK_RESET_DRAIN_END (R656). -/
def execBlockResetDrainEnd (b : Block) (s : State) : Out := event (blockOk b) (blockDrainEnd b s)
/-- BLOCK_RESET_REJOIN (R654). -/
def execBlockResetRejoin (b : Block) (s : State) : Out := event (blockOk b) (blockRejoin b s)

end Sys2Proof.Machine
end

