-- ==== Sys2Proof/Machine/Test.lean ====
section
/-! DEFINITION. In-field test: the rotation, the sliced test and SELFTEST (R684 to R690 of spec/16_faults_safety.md). -/

namespace Sys2Proof.Machine

open Sys2Proof

/-! ## Slots (R684 to R686) -/

/-- Frets of a slot: S = ⌊100,000 / P⌋. -/
def State.slotFrets (s : State) : Nat := 100000 / s.ftu.periodUs.toNat

/-- The core that the rotation tests in the slot of this fret: the active cores in ascending order, then the standby. -/
def State.rotationCore (s : State) (d : Nat) : Option Nat :=
  let pos := s.ftu.count.toNat / s.slotFrets % 17
  if pos = 16 then some (s.die d).standby else (s.activeCoresOf d)[pos]?

/-- A slot of the die is in progress: a core is under test, or the standby has not given back its work. -/
def State.inSlot (s : State) (d : Nat) : Bool := (s.die d).testing != 0x1F || (s.die d).standFor != 0x1F

/-- A slot begins: a capo request to the target; the standby tests itself while it holds no work (Table 16.11). -/
def startSlot (d c : Nat) (s : State) : State :=
  let s1 := s.updDie d fun x => { x with testing := BitVec.ofNat 5 c }
  if c = (s.die d).standby then s1 else askCapo [(d, c)] s1

/-- SELFTEST CORE begins: in a slot of its own, or by slices where no standby is free (R689). -/
def beginCoreTest (d : Nat) (k : Key) (c : Nat) (s : State) : State :=
  let s1 := s.updDie d fun x => { x with coreTest := some (k, c), coreTestWaits := none }
  if !(s.die d).standbyFree then s1.updCore d c fun x => { x with slices := 0 }
  else if s.inSlot d then s1
  else startSlot d c s1

/-- The next slot of a die that has none in progress: of a SELFTEST CORE that waits, else of the rotation (R684, R689). -/
def nextSlot (d : Nat) (s : State) : State :=
  let x := s.die d
  if !s.ready || x.role != 1 || !x.standbyFree || s.inSlot d then s
  else
    match x.coreTest with
    | some (_, c) => startSlot d c s
    | none =>
      if x.rotate && !x.paused && s.ftu.count.toNat % s.slotFrets == 0 then
        match s.rotationCore d with
        | some c => startSlot d c s
        | none => s
      else s

/-- SELFTEST_SLOT_START: a SELFTEST CORE entered for this fret begins (R106, R107), else the next slot. -/
def slotStart (d : Nat) (s : State) : State :=
  match (s.die d).coreTestWaits with
  | some (k, c) => (match takeDue .selftest k s with | some s1 => beginCoreTest d k c s1 | none => nextSlot d s)
  | none => nextSlot d s

/-- The test result word (R685). -/
def resultWord (d c failUnit : Nat) : Nat := 2 ^ 31 * b2n (failUnit != 0) + c * 2 ^ 24 + d * 2 ^ 16 + failUnit

/-- A test of a core has been judged: counted, and a failure raises CORE_TEST (R685); a SELFTEST CORE of it completes. -/
def judgeTest (d c failUnit us : Nat) (s : State) : State :=
  let w := resultWord d c failUnit
  let s1 := s.updDie d fun x =>
    { x with tstSlots := satAdd x.tstSlots 1, tstFailed := satAdd x.tstFailed (b2n (failUnit != 0))
             tstLast := if failUnit = 0 then x.tstLast else BitVec.ofNat 32 w }
  let s2 := if failUnit = 0 then s1 else faultEvent1 (6 * coreIx d c + 5) w s1
  match (s2.die d).coreTest with
  | some (k, c') =>
    if c' ≠ c then s2
    else
      let s3 := s2.updDie d fun x => { x with coreTest := none }
      (match s3.open? k with | some o => postDone o.pkt w us s3 | none => s3)
  | none => s2

/-- SELFTEST_SLOT_END: the target's test ends with a failing unit (0: none) after `us` µs. A capo request goes to the standby,
whose work returns at its capo point, unless an NMI has left the standby in the target's place (R685, R686). -/
def slotEnd (d failUnit us : Nat) (s : State) : State :=
  let x := s.die d
  let c := x.testing.toNat
  let unbegun := x.testing ≠ 0x1F ∧ c ≠ x.standby ∧ x.standFor = 0x1F
  if !(s.inSlot d) || s.standsForGood d || unbegun then s
  else
    let s1 := s.updDie d fun y => { y with testing := 0x1F }
    let s2 := if x.testing = 0x1F then s1 else judgeTest d c failUnit us s1
    if s2.standsForGood d || x.standFor = 0x1F then s2 else askCapo [(d, x.standby)] s2

/-! ## Slices (R687) -/

/-- The cores of a die that a slice start concerns. -/
def State.sliceCores (s : State) (d : Nat) : List Nat :=
  let x := s.die d
  if x.standbyFree then []
  else if x.sliced then s.activeCoresOf d
  else match x.coreTest with | some (_, c) => [c] | none => []

/-- SLICE_START: the cores owe a slice at their next capo point. -/
def sliceStart (d : Nat) (s : State) : State :=
  let cs := (s.sliceCores d).filter fun c => !(s.core d c).inSlice
  askCapo (cs.map fun c => (d, c)) (cs.foldl (fun s c => s.updCore d c fun k => { k with sliceDue := true }) s)

/-- SLICE_END: the core's tiles go on; the thousandth slice ends its full test with a failing unit (0: none), `us` µs after
the start of the first. -/
def sliceEnd (d c failUnit us : Nat) (s : State) : State :=
  let k := s.core d c
  if !k.inSlice then s
  else
    let n := k.slices + 1
    let s1 := s.updCore d c fun k => { k with inSlice := false, slices := n % 1000 }
    if n < 1000 then s1 else judgeTest d c failUnit us s1

/-! ## SELFTEST (R689, R690) -/

/-- SELFTEST, CORE. -/
def effSelftestCore (p : Packet) (s : State) : State :=
  let d := bf p.p0 20 16
  let c := bf p.p0 12 8
  if 18 ≤ d ∨ 17 ≤ c then postFree p s
  else if (s.die d).role ≠ 1 ∨ 1 < s.role d c then postErr p 0x0A01 (d * 256 + c) s
  else
    match (s.die d).coreTest.or (s.die d).coreTestWaits with
    | some (_, c') => postCap p 0x0A02 (d * 256 + c') s
    | none =>
      if p.p1 = 0 then beginCoreTest d p.key c (s.openCmd p (.selftest d c))
      else
        match schedRefusal p.p1.toNat s with
        | some e => refuse p e s
        | none =>
          (schedule .selftest p.p1.toNat (some p.key) (s.openCmd p (.selftest d c))).updDie d fun x =>
            { x with coreTestWaits := some (p.key, c) }

/-- SELFTEST, SLICED: INTERVAL 0 means 1,000 µs. -/
def effSelftestSliced (p : Packet) (s : State) : State :=
  let d := bf p.p0 20 16
  let us := if bf p.p2 31 0 = 0 then 1000 else bf p.p2 31 0
  if 18 ≤ d ∨ us < 1000 ∨ 1000000 < us then postFree p s
  else
    let s1 := s.updDie d fun x => { x with sliced := true, interval := us }
    postDone p 0 0 ((List.range 17).foldl (fun s c => s.updCore d c fun k => { k with slices := 0 }) s1)

/-- SELFTEST, STOP. -/
def effSelftestStop (p : Packet) (s : State) : State :=
  let d := bf p.p0 20 16
  if 18 ≤ d then postFree p s
  else
    let s1 := s.updDie d fun x => { x with sliced := false }
    postDone p 0 0 ((List.range 17).foldl (fun s c => s.updCore d c fun k => { k with sliceDue := false }) s1)

/-- SELFTEST, ROTATION: the rotation pauses after the slot in progress, or goes on. -/
def effSelftestRotation (p : Packet) (s : State) : State :=
  let d := bf p.p0 20 16
  if 18 ≤ d then postFree p s
  else postDone p 0 0 (s.updDie d fun x => { x with paused := !p.p0.getLsbD 24 })

/-- SELFTEST_CORE (R689). -/
def execSelftestCore (p : Packet) (s : State) : Out := submit effSelftestCore p s
/-- SELFTEST_SLICED (R687). -/
def execSelftestSliced (p : Packet) (s : State) : Out := submit effSelftestSliced p s
/-- SELFTEST_STOP (R689). -/
def execSelftestStop (p : Packet) (s : State) : Out := submit effSelftestStop p s
/-- SELFTEST_ROTATION (R689). -/
def execSelftestRotation (p : Packet) (s : State) : Out := submit effSelftestRotation p s
/-- SELFTEST_SLOT_START (R684). -/
def execSelftestSlotStart (die : Nat) (s : State) : Out := event (decide (die < 18)) (slotStart die s)
/-- SELFTEST_SLOT_END (R685). -/
def execSelftestSlotEnd (die failUnit us : Nat) (s : State) : Out := event (decide (die < 18)) (slotEnd die failUnit us s)
/-- SLICE_START (R687). -/
def execSliceStart (die : Nat) (s : State) : Out := event (decide (die < 18)) (sliceStart die s)
/-- SLICE_END (R687). -/
def execSliceEnd (die core failUnit us : Nat) (s : State) : Out := event (isCore die core) (sliceEnd die core failUnit us s)

end Sys2Proof.Machine
end

