-- ==== Sys2Proof/Machine/Boot.lean ====
section
/-! DEFINITION. Chip reset, boot and power-on self-test (R15, R673, R698 to R713; R26, R36, R169, R499; R725, R727). -/

namespace Sys2Proof.Machine

open Sys2Proof

/-! ## Chip reset (R15, R673, R717, R745) -/

/-- Program every waiting record (R673: the event record is completed first). -/
def programAll : Nat → State → State
  | 0, s => s
  | n + 1, s => if s.boot.evQueue.isEmpty then s else programAll n (programRecord s)

/-- Boot registers after a chip reset: the time counts of R729 go on; the next index is the first free one (R732). -/
def bootAfter (reason : Nat) (records : List EvRec) (s : State) : Boot :=
  let full := decide (65536 ≤ s.flash.events.length)
  { reason := BitVec.ofNat 8 reason, seconds := s.boot.seconds, hours := s.boot.hours, timedOut := s.boot.timedOut
    evNext := s.flash.events.length, evFull := full, evQueue := if full then [] else records }

/-- Power state after a chip reset: supply and pins stay, and what counts or holds since the power-on (Table 18.13). -/
def powerAfter (w : Power) : Power :=
  { pwrEn := w.pwrEn, good := w.good, perst := w.perst, railsOn := w.railsOn, tripped := w.tripped, energyMj := w.energyMj
    temps := w.temps }

/-- Every block of the module at its Reset values (R15): what is outside it stays, and the flash (R698). -/
def freshModule (w : Power) (b : Boot) (s : State) : State :=
  { pending := s.pending, power := w, boot := b, flash := s.flash, hostMem := s.hostMem, remMem := s.remMem
    tap := s.tap, tdo := s.tdo, msixOut := s.msixOut, busRead := s.busRead, fresh := s.fresh
    fab := { ports := s.fab.ports.map fun e => (e.1, ({ cable := e.2.cable } : Port)) } }

/-- The CHIP_RESET record (Table 17.14); a fault reaction names its unit as the source (Table 17.13). -/
def resetRec (reason : Nat) (s : State) : EvRec :=
  { s.recNow 0x0200 reason with source := if reason = 1 then BitVec.ofNat 16 s.boot.resetUnit else 0xFFFF }

/-- The chip resets. The waiting event records are completed, but for a reset by PERST_N, which holds the management plane
itself (R673, R745). Every job ends without records (R717). A boot follows at its own t = 0. -/
def chipReset (reason : Nat) (s : State) : State :=
  let s1 := if reason = 3 then s else programAll (s.boot.evQueue.length + 1) s
  freshModule (powerAfter s.power) (bootAfter reason [resetRec reason s] s1) s1

/-- CHIP_RESET of a fault reaction that has been decided (R673), of FW_ACTIVATE (R717) or of PERST_N (R745). -/
def chipResetRow (reason : Nat) (s : State) : State :=
  let due := (reason == 1 && s.boot.resetDecided) || (reason == 2 && s.boot.resetDue) || (reason == 3 && s.power.perst)
  if due then chipReset reason s else s

/-- CHIP_RESET (R673). -/
def execChipReset (reason : Nat) (s : State) : Out := .next (chipResetRow reason s)

/-- ACTIVATE_CHIP_RESET: 10 ms after the DONE of FW_ACTIVATE (R717). -/
def execActivateChipReset (s : State) : Out := .next (if s.boot.resetDue then chipReset 2 s else s)

/-- A boot runs: from t = 0 to READY, FAILED or RECOVERY. -/
def State.booting (s : State) : Bool := s.boot.stage != 0 && s.boot.stage != 9

/-- TRIAL_TIMEOUT: a trial boot without READY, one in FAILED too, ends in a chip reset (R713). -/
def trialTimeout (s : State) : State :=
  if s.boot.trial && s.boot.stage != 0 && s.boot.state != 4 then chipReset 2 { s with boot := { s.boot with timedOut := true } } else s

/-- TRIAL_TIMEOUT (R713). -/
def execTrialTimeout (s : State) : Out := .next (trialTimeout s)

/-! ## t = 0 (R85, R701, R743) -/

/-- BOOT_START: with PWR_GOOD high and PERST_N deasserted the management plane leaves reset; stage 1 begins and the fret
counter takes 0 (R85). -/
def bootStart (s : State) : State :=
  if s.boot.stage = 0 ∧ s.power.good ∧ s.power.railsOn then
    { s with boot := { s.boot with stage := 1 }, power := { s.power with perst := false }, ftu := { s.ftu with count := 0 } }
  else s

/-- BOOT_START (R701). -/
def execBootStart (s : State) : Out := .next (bootStart s)

/-! ## Counters of the flash (R699, Table 17.2) -/

/-- The read of a counter fails authentication in this stage. -/
def badCounter (r : StageReport) (k : Nat) : Bool := r.badCounters.any fun e => e.1 == k

/-- Each failed read raises FLASH with its flash address (R699, Table 16.5). -/
def counterFaults (r : StageReport) (s : State) : State := r.badCounters.foldl (fun s e => faultEvent1 2099 e.2 s) s

/-! ## Stages 1 and 2 -/

/-- Stage 1: the pair that passes its self-test takes the boot (R702); POWER_CYCLES rises on a power-on (R699). With no pair
the boot goes no further. -/
def stage1 (r : StageReport) (s : State) : State :=
  if !r.xd0Ok && !r.xd1Ok then s
  else
    let cycles := if s.boot.fromPowerOn then satAdd s.flash.powerCycles 1 else s.flash.powerCycles
    let s1 := { s with
      flash := { s.flash with powerCycles := cycles }
      boot := { s.boot with
        stage := 2, pair := !r.xd0Ok, cycles := if badCounter r 2 then 0xFFFFFFFF else cycles
        hours := if badCounter r 3 ∧ s.boot.fromPowerOn then 0xFFFFFFFF else s.boot.hours } }
    if r.xd0Ok then s1 else evrec 0x0003 0xFFFF r.xd0Result.toNat 0 0 s1

/-- The security engine reconstructs the PUF response and derives the DeviceID seed and key (R725); the Alias key waits for the
running slot. -/
def deriveIdentity (helper : List Byte) : Identity :=
  let puf := Config.pufResponse helper
  let seed := hkdf512 Config.seedSalt puf Config.seedInfo
  { puf := puf, seed := seed, deviceKey := Config.deviceScalar seed, aliasKey := none, aliasCert := [] }

/-- The Alias key of the running slot, and its certificate (R725). -/
def Identity.withSlot (k : Identity) (digest : List Byte) : Identity :=
  let a := Config.aliasScalar k.seed digest
  { k with aliasKey := some a, aliasCert := Config.aliasCert (publicKey a) k.deviceKey }

/-- Stage 2: identity, or a boot without it (R725, R727). -/
def stage2 (r : StageReport) (s : State) : State :=
  let s1 := { s with boot := { s.boot with
    stage := 3, identity := r.identity == 0
    keys := if r.identity = 0 then some (deriveIdentity s.flash.helper) else none } }
  if r.identity = 0 then s1 else evrec 0x000A 0xFFFF r.identity 0 0 s1

/-! ## Stage 3: firmware slots (R711, R712) -/

/-- A firmware slot, by its letter. -/
def State.fwSlot (s : State) (b : Bool) : FwSlot := if b then s.flash.slotB else s.flash.slotA

/-- A slot is valid under FW_SVN (R711). -/
def State.slotValid (s : State) (b : Bool) : Bool := (s.fwSlot b).bad == 0 && decide (s.flash.fwSvn.toNat ≤ (s.fwSlot b).svn.toNat)

/-- Cause for which stage 3 finds a slot invalid (Table 17.14), 0 for a valid one. -/
def slotCause (r : StageReport) (b : Bool) (s : State) : Nat :=
  let found := if b then r.slotB else r.slotA
  if found ≠ 0 then found
  else if badCounter r 0 ∨ (s.fwSlot b).svn.toNat < s.flash.fwSvn.toNat then 4
  else 0

/-- Every slot that is found invalid is recorded (R712). -/
def recordSlot (b : Bool) (s : State) : State :=
  let x := s.fwSlot b
  if x.bad = 0 then s else evrec 0x0004 0xFFFF (b2n b) x.bad x.version.toNat s

/-- The checks of stage 3 on both slots: the preferred one first. -/
def checkSlots (r : StageReport) (s : State) : State :=
  let a := slotCause r false s
  let b := slotCause r true s
  let s1 := { s with flash := { s.flash with
    slotA := { s.flash.slotA with bad := a }, slotB := { s.flash.slotB with bad := b } } }
  recordSlot (!s.flash.preferredB) (recordSlot s.flash.preferredB s1)

/-- Set the trial state of the boot selector. -/
def setTrial (t : Nat) (s : State) : State := { s with flash := { s.flash with trial := t } }

/-- TRIAL_FAILED names the slot of the trial, the one that is not PREFERRED (Table 17.14). -/
def trialFailed (cause : Nat) (s : State) : State :=
  let b := !s.flash.preferredB
  evrec 0x0005 0xFFFF (b2n b) cause (s.fwSlot b).version.toNat s

/-- The slot that boots, whether it is a trial, and the selector's change (R712); none when neither is valid. -/
def chooseSlot (s : State) : Option Bool × Bool × State :=
  let p := s.flash.preferredB
  let ok (b : Bool) : Bool := (s.fwSlot b).bad == 0
  let normal := if ok p then some p else if ok (!p) then some (!p) else none
  match s.flash.trial with
  | 1 => if ok (!p) then (some (!p), true, setTrial 2 s) else (normal, false, trialFailed 1 (setTrial 0 s))
  | 2 => (normal, false, trialFailed (if s.boot.timedOut then 2 else 3) (setTrial 0 s))
  | _ => (normal, false, s)

/-- BOOT_FW_ALT: VERSION in the other slot, 0 when not valid (Table 17.18). -/
def State.altVersion (s : State) : Word := if s.slotValid (!s.boot.slotB) then (s.fwSlot (!s.boot.slotB)).version else 0

/-- Stage 3: a slot is chosen and verified, or the module enters RECOVERY (R712). -/
def stage3 (r : StageReport) (s : State) : State :=
  let (slot, trial, s1) := chooseSlot (checkSlots r s)
  match slot with
  | none => { s1 with boot := { s1.boot with stage := 9, state := 1, timedOut := false, preferred := s1.flash.preferredB } }
  | some b =>
    let s2 := { s1 with boot := { s1.boot with
      stage := 4, state := 2, timedOut := false, slotB := b, trial := trial, preferred := s1.flash.preferredB
      fw := (s1.fwSlot b).version, svn := s1.flash.fwSvn
      keys := s1.boot.keys.map fun (k : Identity) => k.withSlot (s1.fwSlot b).digest } }
    let s3 := { s2 with boot := { s2.boot with fwAlt := s2.altVersion } }
    evrec 0x0001 0xFFFF (s3.boot.reason.toNat + 2 ^ 8 * b2n b + 2 ^ 16 * b2n s3.boot.pair) s3.boot.fw.toNat
      s3.flash.fwSvn.toNat s3

/-! ## Stage 4: the configuration store (R718 to R720) -/

/-- A later layer's value of a setting takes the place of an earlier one (R718). -/
def putSetting (l : List (Nat × Nat × List Byte)) (e : Nat × Nat × List Byte) : List (Nat × Nat × List Byte) :=
  if l.any fun x => x.1 == e.1 && x.2.1 == e.2.1 then
    l.map fun x => if x.1 = e.1 ∧ x.2.1 = e.2.1 then e else x
  else l ++ [e]

/-- Why stage 4 applies none of the owner image (R718): 1 signature, 2 generation; none: it applies. -/
def ownerCause (r : StageReport) (s : State) (o : Owner) : Option Nat :=
  if !r.ownerOk then some 1
  else if badCounter r 1 ∨ o.gen ≠ s.flash.cfgGen then some 2
  else none

/-- Why stage 4 skips a journal record (R720): 1 seal, 3 locked group; none: it applies. -/
def journalCause (r : StageReport) (lock : Half) (j : JournalRec) : Option Nat :=
  if r.badSeals.contains j.seq then some 1 else if lock.getLsbD j.group then some 3 else none

/-- The journal, in sequence order (R720). -/
def applyJournal (r : StageReport) (lock : Half) : List JournalRec → State → State
  | [], s => s
  | j :: t, s =>
    match journalCause r lock j with
    | some c =>
      applyJournal r lock t (evrec 0x0008 0xFFFF 2 c j.seq
        { s with boot := { s.boot with skipped := satAdd s.boot.skipped 1 } })
    | none =>
      applyJournal r lock t { s with boot := { s.boot with
        settings := putSetting s.boot.settings (j.group, j.item, j.value), records := satAdd s.boot.records 1 } }

/-- Stage 4: the settings in force, in three layers (R718). -/
def stage4 (r : StageReport) (s : State) : State :=
  let s1 := { s with boot := { s.boot with stage := 5, owner := s.flash.ownerKey.isSome } }
  let s2 :=
    match s.flash.owner with
    | none => s1
    | some o =>
      match ownerCause r s o with
      | some c => evrec 0x0008 0xFFFF 1 c o.gen.toNat s1
      | none => { s1 with boot := { s1.boot with
          gen := o.gen, lock := o.lock, settings := o.settings.foldl putSetting [] } }
  applyJournal r s2.boot.lock s2.flash.journal s2

/-! ## Stage 5: clocks and power (R748, R752) -/

/-- The cap step of a cap C in units of 50 W (R748): the largest s from 4 to 32 whose predicted input, (5.8 s / 32 + 1.41) /
0.90125 kW (R41), does not exceed it. -/
def capStepOf (cap : Nat) : Nat :=
  ((List.range 33).filter fun s => decide (4 ≤ s ∧ 580000 * s + 4512000 ≤ 144200 * cap)).foldl max 4

/-- The cap step changes; a limit that lay at the old cap step goes with it, none lies above the new one. -/
def setCap (cap : Nat) (w : Power) : Power :=
  let n := capStepOf cap
  let follow (x : Nat) : Nat := if x = w.capStep then n else min x n
  { w with cap := cap, capStep := n, thermalStep := follow w.thermalStep, measStep := follow w.measStep
           throttling := w.throttling && follow w.thermalStep != n }

/-- Stage 5: power and clocks of the dies; the cap of configuration group 0x08, taken as it stands (notes/assumptions/98.md). -/
def stage5 (s : State) : State :=
  { s with
    boot := { s.boot with stage := 6, state := 3 }
    power := setCap (((s.setting 8 0).map leNat).getD 160) s.power }

/-! ## Stage 6: power-on self-test (R35, R36, R169 to R171, R499, R500, R709, R710) -/

/-- Failed physical columns of an array, ascending. -/
def failedCols (r : StageReport) (d c a : Nat) : List Nat :=
  (List.range 130).filter fun k => r.badColumns.contains (d, c, a, k)

/-- A core is good: it passed, and no array of it has more than two failed columns (R35). -/
def coreGood (r : StageReport) (d c : Nat) : Bool :=
  (r.goodCores.getD d 0).getLsbD c && decide ((failedCols r d c 0).length ≤ 2 ∧ (failedCols r d c 1).length ≤ 2)

/-- Good cores of a die. -/
def goodCount (r : StageReport) (d : Nat) : Nat := ((List.range 17).filter (coreGood r d)).length

/-- The (failed data column, spare) pairs of an array: its good spares in order (R169). -/
def repairsOf (cols : List Nat) : List (Nat × Nat) :=
  (cols.filter (· < 128)).zip ([128, 129].filter fun k => !(cols.contains k))

/-- REPAIR0, REPAIR1 and CHK_MODE of an array (R169, R171). -/
def repairArr (cols : List Nat) (a : Arr) : Arr :=
  let col (k : Nat) : Byte := BitVec.ofNat 8 (((repairsOf cols).find? fun e => e.2 == k).map (·.1) |>.getD 0xFF)
  { a with repair0 := col 128, repair1 := col 129, chkMode := BitVec.ofNat 2 (2 - cols.length) }

/-- A hinted item fails its test again (Table 17.5). -/
def hintFails (r : StageReport) (h : Hint) : Bool :=
  let l := h.location
  let x := h.detail.toNat
  match h.kind.toNat with
  | 1 => (r.repairs.any fun e => e.1 == bw l 7 0 && e.2.2 == x) || r.retired.contains (bw l 7 0, bw l 23 8)
  | 2 => r.badColumns.contains (bw l 20 16, bw l 12 8, bw l 0 0, x)
  | 3 => !(coreGood r (bw l 20 16) (bw l 12 8))
  | 4 => decide (goodCount r (bw l 4 0) < 16)
  | 5 => r.badStacks.any fun e => e.1 == bw l 7 0
  | 6 => r.retired.contains (bw l 7 0, bw l 23 8)
  | 7 => bw l 31 24 == 1 && !(coreGood r (bw l 23 16) (bw l 15 8))
  | _ => false

/-- Hints after the extended tests: one that passes at three boots in a row is dropped (R710). -/
def judgeHints (r : StageReport) (hs : List Hint) : List Hint :=
  (hs.map fun h => { h with passes := if hintFails r h then 0 else h.passes + 1 }).filter fun h => h.passes.toNat < 3

/-- A hint for a new repair or retirement (R710). -/
def newHint (kind loc detail : Nat) (s : State) : State :=
  if s.flash.hints.any fun h => h.kind.toNat == kind && h.location.toNat == loc && h.detail.toNat == detail then s
  else addHint kind loc detail s

/-- Self-test of one array: its repairs with their records and hints. -/
def testArray (r : StageReport) (d c a : Nat) (s : State) : State :=
  let cols := failedCols r d c a
  let s1 := s.updCore d c fun k =>
    if a = 0 then { k with a := repairArr cols k.a } else { k with b := repairArr cols k.b }
  (repairsOf cols).foldl (fun s e =>
    newHint 2 (locWord e.1 d c a) e.1 (evrec 0x0012 0xFFFF (locWord e.1 d c a) e.1 e.2 s)) s1

/-- Self-test of one core: repaired, or removed (R35). -/
def testCore (r : StageReport) (d c : Nat) (s : State) : State :=
  if coreGood r d c then testArray r d c 1 (testArray r d c 0 (s.updCore d c fun k => { k with good := true }))
  else
    let w := ((r.coreWords.find? fun e => e.1 == d && e.2.1 == c).map fun e => e.2.2.toNat).getD 0
    newHint 3 (locWord 0xFF d c 0) c (evrec 0x0011 0xFFFF (d * 256 + c) w 0 s)

/-- Self-test of one die: failed with fewer than 16 good cores (R36). -/
def testDie (r : StageReport) (d : Nat) (s : State) : State :=
  if goodCount r d < 16 then newHint 4 d 0 (evrec 0x0010 0xFFFF d (goodCount r d) 0 s)
  else (List.range 17).foldl (fun s c => testCore r d c s) s

/-- Soft repairs in force in a stack: the hinted ones, applied before training, and the new ones (R499). -/
def softCount (r : StageReport) (k : Nat) (hs : List Hint) : Nat :=
  ((hs.filter fun h => h.kind == 1 && bw h.location 7 0 == k).length + (r.repairs.filter fun e => e.1 == k).length)

/-- Training and test of one stack (R499, R500); the oxbow size of the configuration store (R583). -/
def testStack (r : StageReport) (hs : List Hint) (k : Nat) (s : State) : State :=
  match r.badStacks.find? fun e => e.1 == k with
  | some (_, cause) =>
    let s1 := newHint 5 k 0 (evrec 0x0013 0xFFFF k cause 0 (s.updStk k fun t => { t with state := 2 }))
    if cause = 1 then faultEvent1 (1950 + 3 * k + 2) 0 s1 else s1
  | none =>
    let gone := (r.retired.filter fun e => e.1 == k).map (·.2)
    let s1 := s.updStk k fun t => { t with
      state := 1, oxbow := BitVec.ofNat 3 (((s.setting 7 k).map leNat).getD 0), soft := satAdd 0 (softCount r k hs)
      retired := gone, retiredCount := satAdd 0 gone.length }
    let s2 := (r.repairs.filter fun e => e.1 == k).foldl (fun s e => newHint 1 (k + 256 * e.2.1) e.2.2 s) s1
    gone.foldl (fun s f => newHint 6 (k + 256 * f) 0 (evrec 0x0014 0xFFFF k f 0 s)) s2

/-- Mode and role of a port from the configuration store (R516, R517); one with its cable mated trains. -/
def setPort (q : Nat) (s : State) : State :=
  let role := match s.setting 5 q with | some b => blk b 1 1 == 1 | none => q == 9 || q == 19
  s.updPort q fun t => { t with eth := s.portSetting q 0 1 == 1, spare := role, state := if t.cable then 1 else 0 }

/-- Stage 6: hinted items first, then everything (R709); a half with a hint whose CRC fails is ignored (R710); a port that is
not trained goes on training (R705). -/
def stage6 (r : StageReport) (s : State) : State :=
  let hs := if r.hintsBad then [] else s.flash.hints
  let s1 := { s with flash := { s.flash with hints := judgeHints r hs }, boot := { s.boot with stage := 7 } }
  let s2 := (List.range 18).foldl (fun s d => testDie r d s) s1
  let s3 := (List.range 32).foldl (fun s k => testStack r hs k s) s2
  let s4 := (List.range 20).foldl (fun s q => setPort q s) s3
  r.ports.foldl (fun s e => if e.1 < 20 then s.updPort e.1 (portUp e.2.1 e.2.2.1 e.2.2.2) else s) s4

/-! ## Stage 7: roles (R22, R26, R36, R37, R707) -/

/-- Sublists of a length, in lexicographic order of a rising list. -/
def choose : Nat → List Nat → List (List Nat)
  | 0, _ => [[]]
  | _ + 1, [] => []
  | n + 1, x :: t => (choose n t).map (x :: ·) ++ choose (n + 1) t

/-- Stacks home to at least one die of a set (Table 1.2). -/
def coverOf (ds : List Nat) : Nat := ((List.range 32).filter fun k => ds.any fun d => (homeStacks d).contains k).length

/-- The active dies of a set of good dies (R26): of the sets of 16, the first of the largest cover; all when at most 16 are
good (R37). -/
def pickActive (good : List Nat) : List Nat :=
  if good.length ≤ 16 then good
  else
    match choose 16 good with
    | [] => good
    | x :: t => t.foldl (fun best y => if coverOf best < coverOf y then y else best) x

/-- A compute die with at least 16 good cores (R36). -/
def State.dieGood (s : State) (d : Nat) : Bool :=
  decide (16 ≤ ((List.range 17).filter fun c => (s.core d c).good).length)

/-- Roles of the cores of an active die: with all 17 good the seventeenth is the free standby; else a failed core is removed
and the other 16 are active. -/
def setCores (d : Nat) (s : State) : State :=
  let all := (List.range 17).all fun c => (s.core d c).good
  let s1 := (List.range 17).foldl (fun s c =>
    s.updCore d c (setRole (if !(s.core d c).good then 2 else if all && c == 16 then 1 else 0))) s
  s1.updDie d fun x => { x with role := 1, standby := 16, standbyFree := all }

/-- A bit map of dies. -/
def dieMap (ds : List Nat) : Nat := (ds.map fun d => 2 ^ d).sum

/-- Active cores of the module. -/
def State.coreTotal (s : State) : Nat := (s.activeDies.map fun d => (s.activeCoresOf d).length).sum

/-- Stacks in service. -/
def State.stackTotal (s : State) : Nat := ((List.range 32).filter s.inService).length

/-- Stage 7: roles; FAILED with no good die or no stack (R707). -/
def stage7 (s : State) : State :=
  let good := (List.range 18).filter s.dieGood
  let act := pickActive good
  let s1 := (List.range 18).foldl (fun s d =>
    if act.contains d then setCores d s
    else s.updDie d fun x => { x with role := if good.contains d then 2 else 3 }) s
  let s2 := { s1 with boot := { s1.boot with
    stage := 8, dies := BitVec.ofNat 18 (dieMap act)
    spares := BitVec.ofNat 18 (dieMap (good.filter fun d => !(act.contains d)))
    resources := BitVec.ofNat 32 (s1.stackTotal * 2 ^ 24 + act.length * 2 ^ 16 + s1.coreTotal) } }
  if good.isEmpty || s1.stackTotal == 0 then
    fetchAll { s2 with boot := { s2.boot with stage := 9, state := 5 } }
  else s2

/-! ## Stage 8 and READY (R95, R659, R664, R704, R706, R771) -/

/-- FTU role, master ID and period of the configuration store, taken at the next boundary (R95, R773). A stored period is not
checked against R86 and keeps 10 bits (notes/assumptions/107.md). -/
def bootFtu (s : State) : State :=
  let v := ((s.setting 1 0).map leNat).getD 0
  let us := ((s.setting 1 1).map leNat).getD 10
  s.updFtu fun f => { f with
    pendingRole := some (BitVec.ofNat 2 (bn v 17 16), BitVec.ofNat 16 v), bootPeriod := some (BitVec.ofNat 10 us) }

/-- Settings of a fault unit from FLT_CFG and FLT_MASK as kept in the store. -/
def cfgOfBytes (b : List Byte) : Byte × BitVec 24 × BitVec 6 × BitVec 6 × BitVec 2 :=
  let x := blk b 0 4
  let y := blk b 4 4
  (BitVec.ofNat 8 (bn x 31 24), BitVec.ofNat 24 x, BitVec.ofNat 6 (bn y 29 24), BitVec.ofNat 6 (bn y 21 16),
   BitVec.ofNat 2 (bn y 9 8))

/-- Route entries of a record: 8 entries of 32 bits from module 8 × item on; what WEIR_RT_DATA calls res is not kept (R17). -/
def loadRoutes (item : Nat) (b : List Byte) (t : Tbl Word) : Tbl Word :=
  (List.range 8).foldl (fun t i =>
    let w := BitVec.ofNat 32 (blk b (4 * i) 4) &&& 0x800FFFFF
    if w = 0 then terase t (8 * item + i) else tset t (8 * item + i) w) t

/-- Prefixes of a record: 4 pods. -/
def loadPrefixes (k : Nat) (b : List Byte) (t : Tbl Dword) : Tbl Dword :=
  (List.range 4).foldl (fun t i =>
    let w := BitVec.ofNat 64 (blk b (8 * i) 8)
    if w = 0 then terase t (4 * k + i) else tset t (4 * k + i) w) t

/-- One setting in force takes effect in stage 8. Groups 1 and 5 to 8 have taken theirs; the scheduling mode at READY is STEP
whatever is saved (R646, R706). -/
def applySetting (s : State) (e : Nat × Nat × List Byte) : State :=
  let item := e.2.1
  let b := e.2.2
  match e.1 with
  | 2 => if item < 2100 then s.updFault item fun f => { f with cfg := some (cfgOfBytes b) } else s
  | 3 =>
    if item ≤ 4096 then
      { s with quotas := tset s.quotas item { cls := blk b 0 4 % 4, pages := blk b 4 4 % 2 ^ 24, jobs := blk b 8 4 % 2 ^ 11 } }
    else s
  | 4 =>
    if item < 8192 then { s with fab := { s.fab with routes := loadRoutes item b s.fab.routes } }
    else if item < 8208 then { s with fab := { s.fab with prefixes := loadPrefixes (item - 8192) b s.fab.prefixes } }
    else s
  | _ => s

/-- READY (R706): the READY record, BOOT_TIME, the no-job seed (R771), the rotating test of the dies with a free standby
(R684), and fetching from the tails that doorbells have set (R704). -/
def enterReady (ms : Nat) (s : State) : State :=
  let s1 := { s with
    boot := { s.boot with stage := 9, state := 4, time := BitVec.ofNat 32 ms }
    sched := { s.sched with stepMode := true }, noJobSeed := s.ftu.count }
  let s2 := s1.activeDies.foldl (fun s d => s.updDie d fun x => { x with rotate := x.standbyFree }) s1
  let up := ((List.range 20).filter fun q => (s2.port q).state == 2).length
  let s3 := evrec 0x0002 0xFFFF ms s2.boot.dies.toNat (s2.coreTotal + s2.stackTotal * 2 ^ 16 + up * 2 ^ 24) s2
  fetchAll s3

/-- Stage 8. -/
def stage8 (r : StageReport) (s : State) : State := enterReady r.ms (s.boot.settings.foldl applySetting (bootFtu s))

/-- BOOT_STAGE_END: the stage in progress ends with what it found, and the next follows (R701). -/
def bootStageEnd (r : StageReport) (s : State) : State :=
  let s0 := if s.booting then counterFaults r s else s
  match s.boot.stage with
  | 1 => stage1 r s0
  | 2 => stage2 r s0
  | 3 => stage3 r s0
  | 4 => stage4 r s0
  | 5 => stage5 s0
  | 6 => stage6 r s0
  | 7 => stage7 s0
  | 8 => stage8 r s0
  | _ => s

/-- BOOT_STAGE_END (R701). -/
def execBootStageEnd (r : StageReport) (s : State) : Out := .next (bootStageEnd r s)

end Sys2Proof.Machine
end

