-- ==== Sys2Proof/Machine/Power.lean ====
section
/-! DEFINITION. Power, clock and temperature, the host and management buses and the debug port
(spec/18_pins_power_electrical.md; R708, R727, R729). -/

namespace Sys2Proof.Machine

open Sys2Proof

/-! ## Power-on and power-off (R741 to R747, R756) -/

/-- The module without power on its dies: the flash alone keeps state (R698, R742); `tripped` holds THERM_N and FATAL_N. -/
def dark (pwrEn tripped : Bool) (s : State) : State :=
  freshModule { pwrEn := pwrEn, good := false, perst := true, railsOn := false, tripped := tripped } {} s

/-- POWER_ON: PWR_EN asserted. With a feed at 44 V or more the input stage starts (R743); a power-on starts SECONDS afresh and
HOURS from its counter (R729). The limit of R747 applies when the other feed is below 40 V. -/
def powerOn (mvA mvB : Nat) (s : State) : State :=
  if s.power.railsOn || s.power.tripped then s
  else if max mvA mvB < 44000 then { s with power := { s.power with pwrEn := true } }
  else
    freshModule
      { pwrEn := true, good := false, perst := true, railsOn := true, mv := max mvA mvB
        oneFeed := decide (min mvA mvB < 40000) }
      { fromPowerOn := true, hours := s.flash.hours, evNext := s.flash.events.length
        evFull := decide (65536 ≤ s.flash.events.length) } s

/-- POWER_ON (R743). -/
def execPowerOn (mvA mvB : Nat) (s : State) : Out := .next (powerOn mvA mvB s)

/-- PWR_GOOD (R743). -/
def pwrGood (s : State) : State := if s.power.railsOn then { s with power := { s.power with good := true } } else s

/-- PWR_GOOD (R743). -/
def execPwrGood (s : State) : Out := .next (pwrGood s)

/-- PWR_EN_DEASSERT: for at least 50 µs it turns the module off, and ends a trip (R746, R756). -/
def pwrEnDeassert (us : Nat) (s : State) : State := if 50 ≤ us then dark false false s else s

/-- PWR_EN_DEASSERT (R746). -/
def execPwrEnDeassert (us : Nat) (s : State) : Out := .next (pwrEnDeassert us s)

/-- PERST_N_ASSERT: for at least 50 µs it starts a chip reset; the boot waits for the deassertion (R745). -/
def perstAssert (us : Nat) (s : State) : State :=
  if 50 ≤ us ∧ s.power.railsOn then
    let s1 := chipReset 3 s
    { s1 with power := { s1.power with perst := true } }
  else s

/-- PERST_N_ASSERT (R745). -/
def execPerstNAssert (us : Nat) (s : State) : Out := .next (perstAssert us s)

/-! ## Input voltage (R741, R747) -/

/-- The clock limit of R741 comes into force. -/
def limitVoltage (w : Power) : Power :=
  { w with voltLimit := true, thrVoltage := if w.voltLimit then w.thrVoltage else satAdd w.thrVoltage 1 }

/-- INPUT_VOLTAGE_CHANGE: the band of Table 18.4 in which the input now lies. -/
def voltageChange (mv : Nat) (s : State) : State :=
  if !s.power.railsOn then s
  else if mv < 40000 ∨ 57000 < mv then dark s.power.pwrEn true s
  else
    let w := { s.power with mv := mv }
    if mv < 44000 ∨ 56000 < mv then faultEvent1 2098 mv { s with power := limitVoltage w }
    else { s with power := w }

/-- INPUT_VOLTAGE_CHANGE (R741). -/
def execInputVoltageChange (mv : Nat) (s : State) : Out := .next (voltageChange mv s)

/-- VOLTAGE_LIMIT_LAPSE: the input has stayed within 44 V to 56 V for 1 s (R741). -/
def voltageLapse (s : State) : State :=
  if 44000 ≤ s.power.mv ∧ s.power.mv ≤ 56000 then { s with power := { s.power with voltLimit := false } } else s

/-- VOLTAGE_LIMIT_LAPSE (R741). -/
def execVoltageLimitLapse (s : State) : Out := .next (voltageLapse s)

/-- FEED_LOST: one feed falls below 40 V (R747). -/
def feedLost (mv : Nat) (s : State) : State :=
  if s.power.railsOn ∧ mv < 40000 then
    faultEvent1 2098 mv { s with power := { s.power with
      oneFeed := true, thrVoltage := if s.power.oneFeed then s.power.thrVoltage else satAdd s.power.thrVoltage 1 } }
  else s

/-- FEED_LOST (R747). -/
def execFeedLost (feed mv : Nat) (s : State) : Out := event (decide (feed < 2)) (feedLost mv s)

/-- FEED_RESTORED: the feed has stayed at 44 V or more for 1 s (R747). -/
def feedRestored (mv : Nat) (s : State) : State :=
  if 44000 ≤ mv then { s with power := { s.power with oneFeed := false } } else s

/-- FEED_RESTORED (R747). -/
def execFeedRestored (feed mv : Nat) (s : State) : Out := event (decide (feed < 2)) (feedRestored mv s)

/-! ## Measured power (R750) -/

/-- The measured step after a comparison of the mean of the last 10 ms with the cap. -/
def measure (watts : Nat) (w : Power) : Power :=
  let cap := 50 * w.cap
  let low := if watts + 200 ≤ cap then w.lowMs + 1 else 0
  if cap < watts then
    { w with measStep := max 4 (w.measStep - 1), lowMs := 0
             thrPower := if w.measStep = w.capStep then satAdd w.thrPower 1 else w.thrPower }
  else if 10 ≤ low then { w with measStep := min w.capStep (w.measStep + 1), lowMs := 0 }
  else { w with lowMs := low }

/-- POWER_MEASURE, once a millisecond: the comparison of R750, the energy of the millisecond, PWR_LIMITED. The current of each
feed is not given with the event and is free. -/
def powerMeasure (watts : Nat) (s : State) : State :=
  if !s.power.railsOn then s
  else
    let w := s.power
    let w1 : Power := { measure watts w with
      watts := watts, energyMj := w.energyMj + watts, feedA := s.freeVal.setWidth 16
      feedB := (s.freeVal >>> 16).setWidth 16 }
    let s1 : State := { s.nextFree with power := w1 }
    if s1.clockStep < w1.capStep then { s1 with power := { w1 with limitedMs := satAdd w1.limitedMs 1 } } else s1

/-- POWER_MEASURE (R750). -/
def execPowerMeasure (watts : Nat) (s : State) : Out := .next (powerMeasure watts s)

/-! ## Temperature (R753 to R756) -/

/-- Throttle, release and trip points of a sensor in °C (Table 18.6); the inlet has no trip. -/
def limits (i : Nat) : Int × Int × Option Int :=
  if i < 18 then (105, 100, some 115)
  else if i < 28 then (100, 95, some 110)
  else if i < 60 then (95, 90, some 105)
  else if i = 60 then (45, 43, none)
  else if i = 61 then (65, 60, some 70)
  else (120, 115, some 130)

/-- A temperature in 1/16 °C. -/
def degrees (t : Half) : Int := toSigned 16 t.toNat

/-- A sensor is at or above its throttle point. -/
def hot (i : Nat) (t : Half) : Bool := decide ((limits i).1 * 16 ≤ degrees t)

/-- A sensor is at or below its release point. -/
def cool (i : Nat) (t : Half) : Bool := decide (degrees t ≤ (limits i).2.1 * 16)

/-- A sensor was at or above its throttle point at its last reading. -/
def Power.wasHot (w : Power) (i : Nat) : Bool := w.temps.any fun e => e.1 == i && hot i e.2

/-- Enter a reading. A sensor that stays at or above its throttle point keeps its place, any other goes to the end: of the hot
ones the first in the list reached its point first (R754). -/
def setTemp (w : Power) (i : Nat) (t : Half) : Power :=
  { w with temps :=
      if w.wasHot i && hot i t then w.temps.map fun e => if e.1 == i then (i, t) else e
      else (w.temps.filter fun e => e.1 != i) ++ [(i, t)] }

/-- The thermal step falls by one; THERM_N is asserted from the first time on (R754, R755). -/
def lowerStep (w : Power) : Power := { w with thermalStep := max 4 (w.thermalStep - 1), throttling := true, coolMs := 0 }

/-- The thermal step falls for a sensor; outside throttling this is an entry into it, which counts and raises THERMAL with the
sensor's index (R754). -/
def throttleBy (i : Nat) (s : State) : State :=
  if s.power.throttling then { s with power := lowerStep s.power }
  else faultEvent1 2097 i { s with power := { lowerStep s.power with thrThermal := satAdd s.power.thrThermal 1 } }

/-- THERMAL_THROTTLE: a sensor reaches its throttle point; the inlet raises THERMAL only (R754). -/
def thermalThrottle (i : Nat) (t : Half) (s : State) : State :=
  let s1 := { s with power := setTemp s.power i t }
  if !s.power.railsOn then s
  else if !(hot i t) || s.power.wasHot i then s1
  else if i = 60 then faultEvent1 2097 i s1
  else throttleBy i s1

/-- THERMAL_THROTTLE (R754). -/
def execThermalThrottle (sensor : Nat) (temp : Half) (s : State) : Out :=
  event (decide (sensor < 63)) (thermalThrottle sensor temp s)

/-- A millisecond with no sensor at its throttle point: the step rises by one after 10 ms in which every sensor is at or below
its release point, and is held otherwise (R754). -/
def coolDown (w : Power) : Power :=
  if !w.throttling then w
  else if w.temps.all fun e => e.1 == 60 || cool e.1 e.2 then
    if w.coolMs + 1 < 10 then { w with coolMs := w.coolMs + 1 }
    else
      let n := min w.capStep (w.thermalStep + 1)
      { w with thermalStep := n, coolMs := 0, throttling := n != w.capStep }
  else { w with coolMs := 0 }

/-- Sensors, but for the inlet, at or above their throttle points, the first to reach its point first. -/
def Power.hotSensors (w : Power) : List Nat := (w.temps.filter fun e => e.1 != 60 && hot e.1 e.2).map (·.1)

/-- The readings of a millisecond. -/
def setTemps (readings : List (Nat × Half)) (w : Power) : Power := readings.foldl (fun w e => setTemp w e.1 e.2) w

/-- THERMAL_STEP_TIMER: the step falls by one while some sensor is at or above its throttle point (R754). The inlet's own
reading raises THERMAL where it reaches its point. -/
def thermalTimer (readings : List (Nat × Half)) (s : State) : State :=
  if !s.power.railsOn then s
  else
    let w := setTemps readings s.power
    let s1 := match w.hotSensors with
      | [] => { s with power := coolDown w }
      | i :: _ => throttleBy i { s with power := w }
    if !(s.power.wasHot 60) && w.wasHot 60 then faultEvent1 2097 60 s1 else s1

/-- THERMAL_STEP_TIMER (R754). -/
def execThermalStepTimer (readings : List (Nat × Half)) (s : State) : Out :=
  event (readings.all fun e => decide (e.1 < 63)) (thermalTimer readings s)

/-- THERMAL_TRIP: at a trip point every rail but the input stage's goes, without an event record (R756). -/
def thermalTrip (i : Nat) (t : Half) (s : State) : State :=
  match (limits i).2.2 with
  | some c => if s.power.railsOn ∧ c * 16 ≤ degrees t then dark s.power.pwrEn true s else s
  | none => s

/-- THERMAL_TRIP (R756). -/
def execThermalTrip (sensor : Nat) (temp : Half) (s : State) : Out :=
  event (decide (sensor < 63)) (thermalTrip sensor temp s)

/-! ## Pins (R670, R755, R765, R761) -/

/-- THERM_N is asserted (R755, R756). -/
def State.thermN (s : State) : Bool := s.power.throttling || s.power.tripped

/-- MGMT_ALERT_N is asserted (R765). -/
def State.mgmtAlertN (s : State) : Bool :=
  s.power.railsOn && (s.errN || s.fatalN || s.thermN || !s.boot.pldm.isEmpty)

/-! ## POWER_CAP (R748, R751, R752) -/

/-- Predicted input at a step in whole watts; where the fraction is half a watt or more the manual states no rounding, and the
last unit is free. It is not scaled to the number of active dies (R37, notes/assumptions/97.md). -/
def predictedW (step : Nat) (s : State) : Nat :=
  let n := 580000 * step + 4512000
  n / 2884 + (if n % 2884 * 2 < 2884 then 0 else b2n (s.freeVal.getLsbD 0))

/-- DONE with the fields of R751. -/
def capDone (p : Packet) (s : State) : State :=
  let w := s.power
  postDone p (w.capStep + 2 ^ 8 * s.clockStep) (predictedW w.capStep s * 2 ^ 16 + w.watts % 2 ^ 16) s.nextFree

/-- POWER_CAP, SET. -/
def effPowerCapSet (p : Packet) (s : State) : State :=
  let c := bf p.p1 7 0
  if c < 50 ∨ 160 < c then postErr p 0x0F50 c s else capDone p { s with power := setCap c s.power }

/-- POWER_CAP, QUERY. -/
def effPowerCapQuery (p : Packet) (s : State) : State := capDone p s

/-- POWER_CAP_SET (R751). -/
def execPowerCapSet (p : Packet) (s : State) : Out := submit effPowerCapSet p s

/-- POWER_CAP_QUERY (R751). -/
def execPowerCapQuery (p : Packet) (s : State) : Out := submit effPowerCapQuery p s

/-! ## Operating hours (R729) -/

/-- HOURS_TICK: SECONDS reaches the next multiple of 360; HOURS rises by one and is saved to counter 3. -/
def hoursTick (s : State) : State :=
  if !s.power.railsOn then s
  else
    let h := satAdd s.boot.hours 1
    { s with
      boot := { s.boot with seconds := BitVec.ofNat 32 ((s.boot.seconds.toNat / 360 + 1) * 360), hours := h }
      flash := { s.flash with hours := h } }

/-- HOURS_TICK (R729). -/
def execHoursTick (s : State) : Out := .next (hoursTick s)

/-! ## PCI Express (R43, R703, R762, R763, R776) -/

/-- VFs that are no longer enabled are reset (as PCIe has it, notes/assumptions/6.md). -/
def dropVfs (first last : Nat) (s : State) : State :=
  (List.range (last + 1 - first)).foldl (fun s i => viReset (first + i) s) s

/-- VF Enable and NumVFs of VI0's SR-IOV capability: NumVFs is fixed while VF Enable is set. -/
def setVfs (on : Bool) (n : Nat) (s : State) : State :=
  let b := s.boot
  let num := if b.vfEn then b.numVfs else min n 4096
  let s1 := { s with boot := { b with vfEn := on, numVfs := num } }
  if b.vfEn && !on then dropVfs 1 num s1 else s1

/-- Data of a configuration read: Table 0.1 and R43 for VI0; a VF has the revision and class of VI0, ID words of all ones and no
SR-IOV capability (as PCIe has it, notes/assumptions/6.md). -/
def State.cfgRead (s : State) (n : Nat) (r : CfgReg) : Word :=
  match r with
  | .ids => if n = 0 then 0x32161E2A else 0xFFFFFFFF
  | .classRevision => 0x12000001
  | .vfTotals => if n = 0 then 0x10001000 else 0
  | .vfLayout => if n = 0 then 0x00010001 else 0
  | .pageSizes => if n = 0 then 0x00000011 else 0
  | .numVfs => if n = 0 then BitVec.ofNat 32 s.boot.numVfs else 0

/-- What a configuration request does in a function: a read returns its data; VI0 captures the bus number of a write. -/
def configReq (n : Nat) (q : PcieReq) (s : State) : State :=
  match q with
  | .read r => { s with boot := { s.boot with cfgData := s.boot.cfgData ++ [s.cfgRead n r] } }
  | .setBus b => if n = 0 then { s with boot := { s.boot with bus := b % 256 } } else s
  | .setMsix on mask => sendPending n (s.updVi n fun v => { v with msixEn := on, funcMask := mask })
  | .setVfs on num => if n = 0 then setVfs on num s else s
  | .setPower d3 => fetchAll (s.updVi n fun v => { v with d3hot := d3 })

/-- PCIE_CONFIG_REQUEST: answered with success from 1.0 s after t = 0, with Request Retry Status before (R703); a function that
is not enabled does not answer. -/
def configRequest (n ms : Nat) (q : PcieReq) (s : State) : State :=
  if s.boot.stage = 0 ∨ !(s.viOn n) then s
  else
    let ok := decide (1000 ≤ ms)
    let s1 := { s with boot := { s.boot with cfgAnswers := s.boot.cfgAnswers ++ [ok] } }
    if ok then configReq n q s1 else s1

/-- PCIE_CONFIG_REQUEST (R703). -/
def execPcieConfigRequest (vi ms : Nat) (req : PcieReq) (s : State) : Out := event (viOk vi) (configRequest vi ms req s)

/-- PCIE_HOT_RESET: every VI is reset as R74 describes; the module is not (R763). -/
def hotReset (s : State) : State :=
  (if s.boot.vfEn then dropVfs 1 (min s.boot.numVfs 4096) else id) (viReset 0 s)

/-- PCIE_HOT_RESET (R763). -/
def execPcieHotReset (s : State) : Out := .next (hotReset s)

/-! ## Management buses (R708, R727, R764, R765) -/

/-- PLDM_EVENT_RETRIEVE: the oldest held platform event message is retrieved (R765). -/
def execPldmEventRetrieve (s : State) : Out := .next { s with boot := { s.boot with pldm := s.boot.pldm.tail } }

/-! ## J7 (R738) -/

/-- The next state of the IEEE 1149.1 TAP controller at a rising edge of TCK. -/
def Tap.next (t : Tap) (tms : Bool) : Tap :=
  match t, tms with
  | .testLogicReset, false => .runTestIdle
  | .testLogicReset, true => .testLogicReset
  | .runTestIdle, false => .runTestIdle
  | .runTestIdle, true => .selectDr
  | .selectDr, false => .captureDr
  | .selectDr, true => .selectIr
  | .captureDr, false => .shiftDr
  | .captureDr, true => .exit1Dr
  | .shiftDr, false => .shiftDr
  | .shiftDr, true => .exit1Dr
  | .exit1Dr, false => .pauseDr
  | .exit1Dr, true => .updateDr
  | .pauseDr, false => .pauseDr
  | .pauseDr, true => .exit2Dr
  | .exit2Dr, false => .shiftDr
  | .exit2Dr, true => .updateDr
  | .updateDr, false => .runTestIdle
  | .updateDr, true => .selectDr
  | .selectIr, false => .captureIr
  | .selectIr, true => .testLogicReset
  | .captureIr, false => .shiftIr
  | .captureIr, true => .exit1Ir
  | .shiftIr, false => .shiftIr
  | .shiftIr, true => .exit1Ir
  | .exit1Ir, false => .pauseIr
  | .exit1Ir, true => .updateIr
  | .pauseIr, false => .pauseIr
  | .pauseIr, true => .exit2Ir
  | .exit2Ir, false => .shiftIr
  | .exit2Ir, true => .updateIr
  | .updateIr, false => .runTestIdle
  | .updateIr, true => .selectDr

/-- BOUNDARY_SCAN: TRST_N low resets the TAP controller; a rising TCK moves it by TMS. What the registers shift out is the
boundary of the I/O dies, which the manual does not list: TDO is free while a register shifts. -/
def boundaryScan (tck tms trst : Bool) (s : State) : State :=
  if !trst then { s with tap := .testLogicReset, tdo := false }
  else if !tck then s
  else
    let t := s.tap.next tms
    if t = .shiftDr ∨ t = .shiftIr then { s.nextFree with tap := t, tdo := s.freeVal.getLsbD 0 }
    else { s with tap := t, tdo := false }

/-- BOUNDARY_SCAN (R738). -/
def execBoundaryScan (tck tms _tdi trst : Bool) (s : State) : Out := .next (boundaryScan tck tms trst s)

end Sys2Proof.Machine
end

