-- ==== Sys2Proof/Machine/Manage.lean ====
section
/-! DEFINITION. Firmware slots, the configuration store and reading the event records: EVREC_READ, FW_STAGE, FW_ACTIVATE,
CONFIG_LOAD and the PLDM update (R708, R711 to R724, R731 to R733). -/

namespace Sys2Proof.Machine

open Sys2Proof

/-! ## EVREC_READ (R733) -/

/-- EVREC_READ. -/
def effEvrecRead (p : Packet) (s : State) : State :=
  let first := bf p.p0 31 0
  let max_ := bf p.p2 31 0
  if 65535 < first then postErr p 0x0F4C first s
  else
    let recs := (s.flash.events.drop first).take max_
    match vstore p p.p1.toNat (recs.flatMap evBytes) s with
    | (s1, some e) => memFail p e s1
    | (s1, none) => postDone p recs.length s.boot.evNext s1

/-- EVREC_READ (R733). -/
def execEvrecRead (p : Packet) (s : State) : Out := submit effEvrecRead p s

/-! ## Firmware images (R711, Table 17.6) -/

/-- Header fields of a firmware image. -/
structure FwHeader where
  magic : Nat
  version : Word
  svn : Word
  bodyLen : Nat
  deriving DecidableEq, Repr

/-- The header of an image. -/
def fwHeader (b : List Byte) : FwHeader :=
  { magic := blk b 0 4, version := BitVec.ofNat 32 (blk b 4 4), svn := BitVec.ofNat 32 (blk b 8 4), bodyLen := blk b 16 8 }

/-- The first field of an image's header that R711 finds bad, by byte offset: MAGIC, BODY_LEN (its range, and the bytes that
are there), BODY_DIGEST. -/
def fwBadField (b : List Byte) : Option Nat :=
  let h := fwHeader b
  if b.length < 512 ∨ h.magic ≠ 0x4C454E48 then some 0
  else if h.bodyLen = 0 ∨ 67108352 < h.bodyLen ∨ b.length < 512 + h.bodyLen then some 16
  else if sha512 ((b.drop 512).take h.bodyLen) ≠ (b.drop 24).take 64 then some 24
  else none

/-- The signature of an image verifies (R711). -/
def fwSigned (b : List Byte) : Bool :=
  ecdsaOk (sha512 (b.take 88)) ((b.drop 88).take 132) Config.damfelKey

/-- Cause for which an image is not valid (Table 17.14), 0 for a valid one. -/
def imageCause (b : List Byte) (s : State) : Nat :=
  match fwBadField b with
  | some 24 => 2
  | some _ => 1
  | none => if !(fwSigned b) then 3 else if (fwHeader b).svn.toNat < s.flash.fwSvn.toNat then 4 else 0

/-- SHA-512 of an image's header and body (R725, Table 17.12). -/
def imageDigest (b : List Byte) : List Byte := sha512 (b.take (512 + (fwHeader b).bodyLen))

/-- Put an image into a slot. -/
def putSlot (b : Bool) (x : FwSlot) (s : State) : State :=
  { s with flash := if b then { s.flash with slotB := x } else { s.flash with slotA := x } }

/-- BOOT_FW_ALT and BOOT_SVN follow the slots and FW_SVN. -/
def refreshFw (s : State) : State :=
  { s with boot := { s.boot with fwAlt := s.altVersion, svn := s.flash.fwSvn } }

/-- Whether programming or reading back a slot fails, and the flash offset, are physical facts: a free value (R715). -/
def State.flashFails (s : State) (b : Bool) : Option Nat :=
  if s.freeVal.getLsbD 63 then some (b2n b * 2 ^ 26 + s.freeVal.toNat % 2 ^ 26) else none

/-- FW_STAGE: refused in the order of R715; else the image goes into the slot that is not running (R714). -/
def effFwStage (p : Packet) (s : State) : State :=
  match vread p.vi s p.p1.toNat (bf p.p2 31 0) with
  | .error e => if s.flash.trial ≠ 0 then postErr p 0x0F44 s.flash.trial s else memFail p e s
  | .ok b =>
    let h := fwHeader b
    if s.flash.trial ≠ 0 then postErr p 0x0F44 s.flash.trial s
    else
      match fwBadField b with
      | some i => postErr p 0x0F40 i s
      | none =>
        if !(fwSigned b) then postFinal p 0x32 0x0F41 h.version.toNat 0 s
        else if h.svn.toNat < s.flash.fwSvn.toNat then postErr p 0x0F42 s.flash.fwSvn.toNat s
        else
          let alt := !s.boot.slotB
          let put (bad : Nat) (s : State) : State :=
            refreshFw (putSlot alt { version := h.version, svn := h.svn, bad := bad, digest := imageDigest b } s)
          match s.flashFails alt with
          | some a => postFinal p 0x31 0x0F46 a 0 (faultEvent1 2099 a (put 1 s.nextFree))
          | none =>
            postDone p h.version.toNat h.svn.toNat
              (evrec 0x0007 0xFFFF (b2n alt) h.version.toNat h.svn.toNat (put 0 s.nextFree))

/-- FW_STAGE (R714). -/
def execFwStage (p : Packet) (s : State) : Out := submit effFwStage p s

/-- PLDM_FIRMWARE_UPDATE: in RECOVERY the image goes into slot A and is checked; the chip resets (R708). The manual gives this
chip reset no reason: it is free. -/
def pldmUpdate (image : List Byte) (s : State) : State :=
  if s.boot.state ≠ 1 then s
  else
    let h := fwHeader image
    let s1 := putSlot false { version := h.version, svn := h.svn, bad := imageCause image s, digest := imageDigest image } s
    chipReset (s.freeVal.toNat % 256) s1.nextFree

/-- PLDM_FIRMWARE_UPDATE (R708). -/
def execPldmFirmwareUpdate (image : List Byte) (s : State) : Out := .next (pldmUpdate image s)

/-! ## FW_ACTIVATE (R716, R717) -/

/-- DONE, and a chip reset 10 ms later when RESET is set (R717). -/
def activateDone (p : Packet) (reset : Bool) (s : State) : State :=
  let s1 := postDone p 0 0 s
  if reset then { s1 with boot := { s1.boot with resetDue := true } } else s1

/-- RESET of a FW_ACTIVATE. -/
def resetBit (p : Packet) : Bool := p.p0.getLsbD 8

/-- RESULT0 of FW_IMAGE for a slot by the cause it was found invalid for: the offset of BODY_DIGEST, SIG_R or SVN; which header
field was bad is not kept and is free. -/
def slotField (s : State) (b : Bool) : Nat :=
  match (s.fwSlot b).bad with
  | 2 => 24
  | 3 => 88
  | 1 => s.freeVal.toNat
  | _ => 8

/-- TRIAL. -/
def effFwActivateTrial (p : Packet) (s : State) : State :=
  let alt := !s.boot.slotB
  if s.slotValid alt then activateDone p (resetBit p) (setTrial 1 s)
  else postErr p 0x0F40 (slotField s alt) s.nextFree

/-- COMMIT. -/
def effFwActivateCommit (p : Packet) (s : State) : State :=
  if s.flash.trial ≠ 2 then postErr p 0x0F45 0 s
  else
    let b := s.boot.slotB
    let x := s.fwSlot b
    let svn := if s.flash.fwSvn.toNat < x.svn.toNat then x.svn else s.flash.fwSvn
    let s1 := { s with
      flash := { s.flash with preferredB := b, trial := 0, fwSvn := svn }
      boot := { s.boot with preferred := b, trial := false } }
    activateDone p (resetBit p) (evrec 0x0006 0xFFFF (b2n b) x.version.toNat svn.toNat (refreshFw s1))

/-- DISARM. -/
def effFwActivateDisarm (p : Packet) (s : State) : State :=
  if s.flash.trial = 2 then postErr p 0x0F44 2 s else activateDone p (resetBit p) (setTrial 0 s)

/-- RESET. -/
def effFwActivateReset (p : Packet) (s : State) : State := activateDone p true s

/-- FW_ACTIVATE_TRIAL (R716). -/
def execFwActivateTrial (p : Packet) (s : State) : Out := submit effFwActivateTrial p s
/-- FW_ACTIVATE_COMMIT (R716). -/
def execFwActivateCommit (p : Packet) (s : State) : Out := submit effFwActivateCommit p s
/-- FW_ACTIVATE_DISARM (R716). -/
def execFwActivateDisarm (p : Packet) (s : State) : Out := submit effFwActivateDisarm p s
/-- FW_ACTIVATE_RESET (R717). -/
def execFwActivateReset (p : Packet) (s : State) : Out := submit effFwActivateReset p s

/-! ## The owner image (R718, R719, R723, R724, Table 17.9) -/

/-- n rounded up to a multiple of 8. -/
def pad8 (n : Nat) : Nat := (n + 7) / 8 * 8

/-- The settings records of a body, from byte i on; or the offset of one that does not fit. -/
def bodyRecords : Nat → Nat → List Byte → Except Nat (List (Nat × Nat × List Byte))
  | 0, i, b => if b.isEmpty then .ok [] else .error i
  | n + 1, i, b =>
    if b.isEmpty then .ok []
    else
      let len := blk b 4 4
      let size := 8 + pad8 len
      if b.length < size then .error i
      else
        match bodyRecords n (i + size) (b.drop size) with
        | .error e => .error e
        | .ok t => .ok ((blk b 0 2, blk b 2 2, (b.drop 8).take len) :: t)

/-- What is wrong with the form of an owner image, by byte offset, or its settings. -/
def parseOwner (b : List Byte) : Except Nat (List (Nat × Nat × List Byte)) :=
  let len := blk b 12 4
  if 1048576 < b.length then .error 1048576
  else if b.length < 388 ∨ blk b 0 4 ≠ 0x47464E4F then .error 0
  else if b.length ≠ 388 + len then .error 12
  else bodyRecords (len / 8 + 1) 256 ((b.drop 256).take len)

/-- INSTALL: the form of the image, its signature against the owner key in force (or its own where none is), its generation
(R719, R724); it takes effect at the next boot. -/
def effConfigInstall (p : Packet) (s : State) : State :=
  match vread p.vi s p.p1.toNat (bf p.p2 31 0) with
  | .error e => memFail p e s
  | .ok b =>
    match parseOwner b with
    | .error i => postErr p 0x0F4A i s
    | .ok set =>
      let gen := BitVec.ofNat 32 (blk b 4 4)
      let own := (b.drop 16).take 133
      let key := s.flash.ownerKey.getD own
      if !(ecdsaOk (sha512 (b.take (b.length - 132))) (b.drop (b.length - 132)) key) then
        postFinal p 0x32 0x0F48 gen.toNat 0 s
      else if gen.toNat ≤ s.flash.cfgGen.toNat then postErr p 0x0F49 s.flash.cfgGen.toNat s
      else
        let lock := BitVec.ofNat 16 (blk b 8 2)
        let s1 := { s with flash := { s.flash with
          owner := some { gen := gen, lock := lock, settings := set }, cfgGen := gen, ownerKey := some own
          journal := s.flash.journal.filter fun r => !(lock.getLsbD r.group) } }
        postDone p gen.toNat 0 (evrec 0x0009 0xFFFF gen.toNat (b2n (s.flash.ownerKey != some own)) 0 s1)

/-- CONFIG_INSTALL (R723). -/
def execConfigInstall (p : Packet) (s : State) : Out := submit effConfigInstall p s

/-! ## CONFIG_LOAD READ, SAVE_ROUTES, CLEAR (Table 17.10) -/

/-- Manufacture defaults (Table 17.8), in the item numbers of notes/assumptions/18.md. -/
def defaultSettings : List (Nat × Nat × List Byte) :=
  [(1, 0, leBytes 4 0), (1, 1, leBytes 4 10)]
  ++ (List.range 2100).map (fun u => (2, u, defaultBytes u))
  ++ (List.range 4097).map (fun n =>
      (3, n, if n = 0 then leBytes 4 1 ++ leBytes 4 8388608 ++ leBytes 4 1024 else leBytes 12 0))
  ++ (List.range 20).map (fun q => (5, q, [0, BitVec.ofNat 8 (b2n (q == 9 || q == 19)), 0, 0, 0, 0]))
  ++ [(6, 0, leBytes 2 0)]
  ++ (List.range 32).map (fun k => (7, k, [0]))
  ++ [(8, 0, [160])]

/-- The settings in force: those that a layer names, and the defaults of the others (R718). -/
def State.inForce (s : State) : List (Nat × Nat × List Byte) :=
  (defaultSettings.map fun d => (d.1, d.2.1, (s.setting d.1 d.2.1).getD d.2.2))
  ++ s.boot.settings.filter fun e => !(defaultSettings.any fun d => d.1 == e.1 && d.2.1 == e.2.1)

/-- A settings record (Table 17.9). -/
def recordBytes (e : Nat × Nat × List Byte) : List Byte :=
  leBytes 2 e.1 ++ leBytes 2 e.2.1 ++ leBytes 4 e.2.2.length ++ e.2.2
  ++ List.replicate (pad8 e.2.2.length - e.2.2.length) 0

/-- READ: the settings in force as unsigned body records, up to LENGTH bytes. -/
def effConfigRead (p : Packet) (s : State) : State :=
  let b := (s.inForce.flatMap recordBytes).take (bf p.p2 31 0)
  match vstore p p.p1.toNat b s with
  | (s1, some e) => memFail p e s1
  | (s1, none) => postDone p b.length 0 s1

/-- The measurement blocks 1 to 5 (Table 17.12); block 5 reports the roles of stage 7 (R22). -/
def State.measurements (s : State) : List (List Byte) :=
  let slot := s.fwSlot s.boot.slotB
  [Config.romDigest, slot.digest, leBytes 4 slot.version.toNat ++ leBytes 4 slot.svn.toNat ++ leBytes 4 s.flash.fwSvn.toNat,
   sha512 (s.inForce.flatMap recordBytes),
   leBytes 4 s.boot.dies.toNat ++ leBytes 4 s.boot.spares.toNat ++ leBytes 4 s.boot.resources.toNat]

/-- What the module adds to certificate slot 0: the public DeviceID key and the Alias certificate (R725, Table 17.11). -/
def State.certChain (s : State) : List (List Byte) :=
  match s.boot.keys with
  | some k => [publicKey k.deviceKey, k.aliasCert]
  | none => []

/-- SPDM request codes that Table 17.11 lists as answered. -/
def spdmCodes : List Nat := [0x84, 0xE1, 0xE3, 0x81, 0x82, 0x83, 0xE0, 0xE4, 0xE5, 0xE8, 0xE9, 0xEC]

/-- SPDM_REQUEST: answered, or with an error: GET_CERTIFICATE and KEY_EXCHANGE without identity (R727), and requests that Table
17.11 does not list. -/
def spdmRequest (code : Nat) (s : State) : State :=
  if s.boot.stage = 0 then s
  else
    let ok := spdmCodes.contains code && (s.boot.identity || !(code == 0x82 || code == 0xE4))
    { s with boot := { s.boot with
        answers := s.boot.answers ++ [if ok then Config.spdmAnswer code s.measurements s.certChain else Config.spdmError code] } }

/-- SPDM_REQUEST (R727). -/
def execSpdmRequest (code : Nat) (s : State) : Out := .next (spdmRequest code s)

/-- CONFIG_READ (R723). -/
def execConfigRead (p : Packet) (s : State) : Out := submit effConfigRead p s

/-- The route table as journal values, 8 entries per record, then the prefixes, 4 per record (R720 gives a value 32 bytes). -/
def State.routeValues (s : State) : List (List Byte) :=
  (List.range 8192).map (fun i => (List.range 8).flatMap fun k => leBytes 4 (tget 0 s.fab.routes (8 * i + k)).toNat)
  ++ (List.range 16).map (fun i => (List.range 4).flatMap fun k => leBytes 8 (tget 0 s.fab.prefixes (4 * i + k)).toNat)

/-- Records of a group, item by item, numbered on from the next journal sequence. -/
def journalGroup (group : Nat) (vs : List (List Byte)) (s : State) : State :=
  { s with flash := vs.zipIdx.foldl (fun f e => f.record group e.2 e.1) s.flash }

/-- SAVE_ROUTES: the present tables go into the journal, unless the owner image locks the group (R721). -/
def effSaveRoutes (p : Packet) (s : State) : State :=
  match lockRefusal true 4 s with
  | some e => refuse p e s
  | none =>
    let vs := s.routeValues
    postDone p vs.length 0 (journalGroup 4 vs s)

/-- SAVE_ROUTES (R723). -/
def execSaveRoutes (p : Packet) (s : State) : Out := submit effSaveRoutes p s

/-- CLEAR: the journal records of the groups in GROUPS are dropped. -/
def effConfigClear (p : Packet) (s : State) : State :=
  let dropped (r : JournalRec) : Bool := decide (r.group < 9) && p.p0.getLsbD (16 + r.group)
  postDone p (s.flash.journal.filter dropped).length 0
    { s with flash := { s.flash with journal := s.flash.journal.filter fun r => !(dropped r) } }

/-- CONFIG_CLEAR (R723). -/
def execConfigClear (p : Packet) (s : State) : Out := submit effConfigClear p s

end Sys2Proof.Machine
end

