-- ==== Sys2Proof/Machine/Flags.lean ====
section
/-! DEFINITION. The registers as the host reads and writes them: status, flags, latched counts and counters (Tables 2.3 to 2.5,
3.7, 3.8, 5.11, 5.12, 6.18, 6.19, 7.5, 7.6, 8.16, 8.17, 9.14, 9.15, 10.20, 10.21, 11.15, 11.16, 12.15, 12.16, 13.16, 13.17, 14.13,
14.14, 15.10, 15.11, 16.2, 16.3, 16.8, 16.15, 16.16, 17.18, 17.19, 18.12, 18.13). A read answers the value and the state after it:
an rc field returns to its Reset value, a LO register latches its high half (Table 0.5). -/

namespace Sys2Proof.Machine

open Sys2Proof

/-- Bits [63:32] of a count. -/
def hi32 (x : Dword) : Word := (x >>> 32).setWidth 32

/-- Bits [31:0] of a count. -/
def lo32 (x : Dword) : Nat := x.toNat % 2 ^ 32

/-- Change the module-wide counters. -/
def State.updCtr (s : State) (f : Counters → Counters) : State := { s with ctr := f s.ctr }

/-! ## The register page of a VI (Tables 2.3 to 2.5) -/

/-- VI_STATUS. -/
def viStatus (n : Nat) (s : State) : Nat :=
  let v := s.vi n
  let jobs := (s.jobs.filter fun j => j.vi == n && !j.evicted).length
  jobs * 2 ^ 8 + b2n v.resetBusy * 2 ^ 3 + b2n v.dbErr * 2 ^ 2 + b2n v.tagErr * 2 + b2n (s.viReady n)

/-- Registers of SQ q. -/
def readSq (n q r : Nat) (s : State) : Nat :=
  let u := (s.vi n).sq q
  match r with
  | 0x00 => lo32 u.base
  | 0x04 => (hi32 u.base).toNat
  | 0x08 => b2n u.en * 2 ^ 31 + b2n (s.sqIdle n q) * 2 ^ 30 + u.cq.toNat * 2 ^ 8 + u.sizeLog2.toNat
  | 0x0C => u.head.toNat
  | _ => 0

/-- Registers of CQ q. -/
def readCq (n q r : Nat) (s : State) : Nat :=
  let c := (s.vi n).cq q
  match r with
  | 0x00 => lo32 c.base
  | 0x04 => (hi32 c.base).toNat
  | 0x08 => b2n c.en * 2 ^ 31 + b2n c.ien * 2 ^ 30 + c.vec.toNat * 2 ^ 28 + c.irqTime.toNat * 2 ^ 16 + c.irqCount.toNat * 2 ^ 8
      + c.sizeLog2.toNat
  | 0x0C => c.tail.toNat
  | _ => 0

/-- MSI-X table entries. -/
def readMsix (n r : Nat) (s : State) : Nat :=
  let e := (s.vi n).vec (r / 16)
  match r % 16 with
  | 0 => lo32 e.addr
  | 4 => (hi32 e.addr).toNat
  | 8 => e.data.toNat
  | 12 => b2n e.mask
  | _ => 0

/-- A register of a VI's page. -/
def readVi (n off : Nat) (s : State) : Nat × State :=
  match off with
  | 0x0000 => (n, s)
  | 0x0004 => (0x00488480, s)
  | 0x0008 => ((s.vi n).evtVec.toNat * 2 ^ 6 + b2n (s.vi n).evtIen * 2 ^ 5, s)
  | 0x000C => (viStatus n s, s)
  | 0x0010 => (lo32 s.ftu.count, s.updVi n fun v => { v with fretHi := hi32 s.ftu.count })
  | 0x0014 => ((s.vi n).fretHi.toNat, s)
  | 0x3000 => (([0, 1, 2, 3].map fun k => b2n ((s.vi n).vec k).pending * 2 ^ k).sum, s)
  | _ =>
    if 0x100 ≤ off ∧ off < 0x200 then (readSq n ((off - 0x100) / 0x20) (off % 0x20) s, s)
    else if 0x200 ≤ off ∧ off < 0x300 then (readCq n ((off - 0x200) / 0x20) (off % 0x20) s, s)
    else if 0x2000 ≤ off ∧ off < 0x2040 then (readMsix n (off - 0x2000) s, s)
    else (0, s)

/-! ## Fret time unit (Tables 3.7, 3.8) -/

/-- A register of the FTU. -/
def readFtu (r : Nat) (s : State) : Nat × State :=
  let f := s.ftu
  match r with
  | 0x00 => (ftuStatus f, s)
  | 0x04 => (f.role.toNat * 2 ^ 26 + f.pendingUs.toNat * 2 ^ 16 + f.periodUs.toNat, s)
  | 0x08 => (lo32 f.count, s.updFtu fun f => { f with countHi := hi32 f.count })
  | 0x0C => (f.countHi.toNat, s)
  | 0x10 => (f.epoch.toNat, s)
  | 0x14 => (f.phaseErr.toNat, s)
  | 0x18 => (f.beaconTx.toNat, s)
  | 0x1C => (f.sched.length, s)
  | 0x20 => (f.epochIgn.toNat * 2 ^ 16 + f.lockLoss.toNat, s.updFtu fun f => { f with epochIgn := 0, lockLoss := 0 })
  | _ => (0, s)

/-! ## Arrays, cores, samplers (Tables 5.11, 5.12, 6.18, 6.19) -/

/-- A register of array x of a core. -/
def readArr (d c x r : Nat) (s : State) : Nat × State :=
  let a := if x = 0 then (s.core d c).a else (s.core d c).b
  let put (f : Arr → Arr) : State := s.updCore d c fun k => if x = 0 then { k with a := f k.a } else { k with b := f k.b }
  match r with
  | 0x00 => (a.repair1.toNat * 2 ^ 24 + a.repair0.toNat * 2 ^ 16 + a.chkMode.toNat * 2 ^ 10 + a.role.toNat * 2 ^ 8
      + a.state.toNat, s)
  | 0x04 => (a.skipped.toNat * 2 ^ 16 + a.mismatch.toNat, put fun a => { a with skipped := 0, mismatch := 0 })
  | 0x08 => (b2n a.lastValid * 2 ^ 31 + b2n a.lastLocated * 2 ^ 30 + a.lastColumn.toNat * 2 ^ 16 + a.lastVector.toNat,
      put fun a => { a with lastValid := false, lastLocated := false, lastColumn := 0xFF, lastVector := 0 })
  | 0x0C => (lo32 a.passes, put fun a => { a with passesHi := hi32 a.passes })
  | 0x10 => (a.passesHi.toNat, s)
  | 0x14 => (a.active.toNat, put fun a => { a with active := 0 })
  | _ => (0, s)

/-- A matrix register of a core. -/
def readMvp (d c r : Nat) (s : State) : Nat × State :=
  let k := s.core d c
  match r with
  | 0x00 => (k.mvpRows.toNat * 2 ^ 4 + k.mvpState.toNat, s)
  | 0x04 => (k.mvpStream.toNat, s.updCore d c fun k => { k with mvpStream := 0 })
  | 0x08 => (k.mvpStall.toNat, s.updCore d c fun k => { k with mvpStall := 0 })
  | 0x0C => (k.half1.toNat * 2 ^ 2 + k.half0.toNat, s)
  | _ => (0, s)

/-- The job whose slots and functions a core holds: the one that runs, in an active core. -/
def State.jobOn (s : State) (d c : Nat) : Option Job :=
  if s.role d c = 0 then s.sched.holder.bind s.job? else none

/-- A bit map of table keys. -/
def keyMap (ks : List Nat) : Nat := (ks.map fun k => 2 ^ k).sum

/-- A Braid register of a core. -/
def readBrd (d c r : Nat) (s : State) : Nat × State :=
  let k := s.core d c
  let funcs (u : Nat) : Nat :=
    match if s.inReset (.core d c) then none else s.jobOn d c with
    | some j => keyMap ((j.funcs.filter fun e => e.1 / 4 == u).map fun e => e.1 % 4)
    | none => 0
  match r with
  | 0x00 => (funcs 1 * 2 ^ 12 + funcs 0 * 2 ^ 8 + k.brdSweep.toNat * 2 ^ 4 + k.brdState.toNat, s)
  | 0x04 => if s.inReset (.core d c) then (0, s) else (((s.jobOn d c).map fun j => keyMap (j.progs.map (·.1))).getD 0, s)
  | 0x08 => (k.brdParity.toNat, s.updCore d c fun k => { k with brdParity := 0 })
  | 0x0C => (k.brdActive.toNat, s.updCore d c fun k => { k with brdActive := 0 })
  | 0x10 => (lo32 k.genWords, s.updCore d c fun k => { k with genWordsHi := hi32 k.genWords })
  | 0x14 => (k.genWordsHi.toNat, s)
  | 0x18 => (k.genJob.toNat * 2 ^ 16 + k.genLoads.toNat, s)
  | _ => (0, s)

/-- A register of a die's sampler. -/
def readSmp (d r : Nat) (s : State) : Nat × State :=
  let x := s.die d
  match r with
  | 0x00 => (x.smpQueued.toNat * 2 ^ 8 + b2n x.smpFull * 2 ^ 2 + b2n x.smpCand * 2 + b2n x.smpSelect, s)
  | 0x04 => (x.smpDraws.toNat, s.updDie d fun x => { x with smpDraws := 0 })
  | 0x08 => (x.smpNofinite.toNat, s.updDie d fun x => { x with smpNofinite := 0 })
  | 0x0C => (x.smpActive.toNat, s.updDie d fun x => { x with smpActive := 0 })
  | _ => (0, s)

/-! ## Tiling and test (Tables 7.5, 7.6, 16.15, 16.16) -/

/-- A tiling register of a die. -/
def readTil (d r : Nat) (s : State) : Nat × State :=
  let x := s.die d
  match r with
  | 0x00 => (x.tilTiles.toNat, s.updDie d fun x => { x with tilTiles := 0 })
  | 0x04 => (x.tilLong.toNat, s.updDie d fun x => { x with tilLong := 0 })
  | 0x08 => (x.tilCapo.toNat, s.updDie d fun x => { x with tilCapo := 0 })
  | 0x0C => (x.tilSplits.toNat, s.updDie d fun x => { x with tilSplits := 0 })
  | _ => (0, s)

/-- A test register of a die. ROTATE: the rotation runs, and is not paused. -/
def readTst (d r : Nat) (s : State) : Nat × State :=
  let x := s.die d
  match r with
  | 0x00 => if s.inReset (.tributary d) then (0x1F1F, s) else (b2n (x.rotate && !x.paused) * 2 ^ 31 + b2n x.standbyFree * 2 ^ 30 + b2n x.sliced * 2 ^ 29 + b2n x.paused * 2 ^ 28
      + x.standFor.toNat * 2 ^ 8 + x.testing.toNat, s)
  | 0x04 => (x.tstSlots.toNat, s.updDie d fun x => { x with tstSlots := 0 })
  | 0x08 => (x.tstAborted.toNat * 2 ^ 16 + x.tstFailed.toNat, s.updDie d fun x => { x with tstAborted := 0, tstFailed := 0 })
  | 0x0C => (x.tstLast.toNat, s.updDie d fun x => { x with tstLast := 0 })
  | _ => (0, s)

/-! ## Module-wide counters (chapters 8 to 12, 14, 15) -/

/-- Rollouts of the module with their VI. -/
def State.rollouts (s : State) : List (Nat × Rollout) := s.jobs.flatMap fun j => j.rollouts.map fun r => (j.vi, r)

/-- A generation register (Tables 8.16, 8.17). -/
def readGen (r : Nat) (s : State) : Nat × State :=
  let c := s.ctr
  match r with
  | 0x00 => (c.genSteps.toNat, s.updCtr fun c => { c with genSteps := 0 })
  | 0x04 => (c.genTokens.toNat, s.updCtr fun c => { c with genTokens := 0 })
  | 0x08 => (c.genDrafts.toNat, s.updCtr fun c => { c with genDrafts := 0 })
  | 0x0C => (c.genAccepts.toNat, s.updCtr fun c => { c with genAccepts := 0 })
  | 0x10 => ((s.rollouts.map fun e => s.countState e.1 e.2 4).sum % 2 ^ 24, s)
  | 0x14 => (c.genDiscards.toNat, s.updCtr fun c => { c with genDiscards := 0 })
  | _ => (0, s)

/-- A KV register (Tables 9.14, 9.15). -/
def readKv (r : Nat) (s : State) : Nat × State :=
  let c := s.ctr
  match r with
  | 0x00 => (c.kvAllocs.toNat, s.updCtr fun c => { c with kvAllocs := 0 })
  | 0x04 => (c.kvCows.toNat, s.updCtr fun c => { c with kvCows := 0 })
  | 0x08 => (c.kvSpills.toNat, s.updCtr fun c => { c with kvSpills := 0 })
  | 0x0C => (c.kvRestores.toNat, s.updCtr fun c => { c with kvRestores := 0 })
  | 0x10 => (c.kvExhausted.toNat, s.updCtr fun c => { c with kvExhausted := 0 })
  | 0x14 => (c.kvShipPages.toNat, s.updCtr fun c => { c with kvShipPages := 0 })
  | 0x18 => (c.kvShipTimeout.toNat * 2 ^ 16 + c.kvShipCrc.toNat,
      s.updCtr fun c => { c with kvShipTimeout := 0, kvShipCrc := 0 })
  | 0x1C => ((s.jobs.flatMap fun j => j.pools.map fun q => s.cb j.vi q 44 4).sum % 2 ^ 25, s)
  | _ => (0, s)

/-- A learning register (Tables 10.20, 10.21). -/
def readLrn (r : Nat) (s : State) : Nat × State :=
  let c := s.ctr
  match r with
  | 0x00 => (c.lrnFwd.toNat, s.updCtr fun c => { c with lrnFwd := 0 })
  | 0x04 => (c.lrnBwd.toNat, s.updCtr fun c => { c with lrnBwd := 0 })
  | 0x08 => (c.lrnUpdates.toNat, s.updCtr fun c => { c with lrnUpdates := 0 })
  | 0x0C => (c.lrnStale.toNat * 2 ^ 16 + c.lrnMismatch.toNat, s.updCtr fun c => { c with lrnStale := 0, lrnMismatch := 0 })
  | 0x10 => (lo32 c.lrnStep, s.updCtr fun c => { c with lrnStepHi := hi32 c.lrnStep })
  | 0x14 => (c.lrnStepHi.toNat, s)
  | 0x18 => ((s.phases.filter fun x => !x.read).length * 2 ^ 16 + s.phases.length, s)
  | _ => (0, s)

/-- Regions in DRAINING of a model. -/
def State.drainingOf (s : State) (n : Nat) (m : Model) : Nat := (m.indices.filter fun i => ssOf (s.stw n m i) == 5).length

/-- A weight register (Tables 11.15, 11.16). -/
def readFsh (r : Nat) (s : State) : Nat × State :=
  let c := s.ctr
  match r with
  | 0x00 => (c.fshReceived.toNat, s.updCtr fun c => { c with fshReceived := 0 })
  | 0x04 => (c.fshFails.toNat, s.updCtr fun c => { c with fshFails := 0 })
  | 0x08 => (c.fshHeld.toNat * 2 ^ 16 + c.fshReleased.toNat, s.updCtr fun c => { c with fshHeld := 0, fshReleased := 0 })
  | 0x0C => ((s.jobs.flatMap fun j => j.models.map fun m => s.drainingOf j.vi m).sum % 2 ^ 17, s)
  | 0x10 => (c.fshStream.toNat, s.updCtr fun c => { c with fshStream := 0 })
  | 0x14 => (c.fshStall.toNat, s.updCtr fun c => { c with fshStall := 0 })
  | _ => (0, s)

/-- A memory register of the module (Tables 12.15, 12.16). -/
def readMem (r : Nat) (s : State) : Nat × State :=
  match r with
  | 0x00 => (s.memFree, s)
  | 0x04 => (s.mapped, s)
  | 0x08 => (s.ctr.memXmiss.toNat, s.updCtr fun c => { c with memXmiss := 0 })
  | 0x0C => (s.ctr.memWait.toNat, s.updCtr fun c => { c with memWait := 0 })
  | _ => (0, s)

/-- A register of a stack. -/
def readStk (k r : Nat) (s : State) : Nat × State :=
  let t := s.stk k
  match r with
  | 0x00 => if s.inReset (.stackCtl k) then (0, s) else (t.oxbow.toNat * 2 ^ 12 + b2n t.recalDue * 2 ^ 8 + t.state.toNat, s)
  | 0x04 => (t.ce.toNat, s.updStk k fun t => { t with ce := 0 })
  | 0x08 => (t.ueScrub.toNat * 2 ^ 16 + t.ueRead.toNat, s.updStk k fun t => { t with ueScrub := 0, ueRead := 0 })
  | 0x0C => (t.lastErr.toNat, s.updStk k fun t => { t with lastErr := 0 })
  | 0x10 => (t.scrubPasses.toNat * 2 ^ 16 + t.scrubDone * 65536 / 2 ^ 30 % 65536, s)
  | 0x14 => (t.retiredCount.toNat * 2 ^ 16 + t.soft.toNat, s)
  | 0x18 => (t.forced.toNat * 2 ^ 16 + t.windows.toNat, s.updStk k fun t => { t with forced := 0, windows := 0 })
  | _ => (0, s)

/-- A register of a hub. -/
def readHub (h r : Nat) (s : State) : Nat × State :=
  let x := s.hub h
  match r with
  | 0x00 => (x.mig.toNat, s.updHub h fun x => { x with mig := 0 })
  | 0x04 => (x.ahead.toNat, s.updHub h fun x => { x with ahead := 0 })
  | 0x08 => (x.parity.toNat, s.updHub h fun x => { x with parity := 0 })
  | 0x0C => ((s.usedHomes.filter fun a => match a with | .stage h' _ => h' == h | _ => false).length, s)
  | _ => (0, s)

/-- A checkpoint register (Tables 14.13, 14.14). -/
def readCkpt (r : Nat) (s : State) : Nat × State :=
  let c := s.ctr
  let total := ((List.range 32).map fun k => if s.inService k then (s.oxbowOf k).length else 0).sum
  match r with
  | 0x00 => (total, s)
  | 0x04 => (total - (s.jobs.map fun j => j.oxbow.length).sum, s)
  | 0x08 => ((s.jobs.map fun j => j.holds.length).sum * 2 ^ 16
      + (s.jobs.map fun j => (j.ckpts.filter fun x => x.state == 0 || x.state == 1).length).sum, s)
  | 0x0C => (c.ckptAhead.toNat, s.updCtr fun c => { c with ckptAhead := 0 })
  | 0x10 => (c.ckptStall.toNat, s.updCtr fun c => { c with ckptStall := 0 })
  | 0x14 => (c.ckptCopied.toNat, s.updCtr fun c => { c with ckptCopied := 0 })
  | 0x18 => (c.ckptSent.toNat, s.updCtr fun c => { c with ckptSent := 0 })
  | 0x1C => (c.ckptVerifyFails.toNat * 2 ^ 16 + c.ckptTakeFails.toNat,
      s.updCtr fun c => { c with ckptVerifyFails := 0, ckptTakeFails := 0 })
  | _ => (0, s)

/-- Queued jobs of a class. -/
def State.queuedOf (s : State) (cls : Nat) : Nat :=
  (s.sched.queue.filter fun id => match s.job? id with | some j => j.cls == cls | none => false).length % 512

/-- A job register (Tables 15.10, 15.11). -/
def readJob (r : Nat) (s : State) : Nat × State :=
  let c := s.ctr
  let cls := match s.sched.holder.bind s.job? with | some j => (s.quota j.vi).cls | none => 0
  match r with
  | 0x00 => (b2n s.sched.stepMode * 2 ^ 31 + b2n s.sched.switching * 2 ^ 30 + cls * 2 ^ 28 + s.sched.holder.getD 0xFFFF, s)
  | 0x04 => (s.queuedOf 1 * 2 ^ 16 + s.queuedOf 2, s)
  | 0x08 => (s.jobs.length * 2 ^ 16 + (s.jobs.filter fun j => !j.evicted).length, s)
  | 0x0C => (c.jobSwitches.toNat, s.updCtr fun c => { c with jobSwitches := 0 })
  | 0x10 => (c.jobSwitchLong.toNat, s.updCtr fun c => { c with jobSwitchLong := 0 })
  | 0x14 => (c.preemptsClass.toNat * 2 ^ 16 + c.preemptsCommand.toNat,
      s.updCtr fun c => { c with preemptsClass := 0, preemptsCommand := 0 })
  | 0x18 => (c.refusalsBackfill.toNat * 2 ^ 16 + c.refusalsClass.toNat,
      s.updCtr fun c => { c with refusalsBackfill := 0, refusalsClass := 0 })
  | 0x1C => (c.blkRepeated.toNat * 2 ^ 16 + c.blkFailed.toNat, s.updCtr fun c => { c with blkRepeated := 0, blkFailed := 0 })
  | _ => (0, s)

/-! ## Fabric (Tables 13.16, 13.17) -/

/-- A register of a port. -/
def readPort (p r : Nat) (s : State) : Nat × State :=
  let t := s.port p
  match r with
  | 0x00 => (b2n t.eth * 2 ^ 31 + b2n t.spare * 2 ^ 29 + b2n t.unfit * 2 ^ 28 + t.state.toNat * 2 ^ 24 + t.standsFor.toNat * 2 ^ 16
      + t.lanes.toNat, s)
  | 0x04 => (t.peer.toNat * 2 ^ 16 + t.peerPort.toNat, s)
  | 0x08 => (t.fecCorr.toNat, s.updPort p fun t => { t with fecCorr := 0 })
  | 0x0C => (t.fecUnc.toNat, s.updPort p fun t => { t with fecUnc := 0 })
  | 0x10 => (t.replays.toNat * 2 ^ 16 + t.drops.toNat, s.updPort p fun t => { t with replays := 0, drops := 0 })
  | 0x14 => (t.pat3.toNat * 2 ^ 24 + t.pat2.toNat * 2 ^ 16 + t.pat1.toNat * 2 ^ 8 + t.pat0.toNat,
      s.updPort p fun t => { t with pat0 := 0, pat1 := 0, pat2 := 0, pat3 := 0 })
  | 0x18 => (t.delay.toNat, s)
  | 0x1C => (t.tx.toNat, s.updPort p fun t => { t with tx := 0 })
  | _ => (0, s)

/-- Change the Weir and the transport. -/
def State.updFab (s : State) (f : Fabric → Fabric) : State := { s with fab := f s.fab }

/-- A register of the Weir. -/
def readWeir (r : Nat) (s : State) : Nat × State :=
  let f := s.fab
  let pool (h : Nat) : Nat := (f.slots.filter fun x => x.half == h).length
  let pfx := tget 0 f.prefixes f.pfxIndex.toNat
  match r with
  | 0x00 => (pool 1 * 2 ^ 16 + pool 0, s)
  | 0x04 => (f.groups.length, s)
  | 0x08 => (f.crcFails.toNat, s.updFab fun f => { f with crcFails := 0 })
  | 0x0C => (f.retx.toNat, s.updFab fun f => { f with retx := 0 })
  | 0x10 => (f.rtIndex.toNat, s)
  | 0x14 => ((tget 0 f.routes f.rtIndex.toNat).toNat, s)
  | 0x18 => (f.denied.toNat * 2 ^ 16 + f.drops.toNat, s.updFab fun f => { f with denied := 0, drops := 0 })
  | 0x1C => (f.pfxIndex.toNat, s)
  | 0x20 => (lo32 pfx, s)
  | 0x24 => ((hi32 pfx).toNat, s)
  | _ => (0, s)

/-! ## Faults (Tables 16.2, 16.3, 16.8) -/

/-- A register of a fault unit. -/
def readFault (u r : Nat) (s : State) : Nat × State :=
  let f := s.fault u
  let (n, w, sv, mn, vec) := unitCfg u f
  match r with
  | 0x0 => (b2n f.severe * 2 ^ 31 + b2n f.event * 2 ^ 30 + b2n f.errHeld * 2 ^ 29 + b2n f.fatalHeld * 2 ^ 28 + f.lastFret.toNat, s)
  | 0x4 => (f.window.toNat * 2 ^ 24 + f.total.toNat, s.updFault u fun f => { f with total := 0 })
  | 0x8 => (n * 2 ^ 24 + w, s)
  | 0xC => (sv * 2 ^ 24 + mn * 2 ^ 16 + vec * 2 ^ 8 + unitKind u, s)
  | _ => (0, s)

/-- A register of the notice ring. -/
def readNtc (r : Nat) (s : State) : Nat × State :=
  let x := s.ntc
  match r with
  | 0x00 => (lo32 x.base, s)
  | 0x04 => ((hi32 x.base).toNat, s)
  | 0x08 => (b2n x.en * 2 ^ 31 + x.sizeLog2.toNat, s)
  | 0x0C => (x.tail.toNat, s)
  | 0x10 => (x.head.toNat, s)
  | 0x14 => (x.drop.toNat, { s with ntc := { x with drop := 0 } })
  | _ => (0, s)

/-! ## Boot and power (Tables 17.18, 17.19, 18.12, 18.13) -/

/-- A boot or record register. -/
def readBoot (r : Nat) (s : State) : Nat :=
  let b := s.boot
  match r with
  | 0x00 => b.reason.toNat * 2 ^ 24 + b2n b.trial * 2 ^ 20 + b2n b.identity * 2 ^ 19 + b2n b.pair * 2 ^ 18 + b2n b.slotB * 2 ^ 17
      + b2n b.preferred * 2 ^ 16 + b.state.toNat
  | 0x04 => b.time.toNat
  | 0x08 => b.fw.toNat
  | 0x0C => b.fwAlt.toNat
  | 0x10 => b.svn.toNat
  | 0x14 => b.dies.toNat
  | 0x18 => b.spares.toNat
  | 0x1C => b.resources.toNat
  | 0x20 => b2n b.owner * 2 ^ 31 + b.skipped.toNat * 2 ^ 16 + b.records.toNat
  | 0x24 => b.gen.toNat
  | 0x28 => b2n b.evFull * 2 ^ 31 + b.evNext
  | 0x2C => b.evLost.toNat
  | 0x30 => b.cycles.toNat
  | 0x34 => b.hours.toNat
  | 0x38 => b.seconds.toNat
  | _ => 0

/-- Margin of a reading: throttle point minus temperature, in 1/16 °C. -/
def margin (i : Nat) (t : Half) : Int := (limits i).1 * 16 - degrees t

/-- THM_HOT: the sensor nearest its throttle point, the lowest-numbered of equal ones; 0 before any reading. -/
def thmHot (w : Power) : Nat :=
  let best := w.temps.foldl (fun b e =>
    match b with
    | none => some e
    | some x =>
      if margin e.1 e.2 < margin x.1 x.2 ∨ (margin e.1 e.2 = margin x.1 x.2 ∧ e.1 < x.1) then some e else some x) none
  match best with
  | none => 0
  | some e => e.1 * 2 ^ 16 + (BitVec.ofInt 16 (margin e.1 e.2)).toNat

/-- A power register. -/
def readPwr (r : Nat) (s : State) : Nat × State :=
  let w := s.power
  let put (f : Power → Power) : State := { s with power := f s.power }
  let joules : Dword := BitVec.ofNat 64 (w.energyMj / 1000)
  match r with
  | 0x00 => (b2n (decide (w.thermalStep < w.capStep)) * 2 ^ 31 + b2n w.voltLimit * 2 ^ 30
      + b2n (decide (w.measStep < w.capStep)) * 2 ^ 29 + b2n w.oneFeed * 2 ^ 28 + w.capStep * 2 ^ 16 + s.clockStep * 2 ^ 8 + w.cap % 2 ^ 8, s)
  | 0x04 => (w.mv / 4 * 2 ^ 16 + w.watts % 2 ^ 16, s)
  | 0x08 => (w.feedB.toNat * 2 ^ 16 + w.feedA.toNat, s)
  | 0x0C => (lo32 joules, put fun w => { w with energyHi := hi32 joules })
  | 0x10 => (w.energyHi.toNat, s)
  | 0x14 => (w.thrThermal.toNat * 2 ^ 16 + w.thrVoltage.toNat * 2 ^ 8 + w.thrPower.toNat,
      put fun w => { w with thrThermal := 0, thrVoltage := 0, thrPower := 0 })
  | 0x18 => (w.limitedMs.toNat, put fun w => { w with limitedMs := 0 })
  | 0x1C => (thmHot w, s)
  | _ => (0, s)

/-- THM_SENSOR(i). -/
def readThm (i : Nat) (s : State) : Nat :=
  match s.power.temps.find? fun e => e.1 == i with
  | none => 0
  | some e => 2 ^ 31 + b2n (hot i e.2) * 2 ^ 30 + e.2.toNat

/-! ## The address map -/

/-- A management register of BAR0 of VI0 (R46 and the rule of each block); offsets that no table names are res. -/
def readMgmt (off : Nat) (s : State) : Nat × State :=
  let within (lo hi : Nat) : Bool := decide (lo ≤ off ∧ off < hi)
  let rel (b : Nat) : Nat := off - b
  if within 0x12000 0x12024 then readFtu (rel 0x12000) s
  else if within 0x20000 0x29900 then
    readArr (rel 0x20000 / 0x40 / 34) (rel 0x20000 / 0x40 % 34 / 2) (rel 0x20000 / 0x40 % 2) (rel 0x20000 % 0x40) s
  else if within 0x2A000 0x2C640 then readMvp (rel 0x2A000 / 0x20 / 17) (rel 0x2A000 / 0x20 % 17) (off % 0x20) s
  else if within 0x2D000 0x2F640 then readBrd (rel 0x2D000 / 0x20 / 17) (rel 0x2D000 / 0x20 % 17) (off % 0x20) s
  else if within 0x2F800 0x2F920 then readSmp (rel 0x2F800 / 0x10) (off % 0x10) s
  else if within 0x30000 0x30120 then readTil (rel 0x30000 / 0x10) (off % 0x10) s
  else if within 0x30200 0x30220 then readGen (off % 0x20) s
  else if within 0x30300 0x30320 then readKv (off % 0x20) s
  else if within 0x30400 0x30420 then readLrn (off % 0x20) s
  else if within 0x30500 0x30520 then readFsh (off % 0x20) s
  else if within 0x30600 0x30610 then readMem (off % 0x10) s
  else if within 0x30700 0x30720 then readCkpt (off % 0x20) s
  else if within 0x30800 0x30820 then readJob (off % 0x20) s
  else if within 0x30900 0x30940 then (readBoot (rel 0x30900) s, s)
  else if within 0x30A00 0x30A20 then readPwr (rel 0x30A00) s
  else if within 0x30C00 0x30CFC ∧ off % 4 = 0 then (readThm (rel 0x30C00 / 4) s, s)
  else if within 0x31000 0x31400 then readStk (rel 0x31000 / 0x20) (off % 0x20) s
  else if within 0x31400 0x31480 then readHub (rel 0x31400 / 0x10) (off % 0x10) s
  else if within 0x31800 0x31A80 then readPort (rel 0x31800 / 0x20) (off % 0x20) s
  else if within 0x31B00 0x31B30 then readWeir (rel 0x31B00) s
  else if within 0x32000 0x3A340 then readFault (rel 0x32000 / 0x10) (off % 0x10) s
  else if within 0x3A400 0x3A418 then readNtc (rel 0x3A400) s
  else if within 0x3A500 0x3A620 then readTst (rel 0x3A500 / 0x10) (off % 0x10) s
  else (0, s)

/-- Read a register of a VI; the management registers lie behind VI0 alone (R46). -/
def readReg (n off : Nat) (s : State) : Nat × State :=
  if off < 0x10000 then readVi n off s else if n = 0 then readMgmt off s else (0, s)

/-- The bus takes the value that a read returns; a function that is not enabled answers nothing. -/
def busRead (n off : Nat) (s : State) : State :=
  if s.viOn n then
    let (v, t) := readReg n off s
    { t with busRead := BitVec.ofNat 32 v }
  else s

/-- LATCHING_READ (R47, R113, R192, R236, R428, R768). -/
def latchingRead (n off : Nat) (s : State) : State := busRead n off s

/-- RC_READ (R20, Table 0.5). -/
def rcRead (n off : Nat) (s : State) : State := busRead n off s

/-- LATCHING_READ (R47). -/
def execLatchingRead (vi offset : Nat) (s : State) : Out := event (viOk vi) (latchingRead vi offset s)

/-- RC_READ (R20). -/
def execRcRead (vi offset : Nat) (s : State) : Out := event (viOk vi) (rcRead vi offset s)

/-! ## Writes (R18, R47 to R51, R552, R677; Table 0.5) -/

/-- A ring base with its low half written: bits [31:12] (Table 2.5). -/
def baseLo (b : Dword) (v : Word) : Dword := BitVec.ofNat 64 (b.toNat / 2 ^ 32 * 2 ^ 32 + v.toNat / 4096 * 4096)

/-- A 64-bit value with its high half written. -/
def putHi (b : Dword) (v : Word) : Dword := BitVec.ofNat 64 (v.toNat * 2 ^ 32 + b.toNat % 2 ^ 32)

/-- A 64-bit value with its low half written. -/
def putLo (b : Dword) (v : Word) : Dword := BitVec.ofNat 64 (b.toNat / 2 ^ 32 * 2 ^ 32 + v.toNat)

/-- SQ_BASE is written while IDLE is 1 (R51). -/
def writeSqBase (n q : Nat) (f : Dword → Dword) (s : State) : State :=
  if s.sqIdle n q then s.updSq n q fun u => { u with base := f u.base } else s

/-- CQ_BASE is written while EN is 0 (R51). -/
def writeCqBase (n q : Nat) (f : Dword → Dword) (s : State) : State :=
  if ((s.vi n).cq q).en then s else s.updCq n q fun c => { c with base := f c.base }

/-- VI_CTRL less RESET, which has its own row (R48). -/
def writeViCtrl (n : Nat) (v : Word) (s : State) : State :=
  s.updVi n fun x => { x with evtVec := BitVec.ofNat 2 (bw v 7 6), evtIen := v.getLsbD 5 }

/-- VI_STATUS: DB_ERR and TAG_ERR clear where 1 is written (R48, Table 0.5). -/
def writeViStatus (n : Nat) (v : Word) (s : State) : State :=
  s.updVi n fun x => { x with dbErr := x.dbErr && !v.getLsbD 2, tagErr := x.tagErr && !v.getLsbD 1 }

/-- A write to a VI's page. -/
def writeVi (n off : Nat) (v : Word) (s : State) : State :=
  if off = 0x0008 then writeViCtrl n v s
  else if off = 0x000C then writeViStatus n v s
  else if 0x100 ≤ off ∧ off < 0x200 then
    let q := (off - 0x100) / 0x20
    match off % 0x20 with
    | 0x00 => writeSqBase n q (baseLo · v) s
    | 0x04 => writeSqBase n q (putHi · v) s
    | _ => s
  else if 0x200 ≤ off ∧ off < 0x300 then
    let q := (off - 0x200) / 0x20
    match off % 0x20 with
    | 0x00 => writeCqBase n q (baseLo · v) s
    | 0x04 => writeCqBase n q (putHi · v) s
    | _ => s
  else s

/-- FLT_NTC_BASE is written while the ring is disabled (R51, R677). -/
def writeNtcBase (f : Dword → Dword) (s : State) : State :=
  if s.ntc.en then s else { s with ntc := { s.ntc with base := f s.ntc.base } }

/-- The prefix of the selected pod (Table 13.17). -/
def writePfx (f : Dword → Dword) (s : State) : State :=
  s.updFab fun x =>
    let k := x.pfxIndex.toNat
    let w := f (tget 0 x.prefixes k)
    { x with prefixes := if w = 0 then terase x.prefixes k else tset x.prefixes k w }

/-- A write to a management register that has no row of its own. -/
def writeMgmt (off : Nat) (v : Word) (s : State) : State :=
  match off with
  | 0x31B10 => s.updFab fun f => { f with rtIndex := BitVec.ofNat 16 (bw v 15 0) }
  | 0x31B1C => s.updFab fun f => { f with pfxIndex := BitVec.ofNat 6 (bw v 5 0) }
  | 0x31B20 => writePfx (putLo · v) s
  | 0x31B24 => writePfx (putHi · v) s
  | 0x3A400 => writeNtcBase (baseLo · v) s
  | 0x3A404 => writeNtcBase (putHi · v) s
  | _ => s

/-- REGISTER_WRITE: stored, cleared or ignored by the register's access code (Table 0.5). -/
def regWrite (n off : Nat) (v : Word) (s : State) : State :=
  if !(s.viOn n) then s
  else if off < 0x10000 then writeVi n off v s
  else if n = 0 then writeMgmt off v s
  else s

/-- REGISTER_WRITE (R18). -/
def execRegisterWrite (vi offset : Nat) (value : Word) (s : State) : Out := event (viOk vi) (regWrite vi offset value s)

/-- WEIR_RT_DATA_WRITE: the entry that WEIR_RT_INDEX selects, for chunks sent from now on (R552); res bits read zero (R17). -/
def rtDataWrite (value : Word) (s : State) : State :=
  s.updFab fun f =>
    let w : Word := BitVec.ofNat 32 (bw value 31 31 * 2 ^ 31 + bw value 19 0)
    { f with routes := if w = 0 then terase f.routes f.rtIndex.toNat else tset f.routes f.rtIndex.toNat w }

/-- WEIR_RT_DATA_WRITE (R552). -/
def execWeirRtDataWrite (value : Word) (s : State) : Out := .next (rtDataWrite value s)

end Sys2Proof.Machine
end

