-- ==== Sys2Proof/Machine/Run.lean ====
section
/-! DEFINITION. The effect of a dispatched packet by its opcode and ACTION (Tables 2.14 to 2.23), the dispatch of packets
that waited behind a BARRIER or a FENCE, and the end of a switch (spec/02_command_protocol.md,
spec/15_job_scheduling.md). -/

namespace Sys2Proof.Machine

open Sys2Proof

/-- Classes 0x01 and 0x02: memory and compute. -/
def runCompute (p : Packet) : State → State :=
  let act := bf p.p0 7 0
  match p.op with
  | 0x0101 => effMove p
  | 0x0102 => effFill p
  | 0x0103 => effMigrate p
  | 0x0104 => match act with | 1 => effPlaceMap p | 2 => effPlaceUnmap p | 3 => effPlaceQuery p | _ => postFree p
  | 0x0105 => effFence p
  | 0x0201 | 0x0202 => effMatmul p
  | 0x0203 => effBraidRun p
  | 0x0204 => match act with | 1 => effSlotLoad p | 2 => effSeedLoad p | _ => postFree p
  | 0x0205 => effSlotLoad p
  | 0x0206 => effAttnFwd p
  | 0x0207 => effAttnBwd p
  | _ => postFree p

/-- Classes 0x03 and 0x04: rollouts and KV pages. -/
def runRollout (p : Packet) : State → State :=
  let act := bf p.p0 7 0
  match p.op with
  | 0x0301 => match act with | 1 => effRolloutOpen p | 2 => effRolloutClose p | _ => postFree p
  | 0x0302 => effRolloutStep p
  | 0x0303 => effSample p
  | 0x0304 => effSeqCancel p
  | 0x0305 => effSpecVerify p
  | 0x0306 => effPrefill p
  | 0x0401 => match act with | 1 => effPoolCreate p | 2 => effPoolPolicy p | 3 => effPoolDestroy p | _ => postFree p
  | 0x0402 => match act with | 1 => effKvReceive p | 2 => fun s => pump (effKvSend p s) | _ => postFree p
  | 0x0403 => effKvFork p
  | 0x0404 => effKvRelease p
  | _ => postFree p

/-- Classes 0x05 and 0x06: learning and weights. -/
def runLearn (p : Packet) : State → State :=
  match p.op with
  | 0x0501 => effPassFwd p
  | 0x0502 => effPass p
  | 0x0503 => effUpdate p
  | 0x0504 => effStepSizeSet p
  | 0x0505 => effSlotLoad p
  | 0x0601 => effStowLoad p
  | 0x0602 => match bf p.p0 39 32 with | 1 => effAdapterLoad p | 2 => effAdapterUnload p | _ => postFree p
  | 0x0603 => fun s => pump (effPush p s)
  | 0x0604 => match bf p.p0 23 16 with | 1 => effFlip p | 2 => effDiscard p | _ => postFree p
  | 0x0605 => effModelDrain p
  | _ => postFree p

/-- Classes 0x07 and 0x08: the fabric and checkpoints. -/
def runFabric (p : Packet) : State → State :=
  let act := bf p.p0 7 0
  match p.op with
  | 0x0701 | 0x0702 | 0x0703 | 0x0704 => effRemote p
  | 0x0705 | 0x0706 | 0x0707 => effColl p
  | 0x0708 => match act with | 1 => effGroupDefine p | 2 => effGroupRelease p | 3 => effSetDomain p | _ => postFree p
  | 0x0801 => match act with | 1 => effTake p | 2 => effHold p | 3 => effCkptDiscard p | _ => postFree p
  | 0x0802 => match act with | 1 => effReadback p | 2 => effExport p | 3 => effList p | _ => postFree p
  | 0x0803 => effRestore p
  | 0x0804 => effRollback p
  | 0x0805 => effShrink p
  | _ => postFree p

/-- Classes 0x09 and 0x0A: jobs and tests. -/
def runJobs (p : Packet) : State → State :=
  let act := bf p.p0 7 0
  match p.op with
  | 0x0901 => effJobCreate p
  | 0x0902 => effJobStart p
  | 0x0903 => effJobPreempt p
  | 0x0904 => effJobEndAll p
  | 0x0905 => match act with | 1 => effAbortPacket p | 2 => effAbortJob p | _ => postFree p
  | 0x0906 =>
    match act with | 1 => effAdmissionSetVi p | 2 => effAdmissionSetMode p | 3 => effAdmissionQuery p | _ => postFree p
  | 0x0A01 =>
    match act with
    | 1 => effSelftestCore p
    | 2 => effSelftestSliced p
    | 3 => effSelftestStop p
    | 4 => effSelftestRotation p
    | _ => postFree p
  | 0x0A02 => effCalibrate p
  | 0x0A03 => if p.p0.getLsbD 24 then effLinkPatternStop p else effLinkPattern p
  | _ => postFree p

/-- Class 0x0F: management. -/
def runManage (p : Packet) : State → State :=
  let act := bf p.p0 7 0
  match p.op with
  | 0x0F01 => effEvrecRead p
  | 0x0F02 => effFwStage p
  | 0x0F03 =>
    match act with
    | 1 => effFwActivateTrial p
    | 2 => effFwActivateCommit p
    | 3 => effFwActivateDisarm p
    | 4 => effFwActivateReset p
    | _ => postFree p
  | 0x0F04 => match act with | 1 => effPowerCapSet p | 2 => effPowerCapQuery p | _ => postFree p
  | 0x0F05 =>
    match act with
    | 1 => effSetRole p
    | 2 => effSetPeriod p
    | 3 => effArmEpoch p
    | 4 => effSetBeaconPorts p
    | _ => postFree p
  | 0x0F06 => match act with | 1 => effFaultPolicySet p | 2 => effFaultPolicyDefaults p | _ => postFree p
  | 0x0F07 => effPhaseTimesRead p
  | 0x0F08 =>
    match act with
    | 1 => effConfigInstall p
    | 2 => effConfigRead p
    | 3 => effSaveRoutes p
    | 4 => effConfigClear p
    | _ => postFree p
  | _ => postFree p

/-- The effect of a packet whose dispatch has come. -/
def runEffect (p : Packet) : State → State :=
  match p.op / 256 with
  | 1 | 2 => runCompute p
  | 3 | 4 => runRollout p
  | 5 | 6 => runLearn p
  | 7 | 8 => runFabric p
  | 9 | 10 => runJobs p
  | _ => runManage p

/-- Dispatch the packets that wait in an SQ, in ring order, as far as no BARRIER and no FENCE holds them (R777, R497). -/
def dispatchWaiting (n q : Nat) : Nat → State → State
  | 0, s => s
  | k + 1, s =>
    match ((s.vi n).sq q).waiting with
    | [] => s
    | p :: rest =>
      if (p.barrier && earlierOpen p s) || fenceHolds p s then s
      else dispatchWaiting n q k (jobGate p runEffect (s.updSq n q fun u => { u with waiting := rest }))

/-- BARRIER_DISPATCH (R777). -/
def execBarrierDispatch (vi sq : Nat) (s : State) : Out :=
  event (viOk vi && decide (sq < 8)) (dispatchWaiting vi sq ((s.vi vi).sq sq).waiting.length s)

/-- JOB_SWITCH_END (R644). -/
def execJobSwitchEnd (us : Nat) (s : State) : Out := .next (switchEnd runEffect us s)

end Sys2Proof.Machine
end

