-- ==== Sys2Proof/Machine/Boundary.lean ====
section
/-! DEFINITION. FRET_BOUNDARY (R85): the FTU's part, the phase counts of the fret that ends (R422), and what waits and can go
on (notes/assumptions/19.md). -/

namespace Sys2Proof.Machine

open Sys2Proof

/-- The fret that ends is counted in every open phase window (R422). -/
def countPhases (s : State) : State :=
  s.jobs.foldl (fun t j =>
    match j.window with
    | some w => t.updJob j.id fun x => { x with window := some (s.countFret j.id w) }
    | none => t) s

/-- A started job whose window has closed opens the next one in this fret (R419). -/
def reopenWindows (s : State) : State :=
  s.jobs.foldl (fun t j => if j.everRun && j.window.isNone then openWindow j.id s.ftu.count t else t) s

/-- The position of a queued Standard job has changed, and 10,000 frets have passed since it was last told (R639). -/
def State.positionDue (s : State) (j : Job) : Bool :=
  j.state == 1 && s.clsOf j.id == 2 && !s.sched.stepMode &&
    match j.deferred with
    | some (k, f) => k != s.position j.id && decide (10000 ≤ (s.ftu.count - f).toNat)
    | none => false

/-- Interim DEFERRED records at a change of position (R639). -/
def tellPositions (s : State) : State :=
  s.jobs.foldl (fun t j => if s.positionDue j then defer j.id t else t) s

/-- JOB_ENDs whose awaited packets have all posted their final records act (R649). -/
def settleJobEnds (s : State) : State :=
  s.opens.foldl (fun t o =>
    match t.open? o.pkt.key with
    | some { pkt := p, prog := .jobEnd awaits } =>
      let held := (t.heldOf p.job).map Packet.key
      if awaits.any fun k => (t.dispatched k.vi).contains k || held.contains k then t else endJob p t
    | _ => t) s

/-- Commands that waited go on where nothing holds them any more: passes and UPDATEs, fabric work, attention pins,
releases of KV pages, drains, rollbacks, group releases, slot loads, aborts and job ends. -/
def settleAll (s : State) : State :=
  let s1 := settleAttn (motionEnds (settleLearn true (settleSlots s)))
  let s2 := settleRollbacks (settleGroups (settleDrains (settleReleases s1)))
  settleJobEnds (settleAborts s2)

/-- Translation cache misses are counted in units the module does not determine: a free amount (notes/assumptions/3.md). -/
def countMisses (s : State) : State :=
  ({ s with ctr := { s.ctr with memXmiss := satAdd s.ctr.memXmiss (s.freeVal.toNat % 2 ^ 32) } } : State).nextFree

/-- A fret boundary: the fret that ends is counted, the FTU counts its boundary, and waiting commands go on. -/
def fretBoundary (refPhase : Option Half) (s : State) : State :=
  let s1 := countMisses (countWindows (countPhases s))
  tellPositions (settleAll (reopenWindows (ftuBoundary refPhase s1)))

/-- FRET_BOUNDARY (R85). The counter starts with the management plane's boot; before it there is no boundary. -/
def execFretBoundary (refPhase : Option Half) (s : State) : Out :=
  .next (if s.boot.stage = 0 then s else fretBoundary refPhase s)

end Sys2Proof.Machine
end

