-- ==== Sys2Proof/Machine/Dispatch.lean ====
section
/-! DEFINITION. The meaning of each command. -/

namespace Sys2Proof.Machine

open Sys2Proof

/-- The effect of a command on everything but the queue of waiting commands. -/
def exec (i : Instr) (s : State) : Host.Outcome State Fault Refusal :=
  match i with
  | .move p => Sys2Proof.Machine.execMove p s
  | .fill p => Sys2Proof.Machine.execFill p s
  | .migrate p => Sys2Proof.Machine.execMigrate p s
  | .placeMap p => Sys2Proof.Machine.execPlaceMap p s
  | .placeUnmap p => Sys2Proof.Machine.execPlaceUnmap p s
  | .placeQuery p => Sys2Proof.Machine.execPlaceQuery p s
  | .fence p => Sys2Proof.Machine.execFence p s
  | .matmul p => Sys2Proof.Machine.execMatmul p s
  | .matmulBatched p => Sys2Proof.Machine.execMatmulBatched p s
  | .braidRun p => Sys2Proof.Machine.execBraidRun p s
  | .braidLoadProgram p => Sys2Proof.Machine.execBraidLoadProgram p s
  | .braidLoadSeed p => Sys2Proof.Machine.execBraidLoadSeed p s
  | .tableLoad p => Sys2Proof.Machine.execTableLoad p s
  | .attnFwd p => Sys2Proof.Machine.execAttnFwd p s
  | .attnBwd p => Sys2Proof.Machine.execAttnBwd p s
  | .rolloutOpen p => Sys2Proof.Machine.execRolloutOpen p s
  | .rolloutClose p => Sys2Proof.Machine.execRolloutClose p s
  | .rolloutStep p => Sys2Proof.Machine.execRolloutStep p s
  | .sample p => Sys2Proof.Machine.execSample p s
  | .seqCancel p => Sys2Proof.Machine.execSeqCancel p s
  | .specVerify p => Sys2Proof.Machine.execSpecVerify p s
  | .prefill p => Sys2Proof.Machine.execPrefill p s
  | .kvPoolCreate p => Sys2Proof.Machine.execKvPoolCreate p s
  | .kvPoolSetPolicy p => Sys2Proof.Machine.execKvPoolSetPolicy p s
  | .kvPoolDestroy p => Sys2Proof.Machine.execKvPoolDestroy p s
  | .kvShipReceive p => Sys2Proof.Machine.execKvShipReceive p s
  | .kvShipSend p => Sys2Proof.Machine.execKvShipSend p s
  | .kvFork p => Sys2Proof.Machine.execKvFork p s
  | .kvRelease p => Sys2Proof.Machine.execKvRelease p s
  | .passFwd p => Sys2Proof.Machine.execPassFwd p s
  | .passFwdQuery p => Sys2Proof.Machine.execPassFwdQuery p s
  | .passBwd p => Sys2Proof.Machine.execPassBwd p s
  | .update p => Sys2Proof.Machine.execUpdate p s
  | .stepSizeSet p => Sys2Proof.Machine.execStepSizeSet p s
  | .updateProgramLoad p => Sys2Proof.Machine.execUpdateProgramLoad p s
  | .stowLoad p => Sys2Proof.Machine.execStowLoad p s
  | .adapterLoad p => Sys2Proof.Machine.execAdapterLoad p s
  | .adapterUnload p => Sys2Proof.Machine.execAdapterUnload p s
  | .freshetPush p => Sys2Proof.Machine.execFreshetPush p s
  | .freshetFlip p => Sys2Proof.Machine.execFreshetFlip p s
  | .freshetDiscard p => Sys2Proof.Machine.execFreshetDiscard p s
  | .modelDrain p => Sys2Proof.Machine.execModelDrain p s
  | .put p => Sys2Proof.Machine.execPut p s
  | .get p => Sys2Proof.Machine.execGet p s
  | .atomic p => Sys2Proof.Machine.execAtomic p s
  | .signal p => Sys2Proof.Machine.execSignal p s
  | .shift p => Sys2Proof.Machine.execShift p s
  | .permute p => Sys2Proof.Machine.execPermute p s
  | .reduceShift p => Sys2Proof.Machine.execReduceShift p s
  | .groupDefine p => Sys2Proof.Machine.execGroupDefine p s
  | .groupRelease p => Sys2Proof.Machine.execGroupRelease p s
  | .setDomain p => Sys2Proof.Machine.execSetDomain p s
  | .ckptTake p => Sys2Proof.Machine.execCkptTake p s
  | .ckptHold p => Sys2Proof.Machine.execCkptHold p s
  | .ckptDiscard p => Sys2Proof.Machine.execCkptDiscard p s
  | .ckptReadback p => Sys2Proof.Machine.execCkptReadback p s
  | .ckptExport p => Sys2Proof.Machine.execCkptExport p s
  | .ckptList p => Sys2Proof.Machine.execCkptList p s
  | .restore p => Sys2Proof.Machine.execRestore p s
  | .rollback p => Sys2Proof.Machine.execRollback p s
  | .shrink p => Sys2Proof.Machine.execShrink p s
  | .jobCreate p => Sys2Proof.Machine.execJobCreate p s
  | .jobStart p => Sys2Proof.Machine.execJobStart p s
  | .jobPreempt p => Sys2Proof.Machine.execJobPreempt p s
  | .jobEnd p => Sys2Proof.Machine.execJobEnd p s
  | .abortPacket p => Sys2Proof.Machine.execAbortPacket p s
  | .abortJob p => Sys2Proof.Machine.execAbortJob p s
  | .admissionSetVi p => Sys2Proof.Machine.execAdmissionSetVi p s
  | .admissionSetMode p => Sys2Proof.Machine.execAdmissionSetMode p s
  | .admissionQuery p => Sys2Proof.Machine.execAdmissionQuery p s
  | .selftestCore p => Sys2Proof.Machine.execSelftestCore p s
  | .selftestSliced p => Sys2Proof.Machine.execSelftestSliced p s
  | .selftestStop p => Sys2Proof.Machine.execSelftestStop p s
  | .selftestRotation p => Sys2Proof.Machine.execSelftestRotation p s
  | .calibrate p => Sys2Proof.Machine.execCalibrate p s
  | .linkPattern p => Sys2Proof.Machine.execLinkPattern p s
  | .linkPatternStop p => Sys2Proof.Machine.execLinkPatternStop p s
  | .evrecRead p => Sys2Proof.Machine.execEvrecRead p s
  | .fwStage p => Sys2Proof.Machine.execFwStage p s
  | .fwActivateTrial p => Sys2Proof.Machine.execFwActivateTrial p s
  | .fwActivateCommit p => Sys2Proof.Machine.execFwActivateCommit p s
  | .fwActivateDisarm p => Sys2Proof.Machine.execFwActivateDisarm p s
  | .fwActivateReset p => Sys2Proof.Machine.execFwActivateReset p s
  | .powerCapSet p => Sys2Proof.Machine.execPowerCapSet p s
  | .powerCapQuery p => Sys2Proof.Machine.execPowerCapQuery p s
  | .setRole p => Sys2Proof.Machine.execSetRole p s
  | .setPeriod p => Sys2Proof.Machine.execSetPeriod p s
  | .armEpoch p => Sys2Proof.Machine.execArmEpoch p s
  | .setBeaconPorts p => Sys2Proof.Machine.execSetBeaconPorts p s
  | .faultPolicySet p => Sys2Proof.Machine.execFaultPolicySet p s
  | .faultPolicyDefaults p => Sys2Proof.Machine.execFaultPolicyDefaults p s
  | .phaseTimesRead p => Sys2Proof.Machine.execPhaseTimesRead p s
  | .configInstall p => Sys2Proof.Machine.execConfigInstall p s
  | .configRead p => Sys2Proof.Machine.execConfigRead p s
  | .saveRoutes p => Sys2Proof.Machine.execSaveRoutes p s
  | .configClear p => Sys2Proof.Machine.execConfigClear p s
  | .sqTailDbWrite vi q value => Sys2Proof.Machine.execSqTailDbWrite vi q value s
  | .cqHeadDbWrite vi q value => Sys2Proof.Machine.execCqHeadDbWrite vi q value s
  | .sqCfgWrite vi q value => Sys2Proof.Machine.execSqCfgWrite vi q value s
  | .cqCfgWrite vi q value => Sys2Proof.Machine.execCqCfgWrite vi q value s
  | .viCtrlReset vi value => Sys2Proof.Machine.execViCtrlReset vi value s
  | .functionLevelReset vi => Sys2Proof.Machine.execFunctionLevelReset vi s
  | .viResetComplete vi => Sys2Proof.Machine.execViResetComplete vi s
  | .fltNtcCfgWrite value => Sys2Proof.Machine.execFltNtcCfgWrite value s
  | .fltNtcHeadWrite value => Sys2Proof.Machine.execFltNtcHeadWrite value s
  | .fltStatClear unit value => Sys2Proof.Machine.execFltStatClear unit value s
  | .weirRtDataWrite value => Sys2Proof.Machine.execWeirRtDataWrite value s
  | .latchingRead vi offset => Sys2Proof.Machine.execLatchingRead vi offset s
  | .rcRead vi offset => Sys2Proof.Machine.execRcRead vi offset s
  | .registerWrite vi offset value => Sys2Proof.Machine.execRegisterWrite vi offset value s
  | .irqTimeExpire vi cq => Sys2Proof.Machine.execIrqTimeExpire vi cq s
  | .barrierDispatch vi sq => Sys2Proof.Machine.execBarrierDispatch vi sq s
  | .powerOn mvA mvB => Sys2Proof.Machine.execPowerOn mvA mvB s
  | .pwrGood => Sys2Proof.Machine.execPwrGood s
  | .pwrEnDeassert us => Sys2Proof.Machine.execPwrEnDeassert us s
  | .perstNAssert us => Sys2Proof.Machine.execPerstNAssert us s
  | .bootStart => Sys2Proof.Machine.execBootStart s
  | .bootStageEnd r => Sys2Proof.Machine.execBootStageEnd r s
  | .pcieConfigRequest vi ms req => Sys2Proof.Machine.execPcieConfigRequest vi ms req s
  | .trialTimeout => Sys2Proof.Machine.execTrialTimeout s
  | .activateChipReset => Sys2Proof.Machine.execActivateChipReset s
  | .pldmFirmwareUpdate image => Sys2Proof.Machine.execPldmFirmwareUpdate image s
  | .spdmRequest code => Sys2Proof.Machine.execSpdmRequest code s
  | .pldmEventRetrieve => Sys2Proof.Machine.execPldmEventRetrieve s
  | .pcieHotReset => Sys2Proof.Machine.execPcieHotReset s
  | .pcieAerError status => Sys2Proof.Machine.execPcieAerError status s
  | .inputVoltageChange mv => Sys2Proof.Machine.execInputVoltageChange mv s
  | .voltageLimitLapse => Sys2Proof.Machine.execVoltageLimitLapse s
  | .feedLost feed mv => Sys2Proof.Machine.execFeedLost feed mv s
  | .feedRestored feed mv => Sys2Proof.Machine.execFeedRestored feed mv s
  | .powerMeasure watts => Sys2Proof.Machine.execPowerMeasure watts s
  | .thermalThrottle sensor temp => Sys2Proof.Machine.execThermalThrottle sensor temp s
  | .thermalStepTimer readings => Sys2Proof.Machine.execThermalStepTimer readings s
  | .thermalTrip sensor temp => Sys2Proof.Machine.execThermalTrip sensor temp s
  | .hoursTick => Sys2Proof.Machine.execHoursTick s
  | .fretBoundary refPhase => Sys2Proof.Machine.execFretBoundary refPhase s
  | .ftuLockAcquired => Sys2Proof.Machine.execFtuLockAcquired s
  | .ftuHoldoverEntry => Sys2Proof.Machine.execFtuHoldoverEntry s
  | .beaconReceive port b phase => Sys2Proof.Machine.execBeaconReceive port b phase s
  | .epochInMark => Sys2Proof.Machine.execEpochInMark s
  | .fretRefGained => Sys2Proof.Machine.execFretRefGained s
  | .fretRefLost => Sys2Proof.Machine.execFretRefLost s
  | .ckptFreeze job ckpt => Sys2Proof.Machine.execCkptFreeze job ckpt s
  | .flipDecision job model => Sys2Proof.Machine.execFlipDecision job model s
  | .collectiveStart vi sq seq => Sys2Proof.Machine.execCollectiveStart vi sq seq s
  | .recalWindowStart stack => Sys2Proof.Machine.execRecalWindowStart stack s
  | .recalWindowEnd stack rows => Sys2Proof.Machine.execRecalWindowEnd stack rows s
  | .recalDueSet stack => Sys2Proof.Machine.execRecalDueSet stack s
  | .recalForced stack => Sys2Proof.Machine.execRecalForced stack s
  | .scrubBurst stack frame burst result => Sys2Proof.Machine.execScrubBurst stack frame burst result s
  | .scrubDemandSlot stack => Sys2Proof.Machine.execScrubDemandSlot stack s
  | .pageMoveStart hub => Sys2Proof.Machine.execPageMoveStart hub s
  | .pageDrainEnd vi page => Sys2Proof.Machine.execPageDrainEnd vi page s
  | .pageCopyAheadDone vi page => Sys2Proof.Machine.execPageCopyAheadDone vi page s
  | .pageCopyDone vi page ns => Sys2Proof.Machine.execPageCopyDone vi page ns s
  | .frameZeroed frame => Sys2Proof.Machine.execFrameZeroed frame s
  | .hostTierStream job model region => Sys2Proof.Machine.execHostTierStream job model region s
  | .tileIssue die core u => Sys2Proof.Machine.execTileIssue die core u s
  | .tileEnd die core u ns => Sys2Proof.Machine.execTileEnd die core u ns s
  | .arrayCheckFail die core pass vector sumsA sumsB ns => Sys2Proof.Machine.execArrayCheckFail die core pass vector sumsA sumsB ns s
  | .arrayParityHalt die core found halt => Sys2Proof.Machine.execArrayParityHalt die core found halt s
  | .braidParityHalt die core spot ns => Sys2Proof.Machine.execBraidParityHalt die core spot ns s
  | .capoPointReached die core ns => Sys2Proof.Machine.execCapoPointReached die core ns s
  | .batchStep roll fail => Sys2Proof.Machine.execBatchStep roll fail s
  | .exhaustionPolicy job rollout slot => Sys2Proof.Machine.execExhaustionPolicy job rollout slot s
  | .kvPageCheck job pool table => Sys2Proof.Machine.execKvPageCheck job pool table s
  | .kvReceiveTimeout job pool table => Sys2Proof.Machine.execKvReceiveTimeout job pool table s
  | .freshetChunkCheck job model region => Sys2Proof.Machine.execFreshetChunkCheck job model region s
  | .pushClaimRetry vi sq seq => Sys2Proof.Machine.execPushClaimRetry vi sq seq s
  | .freshetBusy vi sq seq => Sys2Proof.Machine.execFreshetBusy vi sq seq s
  | .regionDrainEnd job model region => Sys2Proof.Machine.execRegionDrainEnd job model region s
  | .drainTimeout job model => Sys2Proof.Machine.execDrainTimeout job model s
  | .ckptRegionCopyDone job ckpt region result => Sys2Proof.Machine.execCkptRegionCopyDone job ckpt region result s
  | .ckptCopyAheadDone job ckpt region ns => Sys2Proof.Machine.execCkptCopyAheadDone job ckpt region ns s
  | .ckptComplete job ckpt => Sys2Proof.Machine.execCkptComplete job ckpt s
  | .flitReceive port f => Sys2Proof.Machine.execFlitReceive port f s
  | .ethFrameReceive port fcsOk udpOk pkt => Sys2Proof.Machine.execEthFrameReceive port fcsOk udpOk pkt s
  | .transitForward port pkt => Sys2Proof.Machine.execTransitForward port pkt s
  | .putData pkt => Sys2Proof.Machine.execPutData pkt s
  | .getReq pkt => Sys2Proof.Machine.execGetReq pkt s
  | .getData pkt => Sys2Proof.Machine.execGetData pkt s
  | .atomicReq pkt => Sys2Proof.Machine.execAtomicReq pkt s
  | .atomicResp pkt => Sys2Proof.Machine.execAtomicResp pkt s
  | .signalPacket pkt => Sys2Proof.Machine.execSignalPacket pkt s
  | .ack pkt => Sys2Proof.Machine.execAck pkt s
  | .nak pkt => Sys2Proof.Machine.execNak pkt s
  | .deny pkt => Sys2Proof.Machine.execDeny pkt s
  | .grantReq pkt => Sys2Proof.Machine.execGrantReq pkt s
  | .poolSlotGrant half => Sys2Proof.Machine.execPoolSlotGrant half s
  | .grant pkt => Sys2Proof.Machine.execGrant pkt s
  | .collData pkt => Sys2Proof.Machine.execCollData pkt s
  | .redData pkt => Sys2Proof.Machine.execRedData pkt s
  | .chunkRetransmitTimeout dst stream chunk => Sys2Proof.Machine.execChunkRetransmitTimeout dst stream chunk s
  | .destUnreachable vi sq seq => Sys2Proof.Machine.execDestUnreachable vi sq seq s
  | .groupTimeout job group member => Sys2Proof.Machine.execGroupTimeout job group member s
  | .portTrained port peer peerPort delay => Sys2Proof.Machine.execPortTrained port peer peerPort delay s
  | .portFailed port cause => Sys2Proof.Machine.execPortFailed port cause s
  | .spareFailover failed spare peerSpare => Sys2Proof.Machine.execSpareFailover failed spare peerSpare s
  | .spareUnfit port lane => Sys2Proof.Machine.execSpareUnfit port lane s
  | .linkPatternEnd port errs bits => Sys2Proof.Machine.execLinkPatternEnd port errs bits s
  | .cablePresence conn present => Sys2Proof.Machine.execCablePresence conn present s
  | .jobSwitchEnd us => Sys2Proof.Machine.execJobSwitchEnd us s
  | .jobEvictionEnd job => Sys2Proof.Machine.execJobEvictionEnd job s
  | .stepModeTurn => Sys2Proof.Machine.execStepModeTurn s
  | .faultEvent unit count info access => Sys2Proof.Machine.execFaultEvent unit count info access s
  | .faultWindowClose unit => Sys2Proof.Machine.execFaultWindowClose unit s
  | .eventRecordProgram => Sys2Proof.Machine.execEventRecordProgram s
  | .blockReset b => Sys2Proof.Machine.execBlockReset b s
  | .blockResetDrainEnd b => Sys2Proof.Machine.execBlockResetDrainEnd b s
  | .blockResetRejoin b => Sys2Proof.Machine.execBlockResetRejoin b s
  | .chipReset reason => Sys2Proof.Machine.execChipReset reason s
  | .coreWdog die core unit => Sys2Proof.Machine.execCoreWdog die core unit s
  | .tribWdog die core => Sys2Proof.Machine.execTribWdog die core s
  | .hwFault pair => Sys2Proof.Machine.execHwFault pair s
  | .selftestSlotStart die => Sys2Proof.Machine.execSelftestSlotStart die s
  | .selftestSlotEnd die failUnit us => Sys2Proof.Machine.execSelftestSlotEnd die failUnit us s
  | .sliceStart die => Sys2Proof.Machine.execSliceStart die s
  | .msiXTableWrite vi entry dw value => Sys2Proof.Machine.execMsiXTableWrite vi entry dw value s
  | .spareFit port => Sys2Proof.Machine.execSpareFit port s
  | .hubEngineStall hub engine => Sys2Proof.Machine.execHubEngineStall hub engine s
  | .recalibrationTimeout stack => Sys2Proof.Machine.execRecalibrationTimeout stack s
  | .sliceEnd die core failUnit us => Sys2Proof.Machine.execSliceEnd die core failUnit us s
  | .boundaryScan tck tms tdi trst => Sys2Proof.Machine.execBoundaryScan tck tms tdi trst s

end Sys2Proof.Machine
end

