-- ==== Sys2Proof/Safety.lean ====
section
/-! DEFINITION. The terms in which the statements speak: the command of a packet row, a packet whose dispatch has come, the
canonical form of the three memories, and the parts of the state that a completion may change. -/

namespace Sys2Proof

open Sys2Proof.Machine

/-- The packet of a packet row; none for a register access or an event. -/
def Instr.packet : Instr → Option Packet
  | .move p | .fill p | .migrate p | .placeMap p | .placeUnmap p | .placeQuery p | .fence p => some p
  | .matmul p | .matmulBatched p | .braidRun p | .braidLoadProgram p | .braidLoadSeed p | .tableLoad p | .attnFwd p
  | .attnBwd p => some p
  | .rolloutOpen p | .rolloutClose p | .rolloutStep p | .sample p | .seqCancel p | .specVerify p | .prefill p => some p
  | .kvPoolCreate p | .kvPoolSetPolicy p | .kvPoolDestroy p | .kvShipReceive p | .kvShipSend p | .kvFork p
  | .kvRelease p => some p
  | .passFwd p | .passFwdQuery p | .passBwd p | .update p | .stepSizeSet p | .updateProgramLoad p => some p
  | .stowLoad p | .adapterLoad p | .adapterUnload p | .freshetPush p | .freshetFlip p | .freshetDiscard p
  | .modelDrain p => some p
  | .put p | .get p | .atomic p | .signal p | .shift p | .permute p | .reduceShift p | .groupDefine p | .groupRelease p
  | .setDomain p => some p
  | .ckptTake p | .ckptHold p | .ckptDiscard p | .ckptReadback p | .ckptExport p | .ckptList p | .restore p | .rollback p
  | .shrink p => some p
  | .jobCreate p | .jobStart p | .jobPreempt p | .jobEnd p | .abortPacket p | .abortJob p | .admissionSetVi p
  | .admissionSetMode p | .admissionQuery p => some p
  | .selftestCore p | .selftestSliced p | .selftestStop p | .selftestRotation p | .calibrate p | .linkPattern p
  | .linkPatternStop p => some p
  | .evrecRead p | .fwStage p | .fwActivateTrial p | .fwActivateCommit p | .fwActivateDisarm p | .fwActivateReset p
  | .powerCapSet p | .powerCapQuery p | .setRole p | .setPeriod p | .armEpoch p | .setBeaconPorts p | .faultPolicySet p
  | .faultPolicyDefaults p | .phaseTimesRead p | .configInstall p | .configRead p | .saveRoutes p | .configClear p => some p
  | _ => none

end Sys2Proof

namespace Sys2Proof.Machine

open Sys2Proof

/-- The state in which a dispatched packet acts: it has left the fetched packets of its SQ (R69). -/
def taken (p : Packet) (s : State) : State :=
  if ((s.vi p.vi).sq p.sq).fetched.contains p then
    s.updSq p.vi p.sq fun u => { u with fetched := u.fetched.tail }
  else s

/-- A packet's dispatch has come: the module fetches packets of its VI (R704), it is the oldest fetched packet of its SQ,
or none is fetched and it passes the checks of Table 2.13 (R69, R82), no BARRIER and no FENCE holds it (R777, R497), and
its job runs, or needs not to (R640). -/
def dispatches (p : Packet) (s : State) : Bool :=
  let u := (s.vi p.vi).sq p.sq
  viOk p.vi && decide (p.sq < 8) && s.fetches p.vi
  && (u.fetched.head? == some p || (u.fetched.isEmpty && (firstRefusal p s).isNone))
  && u.waiting.isEmpty && !(p.barrier && earlierOpen p (taken p s)) && !(fenceHolds p (taken p s))
  && (match s.job? p.job with | some j => j.state == 3 || jobFree p | none => true)

/-- The memories are in canonical form: device, host and remote memory, and the scratch memory of the works. -/
def State.memWf (s : State) : Bool := s.devMem.wf && s.hostMem.wf && s.remMem.wf && s.scr.wf

end Sys2Proof.Machine
end

