-- ==== Sys2Proof/Certificates/Slice0/Obligations.lean ====
section
/-! DEFINITION. The statements for the provers. Each docstring says which rules of spec/ the statement formalises. -/

open Sys2Proof Sys2Proof.Machine

/-- A step runs the command at the front of the queue with the queue's rest. For every state whose queue starts
with c, step is exec of c on the state with the rest of the queue. With an empty queue time passes: step answers
the state in which every tile in progress has entered the next phase of its unit, and with no tile in progress the
same state. The queue and what a step does on an empty one are the model's own (notes/assumptions/1.md,
notes/assumptions/108.md). (02_command_protocol.md (Ordering)). -/
def Obligations.StepRunsFrontCommand : Prop :=
  (∀ (c : Instr) (rest : List Instr) (s : State), s.pending = c :: rest → step s = exec c { s with pending := rest })
  ∧ ∀ s : State, s.pending = [] → step s = .next (tickUnits s) ∧ ((∀ t ∈ s.tiles, t.issued = false) → step s = .next s)

/-- No command, of any row, changes the queue of waiting commands. For every command c and every state s, if exec
of c answers a next state t, the waiting commands of t are those of s, in the same order; so every step takes
exactly one command off the queue. (02_command_protocol.md (Ordering)). -/
def Obligations.ExecLeavesQueue : Prop :=
  ∀ (c : Instr) (s t : State), exec c s = .next t → t.pending = s.pending

/-- Every step keeps device, host, remote and scratch memory in canonical form. For every state whose four memories
(device, host, remote, and the scratch memory of the works) are in canonical form (addresses strictly rising, no
listed byte 0), if step answers a next state, the four memories of that state are in canonical form. It holds for
every command of every row.
(12_memory_tiers.md, 02_command_protocol.md, notes/assumptions/4.md (how memory is listed)). -/
def Obligations.StepKeepsMemoryForm : Prop :=
  ∀ s t : State, s.memWf = true → step s = .next t → t.memWf = true

/-- After reset the memories are in canonical form and the queue is empty. State.reset lists nothing in any of the
four memories, so they have the canonical form that every step keeps, and no command waits.
(12_memory_tiers.md, notes/assumptions/4.md (how memory is listed)). -/
def Obligations.ResetMemoryForm : Prop :=
  State.reset.memWf = true ∧ State.reset.pending = []

/-- Every well-formed command of every row answers a next state, in every state. For every well-formed command of
any of the 223 rows and every state, exec answers a next state: no command faults and none is refused. In addition
no command of any kind, well formed or not, is ever refused.
(02_command_protocol.md, spec/opcode_table.json (its 223 rows)). -/
def Obligations.WellFormedCommandsComplete : Prop :=
  (∀ (c : Instr) (s : State), c.wf = true → ∃ t, exec c s = .next t)
  ∧ ∀ (c : Instr) (s : State) (r : Refusal), exec c s ≠ .refused r

/-- A packet row whose dispatch has come runs the effect of its opcode and action. For each of the 96 packet rows
and every well-formed packet whose dispatch has come (its VI is fetched from, it is the oldest of its SQ, no
BARRIER or FENCE holds it, its job runs or needs not to), the row's next state is the effect that dispatch by
OPCODE and ACTION gives the packet, in the state in which it has left the fetched packets. A packet of a VI that is
not fetched from changes nothing. (R69, R777, R640, 02_command_protocol.md (Table 2.10)). -/
def Obligations.PacketRowsRunTheirEffect : Prop :=
  (∀ (c : Instr) (p : Packet) (s : State), c.packet = some p → c.wf = true → dispatches p s = true →
    exec c s = .next (runEffect p (taken p s)))
  ∧ ∀ (c : Instr) (p : Packet) (s : State), c.packet = some p → c.wf = true → s.fetches p.vi = false →
    exec c s = .next s

/-- A packet that fails a check made before its dispatch only receives its final record. For every packet row, a
packet of a VI that the module fetches from, with no packet of its SQ fetched before it, that fails a check of
Table 2.13 answers the state in which its final record with the status, reason and result of the first failed check
is posted, and nothing of its effect; VI_STATUS.TAG_ERR is set for a wrong VI_TAG. The checks are judged in the
order of the table, MODULE_FAILED last. (02_command_protocol.md (Tables 2.13, 2.16), R775, R707). -/
def Obligations.RefusedPacketChangesNothing : Prop :=
  (∀ (c : Instr) (p : Packet) (s : State) (e : Byte × Half × Nat), c.packet = some p → c.wf = true →
    s.fetches p.vi = true → ((s.vi p.vi).sq p.sq).fetched = [] → firstRefusal p s = some e →
    exec c s = .next (postRefused p e.1 e.2.1 e.2.2 0 (if e.2.1 = 0x0001 then setTagErr p.vi s else s)))
  ∧ ∀ (p : Packet) (s : State),
    (p.viTag.toNat ≠ p.vi → firstRefusal p s = some (0x12, 0x0001, p.viTag.toNat))
    ∧ (p.viTag.toNat = p.vi → p.vi ≠ 0 → vi0Only p.op = true → firstRefusal p s = some (0x12, 0x0003, p.op))
    ∧ (p.viTag.toNat = p.vi → (p.vi = 0 ∨ vi0Only p.op = false) → opcodes.contains p.op = false →
        firstRefusal p s = some (0xFF, 0x0002, p.op))
    ∧ (p.viTag.toNat = p.vi → (p.vi = 0 ∨ vi0Only p.op = false) → opcodes.contains p.op = true → p.job ≠ 0xFFFF →
        (∀ j ∈ s.jobs, j.id = p.job → j.vi ≠ p.vi) → firstRefusal p s = some (0x12, 0x0004, p.job))

/-- A packet waits behind a BARRIER, a FENCE, an older packet, or for its job to run. For every packet row and a
packet of a VI that is fetched from, which is the oldest fetched of its SQ: behind a waiting packet, with BARRIER
and an earlier packet of its SQ open, or under a FENCE, it joins the waiting packets of its SQ and nothing else
changes. With none of these, a packet of a job that is not RUNNING joins the job's command list, and a queued
Standard job's packet receives one interim DEFERRED with the job's position. A packet that is fetched but not the
oldest changes nothing. (R640, R777, R497, R69). -/
def Obligations.HeldPackets : Prop :=
  ∀ (c : Instr) (p : Packet) (s : State), c.packet = some p → c.wf = true → s.fetches p.vi = true →
    (((s.vi p.vi).sq p.sq).fetched.head? = some p →
      (((s.vi p.vi).sq p.sq).waiting ≠ [] ∨ (p.barrier = true ∧ earlierOpen p (taken p s) = true) ∨ fenceHolds p (taken p s) = true →
        exec c s = .next ((taken p s).updSq p.vi p.sq fun u => { u with waiting := u.waiting ++ [p] }))
      ∧ (((s.vi p.vi).sq p.sq).waiting = [] → (p.barrier = false ∨ earlierOpen p (taken p s) = false) →
        fenceHolds p (taken p s) = false → ∀ j : Job, s.job? p.job = some j → j.state ≠ 3 → jobFree p = false →
        let s1 := (taken p s).updJob j.id fun j => { j with cmdList := j.cmdList ++ [p] }
        exec c s = .next
          (if j.state = 1 ∧ j.cls = 2 ∧ s.sched.stepMode = false then postInterim p 0x08 0x0910 (s.position j.id) s1
           else s1)))
    ∧ (((s.vi p.vi).sq p.sq).fetched.contains p = true → ((s.vi p.vi).sq p.sq).fetched.head? ≠ some p →
        exec c s = .next s)

/-- A completion record is written as the 32 bytes of Table 2.8 at the tail of its CQ. Writing a record puts 32
bytes at the tail entry of the CQ: SEQ, USER_TAG, OPCODE, STATUS, PHASE, INTERIM and SQ number, REASON, SQ_HEAD of
the packet's SQ, RESULT0, RESULT1 and the low half of the fret count, each in its place of Table 2.8,
little-endian; every other byte of host memory is unchanged; bits [7:5] of CQ_FLAGS are 0. (R59). -/
def Obligations.CompletionRecordBytes : Prop :=
  ∀ (c : Nat) (r : Rec) (s : State), r.key.sq < 8 →
    let q := (s.vi r.key.vi).cq c
    let a := q.base.toNat + 32 * q.tail.toNat
    let m := (writeRec c r s).hostMem
    leNat (m.readN a 4) = r.key.seq.toNat ∧ leNat (m.readN (a + 4) 4) = r.userTag.toNat
    ∧ leNat (m.readN (a + 8) 2) = r.opcode.toNat ∧ m.read (a + 10) = r.status
    ∧ (m.read (a + 11)).toNat = b2n q.phase + 2 * b2n r.interim + 4 * r.key.sq
    ∧ leNat (m.readN (a + 12) 2) = r.reason.toNat
    ∧ leNat (m.readN (a + 14) 2) = ((s.vi r.key.vi).sq r.key.sq).head.toNat
    ∧ leNat (m.readN (a + 16) 8) = r.result0.toNat ∧ leNat (m.readN (a + 24) 4) = r.result1.toNat
    ∧ leNat (m.readN (a + 28) 4) = s.ftu.count.toNat % 2 ^ 32
    ∧ ∀ x : Nat, x < a ∨ a + 32 ≤ x → m.read x = s.hostMem.read x

/-- When a record is written, held, or left out, and what the CQ and its interrupt do. While the VI resets no
record is written (R74); while the CQ is full or disabled, or holds records already, a record is held after them
(R63), the silent place of a DONE under NO_DONE too (R68). Otherwise a DONE final record under NO_DONE is not
written and changes nothing (R67), and any other record is written: the tail moves on by one and wraps to 0, and
the phase changes at the wrap. With IEN clear it is not counted; with IEN set it raises the vector and restarts
count and timer when it is the (IRQ_COUNT + 1)th unsignalled one or carries IRQ_NOW, and else is counted.
(R61, R63, R66, R67, R74). -/
def Obligations.RecordHeldOrWritten : Prop :=
  (∀ (p : Packet) (rs : Half) (a b : Nat) (s : State), p.flags.getLsbD 2 = true →
    let c := (s.vi p.vi).cqOf p.sq
    let q := (s.vi p.vi).cq c
    ((s.vi p.vi).resetBusy = false → q.blocked = false → q.held = [] → writeFinal p 0 rs a b s = s)
    ∧ ((s.vi p.vi).resetBusy = false → (q.blocked = true ∨ q.held ≠ []) →
        (((writeFinal p 0 rs a b s).vi p.vi).cq c).held.map (fun r => (r.key, r.silent))
          = q.held.map (fun r => (r.key, r.silent)) ++ [(p.key, true)]))
  ∧ ∀ (r : Rec) (s : State),
    let n := r.key.vi
    let c := (s.vi n).cqOf r.key.sq
    let q := (s.vi n).cq c
    let e := (s.vi n).vec q.vec.toNat
    ((s.vi n).resetBusy = true → postRec r s = s)
    ∧ ((s.vi n).resetBusy = false → (q.blocked = true ∨ q.held ≠ []) →
        postRec r s = s.updCq n c fun q => { q with held := q.held ++ [r] })
    ∧ ((s.vi n).resetBusy = false → q.blocked = false → q.held = [] → r.silent = false →
        let t := postRec r s
        let q' := (t.vi n).cq c
        t.hostMem = (writeRec c r s).hostMem
        ∧ (q.tail.toNat + 1 = ringSize q.sizeLog2 → q'.tail = 0 ∧ q'.phase = !q.phase)
        ∧ (q.tail.toNat + 1 ≠ ringSize q.sizeLog2 → q'.tail = q.tail + 1 ∧ q'.phase = q.phase)
        ∧ (q.ien = false → q'.unsig = q.unsig ∧ t.msixOut = s.msixOut)
        ∧ (q.ien = true → r.irqNow = false → q.unsig ≠ q.irqCount.toNat →
            q'.unsig = q.unsig + 1 ∧ t.msixOut = s.msixOut)
        ∧ (q.ien = true → (r.irqNow = true ∨ q.unsig = q.irqCount.toNat) → q'.unsig = 0 ∧ q'.timer = false
            ∧ ((s.ready = true ∨ (s.failed = true ∧ n = 0)) → (s.vi n).msixEn = true → (s.vi n).funcMask = false →
                e.mask = false → t.msixOut = s.msixOut
                  ++ [{ rid := s.routingId n, vi := n, vec := q.vec.toNat, addr := e.addr, data := e.data }])))

/-- What the end of a packet changes, and what it leaves alone. Posting the final record of a packet takes it out
of the commands in progress. For every packet but an UPDATE with CLOSE_STEP, whose end closes the phase window, and
a command of class 0x07 in progress, whose end marks its phase, all else that changes is the queues and MSI-X state
of VIs, host memory through records, the messages sent, and FENCEs that the end lets complete: device and remote
memory, jobs, scheduling, cores, dies, stacks, hubs, fabric, fault units, FTU, flash, boot, power, counters,
quotas, tiles and free-value counter stay as they were, and so does the page table of every VI.
(R67, R68, R497, R420, R422). -/
def Obligations.FinalRecordFrame : Prop :=
  ∀ (p : Packet) (st : Byte) (rs : Half) (a b : Nat) (s : State), (p.opcode ≠ 0x0503 ∨ p.p2.getLsbD 5 = false) →
    (p.opcode.toNat / 256 ≠ 7 ∨ s.open? p.key = none) →
    let t := postFinal p st rs a b s
    t = { s with vis := t.vis, hostMem := t.hostMem, msixOut := t.msixOut, opens := t.opens }
    ∧ (∀ n : Nat, (t.vi n).pages = (s.vi n).pages ∧ ((t.vi n).sqs = (s.vi n).sqs))
    ∧ (t.open? p.key = none)
    ∧ ∀ o ∈ t.opens, o ∈ s.opens

/-- Writes to SQ_CFG and CQ_CFG: size, binding, enable, and the zeroed head and tail. For a VI that is on,
SQ_CFG_WRITE changes only that SQ: SIZE_LOG2 and CQ while IDLE; EN becomes 1 only if written 1 with SIZE_LOG2 from
4 to 16; enabling sets head and tail to 0. CQ_CFG_WRITE gives that CQ the new settings (SIZE_LOG2 while EN was 0;
EN as for an SQ; enabling sets head and tail to 0 and the phase to 1; interrupt fields at once; a change of IEN
discards the count and timer), then serves its interrupt condition, its held records and fetching. (R50, R52). -/
def Obligations.QueueEnableNeedsLegalSize : Prop :=
  ∀ (vi q : Nat) (v : Word) (s : State), viOk vi = true → q < 8 → s.viOn vi = true →
    (∃ u' : Sq,
      exec (.sqCfgWrite vi q v) s = .next (s.updSq vi q fun _ => u')
      ∧ (let u := (s.vi vi).sq q
         let legal := 4 ≤ u'.sizeLog2.toNat ∧ u'.sizeLog2.toNat ≤ 16
         u'.sizeLog2 = (if s.sqIdle vi q then BitVec.ofNat 5 (bw v 4 0) else u.sizeLog2)
         ∧ u'.cq = (if s.sqIdle vi q then BitVec.ofNat 3 (bw v 10 8) else u.cq)
         ∧ (u'.en = true ↔ v.getLsbD 31 = true ∧ legal)
         ∧ (u.en = false → u'.en = true → u'.head = 0 ∧ u'.tail = 0)
         ∧ ((u.en = true ∨ u'.en = false) → u'.head = u.head ∧ u'.tail = u.tail)
         ∧ u' = { u with sizeLog2 := u'.sizeLog2, cq := u'.cq, en := u'.en, head := u'.head, tail := u'.tail }))
    ∧ ∃ c' : Cq,
      exec (.cqCfgWrite vi q v) s
        = .next (fetchAll (roomMade vi q (countMet vi q (s.updCq vi q fun _ => c'))))
      ∧ (let c := (s.vi vi).cq q
         let legal := 4 ≤ c'.sizeLog2.toNat ∧ c'.sizeLog2.toNat ≤ 16
         c'.sizeLog2 = (if c.en then c.sizeLog2 else BitVec.ofNat 5 (bw v 4 0))
         ∧ (c'.en = true ↔ v.getLsbD 31 = true ∧ legal)
         ∧ (c.en = false → c'.en = true → c'.head = 0 ∧ c'.tail = 0 ∧ c'.phase = true)
         ∧ ((c.en = true ∨ c'.en = false) → c'.head = c.head ∧ c'.tail = c.tail ∧ c'.phase = c.phase)
         ∧ c'.ien = v.getLsbD 30 ∧ c'.vec = BitVec.ofNat 2 (bw v 29 28) ∧ c'.irqTime = BitVec.ofNat 8 (bw v 23 16)
         ∧ c'.irqCount = BitVec.ofNat 8 (bw v 15 8)
         ∧ (c.ien ≠ c'.ien → c'.unsig = 0 ∧ c'.timer = false) ∧ (c.ien = true → c'.ien = true → c'.unsig = c.unsig)
         ∧ c'.base = c.base ∧ c'.held = c.held)

/-- Doorbell writes have the outcomes of Table 2.9. For a VI that is on: a doorbell value not below the ring size,
or a doorbell of a queue whose EN is 0, only sets VI_STATUS.DB_ERR (and raises EVT_VEC if enabled); the current
tail or head again changes nothing; any other value is accepted as the new tail or head, and then the entries up to
the tail are fetched, or the held records written and fetching resumed. (R73). -/
def Obligations.DoorbellOutcomes : Prop :=
  ∀ (vi q : Nat) (v : Word) (s : State), viOk vi = true → q < 8 → s.viOn vi = true →
    let u := (s.vi vi).sq q
    let c := (s.vi vi).cq q
    let i := bw v 15 0
    ((u.en = false ∨ ringSize u.sizeLog2 ≤ i) →
      exec (.sqTailDbWrite vi q v) s = .next (setDbErr vi s) ∧ ((setDbErr vi s).vi vi).dbErr = true)
    ∧ (u.en = true → i < ringSize u.sizeLog2 → u.tail.toNat = i → exec (.sqTailDbWrite vi q v) s = .next s)
    ∧ (u.en = true → i < ringSize u.sizeLog2 → u.tail.toNat ≠ i →
        exec (.sqTailDbWrite vi q v) s = .next (fetchAll (s.updSq vi q fun u => { u with tail := BitVec.ofNat 16 i })))
    ∧ ((c.en = false ∨ ringSize c.sizeLog2 ≤ i) → exec (.cqHeadDbWrite vi q v) s = .next (setDbErr vi s))
    ∧ (c.en = true → i < ringSize c.sizeLog2 → c.head.toNat = i → exec (.cqHeadDbWrite vi q v) s = .next s)
    ∧ (c.en = true → i < ringSize c.sizeLog2 → c.head.toNat ≠ i →
        exec (.cqHeadDbWrite vi q v) s
          = .next (fetchAll (roomMade vi q (s.updCq vi q fun c => { c with head := BitVec.ofNat 16 i }))))

/-- The doorbell fetches the entry before the new tail, unless its CQ is full or disabled. With a new tail
accepted, and no other SQ of any VI with a packet to fetch: while the bound CQ is full or disabled, or the module
fetches nothing of the VI, only the tail moves. When the new tail is one entry past the head, the CQ has room, the
entry passes the checks of Table 2.13 and its job's command list has room, SQ_HEAD becomes the tail, the packet
that the entry's 64 bytes give joins the fetched packets, and the turns of R57 pass to this VI and SQ; nothing else
changes. (R55, R57, R63, R641, R704). -/
def Obligations.FetchOfOneEntry : Prop :=
  ∀ (vi q : Nat) (v : Word) (s : State), viOk vi = true → q < 8 → s.viOn vi = true →
    (∀ n k : Nat, (n ≠ vi ∨ k ≠ q) → s.canFetch n k = false) →
    let u := (s.vi vi).sq q
    let i := bw v 15 0
    let p := packetOf vi q (s.hostMem.readN (u.base.toNat + 64 * u.head.toNat) 64)
    u.en = true → i < ringSize u.sizeLog2 → u.tail.toNat ≠ i →
    ((((s.vi vi).cq u.cq.toNat).blocked = true ∨ s.fetches vi = false) →
      exec (.sqTailDbWrite vi q v) s = .next (s.updSq vi q fun u => { u with tail := BitVec.ofNat 16 i }))
    ∧ (((s.vi vi).cq u.cq.toNat).blocked = false → s.fetches vi = true → (u.head.toNat + 1) % ringSize u.sizeLog2 = i →
        u.sizeLog2.toNat ≤ 16 → u.head.toNat < ringSize u.sizeLog2 → 1 ≤ u.sizeLog2.toNat →
        listFull p s = false → firstRefusal p s = none →
        exec (.sqTailDbWrite vi q v) s = .next { s.updVi vi fun x => { x with
          turnSq := q, sqs := tset x.sqs q { u with
            tail := BitVec.ofNat 16 i, head := BitVec.ofNat 16 i, fetched := u.fetched ++ [p] } } with turnVi := vi })

/-- A VI reset ends the VI's jobs and commands; at its end the page holds Reset values. For a VI that is on,
VI_CTRL_RESET with bit 0 set and FUNCTION_LEVEL_RESET answer one and the same state: the VI is in reset and not
READY, nothing of it is fetched, it owns no job, and no command of it is in progress. A VI_CTRL write with bit 0
clear starts nothing. VI_RESET_COMPLETE of a VI in reset gives every register of its page its Reset value and READY
back when the module is READY, and changes no other VI and nothing else. (R74, R75, 02_command_protocol.md). -/
def Obligations.ViResetEndsWhatTheViOwns : Prop :=
  (∀ (vi : Nat) (v : Word) (s : State), viOk vi = true → s.viOn vi = true →
    (v.getLsbD 0 = false → exec (.viCtrlReset vi v) s = .next s)
    ∧ (v.getLsbD 0 = true → ∃ t, exec (.viCtrlReset vi v) s = .next t ∧ exec (.functionLevelReset vi) s = .next t
        ∧ (t.vi vi).resetBusy = true ∧ t.viReady vi = false ∧ t.fetches vi = false
        ∧ (∀ j ∈ t.jobs, j.vi ≠ vi) ∧ ∀ o ∈ t.opens, o.pkt.vi ≠ vi))
  ∧ ∀ (vi : Nat) (s : State), viOk vi = true → (s.vi vi).resetBusy = true →
    ∃ t, exec (.viResetComplete vi) s = .next t ∧ t = { s with vis := t.vis } ∧ t.vi vi = {}
      ∧ (∀ m : Nat, m ≠ vi → t.vi m = s.vi m) ∧ (t.viReady vi = (s.ready && s.viOn vi))

/-- IRQ_TIME expiry raises the vector; an MSI-X table write stores its field and releases a held message.
IRQ_TIME_EXPIRE of a CQ with IEN set, its timer running and unsignalled records raises CQ_CFG.VEC and restarts
count and timer; otherwise it changes nothing. A write to a double word of an MSI-X entry of a VI that is on stores
address low (bits [1:0] zero), address high, data or the mask, and then messages held as pending bits whose mask
has gone are sent. A masked entry with its pending bit set whose mask is cleared sends its message. (R66, R776). -/
def Obligations.InterruptRows : Prop :=
  (∀ (vi c : Nat) (s : State), viOk vi = true → c < 8 →
    let q := (s.vi vi).cq c
    exec (.irqTimeExpire vi c) s
      = .next (if q.ien = true ∧ q.timer = true ∧ q.unsig ≠ 0 then
          raiseVec vi q.vec.toNat (s.updCq vi c fun q => { q with unsig := 0, timer := false }) else s))
  ∧ (∀ (vi k dw : Nat) (v : Word) (s : State), viOk vi = true → k < 4 → dw < 4 → s.viOn vi = true →
    ∃ e' : MsixEntry, exec (.msiXTableWrite vi k dw v) s
        = .next (sendPending vi (s.updVi vi fun x => { x with msix := tset x.msix k e' }))
      ∧ (let e := (s.vi vi).vec k
         e'.addr.toNat = (if dw = 0 then e.addr.toNat / 2 ^ 32 * 2 ^ 32 + v.toNat / 4 * 4
            else if dw = 1 then v.toNat * 2 ^ 32 + e.addr.toNat % 2 ^ 32 else e.addr.toNat)
         ∧ e'.data = (if dw = 2 then v else e.data)
         ∧ e'.mask = (if dw = 3 then v.getLsbD 0 else e.mask) ∧ e'.pending = e.pending))
  ∧ ∀ (vi k : Nat) (s : State), viOk vi = true → k < 4 → s.viOn vi = true → s.ready = true →
    (s.vi vi).msixEn = true → (s.vi vi).funcMask = false → (s.vi vi).resetBusy = false →
    ((s.vi vi).vec k).pending = true → (∀ i : Nat, i ≠ k → ((s.vi vi).vec i).pending = false) →
    ∃ t, exec (.msiXTableWrite vi k 3 0) s = .next t
      ∧ t.msixOut = s.msixOut ++ [{ rid := s.routingId vi, vi := vi, vec := k, addr := ((s.vi vi).vec k).addr,
                                    data := ((s.vi vi).vec k).data }]
      ∧ ((t.vi vi).vec k).pending = false

/-- A register read answers the register, latches a high half, and clears read-clear fields. For a VI that is on,
LATCHING_READ and RC_READ answer the state in which the bus carries the register's value and the read's own side
effect has happened; of a VI that is off they change nothing. The low half of the fret counter latches its high
half, alone; reading MEM_XMISS or a JOB counter returns it to 0 and changes no other counter; a read of BAR0
offsets from 0x10000 on through a VI other than VI0 answers 0.
(R20, R47, R113, R515, R661, 02_command_protocol.md). -/
def Obligations.RegisterReads : Prop :=
  (∀ (vi off : Nat) (s : State), viOk vi = true →
    let r := readReg vi off s
    (s.viOn vi = true → exec (.latchingRead vi off) s = .next { r.2 with busRead := BitVec.ofNat 32 r.1 }
      ∧ exec (.rcRead vi off) s = .next { r.2 with busRead := BitVec.ofNat 32 r.1 })
    ∧ (s.viOn vi = false → exec (.latchingRead vi off) s = .next s ∧ exec (.rcRead vi off) s = .next s))
  ∧ (∀ (vi : Nat) (s : State), readReg vi 0x0010 s
      = (s.ftu.count.toNat % 2 ^ 32, s.updVi vi fun v => { v with fretHi := (s.ftu.count >>> 32).setWidth 32 }))
  ∧ (∀ s : State, readReg 0 0x12008 s
      = (s.ftu.count.toNat % 2 ^ 32, { s with ftu := { s.ftu with countHi := (s.ftu.count >>> 32).setWidth 32 } }))
  ∧ (∀ s : State, readReg 0 0x30608 s = (s.ctr.memXmiss.toNat, { s with ctr := { s.ctr with memXmiss := 0 } }))
  ∧ (∀ s : State, readReg 0 0x3080C s = (s.ctr.jobSwitches.toNat, { s with ctr := { s.ctr with jobSwitches := 0 } }))
  ∧ (∀ s : State, readReg 0 0x30814 s = (s.ctr.preemptsClass.toNat * 2 ^ 16 + s.ctr.preemptsCommand.toNat,
      { s with ctr := { s.ctr with preemptsClass := 0, preemptsCommand := 0 } }))
  ∧ ∀ (vi off : Nat) (s : State), vi ≠ 0 → 0x10000 ≤ off → readReg vi off s = (0, s)

/-- A register write stores, clears or ignores by the register's access code. For a VI that is on: VI_CTRL stores
EVT_VEC and EVT_IEN; VI_STATUS clears DB_ERR and TAG_ERR where 1 is written; SQ_BASE is stored only while the SQ is
idle and CQ_BASE only while the CQ is disabled, else nothing changes; for VI0 the route and prefix index registers
store their bits and FLT_NTC_BASE_LO its base while the ring is disabled. A write to a read-only register (the
identity registers, SQ_HEAD, the fret counter) changes nothing, and neither does a write through a VI that is off.
WEIR_RT_DATA_WRITE replaces the route that WEIR_RT_INDEX selects.
(R18, R48, R51, R552, R677, 02_command_protocol.md). -/
def Obligations.RegisterWrites : Prop :=
  (∀ (vi : Nat) (v : Word) (s : State), viOk vi = true → s.viOn vi = true →
    exec (.registerWrite vi 0x0008 v) s
      = .next (s.updVi vi fun x => { x with evtVec := BitVec.ofNat 2 (bw v 7 6), evtIen := v.getLsbD 5 })
    ∧ exec (.registerWrite vi 0x000C v) s
      = .next (s.updVi vi fun x => { x with dbErr := x.dbErr && !v.getLsbD 2, tagErr := x.tagErr && !v.getLsbD 1 })
    ∧ exec (.registerWrite vi 0x0000 v) s = .next s ∧ exec (.registerWrite vi 0x0004 v) s = .next s
    ∧ exec (.registerWrite vi 0x0010 v) s = .next s)
  ∧ (∀ (vi q : Nat) (v : Word) (s : State), viOk vi = true → q < 8 → s.viOn vi = true →
    exec (.registerWrite vi (0x100 + 0x20 * q) v) s
      = .next (if s.sqIdle vi q then s.updSq vi q fun u =>
          { u with base := BitVec.ofNat 64 (u.base.toNat / 2 ^ 32 * 2 ^ 32 + v.toNat / 4096 * 4096) } else s)
    ∧ exec (.registerWrite vi (0x104 + 0x20 * q) v) s
      = .next (if s.sqIdle vi q then s.updSq vi q fun u =>
          { u with base := BitVec.ofNat 64 (v.toNat * 2 ^ 32 + u.base.toNat % 2 ^ 32) } else s)
    ∧ exec (.registerWrite vi (0x10C + 0x20 * q) v) s = .next s
    ∧ exec (.registerWrite vi (0x200 + 0x20 * q) v) s
      = .next (if ((s.vi vi).cq q).en then s else s.updCq vi q fun c =>
          { c with base := BitVec.ofNat 64 (c.base.toNat / 2 ^ 32 * 2 ^ 32 + v.toNat / 4096 * 4096) }))
  ∧ (∀ (v : Word) (s : State), s.viOn 0 = true →
    exec (.registerWrite 0 0x31B10 v) s = .next { s with fab := { s.fab with rtIndex := BitVec.ofNat 16 (bw v 15 0) } }
    ∧ exec (.registerWrite 0 0x31B1C v) s = .next { s with fab := { s.fab with pfxIndex := BitVec.ofNat 6 (bw v 5 0) } }
    ∧ exec (.registerWrite 0 0x3A400 v) s = .next (if s.ntc.en then s else
        { s with ntc := { s.ntc with base := BitVec.ofNat 64 (s.ntc.base.toNat / 2 ^ 32 * 2 ^ 32 + v.toNat / 4096 * 4096) } }))
  ∧ (∀ (vi off : Nat) (v : Word) (s : State), viOk vi = true → s.viOn vi = false →
    exec (.registerWrite vi off v) s = .next s)
  ∧ ∀ (v : Word) (s : State), ∃ t, exec (.weirRtDataWrite v) s = .next t
      ∧ t = { s with fab := { s.fab with routes := t.fab.routes } }
      ∧ tget 0 t.fab.routes s.fab.rtIndex.toNat = BitVec.ofNat 32 (bw v 31 31 * 2 ^ 31 + bw v 19 0)
      ∧ ∀ k : Nat, k ≠ s.fab.rtIndex.toNat → tget 0 t.fab.routes k = tget 0 s.fab.routes k

/-- FILL, MOVE, PLACE, MIGRATE and FENCE complete with their own effect. A dispatched packet of each row, with
operands that its rules accept: FILL of a mapped range and MOVE of readable rows write their bytes and post DONE;
PLACE MAP for which frames suffice enters the dealt homes; PLACE UNMAP with no page in motion unmaps the mapped
pages and counts mapped and unmapped ones; PLACE QUERY answers HOME and PLACE of a mapped page; MIGRATE with frames
reserved stays open with the pages to move; FENCE completes when no packet in scope is open, else waits for exactly
those. (R480, R482, R483, R484, R485, R493, R495, R497, 12_memory_tiers.md). -/
def Obligations.MemoryCommandsComplete : Prop :=
  ∀ (p : Packet) (s0 : State), dispatches p s0 = true →
    let s := taken p s0
    let n := bf p.p0 63 32
    let va := p.p1.toNat
    let g := va / pageSize
    let pages := (List.range n).map fun i => g + i
    let kind := bf p.p0 10 8
    let rot := s.maskStacks p.p2.toNat
    let cur (k : Nat) : Option Home := (tfind (s.vi p.vi).pages k).map (·.home)
    let new := dealHomes s p.job kind p.p2.toNat g p.p3.toNat (fun _ => none) (n + rot.length) rot pages []
    let moved := dealHomes s p.job kind p.p2.toNat g p.p3.toNat cur (n + rot.length) rot pages []
    let todo := moved.1.filterMap fun x => x.2.map fun h => (x.1, h)
    let awaits := (s.dispatched p.vi).filter fun k => (p.p0.getLsbD 0 || k.sq == p.sq) && k != p.key
    (p.p0.toNat % 8 = 0 → p.p1.toNat % 8 = 0 → s.firstUnmapped p.vi p.p0.toNat p.p1.toNat = none →
      exec (.fill p) s0 = .next (postDone p 0 0 (vwrite p.vi p.p0.toNat
        ((List.range p.p1.toNat).map fun i => BitVec.ofNat 8 (p.p2.toNat / 2 ^ (8 * (i % 8)))) (markPhase p.job 8 s))))
    ∧ (moveMalformed p = false →
        (moveRows p (bf p.p2 31 0) 0 (markPhase p.job 8 s)).2 = none →
        exec (.move p) s0 = .next (postDone p 0 0 (moveRows p (bf p.p2 31 0) 0 (markPhase p.job 8 s)).1))
    ∧ (n ≠ 0 → n ≤ 1048576 → kind ≤ 4 → placeRefusal p true s = none → new.2 = 0 →
        exec (.placeMap p) s0 = .next (postDone p 0 0 (new.1.foldl (fun s x => match x.2 with
          | some h => mapPage p.vi p.job x.1 h s
          | none => s) s)))
    ∧ (n ≠ 0 → n ≤ 1048576 → va % pageSize = 0 → va + n * pageSize ≤ 2 ^ 52 →
        (∀ k ∈ pages, ∀ m, tfind (s.vi p.vi).pages k = some m → m.move = none) →
        let mapped := pages.filter fun k => (tfind (s.vi p.vi).pages k).isSome
        exec (.placeUnmap p) s0
          = .next (postDone p mapped.length (n - mapped.length) (mapped.foldl (fun s k => unmapPage p.vi k s) s)))
    ∧ (va % pageSize = 0 → va < 2 ^ 52 → ∀ m, tfind (s.vi p.vi).pages g = some m →
        exec (.placeQuery p) s0 = .next (postDone p (m.home.place * 2 ^ 48 + 256 * b2n m.move.isSome + m.home.kind)
          (min (runLength (s.vi p.vi).pages m.home g (s.vi p.vi).pages.length) 0xFFFFFFFF) s))
    ∧ (n ≠ 0 → n ≤ 1048576 → kind ≤ 4 → placeRefusal p false s = none → moved.2 = 0 → todo ≠ [] →
        exec (.migrate p) s0 = .next (s.openCmd p (.migrate todo 0 (n - todo.length) false)))
    ∧ (awaits = [] → exec (.fence p) s0 = .next (postDone p 0 0 s))
    ∧ (awaits ≠ [] → exec (.fence p) s0 = .next (s.openCmd p (.fence awaits)))

/-- FILL of a range of one HBM page writes the pattern there and no other byte of device memory. A dispatched FILL
whose range lies in one page with an HBM home, with no checkpoint owing a copy of that page, leaves in device
memory, byte by byte, the eight bytes of P2 repeated from the first byte of the range on, and every other byte of
device and remote memory as it was. (R495, R482, 12_memory_tiers.md). -/
def Obligations.FillWritesItsPattern : Prop :=
  ∀ (p : Packet) (s : State) (m : Mapping) (k f : Nat), p.opcode = 0x0102 → dispatches p s = true →
    let va := p.p0.toNat
    let len := p.p1.toNat
    let a := (k * 32768 + f) * pageSize + va % pageSize
    va % 8 = 0 → len % 8 = 0 → va % pageSize + len ≤ pageSize →
    s.mapping p.vi va = some m → m.now = .hbm k f →
    (∀ j ∈ s.jobs, ∀ c ∈ j.ckpts, c.todo = []) →
    ∃ t, exec (.fill p) s = .next t
      ∧ (∀ i : Nat, i < len → t.devMem.read (a + i) = BitVec.ofNat 8 (p.p2.toNat / 2 ^ (8 * (i % 8))))
      ∧ (∀ x : Nat, x < a ∨ a + len ≤ x → t.devMem.read x = s.devMem.read x) ∧ t.remMem = s.remMem

/-- PLACE MAP of one page in HBM gives a home in the selected stack that reads as zero. A dispatched PLACE MAP of
one page with HOME HBM and one stack selected, accepted by Table 12.4, where the stack has a free frame: the page
is mapped to that frame for the packet's job, every byte of the frame reads as zero, every byte of device memory
outside it is unchanged, and no other page of any VI changes its mapping. (R480, R482, 12_memory_tiers.md). -/
def Obligations.MapGivesZeroedPage : Prop :=
  ∀ (p : Packet) (s : State) (k : Nat) (f : Nat), p.opcode = 0x0104 → dispatches p s = true →
    bf p.p0 63 32 = 1 → bf p.p0 10 8 = 2 → s.maskStacks p.p2.toNat = [k] → placeRefusal p true (taken p s) = none →
    (taken p s).freeHbm k [] = some (.hbm k f) →
    ∃ t, exec (.placeMap p) s = .next t
      ∧ tfind (t.vi p.vi).pages (p.p1.toNat / pageSize) = some { home := .hbm k f, job := p.job, move := none }
      ∧ (∀ i : Nat, i < pageSize → t.devMem.read ((k * 32768 + f) * pageSize + i) = 0)
      ∧ (∀ x : Nat, x / pageSize ≠ k * 32768 + f → t.devMem.read x = s.devMem.read x)
      ∧ ∀ n g : Nat, (n ≠ p.vi ∨ g ≠ p.p1.toNat / pageSize) → tfind (t.vi n).pages g = tfind (s.vi n).pages g

/-- A page moves: mark, drain, copy ahead, copy, and its former frame is zeroed. PAGE_MOVE_START, with the oldest
command in progress a MIGRATE of a running job whose first page may move on that hub, puts the page in motion.
PAGE_DRAIN_END brings it to copy-ahead while a checkpoint owes a copy of it, else to the copy. PAGE_COPY_AHEAD_DONE
of a page that no held stack pauses counts it and brings it to the copy. PAGE_COPY_DONE of a page that no PLACE
UNMAP waits for and no held stack pauses copies its 2 MiB to the target home, maps it there, releases the former
home, counts it, and then what the motion held goes on; the last page of the MIGRATE completes it with the pages
moved and skipped. FRAME_ZEROED makes the frame free. (R485, R488, R490, R492, R76, 12_memory_tiers.md). -/
def Obligations.PageMotion : Prop :=
  (∀ (h g : Nat) (d : Home) (rest : List (Nat × Home)) (moved skipped : Nat) (p : Packet) (post : List OpenCmd) (m : Mapping)
      (s : State), h < 8 → s.movingOn h < 4 → (∀ r ∈ s.blkRst, r.block ≠ .hubEngine h 0) →
    s.opens = { pkt := p, prog := .migrate ((g, d) :: rest) moved skipped false } :: post → s.runs p = true →
    tfind (s.vi p.vi).pages g = some m → m.move = none → s.moveHub m.home d = h →
    (m.home.kind ≠ d.kind ∨ m.home.place ≠ d.place) →
    ∃ t, exec (.pageMoveStart h) s = .next t
      ∧ tfind (t.vi p.vi).pages g = some { m with move := some { target := d, phase := 1, hub := h, cmd := some p.key } }
      ∧ t = { s with vis := t.vis, opens := t.opens })
  ∧ (∀ (n g : Nat) (m : Mapping) (mv : PageMove) (s : State), viOk n = true → tfind (s.vi n).pages g = some m →
    m.move = some mv →
    (mv.phase = 1 →
      let mv' := { mv with phase := if s.owesCopy n g then 3 else 4 }
      exec (.pageDrainEnd n g) s = .next (s.updVi n fun v => { v with pages := tset v.pages g { m with move := some mv' } }))
    ∧ (mv.phase = 3 → s.movePaused n g = false → ∃ t, exec (.pageCopyAheadDone n g) s = .next t
        ∧ (t.hub mv.hub).ahead = satAdd (s.hub mv.hub).ahead 1
        ∧ tfind (t.vi n).pages g = some { m with move := some { mv with phase := 4 } })
    ∧ (mv.phase = 4 → s.movePaused n g = false → (∀ o ∈ s.opens, ∀ w d k, o.prog ≠ .unmap w d k) → m.saved = none →
        ∀ (ns : Nat) (k : Key) (p : Packet) (todo : List (Nat × Home)) (moved skipped : Nat),
        mv.cmd = some k → p.key = k → s.open? k = some { pkt := p, prog := .migrate todo moved skipped false } →
        let s1 := s.copySpan m.home.base mv.target.base pageSize
        let m' := { m with home := mv.target, move := none, saved := none }
        let s2 := releaseHome m.home (s1.updVi n fun v => { v with pages := tset v.pages g m' })
        let s3 := s2.updHub mv.hub fun x => { x with mig := satAdd x.mig 1 }
        let s4 := { s3 with ctr := { s3.ctr with memWait := satMax s3.ctr.memWait ns } }
        (todo ≠ [] → exec (.pageCopyDone n g ns) s = .next (motionEnds (s4.setProg k (.migrate todo (moved + 1) skipped false))))
        ∧ (todo = [] → p.vi = n → (∀ h x, tfind (s.vi n).pages h = some x → h ≠ g → x.move = none) →
            (s.vi n).pages.Pairwise (fun a b => a.1 < b.1) →
            exec (.pageCopyDone n g ns) s
              = .next (motionEnds (postDone p (moved + 1) skipped (s4.setProg k (.migrate [] (moved + 1) skipped false)))))))
  ∧ ∀ (f : Nat) (s : State), exec (.frameZeroed f) s = .next { s with zeroing := s.zeroing.filter (· != f) }

/-- Recalibration windows, forced holds, repairs and the scrubber. RECAL_DUE_SET sets RECAL_DUE. A window that a
CALIBRATE has due on a stack in service holds it; RECAL_FORCED holds a stack that is due and counts it. A window's
end repairs up to eight due rows, releases the stack, clears RECAL_DUE and counts the window unless the hold was
forced. RECALIBRATION_TIMEOUT raises HBM_TRAIN on a held stack. A clean scrub burst of a frame not in motion moves
the scrubber on by one burst, a whole pass is counted; SCRUB_DEMAND_SLOT changes nothing the model holds. CALIBRATE
of stacks in service with room in the schedule enters its windows.
(R502, R503, R504, R510, R511, R513, R678, R694). -/
def Obligations.StackRecalibration : Prop :=
  (∀ (k : Nat) (s : State), k < 32 →
    exec (.recalDueSet k) s = .next (s.updStk k fun t => { t with recalDue := true })
    ∧ ((s.stk k).recalDue = true → (s.stk k).state = 1 → exec (.recalForced k) s
        = .next (s.updStk k fun t => { t with state := 3, holdForced := true, forced := satAdd t.forced 1 }))
    ∧ (∀ o s1, dueWindow k s = some (o, s1) → (s1.stk k).state = 1 → exec (.recalWindowStart k) s
        = .next (s1.updStk k fun t => { t with state := 3, holdForced := false }))
    ∧ ((s.stk k).state = 3 → exec (.recalibrationTimeout k) s = .next (faultEvents (1950 + 3 * k + 2) 1 1 s))
    ∧ (∀ rows : Nat, (s.stk k).state = 3 → (s.stk k).holdForced = true → (s.stk k).rowsDue = [] →
        ∃ t, exec (.recalWindowEnd k rows) s = .next t ∧ t = { s with stks := t.stks }
          ∧ (∀ i : Nat, i ≠ k → t.stk i = s.stk i)
          ∧ t.stk k = { s.stk k with state := 1, recalDue := false, holdForced := false })
    ∧ (∀ rows : Nat, (s.stk k).state = 3 → (s.stk k).holdForced = false → (s.stk k).rowsDue = [] → s.opens = [] →
        ∃ t, exec (.recalWindowEnd k rows) s = .next t
          ∧ t.stk k = { s.stk k with state := 1, recalDue := false, windows := satAdd (s.stk k).windows 1 })
    ∧ (∀ f b : Nat, f < 32768 → b < 32768 → s.inService k = true → s.frameMoving k f = false → exec (.scrubBurst k f b 0) s = .next (s.updStk k fun t =>
        if t.scrubDone + 1 = 2 ^ 30 then { t with scrubDone := 0, scrubPasses := satAdd t.scrubPasses 1, rowErrs := [] }
        else { t with scrubDone := t.scrubDone + 1 }))
    ∧ exec (.scrubDemandSlot k) s = .next s)
  ∧ ∀ (p : Packet) (s0 : State), dispatches p s0 = true →
    let s := taken p s0
    let ks := (List.range 32).filter fun k => (bf p.p1 31 0).testBit k
    ks ≠ [] → (∀ k ∈ ks, s.inService k = true) → schedRefusal p.p2.toNat s = none →
    exec (.calibrate p) s0
      = .next ((schedule .recal p.p2.toNat (some p.key) s).openCmd p (.calibrate ks 0 0))

/-- A fret boundary counts one fret, or starts an epoch; a pending period and role take effect. FRET_BOUNDARY
before the management plane's boot changes nothing. Afterwards its next state is reached through the FTU's part of
the boundary: without an epoch start due and without an epoch mark waiting at a follower, the count grows by one;
at an armed master whose entered fret would begin, the count is 0, FTU_EPOCH grows by one, the FTU is disarmed, no
period is pending and the schedule is empty. A SET_PERIOD entered for the fret that begins takes effect, and a
pending role is taken with the count kept; a change to role 2 or 3 gives UNSET, to 0 or 1 LOCKED.
(R85, R89, R92, R93, R107, R773, 03_fret_time.md). -/
def Obligations.FretBoundaryCounts : Prop :=
  (∀ (r : Option Half) (s : State), s.boot.stage = 0 → exec (.fretBoundary r) s = .next s)
  ∧ (∀ (r : Option Half) (s : State), s.boot.stage ≠ 0 →
    let t := ftuBoundary r (countMisses (countWindows (countPhases s)))
    exec (.fretBoundary r) s = .next (tellPositions (settleAll (reopenWindows t)))
    ∧ (epochDue s.ftu = false → (s.ftu.markWaiting = false ∨ s.ftu.role.toNat < 2) → t.ftu.count = s.ftu.count + 1
        ∧ t.ftu.epoch = s.ftu.epoch)
    ∧ (epochDue s.ftu = true → t.ftu.count = 0 ∧ t.ftu.epoch = s.ftu.epoch + 1 ∧ t.ftu.armed = false
        ∧ t.ftu.pendingUs = 0 ∧ t.ftu.sched = [])
    ∧ (epochDue s.ftu = false → s.ftu.markWaiting = false → s.ftu.bootPeriod = none →
        (∃ e ∈ s.ftu.sched, e.kind = .period ∧ e.fret = (s.ftu.count + 1).toNat) →
        t.ftu.periodUs = s.ftu.pendingUs ∧ t.ftu.pendingUs = 0)
    ∧ (∀ (role : BitVec 2) (id : Half), s.ftu.pendingRole = some (role, id) → role ≠ s.ftu.role →
        epochDue s.ftu = false → s.ftu.markWaiting = false →
        t.ftu.role = role ∧ t.ftu.masterId = id ∧ t.ftu.armed = false ∧ t.ftu.pendingRole = none
        ∧ t.ftu.count = s.ftu.count + 1 ∧ t.ftu.state = (if 2 ≤ role.toNat then 0 else 2)))

/-- Lock, holdover, epoch marks, beacons and FRET_REF change the FTU as Table 3.2 gives. FTU_LOCK_ACQUIRED after 16
good checks in ACQUIRING or HOLDOVER locks; FTU_HOLDOVER_ENTRY after 2 counted failures while LOCKED enters
HOLDOVER with SOURCE 0, counts LOCK_LOSS and raises FRET_LOCK; otherwise neither changes anything. An epoch mark is
ignored and counted at a master, and at a follower neither armed nor UNSET; else it waits. A beacon of another
master changes nothing at a follower; a follower in UNSET adopts the count of an accepted one; an accepted one with
a differing count sets COUNT_ERR and raises FRET_COUNT. FRET_REF gained sets SOURCE 1 of a LOCKED master, FRET_REF
lost SOURCE 0 of a master. (R85, R94, R98, R99, R102, R103, R104, R760, R772, 03_fret_time.md). -/
def Obligations.FtuEvents : Prop :=
  (∀ s : State,
    (16 ≤ s.ftu.goodChecks → (s.ftu.state = 1 ∨ s.ftu.state = 3) → exec .ftuLockAcquired s
      = .next { s with ftu := { s.ftu with state := 2, source := sourceOf s.ftu, badChecks := 0 } })
    ∧ ((s.ftu.goodChecks < 16 ∨ (s.ftu.state ≠ 1 ∧ s.ftu.state ≠ 3)) → exec .ftuLockAcquired s = .next s)
    ∧ (2 ≤ s.ftu.badChecks → s.ftu.state = 2 →
        let f := { s.ftu with state := 3, source := 0, lockLoss := satAdd s.ftu.lockLoss 1, goodChecks := 0, badChecks := 0 }
        exec .ftuHoldoverEntry s = .next (faultEvents 2092 1 (ftuStatus f) { s with ftu := f }))
    ∧ ((s.ftu.badChecks < 2 ∨ s.ftu.state ≠ 2) → exec .ftuHoldoverEntry s = .next s)
    ∧ (s.ftu.role = 0 → exec .epochInMark s = .next s)
    ∧ ((s.ftu.role = 1 ∨ (2 ≤ s.ftu.role.toNat ∧ s.ftu.armed = false ∧ s.ftu.state ≠ 0)) → exec .epochInMark s
        = .next { s with ftu := { s.ftu with epochIgn := satAdd s.ftu.epochIgn 1 } })
    ∧ (2 ≤ s.ftu.role.toNat → (s.ftu.armed = true ∨ s.ftu.state = 0) → exec .epochInMark s
        = .next { s with ftu := { s.ftu with markWaiting := true } })
    ∧ (∃ t, exec .fretRefGained s = .next t ∧ t = { s with ftu := t.ftu } ∧ t.ftu.refPresent = true
        ∧ (s.ftu.role = 1 → s.ftu.state = 2 → t.ftu.source = 1 ∧ t.ftu.state = 2 ∧ t.ftu.counting = false))
    ∧ (∃ t, exec .fretRefLost s = .next t ∧ t = { s with ftu := t.ftu } ∧ t.ftu.refPresent = false
        ∧ (s.ftu.role = 1 → t.ftu.source = 0)))
  ∧ ∀ (port : Nat) (b : Beacon) (ph : Half) (s : State), port < 20 → 2 ≤ s.ftu.role.toNat →
    (b.masterId ≠ s.ftu.masterId → exec (.beaconReceive port b ph) s = .next s)
    ∧ (b.masterId = s.ftu.masterId → s.ftu.state = 0 → ∃ t, exec (.beaconReceive port b ph) s = .next t
        ∧ t.ftu.count = b.count ∧ t.ftu.state = 1 ∧ t.ftu.epoch = s.ftu.epoch)
    ∧ (b.masterId = s.ftu.masterId → s.ftu.state ≠ 0 → b.epochMark = false → b.count ≠ s.ftu.count →
        ∃ t, exec (.beaconReceive port b ph) s = .next t ∧ t.ftu.countErr = true ∧ t.ftu.count = s.ftu.count)
    ∧ (b.masterId = s.ftu.masterId → s.ftu.state ≠ 0 → b.epochMark = false → b.count = s.ftu.count →
        b.period = s.ftu.periodUs → s.ftu.obs = none → exec (.beaconReceive port b ph) s
          = .next (relay b { s with ftu := { s.ftu with obs := some (b.hops.toNat, port, ph) } }))

/-- FRET_CONFIG: role, period, epoch and beacon ports are entered, or refused under Table 3.3. Dispatched without
SAVE: SET_ROLE makes role and master ID pending; SET_PERIOD from 1 to 1,000 us for an acceptable fret replaces the
pending period and its entry, and with 0 or above 1,000 us changes nothing and posts FRET_PERIOD; ARM_EPOCH arms a
follower at once and enters a master's start fret in place of an earlier one; SET_BEACON_PORTS stores P1 [19:0]. A
fret refused under Table 3.3 changes nothing: FRET_PAST, FRET_TOO_FAR, FRET_NOT_LOCKED and FRET_TABLE_FULL in that
order. (R89, R91, R105, R110, R111, R773, R774, 03_fret_time.md). -/
def Obligations.FretConfigCommands : Prop :=
  (∀ (p : Packet) (s0 : State), dispatches p s0 = true → p.p1.getLsbD 31 = false →
    let s := taken p s0
    let n := p.p2.toNat
    let us := bf p.p1 9 0
    let drop (k : SchedKind) := s.ftu.sched.filter fun e => e.kind != k
    exec (.setRole p) s0 = .next (postDone p 0 0 { s with ftu := { s.ftu with
      pendingRole := some (BitVec.ofNat 2 (bf p.p1 17 16), BitVec.ofNat 16 (bf p.p1 15 0)) } })
    ∧ (1 ≤ us → us ≤ 1000 → schedRefusal n s = none → exec (.setPeriod p) s0 = .next (postDone p 0 0
        { s with ftu := { s.ftu with
          pendingUs := BitVec.ofNat 10 us, sched := drop .period ++ [{ kind := .period, fret := n, cmd := none }] } }))
    ∧ ((us = 0 ∨ 1000 < us) → exec (.setPeriod p) s0 = .next (postErr p 0x0F25 us s))
    ∧ (∀ e, 1 ≤ us → us ≤ 1000 → schedRefusal n s = some e →
        exec (.setPeriod p) s0 = .next (postFinal p e.1 e.2.1 e.2.2 0 s))
    ∧ (s.ftu.role ≠ 1 → exec (.armEpoch p) s0 = .next (postDone p 0 0 { s with ftu := { s.ftu with armed := true } }))
    ∧ (s.ftu.role = 1 → schedRefusal n s = none → exec (.armEpoch p) s0 = .next (postDone p 0 0
        { s with ftu := { s.ftu with
          armed := true, sched := drop .epoch ++ [{ kind := .epoch, fret := n, cmd := none }] } }))
    ∧ exec (.setBeaconPorts p) s0 = .next (postDone p 0 0
        { s with ftu := { s.ftu with beaconTx := BitVec.ofNat 20 (bf p.p1 19 0) } }))
  ∧ ∀ (n : Nat) (s : State),
    let c := s.ftu.count.toNat
    (n ≤ c → schedRefusal n s = some (0xFF, 0x0F20, c))
    ∧ (c + 2 ^ 40 < n → schedRefusal n s = some (0xFF, 0x0F21, c))
    ∧ (c < n → n ≤ c + 2 ^ 40 → s.ftu.state.toNat < 2 → schedRefusal n s = some (0xFF, 0x0F22, ftuStatus s.ftu))
    ∧ (c < n → n ≤ c + 2 ^ 40 → 2 ≤ s.ftu.state.toNat → 256 ≤ s.ftu.sched.length →
        schedRefusal n s = some (0x10, 0x0F23, n))
    ∧ (c < n → n ≤ c + 2 ^ 40 → 2 ≤ s.ftu.state.toNat → s.ftu.sched.length < 256 → schedRefusal n s = none)

/-- MATMUL, BRAID_RUN, slot loads and ATTN_FWD start or complete with their own effect. Dispatched with accepted
operands and no load ahead: MATMUL and MATMUL_BATCHED, with or without an epilogue program, read their tables and
open with the work they describe, cut and placed on cores in the dealing order of R263, the counts of the cut kept
for their results; every tile is of the command and not yet issued. BRAID_RUN opens with the tiles of its rows over
the program held in its slot; without a program in the slot it posts BRAID_SLOT_EMPTY. A slot with no user ahead
takes BRAID_LOAD PROGRAM, UPDATE_PROGRAM_LOAD or TABLE_LOAD at once and posts DONE; BRAID_LOAD SEED stays open and
asks every active core for a capo point. ATTN_FWD over readable operand and length tables pins its pages and opens
with its tiles, or posts DONE where it has no query row.
(R208, R210, R211, R213, R220, R225, R238, R251, R263, R302, 06_braid_fabric.md, 07_tiling.md). -/
def Obligations.ProductAndRunCommands : Prop :=
  ∀ (p : Packet) (s0 : State), dispatches p s0 = true →
    let s := taken p s0
    let q := prodOf p
    (prodMalformed p = false → s.loadAhead s.opens p = false →
      ∀ (ops tables : List Byte) (prog : Option (List Byte)), vread p.vi s p.p2.toNat 96 = .ok ops →
      (q.toBraid = false ∧ tables = ops ∧ prog = none
        ∨ q.toBraid = true ∧ ∃ img b, s.progAt p.job q.slot = some img ∧ epilogueFits q (progOf img) = true
          ∧ readTables p.vi p.p4.toNat p.p5.toNat s = .ok b ∧ tables = ops ++ b ∧ prog = some img) →
      let w := s.prodWork p tables prog
      let c := s.cutOf w
      let w1 := { w with nK := c.1.nK }
      let tiles := productTiles p.key 0 w1 c.1 c.2.1 c.2.2 (dealPlace w1 c.1 s.coreOrder)
      let r := productResults tiles.length c.1 w s.freeVal
      let t : State := { s.nextFree.openCmd p (.works [w1] r.1 r.2 0 []) with tiles := s.tiles ++ tiles }
      (∀ x ∈ tiles, x.cmd = p.key ∧ x.issued = false)
      ∧ (p.opcode = 0x0201 → exec (.matmul p) s0 = .next t) ∧ (p.opcode = 0x0202 → exec (.matmulBatched p) s0 = .next t))
    ∧ (bf p.p0 63 32 ≠ 0 → p.p1.toNat % 32 = 0 → s.loadAhead s.opens p = false →
        (s.progAt p.job (bf p.p0 4 0) = none → exec (.braidRun p) s0 = .next (postErr p 0x0221 (bf p.p0 4 0) s))
        ∧ ∀ img tables, s.progAt p.job (bf p.p0 4 0) = some img →
          readTables p.vi p.p1.toNat p.p2.toNat s = .ok tables →
          let w := withProg p.vi img tables 0 { kind := .rows, rows := bf p.p0 63 32, vote := bf p.p0 31 16 }
          let tiles := runTiles p.key 0 w s.coreOrder
          exec (.braidRun p) s0 = .next { s.openCmd p (.works [w] 0 0 0 []) with tiles := s.tiles ++ tiles }
            ∧ ∀ x ∈ tiles, x.cmd = p.key ∧ x.unit = .braid ∧ x.issued = false)
    ∧ (∀ img : List Byte, (s.job? p.job).isSome = true → s.userAhead s.opens p = false →
        (p.opcode = 0x0204 → bf p.p2 15 0 ≤ 384 → vread p.vi s p.p1.toNat (bf p.p2 15 0) = .ok img → progOk img false = true →
          exec (.braidLoadProgram p) s0
            = .next (postDone p 0 0 (s.updJob p.job fun j => { j with progs := tset j.progs (bf p.p0 12 8) img })))
        ∧ (p.opcode = 0x0505 → vread p.vi s p.p1.toNat (bf p.p2 15 0) = .ok img → updOk img = true →
          exec (.updateProgramLoad p) s0
            = .next (postDone p 0 0 (s.updJob p.job fun j => { j with upds := tset j.upds (bf p.p0 2 0) img })))
        ∧ (p.opcode = 0x0205 → vread p.vi s p.p1.toNat 6208 = .ok img →
          exec (.tableLoad p) s0 = .next (postDone p 0 0 (s.updJob p.job fun j =>
            { j with funcs := tset j.funcs (4 * bf p.p0 0 0 + bf p.p0 9 8) img }))))
    ∧ ((s.job? p.job).isSome = true →
        exec (.braidLoadSeed p) s0 = .next (askCapo s.coreOrder (s.openCmd p (.seedLoad s.coreOrder))))
    ∧ (∀ (ops lens : List Byte) (pool : Option Pool), let x := attnOf p
        let n := bf p.p0 63 32
        x.bad = false → n ≠ 0 → n ≤ 65536 → s.open? p.key = none →
        vread p.vi s p.p3.toNat 192 = .ok ops → vread p.vi s (entryOf ops 5).base (16 * n) = .ok lens →
        let es := lenEntries lens n
        (∀ e ∈ es, e.qLen ≤ e.kvLen) →
        (x.paged = false ∧ pool = none
          ∨ x.paged = true ∧ ∃ k, s.pool? p.job (bf p.p4 63 48) = some k ∧ pool = some k
            ∧ s.firstHole p.vi (s.poolRanges p.vi k ((es.filter fun e => e.qLen != 0).map (·.kvRef))) = none
            ∧ s.attnPagedBad p.vi x k (bf p.p4 47 32) es = false
            ∧ s.pinnable p.vi k (s.attnPages p.vi k es) = true) →
        let w := s.attnWork p x ops es pool
        let pins := match pool with | some k => s.attnPages p.vi k es | none => []
        let s1 := match pool with | some k => pins.foldl (fun s g => pinPage p.vi k g s) s | none => s
        let s2 := s1.openCmd p (.works [w] 0 0 ((pool.map (·.id)).getD 0) pins)
        let tiles := s.tilesOf p.key 0 w s.coreOrder
        (tiles ≠ [] → exec (.attnFwd p) s0 = .next { s2 with tiles := s.tiles ++ tiles })
        ∧ (tiles = [] → exec (.attnFwd p) s0 = .next (postDone p 0 0 (dropTiles p.key s2))))

/-- Tile issue, tile end, failed checks, parity halts and capo points. A core that takes tiles issues the first
tile placed on it, where its unit is free and no tile or access is waited for: its operands are staged, its unit
begins and it is counted. A tile in progress that ends leaves its unit idle and writes what it computes; with tiles
of its work left nothing more happens, and with the last tile of a product, run or attention the command posts
DONE. A vector whose sums pass both checks changes nothing; a failing one is recorded in each array that fails it,
raises ARR_CHECK, and halts the tile. A parity error raises its fault and halts the tile. A halted tile that has
not yet run again and overwrites no input runs again from its start. A core whose capo point was asked for, with no
tile in progress and nothing else waiting for it, records the longest time and runs on.
(R171, R178, R179, R180, R181, R215, R245, R257, R259, R264, 05_matrix_arrays.md, 07_tiling.md). -/
def Obligations.TilesRunOnTheirCores : Prop :=
  (∀ (d c : Nat) (t : Tile) (o : OpenCmd) (st : List (Nat × Nat)) (s : State), isCore d c = true →
    let w := o.workOf t
    s.takesTiles d c = true → s.tileOn d c t.unit = none → s.nextTile d c = some t →
    (∀ x ∈ s.tilesBefore t, s.tileWaits t x = false) → s.open? t.cmd = some o → s.accessWaits w t = false →
    s.streamWaits o w t = false → stageTile w t s = .ok st →
    ∃ s' : State, exec (.tileIssue d c t.unit) s = .next s'
      ∧ s'.tiles = s.tiles.map (fun x => if x = t then { x with issued := true, staged := st } else x)
      ∧ (s'.die d).tilTiles = satAdd (s.die d).tilTiles 1
      ∧ (t.unit = .arrays → (s'.core d c).a.state = 1 ∧ (s'.core d c).b.state = 1)
      ∧ (t.unit = .mvp → (s'.core d c).mvpState = 1) ∧ (t.unit = .braid → (s'.core d c).brdState = 1)
      ∧ s' = { s with tiles := s'.tiles, dies := s'.dies, cores := s'.cores, jobs := s'.jobs })
  ∧ (∀ (d c : Nat) (u : TileUnit) (ns : Nat) (t : Tile) (o : OpenCmd) (s : State), isCore d c = true →
    s.tileOn d c u = some t → s.open? t.cmd = some o →
    let w := o.workOf t
    let s0 := idleUnit d c u { s with tiles := s.tiles.filter (· != t) }
    let r := endEffect w t o.pkt.job ns (markWork o.pkt s0)
    r.2 = none → r.1.abortOn t.cmd = false →
    ((∃ x ∈ r.1.tiles, x.cmd = t.cmd ∧ x.work = t.work) → exec (.tileEnd d c u ns) s = .next r.1)
    ∧ ∀ (ws : List Work) (r0 r1 pool : Nat) (pins : List Nat), o.prog = .works ws r0 r1 pool pins →
      (∀ x ∈ r.1.tiles, x.cmd ≠ t.cmd) → (workEnd t.cmd t.work w r.1).2 = none →
      exec (.tileEnd d c u ns) s
        = .next (settleSlots (postDone o.pkt r0 r1 (dropTiles t.cmd (workEnd t.cmd t.work w r.1).1))))
  ∧ (∀ (d c pass vec ns : Nat) (sumsA sumsB : List (Nat × Dword)) (t : Tile) (o : OpenCmd) (g : Seg × Option Nat)
      (r : Nat × List Elem) (s : State), isCore d c = true →
    s.tileOn d c .arrays = some t → t.kind ≠ 6 → s.open? t.cmd = some o →
    let w := o.workOf t
    let l := s.tilePasses w t
    l[pass]? = some g → g.1.rows[vec]? = some r →
    let sums := sumsOf sumsA sumsB
    let a := checkVerdict g.1 (s.core d c).a.chkMode.toNat 0 r.2 sums
    let b := checkVerdict g.1 (s.core d c).b.chkMode.toNat 1 r.2 sums
    let drawn := if pass + 1 = l.length then drawnBefore (passCost g) g.1.rows.length vec else 0
    let s1 := haltPasses w t pass vec (haltDraws w t o.pkt.job drawn s)
    let halt (col x : Nat) (s : State) :=
      haltTile o w t true 0x32 0x0210 (locWord col d c x) (pass * 65536 + vec) ns s
    (a = none → b = none → exec (.arrayCheckFail d c pass vec sumsA sumsB ns) s = .next s)
    ∧ (∀ col, a = some col → b = none → exec (.arrayCheckFail d c pass vec sumsA sumsB ns) s
        = .next (halt col 0 (recordFail d c vec (0, col) s1)))
    ∧ (∀ col, a = none → b = some col → exec (.arrayCheckFail d c pass vec sumsA sumsB ns) s
        = .next (halt col 1 (recordFail d c vec (1, col) s1)))
    ∧ ∀ col col', a = some col → b = some col' → exec (.arrayCheckFail d c pass vec sumsA sumsB ns) s
        = .next (halt col 0 (recordFail d c vec (1, col') (recordFail d c vec (0, col) s1))))
  ∧ (∀ (d c pass drawn ns : Nat) (t : Tile) (o : OpenCmd) (g : Seg × Option Nat) (s : State), isCore d c = true →
    s.tileOn d c .arrays = some t → t.kind ≠ 6 → s.open? t.cmd = some o →
    let w := o.workOf t
    let l := s.tilePasses w t
    l[pass]? = some g → (∀ dn st ws, o.prog ≠ .updateRun dn st ws) →
    let s1 := if pass + 1 = l.length then haltDraws w t o.pkt.job (min drawn g.1.rows.length) s else s
    exec (.arrayParityHalt d c (true, false) ⟨pass, drawn, ns⟩) s = .next (haltTile o w t true 0x31 0x0211 (locWord 0xFF d c 0)
      (pass * 65536 + 0xFFFF) ns (faultEvent1 (6 * coreIx d c + 1) (locWord 0xFF d c 0) (haltPasses w t pass 0 s1))))
  ∧ (∀ (d c cell row ns : Nat) (t : Tile) (o : OpenCmd) (s : State), isCore d c = true → cell < 32 → row < 2 ^ 32 →
    s.tileOn d c .braid = some t → s.open? t.cmd = some o →
    let w := o.workOf t
    let s1 := faultEvent1 (6 * coreIx d c + 2) (cell * 2 ^ 24)
      (s.updCore d c fun k => { k with brdParity := satAdd k.brdParity 1 })
    (∀ dn st ws, o.prog = .updateRun dn st ws → exec (.braidParityHalt d c (cell, row) ns) s
      = .next (endUpdateParity o t dn (s1.updDie t.die fun x => { x with tilLong := satMax x.tilLong ns })))
    ∧ ((∀ dn st ws, o.prog ≠ .updateRun dn st ws) → exec (.braidParityHalt d c (cell, row) ns) s
      = .next (haltTile o w t true 0x31 0x0220 (cell * 2 ^ 24 + d * 2 ^ 16 + c * 2 ^ 8) row ns s1)))
  ∧ (∀ (o : OpenCmd) (w : Work) (t : Tile) (sc : Bool) (st : Byte) (rs : Half) (a b ns : Nat) (s : State),
    t.reruns = 0 → overwritesInputs w t = false → s.abortOn t.cmd = false →
    let s' := haltTile o w t sc st rs a b ns s
    s'.tiles = s.tiles.map (fun x => if x = t then { x with issued := false, staged := [], reruns := 1 } else x)
    ∧ (s'.die t.die).tilLong = satMax (s.die t.die).tilLong ns
    ∧ s' = { s with tiles := s'.tiles, dies := s'.dies, cores := s'.cores })
  ∧ ∀ (d c ns : Nat) (s : State), isCore d c = true → (s.core d c).capoReq = true → (s.core d c).atCapo = false →
    (∀ t ∈ s.tiles, t.die = d → t.core = c → t.issued = false) → s.opens = [] → s.handsOver d c = false →
    s.givesBack d c = false → (s.core d c).sliceDue = false → s.preemptDue = false →
    ∃ s' : State, exec (.capoPointReached d c ns) s = .next s'
      ∧ (s'.core d c).capoReq = false ∧ (s'.core d c).atCapo = false
      ∧ (s'.die d).tilCapo = satMax (s.die d).tilCapo ns ∧ s' = { s with dies := s'.dies, cores := s'.cores }

/-- Rollouts open and close, requests enter, steps are entered in order, and SAMPLE draws. Dispatched and accepted:
ROLLOUT_OPEN zeroes its sequence table, binds the first run of free tables, and answers ROLLOUT_ID and the first
table; ROLLOUT_CLOSE waits for the boundary while a step of the rollout runs, else ends every sequence and frees
the rollout at once; PREFILL writes its entry, takes the table of its slot, and its request stays open; SEQ_CANCEL
waits for the boundary or acts at once; ROLLOUT_STEP and SPEC_VERIFY of a draft's own target join the rollout's
steps behind those entered before; SAMPLE marks the ROLLOUT phase of its job, writes one token record a row and
posts DONE. With an unknown rollout each posts ROLLOUT_UNKNOWN.
(R270, R271, R273, R278, R281, R288, R299, R310, R313, R331, 08_rollout_generation.md). -/
def Obligations.RolloutCommandsComplete : Prop :=
  (∀ (p : Packet) (s0 : State), dispatches p s0 = true →
    let s := taken p s0
    let k := bf p.p0 7 0
    (∀ (j : Job) (m : Model) (q : Pool) (t : Nat), s.job? p.job = some j → s.nameModel p (bf p.p4 63 48) = .ok m →
      s.pool? p.job (bf p.p0 63 48) = some q → draftBad p j = false → s.shapeBad p.vi q m = false → j.rollouts.length < 64 →
      s.tableRun p.vi q (bf p.p0 47 32 + 1) = some t → openBad p = false →
      s.firstUnmapped p.vi p.p1.toNat (64 * (bf p.p0 47 32 + 1)) = none →
      let slots := bf p.p0 47 32 + 1
      let id := (firstFree (fun i => !(j.rollouts.any fun r => r.id == i)) 64 0).getD 0
      let s1 := vwrite p.vi p.p1.toNat (List.replicate (64 * slots) 0) s
      let r := rolloutOf p id t (BitVec.ofNat 32 (s.modelVersion p.vi m))
      exec (.rolloutOpen p) s0 = .next (postDone p id t
        ((bindTables p.vi q id t slots s1).updJob p.job fun j => { j with rollouts := j.rollouts ++ [r] })))
    ∧ (∀ x, s.roll? p.job (bf p.p0 15 8) = some x →
      let c := bf p.p0 15 8
      let s1 := s.openCmd p (.rolloutClose c)
      exec (.rolloutClose p) s0 = .next (if s.stepRunning p.job c then
        s1.updRoll p.job c fun r => { r with closing := r.closing.or (some p) } else closeRollout p.job c s1))
    ∧ (∀ n r q, s.roll? p.job k = some (n, r, q) →
      (prefillBad p r = false → s.rollHole n r q = none → prefillRefusal p n r q s = none →
        let slot := bf p.p4 47 32
        let s1 := vwrite n (r.seqtab + 64 * slot) (entryBytes p s.ftu.count.toNat) (s.openCmd p (.request k slot))
        exec (.prefill p) s0
          = .next ((takeTable n q (r.tbase + slot) s1).updRoll p.job k fun x =>
            { x with reqs := x.reqs ++ [(slot, { pkt := p, heldFrom := 1, source := s.forkSource n r p })] }))
      ∧ (s.stepRunning p.job k = false →
        exec (.seqCancel p) s0 = .next (endings p.job k false (s.openCmd p (.cancel k))))
      ∧ (s.stepRunning p.job k = true → s.slotOf n r (bf p.p0 63 32) = none →
        exec (.seqCancel p) s0 = .next (s.openCmd p (.cancel k)))
      ∧ (∀ slot, s.stepRunning p.job k = true → s.slotOf n r (bf p.p0 63 32) = some slot → exec (.seqCancel p) s0
        = .next (touch n r slot (setSe n r slot 5 1 (s.se n r slot 5 1 ||| 1) (s.openCmd p (.cancel k)))))
      ∧ exec (.rolloutStep p) s0 = .next ((s.openCmd p (.rolloutStep k 0 0 0)).updRoll p.job r.owner
          fun r => { r with stepCmds := r.stepCmds ++ [p] })
      ∧ ∀ n' d q', s.roll? p.job (bf p.p0 15 8) = some (n', d, q') → d.role = 2 → d.target = k →
        exec (.specVerify p) s0 = .next ((s.openCmd p (.specVerify k (bf p.p0 15 8))).updRoll p.job r.owner
          fun r => { r with stepCmds := r.stepCmds ++ [p] }))
    ∧ (s.roll? p.job k = none → exec (.prefill p) s0 = .next (postErr p 0x0302 k s)
        ∧ exec (.seqCancel p) s0 = .next (postErr p 0x0302 k s) ∧ exec (.rolloutStep p) s0 = .next (postErr p 0x0302 k s)
        ∧ exec (.specVerify p) s0 = .next (postErr p 0x0302 k s))
    ∧ (bf p.p0 63 32 ≠ 0 → bf p.p0 63 32 ≤ 1048576 → (bf p.p2 31 24 = 1 ∨ bf p.p2 31 24 = 2) → (smpOf p.p3 p.p4).bad = false →
        let r := sampleRows p (smpOf p.p3 p.p4) (bf p.p0 63 32) 0 (markPhase p.job 0 s)
        r.2 = none → exec (.sample p) s0 = .next (postDone p 0 0 r.1)))

/-- A batch step of the running step command, and the policy for a held sequence. BATCH_STEP of a rollout whose
oldest step command is a ROLLOUT_STEP of it, of a running job, with every core taking tiles, out of STEP mode and
with all that a step uses mapped: the boundary comes first, then the step; with the step done and STEPS not
reached, the command stays open with one more step and its tokens counted, and with STEPS reached the boundary
follows and the command completes. For a SPEC_VERIFY the step and the boundary after it complete the command with
accepted and generated tokens. A step that fails ends its command after the boundary with the failure's status and
reason. With no step command it changes nothing. EXHAUSTION_POLICY serves one held sequence: with the pages free
that it needs, it returns to its former state and its pages are withheld for it; within the wait it stays held;
under policy END after the wait it ends with KV_EXHAUSTED.
(R288, R290, R295, R310, R349, R350, 08_rollout_generation.md, 09_kv_pages.md). -/
def Obligations.BatchStepsAndHeldSequences : Prop :=
  (∀ (id k : Nat) (f : Option (StepFault × Nat × Nat)) (s : State), s.stepList id k = [] → exec (.batchStep (id, k) f) s = .next s)
  ∧ (∀ (id k : Nat) (f : Option (StepFault × Nat × Nat)) (p : Packet) (l : List Packet) (n : Nat) (r : Rollout) (q : Pool)
      (s : State),
    s.stepList id k = p :: l → s.roll? id k = some (n, r, q) → bf p.p0 7 0 = k → s.runs p = true → r.stage6 = none →
    (∀ c ∈ s.coreOrder, s.takesTiles c.1 c.2 = true) → s.sched.stepMode = false →
    let kind := s.kindOf id p r
    let b := boundary id k (nextRows id k kind) s
    let x := runStep id k p.key kind f b
    s.stepHole id k kind = none → x.1.abortOn p.key = false →
    (∀ (o : OpenCmd) (k1 a1 a2 a3 steps toks ended acc off got : Nat) (y : Nat × Rollout × Pool), p.op = 0x0302 →
      b.open? p.key = some o → o.prog = .rolloutStep k1 a1 a2 a3 → b.roll? id k = some y →
      (bf p.p0 31 16 ≠ 0 ∨ ∃ e ∈ y.2.1.reqs, 1 ≤ b.slotState y.1 y.2.1 e.1 ∧ b.slotState y.1 y.2.1 e.1 ≤ 3) →
      (x.2 = .done acc off got → ∀ (o' : OpenCmd) (k2 : Nat), x.1.open? p.key = some o' →
        o'.prog = .rolloutStep k2 steps toks ended →
        let s1 := x.1.setProg p.key (.rolloutStep k (steps + 1) (toks + got) ended)
        (bf p.p0 31 16 ≠ steps + 1 → exec (.batchStep (id, k) f) s = .next s1)
        ∧ (bf p.p0 31 16 = steps + 1 → ((lastBoundary id k kind s1).open? p.key).isSome = true →
          exec (.batchStep (id, k) f) s = .next (doneStep id k p (lastBoundary id k kind s1))))
      ∧ ∀ (st : Byte) (rs : Half) (r0 r1 : Nat), x.2 = .failed st rs r0 r1 →
        ((lastBoundary id k kind x.1).open? p.key).isSome = true →
        exec (.batchStep (id, k) f) s = .next (postFinal p st rs r0 r1 (dropStep id p (lastBoundary id k kind x.1))))
    ∧ (∀ (acc off got : Nat), p.op = 0x0305 → (b.open? p.key).isSome = true → (b.roll? id k).isSome = true →
      x.2 = .done acc off got → ((lastBoundary id k kind x.1).open? p.key).isSome = true →
      exec (.batchStep (id, k) f) s
        = .next (endStep id p 0 0 (acc % 2 ^ 32 + got % 2 ^ 32 * 2 ^ 32) off (lastBoundary id k kind x.1))))
  ∧ ∀ (id k slot n : Nat) (r : Rollout) (q : Pool) (s : State), s.roll? id k = some (n, r, q) → r.stage6 = none →
    s.stepList id k = [] → s.slotState n r slot = 4 →
    let x := s.heldNeed id k slot (nextRows id k (s.ownKind id r) s slot)
    let need := x.1 + x.2
    let free := s.kvFree n q - (r.withheld.map (·.2)).sum
    let pol := s.policyOf n q k
    let keep (l : List (Nat × Nat)) (s : State) := s.updRoll id k fun y => { y with withheld := l }
    (need ≤ free → exec (.exhaustionPolicy id k slot) s = .next (keep (r.withheld ++ [(slot, x.2)]) (returnHeld id k slot s)))
    ∧ (free < need → s.waited n r slot < pol.2 → exec (.exhaustionPolicy id k slot) s = .next (keep r.withheld s))
    ∧ (free < need → pol.2 ≤ s.waited n r slot → pol.1 = 0 →
        exec (.exhaustionPolicy id k slot) s = .next (keep r.withheld (endExhausted id k slot 0x0412 s)))

/-- KV pools, forks, releases and receives complete; a received page is checked, a late one times out. Dispatched,
with the pool's structures mapped, and accepted: CREATE writes the structures and answers the pool's ID; SET_POLICY
is in force at once when no rollout is on the pool and no spill slot holds a page; DESTROY of a pool with no page
referenced removes it; FORK shares the pages below the length; RELEASE of a table with no send open releases and
counts; KV_SHIP RECEIVE allocates its pages, writes the table's header, makes the table RECEIVING and stays open
with its deadline. With no such pool the five post POOL_UNKNOWN. A page that matches its CRC is counted and the
check moves on; the last one restores the table's state and posts DONE; a receive whose deadline has passed with
fewer pages arrived than shipped leaves the table stranded and posts KV_TIMEOUT.
(R322, R323, R324, R325, R353, R354, R356, R358, R359, 09_kv_pages.md). -/
def Obligations.KvCommandsComplete : Prop :=
  (∀ (p : Packet) (s0 : State), dispatches p s0 = true →
    let s := taken p s0
    let k := bf p.p0 63 48
    (∀ j : Job, s.job? p.job = some j → poolBad p = false → j.pools.length < 16 →
      (j.pools.map fun q => s.cb j.vi q 16 4).sum + bf p.p1 63 32 ≤ 2 ^ 24 →
      s.firstUnmapped p.vi p.p3.toNat (poolImage p).length = none →
      let q : Pool := { id := freePool j, arena := p.p2.toNat, metaVa := p.p3.toNat, pendPolicy := none, spillUsed := [] }
      let s1 := vwrite p.vi p.p3.toNat (poolImage p) s
      exec (.kvPoolCreate p) s0 = .next (postDone p q.id (s1.cb p.vi q 12 4)
        (s1.updJob p.job fun j => { j with pools := j.pools ++ [q] })))
    ∧ (s.pool? p.job k = none → exec (.kvPoolSetPolicy p) s0 = .next (postErr p 0x0401 k s)
        ∧ exec (.kvPoolDestroy p) s0 = .next (postErr p 0x0401 k s) ∧ exec (.kvFork p) s0 = .next (postErr p 0x0401 k s)
        ∧ exec (.kvRelease p) s0 = .next (postErr p 0x0401 k s) ∧ exec (.kvShipReceive p) s0 = .next (postErr p 0x0401 k s))
    ∧ ∀ q : Pool, s.pool? p.job k = some q →
      let mapped (tables : List Nat) (more : List (Nat × Nat)) : Prop :=
        s.firstUnmapped p.vi q.metaVa 256 = none ∧ s.firstHole p.vi (s.poolRanges p.vi q tables ++ more) = none
      (s.firstUnmapped p.vi q.metaVa 256 = none → bf p.p0 9 8 < 2 → p.p2.toNat % 4096 = 0 → bf p.p3 31 0 ≤ 16777215 → q.spillUsed = [] → q.pendPolicy = none →
        s.rolloutsOn p.job k = [] → exec (.kvPoolSetPolicy p) s0 = .next (postDone p 0 0
          ((putPolicy p.vi q (bf p.p0 9 8, bf p.p1 31 0, p.p2.toNat, bf p.p3 31 0) s).updPool p.job k
            fun q => { q with pendPolicy := none })))
      ∧ (mapped [] [] → (∀ i < s.cb p.vi q 16 4, s.desc p.vi q i % 65536 = 0) → s.rolloutsOn p.job k = [] →
        exec (.kvPoolDestroy p) s0
          = .next (postDone p 0 0 (s.updJob p.job fun j => { j with pools := j.pools.filter fun x => x.id != k })))
      ∧ (∀ s1 : State,
        mapped [bf p.p0 23 0, bf p.p0 47 24] (((s.sharable p.vi q (bf p.p0 47 24) (bf p.p1 31 0)).filter fun x =>
          s.pageRef p.vi q x.2 == 255).map fun x => (s.pageVa p.vi q x.2, s.kvStr p.vi q)) →
        bf p.p0 47 24 < s.kvTables p.vi q → bf p.p0 23 0 < s.kvTables p.vi q →
        s.tableIdle p.vi q (bf p.p0 23 0) = true → s.th p.vi q (bf p.p0 47 24) 0 1 ≠ 3 →
        (∀ i, i < s.covers p.vi q (bf p.p1 31 0) → i < s.used p.vi q (bf p.p0 47 24) →
          teSpilled (s.te p.vi q (bf p.p0 47 24) i) = false) →
        sharePages p.vi q (bf p.p0 47 24) (bf p.p0 23 0) (bf p.p1 31 0) s = some s1 →
        exec (.kvFork p) s0
          = .next (postDone p (s.sharable p.vi q (bf p.p0 47 24) (bf p.p1 31 0)).length 0 s1))
      ∧ (mapped [bf p.p0 47 24] [] → bf p.p0 47 24 < s.kvTables p.vi q → s.th p.vi q (bf p.p0 47 24) 0 1 ≠ 3 →
        s.tableBusy p.vi p.job k q (bf p.p0 47 24) = false → s.sending p.job k (bf p.p0 47 24) = false →
        exec (.kvRelease p) s0 = .next (releaseNow p q s))
      ∧ (let t := bf p.p0 47 24
         let pages := bf p.p1 31 0
         let st := s.th p.vi q t 0 1
         let hdr := leBytes 4 (bf p.p1 63 32) ++ leBytes 4 pages ++ leBytes 2 (bf p.p2 15 0)
         mapped [t] [] → t < s.kvTables p.vi q → pages ≤ cdiv (s.kvMaxPos p.vi q) (s.kvPt p.vi q) → s.used p.vi q t = 0 →
         (st = 0 ∨ (st = 1 ∧ s.tableBusy p.vi p.job k q t = false)) → pages ≤ s.kvFree p.vi q →
         exec (.kvShipReceive p) s0 = .next ((setTh p.vi q t 0 1 3 (wr p.vi (s.tblVa p.vi q t + 24) 8 0
             (vwrite p.vi (s.tblVa p.vi q t + 8) hdr (fixUsed p.vi q t pages (fillTable p.vi q t pages 0 s))))).openCmd p
           (.kvReceive k t st (if bf p.p2 63 32 = 0 then 0 else s.ftu.count.toNat + bf p.p2 63 32) 0 none))))
  ∧ ∀ (id k t former till checked : Nat) (p : Packet) (q : Pool) (s : State),
    s.receiveOn id k t = some { pkt := p, prog := .kvReceive k t former till checked none } → s.pool? id k = some q →
    (let e := s.te p.vi q t checked
     let s1 := { s with ctr := { s.ctr with kvShipPages := satAdd s.ctr.kvShipPages 1 } }
     checked < s.th p.vi q t 24 8 → checked < s.th p.vi q t 12 4 →
     crc32c (s.peek p.vi (s.pageVa p.vi q (tePage e)) (s.kvStr p.vi q)) = BitVec.ofNat 32 (e / 2 ^ 32) →
     (checked + 1 ≠ s.th p.vi q t 12 4 → exec (.kvPageCheck id k t) s
        = .next (s1.setProg p.key (.kvReceive k t former till (checked + 1) none)))
     ∧ (checked + 1 = s.th p.vi q t 12 4 → s.used p.vi q t ≠ 0 → exec (.kvPageCheck id k t) s
        = .next (postDone p 0 0 (setTh p.vi q t 0 1 former s1))))
    ∧ (till ≠ 0 → till ≤ s.ftu.count.toNat → s.th p.vi q t 24 8 < s.th p.vi q t 12 4 →
      let s1 := setTh p.vi q t 0 1 4 s
      exec (.kvReceiveTimeout id k t) s = .next (postErr p 0x0422 (s.th p.vi q t 24 8)
        { s1 with ctr := { s1.ctr with kvShipTimeout := satAdd s1.ctr.kvShipTimeout 1 } }))

/-- Passes, QUERY, STEP_SIZE_SET, UPDATE, ATTN_BWD and PHASE_TIMES_READ have their own effect. Dispatched and
accepted: a pass whose turn has come, that waits for no counter and passes its checks is noted in its step and
launched: its works are planned on the cores of their stages, its constants are written, and it opens with the
tiles of those works, each of the command and not yet issued. One that waits for IN_CTR stays open. QUERY answers
the SAVE size and the pages of its gradients. STEP_SIZE_SET stores tag and size and answers the former tag. An
UPDATE whose waits have ended posts STEP_SIZE_STALE, counting it, when its tag is not the one set;
UPDATE_SLOT_EMPTY without an image; DONE with no layers when STOCHASTIC PART is set and the image has no SPLIT;
else it opens with the tiles of its layers. ATTN_BWD over readable operand and length tables opens with its tiles.
PHASE_TIMES_READ writes the unread records asked for, oldest first, up to MAX, marks them read and answers the
records lost. (R238, R362, R366, R369, R388, R392, R393, R411, R412, R415, R426, 10_learning_passes.md). -/
def Obligations.LearningCommandsComplete : Prop :=
  ∀ (p : Packet) (s0 : State), dispatches p s0 = true →
    let s := taken p s0
    let x := passOf p
    let s1 := noteStep p.job x.step x.mbCount (some (BitVec.ofNat 32 x.version))
      (if x.bwd then s else noteFwd p.job x (turnWindow p.job x.step s))
    let s2 := s1.openCmd p (.pass x.bwd s.ftu.count 0)
    (∀ (m m' : Model) (bs : List Byte), x.bad p = false → passRefusal p x false s = .ok m → s2.passTurn p = true →
      vread p.vi s2 p.p3.toNat 128 = .ok bs →
      let b := blockOf bs
      (∀ (es : List LenEntry) (t : State), b.inCtr = 0 → s2.model? p.job x.model = some m' → s2.passTag p.vi m' x = none →
        readLens p.vi m' x b s2 = .ok es → entriesBad b.rows es = false →
        let c := passCtx p.vi m' x b es
        let v := s2.savedOf p.job x.step x.mb
        let l := if x.bwd then
            s2.launchBwd c x b v (!(((s2.stepOf p.job x.step).map (·.anyBwd)).getD false)) p.key.scratch
          else s2.launchFwd c b p.key.scratch
        let ws := l.works s2 x.bwd x.first b.rows
        let tiles := s2.stageTiles p.key ws
        let out := if b.outModule = 0xFFFF then [] else (l.out.map fun o => rowRanges o.o b.rows o.cols).getD []
        let u := t.setProg p.key (.passRun x.bwd s.ftu.count 0 tiles.length (ws.map (·.1)) bs out l.spans)
        l.plan.prepare (notePass p.job x l.saved s2).nextFree = (t, none) → tiles ≠ [] →
        (∀ y ∈ tiles, y.cmd = p.key ∧ y.issued = false)
        ∧ (p.opcode = 0x0501 → p.p1.getLsbD 0 = false →
          exec (.passFwd p) s0 = .next { u with tiles := u.tiles ++ tiles })
        ∧ (p.opcode = 0x0502 → s2.noCopy p.vi m' x = none → m'.badPair x v = none →
          exec (.passBwd p) s0 = .next { u with tiles := u.tiles ++ tiles }))
      ∧ (∀ v : List Byte, b.inCtr ≠ 0 → vread p.vi s2 b.inCtr 8 = .ok v → leNat v < b.inValue →
        (p.opcode = 0x0501 → p.p1.getLsbD 0 = false →
          exec (.passFwd p) s0 = .next (s2.setProg p.key (.pass x.bwd s.ftu.count 0)))
        ∧ (p.opcode = 0x0502 → exec (.passBwd p) s0 = .next (s2.setProg p.key (.pass x.bwd s.ftu.count 0)))))
    ∧ (∀ (m : Model) (b : List Byte), p.opcode = 0x0501 → p.p1.getLsbD 0 = true → x.bad p = false →
        passRefusal p x true s = .ok m → vread p.vi s (p.p3.toNat + 64) 8 = .ok b →
        exec (.passFwdQuery p) s0
          = .next (postDone p (m.saveBytes x.first x.pieces (x.word % 256) (blk b 0 4))
              (cdiv (m.gradBytes x.first x.pieces 4) 4096 % 2 ^ 32) s))
    ∧ (∀ j : Job, s.job? p.job = some j → exec (.stepSizeSet p) s0
        = .next (postDone p ((j.stepSize.map fun t => t.1.toNat).getD 0xFFFFFFFFFFFFFFFF) 0
            (s.updJob p.job fun j => { j with stepSize := some (p.p0, BitVec.ofNat 32 (bf p.p1 31 0)) })))
    ∧ (let u := (noteStep p.job p.p0 0 none s).openCmd p .update
       let tag := (u.job? p.job).bind (·.stepSize)
       let split := p.p2.getLsbD 4
       bf p.p2 63 32 ≠ 0xFFFFFFFF → (s.job? p.job).isSome = true → layerCount p ≠ 0 → p.p1.toNat % 32 = 0 →
       u.updateReady p = true →
       ((∀ t, tag = some t → t.1 ≠ p.p0) → exec (.update p) s0 = .next
          (postFinal p 0x28 0x0000 p.p0.toNat ((tag.map fun t => bf t.1 31 0).getD 0xFFFFFFFF)
            { u with ctr := { u.ctr with lrnStale := satAdd u.ctr.lrnStale 1 } }))
       ∧ ∀ eta : Word, tag = some (p.p0, eta) →
          (u.updImg p = none → exec (.update p) s0 = .next (postErr p 0x0508 (bf p.p2 2 0) u))
          ∧ ∀ g : UpdImg, u.updImg p = some g →
            (split = true → g.ops.any UpdOp.isSplit = false →
              exec (.update p) s0 = .next (doneUpdate p 0 u.ftu.count u))
            ∧ ∀ ws : List Work, (split = true → g.ops.any UpdOp.isSplit = true) →
              layersFit p g u (List.range (layerCount p)) = .ok true →
              updWorks p g eta u (List.range (layerCount p)) = .ok ws →
              let ws := ws.map u.planWork
              let tiles := u.tilesAll p.key (ws.map fun w => (w, u.coreOrder))
              let v := u.setProg p.key (.updateRun [] u.ftu.count ws)
              exec (.update p) s0 = .next (endEmptyLayers p tiles ws { v with tiles := v.tiles ++ tiles }))
    ∧ (∀ (ops lens : List Byte), let y := { attnOf p with stats := false, paged := false }
        let n := bf p.p0 63 32
        let f := (attnDo p).1
        y.bad = false → n ≠ 0 → n ≤ 65536 → fmtOk (bf p.p4 63 48 % 256) = true → bf p.p4 63 48 % 256 ≠ 0x0D →
        fmtOk f = true → fmtOk (attnDo p).2 = true → (pairRates f y.fpv).isSome = true → (pairRates f y.fqk).isSome = true →
        (pairRates y.fpv f).isSome = true → s.open? p.key = none → vread p.vi s p.p3.toNat 320 = .ok ops →
        vread p.vi s (entryOf ops 6).base (16 * n) = .ok lens → (∀ e ∈ lenEntries lens n, e.qLen ≤ e.kvLen) →
        let w := attnBwdWork p y ops (lenEntries lens n)
        let s1 := s.openCmd p (.works [w] 0 0 0 [])
        let tiles := s.tilesOf p.key 0 w s.coreOrder
        (tiles ≠ [] → exec (.attnBwd p) s0 = .next { s1 with tiles := s.tiles ++ tiles })
        ∧ (tiles = [] → exec (.attnBwd p) s0 = .next (postDone p 0 0 (dropTiles p.key s1))))
    ∧ (let id := bf p.p0 15 0
       let ix := (((s.phases.zip (List.range s.phases.length)).filter fun e =>
         !e.1.read && (id == 0xFFFF || e.1.job == id)).take (bf p.p2 31 0))
       let bytes := ix.flatMap fun e => phaseBytes s.moduleId e.1
       let t := vwrite p.vi p.p1.toNat bytes s
       s.firstUnmapped p.vi p.p1.toNat bytes.length = none →
       exec (.phaseTimesRead p) s0 = .next (postDone p ix.length (min s.ctr.phaseLost 0xFFFFFFFF)
         { t with
           phases := (s.phases.zip (List.range s.phases.length)).map fun e =>
             if (ix.map (·.2)).contains e.2 then { e.1 with read := true } else e.1
           ctr := { t.ctr with phaseLost := 0 } }))

/-- STOW_LOAD, adapters, flips, discards and drains have their own effect. Dispatched and accepted: STOW_LOAD with
room maps the model's area, enters its regions and answers the handle; ADAPTER_LOAD of a new variant enters it and
answers its first entry; ADAPTER_UNLOAD of a variant not in use removes it; FRESHET_FLIP of an open shadow model
for an acceptable fret is entered in the schedule with its version; FRESHET_DISCARD empties the spare buffers it
names and answers how many; MODEL_DRAIN marks the model DRAINING and, with nothing named or in reception, closes
its regions, unmaps its areas and answers the units. A drain whose timeout passes posts DRAIN_TIMEOUT.
(R435, R449, R455, R457, R458, R465, R467, R468, 11_weights_and_freshet.md). -/
def Obligations.ModelAndFreshetCommands : Prop :=
  (∀ (p : Packet) (s0 : State), dispatches p s0 = true →
    let s := taken p s0
    let h := bf p.p0 15 0
    (∀ (j : Job) (b : List Byte) (homes : List (Nat × Home)), s.job? p.job = some j →
      vread p.vi s p.p1.toNat p.p2.toNat = .ok b → imageRefusal b p.p2.toNat 1 = none → j.models.length < 256 →
      let shadow := p.p0.getLsbD 8
      let rs := (List.range (blk b 20 2)).map (regionOf b 0)
      let tier := tierRegions shadow (bf p.p4 63 32) rs
      let tab := 256 + 64 * (rs.length + bf p.p4 15 0)
      let head := cdiv (tab + checkBytes shadow rs) pageSize
      let kinds := areaKinds shadow tier head rs
      let hdr := leBytes 2 (freeHandle j) ++ leBytes 2 rs.length ++ leBytes 1 0 ++ leBytes 1 (b2n shadow)
        ++ leBytes 2 (bf p.p4 15 0) ++ leBytes 8 (blk b 8 8) ++ leBytes 4 (blk b 16 4) ++ leBytes 4 0xFFFFFFFF
        ++ leBytes 8 0 ++ leBytes 8 0 ++ leBytes 8 0
      s.areaFree p.vi p.p3.toNat kinds.length = true →
      s.areaHomes p.job (p.p3.toNat / pageSize) kinds = .ok homes → s.areaShort p.vi kinds.length 0 = 0 →
      let t := putRegions p.vi p.p3.toNat (blk b 16 4) shadow b rs 0 0 (p.p3.toNat + head * pageSize) (p.p3.toNat + tab)
        (vwrite p.vi p.p3.toNat hdr (mapArea p.vi p.job homes s))
      exec (.stowLoad p) s0
        = .next (postDone p (tier.length * 2 ^ 32 + freeHandle j) kinds.length (t.updJob p.job fun j => { j with
            models := j.models ++ [modelOf b (freeHandle j) p.p3.toNat kinds.length shadow rs tier] })))
    ∧ (∀ (m : Model) (v : Variant), s.nameModel p h = .ok m → m.variant? (bf p.p0 31 16) = some v →
      s.variantBusy p.vi p.job m v = false →
      exec (.adapterUnload p) s0 = .next (postDone p 0 0 (dropVariant p.vi p.job m v s)))
    ∧ (∀ (m : Model) (b : List Byte), s.nameModel p h = .ok m → vread p.vi s p.p1.toNat p.p2.toNat = .ok b →
      imageRefusal b p.p2.toNat 2 = none → m.variant? (bf p.p0 31 16) = none →
      blk b 8 8 = m.shapeId.toNat → blk b 20 2 ≤ s.rd p.vi (m.wbase + 6) 2 →
      let rs := variantRegions p b
      let area := variantArea m rs
      adapterBad rs = none → ∀ (first : Nat) (homes : List (Nat × Home)), variantPlace p rs m s = .ok (first, homes) →
      let t := tallyEntries p.vi m (s.rd p.vi (m.wbase + 2) 2 + rs.length) (s.rd p.vi (m.wbase + 6) 2 - rs.length)
        (putRegions p.vi m.wbase (blk b 16 4) m.shadow b rs 0 first (p.p3.toNat + area.2 * pageSize) p.p3.toNat
          (mapArea p.vi p.job homes s))
      let v : Variant := { num := bf p.p0 31 16, wbase := p.p3.toNat, units := area.1.length, first := first, count := rs.length
                           route := routeOf b (expertsOf m.pieces) }
      exec (.adapterLoad p) s0 = .next (postDone p first rs.length (t.updModel p.job m.handle fun m =>
        { m with variants := m.variants ++ [v], regions := placeRegions m.regions first rs })))
    ∧ (∀ m : Model, s.model? p.job h = some m → bf p.p1 31 0 ≠ 0xFFFFFFFF → m.flip = none → m.shadow = true →
      s.modelState p.vi m = 0 → schedRefusal p.p2.toNat s = none →
      let s1 := schedule .flip p.p2.toNat (some p.key) s
      let s2 := wr p.vi (m.wbase + 24) 8 p.p2.toNat (wr p.vi (m.wbase + 20) 4 (bf p.p1 31 0) s1)
      exec (.freshetFlip p) s0
        = .next ((s2.updModel p.job m.handle fun m => { m with flip := some p }).openCmd p (.flip p.job m.handle)))
    ∧ (∀ m : Model, s.nameModel p h = .ok m → m.flip = none →
      let hit := m.indices.filter fun i =>
        let st := ssOf (s.stw p.vi m i)
        st == 3 || st == 4 || (st == 2 && p.p0.getLsbD 24)
      exec (.freshetDiscard p) s0 = .next (postDone p hit.length 0
        (hit.foldl (fun s i => setSs p.vi m i 1 (setChecked p.job m.handle i noCheck s)) s)))
    ∧ ∀ m : Model, s.model? p.job h = some m → m.drain = none → p.p0.getLsbD 16 = false →
      let s1 := dropFlip p.vi p.job m (wr p.vi (m.wbase + 4) 1 1 s)
      let s2 := (s1.updModel p.job h fun m => { m with drain := some (p, s.ftu.count.toNat + bf p.p1 31 0) }).openCmd p
        (.drain p.job h)
      (s2.drainReady p h = false → exec (.modelDrain p) s0 = .next s2)
      ∧ ∀ m' : Model, s2.model? p.job h = some m' → s2.drainReady p h = true → s2.filling p.vi m' = [] → m'.variants = [] →
        exec (.modelDrain p) s0 = .next (postDone p m'.units 0
          ((unmapArea p.vi m'.wbase m'.units (m'.indices.foldl (fun s i => setSs p.vi m' i 6 s) s2)).updJob p.job fun j =>
            { j with models := j.models.filter fun x => x.handle != h })))
  ∧ ∀ (id h : Nat) (m : Model) (p : Packet) (last : Nat) (s : State), s.model? id h = some m → m.drain = some (p, last) →
    (s.ftu.count.toNat < last → exec (.drainTimeout id h) s = .next s)
    ∧ (last ≤ s.ftu.count.toNat → exec (.drainTimeout id h) s
      = .next (postErr p 0x060A (s.filling p.vi m).length (s.updModel id h fun m => { m with drain := none })))

/-- The flip decision, chunk checks, region drains and the host tier. FLIP_DECISION whose entry is due: when every
region serves the version already, DONE with the version; when every region is VERIFIED at it, every region is
released, the version is written and DONE counts the regions; else nothing is released and VERSION_HELD names how
many regions failed. A chunk that matches its checksum is counted and the last one makes the region VERIFIED; one
that does not makes it FAILED and is counted. REGION_DRAIN_END makes a DRAINING region that no former reader uses
empty. HOST_TIER_STREAM keeps the last three regions and counts their bytes.
(R446, R450, R451, R452, R454, R466, 11_weights_and_freshet.md). -/
def Obligations.FreshetEvents : Prop :=
  (∀ (id h : Nat) (m : Model) (p : Packet) (s s1 : State), s.model? id h = some m → m.flip = some p → p.job = id →
    takeDue .flip p.key s = some s1 →
    let v := bf p.p1 31 0
    let s2 := clearFlip p.vi id m s1
    let bad := m.live.filter fun i => !(s2.verifiedAt p.vi m v i)
    ((∀ i ∈ m.live, s2.ent p.vi m i 48 4 = v) → exec (.flipDecision id h) s = .next (postDone p v 0 s2))
    ∧ ((∃ i ∈ m.live, s2.ent p.vi m i 48 4 ≠ v) → bad = [] → exec (.flipDecision id h) s = .next
        (let s3 := m.live.foldl (releaseRegion p.vi v m) s2
         let s4 := wr p.vi (m.wbase + 32) 8 (s3.rd p.vi (m.wbase + 32) 8 + 1) (wr p.vi (m.wbase + 16) 4 v s3)
         postDone p v m.live.length { s4 with ctr := { s4.ctr with fshReleased := satAdd s4.ctr.fshReleased 1 } }))
    ∧ ((∃ i ∈ m.live, s2.ent p.vi m i 48 4 ≠ v) → bad ≠ [] → exec (.flipDecision id h) s = .next
        (let s3 := wr p.vi (m.wbase + 40) 8 (s2.rd p.vi (m.wbase + 40) 8 + 1) s2
         postFinal p 0x40 (if bad.any fun i => ssOf (s2.stw p.vi m i) == 4 then 0x0621 else 0x0620)
           (s2.modelVersion p.vi m) bad.length { s3 with ctr := { s3.ctr with fshHeld := satAdd s3.ctr.fshHeld 1 } })))
  ∧ (∀ (id h i : Nat) (j : Job) (m : Model) (r : Region) (s : State), s.job? id = some j → s.model? id h = some m →
    m.regions[i]? = some r →
    let n := j.vi
    let w := s.stw n m i
    let buf := s.ent n m i (if bn w 4 4 = 0 then 8 else 0) 8
    let good := (crc32c (s.peek n (buf + r.checked * 262144) (min 262144 (r.bytes - r.checked * 262144)))).toNat
      = s.rd n (s.ent n m i 40 8 + 4 * r.checked) 4
    let s1 := setChecked id h i (r.checked + 1) s
    let up := s.ctr.fshRest + 1
    let s2 := { s1 with ctr := { s1.ctr with
      fshReceived := satAdd s1.ctr.fshReceived (up / 64), fshRest := up % 64 } }
    ssOf w = 2 → r.checked < s.ent n m i 24 8 → r.checked < s.ent n m i 52 4 →
    (good → r.checked + 1 ≠ s.ent n m i 52 4 → exec (.freshetChunkCheck id h i) s = .next s2)
    ∧ (good → r.checked + 1 = s.ent n m i 52 4 →
        exec (.freshetChunkCheck id h i) s = .next (setSs n m i 3 (setChecked id h i noCheck s2)))
    ∧ (¬good → exec (.freshetChunkCheck id h i) s = .next (setSs n m i 4 { setChecked id h i noCheck s1 with
        ctr := { s1.ctr with fshFails := satAdd s1.ctr.fshFails 1 } })))
  ∧ (∀ (id h i : Nat) (j : Job) (m : Model) (s : State), s.job? id = some j → s.model? id h = some m →
    exec (.regionDrainEnd id h i) s = .next (if m.indices.contains i = true ∧ ssOf (s.stw j.vi m i) = 5
      ∧ s.formerReader id m (s.ent j.vi m i 48 4) = false then setSs j.vi m i 1 s else s))
  ∧ ∀ (id h i : Nat) (m : Model) (s : State), s.model? id h = some m → m.hostTier.contains i = true →
    let bytes := s.ctr.fshStreamRest + ((m.regions[i]?).map (·.bytes)).getD 0
    let kept := (m.streamed.filter (· != i)) ++ [i]
    let t := s.updModel id h fun m => { m with streamed := kept.drop (kept.length - 3) }
    exec (.hostTierStream id h i) s = .next { t with
      ctr := { t.ctr with fshStream := satAdd s.ctr.fshStream (bytes / 65536), fshStreamRest := bytes % 65536 } }

/-- TAKE, HOLD and DISCARD have their own effect. Dispatched and accepted: a TAKE whose set is mapped, whose slots
are found and whose parity frames (with PARITY) are reserved adds a checkpoint in state PENDING and stays open;
with FRET it is entered in the schedule, with FRET 0 and no protection the freeze takes place at once, else when
its peer has agreed. HOLD with enough oxbow frames reserves them and answers its ID, else posts CAPACITY with the
frames short. DISCARD of a checkpoint past its copy answers its frames and removes it; of a hold with no image in
reception it frees the slots. Of a running checkpoint, or an unknown one, it posts its reason and changes nothing.
(R588, R590, R591, R601, R604, R608, R609, 14_checkpoint_recovery.md). -/
def Obligations.CheckpointCommandsComplete : Prop :=
  ∀ (p : Packet) (s0 : State), dispatches p s0 = true →
    let s := taken p s0
    let prot := bf p.p0 9 8
    (∀ (j : Job) (b : List Byte) (t : State), prot ≠ 3 → bf p.p4 31 0 ≠ 0 → bf p.p4 31 0 ≤ 2 ^ 20 → p.p3.toNat % 64 = 0 →
      s.job? p.job = some j → (∀ c ∈ j.ckpts, 2 ≤ c.state) → vread p.vi s p.p3.toNat (128 * bf p.p4 31 0) = .ok b →
      let hdrs := hdrsOf b
      let pages := setPages p.vi hdrs s
      let d := dealSlots s ((j.doomed (p.p0.getLsbD 12) none).flatMap fun c => c.slots.map (·.2) ++ j.parityFrames c) pages.1 []
      let c := newCkpt p j hdrs d.1 s
      setUnmapped p.vi hdrs s = none → pages.2 = none → d.2 = 0 →
      ((prot ≠ 2 ∧ t = s) ∨ (prot = 2 ∧ ∃ (g : Group) (t1 : State), parityGroup p s = some g
        ∧ beginParity j.id c.group c.step g.rank g.size (takeFrames p) g.rank c.covered.length c.hdrs.length
            (s.updJob j.id fun j => { j with ckpts := j.ckpts ++ [c] }) = some t1
        ∧ t = t1.updJob j.id fun j => { j with ckpts := j.ckpts.filter fun x => x.id != c.id })) →
      let t2 := (t.updJob j.id fun j => { j with ckpts := j.ckpts ++ [c] }).openCmd p (.take j.id c.id)
      (p.p2 = 0 → prot = 0 → exec (.ckptTake p) s0 = .next (freezeCkpt j.id c.id t2))
      ∧ (p.p2 = 0 → prot ≠ 0 → exec (.ckptTake p) s0 = .next (pumpAll t2))
      ∧ (p.p2 ≠ 0 → schedRefusal p.p2.toNat s = none →
        exec (.ckptTake p) s0 = .next (pumpAll (schedule .ckpt p.p2.toNat (some p.key) t2))))
    ∧ ∀ j : Job, s.job? p.job = some j →
      (∀ l, s.oxbowFree (bf p.p5 31 0) = some l →
        let h : Hold := { id := lowestFree (j.holds.map (·.id)), peerModule := BitVec.ofNat 16 (bf p.p0 63 48)
                          peerJob := BitVec.ofNat 16 (bf p.p0 47 32), slots := l, imgs := [] }
        exec (.ckptHold p) s0 = .next (postDone p h.id 0 (s.updJob j.id fun j => { j with holds := j.holds ++ [h] })))
      ∧ (s.oxbowFree (bf p.p5 31 0) = none → exec (.ckptHold p) s0 = .next (postCap p 0x0802 (bf p.p5 31 0
          - ((List.range 32).map fun k => ((s.oxbowOf k).filter fun f => !(s.oxbowUsed k f)).length).sum) s))
      ∧ (let id := bf p.p1 7 0
         (p.p1.getLsbD 8 = false →
           (∀ c, j.ckpts.find? (fun c => c.id == id) = some c →
             (c.state < 2 → exec (.ckptDiscard p) s0 = .next (postErr p 0x0801 id s))
             ∧ (2 ≤ c.state → exec (.ckptDiscard p) s0 = .next (postDone p (j.framesUsed c) 0 (dropCkpt j.id id s))))
           ∧ ((∀ c ∈ j.ckpts, c.id ≠ id) → exec (.ckptDiscard p) s0 = .next (postErr p 0x0804 id s)))
         ∧ ∀ h, p.p1.getLsbD 8 = true → j.holds.find? (fun h => h.id == id) = some h →
             (∀ x ∈ h.imgs, x.complete = true) →
             exec (.ckptDiscard p) s0 = .next (postDone p h.slots.length 0 ((freeOxbow h.slots s).updJob j.id fun j =>
               { j with holds := j.holds.filter fun x => x.id != id })))

/-- READBACK, EXPORT, LIST, RESTORE, ROLLBACK and SHRINK have their own effect. Dispatched: READBACK of a COMPLETE,
VERIFIED or LOCAL checkpoint is opened and goes on as its reads allow; EXPORT of one writes its records in shard
order up to MAX; each of an unknown or unusable checkpoint posts CKPT_UNKNOWN. LIST writes one 32-byte entry for
each checkpoint and hold, up to MAX, and answers their number. RESTORE with a source and targets is opened and goes
on as its reads allow. ROLLBACK to a checkpoint whose set is mapped discards every newer one and runs when its
target is usable. SHRINK of a module in no group, toward which nothing is open and in no checkpoint's members
answers 0 groups. (R613, R614, R615, R616, R618, R622, R625, 14_checkpoint_recovery.md). -/
def Obligations.CheckpointReadsComplete : Prop :=
  ∀ (p : Packet) (s0 : State), dispatches p s0 = true →
    let s := taken p s0
    let id := bf p.p1 7 0
    (∀ c, s.ckpt? p.job id = some c → c.usable = true →
      exec (.ckptReadback p) s0 = .next (pumpAll (s.openCmd p (.readback p.job id [])))
      ∧ (∀ h rest, c.hdrs = h :: rest → bf p.p3 31 0 < 128 + cdiv (hdrBytes h) 64 * 64 →
          exec (.ckptExport p) s0 = .next (postDone p 0 0 s))
      ∧ (c.hdrs = [] → exec (.ckptExport p) s0 = .next (postDone p 0 0 s))
      ∧ ∀ h t, c.hdrs = [h] → 128 + cdiv (hdrBytes h) 64 * 64 ≤ bf p.p3 31 0 →
          let size := 128 + cdiv (hdrBytes h) 64 * 64
          let d := c.shardData s h
          vstore p p.p2.toNat (exportHdr h ++ d ++ List.replicate (size - 128 - d.length) 0) s = (t, none) →
          exec (.ckptExport p) s0 = .next (postDone p 1 size t))
    ∧ ((∀ c, s.ckpt? p.job id = some c → c.usable = false) →
      exec (.ckptReadback p) s0 = .next (postErr p 0x0804 id s) ∧ exec (.ckptExport p) s0 = .next (postErr p 0x0804 id s))
    ∧ (∀ (j : Job) (t : State), s.job? p.job = some j →
      let l := (j.ckpts.map (ckptEntry j) ++ j.holds.map holdEntry).take (bf p.p3 31 0 / 32)
      vstore p p.p2.toNat l.flatten s = (t, none) → exec (.ckptList p) s0 = .next (postDone p l.length 0 t))
    ∧ (1 ≤ bf p.p0 7 0 → bf p.p0 7 0 ≤ 4 → 1 ≤ bf p.p3 31 0 → bf p.p3 31 0 ≤ 2 ^ 20 →
      exec (.restore p) s0 = .next (pumpAll (s.openCmd p (.restore []))))
    ∧ (∀ (j : Job) (c : Ckpt), s.job? p.job = some j → rollbackTarget p j = some c → setUnmapped p.vi c.hdrs s = none →
      (p.p0.getLsbD 8 = false ∨ bf p.p2 31 0 ≠ 0xFFFFFFFF) →
      let newer := (j.ckpts.dropWhile fun x => x.id != c.id).tail
      exec (.rollback p) s0 = .next (settleRollbacks
        ((newer.foldl (fun s x => discardNewer j.id x s) s).openCmd p (.rollback j.id c.id))))
    ∧ (let m := bf p.p0 63 48
       (∀ g ∈ s.fab.groups, g.job = p.job → ∀ x ∈ g.members, x.1.toNat ≠ m) →
       (∀ o ∈ s.opens, o.pkt.job = p.job → ∀ a b c, o.prog = .remote a b c → (remoteTo o.pkt).1 ≠ m) →
       (∀ j, s.job? p.job = some j → ∀ c ∈ j.ckpts, ∀ x ∈ c.members, x.1.toNat ≠ m) →
       exec (.shrink p) s0 = .next (pumpAll (postDone p 0 0 s)))

/-- The freeze, region copies, held writes, the end of a checkpoint, and a group's time-out. CKPT_FREEZE whose
entry is due drops the older checkpoints, makes it COPYING and records the fret; one not due changes nothing of it.
A region copied by its engine in order lands in its slot and is counted; a failed read ends the TAKE with
DATA_ERROR; a copy-ahead lands the region and keeps the longest hold. CKPT_COMPLETE with all regions, headers and
transfers done makes it COMPLETE, drops the kept older one and posts DONE with its frames and frets, or makes it
LOCAL with PEER_LOST. GROUP_TIMEOUT past the limit ends the head's collective, when it has started, with
GROUP_TIMEOUT. After each, what was waiting goes on.
(R591, R593, R594, R597, R599, R606, R607, R560, 14_checkpoint_recovery.md). -/
def Obligations.CheckpointEvents : Prop :=
  (∀ (id k : Nat) (c : Ckpt) (s : State), s.ckpt? id k = some c →
    (takeDue .ckpt c.cmd s = none → exec (.ckptFreeze id k) s = .next (settleRollbacks (pumpAll s)))
    ∧ ∀ (s1 : State) (j : Job) (c1 : Ckpt), takeDue .ckpt c.cmd s = some s1 → s1.job? id = some j → s1.ckpt? id k = some c1 →
      let s2 := markPhase id 7 ((j.doomed c1.gen2 (some k)).foldl (fun s x => dropCkpt id x.id s) s1)
      exec (.ckptFreeze id k) s = .next (settleRollbacks (pumpAll
        (updCkpt id k (fun c => { c with state := 1, freeze := s1.ftu.count, todo := sortNat c.covered }) s2))))
  ∧ (∀ (id k r : Nat) (j : Job) (c : Ckpt) (s : State), s.job? id = some j → s.ckpt? id k = some c → c.state = 1 →
    let engine (r : Nat) : Option Block := (s.mapping c.vi (r * 65536)).map fun m => copyEngine m.now
    (c.todo.filter fun x => engine x == engine r).head? = some r →
    let s0 := markPhase id 7 s
    (s.badRegion c.vi r = none →
      let s1 := copyRegion c.vi (r / 32) (r % 32) s0 j c
      let n := s1.ctr.ckptCopiedRest + 1
      exec (.ckptRegionCopyDone id k r 0) s = .next (settleRollbacks (pumpAll (writeHeaders id k
        { s1 with ctr := { s1.ctr with
            ckptCopied := satAdd s1.ctr.ckptCopied (n / 32), ckptCopiedRest := n % 32 } }))))
    ∧ (∀ va, s.badRegion c.vi r = some (.parity va) →
      exec (.ckptRegionCopyDone id k r 1) s
        = .next (settleRollbacks (pumpAll (failTake id k 0x31 (r * 65536) 0 s0)))))
  ∧ (∀ (id k r ns : Nat) (j : Job) (c : Ckpt) (s : State), s.job? id = some j → s.ckpt? id k = some c → r ∈ c.todo →
    let s1 := copyAhead1 c.vi (r / 32) (r % 32) s j c
    exec (.ckptCopyAheadDone id k r ns) s = .next (settleRollbacks (pumpAll (writeHeaders id k
      { s1 with ctr := { s1.ctr with ckptStall := satMax s1.ctr.ckptStall ns } }))))
  ∧ (∀ (id k : Nat) (j : Job) (c : Ckpt) (p : Packet) (s : State),
    let s1 := writeHeaders id k s
    s1.job? id = some j → s1.ckpt? id k = some c → c.state = 1 → c.todo = [] → c.written.length = c.hdrs.length →
    (c.allSent = true ∨ c.lost ≠ none) →
    let s2 := updCkpt id k (fun c => { c with state := if c.lost.isSome then 5 else 2 }) s1
    let s3 := (j.ckpts.filter fun x => x.id != k && c.lost.isNone).foldl (fun s x => dropCkpt id x.id s) s2
    s3.takeOf id k = some p →
    exec (.ckptComplete id k) s = .next (settleRollbacks (pumpAll (match c.lost with
      | some m => postErr p 0x0806 m s3
      | none => postDone p (j.framesUsed c * 2 ^ 32 + k) (min (s.ftu.count - c.freeze).toNat 0xFFFFFFFF) s3))))
  ∧ ∀ (id num m : Nat) (g : Group) (p : Packet) (n op u : Nat) (st : Bool) (out recv : List (Nat × Nat × Nat)) (s : State),
    s.group? id num = some g → g.queue.head? = some p → s.open? p.key = some { pkt := p, prog := .coll n op st out recv u } →
    (st = false ∨ u = 0 ∨ s.ftu.count.toNat < u → (∀ o ∈ s.opens, ∀ i k, o.prog ≠ .take i k) → exec (.groupTimeout id num m) s = .next s)
    ∧ (st = true → u ≠ 0 → u ≤ s.ftu.count.toNat →
      let t := pumpAll (endColl p num op 0xFF 0x0713 m 0 s)
      (∀ o ∈ t.opens, ∀ i k, o.prog ≠ .take i k) → exec (.groupTimeout id num m) s = .next t)

/-- PUT, GET, ATOMIC, SIGNAL, KV_SHIP SEND and FRESHET_PUSH are opened and go on; claims are tried again.
Dispatched: a remote operation whose parameters a rule allows is opened with nothing done and advances as far as
its channel allows; a KV_SHIP SEND of a known pool and table, and a FRESHET_PUSH of regions of a known model with a
version other than 0xFFFFFFFF likewise, while an unknown pool posts POOL_UNKNOWN and the version 0xFFFFFFFF
VERSION_RESERVED. PUSH_CLAIM_RETRY makes a blocked claim read its state word again; FRESHET_BUSY after WAIT frets
stops the push with FRESHET_BUSY at its region, and before that changes nothing.
(R536, R543, R357, R443, R444, R445, R447, 13_fabric_collectives.md, notes/assumptions/15.md (one request at a time)). -/
def Obligations.RemoteCommandsComplete : Prop :=
  (∀ (p : Packet) (s0 : State), dispatches p s0 = true →
    let s := taken p s0
    (remoteBad p = false →
      let t := pump (s.openCmd p (.remote 0 0 false))
      exec (.put p) s0 = .next t ∧ exec (.get p) s0 = .next t ∧ exec (.atomic p) s0 = .next t
        ∧ exec (.signal p) s0 = .next t)
    ∧ (∀ q, s.pool? p.job (bf p.p0 63 48) = some q → bf p.p0 47 24 < s.kvTables p.vi q →
        exec (.kvShipSend p) s0 = .next (pump (s.openCmd p (.kvSend 9 0 0 [] []))))
    ∧ (s.pool? p.job (bf p.p0 63 48) = none →
        exec (.kvShipSend p) s0 = .next (pump (postErr p 0x0401 (bf p.p0 63 48) s)))
    ∧ ∀ m, s.nameModel p (bf p.p0 15 0) = .ok m → bf p.p0 47 32 ≠ 0 →
        bf p.p0 31 16 + bf p.p0 47 32 ≤ m.regions.length →
        (bf p.p1 31 0 ≠ 0xFFFFFFFF → exec (.freshetPush p) s0 = .next (pump (s.openCmd p (.push 10 0 0 0 0 0 0 []))))
        ∧ (bf p.p1 31 0 = 0xFFFFFFFF →
            exec (.freshetPush p) s0 = .next (pump (postErr p 0x0616 0xFFFFFFFF s))))
  ∧ ∀ (vi sq : Nat) (seq : Word) (p : Packet) (i off sent skipped fixed u : Nat) (got : List Byte) (s : State),
    viOk vi = true → s.open? { vi := vi, sq := sq, seq := seq }
      = some { pkt := p, prog := .push 7 i off sent skipped fixed u got } →
    exec (.pushClaimRetry vi sq seq) s = .next (pump (s.setProg p.key (.push 2 i 0 sent skipped fixed u got)))
    ∧ (s.ftu.count.toNat < u → exec (.freshetBusy vi sq seq) s = .next s)
    ∧ (u ≤ s.ftu.count.toNat →
        exec (.freshetBusy vi sq seq) s = .next (postErr p 0x0613 (bf p.p0 31 16 + i) s))

/-- What a remote operation does at its destination, and when it is denied. An operation toward an unknown job, of
another or no fabric domain, or on an address that no page of the job's VI maps, is denied with its reason and
changes nothing; so is an ATOMIC or SIGNAL at an address not a multiple of 8. Otherwise a PUT writes its bytes; a
GET answers the bytes and changes nothing; FETCH_ADD adds modulo 2^64, COMPARE_SWAP stores B where the word is A, a
SIGNAL adds its value, and each answers the former word. Beside memory bytes only the copy-ahead of a checkpoint,
its counter and the marks of bad bursts can change. (R538, R539, R540, R541, R546, R547, 13_fabric_collectives.md). -/
def Obligations.RemoteOperationEffect : Prop :=
  ∀ (id : Nat) (dom : Word) (r : Req) (s : State),
    (s.job? id = none → doReq id dom r s = (s, .deny 0x12 0x0701 (s.moduleId * 2 ^ 16 + id)))
    ∧ ∀ j : Job, s.job? id = some j →
      ((dom = 0 ∨ dom ≠ j.domain) → doReq id dom r s = (s, .deny 0x12 0x0702 (s.moduleId * 2 ^ 16 + id)))
      ∧ (dom ≠ 0 → dom = j.domain →
        (∀ a, s.firstUnmapped j.vi r.span.1 r.span.2 = some a → doReq id dom r s = (s, .deny 0x12 0x0703 a))
        ∧ (s.firstUnmapped j.vi r.span.1 r.span.2 = none →
          (∀ a d, r = .put a d → doReq id dom r s = (vwrite j.vi a d s, .ok []))
          ∧ (∀ a n to_ d, r = .get a n to_ → vread j.vi s a n = .ok d → doReq id dom r s = (s, .ok d))
          ∧ (∀ op a x y to_, r = .atomic op a x y to_ → a % 8 ≠ 0 → doReq id dom r s = (s, .deny 0xFF 0x0704 a))
          ∧ (∀ a v, r = .signal a v → a % 8 ≠ 0 → doReq id dom r s = (s, .deny 0xFF 0x0704 a))
          ∧ (∀ a x y to_ d, r = .atomic 1 a x y to_ → a % 8 = 0 → vread j.vi s a 8 = .ok d →
              doReq id dom r s = (vwrite j.vi a (leBytes 8 ((leNat d + x) % 2 ^ 64)) s, .ok d))
          ∧ (∀ a x y to_ d, r = .atomic 2 a x y to_ → a % 8 = 0 → vread j.vi s a 8 = .ok d →
              doReq id dom r s = (vwrite j.vi a (leBytes 8 (if leNat d = x then y else leNat d)) s, .ok d))
          ∧ ∀ a v d, r = .signal a v → a % 8 = 0 → vread j.vi s a 8 = .ok d →
              doReq id dom r s = (vwrite j.vi a (leBytes 8 (leNat d + v)) s, .ok d)))
      ∧ (let t := (doReq id dom r s).1
         t = { s with
           devMem := t.devMem, hostMem := t.hostMem, remMem := t.remMem, scr := t.scr, jobs := t.jobs, stks := t.stks
           ctr := { s.ctr with ckptAhead := t.ctr.ckptAhead } })

/-- Request chunks are held, applied once, in sequence, and answered; a copy or a gap has no effect. For a request
packet to this module. One whose page is in motion, or with an earlier one of its channel held, is held behind
those held before. Else a chunk in sequence, whole in one packet, with a matching CRC and an address in memory
takes effect, and the sender is answered: ACK for PUT, the bytes for GET, the former word for ATOMIC and SIGNAL, or
DENY with the status and reason of the check that fails. A packet that is not the last of its chunk is kept. The
last packet of an older PUT chunk is acknowledged without effect; one ahead of its sequence gets a NAK.
TRANSIT_FORWARD drops and counts at HOPS 15, and else forwards by the packet's route with HOPS raised.
(R490, R533, R534, R535, R538, R539, R540, R541, R547, R554, 13_fabric_collectives.md). -/
def Obligations.RequestPacketsArrive : Prop :=
  (∀ (p : FabPkt) (s : State), p.dst.toNat = s.moduleId →
    let q1 : FabPkt := { p with kind := 0x01 }
    let q2 : FabPkt := { p with kind := 0x02 }
    let q4 : FabPkt := { p with kind := 0x04 }
    let q6 : FabPkt := { p with kind := 0x06 }
    let free (q : FabPkt) : Prop := s.holdsPkt s.fab.heldPkts q = false
    let hold (q : FabPkt) : State := { s with fab := { s.fab with heldPkts := s.fab.heldPkts ++ [q] } }
    let code := chanCode p.dstJob.toNat (p.stream.toNat % 16)
    let c := s.rxOf p.src code
    let s1 := setRx { c with data := [], next := c.next + 1, fails := 0 } s
    (¬free q1 → exec (.putData p) s = .next (hold q1)) ∧ (¬free q2 → exec (.getReq p) s = .next (hold q2))
    ∧ (¬free q4 → exec (.atomicReq p) s = .next (hold q4)) ∧ (¬free q6 → exec (.signalPacket p) s = .next (hold q6))
    ∧ (p.first = true → p.last = true → p.chunkSeq = c.next → p.crc = crc32c p.data → p.addr.toNat < 2 ^ 63 →
      (let x := doReq p.dstJob.toNat p.domain (.put p.addr.toNat p.data) s1
       (free q1 → x.2 = .ok [] → exec (.putData p) s
          = .next (pumpAll (sendAck q1 (restartChecks p.dstJob.toNat p.addr.toNat p.data.length x.1))))
       ∧ ∀ st rs r0, free q1 → x.2 = .deny st rs r0 → exec (.putData p) s = .next (pumpAll (sendDeny q1 st rs r0 x.1)))
      ∧ (let x := doReq p.dstJob.toNat p.domain (reqOf 0x02 p.addr.toNat p.data) s1
         (∀ d, free q2 → x.2 = .ok d → exec (.getReq p) s
          = .next (pumpAll (sendAnswerPkt q2 0x03 (askerOf 0x02 p.data).1 (askerOf 0x02 p.data).2 d x.1)))
         ∧ ∀ st rs r0, free q2 → x.2 = .deny st rs r0 → exec (.getReq p) s = .next (pumpAll (sendDeny q2 st rs r0 x.1)))
      ∧ (let x := doReq p.dstJob.toNat p.domain (reqOf 0x04 p.addr.toNat p.data) s1
         (∀ d, free q4 → x.2 = .ok d → exec (.atomicReq p) s
          = .next (pumpAll (sendAnswerPkt q4 0x05 (askerOf 0x04 p.data).1 (askerOf 0x04 p.data).2 d x.1)))
         ∧ ∀ st rs r0, free q4 → x.2 = .deny st rs r0 → exec (.atomicReq p) s = .next (pumpAll (sendDeny q4 st rs r0 x.1)))
      ∧ (let x := doReq p.dstJob.toNat p.domain (reqOf 0x06 p.addr.toNat p.data) s1
         (∀ d, free q6 → x.2 = .ok d → exec (.signalPacket p) s
          = .next (pumpAll (sendAnswerPkt q6 0x05 (askerOf 0x06 p.data).1 0 d x.1)))
         ∧ ∀ st rs r0, free q6 → x.2 = .deny st rs r0 →
             exec (.signalPacket p) s = .next (pumpAll (sendDeny q6 st rs r0 x.1))))
    ∧ (free q1 → p.last = false → p.chunkSeq = c.next →
      exec (.putData p) s = .next (setRx { c with data := (if p.first then [] else c.data) ++ p.data } s))
    ∧ (free q1 → p.last = true → p.chunkSeq ≠ c.next → (p.chunkSeq - c.next).getLsbD 31 = true →
      exec (.putData p) s = .next (sendAck q1 s))
    ∧ (p.last = true → p.chunkSeq ≠ c.next → (p.chunkSeq - c.next).getLsbD 31 = false →
      (free q1 → exec (.putData p) s = .next (sendNak q1 2 s)) ∧ (free q2 → exec (.getReq p) s = .next (sendNak q2 2 s))
      ∧ (free q4 → exec (.atomicReq p) s = .next (sendNak q4 2 s))
      ∧ (free q6 → exec (.signalPacket p) s = .next (sendNak q6 2 s))))
  ∧ ∀ (port : Nat) (p : FabPkt) (s : State), port < 20 →
    (p.hops = 15 → exec (.transitForward port p) s
      = .next { s with fab := { s.fab with drops := satAdd s.fab.drops 1 } })
    ∧ (p.hops ≠ 15 → ∀ q, s.portFor { p with hops := p.hops + 1 } = some q → exec (.transitForward port p) s
      = .next (putPort q { p with hops := p.hops + 1 }
          { s with fab := { s.fab with forwarded := s.fab.forwarded ++ [(q, { p with hops := p.hops + 1 })] } }))

/-- Answers, ACK, NAK, DENY, retransmission and DEST_UNREACHABLE at the source of a request. A whole GET_DATA or
ATOMIC_RESP whose CRC matches and that names a kept request is acknowledged, the request is kept no more, and its
command takes the answer. ACK of a PUT chunk makes its command go on; an ACK, NAK or DENY that names no kept chunk
changes nothing; a NAK for sequence sends the chunk again; a DENY ends its command with the status and reason it
carries. CHUNK_RETRANSMIT_TIMEOUT sends a kept chunk again and counts it. DEST_UNREACHABLE ends a remote operation
with a chunk kept with DEST_UNREACHABLE and the bytes acknowledged, and one that an ABORT has stopped as the ABORT
ends it. (R534, R539, R540, R547, R550, 13_fabric_collectives.md). -/
def Obligations.AnswerPacketsArrive : Prop :=
  (∀ (p : FabPkt) (c : TxChunk) (o : OpenCmd) (s : State), p.dst.toNat = s.moduleId → p.first = true → p.last = true →
    p.crc = crc32c p.data →
    let code := 2 ^ 23 + chanCode p.dstJob.toNat (p.stream.toNat % 16)
    let s1 := setRx { s.rxOf p.src code with data := [], next := p.chunkSeq, fails := 0 } s
    let mine (k : Nat) (c : TxChunk) : Bool :=
      c.dst == p.src && c.chunk == p.chunkSeq && c.stream % 64 == p.stream.toNat % 16
        && (if k = 3 then c.kind == 2 else c.kind == 4 || c.kind == 6)
        && (match c.pkts with
            | q :: _ => decide (askerOf q.kind q.data = (p.dstJob.toNat, if c.kind = 6 then 0 else p.addr.toNat))
            | [] => false)
    let s3 := dropChunk c (sendAck { p with kind := 0x03 } s1)
    let s5 := dropChunk c (sendAck { p with kind := 0x05 } s1)
    (s.fab.unacked.find? (mine 3) = some c → c.cmd.bind s3.open? = some o →
      exec (.getData p) s = .next (pumpAll (answer o c.dst.toNat c.target.2 c.target.1 (.ok p.data) s3)))
    ∧ (s.fab.unacked.find? (mine 5) = some c → c.cmd.bind s5.open? = some o →
      exec (.atomicResp p) s = .next (pumpAll (answer o c.dst.toNat c.target.2 c.target.1 (.ok p.data) s5))))
  ∧ (∀ (p : FabPkt) (s : State), p.dst.toNat = s.moduleId → s.named p = none →
    exec (.ack p) s = .next s ∧ exec (.nak p) s = .next s ∧ exec (.deny p) s = .next s)
  ∧ (∀ (p : FabPkt) (c : TxChunk) (s : State), p.dst.toNat = s.moduleId → s.named p = some c →
    (p.data.getD 1 0 = 2 → exec (.nak p) s = .next (resend c s))
    ∧ (∀ o, c.kind = 1 → c.cmd.bind s.open? = some o → exec (.ack p) s
      = .next (pumpAll (answer o c.dst.toNat c.target.2 c.target.1 (.ok []) (dropChunk c s))))
    ∧ (∀ o a b, c.cmd.bind (dropChunk c s).open? = some o → o.prog = .remote a b false → exec (.deny p) s
      = .next (pumpAll (postFinal o.pkt (p.data.getD 1 0) (BitVec.ofNat 16 (blk p.data 2 2)) (blk p.data 4 8) 0
          (markWork o.pkt (dropChunk c s))))))
  ∧ (∀ (dst : Half) (st : Nat) (k : Word) (c : TxChunk) (s : State),
    s.fab.unacked.find? (fun c => c.dst == dst && c.stream == st && c.chunk == k) = some c →
    exec (.chunkRetransmitTimeout dst st k) s
      = .next (sendPkts c.pkts { s with fab := { s.fab with retx := satAdd s.fab.retx 1 } }))
  ∧ ∀ (vi sq : Nat) (seq : Word) (p : Packet) (n acked : Nat) (ab : Bool) (c : TxChunk) (s : State), viOk vi = true →
    let k : Key := { vi := vi, sq := sq, seq := seq }
    s.open? k = some { pkt := p, prog := .remote n acked ab } →
    s.fab.unacked.find? (fun c => c.cmd == some p.key) = some c →
    exec (.destUnreachable vi sq seq) s
      = .next (pumpAll (if ab then abortOpen p s else postErr p 0x0705 acked (dropWork k s)))

/-- SHIFT, PERMUTE, REDUCE_SHIFT and the group commands have their own effect. Dispatched: a collective of a known
group with parameters that the rules allow takes the group's next operation number, joins its queue with the chunks
of its partners, is entered in the schedule when it names a start fret, and the fabric work goes on; an unknown
group posts GROUP_UNKNOWN. DEFINE of a new group lists its members, rank, level, weight and timeout with operation
number 0; RELEASE of a group without commands frees it and completes; SET_DOMAIN gives the job its domain. A start
fret that is due lets the work go on; POOL_SLOT_GRANT takes the next request of a half, opens its slot when there
is none yet, and sends the grant. (R546, R557, R559, R561, R562, R563, R564, R565, R574, 13_fabric_collectives.md). -/
def Obligations.CollectiveCommandsComplete : Prop :=
  (∀ (p : Packet) (s0 : State), dispatches p s0 = true →
    let s := taken p s0
    let x := collOf p
    let num := bf p.p0 13 8
    (∀ g, s.group? p.job x.group = some g →
      (∀ o ∈ s.opens, o.pkt.job = p.job → o.prog ≠ .groupRelease x.group) → collBad x g = false →
      (x.start = 0 ∨ schedRefusal x.start s = none) →
      let t (table : List Nat) :=
        let r := x.partners g.size g.rank table
        let s1 := updGroup p.job g.num (fun g => { g with nextOp := g.nextOp + 1, queue := g.queue ++ [p] }) s
        let s2 := s1.openCmd p (.coll g.num g.nextOp false r.1 r.2 (untilFret g s))
        pumpAll (if x.start = 0 then s2 else schedule .coll x.start (some p.key) s2)
      (p.op = 0x0705 → exec (.shift p) s0 = .next (t []))
      ∧ (∀ l, p.op = 0x0706 → permTable p g s = .ok l → isPerm g.size l = true → exec (.permute p) s0 = .next (t l))
      ∧ (p.op = 0x0707 → bf p.p0 11 8 ≤ 1 → (g.level ≠ 2 ∨ x.wireFmt = 0x06 ∨ x.wireFmt = 0x07 ∨ x.wireFmt = 0x0D) →
        exec (.reduceShift p) s0 = .next (t [])))
    ∧ (s.group? p.job x.group = none → exec (.shift p) s0 = .next (postErr p 0x0711 x.group s)
      ∧ exec (.permute p) s0 = .next (postErr p 0x0711 x.group s)
      ∧ exec (.reduceShift p) s0 = .next (postErr p 0x0711 x.group s))
    ∧ (∀ b, bf p.p0 23 16 ≠ 0 → (bf p.p0 25 24 = 1 ∨ bf p.p0 25 24 = 2) → 2 ≤ bf p.p2 31 0 → bf p.p2 31 0 ≤ 65536 →
      bf p.p2 63 32 < bf p.p2 31 0 → vread p.vi s p.p1.toNat (4 * bf p.p2 31 0) = .ok b →
      let ms : List (Half × Half) := (List.range (bf p.p2 31 0)).map fun i =>
        (BitVec.ofNat 16 (blk b (4 * i) 2), BitVec.ofNat 16 (blk b (4 * i + 2) 2))
      let me := ms.getD (bf p.p2 63 32) (0, 0)
      s.fab.groups.length < 64 → s.group? p.job num = none → me.1.toNat = s.moduleId → me.2.toNat = p.job →
      (bf p.p0 25 24 = 1 → ∀ m ∈ ms, m.1.toNat / 1024 = s.moduleId / 1024) →
      let g : Group := { job := p.job, num := num, members := ms, rank := bf p.p2 63 32, level := bf p.p0 25 24
                         weight := bf p.p0 23 16, timeout := bf p.p3 31 0, nextOp := 0, queue := [] }
      exec (.groupDefine p) s0 = .next (postDone p 0 0 { s with fab := { s.fab with groups := s.fab.groups ++ [g] } }))
    ∧ (s.group? p.job num = none → exec (.groupRelease p) s0 = .next (postErr p 0x0711 num s))
    ∧ (∀ g, s.group? p.job num = some g → g.queue = [] → s.opens = [] →
      exec (.groupRelease p) s0 = .next (postDone p 0 0 (freeGroup p.job num (s.openCmd p (.groupRelease num)))))
    ∧ exec (.setDomain p) s0
        = .next (postDone p 0 0 (s.updJob p.job fun j => { j with domain := BitVec.ofNat 32 (bf p.p0 63 32) })))
  ∧ (∀ (vi sq : Nat) (seq : Word) (s : State), viOk vi = true →
    (∀ t, takeDue .coll { vi := vi, sq := sq, seq := seq } s = some t →
      exec (.collectiveStart vi sq seq) s = .next (pumpAll t))
    ∧ (takeDue .coll { vi := vi, sq := sq, seq := seq } s = none → exec (.collectiveStart vi sq seq) s = .next s))
  ∧ ∀ (half : Nat) (s : State), half < 2 →
    (nextGrant half s = none → exec (.poolSlotGrant half) s = .next s)
    ∧ ∀ (w : GrantWait) (s1 : State), nextGrant half s = some (w, s1) →
        let s2 := dropWait w s1
        let s3 := if (s2.slot? w.job w.group w.op w.chunk).isSome then s2 else openSlot w s2
        (s3.collAt w.job w.group w.op).isSome = true → exec (.poolSlotGrant half) s = .next (sendGrant w s3)

/-- Group packets: requests for slots, grants, data chunks, and those that do not fit. A group packet of an unknown
job or of another domain is denied. A GRANT_REQ of a reduction in progress, for a chunk not yet in, waits once for
its half's pool and the grants go on; for a chunk already in it is granted again. A GRANT that names a kept request
sends the reduction chunk. A COLL_DATA chunk whole in one packet, the next that the operation expects of its sender
and of the right length, is written to its place at DST, counted and acknowledged; one already in is only
acknowledged, one ahead gets a NAK. A RED_DATA contribution that is not the slot's last enters the slot and is
acknowledged. (R547, R559, R562, R570, R571, R573, 13_fabric_collectives.md). -/
def Obligations.GroupPacketsArrive : Prop :=
  ∀ (p : FabPkt) (s : State), p.dst.toNat = s.moduleId →
    let id := p.dstJob.toNat
    let num := p.stream.toNat % 64
    let op := bf p.addr 63 32
    let k := p.chunkSeq.toNat
    (∀ r : Half × Nat, groupDenied p s = some r → exec (.grantReq p) s
      = .next (sendDeny { p with kind := 0x10 } 0x12 r.1 r.2 s))
    ∧ (∀ (g : Group) (o : OpenCmd) (m n u total got : Nat) (st : Bool) (out recv : List (Nat × Nat × Nat)),
      groupDenied p s = none → s.group? id num = some g → s.collAt id num op = some o →
      o.prog = .coll n op st out recv u → senderOf g recv p.src k = some m → recv.find? (fun e => e.1 == m) = some (m, total, got) →
      (collOf o.pkt).kind = 2 → k < total →
      let w : GrantWait := { half := s.redHalf k, job := id, group := num, op := op, chunk := k, member := m, src := p.src }
      (k < got → exec (.grantReq p) s = .next (sendGrant w s))
      ∧ (got ≤ k → w ∈ s.fab.grantWaits → exec (.grantReq p) s = .next s)
      ∧ (got ≤ k → w ∉ s.fab.grantWaits → exec (.grantReq p) s
        = .next (pumpAll { s with fab := { s.fab with grantWaits := s.fab.grantWaits ++ [w] } })))
    ∧ (let hit (c : TxChunk) : Bool :=
        c.kind == 0x10 && c.dst == p.src && c.chunk == p.chunkSeq && c.stream % 64 == num
          && (match c.cmd.bind s.open? with | some o => o.pkt.job == id | none => false)
       (s.fab.unacked.find? hit = none → exec (.grant p) s = .next s)
       ∧ ∀ (c : TxChunk) (o : OpenCmd) (g : Group) (n n2 u : Nat) (st : Bool) (out recv : List (Nat × Nat × Nat))
          (d : List Byte) (s2 : State),
         s.fab.unacked.find? hit = some c → c.cmd.bind s.open? = some o → s.group? id num = some g →
         o.prog = .coll n n2 st out recv u →
         let x := collOf o.pkt
         let m := ((out.find? fun e =>
           let t := g.members.getD e.1 (0, 0)
           t.1 == c.dst && groupCode t.2.toNat num == c.stream).map (·.1)).getD 0
         let run := x.part g.size m
         redData o.pkt x run c.chunk.toNat (markPhase id 4
             ((dropChunk c s).setProg o.pkt.key (.coll num n2 st out recv (untilFret g s)))) = .ok (d, s2) →
         exec (.grant p) s = .next (sendGroup o.pkt g n2 m c.chunk.toNat 0x13 (x.chunkAt run c.chunk.toNat).1
           (perPacket x.wireFmt) d s2))
    ∧ ∀ (g : Group) (o : OpenCmd) (m n u total got : Nat) (st : Bool) (out recv : List (Nat × Nat × Nat)) (s2 : State),
      groupDenied p s = none → s.group? id num = some g → p.first = true → p.last = true → p.crc = crc32c p.data →
      let code := groupCode id num
      let s1 := setRx { s.rxOf p.src code with data := [], next := p.chunkSeq, fails := 0 } s
      s1.collAt id num op = some o → o.prog = .coll n op st out recv u → senderOf g recv p.src k = some m →
      recv.find? (fun e => e.1 == m) = some (m, total, got) → k < total →
      p.data.length = (collOf o.pkt).bytesOf g.size g.rank k →
      ((collOf o.pkt).kind < 2 →
        (k < got → exec (.collData p) s = .next (sendAck { p with kind := 0x12 } s1))
        ∧ (got < k → exec (.collData p) s = .next (sendNak { p with kind := 0x12 } 2 s1))
        ∧ (k = got → vstore o.pkt ((collOf o.pkt).dst + k * chunkMax) p.data (markPhase o.pkt.job 4 s1) = (s2, none) →
          exec (.collData p) s = .next (pumpAll (sendAck { p with kind := 0x12 } (countIn o g m s2)))))
      ∧ ((collOf o.pkt).kind = 2 →
        (k < got → exec (.redData p) s = .next (sendAck { p with kind := 0x13 } s1))
        ∧ (got < k → exec (.redData p) s = .next (sendNak { p with kind := 0x13 } 2 s1))
        ∧ ∀ t, k = got → s1.slot? o.pkt.job g.num op k = some t → t.from_.length + 1 < recv.length →
          let x := collOf o.pkt
          let t1 := addInto x x.wireFmt (x.chunkAt (x.part g.size g.rank) k).2 p.data { t with from_ := t.from_ ++ [m] }
          let s3 := markPhase o.pkt.job 4 s1
          exec (.redData p) s = .next (pumpAll (sendAck { p with kind := 0x13 } (countIn o g m
            { s3 with fab := { s3.fab with slots := s3.fab.slots.filter (· != t) ++ [t1] } }))))

/-- Flits, frames, training, failure, spares and cables of the ports. On a live native port a flit whose LCRC fails
(except a BEACON), or whose SEQ does not follow, is answered by a flit with NAK and nothing else happens; a flit of
an idle kind only acknowledges. On a live Ethernet port a frame that fails FCS or UDP checksum is dropped and
counted, one for this module is taken as its packet, another is discarded. PORT_TRAINED, PORT_FAILED,
SPARE_FAILOVER, SPARE_UNFIT, SPARE_FIT and CABLE_PRESENCE change the port states as their rules say, a failure and
a misfit raising their fault; where a condition fails they change nothing.
(R518, R519, R520, R523, R524, R528, R578, R580, R737, 13_fabric_collectives.md, 18_pins_power_electrical.md). -/
def Obligations.LinkEvents : Prop :=
  (∀ (q : Nat) (f : Flit) (s : State), q < 20 →
    ((s.port q).eth = true ∨ (s.port q).live = false → exec (.flitReceive q f) s = .next s)
    ∧ ((s.port q).eth = false → (s.port q).live = true →
      let nak : State := putLine q { kind := 0, sop := false, eop := false, seq := 0, ack := (s.port q).rxSeq, ackValid := true
                                     nak := true, credit := 0, payload := List.replicate 240 0, lcrc := 0 } s
      (lcrcOk f = false → f.kind ≠ 3 → exec (.flitReceive q f) s = .next nak)
      ∧ (lcrcOk f = false → f.kind = 3 → exec (.flitReceive q f) s = .next s)
      ∧ (lcrcOk f = true → (f.kind = 1 ∨ f.kind = 2) → f.seq ≠ (s.port q).rxSeq + 1 → exec (.flitReceive q f) s = .next nak)
      ∧ (lcrcOk f = true → (f.kind = 0 ∨ f.kind = 3) → exec (.flitReceive q f) s = .next (flitAck q f s))
      ∧ (lcrcOk f = true → f.kind = 2 → f.seq = (s.port q).rxSeq + 1 → exec (.flitReceive q f) s
          = .next (replyFlit q false 0 (flitAck q f (s.updPort q fun t => { t with rxSeq := f.seq }))))
      ∧ (lcrcOk f = true → f.kind = 1 → f.seq = (s.port q).rxSeq + 1 → exec (.flitReceive q f) s
          = .next (flitData q f (replyFlit q false 1 (flitAck q f (s.updPort q fun t => { t with rxSeq := f.seq })))))))
  ∧ (∀ (q : Nat) (fcs udp : Bool) (p : FabPkt) (s : State), q < 20 → (s.port q).eth = true → (s.port q).live = true →
    ((fcs && udp) = false → exec (.ethFrameReceive q fcs udp p) s
      = .next (s.updPort q fun t => { t with drops := satAdd t.drops 1 }))
    ∧ (p.dst.toNat = s.moduleId → exec (.ethFrameReceive q true true p) s = .next (takePacket p s))
    ∧ (p.dst.toNat ≠ s.moduleId → exec (.ethFrameReceive q true true p) s = .next s))
  ∧ (∀ (q : Nat) (peer : Half) (pp : BitVec 5) (delay : Half) (cause lane : Nat) (s : State), q < 20 →
    let t := s.port q
    ((t.state = 1 ∨ (t.state = 0 ∧ t.cable = true)) → exec (.portTrained q peer pp delay) s
      = .next (s.updPort q fun t => { clearLink t with peer := peer, peerPort := pp, delay := delay, lanes := 0xF
                                                       state := if t.wasFailed then 3 else 2 }))
    ∧ ((2 ≤ t.state ∨ (t.state = 0 ∧ t.cable = false)) → exec (.portTrained q peer pp delay) s = .next s)
    ∧ (t.live = true → exec (.portFailed q cause) s = .next (faultEvent1 (2046 + 2 * q) cause
        (s.updPort q fun t => { clearLink t with state := 3, standsFor := 0 })))
    ∧ (t.live = false → exec (.portFailed q cause) s = .next s)
    ∧ (lane < 4 → t.spare = true → t.state = 2 → t.unfit = false → exec (.spareUnfit q lane) s
        = .next (faultEvent1 (2046 + 2 * q + 1) lane (s.updPort q fun t => { t with unfit := true })))
    ∧ exec (.spareFit q) s = .next (s.updPort q fun t => { t with unfit := t.unfit && !(t.spare && t.state == 2) }))
  ∧ (∀ (f q : Nat) (ps : Bool) (s : State), f < 20 → q < 20 →
    (qualifies (s.port f) (s.port q) ps = true →
      (∀ k, k < 20 → (s.port k).state = 4 → (s.port k).standsFor.toNat ≠ f) →
      exec (.spareFailover f q ps) s = .next (s.updPort q fun t => { t with state := 4, standsFor := BitVec.ofNat 5 f }))
    ∧ (qualifies (s.port f) (s.port q) ps = false → exec (.spareFailover f q ps) s = .next s))
  ∧ ∀ (c : Nat) (here : Bool) (s : State), c < 5 → ∃ t, exec (.cablePresence c here) s = .next t
    ∧ t = { s with fab := t.fab } ∧ ∀ q, q < 20 →
      (q / 4 ≠ c → t.port q = s.port q)
      ∧ (q / 4 = c → t.port q = { s.port q with cable := here, state := if here = true ∧ (s.port q).state = 0 ∧ 6 ≤ s.boot.stage
          then 1 else if here = false ∧ (s.port q).state = 1 then 0 else (s.port q).state })

/-- LINK_PATTERN takes a port, STOP and the end of its time give it back. Dispatched, on a port below 20:
LINK_PATTERN on a spare, failed or down port takes it out of traffic into the pattern state until the fret now plus
DURATION, and stays open; on another port it posts PORT_IN_SERVICE. STOP ends a running pattern with free counts,
which it answers too; with no pattern running it posts DONE on such a port and PORT_IN_SERVICE on another (the
model's choice, notes/assumptions/116.md). LINK_PATTERN_END at or after the last fret sends the port to training
where its cable is mated, else to FAILED or DOWN, stores the lane counts, saturated at 255, and posts DONE with the
errors of the chosen lanes and the bits checked in units of 2^30; before that it changes nothing.
(R577, R578, R579, 13_fabric_collectives.md). -/
def Obligations.LinkPatternCommands : Prop :=
  (∀ (p : Packet) (s0 : State), dispatches p s0 = true →
    let s := taken p s0
    let q := bf p.p0 4 0
    q < 20 →
    (patternFree (s.port q) = true → exec (.linkPattern p) s0
      = .next ((s.updPort q fun t => { clearLink t with state := 5, wasFailed := t.wasFailed || t.state == 3, pattern := some p.key }).openCmd p
          (.linkPattern q (s.ftu.count.toNat + bf p.p1 31 0))))
    ∧ (patternFree (s.port q) = false → exec (.linkPattern p) s0 = .next (postErr p 0x0A30 q s))
    ∧ (s.patternOn q = none → exec (.linkPatternStop p) s0
      = .next (if patternFree (s.port q) then postDone p 0 0 s else postErr p 0x0A30 q s))
    ∧ ∀ o, s.patternOn q = some o →
        let v (i : Nat) : Nat := (Config.freeVal (s.fresh + i)).toNat
        let e (l : Nat) : Nat := if o.pkt.p0.getLsbD (8 + l) then v l else 0
        exec (.linkPatternStop p) s0 = .next (postDone p (e 0 + e 1 + e 2 + e 3) (v 4 / 2 ^ 30)
          (endPattern o q [v 0, v 1, v 2, v 3] (v 4) { s with fresh := s.fresh + 5 })))
  ∧ ∀ (q : Nat) (errs : List Nat) (bits u k : Nat) (p : Packet) (s : State), q < 20 →
    (s.patternOn q = none → exec (.linkPatternEnd q errs bits) s = .next s)
    ∧ (s.patternOn q = some { pkt := p, prog := .linkPattern k u } →
      let e (l : Nat) : Nat := if p.p0.getLsbD (8 + l) then errs.getD l 0 else 0
      (s.ftu.count.toNat < u → exec (.linkPatternEnd q errs bits) s = .next s)
      ∧ (u ≤ s.ftu.count.toNat → exec (.linkPatternEnd q errs bits) s
        = .next (postDone p (e 0 + e 1 + e 2 + e 3) (bits / 2 ^ 30) (s.updPort q fun t =>
            { t with state := if t.cable then 1 else if t.wasFailed then 3 else 0, pattern := none, pat0 := BitVec.ofNat 8 (min 255 (e 0)), pat1 := BitVec.ofNat 8 (min 255 (e 1))
                     pat2 := BitVec.ofNat 8 (min 255 (e 2)), pat3 := BitVec.ofNat 8 (min 255 (e 3)) }))))

/-- JOB_CREATE, JOB_START, JOB_PREEMPT, JOB_END and ADMISSION_CLASS have their own effect. Dispatched and accepted:
CREATE with quota, room and frames adds the job at the lowest free ID, not started, with its context frames. START
of a job not started or SUSPENDED: with the module and queue free it switches in, behind a queue or a holder that
its class does not pre-empt it is queued, and one that pre-empts takes the head of its class and asks the holder
for its capo point; in another state it posts its state. PREEMPT of a running job asks for its capo point and stays
open; of a SUSPENDED one it posts DONE. END with nothing earlier open ends its JOB_START with JOB_ENDED, removes
the job and answers the frames released. SET_VI stores the quota, SET_MODE of the mode in force changes nothing,
QUERY answers the quota. With SAVE the setting is journalled; in a locked group it is refused.
(R630, R632, R635, R636, R637, R642, R648, R649, R657, 15_job_scheduling.md). -/
def Obligations.JobCommandsComplete : Prop :=
  ∀ (p : Packet) (s0 : State), dispatches p s0 = true →
    let s := taken p s0
    (let mine := (s.jobs.filter fun j => j.vi == p.vi).length
     p.p0.toNat % pageSize = 0 → (s.quota p.vi).cls ≠ 0 → mine < (s.quota p.vi).jobs → s.jobs.length < 1024 →
     s.resident < 256 → s.ctxShort p.vi s.ctxSize = 0 →
     exec (.jobCreate p) s0 = .next (postDone p s.freeJobId s.ctxSize
       { s with jobs := s.jobs ++ [newJob s.freeJobId p.vi p.p0.toNat (s.pickFrames (List.range 32) s.ctxSize)] }))
    ∧ (s.job? p.job = none → exec (.jobStart p) s0 = .next (postErr p 0x0907 p.job s))
    ∧ (∀ j : Job, s.job? p.job = some j →
      (j.state ≠ 0 → j.state ≠ 5 → exec (.jobStart p) s0 = .next (postErr p 0x0906 j.state s))
      ∧ ((j.state = 0 ∨ j.state = 5) → (s.quota j.vi).cls ≠ 0 → backfillBusy (s.quota j.vi).cls s = false → s.sched.stepMode = false →
        let s2 := ((firstStart j.id s).openCmd p .jobStart).updJob j.id fun j =>
          { j with start := some p, deferred := none, preempt := 0, cls := (s.quota j.vi).cls }
        (s2.holding = none → s2.sched.queue = [] → exec (.jobStart p) s0 = .next (startSwitch j.id s2))
        ∧ (s2.holding = none → s2.sched.queue ≠ [] → exec (.jobStart p) s0 = .next (enqueueTail j.id s2))
        ∧ (∀ h, s2.holding = some h → (s2.clsOf j.id ≠ 1 ∨ s2.clsOf h = 1) → (s2.clsOf j.id ≠ 2 ∨ s2.clsOf h ≠ 3) →
          exec (.jobStart p) s0 = .next (enqueueTail j.id s2))
        ∧ (∀ h, s2.holding = some h → (s2.clsOf j.id = 1 ∧ s2.clsOf h ≠ 1 ∨ s2.clsOf j.id = 2 ∧ s2.clsOf h = 3) →
          s2.preempting h = false → exec (.jobStart p) s0 = .next (preempt h 1 j.id (enqueue j.id true s2))))
      ∧ (p.job ≠ 0xFFFF →
        (j.state = 3 → j.preempt = 0 → exec (.jobPreempt p) s0
          = .next ((preempt p.job 2 0xFFFF s).openCmd p (.jobPreempt p.job (p.p0.getLsbD 16))))
        ∧ (j.state = 5 → p.p0.getLsbD 16 = false → exec (.jobPreempt p) s0 = .next (postDone p 0 0 s)))
      ∧ (p.p0.getLsbD 0 = false → j.cmdList = [] → (∀ o ∈ s.opens, o.pkt.job = p.job → o.prog = .jobStart) →
        let s1 := abortPackets j.id p.key s
        let s2 := match j.start with
          | some q => postFinal q 0x00 0x0914 (s.fretsHeld j) 0 s1
          | none => s1
        let t := releaseJob j.id s2
        exec (.jobEnd p) s0 = .next (motionEnds (fetchAll (postDone p (s.framesOf j) 0 (endPreempts j.id t))))
          ∧ ∀ x ∈ t.jobs, x.id ≠ p.job))
    ∧ (let n := bf p.p0 28 16
       let q : Quota := { cls := bf p.p0 9 8, pages := bf p.p1 23 0, jobs := bf p.p2 10 0 }
       n ≤ 4096 → q.pages ≤ 8388608 → q.jobs ≤ 1024 →
       (p.p0.getLsbD 60 = false → exec (.admissionSetVi p) s0 = .next (postDone p 0 0 { s with quotas := tset s.quotas n q }))
       ∧ (p.p0.getLsbD 60 = true → s.groupLocked 3 = false → exec (.admissionSetVi p) s0 = .next (postDone p 0 0
           (journal 3 n (leBytes 4 q.cls ++ leBytes 4 q.pages ++ leBytes 4 q.jobs) { s with quotas := tset s.quotas n q })))
       ∧ (p.p0.getLsbD 60 = true → s.groupLocked 3 = true →
           exec (.admissionSetVi p) s0 = .next (postFinal p 0xFF 0x0F4B 3 0 s)
           ∧ exec (.admissionSetMode p) s0 = .next (postFinal p 0xFF 0x0F4B 3 0 s))
       ∧ exec (.admissionQuery p) s0 = .next (postDone p ((s.quota n).jobs * 2 ^ 32 + (s.quota n).cls * 2 ^ 8)
           (s.quota n).pages s))
    ∧ (p.p0.getLsbD 60 = false →
      exec (.admissionSetMode p) s0 = .next (postDone p 0 0 (setMode (p.p0.getLsbD 8) s))
      ∧ (p.p0.getLsbD 8 = false → s.sched.stepMode = false → exec (.admissionSetMode p) s0 = .next (postDone p 0 0 s)))

/-- The end of a switch, an eviction, a STEP turn, and packets behind a BARRIER. JOB_SWITCH_END with no switch in
progress changes nothing; with an incoming job whose context can come back and whose command list is empty, that
job holds the module, RUNNING, the switch is over and counted, and fetching goes on; without one the next job
starts to switch in. JOB_EVICTION_END of a SUSPENDED job that a JOB_PREEMPT waits on evicts its context and
completes it. STEP_MODE_TURN changes nothing out of STEP mode, during a switch or a turn; else, when the job whose
turn comes is another than the holder, it asks the cores for a capo point, at which the holder leaves and that job
switches in; with no holder it switches in at once. BARRIER_DISPATCH dispatches the one waiting packet of an SQ
when nothing holds it, and leaves held ones.
(R634, R643, R644, R647, R648, R777, 15_job_scheduling.md, 02_command_protocol.md). -/
def Obligations.SwitchEvents : Prop :=
  (∀ (us : Nat) (s : State), s.sched.switching = false → exec (.jobSwitchEnd us) s = .next s)
  ∧ (∀ (us id : Nat) (j : Job) (s s2 : State), s.sched.switching = true →
    let s1 := switchOut us s
    s1.sched.incoming = some id → s1.job? id = some j → switchIn id us s1 = some s2 →
    (∀ x, s2.job? id = some x → x.cmdList = []) →
    exec (.jobSwitchEnd us) s = .next (fetchAll s2) ∧ s2.sched.holder = some id ∧ s2.sched.incoming = none
      ∧ s2.sched.switching = false ∧ (∀ x, s2.job? id = some x → x.state = 3)
      ∧ s2.ctr.jobSwitches = satAdd s1.ctr.jobSwitches 1)
  ∧ (∀ (us : Nat) (s : State), s.sched.switching = true →
    let s1 := switchOut us s
    s1.sched.incoming = none → exec (.jobSwitchEnd us) s
      = .next (startNext s1.turnOrder { clearCapo s1 with sched := { s1.sched with switching := false } }))
  ∧ (∀ (id : Nat) (j : Job) (s : State), s.job? id = some j →
    ((∀ o ∈ s.opens, o.prog ≠ .jobPreempt id true) → exec (.jobEvictionEnd id) s = .next s)
    ∧ ∀ o, s.opens.filter (fun o => o.prog == .jobPreempt id true) = [o] → j.state = 5 → j.evicted = false → j.ctxHost ≠ 0 →
        exec (.jobEvictionEnd id) s = .next (postDone o.pkt j.capoFret.toNat 0 (evictJob id s)))
  ∧ (∀ s : State,
    ((s.sched.stepMode = false ∨ s.sched.switching = true ∨ s.sched.stepSwitch = true ∨ s.midTurn = true) →
      exec .stepModeTurn s = .next s)
    ∧ (s.sched.stepMode = true → s.sched.switching = false → s.sched.stepSwitch = false → s.midTurn = false →
      s.sched.toJobMode = false →
      let s1 : State := { s with sched := { s.sched with turnTaken := false } }
      (s.nextTurn = none → exec .stepModeTurn s = .next s1)
      ∧ ∀ id, s.nextTurn = some id →
        (s.sched.holder = some id → exec .stepModeTurn s = .next s1)
        ∧ (s.sched.holder = none → exec .stepModeTurn s = .next (startSwitch id s1))
        ∧ ∀ h, s.sched.holder = some h → h ≠ id →
          exec .stepModeTurn s = .next (requestCapo { s with sched := { s.sched with stepSwitch := true } })
            ∧ turnCapo { s with sched := { s.sched with stepSwitch := true } }
              = startSwitch id (s1.updJob h fun j => { j with state := 4 })))
  ∧ ∀ (vi sq : Nat) (p : Packet) (s : State), viOk vi = true → sq < 8 → ((s.vi vi).sq sq).waiting.head? = some p →
    (((p.barrier = true ∧ earlierOpen p s = true) ∨ fenceHolds p s = true) → exec (.barrierDispatch vi sq) s = .next s)
    ∧ (((s.vi vi).sq sq).waiting = [p] → (p.barrier = false ∨ earlierOpen p s = false) → fenceHolds p s = false →
      (∀ j, s.job? p.job = some j → j.state = 3 ∨ jobFree p = true) →
      exec (.barrierDispatch vi sq) s = .next (runEffect p (s.updSq vi sq fun u => { u with waiting := [] })))

/-- ABORT of a packet or of a job ends held packets at once and stops what runs. Dispatched: an ABORT of a packet
that is neither held nor in progress posts DONE_BEFORE_ABORT with its SEQ; of a packet held it ends that packet
with ABORTED and then completes; of a command in progress it is opened with that target, stops it as its kind
stops, and goes on. An ABORT of a job ends all held packets of the job and stops all of its commands in progress
but its JOB_START. (R650, R651, R653, R780, 15_job_scheduling.md). -/
def Obligations.AbortCommandsComplete : Prop :=
  ∀ (p : Packet) (s0 : State), dispatches p s0 = true →
    let s := taken p s0
    let mine (q : Packet) : Bool :=
      q.vi == p.vi && q.sq == bf p.p0 10 8 && q.seq.toNat == bf p.p1 31 0 && q.jobId == p.jobId && q.key != p.key
    let all (q : Packet) : Bool := q.vi == p.vi && q.jobId == p.jobId && q.key != p.key
    ((s.heldOf p.job).find? mine = none → s.opens.find? (fun o => mine o.pkt) = none →
      exec (.abortPacket p) s0 = .next (postFinal p 0x01 0x0000 (bf p.p1 31 0) 0 s))
    ∧ (∀ q, (s.heldOf p.job).find? mine = some q → exec (.abortPacket p) s0
        = .next (fetchAll (pumpAll (settleAborts ((postFinal q 0x02 0x0000 0 0 (unhold q s)).openCmd p (.abort [] 1))))))
    ∧ (∀ o x, (s.heldOf p.job).find? mine = none → s.opens.find? (fun o => mine o.pkt) = some o →
        let s1 := s.openCmd p (.abort [o.pkt.key] 0)
        s1.open? o.pkt.key = some x → exec (.abortPacket p) s0 = .next (fetchAll (pumpAll (settleAborts (stopOpen x s1)))))
    ∧ (let held := (s.heldOf p.job).filter all
       let running := s.opens.filter fun o => all o.pkt && o.prog != .jobStart
       let s1 := held.foldl (fun s q => postFinal q 0x02 0x0000 0 0 (unhold q s)) s
       let s2 := s1.openCmd p (.abort (running.map fun o => o.pkt.key) held.length)
       exec (.abortJob p) s0 = .next (fetchAll (pumpAll (settleAborts (running.foldl (fun s o =>
         match s.open? o.pkt.key with | some x => stopOpen x s | none => s) s2)))))

/-- SELFTEST commands, test slots and slices. Dispatched: CORE of an active die's core with no test pending begins
at once or is entered in the schedule, and stays open; with one pending it posts CAPACITY, of another core
CORE_INVALID. SLICED sets the interval (0 means 1,000), STOP ends it, ROTATION pauses or resumes.
SELFTEST_SLOT_START with nothing due and the rotation off, paused or not at its fret changes nothing, and at its
fret puts the rotation's core under test. A slot's end with no slot in progress, or before the target's work has
moved, changes nothing; else the test is judged, counted when it passes, and the standby's work asked back at its
capo point. SLICE_START owes a slice on the cores concerned and asks them for a capo point; a slice counts, and the
thousandth judges the test. (R684, R685, R686, R687, R689, R690, 16_faults_safety.md). -/
def Obligations.SelftestCommands : Prop :=
  (∀ (p : Packet) (s0 : State), dispatches p s0 = true →
    let s := taken p s0
    let d := bf p.p0 20 16
    let c := bf p.p0 12 8
    d < 18 →
    (c < 17 → ((s.die d).role ≠ 1 ∨ 1 < s.role d c) →
      exec (.selftestCore p) s0 = .next (postErr p 0x0A01 (d * 256 + c) s))
    ∧ (c < 17 → (s.die d).role = 1 → s.role d c ≤ 1 →
      (∀ k c', (s.die d).coreTest = some (k, c') →
        exec (.selftestCore p) s0 = .next (postCap p 0x0A02 (d * 256 + c') s))
      ∧ ((s.die d).coreTest = none → (s.die d).coreTestWaits = none →
        (p.p1 = 0 → exec (.selftestCore p) s0 = .next (beginCoreTest d p.key c (s.openCmd p (.selftest d c))))
        ∧ (p.p1 ≠ 0 → schedRefusal p.p1.toNat s = none → exec (.selftestCore p) s0
          = .next ((schedule .selftest p.p1.toNat (some p.key) (s.openCmd p (.selftest d c))).updDie d fun x =>
              { x with coreTestWaits := some (p.key, c) }))))
    ∧ (let us := if bf p.p2 31 0 = 0 then 1000 else bf p.p2 31 0
       1000 ≤ us → us ≤ 1000000 → exec (.selftestSliced p) s0
        = .next (postDone p 0 0 ((List.range 17).foldl (fun s c => s.updCore d c fun k => { k with slices := 0 })
            (s.updDie d fun x => { x with sliced := true, interval := us }))))
    ∧ exec (.selftestStop p) s0
        = .next (postDone p 0 0 ((List.range 17).foldl (fun s c => s.updCore d c fun k => { k with sliceDue := false })
            (s.updDie d fun x => { x with sliced := false })))
    ∧ exec (.selftestRotation p) s0 = .next (postDone p 0 0 (s.updDie d fun x => { x with paused := !p.p0.getLsbD 24 })))
  ∧ ∀ (d : Nat) (s : State), d < 18 →
    ((s.die d).coreTestWaits = none → (s.die d).coreTest = none →
      (((s.die d).rotate = false ∨ (s.die d).paused = true ∨ s.ftu.count.toNat % s.slotFrets ≠ 0 ∨ s.ready = false) →
        exec (.selftestSlotStart d) s = .next s)
      ∧ ∀ c, (s.die d).rotate = true → (s.die d).paused = false → s.ftu.count.toNat % s.slotFrets = 0 → s.ready = true →
        (s.die d).role = 1 → (s.die d).standbyFree = true → s.inSlot d = false → s.rotationCore d = some c →
        exec (.selftestSlotStart d) s = .next (let t := s.updDie d fun x => { x with testing := BitVec.ofNat 5 c }
          if c = (s.die d).standby then t else askCapo [(d, c)] t))
    ∧ (∀ u us, (s.inSlot d = false ∨ s.standsForGood d = true) → exec (.selftestSlotEnd d u us) s = .next s)
    ∧ (let x := s.die d
       let c := x.testing.toNat
       let t := s.updDie d fun x => { x with testing := 0x1F }
       s.inSlot d = true → s.standsForGood d = false →
       (∀ u us, x.testing ≠ 0x1F → c ≠ x.standby → x.standFor = 0x1F → exec (.selftestSlotEnd d u us) s = .next s)
       ∧ (∀ u us, x.testing ≠ 0x1F → (c = x.standby ∨ x.standFor ≠ 0x1F) → exec (.selftestSlotEnd d u us) s
         = .next (let t := judgeTest d c u us t
                  if t.standsForGood d || x.standFor = 0x1F then t else askCapo [(d, x.standby)] t))
       ∧ ∀ u us, x.testing = 0x1F → t.standsForGood d = false →
         exec (.selftestSlotEnd d u us) s = .next (askCapo [(d, x.standby)] t))
    ∧ (∀ c us, (s.die d).coreTest = none → judgeTest d c 0 us s = s.updDie d fun x =>
        { x with tstSlots := satAdd x.tstSlots 1, tstFailed := satAdd x.tstFailed 0 })
    ∧ (let cs := (s.sliceCores d).filter fun c => !(s.core d c).inSlice
       exec (.sliceStart d) s = .next (askCapo (cs.map fun c => (d, c))
         (cs.foldl (fun s c => s.updCore d c fun k => { k with sliceDue := true }) s)))
    ∧ ∀ c u us, c < 17 →
      ((s.core d c).inSlice = false → exec (.sliceEnd d c u us) s = .next s)
      ∧ ((s.core d c).inSlice = true → (s.core d c).slices < 999 → exec (.sliceEnd d c u us) s
        = .next (s.updCore d c fun k => { k with inSlice := false, slices := (s.core d c).slices + 1 }))
      ∧ ((s.core d c).inSlice = true → (s.core d c).slices = 999 → exec (.sliceEnd d c u us) s
        = .next (judgeTest d c u us (s.updCore d c fun k => { k with inSlice := false, slices := 0 })))

/-- Fault events are counted and judged; watchdogs, stalls and PCIe errors are events of their units. Zero events
change nothing, and none counts once a chip reset is decided. Else the unit's EVENT is set, its total rises,
saturating, and its window count and last fret are kept; below the threshold with an empty minor mask nothing else
happens, at the threshold SEVERE is set, the window closes and the severe mask acts. HBM and hub events also count
in their block's registers. CORE_WDOG of a watched unit, TRIB_WDOG, HW_FAULT of the active pair, HUB_ENGINE_STALL
and PCIE_AER_ERROR each raise one event of their unit; a watchdog with nothing to watch, or the other pair, changes
nothing. FAULT_WINDOW_CLOSE empties an ended window.
(R513, R666, R667, R668, R673, R678, R691, R692, R693, 16_faults_safety.md). -/
def Obligations.FaultEventsCount : Prop :=
  (∀ (u : Nat) (info : Word) (a : Option Access) (s : State), u < 2100 → exec (.faultEvent u 0 info a) s = .next s)
  ∧ (∀ (u n : Nat) (info : Word) (s : State), u < 2100 → n ≠ 0 →
    [3, 8, 10, 11, 12, 14, 15, 20].contains (unitKind u) = false →
    let f := s.fault u
    let cfg := unitCfg u f
    let left := if f.left = 0 then (if cfg.2.1 = 0 then 2 ^ 24 else cfg.2.1) else f.left
    let count := (if f.left = 0 then 0 else f.window.toNat) + n
    (s.boot.resetDecided = true → exec (.faultEvent u n info none) s = .next s)
    ∧ (s.boot.resetDecided = false → count < cfg.1 → cfg.2.2.2.1 = 0 → exec (.faultEvent u n info none) s
      = .next (s.updFault u fun f => { f with
          event := true, lastFret := BitVec.ofNat 24 s.ftu.count.toNat, total := satAdd f.total n,
          window := BitVec.ofNat 8 count, left := left }))
    ∧ (s.boot.resetDecided = false → cfg.1 ≤ count → exec (.faultEvent u n info none) s
      = .next (applyMask u cfg.2.2.1 info.toNat cfg.2.2.2.2 true (s.updFault u fun f => { f with
          event := true, severe := true, lastFret := BitVec.ofNat 24 s.ftu.count.toNat, total := satAdd f.total n,
          window := 0, left := 0 }))))
  ∧ (∀ (k n : Nat) (info : Word) (s : State), k < 32 → n ≠ 0 →
    (exec (.faultEvent (1950 + 3 * k) n info none) s
      = .next (faultEvents (1950 + 3 * k) n info.toNat (s.updStk k fun t => { t with ce := satAdd t.ce n })))
    ∧ (info.getLsbD 30 = true → exec (.faultEvent (1951 + 3 * k) n info none) s
      = .next (faultEvents (1951 + 3 * k) n info.toNat (s.updStk k fun t =>
          let b := (bw info 29 15, bw info 14 0)
          { t with ueScrub := satAdd t.ueScrub n, lastErr := info
                   ueBursts := if t.ueBursts.contains b then t.ueBursts else t.ueBursts ++ [b] }))))
  ∧ (∀ (u : Nat) (s : State), u < 2100 →
    ((s.fault u).left = 0 → exec (.faultWindowClose u) s = .next (s.updFault u fun f => { f with window := 0 }))
    ∧ ((s.fault u).left ≠ 0 → exec (.faultWindowClose u) s = .next s))
  ∧ ∀ s : State,
    (∀ d c u, isCore d c = true →
      (s.watched d c u = true → exec (.coreWdog d c u) s = .next (faultEvents (6 * coreIx d c + 4) 1 u s))
      ∧ (s.watched d c u = false → exec (.coreWdog d c u) s = .next s))
    ∧ (∀ d c, d < 18 → c < 4 → exec (.tribWdog d c) s = .next (faultEvents (1836 + 5 * d) 1 c s))
    ∧ (∀ x, x < 2 → exec (.hwFault x) s = .next (if b2n s.boot.pair = x then faultEvents 2096 1 x s else s))
    ∧ (∀ h e, h < 8 → e < 2 → exec (.hubEngineStall h e) s = .next (faultEvents (1928 + 3 * h) 1 e s))
    ∧ ∀ w : Word, exec (.pcieAerError w) s = .next (faultEvents 2095 1 w.toNat s)

/-- Notice ring registers, FLT_STAT, FAULT_POLICY and the programming of event records. FLT_NTC_CFG keeps its size
while enabled, enables only with a legal size and then zeroes head and tail; FLT_NTC_HEAD stores the head.
FLT_STAT_CLEAR clears SEVERE and EVENT where 1 is written and releases ERR_N with both clear. FAULT_POLICY on a
range inside the units changes their configuration and closes their windows, answering COUNT, DEFAULTS with SAVE
journalling each or refused in a locked group; a range past unit 2,099, COUNT 0, or SET with N 0 posts
RANGE_INVALID. EVENT_RECORD_PROGRAM moves the oldest waiting record to the flash at the next index, EVREC_FULL at
index 65,535 and none after it.
(R670, R677, R679, R680, R681, R698, R728, R730, R731, 16_faults_safety.md, 17_boot_identity_records.md). -/
def Obligations.FaultRegistersAndPolicy : Prop :=
  (∀ (v : Word) (s : State),
    (∃ r : Ntc, exec (.fltNtcCfgWrite v) s = .next { s with ntc := r }
      ∧ r.sizeLog2 = (if s.ntc.en then s.ntc.sizeLog2 else BitVec.ofNat 5 (bw v 4 0))
      ∧ (r.en = true ↔ v.getLsbD 31 = true ∧ 4 ≤ r.sizeLog2.toNat ∧ r.sizeLog2.toNat ≤ 16)
      ∧ (s.ntc.en = false → r.en = true → r.head = 0 ∧ r.tail = 0 ∧ r.phase = true)
      ∧ ((s.ntc.en = true ∨ r.en = false) → r.head = s.ntc.head ∧ r.tail = s.ntc.tail ∧ r.phase = s.ntc.phase))
    ∧ exec (.fltNtcHeadWrite v) s = .next { s with ntc := { s.ntc with head := BitVec.ofNat 16 (bw v 15 0) } })
  ∧ (∀ (u : Nat) (v : Word) (s : State), u < 2100 → ∃ t, exec (.fltStatClear u v) s = .next t
    ∧ (let f := s.fault u
       let sv := f.severe && !v.getLsbD 31
       let ev := f.event && !v.getLsbD 30
       t = { s with faults := t.faults }
       ∧ t.fault u = { f with severe := sv, event := ev, errHeld := f.errHeld && (sv || ev) }
       ∧ ∀ x, x ≠ u → t.fault x = s.fault x))
  ∧ (∀ (p : Packet) (s0 : State), dispatches p s0 = true →
    let s := taken p s0
    let first := bf p.p1 15 0
    let count := bf p.p1 31 16
    (2100 < first + count → exec (.faultPolicySet p) s0 = .next (postErr p 0x0F30 (max first 2100) s)
      ∧ exec (.faultPolicyDefaults p) s0 = .next (postErr p 0x0F30 (max first 2100) s))
    ∧ (first + count ≤ 2100 →
      (count = 0 → exec (.faultPolicyDefaults p) s0 = .next (postErr p 0x0F30 0xFFFF s))
      ∧ ((count = 0 ∨ bf p.p2 31 24 = 0) → exec (.faultPolicySet p) s0 = .next (postErr p 0x0F30 0xFFFF s))
      ∧ (count ≠ 0 → p.p0.getLsbD 60 = false →
        let us := (List.range count).map (first + ·)
        (bf p.p2 31 24 ≠ 0 → exec (.faultPolicySet p) s0 = .next (postDone p count 0 (us.foldl (fun s u =>
          s.updFault u fun f => { f with
            cfg := some (BitVec.ofNat 8 (bf p.p2 31 24), BitVec.ofNat 24 (bf p.p2 23 0), BitVec.ofNat 6 (bf p.p3 29 24),
              BitVec.ofNat 6 (bf p.p3 21 16), BitVec.ofNat 2 (bf p.p3 9 8))
            window := 0, left := 0 }) s)))
        ∧ exec (.faultPolicyDefaults p) s0 = .next (postDone p count 0 (us.foldl (fun s u =>
            s.updFault u fun f => { f with cfg := none, window := 0, left := 0 }) s)))
      ∧ (count ≠ 0 → p.p0.getLsbD 60 = true →
        let us := (List.range count).map (first + ·)
        (s.groupLocked 2 = true → exec (.faultPolicyDefaults p) s0 = .next (postFinal p 0xFF 0x0F4B 2 0 s))
        ∧ (s.groupLocked 2 = false → exec (.faultPolicyDefaults p) s0 = .next (postDone p count 0 (us.foldl (fun s u =>
            journal 2 u (defaultBytes u) s) (us.foldl (fun s u =>
            s.updFault u fun f => { f with cfg := none, window := 0, left := 0 }) s)))))))
  ∧ ∀ s : State,
    (s.boot.evQueue = [] → exec .eventRecordProgram s = .next s)
    ∧ ∀ (e : EvRec) (rest : List EvRec), s.boot.evQueue = e :: rest →
      (s.boot.evFull = true → exec .eventRecordProgram s = .next { s with boot := { s.boot with evQueue := [] } })
      ∧ (s.boot.evFull = false → s.boot.evNext < 65535 → exec .eventRecordProgram s = .next { s with
          flash := { s.flash with events := s.flash.events ++ [e] }
          boot := { s.boot with
            evNext := s.boot.evNext + 1, evLostNew := 0
            evQueue := rest ++ (if s.boot.evLostNew = 0 then [] else [s.recNow 0x0300 s.boot.evLostNew]) } })
      ∧ (s.boot.evFull = false → 65535 ≤ s.boot.evNext → exec .eventRecordProgram s = .next { s with
          flash := { s.flash with events := s.flash.events ++ [s.recNow 0x03FF s.boot.evNext] }
          boot := { s.boot with evNext := s.boot.evNext + 1, evFull := true, evLostNew := 0, evQueue := [] } })

/-- The three phases of a block reset. BLOCK_RESET of a block not in reset puts it in phase 1, aborting a test that
a core's reset meets, and starts no second reset of a block in reset. BLOCK_RESET_DRAIN_END of a block in phase 1
that holds no work gives its registers their Reset values and moves it to phase 2; it changes nothing of a block in
phase 2. BLOCK_RESET_REJOIN of a block in phase 2 takes it out of reset, a standby giving back what it holds for a
core whose slot is over; it changes nothing in phase 1. Neither changes a block that is in no reset. A stack
controller's drain clears its counters and keeps its memory; a mover has no registers to clear.
(R16, R654, R655, R656, R672, 15_job_scheduling.md, 16_faults_safety.md). -/
def Obligations.BlockResets : Prop :=
  ∀ (b : Block) (s : State), blockOk b = true →
    ((∃ r ∈ s.blkRst, r.block = b) → exec (.blockReset b) s = .next s)
    ∧ ((∀ r ∈ s.blkRst, r.block ≠ b) →
      let t : State := { s with blkRst := s.blkRst ++ [{ block := b, phase := 1 }] }
      ((∀ d c, b ≠ .core d c) → exec (.blockReset b) s = .next t)
      ∧ (∀ d c, b = .core d c → exec (.blockReset b) s = .next (
          if (s.die d).testing.toNat = c ∨ (c = (s.die d).standby ∧ (s.die d).testing ≠ 0x1F) then
            t.updDie d fun x => { x with testing := 0x1F, tstAborted := satAdd x.tstAborted 1 } else t))
      ∧ exec (.blockResetDrainEnd b) s = .next s ∧ exec (.blockResetRejoin b) s = .next s)
    ∧ (s.blkRst = [{ block := b, phase := 1 }] → exec (.blockResetRejoin b) s = .next s ∧
      let done (t : State) : State :=
        { t with blkRst := t.blkRst.map fun r => if r.block = b then { r with phase := 2 } else r }
      (∀ k, b = .stackCtl k → exec (.blockResetDrainEnd b) s = .next (done (s.updStk k fun t =>
        { t with recalDue := false, ce := 0, ueScrub := 0, ueRead := 0, lastErr := 0, scrubDone := 0, rowErrs := []
                 forced := 0, windows := 0 })))
      ∧ (∀ d k, b = .mover d k → exec (.blockResetDrainEnd b) s = .next (done s))
      ∧ (∀ d, b = .sampler d → exec (.blockResetDrainEnd b) s = .next (done (s.updDie d fun x =>
        { x with smpQueued := 0, smpFull := false, smpCand := false, smpSelect := false, smpDraws := 0, smpNofinite := 0
                 smpActive := 0, smpRest := 0 })))
      ∧ (∀ d, b = .tributary d → exec (.blockResetDrainEnd b) s = .next (done (s.updDie d fun x =>
        { x with tilTiles := 0, tilLong := 0, tilCapo := 0, tilSplits := 0, tstSlots := 0, tstLast := 0 })))
      ∧ (∀ h k, b = .hubEngine h k → k ≠ 0 → exec (.blockResetDrainEnd b) s = .next (done s))
      ∧ (∀ h, b = .hubEngine h 0 → s.movesOf h = [] → exec (.blockResetDrainEnd b) s
        = .next (done (motionEnds (s.updHub h fun x => { x with mig := 0, ahead := 0 }))))
      ∧ (∀ h, b = .weir h → (∀ t ∈ s.fab.slots, t.half = h → t.from_ = []) → exec (.blockResetDrainEnd b) s
        = .next (done (let t := pumpAll s
            { t with fab := { t.fab with retx := 0, denied := 0, drops := 0, rtIndex := 0, pfxIndex := 0 } })))
      ∧ ∀ d c, b = .core d c → (∀ t ∈ s.tiles, t.die ≠ d ∨ t.core ≠ c ∨ t.issued = false) →
          exec (.blockResetDrainEnd b) s = .next (done (s.updCore d c resetCore)))
    ∧ (s.blkRst = [{ block := b, phase := 2 }] → exec (.blockResetDrainEnd b) s = .next s ∧
      let t : State := { s with blkRst := [] }
      ((∀ d c, b ≠ .core d c) → exec (.blockResetRejoin b) s = .next t)
      ∧ ∀ d c, b = .core d c → exec (.blockResetRejoin b) s = .next (
          if c = (s.die d).standby ∧ (s.die d).testing = 0x1F ∧ s.standsForGood d = false then handBack d t else t))

/-- Power-on and power-off, supply events, measured power, temperature and trips. POWER_ON with a feed at 44 V
starts every block afresh and keeps the flash, with less only PWR_EN; PERST_N_ASSERT for 50 us starts every block
afresh with reset reason 3; PWR_EN_DEASSERT for 50 us, an input outside 40 to 57 V and a reached trip point leave
the module dark, keeping the flash. Between, an input outside 44 to 56 V sets the voltage limit and raises VOLTAGE;
a lost feed limits to one feed. A power measurement counts energy; above the cap it lowers the measured step by
one, and the tenth in a row 200 W or more below it raises the step by one. A throttle point reached lowers the
thermal step and counts the first entry; the inlet only raises THERMAL. Each millisecond with a sensor at its
throttle point lowers the step again, as an entry where none was in force; without one the step is held or raised.
The limits end when their conditions have held. With the rails off none of these acts.
(R741, R742, R743, R745, R746, R747, R750, R754, R756, 18_pins_power_electrical.md). -/
def Obligations.PowerEvents : Prop :=
  (∀ (a b : Nat) (s : State),
    ((s.power.railsOn = true ∨ s.power.tripped = true) → exec (.powerOn a b) s = .next s)
    ∧ (s.power.railsOn = false → s.power.tripped = false →
      (max a b < 44000 → exec (.powerOn a b) s = .next { s with power := { s.power with pwrEn := true } })
      ∧ (44000 ≤ max a b → exec (.powerOn a b) s = .next (freshModule
          { pwrEn := true, good := false, perst := true, railsOn := true, mv := max a b, oneFeed := decide (min a b < 40000) }
          { fromPowerOn := true, hours := s.flash.hours, evNext := s.flash.events.length
            evFull := decide (65536 ≤ s.flash.events.length) } s))))
  ∧ (∀ s : State, exec .pwrGood s = .next (if s.power.railsOn then { s with power := { s.power with good := true } } else s))
  ∧ (∀ (us : Nat) (s : State),
    (us < 50 → exec (.pwrEnDeassert us) s = .next s ∧ exec (.perstNAssert us) s = .next s)
    ∧ (50 ≤ us → exec (.pwrEnDeassert us) s = .next (dark false false s))
    ∧ (s.power.railsOn = false → exec (.perstNAssert us) s = .next s)
    ∧ (50 ≤ us → s.power.railsOn = true → exec (.perstNAssert us) s = .next (freshModule
        { powerAfter s.power with perst := true } (bootAfter 3 [s.recNow 0x0200 3] s) s)))
  ∧ (∀ (mv : Nat) (s : State), s.power.railsOn = true →
    ((mv < 40000 ∨ 57000 < mv) → exec (.inputVoltageChange mv) s = .next (dark s.power.pwrEn true s))
    ∧ (44000 ≤ mv → mv ≤ 56000 →
      exec (.inputVoltageChange mv) s = .next { s with power := { s.power with mv := mv } })
    ∧ ((40000 ≤ mv ∧ mv < 44000 ∨ 56000 < mv ∧ mv ≤ 57000) →
      exec (.inputVoltageChange mv) s = .next (faultEvents 2098 1 mv { s with power := { s.power with
        mv := mv, voltLimit := true
        thrVoltage := if s.power.voltLimit then s.power.thrVoltage else satAdd s.power.thrVoltage 1 } }))
    ∧ ∀ feed, feed < 2 →
      (40000 ≤ mv → exec (.feedLost feed mv) s = .next s)
      ∧ (mv < 40000 → exec (.feedLost feed mv) s = .next (faultEvents 2098 1 mv { s with power := { s.power with
          oneFeed := true
          thrVoltage := if s.power.oneFeed then s.power.thrVoltage else satAdd s.power.thrVoltage 1 } })))
  ∧ (∀ (feed mv : Nat) (s : State), feed < 2 →
    exec (.feedRestored feed mv) s
      = .next (if 44000 ≤ mv then { s with power := { s.power with oneFeed := false } } else s)
    ∧ exec .voltageLimitLapse s = .next (if 44000 ≤ s.power.mv ∧ s.power.mv ≤ 56000 then
        { s with power := { s.power with voltLimit := false } } else s))
  ∧ (∀ (w : Nat) (s : State),
    (s.power.railsOn = false → exec (.powerMeasure w) s = .next s)
    ∧ (s.power.railsOn = true → ∃ t, exec (.powerMeasure w) s = .next t
      ∧ t = { s with power := t.power, fresh := s.fresh + 1 } ∧ t.power.watts = w ∧ t.power.energyMj = s.power.energyMj + w
      ∧ (50 * s.power.cap < w → t.power.measStep = max 4 (s.power.measStep - 1) ∧ t.power.lowMs = 0
        ∧ t.power.thrPower = (if s.power.measStep = s.power.capStep then satAdd s.power.thrPower 1 else s.power.thrPower))
      ∧ (w ≤ 50 * s.power.cap → 50 * s.power.cap < w + 200 → t.power.measStep = s.power.measStep ∧ t.power.lowMs = 0)
      ∧ (w + 200 ≤ 50 * s.power.cap → t.power.thrPower = s.power.thrPower
        ∧ (9 ≤ s.power.lowMs → t.power.measStep = min s.power.capStep (s.power.measStep + 1) ∧ t.power.lowMs = 0)
        ∧ (s.power.lowMs < 9 → t.power.measStep = s.power.measStep ∧ t.power.lowMs = s.power.lowMs + 1))
      ∧ t.power.cap = s.power.cap ∧ t.power.capStep = s.power.capStep ∧ t.power.thermalStep = s.power.thermalStep
      ∧ t.power.limitedMs = (if t.clockStep < s.power.capStep then satAdd s.power.limitedMs 1 else s.power.limitedMs)))
  ∧ (∀ (i : Nat) (x : Half) (s : State), i < 63 → s.power.railsOn = true →
    ((hot i x = false ∨ s.power.wasHot i = true) →
      exec (.thermalThrottle i x) s = .next { s with power := setTemp s.power i x })
    ∧ (hot i x = true → s.power.wasHot i = false →
      (i = 60 → exec (.thermalThrottle i x) s = .next (faultEvents 2097 1 60 { s with power := setTemp s.power 60 x }))
      ∧ (i ≠ 60 → s.power.throttling = true →
        exec (.thermalThrottle i x) s = .next { s with power := lowerStep (setTemp s.power i x) })
      ∧ (i ≠ 60 → s.power.throttling = false → exec (.thermalThrottle i x) s = .next (faultEvents 2097 1 i { s with
          power := { lowerStep (setTemp s.power i x) with thrThermal := satAdd s.power.thrThermal 1 } })))
    ∧ (∀ c, (limits i).2.2 = some c →
      (c * 16 ≤ degrees x → exec (.thermalTrip i x) s = .next (dark s.power.pwrEn true s))
      ∧ (degrees x < c * 16 → exec (.thermalTrip i x) s = .next s)))
  ∧ (∀ (w : Power) (b : Boot) (s : State), let t := freshModule w b s
    t.power = w ∧ t.boot = b ∧ t.flash = s.flash ∧ t.pending = s.pending ∧ t.hostMem = s.hostMem ∧ t.jobs = [] ∧ t.opens = []
      ∧ t.vis = [] ∧ t.tiles = [] ∧ t.devMem = [] ∧ t.faults = [] ∧ t.ftu = {} ∧ t.cores = [] ∧ t.dies = [] ∧ t.stks = []
      ∧ t.hubs = [] ∧ t.fab.groups = [] ∧ t.fab.routes = [] ∧ t.fab.prefixes = [])
  ∧ (∀ (on trip : Bool) (s : State), let t := dark on trip s
    t.power.railsOn = false ∧ t.power.good = false ∧ t.power.pwrEn = on ∧ t.power.tripped = trip ∧ t.flash = s.flash
      ∧ t.boot.stage = 0 ∧ t.vis = [] ∧ t.jobs = [] ∧ t.devMem = [])
  ∧ ∀ (l : List (Nat × Half)) (s : State), (∀ e ∈ l, e.1 < 63) → s.power.railsOn = true →
    let w := setTemps l s.power
    (s.power.wasHot 60 = true ∨ w.wasHot 60 = false) →
      (w.hotSensors = [] → exec (.thermalStepTimer l) s = .next { s with power := coolDown w })
      ∧ (∀ i r, w.hotSensors = i :: r → s.power.throttling = true →
        exec (.thermalStepTimer l) s = .next { s with power := lowerStep w })
      ∧ (∀ i r, w.hotSensors = i :: r → s.power.throttling = false →
        exec (.thermalStepTimer l) s = .next (faultEvents 2097 1 i { s with
          power := { lowerStep w with thrThermal := satAdd s.power.thrThermal 1 } }))

/-- Chip resets and the start of a boot. CHIP_RESET for a reason that is due, ACTIVATE_CHIP_RESET once FW_ACTIVATE
has decided one, and TRIAL_TIMEOUT during the boot of a trial reset the chip: no jobs, commands, VIs, tiles or
mapped memory remain, the boot has not started, BOOT_STATUS.REASON names the reason, and slots, counters, journal,
owner image and hints of the flash stay; else they change nothing. BOOT_START with power good starts stage 1 and
sets the fret counter to 0; it changes nothing when a boot has started or power is not good.
(R15, R85, R673, R698, R701, R713, R717, R745, 16_faults_safety.md, 17_boot_identity_records.md). -/
def Obligations.ResetAndBootStart : Prop :=
  let fresh (reason : Nat) (s t : State) : Prop :=
    t.boot.reason = BitVec.ofNat 8 reason ∧ t.boot.stage = 0 ∧ t.boot.state = 0 ∧ t.jobs = [] ∧ t.opens = [] ∧ t.vis = []
    ∧ t.tiles = [] ∧ t.devMem = [] ∧ t.faults = [] ∧ t.ftu = {} ∧ t.cores = [] ∧ t.dies = [] ∧ t.stks = [] ∧ t.hubs = []
    ∧ t.pending = s.pending ∧ t.hostMem = s.hostMem ∧ t.power.railsOn = s.power.railsOn
    ∧ t.flash = { s.flash with events := t.flash.events } ∧ t.boot.seconds = s.boot.seconds ∧ t.boot.hours = s.boot.hours
    ∧ t.power = powerAfter s.power ∧ t.remMem = s.remMem ∧ t.fab.groups = [] ∧ t.fab.routes = [] ∧ t.fab.prefixes = []
    ∧ (t.boot.evFull = false → ∃ e, t.boot.evQueue = [e] ∧ e.code = 0x0200 ∧ e.p0 = BitVec.ofNat 32 reason
      ∧ (reason = 1 → e.source = BitVec.ofNat 16 s.boot.resetUnit))
  (∀ (reason : Nat) (s : State),
    ((reason = 1 ∧ s.boot.resetDecided = true ∨ reason = 2 ∧ s.boot.resetDue = true ∨ reason = 3 ∧ s.power.perst = true) →
      exec (.chipReset reason) s = .next (chipReset reason s) ∧ fresh reason s (chipReset reason s))
    ∧ (¬(reason = 1 ∧ s.boot.resetDecided = true ∨ reason = 2 ∧ s.boot.resetDue = true
        ∨ reason = 3 ∧ s.power.perst = true) → exec (.chipReset reason) s = .next s))
  ∧ (∀ s : State,
    (s.boot.resetDue = true → exec .activateChipReset s = .next (chipReset 2 s) ∧ fresh 2 s (chipReset 2 s))
    ∧ (s.boot.resetDue = false → exec .activateChipReset s = .next s)
    ∧ (s.boot.trial = true → s.boot.stage ≠ 0 → s.boot.state ≠ 4 →
      let t := chipReset 2 { s with boot := { s.boot with timedOut := true } }
      exec .trialTimeout s = .next t ∧ fresh 2 s t ∧ t.boot.timedOut = true)
    ∧ ((s.boot.trial = false ∨ s.boot.stage = 0 ∨ s.boot.state = 4) → exec .trialTimeout s = .next s)
    ∧ (s.boot.stage = 0 → s.power.good = true → s.power.railsOn = true → exec .bootStart s = .next { s with
        boot := { s.boot with stage := 1 }, power := { s.power with perst := false }, ftu := { s.ftu with count := 0 } })
    ∧ ((s.boot.stage ≠ 0 ∨ s.power.good = false ∨ s.power.railsOn = false) → exec .bootStart s = .next s))

/-- The boot stages, from the pair's self-test to READY. BOOT_STAGE_END ends the stage in progress and does nothing
outside a boot. Without a failed counter: stage 1 boots on XD0, or on XD1 with a record, and with neither pair
stops there; stage 2 derives the DeviceID key, or records that identity failed; stage 3, with no trial set, boots
the preferred one of two valid slots and forms its Alias key, and with no valid slot enters RECOVERY; stage 4 of an
empty store goes on; stage 5 applies the cap in force; stage 6 marks the good cores and the trained stacks with
their retired frames. Stage 7 with no good die FAILs, with a good die and a stack goes on. Stage 8 ends in READY,
in STEP mode, with the boot's time. In READY and FAILED the packets that doorbells have announced are then fetched.
(R36, R700, R701, R702, R706, R707, R711, R712, R718, R727, R748, 17_boot_identity_records.md). -/
def Obligations.BootStages : Prop :=
  ∀ (r : StageReport) (s : State), r.badCounters = [] →
    ((s.boot.stage = 0 ∨ 9 ≤ s.boot.stage) → exec (.bootStageEnd r) s = .next s)
    ∧ (s.boot.stage = 1 →
      let n := if s.boot.fromPowerOn then satAdd s.flash.powerCycles 1 else s.flash.powerCycles
      let up (pair : Bool) : State := { s with
        flash := { s.flash with powerCycles := n }, boot := { s.boot with stage := 2, pair := pair, cycles := n } }
      (r.xd0Ok = true → exec (.bootStageEnd r) s = .next (up false))
      ∧ (r.xd0Ok = false → r.xd1Ok = true →
        exec (.bootStageEnd r) s = .next (evrec 0x0003 0xFFFF r.xd0Result.toNat 0 0 (up true)))
      ∧ (r.xd0Ok = false → r.xd1Ok = false → exec (.bootStageEnd r) s = .next s))
    ∧ (s.boot.stage = 2 →
      (r.identity = 0 → exec (.bootStageEnd r) s = .next { s with boot := { s.boot with
        stage := 3, identity := true, keys := some (deriveIdentity s.flash.helper) } })
      ∧ (r.identity ≠ 0 → exec (.bootStageEnd r) s = .next (evrec 0x000A 0xFFFF r.identity 0 0
        { s with boot := { s.boot with stage := 3, identity := false, keys := none } })))
    ∧ (s.boot.stage = 3 → s.flash.trial = 0 →
      let mark (a b : Nat) : State := { s with flash := { s.flash with
        slotA := { s.flash.slotA with bad := a }, slotB := { s.flash.slotB with bad := b } } }
      let boots (b : Bool) (x : FwSlot) (alt : Word) (t : State) : State :=
        evrec 0x0001 0xFFFF (s.boot.reason.toNat + 2 ^ 8 * b2n b + 2 ^ 16 * b2n s.boot.pair) x.version.toNat
          s.flash.fwSvn.toNat { t with boot := { t.boot with
            stage := 4, state := 2, timedOut := false, slotB := b, trial := false, preferred := s.flash.preferredB
            fw := x.version, svn := s.flash.fwSvn, fwAlt := alt
            keys := s.boot.keys.map fun (k : Identity) => k.withSlot x.digest } }
      (r.slotA ≠ 0 → r.slotB ≠ 0 → ∃ t, exec (.bootStageEnd r) s = .next t ∧ t.boot.state = 1
        ∧ t.boot.stage = 9 ∧ t = { (mark r.slotA r.slotB) with boot := t.boot })
      ∧ (r.slotA = 0 → r.slotB = 0 → s.flash.fwSvn.toNat ≤ s.flash.slotA.svn.toNat →
        s.flash.fwSvn.toNat ≤ s.flash.slotB.svn.toNat → exec (.bootStageEnd r) s = .next (if s.flash.preferredB
          then boots true s.flash.slotB s.flash.slotA.version (mark 0 0)
          else boots false s.flash.slotA s.flash.slotB.version (mark 0 0))))
    ∧ (s.boot.stage = 4 → s.flash.owner = none → s.flash.journal = [] →
      exec (.bootStageEnd r) s = .next { s with boot := { s.boot with stage := 5, owner := s.flash.ownerKey.isSome } })
    ∧ (s.boot.stage = 5 → exec (.bootStageEnd r) s = .next { s with
        boot := { s.boot with stage := 6, state := 3 }
        power := setCap (((s.setting 8 0).map leNat).getD 160) s.power })
    ∧ (s.boot.stage = 6 → ∃ t, exec (.bootStageEnd r) s = .next t ∧ t.boot.stage = 7
      ∧ (∀ d c, d < 18 → c < 17 → 16 ≤ goodCount r d → coreGood r d c = true → (t.core d c).good = true)
      ∧ ∀ k, k < 32 → (r.badStacks.any fun e => e.1 == k) = false → (t.stk k).state = 1
        ∧ (t.stk k).retired = (r.retired.filter fun e => e.1 == k).map (·.2))
    ∧ (s.boot.stage = 7 →
      ((∀ d, d < 18 → s.dieGood d = false) → ∃ t, exec (.bootStageEnd r) s = .next (fetchAll t)
        ∧ t.boot.state = 5 ∧ t.boot.stage = 9 ∧ t.boot.dies = 0 ∧ t.failed = true)
      ∧ (∀ d, d < 18 → s.dieGood d = true → (∃ k, k < 32 ∧ s.inService k = true) → ∃ t,
        exec (.bootStageEnd r) s = .next t ∧ t.boot.stage = 8 ∧ t.boot.state = s.boot.state))
    ∧ (s.boot.stage = 8 → ∃ t, exec (.bootStageEnd r) s = .next (fetchAll t) ∧ t.boot.state = 4 ∧ t.boot.stage = 9
        ∧ t.boot.time = BitVec.ofNat 32 r.ms ∧ t.sched.stepMode = true ∧ t.ready = true ∧ t.noJobSeed = s.ftu.count)

/-- FW_STAGE, FW_ACTIVATE, EVREC_READ and the PLDM update have their own effect. Dispatched: FW_STAGE with no trial
set, of an image whose fields, digest, signature and SVN pass, puts it into the slot not running, records it and
answers version and SVN, or, where the flash fails, leaves that slot invalid, raises FLASH and posts DATA_ERROR; a
failed check posts its reason and changes nothing. TRIAL of a valid other slot sets the trial, of an invalid one is
refused; COMMIT in a trial makes the running slot preferred and raises FW_SVN to its SVN; DISARM clears a trial not
yet booted; each, and RESET, with a reset asked for, decides a chip reset. EVREC_READ writes the records from FIRST
on, up to MAX, and answers their number and the next index. PLDM_FIRMWARE_UPDATE in RECOVERY puts the image into
slot A with what its check found and resets the chip, elsewhere changes nothing. Whether the flash fails and the
reset's reason are free values. (R708, R711, R714, R715, R716, R717, R728, R733, 17_boot_identity_records.md). -/
def Obligations.FirmwareCommandsComplete : Prop :=
  (∀ (p : Packet) (s0 : State), dispatches p s0 = true →
    let s := taken p s0
    let due (t : State) : State := if p.p0.getLsbD 8 then { t with boot := { t.boot with resetDue := true } } else t
    (∀ b, vread p.vi s p.p1.toNat (bf p.p2 31 0) = .ok b →
      let h := fwHeader b
      (s.flash.trial ≠ 0 → exec (.fwStage p) s0 = .next (postErr p 0x0F44 s.flash.trial s))
      ∧ (s.flash.trial = 0 →
        let alt := !s.boot.slotB
        exec (.fwStage p) s0 = .next (match fwBadField b with
          | some i => postErr p 0x0F40 i s
          | none =>
            if fwSigned b = false then postFinal p 0x32 0x0F41 h.version.toNat 0 s
            else if h.svn.toNat < s.flash.fwSvn.toNat then postErr p 0x0F42 s.flash.fwSvn.toNat s
            else
              let put (bad : Nat) : State := refreshFw (putSlot alt
                { version := h.version, svn := h.svn, bad := bad, digest := imageDigest b } s.nextFree)
              match s.flashFails alt with
              | some a => postFinal p 0x31 0x0F46 a 0 (faultEvents 2099 1 a (put 1))
              | none => postDone p h.version.toNat h.svn.toNat
                  (evrec 0x0007 0xFFFF (b2n alt) h.version.toNat h.svn.toNat (put 0)))))
    ∧ (s.slotValid (!s.boot.slotB) = true → exec (.fwActivateTrial p) s0
        = .next (due (postDone p 0 0 { s with flash := { s.flash with trial := 1 } })))
    ∧ (s.slotValid (!s.boot.slotB) = false → exec (.fwActivateTrial p) s0
        = .next (postErr p 0x0F40 (slotField s (!s.boot.slotB)) s.nextFree))
    ∧ (s.flash.trial ≠ 2 → exec (.fwActivateCommit p) s0 = .next (postErr p 0x0F45 0 s)
        ∧ exec (.fwActivateDisarm p) s0 = .next (due (postDone p 0 0 { s with flash := { s.flash with trial := 0 } })))
    ∧ (s.flash.trial = 2 → exec (.fwActivateDisarm p) s0 = .next (postErr p 0x0F44 2 s)
      ∧ (let x := s.fwSlot s.boot.slotB
         let svn := if s.flash.fwSvn.toNat < x.svn.toNat then x.svn else s.flash.fwSvn
         let s1 : State := { s with
           flash := { s.flash with preferredB := s.boot.slotB, trial := 0, fwSvn := svn }
           boot := { s.boot with preferred := s.boot.slotB, trial := false } }
         exec (.fwActivateCommit p) s0 = .next (due (postDone p 0 0
           (evrec 0x0006 0xFFFF (b2n s.boot.slotB) x.version.toNat svn.toNat (refreshFw s1))))))
    ∧ (let t := postDone p 0 0 s
       exec (.fwActivateReset p) s0 = .next { t with boot := { t.boot with resetDue := true } })
    ∧ (65535 < bf p.p0 31 0 → exec (.evrecRead p) s0 = .next (postErr p 0x0F4C (bf p.p0 31 0) s))
    ∧ (bf p.p0 31 0 ≤ 65535 →
      let recs := (s.flash.events.drop (bf p.p0 31 0)).take (bf p.p2 31 0)
      s.firstUnmapped p.vi p.p1.toNat (recs.flatMap evBytes).length = none →
      exec (.evrecRead p) s0 = .next (postDone p recs.length s.boot.evNext
        (vwrite p.vi p.p1.toNat (recs.flatMap evBytes) s))))
  ∧ ∀ (image : List Byte) (s : State),
    (s.boot.state ≠ 1 → exec (.pldmFirmwareUpdate image) s = .next s)
    ∧ (s.boot.state = 1 →
      let h := fwHeader image
      exec (.pldmFirmwareUpdate image) s = .next (chipReset (s.freeVal.toNat % 256) (putSlot false
        { version := h.version, svn := h.svn, bad := imageCause image s, digest := imageDigest image } s).nextFree))

/-- CONFIG_LOAD and POWER_CAP have their own effect. Dispatched: INSTALL of a well-formed owner image whose
signature verifies under the owner key in force (its own where none is), with a higher generation, stores image,
generation and key and drops the journal of its locked groups; a failed check posts its reason and changes nothing.
READ writes the settings in force, up to LENGTH bytes; SAVE_ROUTES, unless its group is locked, journals the routes
and prefixes; CLEAR drops the journal records of the groups named and answers how many. POWER_CAP SET from 50 to
160 sets the cap, and answers the steps as QUERY does; another cap posts CAP_INVALID.
(R718, R719, R720, R721, R723, R724, R748, R751, R752, 17_boot_identity_records.md, 18_pins_power_electrical.md). -/
def Obligations.ConfigurationCommandsComplete : Prop :=
  ∀ (p : Packet) (s0 : State), dispatches p s0 = true →
    let s := taken p s0
    (∀ b, vread p.vi s p.p1.toNat (bf p.p2 31 0) = .ok b →
      (∀ i, parseOwner b = .error i → exec (.configInstall p) s0 = .next (postErr p 0x0F4A i s))
      ∧ ∀ set, parseOwner b = .ok set →
        let gen : Word := BitVec.ofNat 32 (blk b 4 4)
        let key := s.flash.ownerKey.getD ((b.drop 16).take 133)
        let good := ecdsaOk (sha512 (b.take (b.length - 132))) (b.drop (b.length - 132)) key
        let lock : Half := BitVec.ofNat 16 (blk b 8 2)
        exec (.configInstall p) s0 = .next (if good = false then postFinal p 0x32 0x0F48 gen.toNat 0 s
          else if gen.toNat ≤ s.flash.cfgGen.toNat then postErr p 0x0F49 s.flash.cfgGen.toNat s
          else postDone p gen.toNat 0 (evrec 0x0009 0xFFFF gen.toNat (b2n (s.flash.ownerKey != some ((b.drop 16).take 133))) 0
            { s with flash := { s.flash with
                owner := some { gen := gen, lock := lock, settings := set }, cfgGen := gen
                ownerKey := some ((b.drop 16).take 133)
                journal := s.flash.journal.filter fun r => !(lock.getLsbD r.group) } })))
    ∧ (let b := (s.inForce.flatMap recordBytes).take (bf p.p2 31 0)
       s.firstUnmapped p.vi p.p1.toNat b.length = none →
       exec (.configRead p) s0 = .next (postDone p b.length 0 (vwrite p.vi p.p1.toNat b s)))
    ∧ (s.groupLocked 4 = false →
      exec (.saveRoutes p) s0 = .next (postDone p s.routeValues.length 0 (journalGroup 4 s.routeValues s)))
    ∧ (s.groupLocked 4 = true → exec (.saveRoutes p) s0 = .next (postFinal p 0xFF 0x0F4B 4 0 s))
    ∧ (let gone (r : JournalRec) : Bool := decide (r.group < 9) && p.p0.getLsbD (16 + r.group)
       exec (.configClear p) s0 = .next (postDone p (s.flash.journal.filter gone).length 0
         { s with flash := { s.flash with journal := s.flash.journal.filter fun r => !(gone r) } }))
    ∧ (let c := bf p.p1 7 0
       ((c < 50 ∨ 160 < c) → exec (.powerCapSet p) s0 = .next (postErr p 0x0F50 c s))
       ∧ (50 ≤ c → c ≤ 160 → exec (.powerCapSet p) s0 = .next (capDone p { s with power := setCap c s.power })
          ∧ (setCap c s.power).cap = c ∧ 4 ≤ (setCap c s.power).capStep ∧ (setCap c s.power).capStep ≤ 32
          ∧ (setCap c s.power).thermalStep ≤ (setCap c s.power).capStep))
    ∧ exec (.powerCapQuery p) s0 = .next (capDone p s)

/-- PCIe configuration and Hot Reset, SPDM and PLDM, HOURS, and the TAP controller. A configuration request to a
function that is on is answered with Retry Status before 1 s, changing nothing else, and with success from then on,
when it reads the ID, class or SR-IOV words or sets the bus number, MSI-X, the VFs or the power state; clearing VF
Enable resets the VFs. PCIE_HOT_RESET resets VI0 and the enabled VFs. An SPDM request gets one answer or error,
PLDM_EVENT_RETRIEVE takes the oldest held message. HOURS_TICK moves SECONDS to its next multiple of 360 and raises
HOURS in both places. TRST_N low resets the TAP controller; a rising TCK moves it by TMS as IEEE 1149.1 does, with
a free TDO while a register shifts (notes/assumptions/6.md).
(R43, R671, R703, R727, R729, R738, R763, R765, R776, 17_boot_identity_records.md, 18_pins_power_electrical.md). -/
def Obligations.HostAndManagementBuses : Prop :=
  (∀ (n ms : Nat) (q : PcieReq) (s : State), viOk n = true →
    ((s.boot.stage = 0 ∨ s.viOn n = false) → exec (.pcieConfigRequest n ms q) s = .next s)
    ∧ (s.boot.stage ≠ 0 → s.viOn n = true →
      let answered (ok : Bool) : State := { s with boot := { s.boot with cfgAnswers := s.boot.cfgAnswers ++ [ok] } }
      (ms < 1000 → exec (.pcieConfigRequest n ms q) s = .next (answered false))
      ∧ (1000 ≤ ms →
        let s1 := answered true
        let data (w : Word) : Out := .next { s1 with boot := { s1.boot with cfgData := s1.boot.cfgData ++ [w] } }
        (n = 0 → (q = .read .ids → exec (.pcieConfigRequest n ms q) s = data 0x32161E2A)
          ∧ (q = .read .vfTotals → exec (.pcieConfigRequest n ms q) s = data 0x10001000)
          ∧ (q = .read .vfLayout → exec (.pcieConfigRequest n ms q) s = data 0x00010001)
          ∧ (q = .read .numVfs → exec (.pcieConfigRequest n ms q) s = data (BitVec.ofNat 32 s.boot.numVfs)))
        ∧ (q = .read .classRevision → exec (.pcieConfigRequest n ms q) s = data 0x12000001)
        ∧ (∀ b, q = .setBus b → n = 0 →
          exec (.pcieConfigRequest n ms q) s = .next { s1 with boot := { s1.boot with bus := b % 256 } })
        ∧ (∀ on mask, q = .setMsix on mask → exec (.pcieConfigRequest n ms q) s
          = .next (sendPending n (s1.updVi n fun v => { v with msixEn := on, funcMask := mask })))
        ∧ (∀ d, q = .setPower d → exec (.pcieConfigRequest n ms q) s
          = .next (fetchAll (s1.updVi n fun v => { v with d3hot := d })))
        ∧ (∀ on num, q = .setVfs on num → n = 0 →
          (s.boot.vfEn = false → exec (.pcieConfigRequest n ms q) s
            = .next { s1 with boot := { s1.boot with vfEn := on, numVfs := min num 4096 } })
          ∧ (s.boot.vfEn = true → on = true → exec (.pcieConfigRequest n ms q) s = .next s1)
          ∧ (s.boot.vfEn = true → on = false → exec (.pcieConfigRequest n ms q) s = .next (dropVfs 1 s.boot.numVfs
              { s1 with boot := { s1.boot with vfEn := false } }))))))
  ∧ (∀ s : State, exec .pcieHotReset s
      = .next ((if s.boot.vfEn then dropVfs 1 (min s.boot.numVfs 4096) else id) (viReset 0 s)))
  ∧ (∀ (code : Nat) (s : State),
    (s.boot.stage = 0 → exec (.spdmRequest code) s = .next s)
    ∧ (s.boot.stage ≠ 0 →
      let told (a : List Byte) : Out := .next { s with boot := { s.boot with answers := s.boot.answers ++ [a] } }
      (s.boot.identity = false → (code = 0x82 ∨ code = 0xE4) →
        exec (.spdmRequest code) s = told (Config.spdmError code))
      ∧ (spdmCodes.contains code = false → exec (.spdmRequest code) s = told (Config.spdmError code))
      ∧ (spdmCodes.contains code = true → (s.boot.identity = true ∨ (code ≠ 0x82 ∧ code ≠ 0xE4)) →
        exec (.spdmRequest code) s = told (Config.spdmAnswer code s.measurements s.certChain))))
  ∧ (∀ s : State, exec .pldmEventRetrieve s = .next { s with boot := { s.boot with pldm := s.boot.pldm.tail } })
  ∧ (∀ s : State, (s.power.railsOn = false → exec .hoursTick s = .next s)
    ∧ (s.power.railsOn = true → exec .hoursTick s = .next { s with
        boot := { s.boot with
          hours := satAdd s.boot.hours 1, seconds := BitVec.ofNat 32 ((s.boot.seconds.toNat / 360 + 1) * 360) }
        flash := { s.flash with hours := satAdd s.boot.hours 1 } }))
  ∧ ∀ (tck tms tdi : Bool) (s : State),
    exec (.boundaryScan tck tms tdi false) s = .next { s with tap := .testLogicReset, tdo := false }
    ∧ exec (.boundaryScan false tms tdi true) s = .next s
    ∧ (s.tap.next tms ≠ .shiftDr → s.tap.next tms ≠ .shiftIr →
      exec (.boundaryScan true tms tdi true) s = .next { s with tap := s.tap.next tms, tdo := false })
    ∧ ((s.tap.next tms = .shiftDr ∨ s.tap.next tms = .shiftIr) → exec (.boundaryScan true tms tdi true) s
        = .next { s with tap := s.tap.next tms, tdo := s.freeVal.getLsbD 0, fresh := s.fresh + 1 })

/-- Registers read their Reset values right after a reset. In State.reset the queue registers of every VI read base
0, disabled, head and tail 0, the VI is not READY, the fret counter reads 0, no fault unit has counted, no job,
command, tile or group exists and no page is mapped; no value that only a log entry names is used.
(R15, R20, R47, R113, R515, 02_command_protocol.md (Table 2.2), 03_fret_time.md (Table 3.4)). -/
def Obligations.RegistersAtReset : Prop :=
  let s := State.reset
  (∀ vi q : Nat, ((s.vi vi).sq q).en = false ∧ ((s.vi vi).sq q).head = 0 ∧ ((s.vi vi).sq q).tail = 0
    ∧ ((s.vi vi).sq q).base = 0 ∧ ((s.vi vi).cq q).en = false ∧ ((s.vi vi).cq q).head = 0 ∧ ((s.vi vi).cq q).tail = 0
    ∧ ((s.vi vi).cq q).base = 0 ∧ s.viReady vi = false ∧ (s.vi vi).pages = [])
  ∧ s.ftu.count = 0 ∧ (∀ u : Nat, (s.fault u).total = 0 ∧ (s.fault u).severe = false ∧ (s.fault u).event = false)
  ∧ s.jobs = [] ∧ s.opens = [] ∧ s.tiles = [] ∧ s.fab.groups = [] ∧ s.pending = []
end

