-- ==== Sys2Proof/Laws/State.lean ====
section
/-! SUPPORT. What each update of the state leaves alone, field by field, and what it makes of the record it changes: simp
lemmas, so that no later proof unfolds a record update. -/

namespace Sys2Proof.Machine

open Sys2Proof

/-! ## Tables -/

/-- The entry that was set is read back. -/
@[simp] theorem tget_tset_same (d v : α) (t : Tbl α) (n : Nat) : tget d (tset t n v) n = v := by
  induction t with
  | nil => simp [tset, tget]
  | cons e t ih =>
    obtain ⟨k, w⟩ := e
    simp only [tset]
    split
    · simp [tget]
    · split
      · simp [tget]
      · next h _ => simp [tget, Ne.symm h, ih]

/-- Another entry keeps its value. -/
@[simp] theorem tget_tset_of_ne (d v : α) (t : Tbl α) {n m : Nat} (h : m ≠ n) : tget d (tset t n v) m = tget d t m := by
  induction t with
  | nil => simp [tset, tget, Ne.symm h]
  | cons e t ih =>
    obtain ⟨k, w⟩ := e
    simp only [tset]
    split
    · next hk => subst hk; simp [tget, Ne.symm h]
    · split
      · simp [tget, Ne.symm h]
      · simp [tget, ih]

/-! ## The records that an update changes -/

@[simp] theorem State.updVi_vi_same (s : State) (n : Nat) (f : Vi → Vi) : (s.updVi n f).vi n = f (s.vi n) :=
  tget_tset_same _ _ _ _
@[simp] theorem State.updVi_vi_of_ne (s : State) {n m : Nat} (f : Vi → Vi) (hne : m ≠ n) :
    (s.updVi n f).vi m = s.vi m := tget_tset_of_ne _ _ _ hne
@[simp] theorem State.updDie_die_same (s : State) (d : Nat) (f : Die → Die) : (s.updDie d f).die d = f (s.die d) :=
  tget_tset_same _ _ _ _
@[simp] theorem State.updDie_die_of_ne (s : State) {d m : Nat} (f : Die → Die) (hne : m ≠ d) :
    (s.updDie d f).die m = s.die m := tget_tset_of_ne _ _ _ hne
@[simp] theorem State.updStk_stk_same (s : State) (k : Nat) (f : Stack → Stack) : (s.updStk k f).stk k = f (s.stk k) :=
  tget_tset_same _ _ _ _
@[simp] theorem State.updStk_stk_of_ne (s : State) {k m : Nat} (f : Stack → Stack) (hne : m ≠ k) :
    (s.updStk k f).stk m = s.stk m := tget_tset_of_ne _ _ _ hne
@[simp] theorem State.updHub_hub_same (s : State) (h : Nat) (f : Hub → Hub) : (s.updHub h f).hub h = f (s.hub h) :=
  tget_tset_same _ _ _ _
@[simp] theorem State.updHub_hub_of_ne (s : State) {h m : Nat} (f : Hub → Hub) (hne : m ≠ h) :
    (s.updHub h f).hub m = s.hub m := tget_tset_of_ne _ _ _ hne
@[simp] theorem State.updPort_port_same (s : State) (p : Nat) (f : Port → Port) : (s.updPort p f).port p = f (s.port p) :=
  tget_tset_same _ _ _ _
@[simp] theorem State.updPort_port_of_ne (s : State) {p m : Nat} (f : Port → Port) (hne : m ≠ p) :
    (s.updPort p f).port m = s.port m := tget_tset_of_ne _ _ _ hne
@[simp] theorem State.updFault_fault_same (s : State) (u : Nat) (f : FaultUnit → FaultUnit) : (s.updFault u f).fault u = f (s.fault u) :=
  tget_tset_same _ _ _ _
@[simp] theorem State.updFault_fault_of_ne (s : State) {u m : Nat} (f : FaultUnit → FaultUnit) (hne : m ≠ u) :
    (s.updFault u f).fault m = s.fault m := tget_tset_of_ne _ _ _ hne
@[simp] theorem State.updCore_core_same (s : State) (d c : Nat) (f : Core → Core) :
    (s.updCore d c f).core d c = f (s.core d c) := tget_tset_same _ _ _ _
@[simp] theorem State.updCore_core_of_ne (s : State) {d c d' c' : Nat} (f : Core → Core) (h : coreIx d' c' ≠ coreIx d c) :
    (s.updCore d c f).core d' c' = s.core d' c' := tget_tset_of_ne _ _ _ h
@[simp] theorem State.updSq_sq_same (s : State) (n q : Nat) (f : Sq → Sq) : ((s.updSq n q f).vi n).sq q = f ((s.vi n).sq q) := by
  simp [State.updSq, Vi.sq]
@[simp] theorem State.updCq_cq_same (s : State) (n q : Nat) (f : Cq → Cq) : ((s.updCq n q f).vi n).cq q = f ((s.vi n).cq q) := by
  simp [State.updCq, Vi.cq]
@[simp] theorem State.updFtu_ftu (s : State) (f : Ftu → Ftu) : (s.updFtu f).ftu = f s.ftu := rfl
@[simp] theorem State.nextFree_fresh (s : State) : s.nextFree.fresh = s.fresh + 1 := rfl

/-! ## State.updVi -/

@[simp] theorem State.updVi_pending (s : State) (n : Nat) (f : Vi → Vi) : (s.updVi n f).pending = s.pending := rfl
@[simp] theorem State.updVi_turnVi (s : State) (n : Nat) (f : Vi → Vi) : (s.updVi n f).turnVi = s.turnVi := rfl
@[simp] theorem State.updVi_ftu (s : State) (n : Nat) (f : Vi → Vi) : (s.updVi n f).ftu = s.ftu := rfl
@[simp] theorem State.updVi_cores (s : State) (n : Nat) (f : Vi → Vi) : (s.updVi n f).cores = s.cores := rfl
@[simp] theorem State.updVi_dies (s : State) (n : Nat) (f : Vi → Vi) : (s.updVi n f).dies = s.dies := rfl
@[simp] theorem State.updVi_stks (s : State) (n : Nat) (f : Vi → Vi) : (s.updVi n f).stks = s.stks := rfl
@[simp] theorem State.updVi_hubs (s : State) (n : Nat) (f : Vi → Vi) : (s.updVi n f).hubs = s.hubs := rfl
@[simp] theorem State.updVi_fab (s : State) (n : Nat) (f : Vi → Vi) : (s.updVi n f).fab = s.fab := rfl
@[simp] theorem State.updVi_faults (s : State) (n : Nat) (f : Vi → Vi) : (s.updVi n f).faults = s.faults := rfl
@[simp] theorem State.updVi_ntc (s : State) (n : Nat) (f : Vi → Vi) : (s.updVi n f).ntc = s.ntc := rfl
@[simp] theorem State.updVi_blkRst (s : State) (n : Nat) (f : Vi → Vi) : (s.updVi n f).blkRst = s.blkRst := rfl
@[simp] theorem State.updVi_flash (s : State) (n : Nat) (f : Vi → Vi) : (s.updVi n f).flash = s.flash := rfl
@[simp] theorem State.updVi_boot (s : State) (n : Nat) (f : Vi → Vi) : (s.updVi n f).boot = s.boot := rfl
@[simp] theorem State.updVi_power (s : State) (n : Nat) (f : Vi → Vi) : (s.updVi n f).power = s.power := rfl
@[simp] theorem State.updVi_tap (s : State) (n : Nat) (f : Vi → Vi) : (s.updVi n f).tap = s.tap := rfl
@[simp] theorem State.updVi_quotas (s : State) (n : Nat) (f : Vi → Vi) : (s.updVi n f).quotas = s.quotas := rfl
@[simp] theorem State.updVi_jobs (s : State) (n : Nat) (f : Vi → Vi) : (s.updVi n f).jobs = s.jobs := rfl
@[simp] theorem State.updVi_sched (s : State) (n : Nat) (f : Vi → Vi) : (s.updVi n f).sched = s.sched := rfl
@[simp] theorem State.updVi_opens (s : State) (n : Nat) (f : Vi → Vi) : (s.updVi n f).opens = s.opens := rfl
@[simp] theorem State.updVi_tiles (s : State) (n : Nat) (f : Vi → Vi) : (s.updVi n f).tiles = s.tiles := rfl
@[simp] theorem State.updVi_partials (s : State) (n : Nat) (f : Vi → Vi) : (s.updVi n f).partials = s.partials := rfl
@[simp] theorem State.updVi_scr (s : State) (n : Nat) (f : Vi → Vi) : (s.updVi n f).scr = s.scr := rfl
@[simp] theorem State.updVi_ctr (s : State) (n : Nat) (f : Vi → Vi) : (s.updVi n f).ctr = s.ctr := rfl
@[simp] theorem State.updVi_phases (s : State) (n : Nat) (f : Vi → Vi) : (s.updVi n f).phases = s.phases := rfl
@[simp] theorem State.updVi_zeroing (s : State) (n : Nat) (f : Vi → Vi) : (s.updVi n f).zeroing = s.zeroing := rfl
@[simp] theorem State.updVi_noJobSeed (s : State) (n : Nat) (f : Vi → Vi) : (s.updVi n f).noJobSeed = s.noJobSeed := rfl
@[simp] theorem State.updVi_noJobGens (s : State) (n : Nat) (f : Vi → Vi) : (s.updVi n f).noJobGens = s.noJobGens := rfl
@[simp] theorem State.updVi_devMem (s : State) (n : Nat) (f : Vi → Vi) : (s.updVi n f).devMem = s.devMem := rfl
@[simp] theorem State.updVi_hostMem (s : State) (n : Nat) (f : Vi → Vi) : (s.updVi n f).hostMem = s.hostMem := rfl
@[simp] theorem State.updVi_remMem (s : State) (n : Nat) (f : Vi → Vi) : (s.updVi n f).remMem = s.remMem := rfl
@[simp] theorem State.updVi_msixOut (s : State) (n : Nat) (f : Vi → Vi) : (s.updVi n f).msixOut = s.msixOut := rfl
@[simp] theorem State.updVi_busRead (s : State) (n : Nat) (f : Vi → Vi) : (s.updVi n f).busRead = s.busRead := rfl
@[simp] theorem State.updVi_tdo (s : State) (n : Nat) (f : Vi → Vi) : (s.updVi n f).tdo = s.tdo := rfl
@[simp] theorem State.updVi_fresh (s : State) (n : Nat) (f : Vi → Vi) : (s.updVi n f).fresh = s.fresh := rfl

/-! ## State.updSq -/

@[simp] theorem State.updSq_pending (s : State) (n q : Nat) (f : Sq → Sq) : (s.updSq n q f).pending = s.pending := rfl
@[simp] theorem State.updSq_turnVi (s : State) (n q : Nat) (f : Sq → Sq) : (s.updSq n q f).turnVi = s.turnVi := rfl
@[simp] theorem State.updSq_ftu (s : State) (n q : Nat) (f : Sq → Sq) : (s.updSq n q f).ftu = s.ftu := rfl
@[simp] theorem State.updSq_cores (s : State) (n q : Nat) (f : Sq → Sq) : (s.updSq n q f).cores = s.cores := rfl
@[simp] theorem State.updSq_dies (s : State) (n q : Nat) (f : Sq → Sq) : (s.updSq n q f).dies = s.dies := rfl
@[simp] theorem State.updSq_stks (s : State) (n q : Nat) (f : Sq → Sq) : (s.updSq n q f).stks = s.stks := rfl
@[simp] theorem State.updSq_hubs (s : State) (n q : Nat) (f : Sq → Sq) : (s.updSq n q f).hubs = s.hubs := rfl
@[simp] theorem State.updSq_fab (s : State) (n q : Nat) (f : Sq → Sq) : (s.updSq n q f).fab = s.fab := rfl
@[simp] theorem State.updSq_faults (s : State) (n q : Nat) (f : Sq → Sq) : (s.updSq n q f).faults = s.faults := rfl
@[simp] theorem State.updSq_ntc (s : State) (n q : Nat) (f : Sq → Sq) : (s.updSq n q f).ntc = s.ntc := rfl
@[simp] theorem State.updSq_blkRst (s : State) (n q : Nat) (f : Sq → Sq) : (s.updSq n q f).blkRst = s.blkRst := rfl
@[simp] theorem State.updSq_flash (s : State) (n q : Nat) (f : Sq → Sq) : (s.updSq n q f).flash = s.flash := rfl
@[simp] theorem State.updSq_boot (s : State) (n q : Nat) (f : Sq → Sq) : (s.updSq n q f).boot = s.boot := rfl
@[simp] theorem State.updSq_power (s : State) (n q : Nat) (f : Sq → Sq) : (s.updSq n q f).power = s.power := rfl
@[simp] theorem State.updSq_tap (s : State) (n q : Nat) (f : Sq → Sq) : (s.updSq n q f).tap = s.tap := rfl
@[simp] theorem State.updSq_quotas (s : State) (n q : Nat) (f : Sq → Sq) : (s.updSq n q f).quotas = s.quotas := rfl
@[simp] theorem State.updSq_jobs (s : State) (n q : Nat) (f : Sq → Sq) : (s.updSq n q f).jobs = s.jobs := rfl
@[simp] theorem State.updSq_sched (s : State) (n q : Nat) (f : Sq → Sq) : (s.updSq n q f).sched = s.sched := rfl
@[simp] theorem State.updSq_opens (s : State) (n q : Nat) (f : Sq → Sq) : (s.updSq n q f).opens = s.opens := rfl
@[simp] theorem State.updSq_tiles (s : State) (n q : Nat) (f : Sq → Sq) : (s.updSq n q f).tiles = s.tiles := rfl
@[simp] theorem State.updSq_partials (s : State) (n q : Nat) (f : Sq → Sq) : (s.updSq n q f).partials = s.partials := rfl
@[simp] theorem State.updSq_scr (s : State) (n q : Nat) (f : Sq → Sq) : (s.updSq n q f).scr = s.scr := rfl
@[simp] theorem State.updSq_ctr (s : State) (n q : Nat) (f : Sq → Sq) : (s.updSq n q f).ctr = s.ctr := rfl
@[simp] theorem State.updSq_phases (s : State) (n q : Nat) (f : Sq → Sq) : (s.updSq n q f).phases = s.phases := rfl
@[simp] theorem State.updSq_zeroing (s : State) (n q : Nat) (f : Sq → Sq) : (s.updSq n q f).zeroing = s.zeroing := rfl
@[simp] theorem State.updSq_noJobSeed (s : State) (n q : Nat) (f : Sq → Sq) : (s.updSq n q f).noJobSeed = s.noJobSeed := rfl
@[simp] theorem State.updSq_noJobGens (s : State) (n q : Nat) (f : Sq → Sq) : (s.updSq n q f).noJobGens = s.noJobGens := rfl
@[simp] theorem State.updSq_devMem (s : State) (n q : Nat) (f : Sq → Sq) : (s.updSq n q f).devMem = s.devMem := rfl
@[simp] theorem State.updSq_hostMem (s : State) (n q : Nat) (f : Sq → Sq) : (s.updSq n q f).hostMem = s.hostMem := rfl
@[simp] theorem State.updSq_remMem (s : State) (n q : Nat) (f : Sq → Sq) : (s.updSq n q f).remMem = s.remMem := rfl
@[simp] theorem State.updSq_msixOut (s : State) (n q : Nat) (f : Sq → Sq) : (s.updSq n q f).msixOut = s.msixOut := rfl
@[simp] theorem State.updSq_busRead (s : State) (n q : Nat) (f : Sq → Sq) : (s.updSq n q f).busRead = s.busRead := rfl
@[simp] theorem State.updSq_tdo (s : State) (n q : Nat) (f : Sq → Sq) : (s.updSq n q f).tdo = s.tdo := rfl
@[simp] theorem State.updSq_fresh (s : State) (n q : Nat) (f : Sq → Sq) : (s.updSq n q f).fresh = s.fresh := rfl

/-! ## State.updCq -/

@[simp] theorem State.updCq_pending (s : State) (n q : Nat) (f : Cq → Cq) : (s.updCq n q f).pending = s.pending := rfl
@[simp] theorem State.updCq_turnVi (s : State) (n q : Nat) (f : Cq → Cq) : (s.updCq n q f).turnVi = s.turnVi := rfl
@[simp] theorem State.updCq_ftu (s : State) (n q : Nat) (f : Cq → Cq) : (s.updCq n q f).ftu = s.ftu := rfl
@[simp] theorem State.updCq_cores (s : State) (n q : Nat) (f : Cq → Cq) : (s.updCq n q f).cores = s.cores := rfl
@[simp] theorem State.updCq_dies (s : State) (n q : Nat) (f : Cq → Cq) : (s.updCq n q f).dies = s.dies := rfl
@[simp] theorem State.updCq_stks (s : State) (n q : Nat) (f : Cq → Cq) : (s.updCq n q f).stks = s.stks := rfl
@[simp] theorem State.updCq_hubs (s : State) (n q : Nat) (f : Cq → Cq) : (s.updCq n q f).hubs = s.hubs := rfl
@[simp] theorem State.updCq_fab (s : State) (n q : Nat) (f : Cq → Cq) : (s.updCq n q f).fab = s.fab := rfl
@[simp] theorem State.updCq_faults (s : State) (n q : Nat) (f : Cq → Cq) : (s.updCq n q f).faults = s.faults := rfl
@[simp] theorem State.updCq_ntc (s : State) (n q : Nat) (f : Cq → Cq) : (s.updCq n q f).ntc = s.ntc := rfl
@[simp] theorem State.updCq_blkRst (s : State) (n q : Nat) (f : Cq → Cq) : (s.updCq n q f).blkRst = s.blkRst := rfl
@[simp] theorem State.updCq_flash (s : State) (n q : Nat) (f : Cq → Cq) : (s.updCq n q f).flash = s.flash := rfl
@[simp] theorem State.updCq_boot (s : State) (n q : Nat) (f : Cq → Cq) : (s.updCq n q f).boot = s.boot := rfl
@[simp] theorem State.updCq_power (s : State) (n q : Nat) (f : Cq → Cq) : (s.updCq n q f).power = s.power := rfl
@[simp] theorem State.updCq_tap (s : State) (n q : Nat) (f : Cq → Cq) : (s.updCq n q f).tap = s.tap := rfl
@[simp] theorem State.updCq_quotas (s : State) (n q : Nat) (f : Cq → Cq) : (s.updCq n q f).quotas = s.quotas := rfl
@[simp] theorem State.updCq_jobs (s : State) (n q : Nat) (f : Cq → Cq) : (s.updCq n q f).jobs = s.jobs := rfl
@[simp] theorem State.updCq_sched (s : State) (n q : Nat) (f : Cq → Cq) : (s.updCq n q f).sched = s.sched := rfl
@[simp] theorem State.updCq_opens (s : State) (n q : Nat) (f : Cq → Cq) : (s.updCq n q f).opens = s.opens := rfl
@[simp] theorem State.updCq_tiles (s : State) (n q : Nat) (f : Cq → Cq) : (s.updCq n q f).tiles = s.tiles := rfl
@[simp] theorem State.updCq_partials (s : State) (n q : Nat) (f : Cq → Cq) : (s.updCq n q f).partials = s.partials := rfl
@[simp] theorem State.updCq_scr (s : State) (n q : Nat) (f : Cq → Cq) : (s.updCq n q f).scr = s.scr := rfl
@[simp] theorem State.updCq_ctr (s : State) (n q : Nat) (f : Cq → Cq) : (s.updCq n q f).ctr = s.ctr := rfl
@[simp] theorem State.updCq_phases (s : State) (n q : Nat) (f : Cq → Cq) : (s.updCq n q f).phases = s.phases := rfl
@[simp] theorem State.updCq_zeroing (s : State) (n q : Nat) (f : Cq → Cq) : (s.updCq n q f).zeroing = s.zeroing := rfl
@[simp] theorem State.updCq_noJobSeed (s : State) (n q : Nat) (f : Cq → Cq) : (s.updCq n q f).noJobSeed = s.noJobSeed := rfl
@[simp] theorem State.updCq_noJobGens (s : State) (n q : Nat) (f : Cq → Cq) : (s.updCq n q f).noJobGens = s.noJobGens := rfl
@[simp] theorem State.updCq_devMem (s : State) (n q : Nat) (f : Cq → Cq) : (s.updCq n q f).devMem = s.devMem := rfl
@[simp] theorem State.updCq_hostMem (s : State) (n q : Nat) (f : Cq → Cq) : (s.updCq n q f).hostMem = s.hostMem := rfl
@[simp] theorem State.updCq_remMem (s : State) (n q : Nat) (f : Cq → Cq) : (s.updCq n q f).remMem = s.remMem := rfl
@[simp] theorem State.updCq_msixOut (s : State) (n q : Nat) (f : Cq → Cq) : (s.updCq n q f).msixOut = s.msixOut := rfl
@[simp] theorem State.updCq_busRead (s : State) (n q : Nat) (f : Cq → Cq) : (s.updCq n q f).busRead = s.busRead := rfl
@[simp] theorem State.updCq_tdo (s : State) (n q : Nat) (f : Cq → Cq) : (s.updCq n q f).tdo = s.tdo := rfl
@[simp] theorem State.updCq_fresh (s : State) (n q : Nat) (f : Cq → Cq) : (s.updCq n q f).fresh = s.fresh := rfl

/-! ## State.updCore -/

@[simp] theorem State.updCore_pending (s : State) (d c : Nat) (f : Core → Core) : (s.updCore d c f).pending = s.pending := rfl
@[simp] theorem State.updCore_vis (s : State) (d c : Nat) (f : Core → Core) : (s.updCore d c f).vis = s.vis := rfl
@[simp] theorem State.updCore_turnVi (s : State) (d c : Nat) (f : Core → Core) : (s.updCore d c f).turnVi = s.turnVi := rfl
@[simp] theorem State.updCore_ftu (s : State) (d c : Nat) (f : Core → Core) : (s.updCore d c f).ftu = s.ftu := rfl
@[simp] theorem State.updCore_dies (s : State) (d c : Nat) (f : Core → Core) : (s.updCore d c f).dies = s.dies := rfl
@[simp] theorem State.updCore_stks (s : State) (d c : Nat) (f : Core → Core) : (s.updCore d c f).stks = s.stks := rfl
@[simp] theorem State.updCore_hubs (s : State) (d c : Nat) (f : Core → Core) : (s.updCore d c f).hubs = s.hubs := rfl
@[simp] theorem State.updCore_fab (s : State) (d c : Nat) (f : Core → Core) : (s.updCore d c f).fab = s.fab := rfl
@[simp] theorem State.updCore_faults (s : State) (d c : Nat) (f : Core → Core) : (s.updCore d c f).faults = s.faults := rfl
@[simp] theorem State.updCore_ntc (s : State) (d c : Nat) (f : Core → Core) : (s.updCore d c f).ntc = s.ntc := rfl
@[simp] theorem State.updCore_blkRst (s : State) (d c : Nat) (f : Core → Core) : (s.updCore d c f).blkRst = s.blkRst := rfl
@[simp] theorem State.updCore_flash (s : State) (d c : Nat) (f : Core → Core) : (s.updCore d c f).flash = s.flash := rfl
@[simp] theorem State.updCore_boot (s : State) (d c : Nat) (f : Core → Core) : (s.updCore d c f).boot = s.boot := rfl
@[simp] theorem State.updCore_power (s : State) (d c : Nat) (f : Core → Core) : (s.updCore d c f).power = s.power := rfl
@[simp] theorem State.updCore_tap (s : State) (d c : Nat) (f : Core → Core) : (s.updCore d c f).tap = s.tap := rfl
@[simp] theorem State.updCore_quotas (s : State) (d c : Nat) (f : Core → Core) : (s.updCore d c f).quotas = s.quotas := rfl
@[simp] theorem State.updCore_jobs (s : State) (d c : Nat) (f : Core → Core) : (s.updCore d c f).jobs = s.jobs := rfl
@[simp] theorem State.updCore_sched (s : State) (d c : Nat) (f : Core → Core) : (s.updCore d c f).sched = s.sched := rfl
@[simp] theorem State.updCore_opens (s : State) (d c : Nat) (f : Core → Core) : (s.updCore d c f).opens = s.opens := rfl
@[simp] theorem State.updCore_tiles (s : State) (d c : Nat) (f : Core → Core) : (s.updCore d c f).tiles = s.tiles := rfl
@[simp] theorem State.updCore_partials (s : State) (d c : Nat) (f : Core → Core) : (s.updCore d c f).partials = s.partials := rfl
@[simp] theorem State.updCore_scr (s : State) (d c : Nat) (f : Core → Core) : (s.updCore d c f).scr = s.scr := rfl
@[simp] theorem State.updCore_ctr (s : State) (d c : Nat) (f : Core → Core) : (s.updCore d c f).ctr = s.ctr := rfl
@[simp] theorem State.updCore_phases (s : State) (d c : Nat) (f : Core → Core) : (s.updCore d c f).phases = s.phases := rfl
@[simp] theorem State.updCore_zeroing (s : State) (d c : Nat) (f : Core → Core) : (s.updCore d c f).zeroing = s.zeroing := rfl
@[simp] theorem State.updCore_noJobSeed (s : State) (d c : Nat) (f : Core → Core) : (s.updCore d c f).noJobSeed = s.noJobSeed := rfl
@[simp] theorem State.updCore_noJobGens (s : State) (d c : Nat) (f : Core → Core) : (s.updCore d c f).noJobGens = s.noJobGens := rfl
@[simp] theorem State.updCore_devMem (s : State) (d c : Nat) (f : Core → Core) : (s.updCore d c f).devMem = s.devMem := rfl
@[simp] theorem State.updCore_hostMem (s : State) (d c : Nat) (f : Core → Core) : (s.updCore d c f).hostMem = s.hostMem := rfl
@[simp] theorem State.updCore_remMem (s : State) (d c : Nat) (f : Core → Core) : (s.updCore d c f).remMem = s.remMem := rfl
@[simp] theorem State.updCore_msixOut (s : State) (d c : Nat) (f : Core → Core) : (s.updCore d c f).msixOut = s.msixOut := rfl
@[simp] theorem State.updCore_busRead (s : State) (d c : Nat) (f : Core → Core) : (s.updCore d c f).busRead = s.busRead := rfl
@[simp] theorem State.updCore_tdo (s : State) (d c : Nat) (f : Core → Core) : (s.updCore d c f).tdo = s.tdo := rfl
@[simp] theorem State.updCore_fresh (s : State) (d c : Nat) (f : Core → Core) : (s.updCore d c f).fresh = s.fresh := rfl

/-! ## State.updDie -/

@[simp] theorem State.updDie_pending (s : State) (d : Nat) (f : Die → Die) : (s.updDie d f).pending = s.pending := rfl
@[simp] theorem State.updDie_vis (s : State) (d : Nat) (f : Die → Die) : (s.updDie d f).vis = s.vis := rfl
@[simp] theorem State.updDie_turnVi (s : State) (d : Nat) (f : Die → Die) : (s.updDie d f).turnVi = s.turnVi := rfl
@[simp] theorem State.updDie_ftu (s : State) (d : Nat) (f : Die → Die) : (s.updDie d f).ftu = s.ftu := rfl
@[simp] theorem State.updDie_cores (s : State) (d : Nat) (f : Die → Die) : (s.updDie d f).cores = s.cores := rfl
@[simp] theorem State.updDie_stks (s : State) (d : Nat) (f : Die → Die) : (s.updDie d f).stks = s.stks := rfl
@[simp] theorem State.updDie_hubs (s : State) (d : Nat) (f : Die → Die) : (s.updDie d f).hubs = s.hubs := rfl
@[simp] theorem State.updDie_fab (s : State) (d : Nat) (f : Die → Die) : (s.updDie d f).fab = s.fab := rfl
@[simp] theorem State.updDie_faults (s : State) (d : Nat) (f : Die → Die) : (s.updDie d f).faults = s.faults := rfl
@[simp] theorem State.updDie_ntc (s : State) (d : Nat) (f : Die → Die) : (s.updDie d f).ntc = s.ntc := rfl
@[simp] theorem State.updDie_blkRst (s : State) (d : Nat) (f : Die → Die) : (s.updDie d f).blkRst = s.blkRst := rfl
@[simp] theorem State.updDie_flash (s : State) (d : Nat) (f : Die → Die) : (s.updDie d f).flash = s.flash := rfl
@[simp] theorem State.updDie_boot (s : State) (d : Nat) (f : Die → Die) : (s.updDie d f).boot = s.boot := rfl
@[simp] theorem State.updDie_power (s : State) (d : Nat) (f : Die → Die) : (s.updDie d f).power = s.power := rfl
@[simp] theorem State.updDie_tap (s : State) (d : Nat) (f : Die → Die) : (s.updDie d f).tap = s.tap := rfl
@[simp] theorem State.updDie_quotas (s : State) (d : Nat) (f : Die → Die) : (s.updDie d f).quotas = s.quotas := rfl
@[simp] theorem State.updDie_jobs (s : State) (d : Nat) (f : Die → Die) : (s.updDie d f).jobs = s.jobs := rfl
@[simp] theorem State.updDie_sched (s : State) (d : Nat) (f : Die → Die) : (s.updDie d f).sched = s.sched := rfl
@[simp] theorem State.updDie_opens (s : State) (d : Nat) (f : Die → Die) : (s.updDie d f).opens = s.opens := rfl
@[simp] theorem State.updDie_tiles (s : State) (d : Nat) (f : Die → Die) : (s.updDie d f).tiles = s.tiles := rfl
@[simp] theorem State.updDie_partials (s : State) (d : Nat) (f : Die → Die) : (s.updDie d f).partials = s.partials := rfl
@[simp] theorem State.updDie_scr (s : State) (d : Nat) (f : Die → Die) : (s.updDie d f).scr = s.scr := rfl
@[simp] theorem State.updDie_ctr (s : State) (d : Nat) (f : Die → Die) : (s.updDie d f).ctr = s.ctr := rfl
@[simp] theorem State.updDie_phases (s : State) (d : Nat) (f : Die → Die) : (s.updDie d f).phases = s.phases := rfl
@[simp] theorem State.updDie_zeroing (s : State) (d : Nat) (f : Die → Die) : (s.updDie d f).zeroing = s.zeroing := rfl
@[simp] theorem State.updDie_noJobSeed (s : State) (d : Nat) (f : Die → Die) : (s.updDie d f).noJobSeed = s.noJobSeed := rfl
@[simp] theorem State.updDie_noJobGens (s : State) (d : Nat) (f : Die → Die) : (s.updDie d f).noJobGens = s.noJobGens := rfl
@[simp] theorem State.updDie_devMem (s : State) (d : Nat) (f : Die → Die) : (s.updDie d f).devMem = s.devMem := rfl
@[simp] theorem State.updDie_hostMem (s : State) (d : Nat) (f : Die → Die) : (s.updDie d f).hostMem = s.hostMem := rfl
@[simp] theorem State.updDie_remMem (s : State) (d : Nat) (f : Die → Die) : (s.updDie d f).remMem = s.remMem := rfl
@[simp] theorem State.updDie_msixOut (s : State) (d : Nat) (f : Die → Die) : (s.updDie d f).msixOut = s.msixOut := rfl
@[simp] theorem State.updDie_busRead (s : State) (d : Nat) (f : Die → Die) : (s.updDie d f).busRead = s.busRead := rfl
@[simp] theorem State.updDie_tdo (s : State) (d : Nat) (f : Die → Die) : (s.updDie d f).tdo = s.tdo := rfl
@[simp] theorem State.updDie_fresh (s : State) (d : Nat) (f : Die → Die) : (s.updDie d f).fresh = s.fresh := rfl

/-! ## State.updStk -/

@[simp] theorem State.updStk_pending (s : State) (k : Nat) (f : Stack → Stack) : (s.updStk k f).pending = s.pending := rfl
@[simp] theorem State.updStk_vis (s : State) (k : Nat) (f : Stack → Stack) : (s.updStk k f).vis = s.vis := rfl
@[simp] theorem State.updStk_turnVi (s : State) (k : Nat) (f : Stack → Stack) : (s.updStk k f).turnVi = s.turnVi := rfl
@[simp] theorem State.updStk_ftu (s : State) (k : Nat) (f : Stack → Stack) : (s.updStk k f).ftu = s.ftu := rfl
@[simp] theorem State.updStk_cores (s : State) (k : Nat) (f : Stack → Stack) : (s.updStk k f).cores = s.cores := rfl
@[simp] theorem State.updStk_dies (s : State) (k : Nat) (f : Stack → Stack) : (s.updStk k f).dies = s.dies := rfl
@[simp] theorem State.updStk_hubs (s : State) (k : Nat) (f : Stack → Stack) : (s.updStk k f).hubs = s.hubs := rfl
@[simp] theorem State.updStk_fab (s : State) (k : Nat) (f : Stack → Stack) : (s.updStk k f).fab = s.fab := rfl
@[simp] theorem State.updStk_faults (s : State) (k : Nat) (f : Stack → Stack) : (s.updStk k f).faults = s.faults := rfl
@[simp] theorem State.updStk_ntc (s : State) (k : Nat) (f : Stack → Stack) : (s.updStk k f).ntc = s.ntc := rfl
@[simp] theorem State.updStk_blkRst (s : State) (k : Nat) (f : Stack → Stack) : (s.updStk k f).blkRst = s.blkRst := rfl
@[simp] theorem State.updStk_flash (s : State) (k : Nat) (f : Stack → Stack) : (s.updStk k f).flash = s.flash := rfl
@[simp] theorem State.updStk_boot (s : State) (k : Nat) (f : Stack → Stack) : (s.updStk k f).boot = s.boot := rfl
@[simp] theorem State.updStk_power (s : State) (k : Nat) (f : Stack → Stack) : (s.updStk k f).power = s.power := rfl
@[simp] theorem State.updStk_tap (s : State) (k : Nat) (f : Stack → Stack) : (s.updStk k f).tap = s.tap := rfl
@[simp] theorem State.updStk_quotas (s : State) (k : Nat) (f : Stack → Stack) : (s.updStk k f).quotas = s.quotas := rfl
@[simp] theorem State.updStk_jobs (s : State) (k : Nat) (f : Stack → Stack) : (s.updStk k f).jobs = s.jobs := rfl
@[simp] theorem State.updStk_sched (s : State) (k : Nat) (f : Stack → Stack) : (s.updStk k f).sched = s.sched := rfl
@[simp] theorem State.updStk_opens (s : State) (k : Nat) (f : Stack → Stack) : (s.updStk k f).opens = s.opens := rfl
@[simp] theorem State.updStk_tiles (s : State) (k : Nat) (f : Stack → Stack) : (s.updStk k f).tiles = s.tiles := rfl
@[simp] theorem State.updStk_partials (s : State) (k : Nat) (f : Stack → Stack) : (s.updStk k f).partials = s.partials := rfl
@[simp] theorem State.updStk_scr (s : State) (k : Nat) (f : Stack → Stack) : (s.updStk k f).scr = s.scr := rfl
@[simp] theorem State.updStk_ctr (s : State) (k : Nat) (f : Stack → Stack) : (s.updStk k f).ctr = s.ctr := rfl
@[simp] theorem State.updStk_phases (s : State) (k : Nat) (f : Stack → Stack) : (s.updStk k f).phases = s.phases := rfl
@[simp] theorem State.updStk_zeroing (s : State) (k : Nat) (f : Stack → Stack) : (s.updStk k f).zeroing = s.zeroing := rfl
@[simp] theorem State.updStk_noJobSeed (s : State) (k : Nat) (f : Stack → Stack) : (s.updStk k f).noJobSeed = s.noJobSeed := rfl
@[simp] theorem State.updStk_noJobGens (s : State) (k : Nat) (f : Stack → Stack) : (s.updStk k f).noJobGens = s.noJobGens := rfl
@[simp] theorem State.updStk_devMem (s : State) (k : Nat) (f : Stack → Stack) : (s.updStk k f).devMem = s.devMem := rfl
@[simp] theorem State.updStk_hostMem (s : State) (k : Nat) (f : Stack → Stack) : (s.updStk k f).hostMem = s.hostMem := rfl
@[simp] theorem State.updStk_remMem (s : State) (k : Nat) (f : Stack → Stack) : (s.updStk k f).remMem = s.remMem := rfl
@[simp] theorem State.updStk_msixOut (s : State) (k : Nat) (f : Stack → Stack) : (s.updStk k f).msixOut = s.msixOut := rfl
@[simp] theorem State.updStk_busRead (s : State) (k : Nat) (f : Stack → Stack) : (s.updStk k f).busRead = s.busRead := rfl
@[simp] theorem State.updStk_tdo (s : State) (k : Nat) (f : Stack → Stack) : (s.updStk k f).tdo = s.tdo := rfl
@[simp] theorem State.updStk_fresh (s : State) (k : Nat) (f : Stack → Stack) : (s.updStk k f).fresh = s.fresh := rfl

/-! ## State.updHub -/

@[simp] theorem State.updHub_pending (s : State) (h : Nat) (f : Hub → Hub) : (s.updHub h f).pending = s.pending := rfl
@[simp] theorem State.updHub_vis (s : State) (h : Nat) (f : Hub → Hub) : (s.updHub h f).vis = s.vis := rfl
@[simp] theorem State.updHub_turnVi (s : State) (h : Nat) (f : Hub → Hub) : (s.updHub h f).turnVi = s.turnVi := rfl
@[simp] theorem State.updHub_ftu (s : State) (h : Nat) (f : Hub → Hub) : (s.updHub h f).ftu = s.ftu := rfl
@[simp] theorem State.updHub_cores (s : State) (h : Nat) (f : Hub → Hub) : (s.updHub h f).cores = s.cores := rfl
@[simp] theorem State.updHub_dies (s : State) (h : Nat) (f : Hub → Hub) : (s.updHub h f).dies = s.dies := rfl
@[simp] theorem State.updHub_stks (s : State) (h : Nat) (f : Hub → Hub) : (s.updHub h f).stks = s.stks := rfl
@[simp] theorem State.updHub_fab (s : State) (h : Nat) (f : Hub → Hub) : (s.updHub h f).fab = s.fab := rfl
@[simp] theorem State.updHub_faults (s : State) (h : Nat) (f : Hub → Hub) : (s.updHub h f).faults = s.faults := rfl
@[simp] theorem State.updHub_ntc (s : State) (h : Nat) (f : Hub → Hub) : (s.updHub h f).ntc = s.ntc := rfl
@[simp] theorem State.updHub_blkRst (s : State) (h : Nat) (f : Hub → Hub) : (s.updHub h f).blkRst = s.blkRst := rfl
@[simp] theorem State.updHub_flash (s : State) (h : Nat) (f : Hub → Hub) : (s.updHub h f).flash = s.flash := rfl
@[simp] theorem State.updHub_boot (s : State) (h : Nat) (f : Hub → Hub) : (s.updHub h f).boot = s.boot := rfl
@[simp] theorem State.updHub_power (s : State) (h : Nat) (f : Hub → Hub) : (s.updHub h f).power = s.power := rfl
@[simp] theorem State.updHub_tap (s : State) (h : Nat) (f : Hub → Hub) : (s.updHub h f).tap = s.tap := rfl
@[simp] theorem State.updHub_quotas (s : State) (h : Nat) (f : Hub → Hub) : (s.updHub h f).quotas = s.quotas := rfl
@[simp] theorem State.updHub_jobs (s : State) (h : Nat) (f : Hub → Hub) : (s.updHub h f).jobs = s.jobs := rfl
@[simp] theorem State.updHub_sched (s : State) (h : Nat) (f : Hub → Hub) : (s.updHub h f).sched = s.sched := rfl
@[simp] theorem State.updHub_opens (s : State) (h : Nat) (f : Hub → Hub) : (s.updHub h f).opens = s.opens := rfl
@[simp] theorem State.updHub_tiles (s : State) (h : Nat) (f : Hub → Hub) : (s.updHub h f).tiles = s.tiles := rfl
@[simp] theorem State.updHub_partials (s : State) (h : Nat) (f : Hub → Hub) : (s.updHub h f).partials = s.partials := rfl
@[simp] theorem State.updHub_scr (s : State) (h : Nat) (f : Hub → Hub) : (s.updHub h f).scr = s.scr := rfl
@[simp] theorem State.updHub_ctr (s : State) (h : Nat) (f : Hub → Hub) : (s.updHub h f).ctr = s.ctr := rfl
@[simp] theorem State.updHub_phases (s : State) (h : Nat) (f : Hub → Hub) : (s.updHub h f).phases = s.phases := rfl
@[simp] theorem State.updHub_zeroing (s : State) (h : Nat) (f : Hub → Hub) : (s.updHub h f).zeroing = s.zeroing := rfl
@[simp] theorem State.updHub_noJobSeed (s : State) (h : Nat) (f : Hub → Hub) : (s.updHub h f).noJobSeed = s.noJobSeed := rfl
@[simp] theorem State.updHub_noJobGens (s : State) (h : Nat) (f : Hub → Hub) : (s.updHub h f).noJobGens = s.noJobGens := rfl
@[simp] theorem State.updHub_devMem (s : State) (h : Nat) (f : Hub → Hub) : (s.updHub h f).devMem = s.devMem := rfl
@[simp] theorem State.updHub_hostMem (s : State) (h : Nat) (f : Hub → Hub) : (s.updHub h f).hostMem = s.hostMem := rfl
@[simp] theorem State.updHub_remMem (s : State) (h : Nat) (f : Hub → Hub) : (s.updHub h f).remMem = s.remMem := rfl
@[simp] theorem State.updHub_msixOut (s : State) (h : Nat) (f : Hub → Hub) : (s.updHub h f).msixOut = s.msixOut := rfl
@[simp] theorem State.updHub_busRead (s : State) (h : Nat) (f : Hub → Hub) : (s.updHub h f).busRead = s.busRead := rfl
@[simp] theorem State.updHub_tdo (s : State) (h : Nat) (f : Hub → Hub) : (s.updHub h f).tdo = s.tdo := rfl
@[simp] theorem State.updHub_fresh (s : State) (h : Nat) (f : Hub → Hub) : (s.updHub h f).fresh = s.fresh := rfl

/-! ## State.updPort -/

@[simp] theorem State.updPort_pending (s : State) (p : Nat) (f : Port → Port) : (s.updPort p f).pending = s.pending := rfl
@[simp] theorem State.updPort_vis (s : State) (p : Nat) (f : Port → Port) : (s.updPort p f).vis = s.vis := rfl
@[simp] theorem State.updPort_turnVi (s : State) (p : Nat) (f : Port → Port) : (s.updPort p f).turnVi = s.turnVi := rfl
@[simp] theorem State.updPort_ftu (s : State) (p : Nat) (f : Port → Port) : (s.updPort p f).ftu = s.ftu := rfl
@[simp] theorem State.updPort_cores (s : State) (p : Nat) (f : Port → Port) : (s.updPort p f).cores = s.cores := rfl
@[simp] theorem State.updPort_dies (s : State) (p : Nat) (f : Port → Port) : (s.updPort p f).dies = s.dies := rfl
@[simp] theorem State.updPort_stks (s : State) (p : Nat) (f : Port → Port) : (s.updPort p f).stks = s.stks := rfl
@[simp] theorem State.updPort_hubs (s : State) (p : Nat) (f : Port → Port) : (s.updPort p f).hubs = s.hubs := rfl
@[simp] theorem State.updPort_faults (s : State) (p : Nat) (f : Port → Port) : (s.updPort p f).faults = s.faults := rfl
@[simp] theorem State.updPort_ntc (s : State) (p : Nat) (f : Port → Port) : (s.updPort p f).ntc = s.ntc := rfl
@[simp] theorem State.updPort_blkRst (s : State) (p : Nat) (f : Port → Port) : (s.updPort p f).blkRst = s.blkRst := rfl
@[simp] theorem State.updPort_flash (s : State) (p : Nat) (f : Port → Port) : (s.updPort p f).flash = s.flash := rfl
@[simp] theorem State.updPort_boot (s : State) (p : Nat) (f : Port → Port) : (s.updPort p f).boot = s.boot := rfl
@[simp] theorem State.updPort_power (s : State) (p : Nat) (f : Port → Port) : (s.updPort p f).power = s.power := rfl
@[simp] theorem State.updPort_tap (s : State) (p : Nat) (f : Port → Port) : (s.updPort p f).tap = s.tap := rfl
@[simp] theorem State.updPort_quotas (s : State) (p : Nat) (f : Port → Port) : (s.updPort p f).quotas = s.quotas := rfl
@[simp] theorem State.updPort_jobs (s : State) (p : Nat) (f : Port → Port) : (s.updPort p f).jobs = s.jobs := rfl
@[simp] theorem State.updPort_sched (s : State) (p : Nat) (f : Port → Port) : (s.updPort p f).sched = s.sched := rfl
@[simp] theorem State.updPort_opens (s : State) (p : Nat) (f : Port → Port) : (s.updPort p f).opens = s.opens := rfl
@[simp] theorem State.updPort_tiles (s : State) (p : Nat) (f : Port → Port) : (s.updPort p f).tiles = s.tiles := rfl
@[simp] theorem State.updPort_partials (s : State) (p : Nat) (f : Port → Port) : (s.updPort p f).partials = s.partials := rfl
@[simp] theorem State.updPort_scr (s : State) (p : Nat) (f : Port → Port) : (s.updPort p f).scr = s.scr := rfl
@[simp] theorem State.updPort_ctr (s : State) (p : Nat) (f : Port → Port) : (s.updPort p f).ctr = s.ctr := rfl
@[simp] theorem State.updPort_phases (s : State) (p : Nat) (f : Port → Port) : (s.updPort p f).phases = s.phases := rfl
@[simp] theorem State.updPort_zeroing (s : State) (p : Nat) (f : Port → Port) : (s.updPort p f).zeroing = s.zeroing := rfl
@[simp] theorem State.updPort_noJobSeed (s : State) (p : Nat) (f : Port → Port) : (s.updPort p f).noJobSeed = s.noJobSeed := rfl
@[simp] theorem State.updPort_noJobGens (s : State) (p : Nat) (f : Port → Port) : (s.updPort p f).noJobGens = s.noJobGens := rfl
@[simp] theorem State.updPort_devMem (s : State) (p : Nat) (f : Port → Port) : (s.updPort p f).devMem = s.devMem := rfl
@[simp] theorem State.updPort_hostMem (s : State) (p : Nat) (f : Port → Port) : (s.updPort p f).hostMem = s.hostMem := rfl
@[simp] theorem State.updPort_remMem (s : State) (p : Nat) (f : Port → Port) : (s.updPort p f).remMem = s.remMem := rfl
@[simp] theorem State.updPort_msixOut (s : State) (p : Nat) (f : Port → Port) : (s.updPort p f).msixOut = s.msixOut := rfl
@[simp] theorem State.updPort_busRead (s : State) (p : Nat) (f : Port → Port) : (s.updPort p f).busRead = s.busRead := rfl
@[simp] theorem State.updPort_tdo (s : State) (p : Nat) (f : Port → Port) : (s.updPort p f).tdo = s.tdo := rfl
@[simp] theorem State.updPort_fresh (s : State) (p : Nat) (f : Port → Port) : (s.updPort p f).fresh = s.fresh := rfl

/-! ## State.updFault -/

@[simp] theorem State.updFault_pending (s : State) (u : Nat) (f : FaultUnit → FaultUnit) : (s.updFault u f).pending = s.pending := rfl
@[simp] theorem State.updFault_vis (s : State) (u : Nat) (f : FaultUnit → FaultUnit) : (s.updFault u f).vis = s.vis := rfl
@[simp] theorem State.updFault_turnVi (s : State) (u : Nat) (f : FaultUnit → FaultUnit) : (s.updFault u f).turnVi = s.turnVi := rfl
@[simp] theorem State.updFault_ftu (s : State) (u : Nat) (f : FaultUnit → FaultUnit) : (s.updFault u f).ftu = s.ftu := rfl
@[simp] theorem State.updFault_cores (s : State) (u : Nat) (f : FaultUnit → FaultUnit) : (s.updFault u f).cores = s.cores := rfl
@[simp] theorem State.updFault_dies (s : State) (u : Nat) (f : FaultUnit → FaultUnit) : (s.updFault u f).dies = s.dies := rfl
@[simp] theorem State.updFault_stks (s : State) (u : Nat) (f : FaultUnit → FaultUnit) : (s.updFault u f).stks = s.stks := rfl
@[simp] theorem State.updFault_hubs (s : State) (u : Nat) (f : FaultUnit → FaultUnit) : (s.updFault u f).hubs = s.hubs := rfl
@[simp] theorem State.updFault_fab (s : State) (u : Nat) (f : FaultUnit → FaultUnit) : (s.updFault u f).fab = s.fab := rfl
@[simp] theorem State.updFault_ntc (s : State) (u : Nat) (f : FaultUnit → FaultUnit) : (s.updFault u f).ntc = s.ntc := rfl
@[simp] theorem State.updFault_blkRst (s : State) (u : Nat) (f : FaultUnit → FaultUnit) : (s.updFault u f).blkRst = s.blkRst := rfl
@[simp] theorem State.updFault_flash (s : State) (u : Nat) (f : FaultUnit → FaultUnit) : (s.updFault u f).flash = s.flash := rfl
@[simp] theorem State.updFault_boot (s : State) (u : Nat) (f : FaultUnit → FaultUnit) : (s.updFault u f).boot = s.boot := rfl
@[simp] theorem State.updFault_power (s : State) (u : Nat) (f : FaultUnit → FaultUnit) : (s.updFault u f).power = s.power := rfl
@[simp] theorem State.updFault_tap (s : State) (u : Nat) (f : FaultUnit → FaultUnit) : (s.updFault u f).tap = s.tap := rfl
@[simp] theorem State.updFault_quotas (s : State) (u : Nat) (f : FaultUnit → FaultUnit) : (s.updFault u f).quotas = s.quotas := rfl
@[simp] theorem State.updFault_jobs (s : State) (u : Nat) (f : FaultUnit → FaultUnit) : (s.updFault u f).jobs = s.jobs := rfl
@[simp] theorem State.updFault_sched (s : State) (u : Nat) (f : FaultUnit → FaultUnit) : (s.updFault u f).sched = s.sched := rfl
@[simp] theorem State.updFault_opens (s : State) (u : Nat) (f : FaultUnit → FaultUnit) : (s.updFault u f).opens = s.opens := rfl
@[simp] theorem State.updFault_tiles (s : State) (u : Nat) (f : FaultUnit → FaultUnit) : (s.updFault u f).tiles = s.tiles := rfl
@[simp] theorem State.updFault_partials (s : State) (u : Nat) (f : FaultUnit → FaultUnit) : (s.updFault u f).partials = s.partials := rfl
@[simp] theorem State.updFault_scr (s : State) (u : Nat) (f : FaultUnit → FaultUnit) : (s.updFault u f).scr = s.scr := rfl
@[simp] theorem State.updFault_ctr (s : State) (u : Nat) (f : FaultUnit → FaultUnit) : (s.updFault u f).ctr = s.ctr := rfl
@[simp] theorem State.updFault_phases (s : State) (u : Nat) (f : FaultUnit → FaultUnit) : (s.updFault u f).phases = s.phases := rfl
@[simp] theorem State.updFault_zeroing (s : State) (u : Nat) (f : FaultUnit → FaultUnit) : (s.updFault u f).zeroing = s.zeroing := rfl
@[simp] theorem State.updFault_noJobSeed (s : State) (u : Nat) (f : FaultUnit → FaultUnit) : (s.updFault u f).noJobSeed = s.noJobSeed := rfl
@[simp] theorem State.updFault_noJobGens (s : State) (u : Nat) (f : FaultUnit → FaultUnit) : (s.updFault u f).noJobGens = s.noJobGens := rfl
@[simp] theorem State.updFault_devMem (s : State) (u : Nat) (f : FaultUnit → FaultUnit) : (s.updFault u f).devMem = s.devMem := rfl
@[simp] theorem State.updFault_hostMem (s : State) (u : Nat) (f : FaultUnit → FaultUnit) : (s.updFault u f).hostMem = s.hostMem := rfl
@[simp] theorem State.updFault_remMem (s : State) (u : Nat) (f : FaultUnit → FaultUnit) : (s.updFault u f).remMem = s.remMem := rfl
@[simp] theorem State.updFault_msixOut (s : State) (u : Nat) (f : FaultUnit → FaultUnit) : (s.updFault u f).msixOut = s.msixOut := rfl
@[simp] theorem State.updFault_busRead (s : State) (u : Nat) (f : FaultUnit → FaultUnit) : (s.updFault u f).busRead = s.busRead := rfl
@[simp] theorem State.updFault_tdo (s : State) (u : Nat) (f : FaultUnit → FaultUnit) : (s.updFault u f).tdo = s.tdo := rfl
@[simp] theorem State.updFault_fresh (s : State) (u : Nat) (f : FaultUnit → FaultUnit) : (s.updFault u f).fresh = s.fresh := rfl

/-! ## State.updJob -/

@[simp] theorem State.updJob_pending (s : State) (id : Nat) (f : Job → Job) : (s.updJob id f).pending = s.pending := rfl
@[simp] theorem State.updJob_vis (s : State) (id : Nat) (f : Job → Job) : (s.updJob id f).vis = s.vis := rfl
@[simp] theorem State.updJob_turnVi (s : State) (id : Nat) (f : Job → Job) : (s.updJob id f).turnVi = s.turnVi := rfl
@[simp] theorem State.updJob_ftu (s : State) (id : Nat) (f : Job → Job) : (s.updJob id f).ftu = s.ftu := rfl
@[simp] theorem State.updJob_cores (s : State) (id : Nat) (f : Job → Job) : (s.updJob id f).cores = s.cores := rfl
@[simp] theorem State.updJob_dies (s : State) (id : Nat) (f : Job → Job) : (s.updJob id f).dies = s.dies := rfl
@[simp] theorem State.updJob_stks (s : State) (id : Nat) (f : Job → Job) : (s.updJob id f).stks = s.stks := rfl
@[simp] theorem State.updJob_hubs (s : State) (id : Nat) (f : Job → Job) : (s.updJob id f).hubs = s.hubs := rfl
@[simp] theorem State.updJob_fab (s : State) (id : Nat) (f : Job → Job) : (s.updJob id f).fab = s.fab := rfl
@[simp] theorem State.updJob_faults (s : State) (id : Nat) (f : Job → Job) : (s.updJob id f).faults = s.faults := rfl
@[simp] theorem State.updJob_ntc (s : State) (id : Nat) (f : Job → Job) : (s.updJob id f).ntc = s.ntc := rfl
@[simp] theorem State.updJob_blkRst (s : State) (id : Nat) (f : Job → Job) : (s.updJob id f).blkRst = s.blkRst := rfl
@[simp] theorem State.updJob_flash (s : State) (id : Nat) (f : Job → Job) : (s.updJob id f).flash = s.flash := rfl
@[simp] theorem State.updJob_boot (s : State) (id : Nat) (f : Job → Job) : (s.updJob id f).boot = s.boot := rfl
@[simp] theorem State.updJob_power (s : State) (id : Nat) (f : Job → Job) : (s.updJob id f).power = s.power := rfl
@[simp] theorem State.updJob_tap (s : State) (id : Nat) (f : Job → Job) : (s.updJob id f).tap = s.tap := rfl
@[simp] theorem State.updJob_quotas (s : State) (id : Nat) (f : Job → Job) : (s.updJob id f).quotas = s.quotas := rfl
@[simp] theorem State.updJob_sched (s : State) (id : Nat) (f : Job → Job) : (s.updJob id f).sched = s.sched := rfl
@[simp] theorem State.updJob_opens (s : State) (id : Nat) (f : Job → Job) : (s.updJob id f).opens = s.opens := rfl
@[simp] theorem State.updJob_tiles (s : State) (id : Nat) (f : Job → Job) : (s.updJob id f).tiles = s.tiles := rfl
@[simp] theorem State.updJob_partials (s : State) (id : Nat) (f : Job → Job) : (s.updJob id f).partials = s.partials := rfl
@[simp] theorem State.updJob_scr (s : State) (id : Nat) (f : Job → Job) : (s.updJob id f).scr = s.scr := rfl
@[simp] theorem State.updJob_ctr (s : State) (id : Nat) (f : Job → Job) : (s.updJob id f).ctr = s.ctr := rfl
@[simp] theorem State.updJob_phases (s : State) (id : Nat) (f : Job → Job) : (s.updJob id f).phases = s.phases := rfl
@[simp] theorem State.updJob_zeroing (s : State) (id : Nat) (f : Job → Job) : (s.updJob id f).zeroing = s.zeroing := rfl
@[simp] theorem State.updJob_noJobSeed (s : State) (id : Nat) (f : Job → Job) : (s.updJob id f).noJobSeed = s.noJobSeed := rfl
@[simp] theorem State.updJob_noJobGens (s : State) (id : Nat) (f : Job → Job) : (s.updJob id f).noJobGens = s.noJobGens := rfl
@[simp] theorem State.updJob_devMem (s : State) (id : Nat) (f : Job → Job) : (s.updJob id f).devMem = s.devMem := rfl
@[simp] theorem State.updJob_hostMem (s : State) (id : Nat) (f : Job → Job) : (s.updJob id f).hostMem = s.hostMem := rfl
@[simp] theorem State.updJob_remMem (s : State) (id : Nat) (f : Job → Job) : (s.updJob id f).remMem = s.remMem := rfl
@[simp] theorem State.updJob_msixOut (s : State) (id : Nat) (f : Job → Job) : (s.updJob id f).msixOut = s.msixOut := rfl
@[simp] theorem State.updJob_busRead (s : State) (id : Nat) (f : Job → Job) : (s.updJob id f).busRead = s.busRead := rfl
@[simp] theorem State.updJob_tdo (s : State) (id : Nat) (f : Job → Job) : (s.updJob id f).tdo = s.tdo := rfl
@[simp] theorem State.updJob_fresh (s : State) (id : Nat) (f : Job → Job) : (s.updJob id f).fresh = s.fresh := rfl

/-! ## State.updFtu -/

@[simp] theorem State.updFtu_pending (s : State) (f : Ftu → Ftu) : (s.updFtu f).pending = s.pending := rfl
@[simp] theorem State.updFtu_vis (s : State) (f : Ftu → Ftu) : (s.updFtu f).vis = s.vis := rfl
@[simp] theorem State.updFtu_turnVi (s : State) (f : Ftu → Ftu) : (s.updFtu f).turnVi = s.turnVi := rfl
@[simp] theorem State.updFtu_cores (s : State) (f : Ftu → Ftu) : (s.updFtu f).cores = s.cores := rfl
@[simp] theorem State.updFtu_dies (s : State) (f : Ftu → Ftu) : (s.updFtu f).dies = s.dies := rfl
@[simp] theorem State.updFtu_stks (s : State) (f : Ftu → Ftu) : (s.updFtu f).stks = s.stks := rfl
@[simp] theorem State.updFtu_hubs (s : State) (f : Ftu → Ftu) : (s.updFtu f).hubs = s.hubs := rfl
@[simp] theorem State.updFtu_fab (s : State) (f : Ftu → Ftu) : (s.updFtu f).fab = s.fab := rfl
@[simp] theorem State.updFtu_faults (s : State) (f : Ftu → Ftu) : (s.updFtu f).faults = s.faults := rfl
@[simp] theorem State.updFtu_ntc (s : State) (f : Ftu → Ftu) : (s.updFtu f).ntc = s.ntc := rfl
@[simp] theorem State.updFtu_blkRst (s : State) (f : Ftu → Ftu) : (s.updFtu f).blkRst = s.blkRst := rfl
@[simp] theorem State.updFtu_flash (s : State) (f : Ftu → Ftu) : (s.updFtu f).flash = s.flash := rfl
@[simp] theorem State.updFtu_boot (s : State) (f : Ftu → Ftu) : (s.updFtu f).boot = s.boot := rfl
@[simp] theorem State.updFtu_power (s : State) (f : Ftu → Ftu) : (s.updFtu f).power = s.power := rfl
@[simp] theorem State.updFtu_tap (s : State) (f : Ftu → Ftu) : (s.updFtu f).tap = s.tap := rfl
@[simp] theorem State.updFtu_quotas (s : State) (f : Ftu → Ftu) : (s.updFtu f).quotas = s.quotas := rfl
@[simp] theorem State.updFtu_jobs (s : State) (f : Ftu → Ftu) : (s.updFtu f).jobs = s.jobs := rfl
@[simp] theorem State.updFtu_sched (s : State) (f : Ftu → Ftu) : (s.updFtu f).sched = s.sched := rfl
@[simp] theorem State.updFtu_opens (s : State) (f : Ftu → Ftu) : (s.updFtu f).opens = s.opens := rfl
@[simp] theorem State.updFtu_tiles (s : State) (f : Ftu → Ftu) : (s.updFtu f).tiles = s.tiles := rfl
@[simp] theorem State.updFtu_partials (s : State) (f : Ftu → Ftu) : (s.updFtu f).partials = s.partials := rfl
@[simp] theorem State.updFtu_scr (s : State) (f : Ftu → Ftu) : (s.updFtu f).scr = s.scr := rfl
@[simp] theorem State.updFtu_ctr (s : State) (f : Ftu → Ftu) : (s.updFtu f).ctr = s.ctr := rfl
@[simp] theorem State.updFtu_phases (s : State) (f : Ftu → Ftu) : (s.updFtu f).phases = s.phases := rfl
@[simp] theorem State.updFtu_zeroing (s : State) (f : Ftu → Ftu) : (s.updFtu f).zeroing = s.zeroing := rfl
@[simp] theorem State.updFtu_noJobSeed (s : State) (f : Ftu → Ftu) : (s.updFtu f).noJobSeed = s.noJobSeed := rfl
@[simp] theorem State.updFtu_noJobGens (s : State) (f : Ftu → Ftu) : (s.updFtu f).noJobGens = s.noJobGens := rfl
@[simp] theorem State.updFtu_devMem (s : State) (f : Ftu → Ftu) : (s.updFtu f).devMem = s.devMem := rfl
@[simp] theorem State.updFtu_hostMem (s : State) (f : Ftu → Ftu) : (s.updFtu f).hostMem = s.hostMem := rfl
@[simp] theorem State.updFtu_remMem (s : State) (f : Ftu → Ftu) : (s.updFtu f).remMem = s.remMem := rfl
@[simp] theorem State.updFtu_msixOut (s : State) (f : Ftu → Ftu) : (s.updFtu f).msixOut = s.msixOut := rfl
@[simp] theorem State.updFtu_busRead (s : State) (f : Ftu → Ftu) : (s.updFtu f).busRead = s.busRead := rfl
@[simp] theorem State.updFtu_tdo (s : State) (f : Ftu → Ftu) : (s.updFtu f).tdo = s.tdo := rfl
@[simp] theorem State.updFtu_fresh (s : State) (f : Ftu → Ftu) : (s.updFtu f).fresh = s.fresh := rfl

/-! ## State.openCmd -/

@[simp] theorem State.openCmd_pending (s : State) (p : Packet) (g : Progress) : (s.openCmd p g).pending = s.pending := rfl
@[simp] theorem State.openCmd_vis (s : State) (p : Packet) (g : Progress) : (s.openCmd p g).vis = s.vis := rfl
@[simp] theorem State.openCmd_turnVi (s : State) (p : Packet) (g : Progress) : (s.openCmd p g).turnVi = s.turnVi := rfl
@[simp] theorem State.openCmd_ftu (s : State) (p : Packet) (g : Progress) : (s.openCmd p g).ftu = s.ftu := rfl
@[simp] theorem State.openCmd_cores (s : State) (p : Packet) (g : Progress) : (s.openCmd p g).cores = s.cores := rfl
@[simp] theorem State.openCmd_dies (s : State) (p : Packet) (g : Progress) : (s.openCmd p g).dies = s.dies := rfl
@[simp] theorem State.openCmd_stks (s : State) (p : Packet) (g : Progress) : (s.openCmd p g).stks = s.stks := rfl
@[simp] theorem State.openCmd_hubs (s : State) (p : Packet) (g : Progress) : (s.openCmd p g).hubs = s.hubs := rfl
@[simp] theorem State.openCmd_fab (s : State) (p : Packet) (g : Progress) : (s.openCmd p g).fab = s.fab := rfl
@[simp] theorem State.openCmd_faults (s : State) (p : Packet) (g : Progress) : (s.openCmd p g).faults = s.faults := rfl
@[simp] theorem State.openCmd_ntc (s : State) (p : Packet) (g : Progress) : (s.openCmd p g).ntc = s.ntc := rfl
@[simp] theorem State.openCmd_blkRst (s : State) (p : Packet) (g : Progress) : (s.openCmd p g).blkRst = s.blkRst := rfl
@[simp] theorem State.openCmd_flash (s : State) (p : Packet) (g : Progress) : (s.openCmd p g).flash = s.flash := rfl
@[simp] theorem State.openCmd_boot (s : State) (p : Packet) (g : Progress) : (s.openCmd p g).boot = s.boot := rfl
@[simp] theorem State.openCmd_power (s : State) (p : Packet) (g : Progress) : (s.openCmd p g).power = s.power := rfl
@[simp] theorem State.openCmd_tap (s : State) (p : Packet) (g : Progress) : (s.openCmd p g).tap = s.tap := rfl
@[simp] theorem State.openCmd_quotas (s : State) (p : Packet) (g : Progress) : (s.openCmd p g).quotas = s.quotas := rfl
@[simp] theorem State.openCmd_jobs (s : State) (p : Packet) (g : Progress) : (s.openCmd p g).jobs = s.jobs := rfl
@[simp] theorem State.openCmd_sched (s : State) (p : Packet) (g : Progress) : (s.openCmd p g).sched = s.sched := rfl
@[simp] theorem State.openCmd_tiles (s : State) (p : Packet) (g : Progress) : (s.openCmd p g).tiles = s.tiles := rfl
@[simp] theorem State.openCmd_partials (s : State) (p : Packet) (g : Progress) : (s.openCmd p g).partials = s.partials := rfl
@[simp] theorem State.openCmd_scr (s : State) (p : Packet) (g : Progress) : (s.openCmd p g).scr = s.scr := rfl
@[simp] theorem State.openCmd_ctr (s : State) (p : Packet) (g : Progress) : (s.openCmd p g).ctr = s.ctr := rfl
@[simp] theorem State.openCmd_phases (s : State) (p : Packet) (g : Progress) : (s.openCmd p g).phases = s.phases := rfl
@[simp] theorem State.openCmd_zeroing (s : State) (p : Packet) (g : Progress) : (s.openCmd p g).zeroing = s.zeroing := rfl
@[simp] theorem State.openCmd_noJobSeed (s : State) (p : Packet) (g : Progress) : (s.openCmd p g).noJobSeed = s.noJobSeed := rfl
@[simp] theorem State.openCmd_noJobGens (s : State) (p : Packet) (g : Progress) : (s.openCmd p g).noJobGens = s.noJobGens := rfl
@[simp] theorem State.openCmd_devMem (s : State) (p : Packet) (g : Progress) : (s.openCmd p g).devMem = s.devMem := rfl
@[simp] theorem State.openCmd_hostMem (s : State) (p : Packet) (g : Progress) : (s.openCmd p g).hostMem = s.hostMem := rfl
@[simp] theorem State.openCmd_remMem (s : State) (p : Packet) (g : Progress) : (s.openCmd p g).remMem = s.remMem := rfl
@[simp] theorem State.openCmd_msixOut (s : State) (p : Packet) (g : Progress) : (s.openCmd p g).msixOut = s.msixOut := rfl
@[simp] theorem State.openCmd_busRead (s : State) (p : Packet) (g : Progress) : (s.openCmd p g).busRead = s.busRead := rfl
@[simp] theorem State.openCmd_tdo (s : State) (p : Packet) (g : Progress) : (s.openCmd p g).tdo = s.tdo := rfl
@[simp] theorem State.openCmd_fresh (s : State) (p : Packet) (g : Progress) : (s.openCmd p g).fresh = s.fresh := rfl

/-! ## State.setProg -/

@[simp] theorem State.setProg_pending (s : State) (k : Key) (g : Progress) : (s.setProg k g).pending = s.pending := rfl
@[simp] theorem State.setProg_vis (s : State) (k : Key) (g : Progress) : (s.setProg k g).vis = s.vis := rfl
@[simp] theorem State.setProg_turnVi (s : State) (k : Key) (g : Progress) : (s.setProg k g).turnVi = s.turnVi := rfl
@[simp] theorem State.setProg_ftu (s : State) (k : Key) (g : Progress) : (s.setProg k g).ftu = s.ftu := rfl
@[simp] theorem State.setProg_cores (s : State) (k : Key) (g : Progress) : (s.setProg k g).cores = s.cores := rfl
@[simp] theorem State.setProg_dies (s : State) (k : Key) (g : Progress) : (s.setProg k g).dies = s.dies := rfl
@[simp] theorem State.setProg_stks (s : State) (k : Key) (g : Progress) : (s.setProg k g).stks = s.stks := rfl
@[simp] theorem State.setProg_hubs (s : State) (k : Key) (g : Progress) : (s.setProg k g).hubs = s.hubs := rfl
@[simp] theorem State.setProg_fab (s : State) (k : Key) (g : Progress) : (s.setProg k g).fab = s.fab := rfl
@[simp] theorem State.setProg_faults (s : State) (k : Key) (g : Progress) : (s.setProg k g).faults = s.faults := rfl
@[simp] theorem State.setProg_ntc (s : State) (k : Key) (g : Progress) : (s.setProg k g).ntc = s.ntc := rfl
@[simp] theorem State.setProg_blkRst (s : State) (k : Key) (g : Progress) : (s.setProg k g).blkRst = s.blkRst := rfl
@[simp] theorem State.setProg_flash (s : State) (k : Key) (g : Progress) : (s.setProg k g).flash = s.flash := rfl
@[simp] theorem State.setProg_boot (s : State) (k : Key) (g : Progress) : (s.setProg k g).boot = s.boot := rfl
@[simp] theorem State.setProg_power (s : State) (k : Key) (g : Progress) : (s.setProg k g).power = s.power := rfl
@[simp] theorem State.setProg_tap (s : State) (k : Key) (g : Progress) : (s.setProg k g).tap = s.tap := rfl
@[simp] theorem State.setProg_quotas (s : State) (k : Key) (g : Progress) : (s.setProg k g).quotas = s.quotas := rfl
@[simp] theorem State.setProg_jobs (s : State) (k : Key) (g : Progress) : (s.setProg k g).jobs = s.jobs := rfl
@[simp] theorem State.setProg_sched (s : State) (k : Key) (g : Progress) : (s.setProg k g).sched = s.sched := rfl
@[simp] theorem State.setProg_tiles (s : State) (k : Key) (g : Progress) : (s.setProg k g).tiles = s.tiles := rfl
@[simp] theorem State.setProg_partials (s : State) (k : Key) (g : Progress) : (s.setProg k g).partials = s.partials := rfl
@[simp] theorem State.setProg_scr (s : State) (k : Key) (g : Progress) : (s.setProg k g).scr = s.scr := rfl
@[simp] theorem State.setProg_ctr (s : State) (k : Key) (g : Progress) : (s.setProg k g).ctr = s.ctr := rfl
@[simp] theorem State.setProg_phases (s : State) (k : Key) (g : Progress) : (s.setProg k g).phases = s.phases := rfl
@[simp] theorem State.setProg_zeroing (s : State) (k : Key) (g : Progress) : (s.setProg k g).zeroing = s.zeroing := rfl
@[simp] theorem State.setProg_noJobSeed (s : State) (k : Key) (g : Progress) : (s.setProg k g).noJobSeed = s.noJobSeed := rfl
@[simp] theorem State.setProg_noJobGens (s : State) (k : Key) (g : Progress) : (s.setProg k g).noJobGens = s.noJobGens := rfl
@[simp] theorem State.setProg_devMem (s : State) (k : Key) (g : Progress) : (s.setProg k g).devMem = s.devMem := rfl
@[simp] theorem State.setProg_hostMem (s : State) (k : Key) (g : Progress) : (s.setProg k g).hostMem = s.hostMem := rfl
@[simp] theorem State.setProg_remMem (s : State) (k : Key) (g : Progress) : (s.setProg k g).remMem = s.remMem := rfl
@[simp] theorem State.setProg_msixOut (s : State) (k : Key) (g : Progress) : (s.setProg k g).msixOut = s.msixOut := rfl
@[simp] theorem State.setProg_busRead (s : State) (k : Key) (g : Progress) : (s.setProg k g).busRead = s.busRead := rfl
@[simp] theorem State.setProg_tdo (s : State) (k : Key) (g : Progress) : (s.setProg k g).tdo = s.tdo := rfl
@[simp] theorem State.setProg_fresh (s : State) (k : Key) (g : Progress) : (s.setProg k g).fresh = s.fresh := rfl

/-! ## State.closeCmd -/

@[simp] theorem State.closeCmd_pending (s : State) (k : Key) : (s.closeCmd k).pending = s.pending := rfl
@[simp] theorem State.closeCmd_vis (s : State) (k : Key) : (s.closeCmd k).vis = s.vis := rfl
@[simp] theorem State.closeCmd_turnVi (s : State) (k : Key) : (s.closeCmd k).turnVi = s.turnVi := rfl
@[simp] theorem State.closeCmd_ftu (s : State) (k : Key) : (s.closeCmd k).ftu = s.ftu := rfl
@[simp] theorem State.closeCmd_cores (s : State) (k : Key) : (s.closeCmd k).cores = s.cores := rfl
@[simp] theorem State.closeCmd_dies (s : State) (k : Key) : (s.closeCmd k).dies = s.dies := rfl
@[simp] theorem State.closeCmd_stks (s : State) (k : Key) : (s.closeCmd k).stks = s.stks := rfl
@[simp] theorem State.closeCmd_hubs (s : State) (k : Key) : (s.closeCmd k).hubs = s.hubs := rfl
@[simp] theorem State.closeCmd_fab (s : State) (k : Key) : (s.closeCmd k).fab = s.fab := rfl
@[simp] theorem State.closeCmd_faults (s : State) (k : Key) : (s.closeCmd k).faults = s.faults := rfl
@[simp] theorem State.closeCmd_ntc (s : State) (k : Key) : (s.closeCmd k).ntc = s.ntc := rfl
@[simp] theorem State.closeCmd_blkRst (s : State) (k : Key) : (s.closeCmd k).blkRst = s.blkRst := rfl
@[simp] theorem State.closeCmd_flash (s : State) (k : Key) : (s.closeCmd k).flash = s.flash := rfl
@[simp] theorem State.closeCmd_boot (s : State) (k : Key) : (s.closeCmd k).boot = s.boot := rfl
@[simp] theorem State.closeCmd_power (s : State) (k : Key) : (s.closeCmd k).power = s.power := rfl
@[simp] theorem State.closeCmd_tap (s : State) (k : Key) : (s.closeCmd k).tap = s.tap := rfl
@[simp] theorem State.closeCmd_quotas (s : State) (k : Key) : (s.closeCmd k).quotas = s.quotas := rfl
@[simp] theorem State.closeCmd_jobs (s : State) (k : Key) : (s.closeCmd k).jobs = s.jobs := rfl
@[simp] theorem State.closeCmd_sched (s : State) (k : Key) : (s.closeCmd k).sched = s.sched := rfl
@[simp] theorem State.closeCmd_tiles (s : State) (k : Key) : (s.closeCmd k).tiles = s.tiles := rfl
@[simp] theorem State.closeCmd_partials (s : State) (k : Key) : (s.closeCmd k).partials = s.partials := rfl
@[simp] theorem State.closeCmd_scr (s : State) (k : Key) : (s.closeCmd k).scr = s.scr := rfl
@[simp] theorem State.closeCmd_ctr (s : State) (k : Key) : (s.closeCmd k).ctr = s.ctr := rfl
@[simp] theorem State.closeCmd_phases (s : State) (k : Key) : (s.closeCmd k).phases = s.phases := rfl
@[simp] theorem State.closeCmd_zeroing (s : State) (k : Key) : (s.closeCmd k).zeroing = s.zeroing := rfl
@[simp] theorem State.closeCmd_noJobSeed (s : State) (k : Key) : (s.closeCmd k).noJobSeed = s.noJobSeed := rfl
@[simp] theorem State.closeCmd_noJobGens (s : State) (k : Key) : (s.closeCmd k).noJobGens = s.noJobGens := rfl
@[simp] theorem State.closeCmd_devMem (s : State) (k : Key) : (s.closeCmd k).devMem = s.devMem := rfl
@[simp] theorem State.closeCmd_hostMem (s : State) (k : Key) : (s.closeCmd k).hostMem = s.hostMem := rfl
@[simp] theorem State.closeCmd_remMem (s : State) (k : Key) : (s.closeCmd k).remMem = s.remMem := rfl
@[simp] theorem State.closeCmd_msixOut (s : State) (k : Key) : (s.closeCmd k).msixOut = s.msixOut := rfl
@[simp] theorem State.closeCmd_busRead (s : State) (k : Key) : (s.closeCmd k).busRead = s.busRead := rfl
@[simp] theorem State.closeCmd_tdo (s : State) (k : Key) : (s.closeCmd k).tdo = s.tdo := rfl
@[simp] theorem State.closeCmd_fresh (s : State) (k : Key) : (s.closeCmd k).fresh = s.fresh := rfl

/-! ## State.nextFree -/

@[simp] theorem State.nextFree_pending (s : State) : (s.nextFree).pending = s.pending := rfl
@[simp] theorem State.nextFree_vis (s : State) : (s.nextFree).vis = s.vis := rfl
@[simp] theorem State.nextFree_turnVi (s : State) : (s.nextFree).turnVi = s.turnVi := rfl
@[simp] theorem State.nextFree_ftu (s : State) : (s.nextFree).ftu = s.ftu := rfl
@[simp] theorem State.nextFree_cores (s : State) : (s.nextFree).cores = s.cores := rfl
@[simp] theorem State.nextFree_dies (s : State) : (s.nextFree).dies = s.dies := rfl
@[simp] theorem State.nextFree_stks (s : State) : (s.nextFree).stks = s.stks := rfl
@[simp] theorem State.nextFree_hubs (s : State) : (s.nextFree).hubs = s.hubs := rfl
@[simp] theorem State.nextFree_fab (s : State) : (s.nextFree).fab = s.fab := rfl
@[simp] theorem State.nextFree_faults (s : State) : (s.nextFree).faults = s.faults := rfl
@[simp] theorem State.nextFree_ntc (s : State) : (s.nextFree).ntc = s.ntc := rfl
@[simp] theorem State.nextFree_blkRst (s : State) : (s.nextFree).blkRst = s.blkRst := rfl
@[simp] theorem State.nextFree_flash (s : State) : (s.nextFree).flash = s.flash := rfl
@[simp] theorem State.nextFree_boot (s : State) : (s.nextFree).boot = s.boot := rfl
@[simp] theorem State.nextFree_power (s : State) : (s.nextFree).power = s.power := rfl
@[simp] theorem State.nextFree_tap (s : State) : (s.nextFree).tap = s.tap := rfl
@[simp] theorem State.nextFree_quotas (s : State) : (s.nextFree).quotas = s.quotas := rfl
@[simp] theorem State.nextFree_jobs (s : State) : (s.nextFree).jobs = s.jobs := rfl
@[simp] theorem State.nextFree_sched (s : State) : (s.nextFree).sched = s.sched := rfl
@[simp] theorem State.nextFree_opens (s : State) : (s.nextFree).opens = s.opens := rfl
@[simp] theorem State.nextFree_tiles (s : State) : (s.nextFree).tiles = s.tiles := rfl
@[simp] theorem State.nextFree_partials (s : State) : (s.nextFree).partials = s.partials := rfl
@[simp] theorem State.nextFree_scr (s : State) : (s.nextFree).scr = s.scr := rfl
@[simp] theorem State.nextFree_ctr (s : State) : (s.nextFree).ctr = s.ctr := rfl
@[simp] theorem State.nextFree_phases (s : State) : (s.nextFree).phases = s.phases := rfl
@[simp] theorem State.nextFree_zeroing (s : State) : (s.nextFree).zeroing = s.zeroing := rfl
@[simp] theorem State.nextFree_noJobSeed (s : State) : (s.nextFree).noJobSeed = s.noJobSeed := rfl
@[simp] theorem State.nextFree_noJobGens (s : State) : (s.nextFree).noJobGens = s.noJobGens := rfl
@[simp] theorem State.nextFree_devMem (s : State) : (s.nextFree).devMem = s.devMem := rfl
@[simp] theorem State.nextFree_hostMem (s : State) : (s.nextFree).hostMem = s.hostMem := rfl
@[simp] theorem State.nextFree_remMem (s : State) : (s.nextFree).remMem = s.remMem := rfl
@[simp] theorem State.nextFree_msixOut (s : State) : (s.nextFree).msixOut = s.msixOut := rfl
@[simp] theorem State.nextFree_busRead (s : State) : (s.nextFree).busRead = s.busRead := rfl
@[simp] theorem State.nextFree_tdo (s : State) : (s.nextFree).tdo = s.tdo := rfl

end Sys2Proof.Machine
end

