-- ==== Sys2Proof/Laws/Dispatch.lean ====
section
/-! SUPPORT. What a packet whose dispatch has come runs, row by row, and what an event at an existing unit answers. -/

namespace Sys2Proof.Machine

open Sys2Proof

/-! ## The state in which a packet acts -/

/-- Taking a packet out of the fetched ones changes its SQ alone. -/
theorem taken_eq (p : Packet) (s : State) : taken p s = { s with vis := (taken p s).vis } := by
  unfold taken
  split <;> rfl

@[simp] theorem taken_jobs (p : Packet) (s : State) : (taken p s).jobs = s.jobs := by rw [taken_eq]
@[simp] theorem taken_opens (p : Packet) (s : State) : (taken p s).opens = s.opens := by rw [taken_eq]
@[simp] theorem taken_pending (p : Packet) (s : State) : (taken p s).pending = s.pending := by rw [taken_eq]
@[simp] theorem taken_ftu (p : Packet) (s : State) : (taken p s).ftu = s.ftu := by rw [taken_eq]
@[simp] theorem taken_fab (p : Packet) (s : State) : (taken p s).fab = s.fab := by rw [taken_eq]
@[simp] theorem taken_devMem (p : Packet) (s : State) : (taken p s).devMem = s.devMem := by rw [taken_eq]
@[simp] theorem taken_hostMem (p : Packet) (s : State) : (taken p s).hostMem = s.hostMem := by rw [taken_eq]
@[simp] theorem taken_remMem (p : Packet) (s : State) : (taken p s).remMem = s.remMem := by rw [taken_eq]

/-- The jobs are found as before. -/
@[simp] theorem taken_job? (p : Packet) (s : State) (id : Nat) : (taken p s).job? id = s.job? id := by
  simp [State.job?]

/-- The packets that wait in the SQ are those before. -/
@[simp] theorem taken_waiting (p : Packet) (s : State) :
    (((taken p s).vi p.vi).sq p.sq).waiting = ((s.vi p.vi).sq p.sq).waiting := by
  unfold taken
  split
  · rw [State.updSq_sq_same]
  · rfl

/-! ## Dispatch -/

/-- A packet whose dispatch has come runs its effect in the state in which it is taken. -/
theorem submit_of_dispatches (eff : Packet → State → State) {p : Packet} {s : State} (h : dispatches p s = true) :
    submit eff p s = .next (eff p (taken p s)) := by
  unfold dispatches at h
  simp only [Bool.and_eq_true, Bool.or_eq_true, beq_iff_eq, Bool.not_eq_true', Option.isNone_iff_eq_none,
    decide_eq_true_eq, List.isEmpty_iff] at h
  obtain ⟨⟨⟨⟨⟨⟨⟨h1, h2⟩, h3⟩, h4⟩, h5⟩, h6⟩, h7⟩, h8⟩ := h
  have hj : jobGate p eff (taken p s) = eff p (taken p s) := by
    unfold jobGate
    rw [taken_job?]
    split
    · rfl
    · next j hj =>
      rw [hj] at h8
      rw [if_pos]
      simpa using h8
  have hg : gate p eff (taken p s) = eff p (taken p s) := by
    unfold gate
    rw [if_neg]
    · exact hj
    · simp only [taken_waiting, h5, List.isEmpty_nil, Bool.not_true, Bool.false_or, h7, Bool.or_false, Bool.not_eq_true]
      exact h6
  have ha : arrive p eff s = eff p (taken p s) := by
    unfold arrive
    rcases h4 with h4 | ⟨h4, h4'⟩
    · have hc : ((s.vi p.vi).sq p.sq).fetched.contains p = true :=
        List.contains_iff_mem.2 (List.mem_of_mem_head? h4)
      have ht : taken p s = s.updSq p.vi p.sq fun u => { u with fetched := u.fetched.tail } := by
        unfold taken
        rw [if_pos hc]
      simp only [hc, h4, if_true]
      rw [← ht]
      exact hg
    · have hc : ((s.vi p.vi).sq p.sq).fetched.contains p = false := by rw [h4]; rfl
      have ht : taken p s = s := by
        unfold taken
        rw [if_neg (by simp [h4])]
      simp only [h4', h4, List.isEmpty_nil, if_true]
      rw [← ht]
      simpa [ht] using hg
  unfold submit
  rw [if_pos (by simp [h1, h2]), if_pos h3, ha]

/-- A packet of a VI that the module does not fetch from changes nothing. -/
theorem submit_of_not_fetches (eff : Packet → State → State) {p : Packet} {s : State} (hv : viOk p.vi = true)
    (hq : p.sq < 8) (h : s.fetches p.vi = false) : submit eff p s = .next s := by
  simp [submit, hv, hq, h]

/-- Every packet row answers a next state at a VI and queue that exist. -/
theorem submit_next (eff : Packet → State → State) {p : Packet} (s : State) (hv : viOk p.vi = true) (hq : p.sq < 8) :
    submit eff p s = .next (if s.fetches p.vi then arrive p eff s else s) := by
  simp [submit, hv, hq]

/-- No packet row is refused. -/
theorem submit_ne_refused (eff : Packet → State → State) (p : Packet) (s : State) (r : Refusal) :
    submit eff p s ≠ .refused r := by
  unfold submit
  split <;> simp

/-- An event at a unit that exists takes place. -/
@[simp] theorem event_true (t : State) : event true t = .next t := rfl

/-- No event is refused. -/
theorem event_ne_refused (ok : Bool) (t : State) (r : Refusal) : event ok t ≠ .refused r := by
  cases ok <;> simp [event]

/-- What an event answers as a next state. -/
theorem event_eq_next {ok : Bool} {t u : State} (h : event ok t = .next u) : ok = true ∧ u = t := by
  cases ok
  · simp [event] at h
  · exact ⟨rfl, by simpa [event] using h.symm⟩

/-! ## The packet rows -/

variable {p : Packet} {s : State}

theorem exec_move (h : dispatches p s = true) : exec (.move p) s = .next (effMove p (taken p s)) :=
  submit_of_dispatches _ h
theorem exec_fill (h : dispatches p s = true) : exec (.fill p) s = .next (effFill p (taken p s)) :=
  submit_of_dispatches _ h
theorem exec_migrate (h : dispatches p s = true) : exec (.migrate p) s = .next (effMigrate p (taken p s)) :=
  submit_of_dispatches _ h
theorem exec_placeMap (h : dispatches p s = true) : exec (.placeMap p) s = .next (effPlaceMap p (taken p s)) :=
  submit_of_dispatches _ h
theorem exec_placeUnmap (h : dispatches p s = true) : exec (.placeUnmap p) s = .next (effPlaceUnmap p (taken p s)) :=
  submit_of_dispatches _ h
theorem exec_placeQuery (h : dispatches p s = true) : exec (.placeQuery p) s = .next (effPlaceQuery p (taken p s)) :=
  submit_of_dispatches _ h
theorem exec_fence (h : dispatches p s = true) : exec (.fence p) s = .next (effFence p (taken p s)) :=
  submit_of_dispatches _ h
theorem exec_matmul (h : dispatches p s = true) : exec (.matmul p) s = .next (effMatmul p (taken p s)) :=
  submit_of_dispatches _ h
theorem exec_matmulBatched (h : dispatches p s = true) : exec (.matmulBatched p) s = .next (effMatmul p (taken p s)) :=
  submit_of_dispatches _ h
theorem exec_braidRun (h : dispatches p s = true) : exec (.braidRun p) s = .next (effBraidRun p (taken p s)) :=
  submit_of_dispatches _ h
theorem exec_braidLoadProgram (h : dispatches p s = true) : exec (.braidLoadProgram p) s = .next (effSlotLoad p (taken p s)) :=
  submit_of_dispatches _ h
theorem exec_braidLoadSeed (h : dispatches p s = true) : exec (.braidLoadSeed p) s = .next (effSeedLoad p (taken p s)) :=
  submit_of_dispatches _ h
theorem exec_tableLoad (h : dispatches p s = true) : exec (.tableLoad p) s = .next (effSlotLoad p (taken p s)) :=
  submit_of_dispatches _ h
theorem exec_attnFwd (h : dispatches p s = true) : exec (.attnFwd p) s = .next (effAttnFwd p (taken p s)) :=
  submit_of_dispatches _ h
theorem exec_attnBwd (h : dispatches p s = true) : exec (.attnBwd p) s = .next (effAttnBwd p (taken p s)) :=
  submit_of_dispatches _ h
theorem exec_rolloutOpen (h : dispatches p s = true) : exec (.rolloutOpen p) s = .next (effRolloutOpen p (taken p s)) :=
  submit_of_dispatches _ h
theorem exec_rolloutClose (h : dispatches p s = true) : exec (.rolloutClose p) s = .next (effRolloutClose p (taken p s)) :=
  submit_of_dispatches _ h
theorem exec_rolloutStep (h : dispatches p s = true) : exec (.rolloutStep p) s = .next (effRolloutStep p (taken p s)) :=
  submit_of_dispatches _ h
theorem exec_sample (h : dispatches p s = true) : exec (.sample p) s = .next (effSample p (taken p s)) :=
  submit_of_dispatches _ h
theorem exec_seqCancel (h : dispatches p s = true) : exec (.seqCancel p) s = .next (effSeqCancel p (taken p s)) :=
  submit_of_dispatches _ h
theorem exec_specVerify (h : dispatches p s = true) : exec (.specVerify p) s = .next (effSpecVerify p (taken p s)) :=
  submit_of_dispatches _ h
theorem exec_prefill (h : dispatches p s = true) : exec (.prefill p) s = .next (effPrefill p (taken p s)) :=
  submit_of_dispatches _ h
theorem exec_kvPoolCreate (h : dispatches p s = true) : exec (.kvPoolCreate p) s = .next (effPoolCreate p (taken p s)) :=
  submit_of_dispatches _ h
theorem exec_kvPoolSetPolicy (h : dispatches p s = true) : exec (.kvPoolSetPolicy p) s = .next (effPoolPolicy p (taken p s)) :=
  submit_of_dispatches _ h
theorem exec_kvPoolDestroy (h : dispatches p s = true) : exec (.kvPoolDestroy p) s = .next (effPoolDestroy p (taken p s)) :=
  submit_of_dispatches _ h
theorem exec_kvShipReceive (h : dispatches p s = true) : exec (.kvShipReceive p) s = .next (effKvReceive p (taken p s)) :=
  submit_of_dispatches _ h
theorem exec_kvShipSend (h : dispatches p s = true) : exec (.kvShipSend p) s = .next (pump (effKvSend p (taken p s))) :=
  submit_of_dispatches _ h
theorem exec_kvFork (h : dispatches p s = true) : exec (.kvFork p) s = .next (effKvFork p (taken p s)) :=
  submit_of_dispatches _ h
theorem exec_kvRelease (h : dispatches p s = true) : exec (.kvRelease p) s = .next (effKvRelease p (taken p s)) :=
  submit_of_dispatches _ h
theorem exec_passFwd (h : dispatches p s = true) : exec (.passFwd p) s = .next (effPassFwd p (taken p s)) :=
  submit_of_dispatches _ h
theorem exec_passFwdQuery (h : dispatches p s = true) : exec (.passFwdQuery p) s = .next (effPassFwd p (taken p s)) :=
  submit_of_dispatches _ h
theorem exec_passBwd (h : dispatches p s = true) : exec (.passBwd p) s = .next (effPass p (taken p s)) :=
  submit_of_dispatches _ h
theorem exec_update (h : dispatches p s = true) : exec (.update p) s = .next (effUpdate p (taken p s)) :=
  submit_of_dispatches _ h
theorem exec_stepSizeSet (h : dispatches p s = true) : exec (.stepSizeSet p) s = .next (effStepSizeSet p (taken p s)) :=
  submit_of_dispatches _ h
theorem exec_updateProgramLoad (h : dispatches p s = true) : exec (.updateProgramLoad p) s = .next (effSlotLoad p (taken p s)) :=
  submit_of_dispatches _ h
theorem exec_stowLoad (h : dispatches p s = true) : exec (.stowLoad p) s = .next (effStowLoad p (taken p s)) :=
  submit_of_dispatches _ h
theorem exec_adapterLoad (h : dispatches p s = true) : exec (.adapterLoad p) s = .next (effAdapterLoad p (taken p s)) :=
  submit_of_dispatches _ h
theorem exec_adapterUnload (h : dispatches p s = true) : exec (.adapterUnload p) s = .next (effAdapterUnload p (taken p s)) :=
  submit_of_dispatches _ h
theorem exec_freshetPush (h : dispatches p s = true) : exec (.freshetPush p) s = .next (pump (effPush p (taken p s))) :=
  submit_of_dispatches _ h
theorem exec_freshetFlip (h : dispatches p s = true) : exec (.freshetFlip p) s = .next (effFlip p (taken p s)) :=
  submit_of_dispatches _ h
theorem exec_freshetDiscard (h : dispatches p s = true) : exec (.freshetDiscard p) s = .next (effDiscard p (taken p s)) :=
  submit_of_dispatches _ h
theorem exec_modelDrain (h : dispatches p s = true) : exec (.modelDrain p) s = .next (effModelDrain p (taken p s)) :=
  submit_of_dispatches _ h
theorem exec_put (h : dispatches p s = true) : exec (.put p) s = .next (effRemote p (taken p s)) :=
  submit_of_dispatches _ h
theorem exec_get (h : dispatches p s = true) : exec (.get p) s = .next (effRemote p (taken p s)) :=
  submit_of_dispatches _ h
theorem exec_atomic (h : dispatches p s = true) : exec (.atomic p) s = .next (effRemote p (taken p s)) :=
  submit_of_dispatches _ h
theorem exec_signal (h : dispatches p s = true) : exec (.signal p) s = .next (effRemote p (taken p s)) :=
  submit_of_dispatches _ h
theorem exec_shift (h : dispatches p s = true) : exec (.shift p) s = .next (effColl p (taken p s)) :=
  submit_of_dispatches _ h
theorem exec_permute (h : dispatches p s = true) : exec (.permute p) s = .next (effColl p (taken p s)) :=
  submit_of_dispatches _ h
theorem exec_reduceShift (h : dispatches p s = true) : exec (.reduceShift p) s = .next (effColl p (taken p s)) :=
  submit_of_dispatches _ h
theorem exec_groupDefine (h : dispatches p s = true) : exec (.groupDefine p) s = .next (effGroupDefine p (taken p s)) :=
  submit_of_dispatches _ h
theorem exec_groupRelease (h : dispatches p s = true) : exec (.groupRelease p) s = .next (effGroupRelease p (taken p s)) :=
  submit_of_dispatches _ h
theorem exec_setDomain (h : dispatches p s = true) : exec (.setDomain p) s = .next (effSetDomain p (taken p s)) :=
  submit_of_dispatches _ h
theorem exec_ckptTake (h : dispatches p s = true) : exec (.ckptTake p) s = .next (effTake p (taken p s)) :=
  submit_of_dispatches _ h
theorem exec_ckptHold (h : dispatches p s = true) : exec (.ckptHold p) s = .next (effHold p (taken p s)) :=
  submit_of_dispatches _ h
theorem exec_ckptDiscard (h : dispatches p s = true) : exec (.ckptDiscard p) s = .next (effCkptDiscard p (taken p s)) :=
  submit_of_dispatches _ h
theorem exec_ckptReadback (h : dispatches p s = true) : exec (.ckptReadback p) s = .next (effReadback p (taken p s)) :=
  submit_of_dispatches _ h
theorem exec_ckptExport (h : dispatches p s = true) : exec (.ckptExport p) s = .next (effExport p (taken p s)) :=
  submit_of_dispatches _ h
theorem exec_ckptList (h : dispatches p s = true) : exec (.ckptList p) s = .next (effList p (taken p s)) :=
  submit_of_dispatches _ h
theorem exec_restore (h : dispatches p s = true) : exec (.restore p) s = .next (effRestore p (taken p s)) :=
  submit_of_dispatches _ h
theorem exec_rollback (h : dispatches p s = true) : exec (.rollback p) s = .next (effRollback p (taken p s)) :=
  submit_of_dispatches _ h
theorem exec_shrink (h : dispatches p s = true) : exec (.shrink p) s = .next (effShrink p (taken p s)) :=
  submit_of_dispatches _ h
theorem exec_jobCreate (h : dispatches p s = true) : exec (.jobCreate p) s = .next (effJobCreate p (taken p s)) :=
  submit_of_dispatches _ h
theorem exec_jobStart (h : dispatches p s = true) : exec (.jobStart p) s = .next (effJobStart p (taken p s)) :=
  submit_of_dispatches _ h
theorem exec_jobPreempt (h : dispatches p s = true) : exec (.jobPreempt p) s = .next (effJobPreempt p (taken p s)) :=
  submit_of_dispatches _ h
theorem exec_jobEnd (h : dispatches p s = true) : exec (.jobEnd p) s = .next (effJobEndAll p (taken p s)) :=
  submit_of_dispatches _ h
theorem exec_abortPacket (h : dispatches p s = true) : exec (.abortPacket p) s = .next (effAbortPacket p (taken p s)) :=
  submit_of_dispatches _ h
theorem exec_abortJob (h : dispatches p s = true) : exec (.abortJob p) s = .next (effAbortJob p (taken p s)) :=
  submit_of_dispatches _ h
theorem exec_admissionSetVi (h : dispatches p s = true) : exec (.admissionSetVi p) s = .next (effAdmissionSetVi p (taken p s)) :=
  submit_of_dispatches _ h
theorem exec_admissionSetMode (h : dispatches p s = true) : exec (.admissionSetMode p) s = .next (effAdmissionSetMode p (taken p s)) :=
  submit_of_dispatches _ h
theorem exec_admissionQuery (h : dispatches p s = true) : exec (.admissionQuery p) s = .next (effAdmissionQuery p (taken p s)) :=
  submit_of_dispatches _ h
theorem exec_selftestCore (h : dispatches p s = true) : exec (.selftestCore p) s = .next (effSelftestCore p (taken p s)) :=
  submit_of_dispatches _ h
theorem exec_selftestSliced (h : dispatches p s = true) : exec (.selftestSliced p) s = .next (effSelftestSliced p (taken p s)) :=
  submit_of_dispatches _ h
theorem exec_selftestStop (h : dispatches p s = true) : exec (.selftestStop p) s = .next (effSelftestStop p (taken p s)) :=
  submit_of_dispatches _ h
theorem exec_selftestRotation (h : dispatches p s = true) : exec (.selftestRotation p) s = .next (effSelftestRotation p (taken p s)) :=
  submit_of_dispatches _ h
theorem exec_calibrate (h : dispatches p s = true) : exec (.calibrate p) s = .next (effCalibrate p (taken p s)) :=
  submit_of_dispatches _ h
theorem exec_linkPattern (h : dispatches p s = true) : exec (.linkPattern p) s = .next (effLinkPattern p (taken p s)) :=
  submit_of_dispatches _ h
theorem exec_linkPatternStop (h : dispatches p s = true) : exec (.linkPatternStop p) s = .next (effLinkPatternStop p (taken p s)) :=
  submit_of_dispatches _ h
theorem exec_evrecRead (h : dispatches p s = true) : exec (.evrecRead p) s = .next (effEvrecRead p (taken p s)) :=
  submit_of_dispatches _ h
theorem exec_fwStage (h : dispatches p s = true) : exec (.fwStage p) s = .next (effFwStage p (taken p s)) :=
  submit_of_dispatches _ h
theorem exec_fwActivateTrial (h : dispatches p s = true) : exec (.fwActivateTrial p) s = .next (effFwActivateTrial p (taken p s)) :=
  submit_of_dispatches _ h
theorem exec_fwActivateCommit (h : dispatches p s = true) : exec (.fwActivateCommit p) s = .next (effFwActivateCommit p (taken p s)) :=
  submit_of_dispatches _ h
theorem exec_fwActivateDisarm (h : dispatches p s = true) : exec (.fwActivateDisarm p) s = .next (effFwActivateDisarm p (taken p s)) :=
  submit_of_dispatches _ h
theorem exec_fwActivateReset (h : dispatches p s = true) : exec (.fwActivateReset p) s = .next (effFwActivateReset p (taken p s)) :=
  submit_of_dispatches _ h
theorem exec_powerCapSet (h : dispatches p s = true) : exec (.powerCapSet p) s = .next (effPowerCapSet p (taken p s)) :=
  submit_of_dispatches _ h
theorem exec_powerCapQuery (h : dispatches p s = true) : exec (.powerCapQuery p) s = .next (effPowerCapQuery p (taken p s)) :=
  submit_of_dispatches _ h
theorem exec_setRole (h : dispatches p s = true) : exec (.setRole p) s = .next (effSetRole p (taken p s)) :=
  submit_of_dispatches _ h
theorem exec_setPeriod (h : dispatches p s = true) : exec (.setPeriod p) s = .next (effSetPeriod p (taken p s)) :=
  submit_of_dispatches _ h
theorem exec_armEpoch (h : dispatches p s = true) : exec (.armEpoch p) s = .next (effArmEpoch p (taken p s)) :=
  submit_of_dispatches _ h
theorem exec_setBeaconPorts (h : dispatches p s = true) : exec (.setBeaconPorts p) s = .next (effSetBeaconPorts p (taken p s)) :=
  submit_of_dispatches _ h
theorem exec_faultPolicySet (h : dispatches p s = true) : exec (.faultPolicySet p) s = .next (effFaultPolicySet p (taken p s)) :=
  submit_of_dispatches _ h
theorem exec_faultPolicyDefaults (h : dispatches p s = true) : exec (.faultPolicyDefaults p) s = .next (effFaultPolicyDefaults p (taken p s)) :=
  submit_of_dispatches _ h
theorem exec_phaseTimesRead (h : dispatches p s = true) : exec (.phaseTimesRead p) s = .next (effPhaseTimesRead p (taken p s)) :=
  submit_of_dispatches _ h
theorem exec_configInstall (h : dispatches p s = true) : exec (.configInstall p) s = .next (effConfigInstall p (taken p s)) :=
  submit_of_dispatches _ h
theorem exec_configRead (h : dispatches p s = true) : exec (.configRead p) s = .next (effConfigRead p (taken p s)) :=
  submit_of_dispatches _ h
theorem exec_saveRoutes (h : dispatches p s = true) : exec (.saveRoutes p) s = .next (effSaveRoutes p (taken p s)) :=
  submit_of_dispatches _ h
theorem exec_configClear (h : dispatches p s = true) : exec (.configClear p) s = .next (effConfigClear p (taken p s)) :=
  submit_of_dispatches _ h

end Sys2Proof.Machine
end

