-- ==== Sys2Proof/Laws/Memory.lean ====
section
/-! SUPPORT. The memory operations: each keeps the canonical form, and what a read gives after each. -/

namespace Sys2Proof.Machine

open Sys2Proof

/-! ## The canonical form -/

/-- The canonical form, as an order of addresses and a property of each entry. -/
theorem Mem.wf_iff (m : Mem) :
    m.wf = true ↔ m.Pairwise (fun a b => a.1 < b.1) ∧ ∀ c ∈ m, c.2 ≠ 0 := by
  induction m with
  | nil => simp [Mem.wf]
  | cons c t ih =>
    cases t with
    | nil => simp [Mem.wf]
    | cons d t =>
      simp only [Mem.wf, Bool.and_eq_true, bne_iff_ne, decide_eq_true_eq, ih, List.pairwise_cons, List.mem_cons,
        forall_eq_or_imp]
      constructor
      · rintro ⟨⟨h1, h2⟩, ⟨h3, h4⟩, h5, h6⟩
        exact ⟨⟨⟨h2, fun e he => Nat.lt_trans h2 (h3 e he)⟩, h3, h4⟩, h1, h5, h6⟩
      · rintro ⟨⟨⟨h2, _⟩, h3, h4⟩, h1, h5, h6⟩
        exact ⟨⟨h1, h2⟩, ⟨h3, h4⟩, h5, h6⟩

/-- Addresses that a write leaves listed: those listed before, and its own. -/
theorem Mem.mem_write (m : Mem) (a : Nat) (b : Byte) (c : Host.Cell) (h : c ∈ m.write a b) :
    c ∈ m ∨ c = (a, b) := by
  induction m with
  | nil =>
    simp only [Mem.write] at h
    split at h
    · exact absurd h (by simp)
    · exact .inr (by simpa using h)
  | cons d t ih =>
    obtain ⟨k, x⟩ := d
    simp only [Mem.write] at h
    split at h
    · split at h
      · exact .inl (List.mem_cons_of_mem _ h)
      · rcases List.mem_cons.1 h with h | h
        · exact .inr h
        · exact .inl (List.mem_cons_of_mem _ h)
    · split at h
      · split at h
        · exact .inl h
        · rcases List.mem_cons.1 h with h | h
          · exact .inr h
          · exact .inl h
      · rcases List.mem_cons.1 h with h | h
        · exact .inl (h ▸ List.mem_cons_self)
        · rcases ih h with h | h
          · exact .inl (List.mem_cons_of_mem _ h)
          · exact .inr h

/-- A write of one byte keeps the form. -/
theorem Mem.wf_write {m : Mem} (h : m.wf = true) (a : Nat) (b : Byte) : (m.write a b).wf = true := by
  rw [Mem.wf_iff] at h ⊢
  induction m with
  | nil =>
    simp only [Mem.write]
    split
    · simp
    · next hb => exact ⟨List.pairwise_singleton _ _, fun c hc => by rw [List.mem_singleton.1 hc]; exact hb⟩
  | cons d t ih =>
    obtain ⟨k, x⟩ := d
    obtain ⟨hp, hz⟩ := h
    have hp' := List.pairwise_cons.1 hp
    have ht : t.Pairwise (fun a b => a.1 < b.1) ∧ ∀ c ∈ t, c.2 ≠ 0 :=
      ⟨hp'.2, fun c hc => hz c (List.mem_cons_of_mem _ hc)⟩
    have hx : x ≠ 0 := hz (k, x) List.mem_cons_self
    simp only [Mem.write]
    split
    · next hk =>
      split
      · exact ht
      · next hb =>
        refine ⟨List.pairwise_cons.2 ⟨fun c hc => hk ▸ hp'.1 c hc, hp'.2⟩, ?_⟩
        intro c hc
        rcases List.mem_cons.1 hc with hc | hc
        · exact hc ▸ hb
        · exact ht.2 c hc
    · next hk =>
      split
      · next hlt =>
        split
        · exact ⟨hp, hz⟩
        · next hb =>
          refine ⟨List.pairwise_cons.2 ⟨?_, hp⟩, ?_⟩
          · intro c hc
            rcases List.mem_cons.1 hc with hc | hc
            · exact hc ▸ hlt
            · exact Nat.lt_trans hlt (hp'.1 c hc)
          · intro c hc
            rcases List.mem_cons.1 hc with hc | hc
            · exact hc ▸ hb
            · exact hz c hc
      · next hlt =>
        obtain ⟨i1, i2⟩ := ih ht
        refine ⟨List.pairwise_cons.2 ⟨?_, i1⟩, ?_⟩
        · intro c hc
          rcases Mem.mem_write t a b c hc with hc | hc
          · exact hp'.1 c hc
          · rw [hc]; show k < a; omega
        · intro c hc
          rcases List.mem_cons.1 hc with hc | hc
          · exact hc ▸ hx
          · exact i2 c hc

/-- Writing bytes keeps the form. -/
theorem Mem.wf_writeN {m : Mem} (h : m.wf = true) (a : Nat) (bs : List Byte) : (m.writeN a bs).wf = true := by
  induction bs generalizing m a with
  | nil => exact h
  | cons b bs ih => exact ih (Mem.wf_write h a b) (a + 1)

/-- Taking entries away keeps the form. -/
theorem Mem.wf_filter {m : Mem} (h : m.wf = true) (f : Host.Cell → Bool) : Mem.wf (m.filter f) = true := by
  rw [Mem.wf_iff] at h ⊢
  exact ⟨h.1.filter f, fun c hc => h.2 c (List.mem_of_mem_filter hc)⟩

/-- Zeroing keeps the form. -/
theorem Mem.wf_zero {m : Mem} (h : m.wf = true) (a n : Nat) : (m.zero a n).wf = true := Mem.wf_filter h _

/-- Copying keeps the form. -/
theorem Mem.wf_copyFrom {d : Mem} (h : d.wf = true) (b : Nat) (m : Mem) (a n : Nat) :
    (d.copyFrom b m a n).wf = true := by
  unfold Mem.copyFrom
  generalize ((m.filter _).map _) = l
  have h1 := Mem.wf_zero h b n
  generalize d.zero b n = e at h1 ⊢
  induction l generalizing e with
  | nil => exact h1
  | cons c t ih => exact ih _ (Mem.wf_write h1 c.1 c.2)

/-! ## Reads -/

/-- An address below every listed one reads as 0. -/
theorem Mem.read_of_lt (m : Mem) (a : Nat) (h : ∀ c ∈ m, a < c.1) : m.read a = 0 := by
  induction m with
  | nil => rfl
  | cons d t ih =>
    obtain ⟨k, x⟩ := d
    have hk : a < k := h (k, x) List.mem_cons_self
    simp only [Mem.read]
    rw [if_neg (by omega)]
    exact ih fun c hc => h c (List.mem_cons_of_mem _ hc)

/-- A byte written is read back. -/
theorem Mem.read_write_same {m : Mem} (h : m.wf = true) (a : Nat) (b : Byte) : (m.write a b).read a = b := by
  rw [Mem.wf_iff] at h
  induction m with
  | nil =>
    simp only [Mem.write]
    split
    · next hb => exact hb.symm
    · simp [Mem.read]
  | cons d t ih =>
    obtain ⟨k, x⟩ := d
    have hp' := List.pairwise_cons.1 h.1
    simp only [Mem.write]
    split
    · next hk =>
      split
      · next hb => rw [hb]; exact Mem.read_of_lt _ _ fun c hc => hk ▸ hp'.1 c hc
      · simp [Mem.read]
    · next hk =>
      split
      · next hlt =>
        split
        · next hb =>
          rw [hb]
          exact Mem.read_of_lt _ _ fun c hc => by
            rcases List.mem_cons.1 hc with hc | hc
            · exact hc ▸ hlt
            · exact Nat.lt_trans hlt (hp'.1 c hc)
        · simp [Mem.read]
      · simp only [Mem.read]
        rw [if_neg (Ne.symm hk)]
        exact ih ⟨hp'.2, fun c hc => h.2 c (List.mem_cons_of_mem _ hc)⟩

/-- A write leaves every other byte alone. -/
theorem Mem.read_write_of_ne (m : Mem) {a x : Nat} (b : Byte) (h : x ≠ a) : (m.write a b).read x = m.read x := by
  induction m with
  | nil =>
    simp only [Mem.write]
    split
    · rfl
    · simp [Mem.read, Ne.symm h]
  | cons d t ih =>
    obtain ⟨k, y⟩ := d
    simp only [Mem.write]
    split
    · next hk =>
      split
      · simp [Mem.read, ← hk, Ne.symm h]
      · simp [Mem.read, ← hk, Ne.symm h]
    · split
      · split
        · rfl
        · simp [Mem.read, Ne.symm h]
      · simp [Mem.read, ih]

/-- Writing bytes keeps the form and leaves every byte outside them alone. -/
theorem Mem.read_writeN_of_outside (m : Mem) (a x : Nat) (bs : List Byte) (h : x < a ∨ a + bs.length ≤ x) :
    (m.writeN a bs).read x = m.read x := by
  induction bs generalizing m a with
  | nil => rfl
  | cons b bs ih =>
    simp only [List.length_cons] at h
    simp only [Mem.writeN]
    rw [ih _ _ (by omega), Mem.read_write_of_ne _ _ (by omega)]

/-- Each byte written is read back. -/
theorem Mem.read_writeN_of_inside {m : Mem} (hm : m.wf = true) (a i : Nat) (bs : List Byte) (h : i < bs.length) :
    (m.writeN a bs).read (a + i) = bs[i] := by
  induction bs generalizing m a i with
  | nil => exact absurd h (by simp)
  | cons b bs ih =>
    simp only [Mem.writeN]
    cases i with
    | zero =>
      rw [Mem.read_writeN_of_outside _ _ _ _ (by omega)]
      simpa using Mem.read_write_same hm a b
    | succ i =>
      have := ih (Mem.wf_write hm a b) (a + 1) i (by simpa using h)
      rw [show a + (i + 1) = a + 1 + i by omega]
      simpa using this

/-- What was written is read back as a whole. -/
theorem Mem.readN_writeN {m : Mem} (hm : m.wf = true) (a : Nat) (bs : List Byte) :
    (m.writeN a bs).readN a bs.length = bs := by
  induction bs generalizing m a with
  | nil => rfl
  | cons b bs ih =>
    simp only [Mem.writeN, List.length_cons, Mem.readN]
    rw [ih (Mem.wf_write hm a b), Mem.read_writeN_of_outside _ _ _ _ (by omega), Mem.read_write_same hm]

/-! ## Bytes of numbers -/

@[simp] theorem length_leBytes (k n : Nat) : (leBytes k n).length = k := by
  induction k generalizing n with
  | zero => rfl
  | succ k ih => simp [leBytes, ih]

/-- Bytes of a number give back the number, modulo what they hold. -/
theorem leNat_leBytes (k n : Nat) : leNat (leBytes k n) = n % 256 ^ k := by
  induction k generalizing n with
  | zero => simp [leBytes, leNat, Nat.mod_one]
  | succ k ih =>
    have h : n % 256 ^ (k + 1) = n % 256 + 256 * (n / 256 % 256 ^ k) := by
      rw [Nat.pow_succ, Nat.mul_comm (256 ^ k) 256, Nat.mod_mul]
    rw [h]
    simp [leBytes, leNat, ih]

/-! ## Reads of a range -/

/-- A range reads when each of its bytes does. -/
theorem vread_ok_of {n : Nat} {s : State} {k a : Nat} (h : ∀ i < k, ∃ b, vread1 n (a + i) s = .ok b) :
    ∃ bs, vread n s a k = .ok bs ∧ bs.length = k := by
  induction k generalizing a with
  | zero => exact ⟨[], rfl, rfl⟩
  | succ k ih =>
    obtain ⟨b, hb⟩ := h 0 (by omega)
    obtain ⟨bs, e, l⟩ := ih (a := a + 1) fun i hi => by
      obtain ⟨c, hc⟩ := h (i + 1) (by omega)
      exact ⟨c, by rw [← hc]; congr 1; omega⟩
    exact ⟨b :: bs, by rw [Nat.add_zero] at hb; simp only [vread, hb, e], by simp [l]⟩

/-- A read gives as many bytes as were asked. -/
theorem vread_length {n : Nat} {s : State} {k a : Nat} {bs : List Byte} (h : vread n s a k = .ok bs) : bs.length = k := by
  induction k generalizing a bs with
  | zero => cases h; rfl
  | succ k ih =>
    simp only [vread] at h
    split at h
    · cases h
    · split at h
      · cases h
      · rename_i h'; cases h; simp [ih h']

/-- Every byte of a range that reads is that of its own address. -/
theorem vread_ok_at {n : Nat} {s : State} {k a : Nat} {bs : List Byte} (h : vread n s a k = .ok bs) (i : Nat) (hi : i < k) :
    ∃ b, vread1 n (a + i) s = .ok b ∧ bs[i]? = some b := by
  induction k generalizing a bs i with
  | zero => omega
  | succ k ih =>
    simp only [vread] at h
    split at h
    · cases h
    · split at h
      · cases h
      · rename_i b hb _ bs' h'
        cases h
        cases i with
        | zero => exact ⟨b, by rw [Nat.add_zero]; exact hb, rfl⟩
        | succ i =>
          obtain ⟨c, hc, hc'⟩ := ih h' i (by omega)
          exact ⟨c, by rw [← hc]; congr 1; omega, hc'⟩

end Sys2Proof.Machine
end

