-- ==== Sys2Proof/Laws/Ops.lean ====
section
/-! SUPPORT. What the shared operations can change. `RecordsOnly s t`: t differs from s in VIs, host memory, MSI-X messages
and commands in progress only, which is all that records, interrupts and fetching touch. `WritesOnly s t`: t differs from s
in memory, burst marks of stacks, checkpoint copies of jobs and CKPT_AHEAD only, which is all that a write touches. -/

namespace Sys2Proof.Machine

open Sys2Proof

/-- t differs from s at most in what records, interrupts and fetching change. -/
def RecordsOnly (s t : State) : Prop :=
  t = { s with vis := t.vis, turnVi := t.turnVi, hostMem := t.hostMem, msixOut := t.msixOut, opens := t.opens }

/-- t differs from s at most in what a write of memory changes. -/
def WritesOnly (s t : State) : Prop :=
  t = { s with devMem := t.devMem, hostMem := t.hostMem, remMem := t.remMem, scr := t.scr, stks := t.stks, jobs := t.jobs
               ctr := { s.ctr with ckptAhead := t.ctr.ckptAhead } }

/-! ## RecordsOnly -/

/-- Nothing changes. -/
theorem RecordsOnly.refl (s : State) : RecordsOnly s s := rfl

/-- One such change after another. -/
theorem RecordsOnly.trans {s t u : State} (h : RecordsOnly s t) (k : RecordsOnly t u) : RecordsOnly s u := by
  unfold RecordsOnly at h k ⊢
  rw [k, h]

theorem RecordsOnly.pending {s t : State} (h : RecordsOnly s t) : t.pending = s.pending := by rw [h]
theorem RecordsOnly.ftu {s t : State} (h : RecordsOnly s t) : t.ftu = s.ftu := by rw [h]
theorem RecordsOnly.cores {s t : State} (h : RecordsOnly s t) : t.cores = s.cores := by rw [h]
theorem RecordsOnly.dies {s t : State} (h : RecordsOnly s t) : t.dies = s.dies := by rw [h]
theorem RecordsOnly.stks {s t : State} (h : RecordsOnly s t) : t.stks = s.stks := by rw [h]
theorem RecordsOnly.hubs {s t : State} (h : RecordsOnly s t) : t.hubs = s.hubs := by rw [h]
theorem RecordsOnly.fab {s t : State} (h : RecordsOnly s t) : t.fab = s.fab := by rw [h]
theorem RecordsOnly.faults {s t : State} (h : RecordsOnly s t) : t.faults = s.faults := by rw [h]
theorem RecordsOnly.ntc {s t : State} (h : RecordsOnly s t) : t.ntc = s.ntc := by rw [h]
theorem RecordsOnly.blkRst {s t : State} (h : RecordsOnly s t) : t.blkRst = s.blkRst := by rw [h]
theorem RecordsOnly.flash {s t : State} (h : RecordsOnly s t) : t.flash = s.flash := by rw [h]
theorem RecordsOnly.boot {s t : State} (h : RecordsOnly s t) : t.boot = s.boot := by rw [h]
theorem RecordsOnly.power {s t : State} (h : RecordsOnly s t) : t.power = s.power := by rw [h]
theorem RecordsOnly.tap {s t : State} (h : RecordsOnly s t) : t.tap = s.tap := by rw [h]
theorem RecordsOnly.quotas {s t : State} (h : RecordsOnly s t) : t.quotas = s.quotas := by rw [h]
theorem RecordsOnly.jobs {s t : State} (h : RecordsOnly s t) : t.jobs = s.jobs := by rw [h]
theorem RecordsOnly.sched {s t : State} (h : RecordsOnly s t) : t.sched = s.sched := by rw [h]
theorem RecordsOnly.tiles {s t : State} (h : RecordsOnly s t) : t.tiles = s.tiles := by rw [h]
theorem RecordsOnly.partials {s t : State} (h : RecordsOnly s t) : t.partials = s.partials := by rw [h]
theorem RecordsOnly.scr {s t : State} (h : RecordsOnly s t) : t.scr = s.scr := by rw [h]
theorem RecordsOnly.ctr {s t : State} (h : RecordsOnly s t) : t.ctr = s.ctr := by rw [h]
theorem RecordsOnly.phases {s t : State} (h : RecordsOnly s t) : t.phases = s.phases := by rw [h]
theorem RecordsOnly.zeroing {s t : State} (h : RecordsOnly s t) : t.zeroing = s.zeroing := by rw [h]
theorem RecordsOnly.noJobSeed {s t : State} (h : RecordsOnly s t) : t.noJobSeed = s.noJobSeed := by rw [h]
theorem RecordsOnly.noJobGens {s t : State} (h : RecordsOnly s t) : t.noJobGens = s.noJobGens := by rw [h]
theorem RecordsOnly.devMem {s t : State} (h : RecordsOnly s t) : t.devMem = s.devMem := by rw [h]
theorem RecordsOnly.remMem {s t : State} (h : RecordsOnly s t) : t.remMem = s.remMem := by rw [h]
theorem RecordsOnly.busRead {s t : State} (h : RecordsOnly s t) : t.busRead = s.busRead := by rw [h]
theorem RecordsOnly.tdo {s t : State} (h : RecordsOnly s t) : t.tdo = s.tdo := by rw [h]
theorem RecordsOnly.fresh {s t : State} (h : RecordsOnly s t) : t.fresh = s.fresh := by rw [h]

/-- A fold of such changes. -/
theorem RecordsOnly.foldl {α : Type} (f : State → α → State) (hf : ∀ s a, RecordsOnly s (f s a)) (l : List α) (s : State) :
    RecordsOnly s (l.foldl f s) := by
  induction l generalizing s with
  | nil => exact .refl s
  | cons a l ih => exact (hf s a).trans (ih (f s a))

/-! ## WritesOnly -/

/-- Nothing changes. -/
theorem WritesOnly.refl (s : State) : WritesOnly s s := rfl

/-- One such change after another. -/
theorem WritesOnly.trans {s t u : State} (h : WritesOnly s t) (k : WritesOnly t u) : WritesOnly s u := by
  unfold WritesOnly at h k ⊢
  rw [k, h]

theorem WritesOnly.pending {s t : State} (h : WritesOnly s t) : t.pending = s.pending := by rw [h]
theorem WritesOnly.vis {s t : State} (h : WritesOnly s t) : t.vis = s.vis := by rw [h]
theorem WritesOnly.turnVi {s t : State} (h : WritesOnly s t) : t.turnVi = s.turnVi := by rw [h]
theorem WritesOnly.ftu {s t : State} (h : WritesOnly s t) : t.ftu = s.ftu := by rw [h]
theorem WritesOnly.cores {s t : State} (h : WritesOnly s t) : t.cores = s.cores := by rw [h]
theorem WritesOnly.dies {s t : State} (h : WritesOnly s t) : t.dies = s.dies := by rw [h]
theorem WritesOnly.hubs {s t : State} (h : WritesOnly s t) : t.hubs = s.hubs := by rw [h]
theorem WritesOnly.fab {s t : State} (h : WritesOnly s t) : t.fab = s.fab := by rw [h]
theorem WritesOnly.faults {s t : State} (h : WritesOnly s t) : t.faults = s.faults := by rw [h]
theorem WritesOnly.ntc {s t : State} (h : WritesOnly s t) : t.ntc = s.ntc := by rw [h]
theorem WritesOnly.blkRst {s t : State} (h : WritesOnly s t) : t.blkRst = s.blkRst := by rw [h]
theorem WritesOnly.flash {s t : State} (h : WritesOnly s t) : t.flash = s.flash := by rw [h]
theorem WritesOnly.boot {s t : State} (h : WritesOnly s t) : t.boot = s.boot := by rw [h]
theorem WritesOnly.power {s t : State} (h : WritesOnly s t) : t.power = s.power := by rw [h]
theorem WritesOnly.tap {s t : State} (h : WritesOnly s t) : t.tap = s.tap := by rw [h]
theorem WritesOnly.quotas {s t : State} (h : WritesOnly s t) : t.quotas = s.quotas := by rw [h]
theorem WritesOnly.sched {s t : State} (h : WritesOnly s t) : t.sched = s.sched := by rw [h]
theorem WritesOnly.opens {s t : State} (h : WritesOnly s t) : t.opens = s.opens := by rw [h]
theorem WritesOnly.tiles {s t : State} (h : WritesOnly s t) : t.tiles = s.tiles := by rw [h]
theorem WritesOnly.partials {s t : State} (h : WritesOnly s t) : t.partials = s.partials := by rw [h]
theorem WritesOnly.phases {s t : State} (h : WritesOnly s t) : t.phases = s.phases := by rw [h]
theorem WritesOnly.zeroing {s t : State} (h : WritesOnly s t) : t.zeroing = s.zeroing := by rw [h]
theorem WritesOnly.noJobSeed {s t : State} (h : WritesOnly s t) : t.noJobSeed = s.noJobSeed := by rw [h]
theorem WritesOnly.noJobGens {s t : State} (h : WritesOnly s t) : t.noJobGens = s.noJobGens := by rw [h]
theorem WritesOnly.msixOut {s t : State} (h : WritesOnly s t) : t.msixOut = s.msixOut := by rw [h]
theorem WritesOnly.busRead {s t : State} (h : WritesOnly s t) : t.busRead = s.busRead := by rw [h]
theorem WritesOnly.tdo {s t : State} (h : WritesOnly s t) : t.tdo = s.tdo := by rw [h]
theorem WritesOnly.fresh {s t : State} (h : WritesOnly s t) : t.fresh = s.fresh := by rw [h]

/-- A fold of such changes. -/
theorem WritesOnly.foldl {α : Type} (f : State → α → State) (hf : ∀ s a, WritesOnly s (f s a)) (l : List α) (s : State) :
    WritesOnly s (l.foldl f s) := by
  induction l generalizing s with
  | nil => exact .refl s
  | cons a l ih => exact (hf s a).trans (ih (f s a))

/-! ## Records, interrupts and fetching -/

theorem updVi_recordsOnly (s : State) (n : Nat) (f : Vi → Vi) : RecordsOnly s (s.updVi n f) := rfl
theorem updSq_recordsOnly (s : State) (n q : Nat) (f : Sq → Sq) : RecordsOnly s (s.updSq n q f) := rfl
theorem updCq_recordsOnly (s : State) (n q : Nat) (f : Cq → Cq) : RecordsOnly s (s.updCq n q f) := rfl
theorem openCmd_recordsOnly (s : State) (p : Packet) (g : Progress) : RecordsOnly s (s.openCmd p g) := rfl
theorem setProg_recordsOnly (s : State) (k : Key) (g : Progress) : RecordsOnly s (s.setProg k g) := rfl
theorem closeCmd_recordsOnly (s : State) (k : Key) : RecordsOnly s (s.closeCmd k) := rfl

theorem hostMem_recordsOnly (s : State) (m : Mem) : RecordsOnly s { s with hostMem := m } := rfl

theorem raiseVec_recordsOnly (n k : Nat) (s : State) : RecordsOnly s (raiseVec n k s) := by
  simp only [raiseVec]
  split
  · exact .refl s
  · split
    · exact updVi_recordsOnly s n _
    · exact rfl

theorem sendPending_recordsOnly (n : Nat) (s : State) : RecordsOnly s (sendPending n s) := by
  unfold sendPending
  refine RecordsOnly.foldl _ (fun s k => ?_) _ s
  dsimp only
  split
  · exact (updVi_recordsOnly s n _).trans (raiseVec_recordsOnly n k _)
  · exact .refl s

theorem signalRec_recordsOnly (n c : Nat) (now : Bool) (s : State) : RecordsOnly s (signalRec n c now s) := by
  simp only [signalRec]
  split
  · exact .refl s
  · split
    · exact (updCq_recordsOnly s n c _).trans (raiseVec_recordsOnly n _ _)
    · exact updCq_recordsOnly s n c _

theorem writeRec_recordsOnly (c : Nat) (r : Rec) (s : State) : RecordsOnly s (writeRec c r s) := by
  unfold writeRec
  dsimp only
  refine RecordsOnly.trans ?_ (signalRec_recordsOnly _ _ _ _)
  exact (hostMem_recordsOnly s _).trans (updCq_recordsOnly _ _ _ _)

theorem passRec_recordsOnly (c : Nat) (r : Rec) (s : State) : RecordsOnly s (passRec c r s) := by
  unfold passRec
  split
  · exact .refl s
  · exact writeRec_recordsOnly c r s

theorem postRec_recordsOnly (r : Rec) (s : State) : RecordsOnly s (postRec r s) := by
  simp only [postRec]
  split
  · exact .refl s
  · split
    · exact updCq_recordsOnly s _ _ _
    · exact passRec_recordsOnly _ r s

theorem postInterim_recordsOnly (p : Packet) (st : Byte) (rs : Half) (a : Nat) (s : State) :
    RecordsOnly s (postInterim p st rs a s) := postRec_recordsOnly _ s

theorem releaseHeld_recordsOnly (n c k : Nat) (s : State) : RecordsOnly s (releaseHeld n c k s) := by
  induction k generalizing s with
  | zero => exact .refl s
  | succ k ih =>
    simp only [releaseHeld]
    split
    · exact .refl s
    · split
      · exact .refl s
      · exact ((updCq_recordsOnly s n c _).trans (passRec_recordsOnly c _ _)).trans (ih _)

theorem writeFinal_recordsOnly (p : Packet) (st : Byte) (rs : Half) (a b : Nat) (s : State) :
    RecordsOnly s (writeFinal p st rs a b s) := postRec_recordsOnly _ s

theorem settleFences_recordsOnly (k : Nat) (s : State) : RecordsOnly s (settleFences k s) := by
  induction k generalizing s with
  | zero => exact .refl s
  | succ k ih =>
    unfold settleFences
    split
    · exact .refl s
    · exact ((closeCmd_recordsOnly s _).trans (writeFinal_recordsOnly _ _ _ _ _ _)).trans (ih _)

/-- The final record of a packet that changes nothing. -/
theorem postRefused_recordsOnly (p : Packet) (st : Byte) (rs : Half) (a b : Nat) (s : State) :
    RecordsOnly s (postRefused p st rs a b s) := by
  unfold postRefused
  exact ((closeCmd_recordsOnly s _).trans (writeFinal_recordsOnly _ _ _ _ _ _)).trans (settleFences_recordsOnly _ _)

/-- Held records find room. -/
theorem roomMade_recordsOnly (n c : Nat) (s : State) : RecordsOnly s (roomMade n c s) :=
  (releaseHeld_recordsOnly n c _ s).trans (settleFences_recordsOnly _ _)

/-- A packet that is no UPDATE with CLOSE_STEP closes no window, and one not of class 0x07, or not in progress, marks no phase:
its end is its record alone. -/
theorem postFinal_eq_postRefused (p : Packet) (st : Byte) (rs : Half) (a b : Nat) (s : State)
    (h : p.opcode ≠ 0x0503 ∨ p.p2.getLsbD 5 = false) (h7 : p.opcode.toNat / 256 ≠ 7 ∨ s.open? p.key = none) :
    postFinal p st rs a b s = postRefused p st rs a b s := by
  have hn : noteEnd p s = s := by
    unfold noteEnd
    rw [if_neg (by rintro ⟨h1, h2⟩; rcases h7 with h7 | h7 <;> simp_all)]
    unfold closeStep
    rw [if_pos (by simpa using h)]
  unfold postFinal
  rw [hn]

theorem setTagErr_recordsOnly (n : Nat) (s : State) : RecordsOnly s (setTagErr n s) := by
  simp only [setTagErr]
  split
  · exact (updVi_recordsOnly s n _).trans (raiseVec_recordsOnly n _ _)
  · exact updVi_recordsOnly s n _

theorem setDbErr_recordsOnly (n : Nat) (s : State) : RecordsOnly s (setDbErr n s) := by
  simp only [setDbErr]
  split
  · exact (updVi_recordsOnly s n _).trans (raiseVec_recordsOnly n _ _)
  · exact updVi_recordsOnly s n _

theorem refuseFetch_recordsOnly (p : Packet) (e : Byte × Half × Nat) (s : State) :
    RecordsOnly s (refuseFetch p e s) := by
  unfold refuseFetch
  dsimp only
  refine RecordsOnly.trans ?_ (postRefused_recordsOnly _ _ _ _ _ _)
  split
  · exact setTagErr_recordsOnly _ s
  · exact .refl s

theorem fetchOne_recordsOnly (n q : Nat) (s : State) : RecordsOnly s (fetchOne n q s) := by
  simp only [fetchOne]
  split
  · exact (updSq_recordsOnly s n q _).trans (refuseFetch_recordsOnly _ _ _)
  · exact (updSq_recordsOnly s n q _).trans (updSq_recordsOnly _ n q _)

theorem turnVi_recordsOnly (s : State) (n : Nat) : RecordsOnly s { s with turnVi := n } := rfl

theorem fetchTurns_recordsOnly (k : Nat) (s : State) : RecordsOnly s (fetchTurns k s) := by
  induction k generalizing s with
  | zero => exact .refl s
  | succ k ih =>
    simp only [fetchTurns]
    split
    · exact .refl s
    · exact (((updVi_recordsOnly s _ _).trans (turnVi_recordsOnly _ _)).trans (fetchOne_recordsOnly _ _ _)).trans (ih _)

/-- Fetching what can be fetched. -/
theorem fetchAll_recordsOnly (s : State) : RecordsOnly s (fetchAll s) := fetchTurns_recordsOnly _ s

/-! ## Writes of memory -/

theorem setSpace_writesOnly (s : State) (x : Space) (m : Mem) : WritesOnly s (s.setSpace x m) := by
  cases x <;> rfl

theorem updStk_writesOnly (s : State) (k : Nat) (f : Stack → Stack) : WritesOnly s (s.updStk k f) := rfl
theorem updJob_writesOnly (s : State) (id : Nat) (f : Job → Job) : WritesOnly s (s.updJob id f) := rfl
theorem ckptAhead_writesOnly (s : State) (w : Word) : WritesOnly s { s with ctr := { s.ctr with ckptAhead := w } } := rfl

theorem copySpan_writesOnly (s : State) (a b : Space × Nat) (n : Nat) : WritesOnly s (s.copySpan a b n) := by
  unfold State.copySpan
  exact setSpace_writesOnly _ _ _

theorem copySpan_updJob_writesOnly (s : State) (a b : Space × Nat) (n id : Nat) (f : Job → Job) :
    WritesOnly s ((s.copySpan a b n).updJob id f) :=
  (copySpan_writesOnly s a b n).trans (updJob_writesOnly _ id f)

theorem healBurst_writesOnly (x : Space × Nat) (s : State) : WritesOnly s (healBurst x s) := by
  unfold healBurst
  split
  · exact .refl s
  · split
    · exact updStk_writesOnly s _ _
    · exact .refl s

theorem copyRegion_writesOnly (n page off : Nat) (s : State) (j : Job) (c : Ckpt) :
    WritesOnly s (copyRegion n page off s j c) := by
  cases h : c.slots.find? (fun e => e.1 == page) with
  | none => unfold copyRegion; rw [h]; exact .refl s
  | some e =>
    cases h2 : s.mapping n (page * pageSize) with
    | none => unfold copyRegion; rw [h, h2]; exact .refl s
    | some m =>
      unfold copyRegion
      rw [h, h2]
      exact copySpan_updJob_writesOnly s _ _ _ _ _

theorem copyAhead_writesOnly (n va : Nat) (s : State) : WritesOnly s (copyAhead n va s) := by
  simp only [copyAhead]
  refine WritesOnly.foldl _ (fun s j => ?_) _ s
  split
  · refine WritesOnly.foldl _ (fun s c => ?_) _ s
    simp only [copyAhead1]
    split
    · exact (copyRegion_writesOnly _ _ _ s j c).trans (ckptAhead_writesOnly _ _)
    · exact .refl s
  · exact .refl s

theorem vwrite1_writesOnly (n va : Nat) (b : Byte) (s : State) : WritesOnly s (vwrite1 n va b s) := by
  unfold vwrite1
  split
  · exact .refl s
  · exact setSpace_writesOnly s _ _

theorem vwriteRaw_writesOnly (n : Nat) (bs : List Byte) (va : Nat) (s : State) : WritesOnly s (vwriteRaw n va bs s) := by
  induction bs generalizing va s with
  | nil => exact .refl s
  | cons b bs ih => exact (vwrite1_writesOnly n va b s).trans (ih (va + 1) _)

/-- A write of a VI's range. -/
theorem vwrite_writesOnly (n va : Nat) (bs : List Byte) (s : State) : WritesOnly s (vwrite n va bs s) := by
  unfold vwrite
  dsimp only
  have h : ∀ s, WritesOnly s ((granules 64 va bs.length).foldl (fun s a =>
      if va ≤ a ∧ a + 64 ≤ va + bs.length then
        match s.xlate n a with | some x => healBurst x s | none => s
      else s) s) := fun s => WritesOnly.foldl _ (fun s a => by
    split
    · split
      · exact healBurst_writesOnly _ s
      · exact .refl s
    · exact .refl s) _ s
  have h2 := (WritesOnly.foldl (fun s a => copyAhead n a s) (fun s a => copyAhead_writesOnly n a s)
    (granules 65536 va bs.length) s).trans (h _)
  split
  · exact h2.trans (vwriteRaw_writesOnly _ _ _ _)
  · exact h2.trans (vwriteRaw_writesOnly _ _ _ _)

/-- A command's store. -/
theorem vstore_writesOnly (p : Packet) (va : Nat) (bs : List Byte) (s : State) : WritesOnly s (vstore p va bs s).1 :=
  vwrite_writesOnly p.vi va bs s

/-! ## Event records -/

/-- A record that waits for the flash changes the boot registers' queue alone. -/
theorem evrec_eq (code source a b c : Nat) (s : State) :
    evrec code source a b c s = { s with boot := { s.boot with
      evQueue := (evrec code source a b c s).boot.evQueue, evLost := (evrec code source a b c s).boot.evLost
      evLostNew := (evrec code source a b c s).boot.evLostNew } } := by
  simp only [evrec]
  split
  · rfl
  · split <;> rfl

end Sys2Proof.Machine
end

