-- ==== Sys2Proof/Laws/PerInstr.lean ====
section
/-! SUPPORT. The per-row family: what being well formed says of the packet of a row, one lemma per constructor. -/

namespace Sys2Proof.Laws.rowShape

open Sys2Proof Sys2Proof.Machine

/-- The packet of a well-formed packet row belongs to an SQ of a VI of the module and carries an opcode of Table 2.10. -/
def Statement (i : Instr) : Prop :=
  i.wf = true → ∀ p, i.packet = some p → viOk p.vi = true ∧ p.sq < 8 ∧ opcodes.contains p.op = true

theorem of_has {p : Packet} {n : Nat} (h : p.has n = true) (hn : opcodes.contains n = true) :
    viOk p.vi = true ∧ p.sq < 8 ∧ opcodes.contains p.op = true := by
  simp only [Packet.has, Bool.and_eq_true, decide_eq_true_eq, beq_iff_eq] at h
  exact ⟨h.1.1, h.1.2, by rw [Packet.op, h.2]; exact hn⟩

theorem move (p : Packet) : Statement (.move p) := by
  rintro h _ ⟨⟩; exact of_has h rfl
theorem fill (p : Packet) : Statement (.fill p) := by
  rintro h _ ⟨⟩; exact of_has h rfl
theorem migrate (p : Packet) : Statement (.migrate p) := by
  rintro h _ ⟨⟩; exact of_has h rfl
theorem placeMap (p : Packet) : Statement (.placeMap p) := by
  rintro h _ ⟨⟩; exact of_has (Bool.and_eq_true_iff.mp h).1 rfl
theorem placeUnmap (p : Packet) : Statement (.placeUnmap p) := by
  rintro h _ ⟨⟩; exact of_has (Bool.and_eq_true_iff.mp h).1 rfl
theorem placeQuery (p : Packet) : Statement (.placeQuery p) := by
  rintro h _ ⟨⟩; exact of_has (Bool.and_eq_true_iff.mp h).1 rfl
theorem fence (p : Packet) : Statement (.fence p) := by
  rintro h _ ⟨⟩; exact of_has h rfl
theorem matmul (p : Packet) : Statement (.matmul p) := by
  rintro h _ ⟨⟩; exact of_has h rfl
theorem matmulBatched (p : Packet) : Statement (.matmulBatched p) := by
  rintro h _ ⟨⟩; exact of_has h rfl
theorem braidRun (p : Packet) : Statement (.braidRun p) := by
  rintro h _ ⟨⟩; exact of_has h rfl
theorem braidLoadProgram (p : Packet) : Statement (.braidLoadProgram p) := by
  rintro h _ ⟨⟩; exact of_has (Bool.and_eq_true_iff.mp h).1 rfl
theorem braidLoadSeed (p : Packet) : Statement (.braidLoadSeed p) := by
  rintro h _ ⟨⟩; exact of_has (Bool.and_eq_true_iff.mp h).1 rfl
theorem tableLoad (p : Packet) : Statement (.tableLoad p) := by
  rintro h _ ⟨⟩; exact of_has h rfl
theorem attnFwd (p : Packet) : Statement (.attnFwd p) := by
  rintro h _ ⟨⟩; exact of_has h rfl
theorem attnBwd (p : Packet) : Statement (.attnBwd p) := by
  rintro h _ ⟨⟩; exact of_has h rfl
theorem rolloutOpen (p : Packet) : Statement (.rolloutOpen p) := by
  rintro h _ ⟨⟩; exact of_has (Bool.and_eq_true_iff.mp h).1 rfl
theorem rolloutClose (p : Packet) : Statement (.rolloutClose p) := by
  rintro h _ ⟨⟩; exact of_has (Bool.and_eq_true_iff.mp h).1 rfl
theorem rolloutStep (p : Packet) : Statement (.rolloutStep p) := by
  rintro h _ ⟨⟩; exact of_has h rfl
theorem sample (p : Packet) : Statement (.sample p) := by
  rintro h _ ⟨⟩; exact of_has h rfl
theorem seqCancel (p : Packet) : Statement (.seqCancel p) := by
  rintro h _ ⟨⟩; exact of_has h rfl
theorem specVerify (p : Packet) : Statement (.specVerify p) := by
  rintro h _ ⟨⟩; exact of_has h rfl
theorem prefill (p : Packet) : Statement (.prefill p) := by
  rintro h _ ⟨⟩; exact of_has h rfl
theorem kvPoolCreate (p : Packet) : Statement (.kvPoolCreate p) := by
  rintro h _ ⟨⟩; exact of_has (Bool.and_eq_true_iff.mp h).1 rfl
theorem kvPoolSetPolicy (p : Packet) : Statement (.kvPoolSetPolicy p) := by
  rintro h _ ⟨⟩; exact of_has (Bool.and_eq_true_iff.mp h).1 rfl
theorem kvPoolDestroy (p : Packet) : Statement (.kvPoolDestroy p) := by
  rintro h _ ⟨⟩; exact of_has (Bool.and_eq_true_iff.mp h).1 rfl
theorem kvShipReceive (p : Packet) : Statement (.kvShipReceive p) := by
  rintro h _ ⟨⟩; exact of_has (Bool.and_eq_true_iff.mp h).1 rfl
theorem kvShipSend (p : Packet) : Statement (.kvShipSend p) := by
  rintro h _ ⟨⟩; exact of_has (Bool.and_eq_true_iff.mp h).1 rfl
theorem kvFork (p : Packet) : Statement (.kvFork p) := by
  rintro h _ ⟨⟩; exact of_has h rfl
theorem kvRelease (p : Packet) : Statement (.kvRelease p) := by
  rintro h _ ⟨⟩; exact of_has h rfl
theorem passFwd (p : Packet) : Statement (.passFwd p) := by
  rintro h _ ⟨⟩; exact of_has (Bool.and_eq_true_iff.mp h).1 rfl
theorem passFwdQuery (p : Packet) : Statement (.passFwdQuery p) := by
  rintro h _ ⟨⟩; exact of_has (Bool.and_eq_true_iff.mp h).1 rfl
theorem passBwd (p : Packet) : Statement (.passBwd p) := by
  rintro h _ ⟨⟩; exact of_has h rfl
theorem update (p : Packet) : Statement (.update p) := by
  rintro h _ ⟨⟩; exact of_has h rfl
theorem stepSizeSet (p : Packet) : Statement (.stepSizeSet p) := by
  rintro h _ ⟨⟩; exact of_has h rfl
theorem updateProgramLoad (p : Packet) : Statement (.updateProgramLoad p) := by
  rintro h _ ⟨⟩; exact of_has h rfl
theorem stowLoad (p : Packet) : Statement (.stowLoad p) := by
  rintro h _ ⟨⟩; exact of_has h rfl
theorem adapterLoad (p : Packet) : Statement (.adapterLoad p) := by
  rintro h _ ⟨⟩; exact of_has (Bool.and_eq_true_iff.mp h).1 rfl
theorem adapterUnload (p : Packet) : Statement (.adapterUnload p) := by
  rintro h _ ⟨⟩; exact of_has (Bool.and_eq_true_iff.mp h).1 rfl
theorem freshetPush (p : Packet) : Statement (.freshetPush p) := by
  rintro h _ ⟨⟩; exact of_has h rfl
theorem freshetFlip (p : Packet) : Statement (.freshetFlip p) := by
  rintro h _ ⟨⟩; exact of_has (Bool.and_eq_true_iff.mp h).1 rfl
theorem freshetDiscard (p : Packet) : Statement (.freshetDiscard p) := by
  rintro h _ ⟨⟩; exact of_has (Bool.and_eq_true_iff.mp h).1 rfl
theorem modelDrain (p : Packet) : Statement (.modelDrain p) := by
  rintro h _ ⟨⟩; exact of_has h rfl
theorem put (p : Packet) : Statement (.put p) := by
  rintro h _ ⟨⟩; exact of_has h rfl
theorem get (p : Packet) : Statement (.get p) := by
  rintro h _ ⟨⟩; exact of_has h rfl
theorem atomic (p : Packet) : Statement (.atomic p) := by
  rintro h _ ⟨⟩; exact of_has h rfl
theorem signal (p : Packet) : Statement (.signal p) := by
  rintro h _ ⟨⟩; exact of_has h rfl
theorem shift (p : Packet) : Statement (.shift p) := by
  rintro h _ ⟨⟩; exact of_has h rfl
theorem permute (p : Packet) : Statement (.permute p) := by
  rintro h _ ⟨⟩; exact of_has h rfl
theorem reduceShift (p : Packet) : Statement (.reduceShift p) := by
  rintro h _ ⟨⟩; exact of_has h rfl
theorem groupDefine (p : Packet) : Statement (.groupDefine p) := by
  rintro h _ ⟨⟩; exact of_has (Bool.and_eq_true_iff.mp h).1 rfl
theorem groupRelease (p : Packet) : Statement (.groupRelease p) := by
  rintro h _ ⟨⟩; exact of_has (Bool.and_eq_true_iff.mp h).1 rfl
theorem setDomain (p : Packet) : Statement (.setDomain p) := by
  rintro h _ ⟨⟩; exact of_has (Bool.and_eq_true_iff.mp h).1 rfl
theorem ckptTake (p : Packet) : Statement (.ckptTake p) := by
  rintro h _ ⟨⟩; exact of_has (Bool.and_eq_true_iff.mp h).1 rfl
theorem ckptHold (p : Packet) : Statement (.ckptHold p) := by
  rintro h _ ⟨⟩; exact of_has (Bool.and_eq_true_iff.mp h).1 rfl
theorem ckptDiscard (p : Packet) : Statement (.ckptDiscard p) := by
  rintro h _ ⟨⟩; exact of_has (Bool.and_eq_true_iff.mp h).1 rfl
theorem ckptReadback (p : Packet) : Statement (.ckptReadback p) := by
  rintro h _ ⟨⟩; exact of_has (Bool.and_eq_true_iff.mp h).1 rfl
theorem ckptExport (p : Packet) : Statement (.ckptExport p) := by
  rintro h _ ⟨⟩; exact of_has (Bool.and_eq_true_iff.mp h).1 rfl
theorem ckptList (p : Packet) : Statement (.ckptList p) := by
  rintro h _ ⟨⟩; exact of_has (Bool.and_eq_true_iff.mp h).1 rfl
theorem restore (p : Packet) : Statement (.restore p) := by
  rintro h _ ⟨⟩; exact of_has h rfl
theorem rollback (p : Packet) : Statement (.rollback p) := by
  rintro h _ ⟨⟩; exact of_has h rfl
theorem shrink (p : Packet) : Statement (.shrink p) := by
  rintro h _ ⟨⟩; exact of_has h rfl
theorem jobCreate (p : Packet) : Statement (.jobCreate p) := by
  rintro h _ ⟨⟩; exact of_has h rfl
theorem jobStart (p : Packet) : Statement (.jobStart p) := by
  rintro h _ ⟨⟩; exact of_has h rfl
theorem jobPreempt (p : Packet) : Statement (.jobPreempt p) := by
  rintro h _ ⟨⟩; exact of_has h rfl
theorem jobEnd (p : Packet) : Statement (.jobEnd p) := by
  rintro h _ ⟨⟩; exact of_has h rfl
theorem abortPacket (p : Packet) : Statement (.abortPacket p) := by
  rintro h _ ⟨⟩; exact of_has (Bool.and_eq_true_iff.mp h).1 rfl
theorem abortJob (p : Packet) : Statement (.abortJob p) := by
  rintro h _ ⟨⟩; exact of_has (Bool.and_eq_true_iff.mp h).1 rfl
theorem admissionSetVi (p : Packet) : Statement (.admissionSetVi p) := by
  rintro h _ ⟨⟩; exact of_has (Bool.and_eq_true_iff.mp h).1 rfl
theorem admissionSetMode (p : Packet) : Statement (.admissionSetMode p) := by
  rintro h _ ⟨⟩; exact of_has (Bool.and_eq_true_iff.mp h).1 rfl
theorem admissionQuery (p : Packet) : Statement (.admissionQuery p) := by
  rintro h _ ⟨⟩; exact of_has (Bool.and_eq_true_iff.mp h).1 rfl
theorem selftestCore (p : Packet) : Statement (.selftestCore p) := by
  rintro h _ ⟨⟩; exact of_has (Bool.and_eq_true_iff.mp h).1 rfl
theorem selftestSliced (p : Packet) : Statement (.selftestSliced p) := by
  rintro h _ ⟨⟩; exact of_has (Bool.and_eq_true_iff.mp h).1 rfl
theorem selftestStop (p : Packet) : Statement (.selftestStop p) := by
  rintro h _ ⟨⟩; exact of_has (Bool.and_eq_true_iff.mp h).1 rfl
theorem selftestRotation (p : Packet) : Statement (.selftestRotation p) := by
  rintro h _ ⟨⟩; exact of_has (Bool.and_eq_true_iff.mp h).1 rfl
theorem calibrate (p : Packet) : Statement (.calibrate p) := by
  rintro h _ ⟨⟩; exact of_has (Bool.and_eq_true_iff.mp h).1 rfl
theorem linkPattern (p : Packet) : Statement (.linkPattern p) := by
  rintro h _ ⟨⟩; exact of_has (Bool.and_eq_true_iff.mp h).1 rfl
theorem linkPatternStop (p : Packet) : Statement (.linkPatternStop p) := by
  rintro h _ ⟨⟩; exact of_has (Bool.and_eq_true_iff.mp h).1 rfl
theorem evrecRead (p : Packet) : Statement (.evrecRead p) := by
  rintro h _ ⟨⟩; exact of_has h rfl
theorem fwStage (p : Packet) : Statement (.fwStage p) := by
  rintro h _ ⟨⟩; exact of_has h rfl
theorem fwActivateTrial (p : Packet) : Statement (.fwActivateTrial p) := by
  rintro h _ ⟨⟩; exact of_has (Bool.and_eq_true_iff.mp h).1 rfl
theorem fwActivateCommit (p : Packet) : Statement (.fwActivateCommit p) := by
  rintro h _ ⟨⟩; exact of_has (Bool.and_eq_true_iff.mp h).1 rfl
theorem fwActivateDisarm (p : Packet) : Statement (.fwActivateDisarm p) := by
  rintro h _ ⟨⟩; exact of_has (Bool.and_eq_true_iff.mp h).1 rfl
theorem fwActivateReset (p : Packet) : Statement (.fwActivateReset p) := by
  rintro h _ ⟨⟩; exact of_has (Bool.and_eq_true_iff.mp h).1 rfl
theorem powerCapSet (p : Packet) : Statement (.powerCapSet p) := by
  rintro h _ ⟨⟩; exact of_has (Bool.and_eq_true_iff.mp h).1 rfl
theorem powerCapQuery (p : Packet) : Statement (.powerCapQuery p) := by
  rintro h _ ⟨⟩; exact of_has (Bool.and_eq_true_iff.mp h).1 rfl
theorem setRole (p : Packet) : Statement (.setRole p) := by
  rintro h _ ⟨⟩; exact of_has (Bool.and_eq_true_iff.mp h).1 rfl
theorem setPeriod (p : Packet) : Statement (.setPeriod p) := by
  rintro h _ ⟨⟩; exact of_has (Bool.and_eq_true_iff.mp h).1 rfl
theorem armEpoch (p : Packet) : Statement (.armEpoch p) := by
  rintro h _ ⟨⟩; exact of_has (Bool.and_eq_true_iff.mp h).1 rfl
theorem setBeaconPorts (p : Packet) : Statement (.setBeaconPorts p) := by
  rintro h _ ⟨⟩; exact of_has (Bool.and_eq_true_iff.mp h).1 rfl
theorem faultPolicySet (p : Packet) : Statement (.faultPolicySet p) := by
  rintro h _ ⟨⟩; exact of_has (Bool.and_eq_true_iff.mp h).1 rfl
theorem faultPolicyDefaults (p : Packet) : Statement (.faultPolicyDefaults p) := by
  rintro h _ ⟨⟩; exact of_has (Bool.and_eq_true_iff.mp h).1 rfl
theorem phaseTimesRead (p : Packet) : Statement (.phaseTimesRead p) := by
  rintro h _ ⟨⟩; exact of_has h rfl
theorem configInstall (p : Packet) : Statement (.configInstall p) := by
  rintro h _ ⟨⟩; exact of_has (Bool.and_eq_true_iff.mp h).1 rfl
theorem configRead (p : Packet) : Statement (.configRead p) := by
  rintro h _ ⟨⟩; exact of_has (Bool.and_eq_true_iff.mp h).1 rfl
theorem saveRoutes (p : Packet) : Statement (.saveRoutes p) := by
  rintro h _ ⟨⟩; exact of_has (Bool.and_eq_true_iff.mp h).1 rfl
theorem configClear (p : Packet) : Statement (.configClear p) := by
  rintro h _ ⟨⟩; exact of_has (Bool.and_eq_true_iff.mp h).1 rfl
theorem sqTailDbWrite : ∀ vi q value, Statement (.sqTailDbWrite vi q value) := by
  intros; rintro _ _ ⟨⟩
theorem cqHeadDbWrite : ∀ vi q value, Statement (.cqHeadDbWrite vi q value) := by
  intros; rintro _ _ ⟨⟩
theorem sqCfgWrite : ∀ vi q value, Statement (.sqCfgWrite vi q value) := by
  intros; rintro _ _ ⟨⟩
theorem cqCfgWrite : ∀ vi q value, Statement (.cqCfgWrite vi q value) := by
  intros; rintro _ _ ⟨⟩
theorem viCtrlReset : ∀ vi value, Statement (.viCtrlReset vi value) := by
  intros; rintro _ _ ⟨⟩
theorem functionLevelReset : ∀ vi, Statement (.functionLevelReset vi) := by
  intros; rintro _ _ ⟨⟩
theorem viResetComplete : ∀ vi, Statement (.viResetComplete vi) := by
  intros; rintro _ _ ⟨⟩
theorem fltNtcCfgWrite : ∀ value, Statement (.fltNtcCfgWrite value) := by
  intros; rintro _ _ ⟨⟩
theorem fltNtcHeadWrite : ∀ value, Statement (.fltNtcHeadWrite value) := by
  intros; rintro _ _ ⟨⟩
theorem fltStatClear : ∀ unit value, Statement (.fltStatClear unit value) := by
  intros; rintro _ _ ⟨⟩
theorem weirRtDataWrite : ∀ value, Statement (.weirRtDataWrite value) := by
  intros; rintro _ _ ⟨⟩
theorem latchingRead : ∀ vi offset, Statement (.latchingRead vi offset) := by
  intros; rintro _ _ ⟨⟩
theorem rcRead : ∀ vi offset, Statement (.rcRead vi offset) := by
  intros; rintro _ _ ⟨⟩
theorem registerWrite : ∀ vi offset value, Statement (.registerWrite vi offset value) := by
  intros; rintro _ _ ⟨⟩
theorem irqTimeExpire : ∀ vi cq, Statement (.irqTimeExpire vi cq) := by
  intros; rintro _ _ ⟨⟩
theorem barrierDispatch : ∀ vi sq, Statement (.barrierDispatch vi sq) := by
  intros; rintro _ _ ⟨⟩
theorem powerOn : ∀ mvA mvB, Statement (.powerOn mvA mvB) := by
  intros; rintro _ _ ⟨⟩
theorem pwrGood : Statement .pwrGood := by
  rintro _ _ ⟨⟩
theorem pwrEnDeassert : ∀ us, Statement (.pwrEnDeassert us) := by
  intros; rintro _ _ ⟨⟩
theorem perstNAssert : ∀ us, Statement (.perstNAssert us) := by
  intros; rintro _ _ ⟨⟩
theorem bootStart : Statement .bootStart := by
  rintro _ _ ⟨⟩
theorem bootStageEnd : ∀ r, Statement (.bootStageEnd r) := by
  intros; rintro _ _ ⟨⟩
theorem pcieConfigRequest : ∀ vi ms req, Statement (.pcieConfigRequest vi ms req) := by
  intros; rintro _ _ ⟨⟩
theorem trialTimeout : Statement .trialTimeout := by
  rintro _ _ ⟨⟩
theorem activateChipReset : Statement .activateChipReset := by
  rintro _ _ ⟨⟩
theorem pldmFirmwareUpdate : ∀ image, Statement (.pldmFirmwareUpdate image) := by
  intros; rintro _ _ ⟨⟩
theorem spdmRequest : ∀ code, Statement (.spdmRequest code) := by
  intros; rintro _ _ ⟨⟩
theorem pldmEventRetrieve : Statement .pldmEventRetrieve := by
  rintro _ _ ⟨⟩
theorem pcieHotReset : Statement .pcieHotReset := by
  rintro _ _ ⟨⟩
theorem pcieAerError : ∀ status, Statement (.pcieAerError status) := by
  intros; rintro _ _ ⟨⟩
theorem inputVoltageChange : ∀ mv, Statement (.inputVoltageChange mv) := by
  intros; rintro _ _ ⟨⟩
theorem voltageLimitLapse : Statement .voltageLimitLapse := by
  rintro _ _ ⟨⟩
theorem feedLost : ∀ feed mv, Statement (.feedLost feed mv) := by
  intros; rintro _ _ ⟨⟩
theorem feedRestored : ∀ feed mv, Statement (.feedRestored feed mv) := by
  intros; rintro _ _ ⟨⟩
theorem powerMeasure : ∀ watts, Statement (.powerMeasure watts) := by
  intros; rintro _ _ ⟨⟩
theorem thermalThrottle : ∀ sensor temp, Statement (.thermalThrottle sensor temp) := by
  intros; rintro _ _ ⟨⟩
theorem thermalStepTimer : ∀ readings, Statement (.thermalStepTimer readings) := by
  intros; rintro _ _ ⟨⟩
theorem thermalTrip : ∀ sensor temp, Statement (.thermalTrip sensor temp) := by
  intros; rintro _ _ ⟨⟩
theorem hoursTick : Statement .hoursTick := by
  rintro _ _ ⟨⟩
theorem fretBoundary : ∀ refPhase, Statement (.fretBoundary refPhase) := by
  intros; rintro _ _ ⟨⟩
theorem ftuLockAcquired : Statement .ftuLockAcquired := by
  rintro _ _ ⟨⟩
theorem ftuHoldoverEntry : Statement .ftuHoldoverEntry := by
  rintro _ _ ⟨⟩
theorem beaconReceive : ∀ port b phase, Statement (.beaconReceive port b phase) := by
  intros; rintro _ _ ⟨⟩
theorem epochInMark : Statement .epochInMark := by
  rintro _ _ ⟨⟩
theorem fretRefGained : Statement .fretRefGained := by
  rintro _ _ ⟨⟩
theorem fretRefLost : Statement .fretRefLost := by
  rintro _ _ ⟨⟩
theorem ckptFreeze : ∀ job ckpt, Statement (.ckptFreeze job ckpt) := by
  intros; rintro _ _ ⟨⟩
theorem flipDecision : ∀ job model, Statement (.flipDecision job model) := by
  intros; rintro _ _ ⟨⟩
theorem collectiveStart : ∀ vi sq seq, Statement (.collectiveStart vi sq seq) := by
  intros; rintro _ _ ⟨⟩
theorem recalWindowStart : ∀ stack, Statement (.recalWindowStart stack) := by
  intros; rintro _ _ ⟨⟩
theorem recalWindowEnd : ∀ stack rows, Statement (.recalWindowEnd stack rows) := by
  intros; rintro _ _ ⟨⟩
theorem recalDueSet : ∀ stack, Statement (.recalDueSet stack) := by
  intros; rintro _ _ ⟨⟩
theorem recalForced : ∀ stack, Statement (.recalForced stack) := by
  intros; rintro _ _ ⟨⟩
theorem scrubBurst : ∀ stack frame burst result, Statement (.scrubBurst stack frame burst result) := by
  intros; rintro _ _ ⟨⟩
theorem scrubDemandSlot : ∀ stack, Statement (.scrubDemandSlot stack) := by
  intros; rintro _ _ ⟨⟩
theorem pageMoveStart : ∀ hub, Statement (.pageMoveStart hub) := by
  intros; rintro _ _ ⟨⟩
theorem pageDrainEnd : ∀ vi page, Statement (.pageDrainEnd vi page) := by
  intros; rintro _ _ ⟨⟩
theorem pageCopyAheadDone : ∀ vi page, Statement (.pageCopyAheadDone vi page) := by
  intros; rintro _ _ ⟨⟩
theorem pageCopyDone : ∀ vi page ns, Statement (.pageCopyDone vi page ns) := by
  intros; rintro _ _ ⟨⟩
theorem frameZeroed : ∀ frame, Statement (.frameZeroed frame) := by
  intros; rintro _ _ ⟨⟩
theorem hostTierStream : ∀ job model region, Statement (.hostTierStream job model region) := by
  intros; rintro _ _ ⟨⟩
theorem tileIssue : ∀ die core u, Statement (.tileIssue die core u) := by
  intros; rintro _ _ ⟨⟩
theorem tileEnd : ∀ die core u ns, Statement (.tileEnd die core u ns) := by
  intros; rintro _ _ ⟨⟩
theorem arrayCheckFail : ∀ die core pass vector sumsA sumsB ns, Statement (.arrayCheckFail die core pass vector sumsA sumsB ns) := by
  intros; rintro _ _ ⟨⟩
theorem arrayParityHalt : ∀ die core found halt, Statement (.arrayParityHalt die core found halt) := by
  intros; rintro _ _ ⟨⟩
theorem braidParityHalt : ∀ die core spot ns, Statement (.braidParityHalt die core spot ns) := by
  intros; rintro _ _ ⟨⟩
theorem capoPointReached : ∀ die core ns, Statement (.capoPointReached die core ns) := by
  intros; rintro _ _ ⟨⟩
theorem batchStep : ∀ roll fail, Statement (.batchStep roll fail) := by
  intros; rintro _ _ ⟨⟩
theorem exhaustionPolicy : ∀ job rollout slot, Statement (.exhaustionPolicy job rollout slot) := by
  intros; rintro _ _ ⟨⟩
theorem kvPageCheck : ∀ job pool table, Statement (.kvPageCheck job pool table) := by
  intros; rintro _ _ ⟨⟩
theorem kvReceiveTimeout : ∀ job pool table, Statement (.kvReceiveTimeout job pool table) := by
  intros; rintro _ _ ⟨⟩
theorem freshetChunkCheck : ∀ job model region, Statement (.freshetChunkCheck job model region) := by
  intros; rintro _ _ ⟨⟩
theorem pushClaimRetry : ∀ vi sq seq, Statement (.pushClaimRetry vi sq seq) := by
  intros; rintro _ _ ⟨⟩
theorem freshetBusy : ∀ vi sq seq, Statement (.freshetBusy vi sq seq) := by
  intros; rintro _ _ ⟨⟩
theorem regionDrainEnd : ∀ job model region, Statement (.regionDrainEnd job model region) := by
  intros; rintro _ _ ⟨⟩
theorem drainTimeout : ∀ job model, Statement (.drainTimeout job model) := by
  intros; rintro _ _ ⟨⟩
theorem ckptRegionCopyDone : ∀ job ckpt region result, Statement (.ckptRegionCopyDone job ckpt region result) := by
  intros; rintro _ _ ⟨⟩
theorem ckptCopyAheadDone : ∀ job ckpt region ns, Statement (.ckptCopyAheadDone job ckpt region ns) := by
  intros; rintro _ _ ⟨⟩
theorem ckptComplete : ∀ job ckpt, Statement (.ckptComplete job ckpt) := by
  intros; rintro _ _ ⟨⟩
theorem flitReceive : ∀ port f, Statement (.flitReceive port f) := by
  intros; rintro _ _ ⟨⟩
theorem ethFrameReceive : ∀ port fcsOk udpOk pkt, Statement (.ethFrameReceive port fcsOk udpOk pkt) := by
  intros; rintro _ _ ⟨⟩
theorem transitForward : ∀ port pkt, Statement (.transitForward port pkt) := by
  intros; rintro _ _ ⟨⟩
theorem putData : ∀ pkt, Statement (.putData pkt) := by
  intros; rintro _ _ ⟨⟩
theorem getReq : ∀ pkt, Statement (.getReq pkt) := by
  intros; rintro _ _ ⟨⟩
theorem getData : ∀ pkt, Statement (.getData pkt) := by
  intros; rintro _ _ ⟨⟩
theorem atomicReq : ∀ pkt, Statement (.atomicReq pkt) := by
  intros; rintro _ _ ⟨⟩
theorem atomicResp : ∀ pkt, Statement (.atomicResp pkt) := by
  intros; rintro _ _ ⟨⟩
theorem signalPacket : ∀ pkt, Statement (.signalPacket pkt) := by
  intros; rintro _ _ ⟨⟩
theorem ack : ∀ pkt, Statement (.ack pkt) := by
  intros; rintro _ _ ⟨⟩
theorem nak : ∀ pkt, Statement (.nak pkt) := by
  intros; rintro _ _ ⟨⟩
theorem deny : ∀ pkt, Statement (.deny pkt) := by
  intros; rintro _ _ ⟨⟩
theorem grantReq : ∀ pkt, Statement (.grantReq pkt) := by
  intros; rintro _ _ ⟨⟩
theorem poolSlotGrant : ∀ half, Statement (.poolSlotGrant half) := by
  intros; rintro _ _ ⟨⟩
theorem grant : ∀ pkt, Statement (.grant pkt) := by
  intros; rintro _ _ ⟨⟩
theorem collData : ∀ pkt, Statement (.collData pkt) := by
  intros; rintro _ _ ⟨⟩
theorem redData : ∀ pkt, Statement (.redData pkt) := by
  intros; rintro _ _ ⟨⟩
theorem chunkRetransmitTimeout : ∀ dst stream chunk, Statement (.chunkRetransmitTimeout dst stream chunk) := by
  intros; rintro _ _ ⟨⟩
theorem destUnreachable : ∀ vi sq seq, Statement (.destUnreachable vi sq seq) := by
  intros; rintro _ _ ⟨⟩
theorem groupTimeout : ∀ job group member, Statement (.groupTimeout job group member) := by
  intros; rintro _ _ ⟨⟩
theorem portTrained : ∀ port peer peerPort delay, Statement (.portTrained port peer peerPort delay) := by
  intros; rintro _ _ ⟨⟩
theorem portFailed : ∀ port cause, Statement (.portFailed port cause) := by
  intros; rintro _ _ ⟨⟩
theorem spareFailover : ∀ failed spare peerSpare, Statement (.spareFailover failed spare peerSpare) := by
  intros; rintro _ _ ⟨⟩
theorem spareUnfit : ∀ port lane, Statement (.spareUnfit port lane) := by
  intros; rintro _ _ ⟨⟩
theorem linkPatternEnd : ∀ port errs bits, Statement (.linkPatternEnd port errs bits) := by
  intros; rintro _ _ ⟨⟩
theorem cablePresence : ∀ conn present, Statement (.cablePresence conn present) := by
  intros; rintro _ _ ⟨⟩
theorem jobSwitchEnd : ∀ us, Statement (.jobSwitchEnd us) := by
  intros; rintro _ _ ⟨⟩
theorem jobEvictionEnd : ∀ job, Statement (.jobEvictionEnd job) := by
  intros; rintro _ _ ⟨⟩
theorem stepModeTurn : Statement .stepModeTurn := by
  rintro _ _ ⟨⟩
theorem faultEvent : ∀ unit count info access, Statement (.faultEvent unit count info access) := by
  intros; rintro _ _ ⟨⟩
theorem faultWindowClose : ∀ unit, Statement (.faultWindowClose unit) := by
  intros; rintro _ _ ⟨⟩
theorem eventRecordProgram : Statement .eventRecordProgram := by
  rintro _ _ ⟨⟩
theorem blockReset : ∀ b, Statement (.blockReset b) := by
  intros; rintro _ _ ⟨⟩
theorem blockResetDrainEnd : ∀ b, Statement (.blockResetDrainEnd b) := by
  intros; rintro _ _ ⟨⟩
theorem blockResetRejoin : ∀ b, Statement (.blockResetRejoin b) := by
  intros; rintro _ _ ⟨⟩
theorem chipReset : ∀ reason, Statement (.chipReset reason) := by
  intros; rintro _ _ ⟨⟩
theorem coreWdog : ∀ die core unit, Statement (.coreWdog die core unit) := by
  intros; rintro _ _ ⟨⟩
theorem tribWdog : ∀ die core, Statement (.tribWdog die core) := by
  intros; rintro _ _ ⟨⟩
theorem hwFault : ∀ pair, Statement (.hwFault pair) := by
  intros; rintro _ _ ⟨⟩
theorem selftestSlotStart : ∀ die, Statement (.selftestSlotStart die) := by
  intros; rintro _ _ ⟨⟩
theorem selftestSlotEnd : ∀ die failUnit us, Statement (.selftestSlotEnd die failUnit us) := by
  intros; rintro _ _ ⟨⟩
theorem sliceStart : ∀ die, Statement (.sliceStart die) := by
  intros; rintro _ _ ⟨⟩
theorem msiXTableWrite : ∀ vi entry dw value, Statement (.msiXTableWrite vi entry dw value) := by
  intros; rintro _ _ ⟨⟩
theorem spareFit : ∀ port, Statement (.spareFit port) := by
  intros; rintro _ _ ⟨⟩
theorem hubEngineStall : ∀ hub engine, Statement (.hubEngineStall hub engine) := by
  intros; rintro _ _ ⟨⟩
theorem recalibrationTimeout : ∀ stack, Statement (.recalibrationTimeout stack) := by
  intros; rintro _ _ ⟨⟩
theorem sliceEnd : ∀ die core failUnit us, Statement (.sliceEnd die core failUnit us) := by
  intros; rintro _ _ ⟨⟩
theorem boundaryScan : ∀ tck tms tdi trst, Statement (.boundaryScan tck tms tdi trst) := by
  intros; rintro _ _ ⟨⟩

end Sys2Proof.Laws.rowShape
end

