-- ==== Sys2Proof/Tests/Slice0.lean ====
section
/-! SUPPORT. Tests of the model: ill-formed commands that `wf` refuses, witnesses that meet the hypotheses of the
statements clause by clause, and single steps whose results are worked out by hand from the rules they name. -/

open Sys2Proof Sys2Proof.Machine

namespace Sys2Proof.Tests

set_option Elab.async false

/-- A RUNNING job of VI0 with nothing of its own. -/
def job5 : Job :=
  { id := 5, vi := 0, state := 3, ctxHost := 0, evicted := false, ctxFrames := [], cmdList := [], start := none
    deferred := none, heldFrom := 0, lastRan := 0, preempt := 0, preemptBy := 0, capoFret := 0, cls := 0, lastRoll := none, everRun := true
    seedLo := 1, seedHi := 2, seedLoads := 0, progs := [], funcs := [], gens := [], upds := [], stepSize := none
    passes := [], window := none, rollouts := [], pools := [], models := [], ckpts := [], holds := []
    parities := [], domain := 0 }

/-- A mapped page with an HBM home. -/
def page (k f : Nat) : Mapping := { home := .hbm k f, job := 5, move := none }

/-- VI0 with SQ 0 and CQ 0 of 16 entries and 3 pages. -/
def vi0 : Vi :=
  { pages := [(1, page 0 0), (2, page 0 1), (3, page 1 0)]
    sqs := [(0, { en := true, sizeLog2 := 4, base := 0x1000 })], cqs := [(0, { en := true, sizeLog2 := 4, base := 0x4000 })] }

/-- A READY module that has run through its boot, with two stacks in service and one running job. -/
def rdy : State :=
  { boot := { state := 4, stage := 9 }, jobs := [job5], stks := [(0, { state := 1 }), (1, { state := 1 })]
    vis := [(0, vi0)], sched := { holder := some 5, turns := [5] } }

/-- A packet of VI0, SQ 0 for job 5. -/
def pk (op : Half) (p0 p1 p2 p3 p4 p5 : Dword) : Packet :=
  { vi := 0, sq := 0, opcode := op, flags := 0, viTag := 0, jobId := 5, seq := 7, userTag := 0
    p0 := p0, p1 := p1, p2 := p2, p3 := p3, p4 := p4, p5 := p5 }

/-- A command in progress before the packets that the tests use. -/
def op (seq : Word) (g : Progress) : OpenCmd := { pkt := { pk 0x0105 0 0 0 0 0 0 with seq := seq }, prog := g }

/-- `rdy` with memory bytes at the start of page 1 (frame 0 of stack 0). -/
def withBytes (bs : List Byte) : State := { rdy with devMem := Mem.writeN [] 0 bs }

/-- An empty transport packet and an idle flit. -/
def pkt0 : FabPkt :=
  { dst := 0, src := 0, dstJob := 0, kind := 0, first := true, last := true, hops := 0, domain := 0, chunkSeq := 0
    stream := 0, crc := 0, addr := 0, data := [] }

@[inherit_doc pkt0] def flit0 : Flit :=
  { kind := 0, sop := false, eop := false, seq := 0, ack := 0, ackValid := false, nak := false, credit := 0
    payload := [], lcrc := 0 }

/-- A packet row refuses a packet with another opcode. -/
theorem test_wf_opcode_1 : ([(Instr.move (pk (0x0000) 0 0 0 0 0 0)).wf, (Instr.fill (pk (0x0000) 0 0 0 0 0 0)).wf, (Instr.migrate (pk (0x0000) 0 0 0 0 0 0)).wf,
    (Instr.placeMap (pk (0x0000) 0 0 0 0 0 0)).wf, (Instr.placeUnmap (pk (0x0000) 0 0 0 0 0 0)).wf, (Instr.placeQuery (pk (0x0000) 0 0 0 0 0 0)).wf,
    (Instr.fence (pk (0x0000) 0 0 0 0 0 0)).wf, (Instr.matmul (pk (0x0000) 0 0 0 0 0 0)).wf, (Instr.matmulBatched (pk (0x0000) 0 0 0 0 0 0)).wf,
    (Instr.braidRun (pk (0x0000) 0 0 0 0 0 0)).wf, (Instr.braidLoadProgram (pk (0x0000) 0 0 0 0 0 0)).wf, (Instr.braidLoadSeed (pk (0x0000) 0 0 0 0 0 0)).wf,
    (Instr.tableLoad (pk (0x0000) 0 0 0 0 0 0)).wf, (Instr.attnFwd (pk (0x0000) 0 0 0 0 0 0)).wf, (Instr.attnBwd (pk (0x0000) 0 0 0 0 0 0)).wf,
    (Instr.rolloutOpen (pk (0x0000) 0 0 0 0 0 0)).wf, (Instr.rolloutClose (pk (0x0000) 0 0 0 0 0 0)).wf, (Instr.rolloutStep (pk (0x0000) 0 0 0 0 0 0)).wf,
    (Instr.sample (pk (0x0000) 0 0 0 0 0 0)).wf, (Instr.seqCancel (pk (0x0000) 0 0 0 0 0 0)).wf, (Instr.specVerify (pk (0x0000) 0 0 0 0 0 0)).wf,
    (Instr.prefill (pk (0x0000) 0 0 0 0 0 0)).wf, (Instr.kvPoolCreate (pk (0x0000) 0 0 0 0 0 0)).wf, (Instr.kvPoolSetPolicy (pk (0x0000) 0 0 0 0 0 0)).wf,
    (Instr.kvPoolDestroy (pk (0x0000) 0 0 0 0 0 0)).wf, (Instr.kvShipReceive (pk (0x0000) 0 0 0 0 0 0)).wf, (Instr.kvShipSend (pk (0x0000) 0 0 0 0 0 0)).wf,
    (Instr.kvFork (pk (0x0000) 0 0 0 0 0 0)).wf, (Instr.kvRelease (pk (0x0000) 0 0 0 0 0 0)).wf, (Instr.passFwd (pk (0x0000) 0 0 0 0 0 0)).wf,
    (Instr.passFwdQuery (pk (0x0000) 0 0 0 0 0 0)).wf, (Instr.passBwd (pk (0x0000) 0 0 0 0 0 0)).wf, (Instr.update (pk (0x0000) 0 0 0 0 0 0)).wf,
    (Instr.stepSizeSet (pk (0x0000) 0 0 0 0 0 0)).wf, (Instr.updateProgramLoad (pk (0x0000) 0 0 0 0 0 0)).wf, (Instr.stowLoad (pk (0x0000) 0 0 0 0 0 0)).wf,
    (Instr.adapterLoad (pk (0x0000) 0 0 0 0 0 0)).wf, (Instr.adapterUnload (pk (0x0000) 0 0 0 0 0 0)).wf, (Instr.freshetPush (pk (0x0000) 0 0 0 0 0 0)).wf,
    (Instr.freshetFlip (pk (0x0000) 0 0 0 0 0 0)).wf, (Instr.freshetDiscard (pk (0x0000) 0 0 0 0 0 0)).wf, (Instr.modelDrain (pk (0x0000) 0 0 0 0 0 0)).wf,
    (Instr.put (pk (0x0000) 0 0 0 0 0 0)).wf, (Instr.get (pk (0x0000) 0 0 0 0 0 0)).wf, (Instr.atomic (pk (0x0000) 0 0 0 0 0 0)).wf,
    (Instr.signal (pk (0x0000) 0 0 0 0 0 0)).wf, (Instr.shift (pk (0x0000) 0 0 0 0 0 0)).wf, (Instr.permute (pk (0x0000) 0 0 0 0 0 0)).wf] : List Bool).all (· == false) = true := by decide

/-- A packet row refuses a packet with another opcode. -/
theorem test_wf_opcode_2 : ([(Instr.reduceShift (pk (0x0000) 0 0 0 0 0 0)).wf, (Instr.groupDefine (pk (0x0000) 0 0 0 0 0 0)).wf, (Instr.groupRelease (pk (0x0000) 0 0 0 0 0 0)).wf,
    (Instr.setDomain (pk (0x0000) 0 0 0 0 0 0)).wf, (Instr.ckptTake (pk (0x0000) 0 0 0 0 0 0)).wf, (Instr.ckptHold (pk (0x0000) 0 0 0 0 0 0)).wf,
    (Instr.ckptDiscard (pk (0x0000) 0 0 0 0 0 0)).wf, (Instr.ckptReadback (pk (0x0000) 0 0 0 0 0 0)).wf, (Instr.ckptExport (pk (0x0000) 0 0 0 0 0 0)).wf,
    (Instr.ckptList (pk (0x0000) 0 0 0 0 0 0)).wf, (Instr.restore (pk (0x0000) 0 0 0 0 0 0)).wf, (Instr.rollback (pk (0x0000) 0 0 0 0 0 0)).wf,
    (Instr.shrink (pk (0x0000) 0 0 0 0 0 0)).wf, (Instr.jobCreate (pk (0x0000) 0 0 0 0 0 0)).wf, (Instr.jobStart (pk (0x0000) 0 0 0 0 0 0)).wf,
    (Instr.jobPreempt (pk (0x0000) 0 0 0 0 0 0)).wf, (Instr.jobEnd (pk (0x0000) 0 0 0 0 0 0)).wf, (Instr.abortPacket (pk (0x0000) 0 0 0 0 0 0)).wf,
    (Instr.abortJob (pk (0x0000) 0 0 0 0 0 0)).wf, (Instr.admissionSetVi (pk (0x0000) 0 0 0 0 0 0)).wf, (Instr.admissionSetMode (pk (0x0000) 0 0 0 0 0 0)).wf,
    (Instr.admissionQuery (pk (0x0000) 0 0 0 0 0 0)).wf, (Instr.selftestCore (pk (0x0000) 0 0 0 0 0 0)).wf, (Instr.selftestSliced (pk (0x0000) 0 0 0 0 0 0)).wf,
    (Instr.selftestStop (pk (0x0000) 0 0 0 0 0 0)).wf, (Instr.selftestRotation (pk (0x0000) 0 0 0 0 0 0)).wf, (Instr.calibrate (pk (0x0000) 0 0 0 0 0 0)).wf,
    (Instr.linkPattern (pk (0x0000) 0 0 0 0 0 0)).wf, (Instr.linkPatternStop (pk (0x0000) 0 0 0 0 0 0)).wf, (Instr.evrecRead (pk (0x0000) 0 0 0 0 0 0)).wf,
    (Instr.fwStage (pk (0x0000) 0 0 0 0 0 0)).wf, (Instr.fwActivateTrial (pk (0x0000) 0 0 0 0 0 0)).wf, (Instr.fwActivateCommit (pk (0x0000) 0 0 0 0 0 0)).wf,
    (Instr.fwActivateDisarm (pk (0x0000) 0 0 0 0 0 0)).wf, (Instr.fwActivateReset (pk (0x0000) 0 0 0 0 0 0)).wf, (Instr.powerCapSet (pk (0x0000) 0 0 0 0 0 0)).wf,
    (Instr.powerCapQuery (pk (0x0000) 0 0 0 0 0 0)).wf, (Instr.setRole (pk (0x0000) 0 0 0 0 0 0)).wf, (Instr.setPeriod (pk (0x0000) 0 0 0 0 0 0)).wf,
    (Instr.armEpoch (pk (0x0000) 0 0 0 0 0 0)).wf, (Instr.setBeaconPorts (pk (0x0000) 0 0 0 0 0 0)).wf, (Instr.faultPolicySet (pk (0x0000) 0 0 0 0 0 0)).wf,
    (Instr.faultPolicyDefaults (pk (0x0000) 0 0 0 0 0 0)).wf, (Instr.phaseTimesRead (pk (0x0000) 0 0 0 0 0 0)).wf, (Instr.configInstall (pk (0x0000) 0 0 0 0 0 0)).wf,
    (Instr.configRead (pk (0x0000) 0 0 0 0 0 0)).wf, (Instr.saveRoutes (pk (0x0000) 0 0 0 0 0 0)).wf, (Instr.configClear (pk (0x0000) 0 0 0 0 0 0)).wf] : List Bool).all (· == false) = true := by decide

/-- A row with an action refuses its opcode with another action (R84: such an action names no row). -/
theorem test_wf_action_1 : ([(Instr.placeMap (pk 0x0104 0xfe 0 0 0 0 0)).wf, (Instr.placeUnmap (pk 0x0104 0xfe 0 0 0 0 0)).wf, (Instr.placeQuery (pk 0x0104 0xfe 0 0 0 0 0)).wf,
    (Instr.braidLoadProgram (pk 0x0204 0xfe 0 0 0 0 0)).wf, (Instr.braidLoadSeed (pk 0x0204 0xfe 0 0 0 0 0)).wf, (Instr.rolloutOpen (pk 0x0301 0xfe 0 0 0 0 0)).wf,
    (Instr.rolloutClose (pk 0x0301 0xfe 0 0 0 0 0)).wf, (Instr.kvPoolCreate (pk 0x0401 0xfe 0 0 0 0 0)).wf, (Instr.kvPoolSetPolicy (pk 0x0401 0xfe 0 0 0 0 0)).wf,
    (Instr.kvPoolDestroy (pk 0x0401 0xfe 0 0 0 0 0)).wf, (Instr.kvShipReceive (pk 0x0402 0xfe 0 0 0 0 0)).wf, (Instr.kvShipSend (pk 0x0402 0xfe 0 0 0 0 0)).wf,
    (Instr.passFwd (pk 0x0501 0 0x1 0 0 0 0)).wf, (Instr.passFwdQuery (pk 0x0501 0 0x0 0 0 0 0)).wf, (Instr.adapterLoad (pk 0x0602 0xfe00000000 0 0 0 0 0)).wf,
    (Instr.adapterUnload (pk 0x0602 0xfe00000000 0 0 0 0 0)).wf, (Instr.freshetFlip (pk 0x0604 0xfe0000 0 0 0 0 0)).wf, (Instr.freshetDiscard (pk 0x0604 0xfe0000 0 0 0 0 0)).wf,
    (Instr.groupDefine (pk 0x0708 0xfe 0 0 0 0 0)).wf, (Instr.groupRelease (pk 0x0708 0xfe 0 0 0 0 0)).wf, (Instr.setDomain (pk 0x0708 0xfe 0 0 0 0 0)).wf,
    (Instr.ckptTake (pk 0x0801 0xfe 0 0 0 0 0)).wf, (Instr.ckptHold (pk 0x0801 0xfe 0 0 0 0 0)).wf, (Instr.ckptDiscard (pk 0x0801 0xfe 0 0 0 0 0)).wf,
    (Instr.ckptReadback (pk 0x0802 0xfe 0 0 0 0 0)).wf, (Instr.ckptExport (pk 0x0802 0xfe 0 0 0 0 0)).wf, (Instr.ckptList (pk 0x0802 0xfe 0 0 0 0 0)).wf,
    (Instr.abortPacket (pk 0x0905 0xfe 0 0 0 0 0)).wf, (Instr.abortJob (pk 0x0905 0xfe 0 0 0 0 0)).wf, (Instr.admissionSetVi (pk 0x0906 0xfe 0 0 0 0 0)).wf,
    (Instr.admissionSetMode (pk 0x0906 0xfe 0 0 0 0 0)).wf, (Instr.admissionQuery (pk 0x0906 0xfe 0 0 0 0 0)).wf, (Instr.selftestCore (pk 0x0A01 0xfe 0 0 0 0 0)).wf,
    (Instr.selftestSliced (pk 0x0A01 0xfe 0 0 0 0 0)).wf, (Instr.selftestStop (pk 0x0A01 0xfe 0 0 0 0 0)).wf, (Instr.selftestRotation (pk 0x0A01 0xfe 0 0 0 0 0)).wf,
    (Instr.calibrate (pk 0x0A02 0xfe 0 0 0 0 0)).wf, (Instr.linkPattern (pk 0x0A03 0x1000000 0 0 0 0 0)).wf, (Instr.linkPatternStop (pk 0x0A03 0x0 0 0 0 0 0)).wf,
    (Instr.fwActivateTrial (pk 0x0F03 0xfe 0 0 0 0 0)).wf, (Instr.fwActivateCommit (pk 0x0F03 0xfe 0 0 0 0 0)).wf, (Instr.fwActivateDisarm (pk 0x0F03 0xfe 0 0 0 0 0)).wf,
    (Instr.fwActivateReset (pk 0x0F03 0xfe 0 0 0 0 0)).wf, (Instr.powerCapSet (pk 0x0F04 0xfe 0 0 0 0 0)).wf, (Instr.powerCapQuery (pk 0x0F04 0xfe 0 0 0 0 0)).wf,
    (Instr.setRole (pk 0x0F05 0xfe 0 0 0 0 0)).wf, (Instr.setPeriod (pk 0x0F05 0xfe 0 0 0 0 0)).wf, (Instr.armEpoch (pk 0x0F05 0xfe 0 0 0 0 0)).wf] : List Bool).all (· == false) = true := by decide

/-- A row with an action refuses its opcode with another action (R84: such an action names no row). -/
theorem test_wf_action_2 : ([(Instr.setBeaconPorts (pk 0x0F05 0xfe 0 0 0 0 0)).wf, (Instr.faultPolicySet (pk 0x0F06 0xfe 0 0 0 0 0)).wf, (Instr.faultPolicyDefaults (pk 0x0F06 0xfe 0 0 0 0 0)).wf,
    (Instr.configInstall (pk 0x0F08 0xfe 0 0 0 0 0)).wf, (Instr.configRead (pk 0x0F08 0xfe 0 0 0 0 0)).wf, (Instr.saveRoutes (pk 0x0F08 0xfe 0 0 0 0 0)).wf,
    (Instr.configClear (pk 0x0F08 0xfe 0 0 0 0 0)).wf] : List Bool).all (· == false) = true := by decide

/-- No VI 4097 and no SQ 8 (Table 2.1). -/
theorem test_wf_ring : (Instr.move { pk 0x0101 0 0 0 0 0 0 with vi := 4097 }).wf = false
    ∧ (Instr.move { pk 0x0101 0 0 0 0 0 0 with sq := 8 }).wf = false ∧ (Instr.move (pk 0x0101 0 0 0 0 0 0)).wf = true := by
  decide

/-- An event row refuses a unit, an offset or a code that the module does not have. -/
theorem test_wf_event_1 : ([(Instr.sqTailDbWrite 4097 0 0).wf, (Instr.sqTailDbWrite 0 8 0).wf, (Instr.cqHeadDbWrite 0 8 0).wf,
    (Instr.sqCfgWrite 0 8 0).wf, (Instr.cqCfgWrite 0 8 0).wf, (Instr.viCtrlReset 4097 1).wf,
    (Instr.viCtrlReset 0 2).wf, (Instr.functionLevelReset 4097).wf, (Instr.viResetComplete 4097).wf,
    (Instr.fltStatClear 2100 0).wf, (Instr.latchingRead 0 2).wf, (Instr.latchingRead 1 0x10000).wf,
    (Instr.rcRead 0 0x40000).wf, (Instr.registerWrite 1 0x12000 0).wf, (Instr.irqTimeExpire 0 8).wf,
    (Instr.barrierDispatch 0 8).wf, (Instr.pcieConfigRequest 4097 0 (.read .ids)).wf, (Instr.feedLost 2 0).wf,
    (Instr.feedRestored 2 0).wf, (Instr.thermalThrottle 63 0).wf, (Instr.thermalTrip 63 0).wf,
    (Instr.beaconReceive 20 { count := 0, epoch := 0, period := 10, masterId := 0, hops := 0, holdover := false, epochMark := false } 0).wf, (Instr.collectiveStart 0 8 0).wf, (Instr.recalWindowStart 32).wf,
    (Instr.recalWindowEnd 32 0).wf, (Instr.recalDueSet 32).wf, (Instr.recalForced 32).wf,
    (Instr.scrubBurst 32 0 0 0).wf, (Instr.scrubBurst 0 32768 0 0).wf, (Instr.scrubBurst 0 0 32768 0).wf,
    (Instr.scrubBurst 0 0 0 3).wf, (Instr.scrubDemandSlot 32).wf, (Instr.pageMoveStart 8).wf,
    (Instr.pageDrainEnd 4097 1).wf, (Instr.pageCopyAheadDone 4097 1).wf, (Instr.pageCopyDone 4097 1 0).wf,
    (Instr.frameZeroed 8388608).wf, (Instr.tileIssue 18 0 .mvp).wf, (Instr.tileIssue 0 17 .mvp).wf,
    (Instr.tileEnd 18 0 .arrays 0).wf, (Instr.arrayCheckFail 0 0 0 0 [(130, 0)] [] 0).wf, (Instr.arrayParityHalt 0 0 (false, false) ⟨0, 0, 0⟩).wf,
    (Instr.braidParityHalt 0 0 (256, 0) 0).wf, (Instr.capoPointReached 0 17 0).wf, (Instr.pushClaimRetry 0 8 0).wf,
    (Instr.freshetBusy 0 8 0).wf, (Instr.ethFrameReceive 20 true true pkt0).wf, (Instr.transitForward 20 pkt0).wf] : List Bool).all (· == false) = true := by decide

/-- An event row refuses a unit, an offset or a code that the module does not have. -/
theorem test_wf_event_2 : ([(Instr.flitReceive 20 flit0).wf, (Instr.poolSlotGrant 2).wf, (Instr.destUnreachable 0 8 0).wf,
    (Instr.portTrained 20 0 0 0).wf, (Instr.portFailed 20 0).wf, (Instr.portFailed 0 3).wf,
    (Instr.spareFailover 20 0 true).wf, (Instr.spareFailover 0 20 true).wf, (Instr.spareUnfit 0 4).wf,
    (Instr.spareUnfit 20 0).wf, (Instr.linkPatternEnd 0 [0, 0, 0] 0).wf, (Instr.linkPatternEnd 20 [0, 0, 0, 0] 0).wf,
    (Instr.cablePresence 5 true).wf, (Instr.faultEvent 2100 1 0 none).wf, (Instr.faultWindowClose 2100).wf,
    (Instr.blockReset (.weir 2)).wf, (Instr.blockReset (.core 18 0)).wf, (Instr.blockResetDrainEnd (.mover 0 2)).wf,
    (Instr.blockResetRejoin (.hubEngine 8 0)).wf, (Instr.blockReset (.stackCtl 32)).wf, (Instr.blockReset (.sampler 18)).wf,
    (Instr.blockReset (.tributary 18)).wf, (Instr.chipReset 0).wf, (Instr.chipReset 4).wf,
    (Instr.coreWdog 0 0 0).wf, (Instr.coreWdog 0 0 6).wf, (Instr.tribWdog 0 4).wf,
    (Instr.hwFault 2).wf, (Instr.selftestSlotStart 18).wf, (Instr.selftestSlotEnd 0 9 0).wf,
    (Instr.selftestSlotEnd 18 0 0).wf, (Instr.sliceStart 18).wf, (Instr.msiXTableWrite 0 4 0 0).wf,
    (Instr.msiXTableWrite 0 0 4 0).wf, (Instr.spareFit 20).wf, (Instr.hubEngineStall 8 0).wf,
    (Instr.hubEngineStall 0 2).wf, (Instr.recalibrationTimeout 32).wf, (Instr.sliceEnd 18 0 0 0).wf,
    (Instr.sliceEnd 0 0 9 0).wf] : List Bool).all (· == false) = true := by decide

/-! ## Witnesses: queues, registers and interrupts -/

/-- `rdy` with a command at the front of its queue. -/
theorem witness_StepRunsFrontCommand :
    { rdy with pending := [.hoursTick] }.pending = [Instr.hoursTick] ∧ rdy.pending = [] := by decide

/-- A step that answers a next state from a state in canonical form. -/
theorem witness_StepKeepsMemoryForm : ∃ t : State,
    State.memWf { withBytes [1, 0, 2] with pending := [.frameZeroed 0] } = true
    ∧ step { withBytes [1, 0, 2] with pending := [.frameZeroed 0] } = .next t := ⟨_, by decide, rfl⟩

theorem witness_ExecLeavesQueue : ∃ t : State, exec (.frameZeroed 0) rdy = .next t := ⟨_, rfl⟩

theorem witness_WellFormedCommandsComplete : (Instr.fill (pk 0x0102 0 0 0 0 0 0)).wf = true
    ∧ (Instr.faultEvent 2099 1 0 none).wf = true := by decide

theorem witness_PacketRowsRunTheirEffect :
    (let p := pk 0x0102 0x200000 16 0xAB 0 0 0
     (Instr.fill p).packet = some p ∧ (Instr.fill p).wf = true ∧ dispatches p rdy = true)
    ∧ (let p := pk 0x0102 0x200000 16 0xAB 0 0 0
       (Instr.fill p).packet = some p ∧ (Instr.fill p).wf = true ∧ State.reset.fetches p.vi = false) := by decide

/-- Each check of Table 2.13 refuses a packet; the others pass it. -/
theorem witness_RefusedPacketChangesNothing :
    (let p := { pk 0x0102 0 8 0 0 0 0 with viTag := 1 }
     rdy.fetches p.vi = true ∧ ((rdy.vi p.vi).sq p.sq).fetched = [] ∧ p.viTag.toNat ≠ p.vi
     ∧ firstRefusal p rdy = some (0x12, 0x0001, 1))
    ∧ (let p := { pk 0x0906 1 0 0 0 0 0 with vi := 1, viTag := 1 }
       p.viTag.toNat = p.vi ∧ p.vi ≠ 0 ∧ vi0Only p.op = true ∧ firstRefusal p rdy = some (0x12, 0x0003, 0x0906))
    ∧ (let p := pk 0x0106 0 0 0 0 0 0
       p.viTag.toNat = p.vi ∧ opcodes.contains p.op = false ∧ firstRefusal p rdy = some (0xFF, 0x0002, 0x0106))
    ∧ (let p := { pk 0x0102 0 8 0 0 0 0 with jobId := 6 }
       p.job ≠ 0xFFFF ∧ (∀ j ∈ rdy.jobs, j.id = p.job → j.vi ≠ p.vi) ∧ opcodes.contains p.op = true
       ∧ firstRefusal p rdy = some (0x12, 0x0004, 6)) := by decide

/-- `rdy` with two packets fetched, the second not the oldest. -/
def fetched2 : State := rdy.updSq 0 0 fun u =>
  { u with fetched := [pk 0x0102 0x200000 16 0xAB 0 0 0, { pk 0x0105 0 0 0 0 0 0 with seq := 8 }] }

theorem witness_HeldPackets :
    (let p := { pk 0x0102 0x200000 16 0xAB 0 0 0 with flags := 2 }
     let s := { rdy.updSq 0 0 (fun u => { u with fetched := [p] }) with opens := [op 3 .attn] }
     ((s.vi p.vi).sq p.sq).fetched.head? = some p ∧ p.barrier = true ∧ earlierOpen p (taken p s) = true)
    ∧ (let p := pk 0x0102 0x200000 16 0xAB 0 0 0
       let s := { fetched2 with opens := [op 3 (.fence [])] }
       ((s.vi p.vi).sq p.sq).fetched.head? = some p ∧ fenceHolds p (taken p s) = true)
    ∧ (let p := pk 0x0102 0x200000 16 0xAB 0 0 0
       let s := fetched2.updSq 0 0 fun u => { u with waiting := [pk 0x0105 0 0 0 0 0 0] }
       ((s.vi p.vi).sq p.sq).fetched.head? = some p ∧ ((s.vi p.vi).sq p.sq).waiting ≠ [])
    ∧ (let p := pk 0x0102 0x200000 16 0xAB 0 0 0
       let s := { fetched2 with jobs := [{ job5 with state := 1, cls := 2 }], sched := { stepMode := false, queue := [5] } }
       ((s.vi p.vi).sq p.sq).waiting = [] ∧ p.barrier = false ∧ fenceHolds p (taken p s) = false ∧ jobFree p = false
       ∧ (∃ j, s.job? p.job = some j ∧ j.state ≠ 3 ∧ j.state = 1 ∧ j.cls = 2 ∧ s.sched.stepMode = false))
    ∧ (let p := { pk 0x0105 0 0 0 0 0 0 with seq := 8 }
       ((fetched2.vi p.vi).sq p.sq).fetched.contains p = true ∧ ((fetched2.vi p.vi).sq p.sq).fetched.head? ≠ some p) := by
  refine ⟨by decide, by decide, by decide, ⟨by decide, by decide, by decide, by decide, _, rfl, ?_⟩, by decide⟩
  decide

/-- A completion record of VI0, SQ 7. -/
def rec7 : Rec :=
  { key := { vi := 0, sq := 7, seq := 9 }, userTag := 1, opcode := 0x0102, status := 0, interim := false, reason := 0
    result0 := 5, result1 := 6, irqNow := false }

theorem witness_CompletionRecordBytes : rec7.key.sq < 8 := by decide

/-- Each clause: NO_DONE; a VI in reset; a full CQ; a CQ with room, at its last entry and before it, with each interrupt
case. -/
theorem witness_RecordHeldOrWritten :
    (({ pk 0x0102 0 8 0 0 0 0 with flags := 4 } : Packet).flags.getLsbD 2 = true)
    ∧ ((rdy.updVi 0 fun v => { v with resetBusy := true }).vi 0).resetBusy = true
    ∧ (let c := (rdy.updCq 0 0 fun c => { c with tail := 15 }).vi 0 |>.cq 0
       (rdy.vi 0).resetBusy = false ∧ c.blocked = true)
    ∧ (let q := (rdy.updCq 0 0 fun c => { c with tail := 15, head := 15, ien := true, irqCount := 1 }).vi 0 |>.cq 0
       q.blocked = false ∧ q.held = [] ∧ q.tail.toNat + 1 = ringSize q.sizeLog2 ∧ q.ien = true ∧ q.unsig ≠ q.irqCount.toNat)
    ∧ (let q := (rdy.vi 0).cq 0
       q.blocked = false ∧ q.held = [] ∧ q.tail.toNat + 1 ≠ ringSize q.sizeLog2 ∧ q.ien = false)
    ∧ (let s := (rdy.updCq 0 0 fun c => { c with ien := true }).updVi 0 fun v => { v with msixEn := true, msix := [(0, { mask := false })] }
       let q := (s.vi 0).cq 0
       q.blocked = false ∧ q.ien = true ∧ q.unsig = q.irqCount.toNat ∧ s.ready = true ∧ (s.vi 0).msixEn = true
       ∧ (s.vi 0).funcMask = false ∧ ((s.vi 0).vec q.vec.toNat).mask = false ∧ (s.vi 0).d3hot = false) := by decide

theorem witness_FinalRecordFrame : (pk 0x0102 0 0 0 0 0 0).opcode ≠ 0x0503
    ∧ (pk 0x0503 0 0 0 0 0 0).p2.getLsbD 5 = false := by decide

/-- A VI that is on, at the first and last queue, with the queue's EN clear, and with it set and idle. -/
theorem witness_QueueEnableNeedsLegalSize :
    viOk 0 = true ∧ rdy.viOn 0 = true ∧ ((rdy.vi 0).sq 0).en = true ∧ rdy.sqIdle 0 7 = true ∧ ((rdy.vi 0).cq 7).en = false
    ∧ ({ rdy with boot := { rdy.boot with vfEn := true, numVfs := 4096 } }.viOn 4096) = true ∧ viOk 4096 = true := by decide

/-- Each outcome of Table 2.9: an index at the ring size, the present index, another index, and a queue not enabled. -/
theorem witness_DoorbellOutcomes :
    (let u := (rdy.vi 0).sq 0
     rdy.viOn 0 = true ∧ u.en = true ∧ ringSize u.sizeLog2 ≤ bw 16 15 0
     ∧ (bw 15 15 0 < ringSize u.sizeLog2 ∧ u.tail.toNat ≠ bw 15 15 0) ∧ u.tail.toNat = bw 0 15 0)
    ∧ ((rdy.vi 0).sq 7).en = false ∧ ((rdy.vi 0).cq 7).en = false
    ∧ (let c := (rdy.vi 0).cq 0
       c.en = true ∧ ringSize c.sizeLog2 ≤ bw 16 15 0 ∧ bw 15 15 0 < ringSize c.sizeLog2 ∧ c.head.toNat ≠ bw 15 15 0
       ∧ c.head.toNat = bw 0 15 0) := by decide

/-- `rdy` with a FILL of page 1 as the first entry of SQ 0. -/
def ring1 : State :=
  let bs := leBytes 2 0x0102 ++ leBytes 2 0 ++ leBytes 2 0 ++ leBytes 2 5 ++ leBytes 4 7 ++ leBytes 4 0
    ++ leBytes 8 0x200000 ++ leBytes 8 8 ++ leBytes 8 0xAB
  { rdy with hostMem := Mem.writeN [] 0x1000 bs }

theorem witness_FetchOfOneEntry :
    (let u := (ring1.vi 0).sq 0
     let p := packetOf 0 0 (ring1.hostMem.readN (u.base.toNat + 64 * u.head.toNat) 64)
     u.en = true ∧ 1 < ringSize u.sizeLog2 ∧ u.tail.toNat ≠ 1 ∧ ((ring1.vi 0).cq u.cq.toNat).blocked = false
     ∧ ring1.fetches 0 = true ∧ (u.head.toNat + 1) % ringSize u.sizeLog2 = 1 ∧ listFull p ring1 = false
     ∧ firstRefusal p ring1 = none)
    ∧ (let s := rdy.updCq 0 0 fun c => { c with en := false }
       ((s.vi 0).cq 0).blocked = true)
    ∧ ({ rdy with boot := { stage := 1 } }.fetches 0) = false := by decide

theorem witness_ViResetEndsWhatTheViOwns : rdy.viOn 0 = true ∧ (1 : Word).getLsbD 0 = true ∧ (2 : Word).getLsbD 0 = false
    ∧ ((rdy.updVi 4096 fun v => { v with resetBusy := true }).vi 4096).resetBusy = true ∧ viOk 4096 = true := by decide

theorem witness_InterruptRows : viOk 0 = true ∧ rdy.viOn 0 = true
    ∧ (let s := rdy.updVi 0 fun v => { v with msixEn := true, msix := [(3, { pending := true })] }
       s.ready = true ∧ (s.vi 0).msixEn = true ∧ (s.vi 0).funcMask = false ∧ (s.vi 0).resetBusy = false ∧ (s.vi 0).d3hot = false
       ∧ ((s.vi 0).vec 3).pending = true) := by decide

/-- No other vector of that state is pending. -/
theorem witness_InterruptRows_others (i : Nat) (h : i ≠ 3) :
    (((rdy.updVi 0 fun v => { v with msixEn := true, msix := [(3, { pending := true })] }).vi 0).vec i).pending = false := by
  have : ¬ 3 = i := fun e => h e.symm
  simp [State.updVi, State.vi, Vi.vec, rdy, vi0, tget, tset, this]

theorem witness_RegisterReads : viOk 0 = true ∧ rdy.viOn 0 = true ∧ rdy.viOn 1 = false ∧ (1 : Nat) ≠ 0 ∧ 0x10000 ≤ 0x10000 := by
  decide

theorem witness_RegisterWrites : viOk 4096 = true ∧ rdy.viOn 0 = true ∧ rdy.viOn 4096 = false ∧ (7 : Nat) < 8 := by decide

/-- The record of a completed command, byte by byte (Table 2.8). -/
theorem test_record_bytes : ((writeRec 0 rec7 rdy).hostMem.readN 0x4000 16)
    = [9, 0, 0, 0, 1, 0, 0, 0, 0x02, 0x01, 0, 29, 0, 0, 0, 0] := by decide +kernel

/-- FILL repeats the eight bytes of P2 (R495). -/
theorem test_fill : ∃ t, exec (.fill (pk 0x0102 0x200000 16 0x1122334455667788 0 0 0)) rdy = .next t
    ∧ t.devMem.readN 0 17 = [0x88, 0x77, 0x66, 0x55, 0x44, 0x33, 0x22, 0x11, 0x88, 0x77, 0x66, 0x55, 0x44, 0x33, 0x22, 0x11, 0] :=
  ⟨_, rfl, by decide +kernel⟩

/-- CRC-32C of the digits 1 to 9 is 0xE3069283 (the check value of the CRC that R610 and R730 name). -/
theorem test_crc32c : crc32c [0x31, 0x32, 0x33, 0x34, 0x35, 0x36, 0x37, 0x38, 0x39] = 0xE3069283 := by decide +kernel

/-- A doorbell fetches the packet of its entry (R55). -/
theorem test_doorbell_fetch : ∃ t, exec (.sqTailDbWrite 0 0 1) ring1 = .next t
    ∧ (((t.vi 0).sq 0).fetched.map fun p => (p.op, p.p0.toNat, p.p2.toNat)) = [(0x0102, 0x200000, 0xAB)] :=
  ⟨_, rfl, by decide +kernel⟩

/-! ## Witnesses: memory and fret time -/

/-- A packet that is dispatched in `rdy`. -/
def ok (p : Packet) : Bool := dispatches p rdy

theorem witness_MemoryCommandsComplete :
    (let p := pk 0x0102 0x200000 16 0xAB 0 0 0
     ok p = true ∧ p.p0.toNat % 8 = 0 ∧ p.p1.toNat % 8 = 0 ∧ (taken p rdy).firstUnmapped p.vi p.p0.toNat p.p1.toNat = none)
    ∧ (let p := pk 0x0101 0x200000 0x400000 (1 + 64 * 2 ^ 32) 0 64 64
       ok p = true ∧ moveMalformed p = false ∧ (moveRows p (bf p.p2 31 0) 0 (markPhase p.job 8 (taken p rdy))).2 = none)
    ∧ (let p := pk 0x0104 (1 + 2 * 2 ^ 8 + 1 * 2 ^ 32) (5 * 2 ^ 21) 2 0 0 0
       ok p = true ∧ bf p.p0 63 32 ≠ 0 ∧ bf p.p0 63 32 ≤ 1048576 ∧ bf p.p0 10 8 ≤ 4)
    ∧ (let p := pk 0x0104 (2 + 1 * 2 ^ 32) (3 * 2 ^ 21) 0 0 0 0
       let s := taken p rdy
       ok p = true ∧ p.p1.toNat % pageSize = 0 ∧ p.p1.toNat + bf p.p0 63 32 * pageSize ≤ 2 ^ 52
       ∧ (tfind (s.vi p.vi).pages 3).map (·.move) = some none)
    ∧ (let p := pk 0x0104 3 (3 * 2 ^ 21) 0 0 0 0
       ok p = true ∧ p.p1.toNat % pageSize = 0 ∧ p.p1.toNat < 2 ^ 52 ∧ tfind ((taken p rdy).vi p.vi).pages 3 = some (page 1 0))
    ∧ ok (pk 0x0105 0 0 0 0 0 0) = true := by decide

/-- PLACE MAP of one page into stack 1, and MIGRATE of page 1 there, are accepted with frames enough. -/
theorem witness_MemoryCommandsComplete_frames :
    (let p := pk 0x0104 (1 + 2 * 2 ^ 8 + 1 * 2 ^ 32) (5 * 2 ^ 21) 2 0 0 0
     let s := taken p { rdy with quotas := [(0, { cls := 1, pages := 8388608, jobs := 1024 })] }
     placeRefusal p true s = none ∧ (dealHomes s p.job 2 2 5 0 (fun _ => none) 2 (s.maskStacks 2) [5] []).2 = 0)
    ∧ (let p := pk 0x0103 (2 * 2 ^ 8 + 1 * 2 ^ 32) (1 * 2 ^ 21) 2 0 0 0
       let s := taken p rdy
       let m := dealHomes s p.job 2 2 1 0 (fun k => (tfind (s.vi p.vi).pages k).map (·.home)) 2 (s.maskStacks 2) [1] []
       ok p = true ∧ placeRefusal p false s = none ∧ m.2 = 0 ∧ (m.1.filterMap fun x => x.2.map fun h => (x.1, h)) ≠ []) := by
  decide +kernel

/-- A FENCE with an earlier packet of its SQ in progress, in the scope of its own SQ. -/
theorem witness_MemoryCommandsComplete_fence :
    (let p := pk 0x0105 0 0 0 0 0 0
     let s := { rdy with opens := [op 3 .attn] }
     dispatches p s = true
     ∧ ((taken p s).dispatched p.vi).filter (fun k => (p.p0.getLsbD 0 || k.sq == p.sq) && k != p.key) ≠ []) := by decide

/-- The last bytes of a page are its boundary case. -/
theorem witness_FillWritesItsPattern :
    (let p := pk 0x0102 (0x400000 - 16) 16 0xAB 0 0 0
     p.opcode = 0x0102 ∧ ok p = true ∧ p.p0.toNat % 8 = 0 ∧ p.p1.toNat % 8 = 0
     ∧ p.p0.toNat % pageSize + p.p1.toNat ≤ pageSize ∧ rdy.mapping p.vi p.p0.toNat = some (page 0 0)
     ∧ (page 0 0).now = .hbm 0 0 ∧ (∀ j ∈ rdy.jobs, ∀ c ∈ j.ckpts, c.todo = [])) := by decide

theorem witness_MapGivesZeroedPage :
    (let p := pk 0x0104 (1 + 2 * 2 ^ 8 + 1 * 2 ^ 32) (5 * 2 ^ 21) 2 0 0 0
     p.opcode = 0x0104 ∧ ok p = true ∧ bf p.p0 63 32 = 1 ∧ bf p.p0 10 8 = 2 ∧ rdy.maskStacks p.p2.toNat = [1]
     ∧ placeRefusal p true (taken p rdy) = none ∧ (taken p rdy).freeHbm 1 [] = some (.hbm 1 1)) := by decide +kernel

/-- Page 1 under a MIGRATE to stack 1, in the phase `ph` of its motion. -/
def inMotion (ph : Nat) : State :=
  let p := { pk 0x0103 (2 * 2 ^ 8 + 1 * 2 ^ 32) (1 * 2 ^ 21) 2 0 0 0 with seq := 3 }
  let mv : PageMove := { target := .hbm 1 1, phase := ph, hub := 0, cmd := some p.key }
  { rdy with opens := [{ pkt := p, prog := .migrate [] 0 0 false }]
             vis := [(0, { vi0 with pages := [(1, { page 0 0 with move := some mv })] })] }

theorem witness_PageMotion :
    (let p := { pk 0x0103 (2 * 2 ^ 8 + 1 * 2 ^ 32) (1 * 2 ^ 21) 2 0 0 0 with seq := 3 }
     let s := { rdy with opens := [{ pkt := p, prog := .migrate [(1, .hbm 1 1)] 0 0 false }] }
     let h := s.moveHub (.hbm 0 0) (.hbm 1 1)
     h < 8 ∧ s.movingOn h < 4 ∧ s.blkRst = [] ∧ s.runs p = true ∧ tfind (s.vi p.vi).pages 1 = some (page 0 0)
     ∧ (page 0 0).move = none ∧ (Home.hbm 0 0).place ≠ (Home.hbm 1 1).place)
    ∧ (viOk 0 = true ∧ ((tfind ((inMotion 1).vi 0).pages 1).bind (·.move)).map (·.phase) = some 1)
    ∧ ((tfind ((inMotion 3).vi 0).pages 1).bind (·.move)).map (·.phase) = some 3
    ∧ (let s := inMotion 4
       let p := { pk 0x0103 (2 * 2 ^ 8 + 1 * 2 ^ 32) (1 * 2 ^ 21) 2 0 0 0 with seq := 3 }
       (tfind (s.vi 0).pages 1).map (fun m => (m.saved, m.move.map fun v => (v.phase, v.cmd))) = some (none, some (4, some p.key))
       ∧ s.open? p.key = some { pkt := p, prog := .migrate [] 0 0 false } ∧ p.vi = 0
       ∧ (s.vi 0).pages.Pairwise (fun a b => a.1 < b.1)) := by decide

/-- PAGE_COPY_DONE with pages still to move. -/
theorem witness_PageMotion_more :
    (let p := { pk 0x0103 (2 * 2 ^ 8 + 1 * 2 ^ 32) (1 * 2 ^ 21) 2 0 0 0 with seq := 3 }
     let s := { inMotion 4 with opens := [{ pkt := p, prog := .migrate [(2, .hbm 1 2)] 0 0 false }] }
     s.open? p.key = some { pkt := p, prog := .migrate [(2, .hbm 1 2)] 0 0 false }) := by decide

/-- Stack 0 with settings. -/
def stack0 (t : Stack) : State := { rdy with stks := [(0, t)] }

theorem witness_StackRecalibration :
    (let s := stack0 { state := 1, recalDue := true }
     (s.stk 0).recalDue = true ∧ (s.stk 0).state = 1)
    ∧ (let s := stack0 { state := 3, holdForced := true }
       (s.stk 0).state = 3 ∧ (s.stk 0).holdForced = true ∧ (s.stk 0).rowsDue = [])
    ∧ (let s := stack0 { state := 3 }
       (s.stk 0).state = 3 ∧ (s.stk 0).holdForced = false ∧ (s.stk 0).rowsDue = [] ∧ s.opens = [])
    ∧ (stack0 { state := 1, scrubDone := 2 ^ 30 - 1 }).inService 0 = true
    ∧ (let p := pk 0x0A02 1 1 5 0 0 0
       let s := { rdy with ftu := { count := 4, state := 2 } }
       dispatches p s = true ∧ ((List.range 32).filter fun k => (bf p.p1 31 0).testBit k) = [0]
       ∧ (taken p s).inService 0 = true ∧ schedRefusal p.p2.toNat (taken p s) = none) := by decide

/-- A CALIBRATE whose window is due holds its stack. -/
theorem witness_StackRecalibration_window : ∃ o s1,
    dueWindow 0 { rdy with opens := [{ pkt := pk 0x0A02 1 1 5 0 0 0, prog := .calibrate [0] 0 0 }]
                           ftu := { count := 5, state := 2 } } = some (o, s1) ∧ (s1.stk 0).state = 1 := ⟨_, _, rfl, by decide⟩

theorem witness_FretBoundaryCounts :
    State.reset.boot.stage = 0 ∧ rdy.boot.stage ≠ 0
    ∧ (epochDue rdy.ftu = false ∧ rdy.ftu.markWaiting = false)
    ∧ epochDue { rdy.ftu with role := 1, armed := true, sched := [{ kind := .epoch, fret := 1, cmd := none }] } = true
    ∧ (let f : Ftu := { sched := [{ kind := .period, fret := 1, cmd := none }], pendingUs := 20 }
       epochDue f = false ∧ f.markWaiting = false ∧ f.bootPeriod = none
       ∧ ∃ e ∈ f.sched, e.kind = .period ∧ e.fret = (f.count + 1).toNat)
    ∧ (let f : Ftu := { pendingRole := some (3, 9) }
       f.pendingRole = some (3, 9) ∧ (3 : BitVec 2) ≠ f.role ∧ epochDue f = false) := by decide

/-- A beacon of the master 9 with count 4. -/
def beacon4 : Beacon :=
  { count := 4, epoch := 0, period := 10, masterId := 9, hops := 1, holdover := false, epochMark := false }

theorem witness_FtuEvents :
    (let f : Ftu := { goodChecks := 16, state := 3 }
     16 ≤ f.goodChecks ∧ (f.state = 1 ∨ f.state = 3))
    ∧ (({ goodChecks := 15 } : Ftu).goodChecks < 16)
    ∧ (let f : Ftu := { badChecks := 2 }
       2 ≤ f.badChecks ∧ f.state = 2)
    ∧ ({ badChecks := 1 } : Ftu).badChecks < 2
    ∧ ({} : Ftu).role = 0 ∧ ({ role := 1 } : Ftu).role = 1
    ∧ (let f : Ftu := { role := 2, armed := true }
       2 ≤ f.role.toNat ∧ f.armed = true)
    ∧ (let f : Ftu := { role := 2 }
       2 ≤ f.role.toNat ∧ f.armed = false ∧ f.state ≠ 0)
    ∧ (let f : Ftu := { role := 1 }
       f.role = 1 ∧ f.state = 2 ∧ f.counting = false)
    ∧ (let f : Ftu := { role := 3, masterId := 8 }
       2 ≤ f.role.toNat ∧ beacon4.masterId ≠ f.masterId)
    ∧ (let f : Ftu := { role := 3, masterId := 9, state := 0 }
       beacon4.masterId = f.masterId ∧ f.state = 0)
    ∧ (let f : Ftu := { role := 3, masterId := 9, state := 1, count := 5 }
       beacon4.masterId = f.masterId ∧ f.state ≠ 0 ∧ beacon4.epochMark = false ∧ beacon4.count ≠ f.count)
    ∧ (let f : Ftu := { role := 3, masterId := 9, state := 1, count := 4 }
       beacon4.masterId = f.masterId ∧ f.state ≠ 0 ∧ beacon4.count = f.count ∧ beacon4.period = f.periodUs ∧ f.obs = none) := by
  decide

theorem witness_FretConfigCommands :
    (let p := { pk 0x0F05 2 0 5 0 0 0 with jobId := 0xFFFF }
     dispatches p rdy = true ∧ p.p1.getLsbD 31 = false ∧ bf p.p1 9 0 = 0)
    ∧ (let p := { pk 0x0F05 2 1000 5 0 0 0 with jobId := 0xFFFF }
       dispatches p rdy = true ∧ 1 ≤ bf p.p1 9 0 ∧ bf p.p1 9 0 ≤ 1000 ∧ schedRefusal p.p2.toNat (taken p rdy) = none)
    ∧ (let p := { pk 0x0F05 2 1001 5 0 0 0 with jobId := 0xFFFF }
       dispatches p rdy = true ∧ 1000 < bf p.p1 9 0)
    ∧ (let p := { pk 0x0F05 2 1 0 0 0 0 with jobId := 0xFFFF }
       dispatches p rdy = true ∧ schedRefusal p.p2.toNat (taken p rdy) = some (0xFF, 0x0F20, 0))
    ∧ (let s := { rdy with ftu := { role := 1, state := 2 } }
       let p := { pk 0x0F05 3 0 5 0 0 0 with jobId := 0xFFFF }
       dispatches p s = true ∧ s.ftu.role = 1 ∧ schedRefusal p.p2.toNat (taken p s) = none)
    ∧ rdy.ftu.role ≠ 1
    ∧ (let c : Nat := 4
       let s := { rdy with ftu := { count := 4 } }
       s.ftu.count.toNat = c ∧ (4 ≤ c) ∧ c + 2 ^ 40 < c + 2 ^ 40 + 1 ∧ (c < c + 2 ^ 40 ∧ ({ state := 1 } : Ftu).state.toNat < 2)
       ∧ 2 ≤ s.ftu.state.toNat ∧ s.ftu.sched.length < 256)
    ∧ 256 ≤ (List.replicate 256 ({ kind := .coll, fret := 9, cmd := none } : SchedEntry)).length := by decide +kernel

/-- SET_PERIOD answers the boundary values of Table 3.3: 1,000 µs is taken, 1,001 µs is not (R111). -/
theorem test_set_period :
    (∃ t, exec (.setPeriod { pk 0x0F05 2 1000 5 0 0 0 with jobId := 0xFFFF }) rdy = .next t ∧ t.ftu.pendingUs = 1000)
    ∧ ∃ t, exec (.setPeriod { pk 0x0F05 2 1001 5 0 0 0 with jobId := 0xFFFF }) rdy = .next t ∧ t.ftu.pendingUs = 0 :=
  ⟨⟨_, rfl, by decide +kernel⟩, _, rfl, by decide +kernel⟩

/-! ## Witnesses: products, programs and tiles -/

/-- A one-node Braid program image over rows of 32: one FP32 input, node 0 of operation 1, one FP32 output (Tables 6.3
to 6.5). -/
def img1 : List Byte :=
  [1, 1, 1, 1, 0, 1, 0, 0, 32, 0, 0, 0, 0, 0, 0, 0, 1, 1, 1, 1, 1, 1, 1, 1, 0, 0, 0, 0, 1, 0, 1, 0, 1, 0, 1, 0]
  ++ List.replicate 28 0 ++ [0, 0, 0, 0, 0x20, 0x20, 0x20, 0x04]

/-- An update image of one ELEM op over that program (Tables 10.9, 10.10). -/
def upd1 : List Byte :=
  [1, 1, 1, 0] ++ List.replicate 24 0 ++ [72, 0] ++ List.replicate 34 0
  ++ [1, 0, 0, 0, 0, 0, 0, 0, 0xF0, 0xFF, 0xFF, 0xFF, 1, 0, 0, 0] ++ img1

/-- `rdy` with one active compute die of 16 cores, and the program in slot 0. -/
def dies1 : State :=
  { rdy with dies := [(0, { role := 1 })], cores := (List.range 16).map fun c => (c, { a := { role := 0, chkMode := 2 }, b := { role := 0, chkMode := 2 } })
             jobs := [{ job5 with progs := [(0, img1)] }] }

/-- MATMUL of one row of 32 over BF16 operands on the arrays, its operand table at 0x210000. -/
def mm1 : Packet := pk 0x0201 (1 * 2 ^ 32 + 32) (32 * 2 ^ 32 + 2 * 2 ^ 24 + 2 * 2 ^ 16 + 1) 0x210000 0x40 0x200000 0

/-- That table: X at 0x200000, W at 0x200400, Y at 0x220000. -/
def tabs1 : List Byte :=
  leBytes 8 0x200000 ++ leBytes 8 64 ++ List.replicate 16 0 ++ leBytes 8 0x200400 ++ leBytes 8 64 ++ List.replicate 16 0
  ++ leBytes 8 0x220000 ++ leBytes 8 128 ++ List.replicate 16 0

/-- `dies1` with it in memory, and one element of X and one of W that are 1. -/
def dies2 : State := { dies1 with devMem := Mem.writeN (Mem.writeN (Mem.writeN [] 0 [0x80, 0x3F]) 0x400 [0x80, 0x3F]) 0x10000 tabs1 }

/-- The state that a command answers. -/
def after (c : Instr) (s : State) : State :=
  match exec c s with
  | .next t => t
  | _ => s

theorem witness_ProductAndRunCommands :
    (dispatches mm1 dies2 = true ∧ prodMalformed mm1 = false ∧ (taken mm1 dies2).loadAhead (taken mm1 dies2).opens mm1 = false
     ∧ vread 0 dies2 0x210000 96 = .ok tabs1 ∧ (prodOf mm1).toBraid = false ∧ mm1.opcode = 0x0201)
    ∧ (let p := { mm1 with p3 := 4 }
       dispatches p dies1 = true ∧ prodMalformed p = false ∧ (prodOf p).toBraid = true ∧ dies1.progAt 5 0 = some img1
       ∧ epilogueFits (prodOf p) (progOf img1) = true)
    ∧ (let p := pk 0x0203 (1 * 2 ^ 32) 0x200000 0 0 0 0
       dispatches p dies1 = true ∧ bf p.p0 63 32 ≠ 0 ∧ p.p1.toNat % 32 = 0 ∧ dies1.progAt p.job (bf p.p0 4 0) = some img1)
    ∧ (let p := pk 0x0203 (1 * 2 ^ 32 + 1) 0x200000 0 0 0 0
       dispatches p dies1 = true ∧ dies1.progAt p.job (bf p.p0 4 0) = none)
    ∧ (let p := pk 0x0505 1 0x200000 (upd1.length) 0 0 0
       dispatches p rdy = true ∧ rdy.userAhead rdy.opens p = false ∧ updOk upd1 = true)
    ∧ progOk img1 false = true ∧ img1.length ≤ 384
    ∧ dispatches (pk 0x0205 0 0x200000 0 0 0 0) rdy = true ∧ (rdy.job? 5).isSome = true := by decide +kernel

/-- The binding table and constants, an image in memory, and a 6,208-byte function are readable. -/
theorem witness_ProductAndRunCommands_reads :
    readTables 0 0x200000 0 dies1 = .ok (List.replicate 384 0) ∧ vread 0 (withBytes img1) 0x200000 72 = .ok img1
    ∧ vread 0 (withBytes upd1) 0x200000 upd1.length = .ok upd1 := by decide +kernel

/-- Page 1 of `rdy` is readable whole. -/
theorem vread_page1 (k a : Nat) (h : 0x200000 ≤ a) (h' : a + k ≤ 0x400000) : ∃ bs, vread 0 rdy a k = .ok bs := by
  refine (vread_ok_of (n := 0) (s := rdy) fun i hi => ⟨0, ?_⟩).imp fun _ h => h.1
  have hp : (a + i) / pageSize = 1 := by unfold pageSize; omega
  have hr : (a + i) % pageSize < pageSize := Nat.mod_lt _ (by decide)
  have hm : rdy.mapping 0 (a + i) = some (page 0 0) := by
    unfold State.mapping
    rw [if_neg (by unfold pageSize; omega), hp]; rfl
  have hb : burstOf (.dev, (a + i) % pageSize) = some (0, 0, (a + i) % pageSize % pageSize / 64) := by
    unfold pageSize at hr
    unfold burstOf
    rw [if_pos ⟨rfl, by show (a + i) % pageSize < _; unfold pageSize; omega⟩]
    have : (a + i) % pageSize / pageSize = 0 := Nat.div_eq_of_lt (by unfold pageSize; omega)
    simp only [this]
  have hx : rdy.xlate 0 (a + i) = some (.dev, (a + i) % pageSize) := by
    have e : (page 0 0).now.base = (.dev, 0) := rfl
    simp [State.xlate, hm, e]
  have : State.burstErr rdy (.dev, (a + i) % pageSize) (a + i) = none := by
    simp only [State.burstErr, hb]; rfl
  simp only [vread1, hx, this]; rfl

/-- So a table of 6,208 bytes is. -/
theorem witness_ProductAndRunCommands_table : ∃ b, vread 0 rdy 0x200000 6208 = .ok b :=
  vread_page1 6208 0x200000 (by omega) (by omega)

/-- ATTN_FWD of one head of 32 with one length entry. -/
def attn1 : Packet := pk 0x0206 (1 * 2 ^ 32 + 1 * 2 ^ 16 + 1) (32 * 2 ^ 48 + 4 * 2 ^ 40 + 4 * 2 ^ 32 + 2 * 2 ^ 16) 0 0x200000 0 0

/-- Its operand table: Q, K, V, O, and the length table at 0x200200. -/
def attnOps : List Byte :=
  leBytes 8 0x201000 ++ leBytes 8 128 ++ leBytes 16 0 ++ leBytes 8 0x202000 ++ leBytes 8 128 ++ leBytes 16 0
  ++ leBytes 8 0x203000 ++ leBytes 8 128 ++ leBytes 16 0 ++ leBytes 8 0x204000 ++ leBytes 8 128 ++ leBytes 16 0
  ++ List.replicate 32 0 ++ leBytes 8 0x200200 ++ List.replicate 24 0

/-- A length table of one entry with `q` query rows and `q` keys. -/
def attnLens (q : Nat) : List Byte := leBytes 4 0 ++ leBytes 4 q ++ leBytes 4 q ++ leBytes 4 0

/-- `dies1` with them in memory. -/
def attn0 (q : Nat) : State := { dies1 with devMem := Mem.writeN (Mem.writeN [] 0 attnOps) 0x200 (attnLens q) }

/-- One entry with a query row, which gives tiles, and one without, which ends at once. -/
theorem witness_ProductAndRunCommands_attn :
    (attnOf attn1).bad = false ∧ bf attn1.p0 63 32 = 1 ∧ (attnOf attn1).paged = false ∧ ∀ q ∈ [0, 1],
      dispatches attn1 (attn0 q) = true ∧ (attn0 q).open? attn1.key = none
      ∧ vread 0 (attn0 q) 0x200000 192 = .ok attnOps ∧ (entryOf attnOps 5).base = 0x200200
      ∧ vread 0 (attn0 q) 0x200200 16 = .ok (attnLens q) ∧ (∀ e ∈ lenEntries (attnLens q) 1, e.qLen ≤ e.kvLen)
      ∧ ((attn0 q).tilesOf attn1.key 0 ((attn0 q).attnWork attn1 (attnOf attn1) attnOps (lenEntries (attnLens q) 1) none)
          (attn0 q).coreOrder = [] ↔ q = 0) := by decide +kernel

/-- `dies2` after that MATMUL's dispatch: its tile waits on core CD0.C00. -/
def prod1 : State := after (.matmul mm1) dies2

/-- The tile. -/
def tile1 : Tile :=
  { cmd := mm1.key, work := 0, unit := .arrays, kind := 0, die := 0, core := 0, problem := 0, row0 := 0, rows := 1, col0 := 0
    cols := 32, k0 := 0, kLen := 32, kIdx := 0, passes := 1, issued := false, reruns := 0 }

/-- `prod1` with its tile in progress. -/
def prod2 : State := after (.tileIssue 0 0 .arrays) prod1

@[inherit_doc prod2] def tile2 : Tile := (prod2.tileOn 0 0 .arrays).getD tile1

/-- The command of a state's first open packet. -/
def open1 (s : State) : OpenCmd := s.opens.headD (op 0 .attn)

/-- A program run of one row in progress. -/
def runTile : State :=
  after (.tileIssue 0 0 .braid) (after (.braidRun (pk 0x0203 (1 * 2 ^ 32) 0x201000 0 0 0 0))
    { dies1 with devMem := Mem.writeN [] 0x1000 (leBytes 8 0x200000 ++ leBytes 8 128 ++ List.replicate 240 0
      ++ leBytes 8 0x202000 ++ leBytes 8 128) })

/-- The tile is issued; with its last tile the command ends; and a capo point. -/
theorem witness_TilesRunOnTheirCores :
    (prod1.takesTiles 0 0 = true ∧ prod1.tileOn 0 0 .arrays = none ∧ prod1.nextTile 0 0 = some tile1
     ∧ (∀ x ∈ prod1.tilesBefore tile1, prod1.tileWaits tile1 x = false) ∧ (prod1.open? tile1.cmd).isSome = true
     ∧ prod1.accessWaits ((open1 prod1).workOf tile1) tile1 = false
     ∧ prod1.streamWaits (open1 prod1) ((open1 prod1).workOf tile1) tile1 = false
     ∧ (stageTile ((open1 prod1).workOf tile1) tile1 prod1).isOk = true)
    ∧ (let s0 := idleUnit 0 0 .arrays { prod2 with tiles := prod2.tiles.filter (· != tile2) }
       let r := endEffect ((open1 prod2).workOf tile2) tile2 5 9 (markWork mm1 s0)
       tile2.issued = true ∧ r.2 = none ∧ r.1.abortOn mm1.key = false ∧ r.1.tiles = []
       ∧ (workEnd mm1.key 0 ((open1 prod2).workOf tile2) r.1).2 = none)
    ∧ (let s := dies1.updCore 0 0 fun k => { k with capoReq := true }
       (s.core 0 0).capoReq = true ∧ (s.core 0 0).atCapo = false ∧ s.tiles = [] ∧ s.opens = [] ∧ s.handsOver 0 0 = false
       ∧ s.givesBack 0 0 = false ∧ (s.core 0 0).sliceDue = false ∧ s.preemptDue = false) := by decide +kernel

/-- A tile with another of its work still to run. -/
theorem witness_TilesRunOnTheirCores_more :
    (let t := { tile1 with row0 := 8 }
     let s := { prod2 with tiles := prod2.tiles ++ [t] }
     let s0 := idleUnit 0 0 .arrays { s with tiles := s.tiles.filter (· != tile2) }
     let r := endEffect ((open1 s).workOf tile2) tile2 5 9 (markWork mm1 s0)
     r.2 = none ∧ r.1.abortOn mm1.key = false ∧ ∃ x ∈ r.1.tiles, x.cmd = tile2.cmd ∧ x.work = tile2.work) := by decide +kernel

/-- Sums as they should be pass; a check column off by 2^20 fails the array that it is in; a parity error meets the pass. -/
theorem witness_TilesRunOnTheirCores_halt :
    (let l := prod2.tilePasses ((open1 prod2).workOf tile2) tile2
     let v (sums : List (Nat × Nat × Dword)) : Option (Option Nat × Option Nat) :=
       match l[0]? with
       | some g => match g.1.rows[0]? with
         | some r => some (checkVerdict g.1 2 0 r.2 sums, checkVerdict g.1 2 1 r.2 sums)
         | none => none
       | none => none
     tile2.kind ≠ 6 ∧ v [] = some (none, none) ∧ v [(0, 3, 0x49800000)] = some (some 3, none)
     ∧ v [(1, 0, 0x49800000)] = some (none, some 0)
     ∧ v [(0, 3, 0x49800000), (1, 0, 0x49800000)] = some (some 3, some 0))
    ∧ ((open1 prod2).prog matches .works ..) = true
    ∧ (runTile.tileOn 0 0 .braid).isSome = true ∧ ((open1 runTile).prog matches .works ..) = true
    ∧ (tile2.reruns = 0 ∧ overwritesInputs ((open1 prod2).workOf tile2) tile2 = false ∧ prod2.abortOn tile2.cmd = false) := by
  decide +kernel

/-! ## Witnesses: pools, rollouts and steps -/

/-- KV_POOL_CREATE of 4 pages of 16 positions, 1 layer, 1 head of 32, 4 tables of 64 positions, META in page 2, arena in
page 3. -/
def create1 : Packet :=
  pk 0x0401 (1 * 2 ^ 32 + 4 * 2 ^ 24 + 4 * 2 ^ 16 + 1) (4 * 2 ^ 32 + 32 * 2 ^ 16 + 1) 0x600000 0x400000 (64 * 2 ^ 32 + 4) 0

/-- The pool that it makes. -/
def pool0 : Pool := { id := 0, arena := 0x600000, metaVa := 0x400000, pendPolicy := none, spillUsed := [] }

/-- The pool's structures at META, byte by byte (Tables 9.3 to 9.6). -/
def poolMem : Mem :=
  [(0x200001, 4), (0x200002, 4), (0x200004, 1), (0x200006, 1), (0x200008, 32), (0x20000D, 16), (0x200010, 4),
   (0x200014, 4), (0x200018, 128), (0x20001C, 64), (0x200020, 4), (0x200028, 3), (0x20003C, 16), (0x20003D, 39),
   (0x200103, 1), (0x20010B, 2), (0x200113, 3), (0x20011B, 255), (0x20011C, 255), (0x20011D, 255), (0x200121, 255),
   (0x200160, 255), (0x200161, 255), (0x200162, 255), (0x200168, 255), (0x200169, 255), (0x20016A, 255),
   (0x200170, 255), (0x200171, 255), (0x200172, 255), (0x200178, 255), (0x200179, 255), (0x20017A, 255),
   (0x2001A1, 255), (0x2001E0, 255), (0x2001E1, 255), (0x2001E2, 255), (0x2001E8, 255), (0x2001E9, 255)]
  ++ [(0x2001EA, 255), (0x2001F0, 255), (0x2001F1, 255), (0x2001F2, 255), (0x2001F8, 255), (0x2001F9, 255),
   (0x2001FA, 255), (0x200221, 255), (0x200260, 255), (0x200261, 255), (0x200262, 255), (0x200268, 255),
   (0x200269, 255), (0x20026A, 255), (0x200270, 255), (0x200271, 255), (0x200272, 255), (0x200278, 255),
   (0x200279, 255), (0x20027A, 255), (0x2002A1, 255), (0x2002E0, 255), (0x2002E1, 255), (0x2002E2, 255),
   (0x2002E8, 255), (0x2002E9, 255), (0x2002EA, 255), (0x2002F0, 255), (0x2002F1, 255), (0x2002F2, 255),
   (0x2002F8, 255), (0x2002F9, 255), (0x2002FA, 255)]

/-- They are what CREATE writes. -/
theorem test_pool_image : Mem.writeN [] 0x200000 (poolImage create1) = poolMem := by decide +kernel

/-- A model with its area in page 1, and no regions. -/
def model0 : Model :=
  { handle := 0, wbase := 0x300000, units := 1, shadow := false, shapeId := 0, layers := 1, kvHeads := 1, headDim := 32
    fmtK := 4, fmtV := 4, vocab := 8, regions := [], pieces := [], programs := [], route := [], variants := []
    hostTier := [], streamed := [], flip := none, drain := none }

/-- Rollout k of two slots on that pool, its sequence table in page 1. -/
def roll (k role : Nat) : Rollout :=
  { id := k, pool := 0, slots := 2, role := role, seqtab := 0x200000 + 0x1000 * k, samplingLo := 0x3F800000_3F800000
    samplingHi := 8 * 2 ^ 32, model := 0, batch := 2, target := 0, depth := 2, stops := 0, tbase := 2 * k, steps := 0
    version := 0, lastTaken := 1, reqs := [], stepCmds := [], closing := none, withheld := [], stage6 := none }

/-- `rdy` with the pool's structures and more of memory, and the job's pool, model and rollouts. -/
def gen (rs : List Rollout) (bs : List Byte) : State :=
  { rdy with jobs := [{ job5 with pools := [pool0], models := [model0], rollouts := rs }]
             devMem := Mem.writeN poolMem 0 bs }

theorem witness_RolloutCommandsComplete_open :
    (let p := pk 0x0301 (1 * 2 ^ 32 + 1) 0x200000 0x3F800000_3F800000 (8 * 2 ^ 32) 0 0
     let s := taken p (gen [] [])
     dispatches p (gen [] []) = true ∧ s.nameModel p (bf p.p4 63 48) = .ok model0 ∧ s.pool? p.job (bf p.p0 63 48) = some pool0
     ∧ draftBad p { job5 with pools := [pool0], models := [model0] } = false ∧ s.shapeBad p.vi pool0 model0 = false
     ∧ s.tableRun p.vi pool0 2 = some 0 ∧ openBad p = false ∧ s.firstUnmapped p.vi p.p1.toNat 128 = none) := by decide +kernel

/-- The second step of `roll 0`, running. -/
def step0 : Packet := { pk 0x0302 (2 * 2 ^ 16) 0 0 0 0 0 with seq := 2 }

/-- A PREFILL into slot 1 of rollout 0: mode 0, prompt of 3, 4 tokens to make. -/
def pre1 : Packet := pk 0x0306 (9 * 2 ^ 32) 0x200800 (3 * 2 ^ 32 + 4) 0 (1 * 2 ^ 32) 0

theorem witness_RolloutCommandsComplete :
    (let p := pk 0x0301 2 0 0 0 0 0
     dispatches p (gen [roll 0 0] []) = true ∧ ((gen [roll 0 0] []).roll? 5 0).isSome = true)
    ∧ (let s := gen [roll 0 0] []
       dispatches pre1 s = true ∧ (taken pre1 s).roll? 5 0 = some (0, roll 0 0, pool0) ∧ prefillBad pre1 (roll 0 0) = false
       ∧ (taken pre1 s).rollHole 0 (roll 0 0) pool0 = none ∧ prefillRefusal pre1 0 (roll 0 0) pool0 (taken pre1 s) = none ∧ s.stepRunning 5 0 = false)
    ∧ (let r := { roll 0 0 with stepCmds := [step0] }
       let s := gen [r] []
       s.stepRunning 5 0 = true ∧ s.slotOf 0 r 9 = none ∧ dispatches (pk 0x0304 (9 * 2 ^ 32) 0 0 0 0 0) s = true)
    ∧ (let r := { roll 0 0 with stepCmds := [step0], reqs := [(0, { pkt := pre1, heldFrom := 1, source := none })] }
       let s := gen [r] [9]
       s.stepRunning 5 0 = true ∧ s.slotOf 0 r 9 = some 0)
    ∧ (let s := gen [roll 0 0, roll 1 2] []
       let p := pk 0x0305 0x100 0 0 0 0 0
       dispatches p s = true ∧ s.roll? 5 (bf p.p0 15 8) = some (0, roll 1 2, pool0) ∧ (roll 1 2).role = 2
       ∧ (roll 1 2).target = bf p.p0 7 0)
    ∧ ((gen [] []).roll? 5 0 = none)
    ∧ (let p := pk 0x0303 (1 * 2 ^ 32) 0x200000 (64 * 2 ^ 32 + 1 * 2 ^ 24) 0x3F800000_3F800000 (8 * 2 ^ 32) 0x210000
       dispatches p rdy = true ∧ bf p.p0 63 32 = 1 ∧ bf p.p2 31 24 = 1 ∧ (smpOf p.p3 p.p4).bad = false) := by decide +kernel

/-- A greedy draw of one row from readable logits has no error. -/
theorem witness_RolloutCommandsComplete_sample :
    (let p := pk 0x0303 (1 * 2 ^ 32) 0x200000 (64 * 2 ^ 32 + 1 * 2 ^ 24) 0x3F800000_00000000 (8 * 2 ^ 32) 0x210000
     dispatches p rdy = true ∧ (smpOf p.p3 p.p4).bad = false ∧ (sampleRows p (smpOf p.p3 p.p4) 1 0 (markPhase p.job 0 (taken p rdy))).2 = none) := by
  decide +kernel

/-- ROLLOUT_STEP of some steps. -/
def steps (want : Nat) : Packet := { step0 with p0 := BitVec.ofNat 64 (want * 2 ^ 16) }

/-- A rollout whose running step command is a ROLLOUT_STEP. -/
def stepping (want : Nat) : State :=
  { gen [{ roll 0 0 with stepCmds := [steps want] }] [] with
    opens := [{ pkt := steps want, prog := .rolloutStep 0 0 0 0 }], sched := { rdy.sched with stepMode := false } }

/-- Such a rollout on a shadow model of one region, with a sequence to prefill in slot 1; the model's version is 1, the region's
tag 0. -/
def untagged : State :=
  let r := { roll 0 0 with stepCmds := [steps 2], reqs := [(1, { pkt := pre1, heldFrom := 1, source := none })] }
  let reg : Region := { bytes := 32, rows := 1, cols := 8, fmt := 1, order := 0, home := 2, flags := 0, twin := 0xFFFF, piece := 0
                        alpha := 0, variant := 0, checked := 0 }
  let s := gen [r] []
  let s1 := { s with
    sched := { rdy.sched with stepMode := false }
    jobs := [{ job5 with pools := [pool0], models := [{ model0 with shadow := true, regions := [reg] }], rollouts := [r] }]
    opens := [{ pkt := steps 2, prog := .rolloutStep 0 0 0 0 }, { pkt := pre1, prog := .request 0 1 }] }
  wr 0 (0x300010) 4 1 (vwrite 0 0x200040 (entryBytes pre1 0) (takeTable 0 pool0 1 s1))

/-- The kind of a step, the state after its boundary, and the step. -/
def stepKind (p : Packet) (s : State) : StepKind := s.kindOf 5 p { roll 0 0 with stepCmds := [p] }

@[inherit_doc stepKind] def stepBound (p : Packet) (s : State) : State := boundary 5 0 (nextRows 5 0 (stepKind p s)) s

@[inherit_doc stepKind] def stepRun (p : Packet) (f : Option (StepFault × Nat × Nat)) (s : State) : State × StepEnd :=
  runStep 5 0 p.key (stepKind p s) f (stepBound p s)

theorem witness_BatchStepsAndHeldSequences : (gen [roll 0 0] []).stepList 5 0 = []
    ∧ ∀ want ∈ [1, 2], let s := stepping want
      let p := steps want
      let b := stepBound p s
      let x := stepRun p none s
      s.stepList 5 0 = [p] ∧ (s.roll? 5 0).map (·.2.1.stage6) = some none ∧ bf p.p0 7 0 = 0 ∧ s.runs p = true
      ∧ s.coreOrder = [] ∧ s.sched.stepMode = false ∧ p.op = 0x0302 ∧ s.stepHole 5 0 (stepKind p s) = none
      ∧ b.open? p.key = some { pkt := p, prog := .rolloutStep 0 0 0 0 } ∧ bf p.p0 31 16 = want
      ∧ x.1.abortOn p.key = false ∧ x.2 = .done 0 0 0
      ∧ x.1.open? p.key = some { pkt := p, prog := .rolloutStep 0 0 0 0 }
      ∧ ((lastBoundary 5 0 (stepKind p s) (x.1.setProg p.key (.rolloutStep 0 1 0 0))).open? p.key).isSome = true
      ∧ (b.roll? 5 0).isSome = true := by decide +kernel

/-- A step that fails for a version tag. -/
theorem witness_BatchStepsAndHeldSequences_fail :
    (let p := steps 2
     let x := stepRun p none untagged
     untagged.stepList 5 0 = [p] ∧ untagged.stepHole 5 0 (stepKind p untagged) = none ∧ x.2 = .failed 0x32 0x0308 1 0
     ∧ x.1.abortOn p.key = false ∧ ((lastBoundary 5 0 (stepKind p untagged) x.1).open? p.key).isSome = true) := by decide +kernel

/-- SPEC_VERIFY of rollout 0 by its draft 1, running. -/
theorem witness_BatchStepsAndHeldSequences_verify :
    (let p := { pk 0x0305 0x100 0 0 0 0 0 with seq := 2 }
     let r := { roll 0 0 with stepCmds := [p] }
     let s := { gen [r, { roll 1 2 with stops := 0x240000 }] [] with
       opens := [{ pkt := p, prog := .specVerify 0 1 }], sched := { rdy.sched with stepMode := false } }
     let kind := s.kindOf 5 p r
     let b := boundary 5 0 (nextRows 5 0 kind) s
     let x := runStep 5 0 p.key kind none b
     s.stepList 5 0 = [p] ∧ p.op = 0x0305 ∧ (b.open? p.key).isSome = true ∧ (b.roll? 5 0).isSome = true
     ∧ s.stepHole 5 0 kind = none ∧ x.1.abortOn p.key = false ∧ x.2 = .done 0 0 0
     ∧ ((lastBoundary 5 0 kind x.1).open? p.key).isSome = true) := by decide +kernel

/-- A sequence held in slot 0 (STATE 4), with pages free, and with none free inside and after the wait under END. -/
theorem witness_BatchStepsAndHeldSequences_held :
    (let r := { roll 0 0 with reqs := [(0, { pkt := pre1, heldFrom := 3, source := none })] }
     let s := gen [r] [9, 0, 0, 0, 4]
     let t := { s with devMem := Mem.writeN s.devMem 0x200020 [0] }
     let wait (f : Dword) : State := { t with ftu := { t.ftu with count := f } }
     s.roll? 5 0 = some (0, r, pool0) ∧ s.slotState 0 r 0 = 4 ∧ s.slotState 0 r 1 ≠ 4
     ∧ (s.heldNeed 5 0 0 1).1 + (s.heldNeed 5 0 0 1).2 ≤ s.kvFree 0 pool0
     ∧ t.kvFree 0 pool0 < (t.heldNeed 5 0 0 1).1 + (t.heldNeed 5 0 0 1).2
     ∧ t.policyOf 0 pool0 0 = (0, 10000) ∧ (wait 9999).ftu.count.toNat < t.se 0 r 0 48 8 + 10000
     ∧ t.se 0 r 0 48 8 + 10000 ≤ (wait 10000).ftu.count.toNat) := by decide +kernel

/-- Table 0 of the pool RECEIVING two pages, the next one to check `k`; the page's bytes are zero, and STRIDE is cut to 8
bytes so that the check is short. -/
def receiving (k : Nat) : State :=
  let p := { pk 0x0402 1 2 0 0 0 0 with seq := 2 }
  let crc := (crc32c (List.replicate 8 0)).toNat
  let s := gen [] []
  let m := Mem.writeN (Mem.writeN s.devMem 0x20000C (leBytes 4 8)) (0x200000 + 256 + 32)
    ([3, 0xFF, 0, 0, 2, 0, 0, 0] ++ leBytes 4 0 ++ leBytes 4 2 ++ leBytes 8 0 ++ leBytes 8 2 ++ leBytes 32 0
      ++ leBytes 8 (crc * 2 ^ 32 + 2 ^ 24) ++ leBytes 8 (crc * 2 ^ 32 + 2 ^ 24 + 1))
  { s with devMem := m, opens := [{ pkt := p, prog := .kvReceive 0 0 0 9 k none }], ftu := { s.ftu with count := 9 } }

theorem witness_KvCommandsComplete :
    (let s := gen [] []
     dispatches create1 rdy = true ∧ poolBad create1 = false
     ∧ (taken create1 rdy).firstUnmapped 0 create1.p3.toNat (poolImage create1).length = none
     ∧ rdy.pool? 5 0 = none ∧ s.pool? 5 0 = some pool0 ∧ s.rolloutsOn 5 0 = []
     ∧ (∀ i < s.cb 0 pool0 16 4, s.desc 0 pool0 i % 65536 = 0)
     ∧ s.kvTables 0 pool0 = 4 ∧ s.tableIdle 0 pool0 1 = true ∧ s.th 0 pool0 0 0 1 ≠ 3
     ∧ (∀ i < s.covers 0 pool0 16, i < s.used 0 pool0 0 → teSpilled (s.te 0 pool0 0 i) = false)
     ∧ (sharePages 0 pool0 0 1 16 s).isSome = true
     ∧ s.tableBusy 0 5 0 pool0 0 = false ∧ s.sending 5 0 0 = false ∧ s.used 0 pool0 0 = 0 ∧ s.th 0 pool0 0 0 1 = 0
     ∧ s.firstUnmapped 0 pool0.metaVa 256 = none ∧ s.firstHole 0 (s.poolRanges 0 pool0 []) = none
     ∧ s.firstHole 0 (s.poolRanges 0 pool0 [0, 1]) = none
     ∧ (s.sharable 0 pool0 0 16).filter (fun x => s.pageRef 0 pool0 x.2 == 255) = []
     ∧ 4 ≤ cdiv (s.kvMaxPos 0 pool0) (s.kvPt 0 pool0) ∧ 4 ≤ s.kvFree 0 pool0) := by decide +kernel

theorem witness_KvCommandsComplete_receive :
    (let s := receiving 0
     let e := s.te 0 pool0 0 0
     (s.receiveOn 5 0 0).isSome = true ∧ s.pool? 5 0 = some pool0 ∧ 0 < s.th 0 pool0 0 24 8 ∧ s.th 0 pool0 0 12 4 = 2
     ∧ crc32c (s.peek 0 (s.pageVa 0 pool0 (tePage e)) (s.kvStr 0 pool0)) = BitVec.ofNat 32 (e / 2 ^ 32)
     ∧ 9 ≠ 0 ∧ 9 ≤ s.ftu.count.toNat)
    ∧ (let s := receiving 1
       let e := s.te 0 pool0 0 1
       1 < s.th 0 pool0 0 24 8
       ∧ crc32c (s.peek 0 (s.pageVa 0 pool0 (tePage e)) (s.kvStr 0 pool0)) = BitVec.ofNat 32 (e / 2 ^ 32)
       ∧ 1 + 1 = s.th 0 pool0 0 12 4 ∧ s.used 0 pool0 0 ≠ 0)
    ∧ (let s := receiving 0
       let t := wr 0 (s.tblVa 0 pool0 0 + 24) 8 1 s
       9 ≠ 0 ∧ 9 ≤ t.ftu.count.toNat ∧ t.th 0 pool0 0 24 8 < t.th 0 pool0 0 12 4 ∧ (t.receiveOn 5 0 0).isSome = true) := by
  decide +kernel

/-! ## Witnesses: passes, models and the freshet -/

/-- A model of one product of 32 rows by 32 columns in FP16 with no program, its region at 0x300100 of the area. -/
def model1 : Model :=
  { model0 with
    regions := [{ bytes := 2048, rows := 32, cols := 32, fmt := 4, order := 0, home := 2, flags := 0, twin := 0xFFFF, piece := 0
                  alpha := 0, variant := 0, checked := 0 }]
    pieces := [{ kind := 1, topK := 0, w := 0, wt := 0xFFFF, bias := 0xFFFF, fwd := 0xFFFF, bwd := 0xFFFF, save := 0, flags := 0
                 layer := 0, scale := 0, window := 0, experts := 0 }] }

/-- PASS_FWD of it for step 4, its pass block at the start of page 1. -/
def fwd1 : Packet := pk 0x0501 4 (1 * 2 ^ 16) 0 0x200000 4 0

/-- PASS_BWD of the same step. -/
def bwd1 : Packet := pk 0x0502 4 (1 * 2 ^ 16) 0 0x200000 (1 * 2 ^ 16 + 4) 0

/-- The pass block of two rows: IN, IN_CTR, IN_VALUE, OUT, OUT_MODULE, OUT_CTR, SAVE, LENTAB, ROWS, SEQS, GACC. -/
def block1 (ctr value : Nat) : List Byte :=
  leBytes 8 0x201000 ++ leBytes 8 ctr ++ leBytes 8 value ++ leBytes 8 0x202000 ++ leBytes 8 0xFFFF ++ leBytes 8 0
  ++ leBytes 8 0x204000 ++ leBytes 8 0 ++ leBytes 4 2 ++ leBytes 4 0 ++ leBytes 8 0x208000 ++ List.replicate 48 0

/-- A module of 16 cores with that model and block, and the step's forward pass done or not. -/
def passing (done : Bool) (ctr value : Nat) : State :=
  { dies1 with
    devMem := Mem.writeN (Mem.writeN [] 0 (block1 ctr value)) 0x100100 (leBytes 8 0x310000)
    jobs := [{ job5 with
      models := [model1]
      passes := if done then [{ step := 4, mbCount := 1, saved := [(0, [4, 0, 260])], anyBwd := false, fwdDone := [0], bwdDone := [] }] else [] }] }

/-- A pass of `passing` as it is dispatched: its state, and what it launches. -/
def passOpen (p : Packet) : State :=
  let s := taken p (passing (passOf p).bwd 0 0)
  let x := passOf p
  let s1 := noteStep 5 x.step x.mbCount (some (BitVec.ofNat 32 x.version))
    (if x.bwd then s else noteFwd 5 x (turnWindow 5 x.step s))
  s1.openCmd p (.pass x.bwd s.ftu.count 0)

@[inherit_doc passOpen] def passLaunch (p : Packet) : Launch :=
  let s2 := passOpen p
  let x := passOf p
  let c := passCtx 0 model1 x (blockOf (block1 0 0)) []
  let v := s2.savedOf 5 x.step x.mb
  if x.bwd then s2.launchBwd c x (blockOf (block1 0 0)) v (!(((s2.stepOf 5 x.step).map (·.anyBwd)).getD false)) p.key.scratch
  else s2.launchFwd c (blockOf (block1 0 0)) p.key.scratch

theorem witness_LearningCommandsComplete : ∀ p ∈ [fwd1, bwd1],
    let x := passOf p
    let s0 := passing x.bwd 0 0
    let s := taken p s0
    let s2 := passOpen p
    let b := blockOf (block1 0 0)
    let l := passLaunch p
    dispatches p s0 = true ∧ x.bad p = false ∧ (passRefusal p x false s).isOk = true ∧ s2.passTurn p = true
    ∧ vread 0 s2 p.p3.toNat 128 = .ok (block1 0 0) ∧ b.inCtr = 0 ∧ s2.model? 5 x.model = some model1
    ∧ s2.passTag 0 model1 x = none ∧ readLens 0 model1 x b s2 = .ok [] ∧ entriesBad b.rows [] = false
    ∧ (l.plan.prepare (notePass 5 x l.saved s2).nextFree).2 = none
    ∧ s2.stageTiles p.key (l.works s2 x.bwd x.first b.rows) ≠ []
    ∧ (x.bwd = false ∧ p.p1.getLsbD 0 = false ∨ x.bwd = true ∧ s2.noCopy 0 model1 x = none
      ∧ model1.badPair x (s2.savedOf 5 x.step x.mb) = none) := by decide +kernel

/-- A pass that waits for IN_CTR, each way; and QUERY, of which the rows are read. -/
theorem witness_LearningCommandsComplete_more :
    (∀ p ∈ [fwd1, bwd1], let s0 := passing (passOf p).bwd 0x203000 1
      let b := blockOf (block1 0x203000 1)
      dispatches p s0 = true ∧ vread 0 s0 0x200000 128 = .ok (block1 0x203000 1) ∧ b.inCtr ≠ 0
      ∧ vread 0 s0 b.inCtr 8 = .ok (List.replicate 8 0) ∧ leNat (List.replicate 8 (0 : Byte)) < b.inValue)
    ∧ (let p := { fwd1 with p1 := 1 * 2 ^ 16 + 1 }
       let s := taken p (passing false 0 0)
       dispatches p (passing false 0 0) = true ∧ p.p1.getLsbD 0 = true ∧ (passOf p).bad p = false
       ∧ passRefusal p (passOf p) true s = .ok model1 ∧ vread 0 s (p.p3.toNat + 64) 8 = .ok (leBytes 8 2))
    ∧ (dispatches (pk 0x0504 4 1 0 0 0 0) rdy = true ∧ (rdy.job? 5).isSome = true) := by decide +kernel

/-- UPDATE of one layer with the image `upd1`, its table in page 1; the tag set, and not. -/
theorem witness_LearningCommandsComplete_update :
    (let p := pk 0x0503 4 0x200000 (1 * 2 ^ 16) 0 0 0
     let tens := leBytes 8 0x208000 ++ leBytes 8 0 ++ leBytes 4 1 ++ leBytes 4 32 ++ [1] ++ List.replicate 7 0
     let table := leBytes 2 0 ++ [0] ++ List.replicate 29 0 ++ tens ++ List.replicate 224 0
     let s0 := { withBytes table with jobs := [{ job5 with upds := [(0, upd1)], stepSize := some (4, 0x3F800000) }] }
     let u := (noteStep 5 p.p0 0 none (taken p s0)).openCmd p .update
     dispatches p s0 = true ∧ bf p.p2 63 32 ≠ 0xFFFFFFFF ∧ layerCount p = 1 ∧ p.p1.toNat % 32 = 0 ∧ u.updateReady p = true
     ∧ (u.job? 5).bind (·.stepSize) = some (p.p0, 0x3F800000) ∧ u.updImg p = some (updOf upd1) ∧ p.p2.getLsbD 4 = false
     ∧ layersFit p (updOf upd1) u (List.range 1) = .ok true
     ∧ (updWorks p (updOf upd1) 0x3F800000 u (List.range 1)).isOk = true
     ∧ (updOf upd1).ops.any UpdOp.isSplit = false ∧ dispatches { p with p2 := p.p2 ||| 0x10 } s0 = true
     ∧ ({ p with p2 := p.p2 ||| 0x10 } : Packet).p2.getLsbD 4 = true
     ∧ ({ u with jobs := [{ job5 with stepSize := some (4, 0x3F800000) }] } : State).updImg p = none)
    ∧ (let p := pk 0x0503 4 0x200000 (1 * 2 ^ 16) 0 0 0
       let u := (noteStep 5 p.p0 0 none (taken p rdy)).openCmd p .update
       dispatches p rdy = true ∧ u.updateReady p = true ∧ (u.job? 5).bind (·.stepSize) = none) := by decide +kernel

/-- ATTN_BWD of one head of 32, its length table at 0x200200, with one entry of a query row, which gives tiles, and with one of
none, which ends at once; PHASE_TIMES_READ of an unread record. -/
theorem witness_LearningCommandsComplete_attn :
    (let p := pk 0x0207 (1 * 2 ^ 32 + 1 * 2 ^ 16 + 1) (32 * 2 ^ 48 + 4 * 2 ^ 40 + 4 * 2 ^ 32 + 2 * 2 ^ 16) 0 0x200000
       (2 * 2 ^ 48 + 4 * 2 ^ 40 + 4 * 2 ^ 32) 0
     let ops := List.replicate 192 0 ++ leBytes 8 0x200200 ++ List.replicate 120 0
     let y := { attnOf p with stats := false, paged := false }
     (y.bad = false ∧ fmtOk (bf p.p4 63 48 % 256) = true ∧ bf p.p4 63 48 % 256 ≠ 0x0D ∧ bf p.p0 63 32 = 1
      ∧ fmtOk (attnDo p).1 = true ∧ fmtOk (attnDo p).2 = true ∧ (pairRates (attnDo p).1 y.fpv).isSome = true
      ∧ (pairRates (attnDo p).1 y.fqk).isSome = true ∧ (pairRates y.fpv (attnDo p).1).isSome = true)
     ∧ ∀ q ∈ [0, 1], let s0 := { dies1 with devMem := Mem.writeN (Mem.writeN [] 0 ops) 0x200 (attnLens q) }
       dispatches p s0 = true ∧ (taken p s0).open? p.key = none ∧ vread 0 s0 0x200000 320 = .ok ops
       ∧ vread 0 s0 (entryOf ops 6).base 16 = .ok (attnLens q) ∧ (∀ e ∈ lenEntries (attnLens q) 1, e.qLen ≤ e.kvLen)
       ∧ (s0.tilesOf p.key 0 (attnBwdWork p y ops (lenEntries (attnLens q) 1)) s0.coreOrder = [] ↔ q = 0))
    ∧ (let w : Window := { start := 0, step := none, counts := [], active := [], saturated := false, mbCount := 0, tokens := 0, version := 0 }
       let s := { rdy with phases := [{ win := w, job := 5, flags := 0, fin := 3, read := false }] }
       let p := { pk 0x0F07 0xFFFF 0x200000 1 0 0 0 with jobId := 0xFFFF }
       dispatches p s = true ∧ s.firstUnmapped 0 0x200000 96 = none) := by decide +kernel

/-- A stow image of KIND `kind` with one region of one FP32 row of 8, and one piece for a base image (Tables 11.1 to
11.3). -/
def stow (kind : Byte) : List Byte :=
  let n : Nat := if kind = 1 then 1 else 0
  let head := leBytes 4 0x54535642 ++ [1, kind, 0, 0] ++ leBytes 8 0 ++ leBytes 4 7 ++ leBytes 2 1 ++ leBytes 2 n
    ++ leBytes 2 0 ++ leBytes 2 1 ++ leBytes 2 1 ++ leBytes 2 32 ++ [4, 4] ++ leBytes 2 0 ++ leBytes 4 8 ++ leBytes 8 128
    ++ leBytes 8 (192 * n) ++ leBytes 8 0 ++ leBytes 8 0 ++ leBytes 8 256 ++ leBytes 44 0
  let data := List.replicate 32 0
  let reg := leBytes 8 224 ++ leBytes 8 32 ++ leBytes 4 1 ++ leBytes 4 8 ++ [1, 0, 2, 0] ++ leBytes 2 0xFFFF ++ leBytes 2 0
    ++ leBytes 4 (crc32c data).toNat ++ leBytes 28 0
  head ++ leBytes 4 (crc32c head).toNat ++ reg ++ [2] ++ leBytes 31 0 ++ data

/-- `withBytes` of that image with every compute die active. -/
def loading : State := { withBytes (stow 1) with dies := (List.range 18).map fun d => (d, { role := 1 }) }

theorem witness_ModelAndFreshetCommands_load :
    (let s0 := loading
     let p := pk 0x0601 0 0x200000 256 (16 * 2 ^ 21) 0 0
     let s := taken p s0
     let kinds := areaKinds false [] 1 [regionOf (stow 1) 0 0]
     dispatches p s0 = true ∧ (stow 1).length = 256 ∧ vread 0 s 0x200000 256 = .ok (stow 1)
     ∧ imageRefusal (stow 1) 256 1 = none ∧ tierRegions false 0 [regionOf (stow 1) 0 0] = []
     ∧ cdiv (256 + 64 + checkBytes false [regionOf (stow 1) 0 0]) pageSize = 1
     ∧ s.areaFree 0 p.p3.toNat kinds.length = true ∧ s.areaShort 0 kinds.length 0 = 0) := by decide +kernel

/-- Homes suffice for the two pages of that area. -/
theorem witness_ModelAndFreshetCommands_homes :
    (match loading.areaHomes 5 16 (areaKinds false [] 1 [regionOf (stow 1) 0 0]) with
      | .ok l => l.length == 2 | .error _ => false) = true := by decide +kernel

/-- A region of 32 bytes, and a shadow model of two regions, the second FIXED; its freshet table lies at 0x300000. -/
def reg0 : Region :=
  { bytes := 32, rows := 1, cols := 8, fmt := 1, order := 0, home := 2, flags := 0, twin := 0xFFFF, piece := 0, alpha := 0
    variant := 0, checked := 0 }

@[inherit_doc reg0] def var3 : Variant := { num := 3, wbase := 0, units := 0, first := 0, count := 0, route := [] }

@[inherit_doc reg0] def shadow1 : Model :=
  { model0 with shadow := true, regions := [reg0, { reg0 with flags := 1 }], hostTier := [1]
                variants := [var3] }

/-- Its table: region 0 has its data at 0x310000, its spare buffer and checks, one chunk, state word `w`, version `v`. -/
def table0 (w : Nat) (v : Nat) : List Byte :=
  leBytes 8 0x310000 ++ leBytes 8 0x320000 ++ leBytes 8 w ++ leBytes 8 1 ++ leBytes 8 32 ++ leBytes 8 0x330000 ++ leBytes 4 v
    ++ leBytes 4 1 ++ leBytes 8 0

/-- `rdy` with that model, a flip of version 9 entered or not, and the table. -/
def fresh1 (flip : Option Packet) (w v : Nat) : State :=
  { rdy with jobs := [{ job5 with models := [{ shadow1 with flip := flip }] }]
             devMem := Mem.writeN (Mem.writeN [] 0x100100 (table0 w v)) 0x130000 (leBytes 4 (crc32c (List.replicate 32 0)).toNat) }

theorem witness_ModelAndFreshetCommands :
    (let s := fresh1 none 1 0
     let p := pk 0x0602 (2 * 2 ^ 32 + 3 * 2 ^ 16) 0 0 0 0 0
     dispatches p s = true ∧ s.nameModel p 0 = .ok shadow1 ∧ shadow1.variant? 3 = some var3
     ∧ s.variantBusy 0 5 shadow1 var3 = false)
    ∧ (let m := { shadow1 with variants := [] }
       let s := { fresh1 none 1 0 with jobs := [{ job5 with models := [m] }], devMem := Mem.writeN (Mem.writeN [] 0 (stow 2)) 0x100002 [2, 0, 0, 0, 1]
                                       dies := loading.dies }
       let p := pk 0x0602 (1 * 2 ^ 32 + 3 * 2 ^ 16) 0x200000 256 (16 * 2 ^ 21) 0 0
       dispatches p s = true ∧ s.nameModel p 0 = .ok m ∧ vread 0 s 0x200000 256 = .ok (stow 2)
       ∧ imageRefusal (stow 2) 256 2 = none ∧ m.variant? 3 = none ∧ blk (stow 2) 8 8 = m.shapeId.toNat
       ∧ blk (stow 2) 20 2 ≤ s.rd 0 (m.wbase + 6) 2 ∧ adapterBad (variantRegions p (stow 2)) = none
       ∧ (variantPlace p (variantRegions p (stow 2)) m s).isOk = true)
    ∧ (let s := { fresh1 none 1 0 with ftu := { count := 4 } }
       let p := pk 0x0604 (1 * 2 ^ 16) 9 5 0 0 0
       dispatches p s = true ∧ s.model? 5 0 = some shadow1 ∧ bf p.p1 31 0 ≠ 0xFFFFFFFF ∧ s.modelState 0 shadow1 = 0
       ∧ schedRefusal p.p2.toNat s = none)
    ∧ (dispatches (pk 0x0604 (2 * 2 ^ 16) 0 0 0 0 0) (fresh1 none 1 0) = true)
    ∧ (let s := fresh1 none 1 0
       let p := pk 0x0605 0 100 0 0 0 0
       dispatches p s = true ∧ s.model? 5 0 = some shadow1 ∧ shadow1.drain = none ∧ p.p0.getLsbD 16 = false) := by decide +kernel

/-- A drain that waits for a rollout of the model, and one that ends at once; a drain before and at its time-out. -/
theorem witness_ModelAndFreshetCommands_drain :
    (let p := pk 0x0605 0 100 0 0 0 0
     (gen [roll 0 0] []).drainReady p 0 = false ∧ (gen [] []).drainReady p 0 = true ∧ (gen [] []).filling 0 model0 = []
     ∧ model0.variants = [] ∧ dispatches p (gen [] []) = true)
    ∧ (let m := { model0 with drain := some (pk 0x0605 0 100 0 0 0 0, 100) }
       let s (f : Dword) : State := { rdy with jobs := [{ job5 with models := [m] }], ftu := { count := f } }
       (s 99).model? 5 0 = some m ∧ (s 99).ftu.count.toNat < 100 ∧ 100 ≤ (s 100).ftu.count.toNat) := by decide +kernel

/-- The FLIP of version 9, due. -/
def flip9 : Packet := { pk 0x0604 (1 * 2 ^ 16) 9 5 0 0 0 with seq := 3 }

theorem witness_FreshetEvents :
    (let due (w v : Nat) : State :=
       { fresh1 (some flip9) w v with
         ftu := { count := 5, sched := [{ kind := .flip, fret := 5, cmd := some flip9.key }] }
         opens := [{ pkt := flip9, prog := .flip 5 0 }] }
     let m := { shadow1 with flip := some flip9 }
     let s2 (w v : Nat) : Option State := (takeDue .flip flip9.key (due w v)).map (clearFlip 0 5 m)
     (due 1 9).model? 5 0 = some m ∧ flip9.job = 5 ∧ m.live = [0] ∧ bf flip9.p1 31 0 = 9
     ∧ ((s2 1 9).map fun s => s.ent 0 m 0 48 4) = some 9
     ∧ ((s2 (9 * 2 ^ 32 + 3) 7).map fun s => (s.ent 0 m 0 48 4, s.verifiedAt 0 m 9 0)) = some (7, true)
     ∧ ((s2 (8 * 2 ^ 32 + 4) 7).map fun s => (s.ent 0 m 0 48 4, s.verifiedAt 0 m 9 0)) = some (7, false)) := by decide +kernel

/-- A region in reception whose one chunk has arrived: it matches its checksum, and it does not. -/
theorem witness_FreshetEvents_chunk :
    (let s := fresh1 none 2 7
     let buf := s.ent 0 shadow1 0 8 8
     shadow1.regions[0]? = some reg0 ∧ ssOf (s.stw 0 shadow1 0) = 2 ∧ reg0.checked < s.ent 0 shadow1 0 24 8
     ∧ s.ent 0 shadow1 0 52 4 = 1
     ∧ (crc32c (s.peek 0 buf (min 262144 32))).toNat = s.rd 0 (s.ent 0 shadow1 0 40 8) 4)
    ∧ (let s := { fresh1 none 2 7 with devMem := Mem.writeN (Mem.writeN [] 0x100100 (table0 2 7)) 0x120000 [1] }
       (crc32c (s.peek 0 (s.ent 0 shadow1 0 8 8) 32)).toNat ≠ s.rd 0 (s.ent 0 shadow1 0 40 8) 4)
    ∧ (let s := fresh1 none 5 7
       shadow1.indices.contains 0 = true ∧ ssOf (s.stw 0 shadow1 0) = 5 ∧ s.formerReader 5 shadow1 7 = false)
    ∧ shadow1.hostTier.contains 1 = true := by decide +kernel

/-! ## Witnesses: checkpoints -/

/-- A shard header of 64 bytes of data at the start of page 1 (Table 14.5: BYTES and DATA_ADDR). -/
def hdr1 : List Byte := List.replicate 32 0 ++ leBytes 8 64 ++ List.replicate 64 0 ++ leBytes 8 0x200000 ++ List.replicate 16 0

/-- A checkpoint of it, in a state of Table 14.6. -/
def ckpt0 (st : Nat) (todo : List Nat) (lost : Option Nat) : Ckpt :=
  { id := 0, state := st, step := 4, protect := 0, gen2 := false, peerModule := 0, peerJob := 0, group := 0, members := []
    rank := 0, freeze := 2, cmd := { vi := 0, sq := 0, seq := 3 }, vi := 0, hdrs := [hdr1], written := [0]
    slots := [(1, 0, 32000)], todo := todo, covered := [32], sent := 0, lost := lost, repeated := [] }

/-- A hold of one frame with no image. -/
def hold0 : Hold := { id := 0, peerModule := 1, peerJob := 5, slots := [(0, 32639)], imgs := [] }

/-- Job 5 with checkpoints and holds, and stack 0 with an oxbow region; the header lies in page 2. -/
def saving (cs : List Ckpt) (hs : List Hold) : State :=
  { rdy with jobs := [{ job5 with ckpts := cs, holds := hs }], stks := [(0, { state := 1, oxbow := 1 }), (1, { state := 1 })]
             ftu := { count := 4 }, devMem := Mem.writeN [] 0x200000 hdr1 }

/-- CKPT_BEGIN TAKE of one shard with no protection, at fret `f`. -/
def take1 (f : Dword) (prot : Dword) : Packet := pk 0x0801 (1 + 256 * prot) 4 f 0x400000 1 0

theorem witness_CheckpointCommandsComplete :
    (let s := taken (take1 0 0) (saving [ckpt0 2 [] none] [])
     let d := dealSlots s [(1, 32000)] (setPages 0 [hdr1] s).1 []
     dispatches (take1 0 0) (saving [ckpt0 2 [] none] []) = true ∧ vread 0 s 0x400000 128 = .ok hdr1 ∧ hdrsOf hdr1 = [hdr1]
     ∧ setUnmapped 0 [hdr1] s = none ∧ (setPages 0 [hdr1] s).2 = none ∧ d.2 = 0)
    ∧ (dispatches (take1 0 1) (saving [] []) = true ∧ bf (take1 0 1).p0 9 8 = 1)
    ∧ (dispatches (take1 5 0) (saving [] []) = true ∧ schedRefusal (take1 5 0).p2.toNat (taken (take1 5 0) (saving [] [])) = none)
    ∧ (let p := pk 0x0801 2 0 0 0 0 1
       dispatches p (saving [] []) = true ∧ ((taken p (saving [] [])).oxbowFree 1).isSome = true
       ∧ dispatches p rdy = true ∧ (taken p rdy).oxbowFree 1 = none)
    ∧ (let p := pk 0x0801 3 0 0 0 0 0
       dispatches p (saving [ckpt0 1 [] none] []) = true ∧ dispatches p (saving [ckpt0 2 [] none] []) = true ∧ p.p1.getLsbD 8 = false
       ∧ dispatches p (saving [] [hold0]) = true)
    ∧ (let p := pk 0x0801 3 0x100 0 0 0 0
       dispatches p (saving [] [hold0]) = true ∧ p.p1.getLsbD 8 = true ∧ (∀ x ∈ hold0.imgs, x.complete = true)) := by
  decide +kernel

/-- A TAKE with PARITY: its group, and frames for its parity. -/
theorem witness_CheckpointCommandsComplete_parity :
    (let g : Group := { job := 5, num := 1, members := [(0, 5), (1, 5)], rank := 0, level := 1, weight := 1, timeout := 0
                        nextOp := 0, queue := [] }
     let p := pk 0x0801 (1 + 256 * 2 + 2 ^ 16) 4 0 0x400000 1 1
     let s0 := { saving [] [] with fab := { groups := [g] } }
     let c := newCkpt p { job5 with ckpts := [], holds := [] } [hdr1] [(1, 0, 32600)] (taken p s0)
     dispatches p s0 = true ∧ parityGroup p (taken p s0) = some g
     ∧ (beginParity 5 c.group c.step g.rank g.size (takeFrames p) g.rank c.covered.length c.hdrs.length
          ((taken p s0).updJob 5 fun j => { j with ckpts := j.ckpts ++ [c] })).isSome = true) := by decide +kernel

theorem witness_CheckpointReadsComplete :
    (let p := pk 0x0802 2 0 0x210000 192 0 0
     let s := saving [ckpt0 2 [] none] []
     dispatches p s = true ∧ (s.ckpt? 5 0).map (·.usable) = some true ∧ 128 + cdiv (hdrBytes hdr1) 64 * 64 = bf p.p3 31 0
     ∧ (vstore p p.p2.toNat (exportHdr hdr1 ++ (ckpt0 2 [] none).shardData (taken p s) hdr1) (taken p s)).2.isNone = true)
    ∧ (let p := pk 0x0802 2 0 0x210000 191 0 0
       dispatches p (saving [ckpt0 2 [] none] []) = true ∧ bf p.p3 31 0 < 128 + cdiv (hdrBytes hdr1) 64 * 64)
    ∧ (let p := pk 0x0802 1 0 0 0 0 0
       dispatches p (saving [ckpt0 2 [] none] []) = true ∧ dispatches p (saving [ckpt0 1 [] none] []) = true
       ∧ ((saving [ckpt0 1 [] none] []).ckpt? 5 0).map (·.usable) = some false
       ∧ (((saving [{ ckpt0 2 [] none with hdrs := [] }] []).ckpt? 5 0).map (·.hdrs)) = some [])
    ∧ (let p := pk 0x0802 3 0 0x210000 64 0 0
       let s := saving [ckpt0 2 [] none] [hold0]
       dispatches p s = true
       ∧ (vstore p p.p2.toNat (ckptEntry job5 (ckpt0 2 [] none) ++ holdEntry hold0) (taken p s)).2.isNone = true)
    ∧ (let p := pk 0x0803 4 0 0 (2 ^ 20) 0 0
       dispatches p rdy = true ∧ bf p.p0 7 0 = 4 ∧ bf p.p3 31 0 = 2 ^ 20)
    ∧ (let p := pk 0x0804 0 0xFFFFFFFFFFFFFFFF 0 0 0 0
       let c := ckpt0 2 [] none
       dispatches p (saving [c] []) = true ∧ rollbackTarget p { job5 with ckpts := [c] } = some c
       ∧ setUnmapped 0 c.hdrs (saving [c] []) = none ∧ p.p0.getLsbD 8 = false)
    ∧ (let p := pk 0x0804 0x100 4 9 0 0 0
       dispatches p (saving [ckpt0 2 [] none] []) = true ∧ bf p.p2 31 0 ≠ 0xFFFFFFFF
       ∧ rollbackTarget p { job5 with ckpts := [ckpt0 2 [] none] } = some (ckpt0 2 [] none))
    ∧ (dispatches (pk 0x0805 (3 * 2 ^ 48) 0 0 0 0 0) rdy = true ∧ rdy.fab.groups = [] ∧ rdy.opens = []) := by decide +kernel

/-- The TAKE of `ckpt0`, in progress. -/
def takeOpen : OpenCmd := { pkt := { take1 4 0 with seq := 3 }, prog := .take 5 0 }

theorem witness_CheckpointEvents :
    (let s := { saving [ckpt0 0 [] none] [] with opens := [takeOpen] }
     let due := { s with ftu := { count := 4, sched := [{ kind := .ckpt, fret := 4, cmd := some takeOpen.pkt.key }] } }
     (s.ckpt? 5 0).isSome = true ∧ takeDue .ckpt (ckpt0 0 [] none).cmd s = none
     ∧ (match takeDue .ckpt (ckpt0 0 [] none).cmd due with
        | some s1 => (s1.job? 5).isSome && (s1.ckpt? 5 0).isSome
        | none => false) = true)
    ∧ (let c := ckpt0 1 [32] none
       let s := { saving [c] [] with opens := [takeOpen] }
       s.ckpt? 5 0 = some c ∧ c.state = 1 ∧ c.todo = [32] ∧ (32 : Nat) ∈ c.todo)
    ∧ (let c := ckpt0 1 [] none
       let s := { saving [c] [] with opens := [takeOpen] }
       (writeHeaders 5 0 s).ckpt? 5 0 = some c ∧ c.written.length = c.hdrs.length ∧ c.allSent = true
       ∧ (s.takeOf 5 0).isSome = true)
    ∧ (let c := ckpt0 1 [] (some 7)
       let s := { saving [c] [] with opens := [takeOpen] }
       (writeHeaders 5 0 s).ckpt? 5 0 = some c ∧ c.lost ≠ none) := by decide +kernel

/-- Region 32 of that state reads whole; with a burst of wrong parity it does not. -/
theorem witness_CheckpointEvents_region :
    (let s := saving [ckpt0 1 [32] none] []
     let bad := s.updStk 0 fun t => { t with badParity := [(0, 0)] }
     s.badRegion 0 32 = none ∧ bad.badRegion 0 32 = some (.parity 0x200000)) := by decide +kernel

/-- A group of two members of job 5, this module first, with the SHIFT `shift1` at its head. -/
def shift1 : Packet := { pk 0x0705 (1 * 2 ^ 16) 0x200000 0x210000 64 0 0 with seq := 3 }

@[inherit_doc shift1] def group0 (q : List Packet) : Group :=
  { job := 5, num := 0, members := [(0, 5), (1, 5)], rank := 0, level := 1, weight := 1, timeout := 8, nextOp := 1, queue := q }

/-- That group with an operation in progress: (out, recv) as given, its time-out at fret 8. -/
def collective (p : Packet) (out recv : List (Nat × Nat × Nat)) : State :=
  { rdy with jobs := [{ job5 with domain := 7 }], fab := { groups := [group0 [p]] }, ftu := { count := 8 }
             opens := [{ pkt := p, prog := .coll 0 0 true out recv 8 }] }

theorem witness_CheckpointEvents_timeout :
    (let s := collective shift1 [(1, 1, 0)] [(1, 1, 0)]
     let t := pumpAll (endColl shift1 0 0 0xFF 0x0713 1 0 s)
     s.group? 5 0 = some (group0 [shift1]) ∧ (group0 [shift1]).queue.head? = some shift1
     ∧ s.open? shift1.key = some { pkt := shift1, prog := .coll 0 0 true [(1, 1, 0)] [(1, 1, 0)] 8 }
     ∧ 8 ≤ s.ftu.count.toNat ∧ ({ s with ftu := { count := 7 } }.ftu.count.toNat < 8)
     ∧ t.opens.all (fun o => match o.prog with | .take _ _ => false | _ => true) = true) := by decide +kernel

/-! ## Witnesses: the fabric -/

/-- Job 5 in fabric domain 7. -/
def dom7 : State := { rdy with jobs := [{ job5 with domain := 7 }] }

/-- A PUT of 64 bytes to module 1. -/
def put1 : Packet := { pk 0x0701 (1 * 2 ^ 48 + 5 * 2 ^ 32) 0x200000 0x200000 64 0 0 with seq := 3 }

theorem witness_RemoteCommandsComplete :
    (dispatches put1 dom7 = true ∧ remoteBad put1 = false)
    ∧ (dispatches (pk 0x0402 2 0 0 0 0 0) (gen [] []) = true ∧ (gen [] []).pool? 5 0 = some pool0
       ∧ 0 < (gen [] []).kvTables 0 pool0
       ∧ dispatches (pk 0x0402 2 0 0 0 0 0) rdy = true ∧ rdy.pool? 5 0 = none)
    ∧ (let p := pk 0x0603 (1 * 2 ^ 32) 9 0 0 0 0
       let s := fresh1 none 1 0
       dispatches p s = true ∧ (taken p s).nameModel p 0 = .ok shadow1 ∧ bf p.p0 47 32 = 1 ∧ bf p.p1 31 0 ≠ 0xFFFFFFFF
       ∧ bf p.p0 31 16 + 1 ≤ shadow1.regions.length
       ∧ dispatches (pk 0x0603 (1 * 2 ^ 32) 0xFFFFFFFF 0 0 0 0) s = true ∧ bf (0xFFFFFFFF : Dword) 31 0 = 0xFFFFFFFF)
    ∧ (let p := { pk 0x0603 (1 * 2 ^ 32) 9 0 0 0 0 with seq := 3 }
       let s := { fresh1 none 1 0 with opens := [{ pkt := p, prog := .push 7 0 0 0 0 0 1 [] }] }
       viOk 0 = true ∧ (s.open? { vi := 0, sq := 0, seq := 3 }).isSome = true ∧ s.ftu.count.toNat < 1
       ∧ 1 ≤ ({ count := 1 } : Ftu).count.toNat) := by decide +kernel

theorem witness_RemoteOperationEffect :
    rdy.job? 6 = none ∧ (∃ j, dom7.job? 5 = some j ∧ j.domain = 7 ∧ (7 : Word) ≠ 0 ∧ (8 : Word) ≠ j.domain)
    ∧ dom7.firstUnmapped 0 0x7FFFFF 2 = some 0x800000 ∧ dom7.firstUnmapped 0 0x7FFFF8 8 = none
    ∧ vread 0 dom7 0x7FFFF8 8 = .ok (List.replicate 8 0) ∧ 0x7FFFF8 % 8 = 0 ∧ 0x7FFFF7 % 8 ≠ 0 := by
  refine ⟨by decide, ⟨_, rfl, by decide⟩, ?_⟩
  decide +kernel

/-- A one-packet request chunk of job 5 on channel 0 from module 1. -/
def req (data : List Byte) : FabPkt :=
  { pkt0 with src := 1, dstJob := 5, domain := 7, crc := crc32c data, addr := 0x200000, data := data }

/-- The data bytes of a GET_REQ, an ATOMIC_REQ and a SIGNAL request (R539 to R541). -/
def getData1 : List Byte := leBytes 8 64 ++ leBytes 2 5 ++ leBytes 8 0x300000

@[inherit_doc getData1] def atomData1 : List Byte := [1] ++ leBytes 8 3 ++ leBytes 8 0 ++ leBytes 2 5 ++ leBytes 8 0

@[inherit_doc getData1] def sigData1 : List Byte := leBytes 8 1 ++ leBytes 2 5

/-- Page 1 of the job in motion. -/
def moving : State :=
  let mv : PageMove := { target := .hbm 1 5, phase := 0, hub := 0, cmd := none }
  { dom7 with vis := [(0, { vi0 with pages := [(1, { page 0 0 with move := some mv })] })] }

/-- The channel of `req` after that chunk. -/
def past (s : State) : State := setRx { s.rxOf 1 (chanCode 5 0) with data := [], next := 1, fails := 0 } s

theorem witness_RequestPacketsArrive :
    ((req [1, 2]).dst.toNat = dom7.moduleId ∧ (req [1, 2]).chunkSeq = (dom7.rxOf 1 (chanCode 5 0)).next
     ∧ (req [1, 2]).crc = crc32c [1, 2] ∧ (req [1, 2]).first = true ∧ (req [1, 2]).last = true ∧ (req [1, 2]).addr.toNat < 2 ^ 63)
    ∧ (∀ k ∈ ([1, 2, 4, 6] : List Byte), dom7.holdsPkt [] { req [1, 2] with kind := k } = false
        ∧ moving.holdsPkt [] { req [1, 2] with kind := k } = true
        ∧ dom7.holdsPkt [{ req [] with kind := 1 }] { req [1, 2] with kind := k } = true)
    ∧ ((doReq 5 7 (.put 0x200000 [1, 2]) (past dom7)).2 = .ok []
       ∧ (doReq 5 8 (.put 0x200000 [1, 2]) (past dom7)).2 = .deny 0x12 0x0702 5)
    ∧ ((doReq 5 7 (reqOf 0x02 0x200000 getData1) (past dom7)).2 = .ok (List.replicate 64 0)
       ∧ (doReq 5 8 (reqOf 0x02 0x200000 getData1) (past dom7)).2 = .deny 0x12 0x0702 5
       ∧ (doReq 5 7 (reqOf 0x04 0x200000 atomData1) (past dom7)).2 = .ok (List.replicate 8 0)
       ∧ (doReq 5 8 (reqOf 0x04 0x200000 atomData1) (past dom7)).2 = .deny 0x12 0x0702 5
       ∧ (doReq 5 7 (reqOf 0x06 0x200000 sigData1) (past dom7)).2 = .ok (List.replicate 8 0)
       ∧ (doReq 5 8 (reqOf 0x06 0x200000 sigData1) (past dom7)).2 = .deny 0x12 0x0702 5)
    ∧ (({ req [] with last := false } : FabPkt).last = false)
    ∧ (let p := { req [] with chunkSeq := 0xFFFFFFFF }
       let c := dom7.rxOf 1 (chanCode 5 0)
       p.chunkSeq ≠ c.next ∧ (p.chunkSeq - c.next).getLsbD 31 = true)
    ∧ (let p := { req [] with chunkSeq := 1 }
       let c := dom7.rxOf 1 (chanCode 5 0)
       p.chunkSeq ≠ c.next ∧ (p.chunkSeq - c.next).getLsbD 31 = false)
    ∧ ({ pkt0 with hops := 15 } : FabPkt).hops = 15 := by decide +kernel

/-- One port of a route takes every packet, whatever the hash. -/
theorem portFor_one {s : State} {p : FabPkt} {q : Nat} (h : s.routePorts p.dst.toNat = [q]) : s.portFor p = some q := by
  simp [State.portFor, h, Nat.mod_one]

/-- `rdy` with port 3 up on the route to module 9. -/
def routed : State := { rdy with fab := { ports := [(3, { state := 2 })], routes := [(9, 8)] } }

theorem witness_RequestPacketsArrive_route : routed.portFor { pkt0 with dst := 9, hops := 1 } = some 3 :=
  portFor_one (by decide +kernel)

/-- The PUT's first chunk, kept at its source, and a kept GET. -/
def chunk1 (kind : Byte) (data : List Byte) : TxChunk :=
  { dst := 1, stream := chanCode 5 0, chunk := 0, cmd := some put1.key
    pkts := [{ req data with dst := 1, src := 0, kind := kind }], crcFails := 0 }

/-- `dom7` with the command open and the chunk kept. -/
def kept (kind : Byte) (data : List Byte) : State :=
  { dom7 with opens := [{ pkt := put1, prog := .remote 64 0 false }], fab := { unacked := [chunk1 kind data] } }

/-- The kept request that an answer packet of `kind` 3 or 5 names. -/
def asked (k : Nat) (p : FabPkt) (c : TxChunk) : Bool :=
  c.dst == p.src && c.chunk == p.chunkSeq && c.stream % 64 == p.stream.toNat % 16
    && (if k = 3 then c.kind == 2 else c.kind == 4 || c.kind == 6)
    && (match c.pkts with
        | q :: _ => decide (askerOf q.kind q.data = (p.dstJob.toNat, if c.kind = 6 then 0 else p.addr.toNat))
        | [] => false)

theorem witness_AnswerPacketsArrive :
    (let p := { req (List.replicate 64 0) with addr := 0x300000 }
     let s := kept 2 getData1
     let s1 := setRx { s.rxOf 1 (2 ^ 23 + chanCode 5 0) with data := [], next := 0, fails := 0 } s
     p.dst.toNat = s.moduleId ∧ p.first = true ∧ p.last = true ∧ p.crc = crc32c p.data
     ∧ s.fab.unacked.find? (asked 3 p) = some (chunk1 2 getData1)
     ∧ ((chunk1 2 getData1).cmd.bind (dropChunk (chunk1 2 getData1) (sendAck { p with kind := 3 } s1)).open?).isSome = true)
    ∧ (let p := { req (List.replicate 8 0) with addr := 0 }
       let s := kept 4 atomData1
       let s1 := setRx { s.rxOf 1 (2 ^ 23 + chanCode 5 0) with data := [], next := 0, fails := 0 } s
       s.fab.unacked.find? (asked 5 p) = some (chunk1 4 atomData1)
       ∧ ((chunk1 4 atomData1).cmd.bind (dropChunk (chunk1 4 atomData1) (sendAck { p with kind := 5 } s1)).open?).isSome = true
       ∧ (kept 6 sigData1).fab.unacked.find? (asked 5 p) = some (chunk1 6 sigData1))
    ∧ (let p := req ([1, 2] ++ List.replicate 10 0)
       dom7.named p = none ∧ (kept 1 [0]).named p = some (chunk1 1 [0]) ∧ p.data.getD 1 0 = 2 ∧ (chunk1 1 [0]).kind = 1
       ∧ (chunk1 1 [0]).cmd.bind (kept 1 [0]).open? = some { pkt := put1, prog := .remote 64 0 false }
       ∧ (chunk1 1 [0]).cmd.bind (dropChunk (chunk1 1 [0]) (kept 1 [0])).open? = some { pkt := put1, prog := .remote 64 0 false })
    ∧ ((kept 1 [0]).fab.unacked.find? (fun c => c.dst == 1 && c.stream == chanCode 5 0 && c.chunk == 0) = some (chunk1 1 [0]))
    ∧ ((kept 1 [0]).open? put1.key = some { pkt := put1, prog := .remote 64 0 false }
       ∧ ({ kept 1 [0] with opens := [{ pkt := put1, prog := .remote 64 0 true }] }).open? put1.key
           = some { pkt := put1, prog := .remote 64 0 true }
       ∧ (kept 1 [0]).fab.unacked.find? (fun c => c.cmd == some put1.key) = some (chunk1 1 [0])) := by decide +kernel

theorem witness_CollectiveCommandsComplete :
    (let s := { dom7 with fab := { groups := [group0 []] } }
     let x := collOf shift1
     dispatches shift1 s = true ∧ s.group? 5 0 = some (group0 []) ∧ s.opens = [] ∧ collBad x (group0 []) = false ∧ x.start = 0)
    ∧ (let s := { withBytes [1, 0, 0, 0] with fab := { groups := [group0 []] } }
       let p := pk 0x0706 0 0x210000 0x220000 64 0 0x200000
       dispatches p s = true ∧ collBad (collOf p) (group0 []) = false ∧ permTable p (group0 []) (taken p s) = .ok [1, 0]
       ∧ isPerm 2 [1, 0] = true)
    ∧ (let s := { dom7 with fab := { groups := [group0 []] }, ftu := { count := 4 } }
       let p := pk 0x0707 (8 * 2 ^ 32 + 2 ^ 16) 0x200000 0 0x210000 (2 ^ 48 + 2 ^ 32 + 2 ^ 24) 9
       dispatches p s = true ∧ collBad (collOf p) (group0 []) = false ∧ bf p.p0 11 8 ≤ 1 ∧ (group0 []).level ≠ 2
       ∧ schedRefusal (collOf p).start (taken p s) = none)
    ∧ (rdy.group? 5 0 = none ∧ dispatches shift1 rdy = true)
    ∧ (let p := pk 0x0708 (1 + 2 ^ 16 + 2 ^ 24) 0x200000 2 0 0 0
       let s := withBytes [0, 0, 5, 0, 1, 0, 5, 0]
       dispatches p s = true ∧ bf p.p0 23 16 = 1 ∧ bf p.p0 25 24 = 1 ∧ bf p.p2 31 0 = 2 ∧ bf p.p2 63 32 = 0
       ∧ vread 0 s 0x200000 8 = .ok [0, 0, 5, 0, 1, 0, 5, 0] ∧ s.moduleId = 0)
    ∧ (let s := { dom7 with fab := { groups := [group0 []] } }
       dispatches (pk 0x0708 2 0 0 0 0 0) s = true ∧ dispatches (pk 0x0708 2 0 0 0 0 0) rdy = true
       ∧ s.group? 5 (bf 2 13 8) = some (group0 []) ∧ (group0 []).queue = [])
    ∧ dispatches (pk 0x0708 (3 + 9 * 2 ^ 32) 0 0 0 0 0) rdy = true := by decide +kernel

/-- A reduction in progress between members 0 and 1, with a GRANT_REQ waiting and a slot taken. -/
def red1 : Packet := { pk 0x0707 (8 * 2 ^ 32 + 2 ^ 16) 0x200000 0 0x210000 (2 ^ 48 + 2 ^ 32 + 2 ^ 24) 0 with seq := 3 }

@[inherit_doc red1] def slot0 : PoolSlot :=
  { half := 0, job := 5, group := 0, op := 0, chunk := 0, from_ := [], sums := List.replicate 8 0, tallies := [], weights := [] }

@[inherit_doc red1] def wait0 : GrantWait := { half := 0, job := 5, group := 0, op := 0, chunk := 0, member := 1, src := 1 }

@[inherit_doc red1] def reducing : State :=
  let s := collective red1 [(1, 1, 0)] [(1, 1, 0)]
  { s with fab := { s.fab with slots := [slot0], grantWaits := [wait0] } }

theorem witness_CollectiveCommandsComplete_events :
    (let s := { collective shift1 [] [] with ftu := { count := 4, sched := [{ kind := .coll, fret := 4, cmd := some shift1.key }] } }
     (takeDue .coll { vi := 0, sq := 0, seq := 3 } s).isSome = true ∧ takeDue .coll { vi := 0, sq := 0, seq := 3 } rdy = none)
    ∧ (nextGrant 0 rdy).isNone = true
    ∧ ((nextGrant 0 reducing).map fun r => (r.1, (r.2.slot? 5 0 0 0).isSome, (r.2.collAt 5 0 0).isSome)) = some (wait0, true, true) := by
  decide +kernel

/-- A group packet of chunk `k` from member 1. -/
def gpkt (k : Word) (data : List Byte) : FabPkt :=
  { pkt0 with src := 1, dstJob := 5, domain := 7, chunkSeq := k, crc := crc32c data, data := data }

/-- A SHIFT and a reduction of two chunks, the second short. -/
def shift2 : Packet := { shift1 with p3 := 262144 + 64 }

@[inherit_doc shift2] def red2 : Packet := { red1 with p0 := (65536 + 8) * 2 ^ 32 + 2 ^ 16 }

/-- The receiver's state of group 0 after chunk `k` from member 1. -/
def pastG (k : Word) (s : State) : State := setRx { s.rxOf 1 (groupCode 5 0) with data := [], next := k, fails := 0 } s

/-- A group of three, with a slot that waits for its two contributions. -/
def red3 : State :=
  let s := collective red1 [(1, 1, 0), (2, 1, 0)] [(1, 1, 0), (2, 1, 0)]
  { s with fab := { groups := [{ group0 [red1] with members := [(0, 5), (1, 5), (2, 5)] }], slots := [slot0] } }

theorem witness_GroupPacketsArrive :
    (groupDenied { gpkt 0 [] with domain := 8 } dom7 = some (0x0702, 5) ∧ groupDenied (gpkt 0 []) reducing = none)
    ∧ ((reducing.collAt 5 0 0).map (·.prog) = some (.coll 0 0 true [(1, 1, 0)] [(1, 1, 0)] 8)
       ∧ senderOf (group0 [red1]) [(1, 1, 0)] 1 0 = some 1 ∧ senderOf (group0 [red1]) [(1, 1, 1)] 1 0 = some 1
       ∧ (collOf red1).kind = 2 ∧ reducing.redHalf 0 = 0 ∧ wait0 ∈ reducing.fab.grantWaits
       ∧ wait0 ∉ (collective red1 [(1, 1, 0)] [(1, 1, 0)]).fab.grantWaits)
    ∧ reducing.fab.unacked = []
    ∧ (let c : TxChunk := { dst := 1, stream := groupCode 5 0, chunk := 0, cmd := some red1.key
                            pkts := [{ gpkt 0 [] with kind := 0x10 }], crcFails := 0 }
       let s := { reducing with fab := { reducing.fab with unacked := [c] } }
       let t := markPhase 5 4 ((dropChunk c s).setProg red1.key (.coll 0 0 true [(1, 1, 0)] [(1, 1, 0)] (untilFret (group0 [red1]) s)))
       c.kind = 0x10 ∧ (c.cmd.bind s.open?).isSome = true
       ∧ (match redData red1 (collOf red1) ((collOf red1).part 2 1) 0 t with | .ok _ => true | .error _ => false) = true)
    ∧ (let s := pastG 0 (collective shift1 [(1, 1, 0)] [(1, 1, 0)])
       let p := gpkt 0 (List.replicate 64 1)
       (s.collAt 5 0 0).isSome = true ∧ p.data.length = (collOf shift1).bytesOf 2 0 0 ∧ (collOf shift1).kind = 0
       ∧ (vstore shift1 ((collOf shift1).dst + 0) p.data (markPhase 5 4 s)).2.isNone = true)
    ∧ (let s := pastG 1 (collective shift2 [(1, 2, 0)] [(1, 2, 0)])
       (s.collAt 5 0 0).isSome = true ∧ senderOf (group0 [shift2]) [(1, 2, 0)] 1 1 = some 1
       ∧ (collOf shift2).bytesOf 2 0 1 = 64 ∧ (collOf red2).bytesOf 2 0 1 = 32 ∧ (collOf red2).kind = 2)
    ∧ (let s := pastG 0 red3
       (s.collAt 5 0 0).isSome = true ∧ (collOf red1).bytesOf 3 0 0 = 32 ∧ s.slot? 5 0 0 0 = some slot0
       ∧ senderOf { group0 [red1] with members := [(0, 5), (1, 5), (2, 5)] } [(1, 1, 0), (2, 1, 0)] 1 0 = some 1
       ∧ slot0.from_.length + 1 < [(1, 1, 0), (2, 1, 0)].length) := by decide +kernel

/-- A flit under its LCRC. -/
def sealed (f : Flit) : Flit := { f with lcrc := crc32 (flitBytes f) }

theorem witness_LinkEvents :
    (({ eth := true, state := 2 } : Port).live = true ∧ ({} : Port).live = false ∧ ({ state := 2 } : Port).eth = false)
    ∧ (lcrcOk (sealed flit0) = true ∧ lcrcOk { sealed flit0 with lcrc := 1 } = false
       ∧ lcrcOk { sealed { flit0 with kind := 3 } with lcrc := 1 } = false ∧ lcrcOk (sealed { flit0 with kind := 3 }) = true
       ∧ (let f := sealed { flit0 with kind := 1, seq := 5 }
          lcrcOk f = true ∧ f.seq ≠ ({ state := 2 } : Port).rxSeq + 1)
       ∧ ∀ k ∈ ([1, 2] : List Byte), let f := sealed { flit0 with kind := k, seq := 0 }
          lcrcOk f = true ∧ f.seq = ({ state := 2 } : Port).rxSeq + 1)
    ∧ (({ state := 1 } : Port).state = 1 ∧ (let t : Port := { cable := true }
        t.state = 0 ∧ t.cable = true) ∧ 2 ≤ ({ state := 2 } : Port).state ∧ ({} : Port).cable = false)
    ∧ (let t : Port := { spare := true, state := 2, peer := 3 }
       t.spare = true ∧ t.state = 2 ∧ t.unfit = false ∧ qualifies { state := 3, peer := 3 } t true = true
       ∧ qualifies { state := 3, peer := 3 } t false = false
       ∧ (∀ k, k < 20 → (({ rdy with fab := { ports := [(3, t)] } } : State).port k).state ≠ 4)) := by decide +kernel

theorem witness_LinkPatternCommands :
    (let p := { pk 0x0A03 (0xF * 2 ^ 8) 9 0 0 0 0 with jobId := 0xFFFF, seq := 3 }
     let s := { rdy with fab := { ports := [(0, { spare := true, state := 2 })] } }
     dispatches p s = true ∧ bf p.p0 4 0 < 20 ∧ patternFree (s.port 0) = true ∧ s.patternOn 0 = none
     ∧ patternFree { state := 2 } = false
     ∧ dispatches p { rdy with fab := { ports := [(0, { state := 2 })] } } = true
     ∧ dispatches { p with seq := 4 } { s with opens := [{ pkt := p, prog := .linkPattern 0 9 }] } = true
     ∧ (let t := { s with opens := [{ pkt := p, prog := .linkPattern 0 9 }] }
        t.patternOn 0 = some { pkt := p, prog := .linkPattern 0 9 } ∧ t.ftu.count.toNat < 9 ∧ 9 ≤ ({ count := 9 } : Ftu).count.toNat)) := by
  decide +kernel

/-! ## Witnesses: jobs, tests and faults -/

/-- `rdy` in JOB mode with job 5 in a state of Table 15.1, of a Standard VI. -/
def jobs1 (st : Nat) : State :=
  { rdy with jobs := [{ job5 with state := st }], sched := { stepMode := false }, quotas := [(0, { cls := 2, pages := 100, jobs := 2 })] }

/-- Job 5 as JOB_START leaves it before the choice of its turn. -/
def starting (s0 : State) : State :=
  let p := pk 0x0902 0 0 0 0 0 0
  let s := taken p s0
  ((firstStart 5 s).openCmd p .jobStart).updJob 5 fun j =>
    { j with start := some p, deferred := none, preempt := 0, cls := (s.quota j.vi).cls }

/-- The module free with job 6 in the queue. -/
def queued : State :=
  { jobs1 0 with sched := { stepMode := false, queue := [6] }, jobs := [{ job5 with state := 0 }, { job5 with id := 6, state := 1 }] }

/-- Job 5 SUSPENDED, of a VI of class `c`, and job 6 of VI 1 with class `d`, which holds the module. -/
def rivals (c d : Nat) : State :=
  { jobs1 5 with sched := { stepMode := false, holder := some 6 }
                 jobs := [{ job5 with state := 5 }, { job5 with id := 6, vi := 1, cls := d }]
                 quotas := [(0, { cls := c, pages := 100, jobs := 2 }), (1, { cls := d, pages := 100, jobs := 2 })] }

/-- Job 5 RUNNING under its JOB_START. -/
def ending : State :=
  let q := { pk 0x0902 0 0 0 0 0 0 with seq := 3 }
  { jobs1 3 with opens := [{ pkt := q, prog := .jobStart }], jobs := [{ job5 with start := some q }]
                 sched := { stepMode := false, holder := some 5 } }

theorem witness_JobCommandsComplete :
    (let p := { pk 0x0901 0x400000 0 0 0 0 0 with jobId := 0xFFFF }
     let s := taken p (jobs1 3)
     dispatches p (jobs1 3) = true ∧ p.p0.toNat % pageSize = 0 ∧ (s.quota 0).cls ≠ 0
     ∧ (s.jobs.filter fun j => j.vi == p.vi).length < (s.quota 0).jobs ∧ s.resident < 256 ∧ s.ctxShort 0 s.ctxSize = 0)
    ∧ (let p := pk 0x0902 0 0 0 0 0 0
       dispatches p (jobs1 3) = true ∧ dispatches p (jobs1 0) = true ∧ dispatches p (jobs1 5) = true
       ∧ dispatches { p with jobId := 0xFFFF } rdy = true ∧ rdy.job? 0xFFFF = none)
    ∧ (∀ st ∈ [0, 5], let s := taken (pk 0x0902 0 0 0 0 0 0) (jobs1 st)
       backfillBusy 2 s = false ∧ s.sched.stepMode = false ∧ (s.quota 0).cls = 2 ∧ (starting (jobs1 st)).holding = none
       ∧ (starting (jobs1 st)).sched.queue = [])
    ∧ (dispatches (pk 0x0902 0 0 0 0 0 0) queued = true ∧ backfillBusy 2 (taken (pk 0x0902 0 0 0 0 0 0) queued) = false
       ∧ (starting queued).holding = none ∧ (starting queued).sched.queue = [6])
    ∧ (∀ c ∈ [(2, 2, false), (1, 2, true), (2, 3, true)],
       dispatches (pk 0x0902 0 0 0 0 0 0) (rivals c.1 c.2.1) = true ∧ backfillBusy c.1 (rivals c.1 c.2.1) = false
       ∧ (let t := starting (rivals c.1 c.2.1)
          t.holding = some 6 ∧ t.clsOf 5 = c.1 ∧ t.clsOf 6 = c.2.1 ∧ t.preempting 6 = false))
    ∧ (let p := pk 0x0903 0 0 0 0 0 0
       dispatches p (jobs1 3) = true ∧ job5.preempt = 0 ∧ dispatches p (jobs1 5) = true ∧ p.p0.getLsbD 16 = false)
    ∧ (let p := pk 0x0904 0 0 0 0 0 0
       dispatches p (jobs1 3) = true ∧ p.p0.getLsbD 0 = false ∧ (jobs1 3).opens = [] ∧ job5.cmdList = []
       ∧ dispatches p ending = true ∧ (∀ o ∈ (taken p ending).opens, o.prog = .jobStart)
       ∧ ((taken p ending).job? 5).map (·.start.isSome) = some true)
    ∧ (let p := { pk 0x0906 (1 + 256 + 4096 * 2 ^ 16) 7 7 0 0 0 with jobId := 0xFFFF }
       let q := { p with p0 := 1 + 256 + 2 ^ 60 }
       dispatches p rdy = true ∧ bf p.p0 28 16 = 4096 ∧ p.p0.getLsbD 60 = false ∧ dispatches q rdy = true
       ∧ q.p0.getLsbD 60 = true ∧ rdy.groupLocked 3 = false
       ∧ ({ rdy with boot := { rdy.boot with lock := 8 } }.groupLocked 3) = true
       ∧ dispatches { p with p0 := 2 } (jobs1 3) = true ∧ (jobs1 3).sched.stepMode = false) := by decide +kernel

/-- Job 5 switching in; `two` is a second job SUSPENDED with a context host area. -/
def switching : State :=
  { jobs1 1 with sched := { stepMode := false, switching := true, incoming := some 5 } }

@[inherit_doc switching] def evicting : State :=
  let p := { pk 0x0903 (2 ^ 16) 0 0 0 0 0 with seq := 3 }
  { rdy with jobs := [{ job5 with state := 5, ctxHost := 0x400000 }], opens := [{ pkt := p, prog := .jobPreempt 5 true }] }

/-- STEP mode under a holder; jobs 5 and 6 have commands (`k` 5), only job 5 (`k` 7), or none (`k` 9). -/
def turning (h : Option Nat) (k : Nat) : State :=
  let l (b : Bool) : List Packet := if b then [pk 0x0102 0 8 0 0 0 0] else []
  { rdy with sched := { holder := h, turns := [5, 6], stepMode := true }
             jobs := [{ job5 with cmdList := l (k != 9), state := if h = some 5 then 3 else 2 },
                      { job5 with id := 6, state := 2, cmdList := l (k == 5) }] }

theorem witness_SwitchEvents :
    rdy.sched.switching = false
    ∧ (let s1 := switchOut 7 switching
       s1.sched.incoming = some 5 ∧ (s1.job? 5).isSome = true ∧ (switchIn 5 7 s1).isSome = true
       ∧ ((switchIn 5 7 s1).bind fun s => (s.job? 5).map (·.cmdList)) = some [])
    ∧ (let s := { jobs1 0 with sched := { stepMode := false, switching := true, queue := [5] } }
       s.sched.switching = true ∧ (switchOut 7 s).sched.incoming = none)
    ∧ (rdy.opens = [] ∧ (evicting.opens.filter fun o => o.prog == .jobPreempt 5 true).length = 1
       ∧ (evicting.job? 5).map (fun j => (j.state, j.evicted, j.ctxHost)) = some (5, false, 0x400000))
    ∧ (turning none 5).nextTurn = some 5 ∧ (turning (some 5) 5).nextTurn = some 6 ∧ (turning (some 5) 7).nextTurn = some 5
    ∧ (turning none 9).nextTurn = none
    ∧ (∀ h ∈ [none, some 5], let s := turning h 5
       s.sched.stepMode = true ∧ s.sched.switching = false ∧ s.sched.stepSwitch = false ∧ s.midTurn = false
       ∧ s.sched.toJobMode = false)
    ∧ (let p := { pk 0x0102 0x200000 16 0xAB 0 0 0 with flags := 2 }
       let s := rdy.updSq 0 0 fun u => { u with waiting := [p] }
       ((s.vi 0).sq 0).waiting = [p] ∧ p.barrier = true ∧ earlierOpen p s = false ∧ fenceHolds p s = false
       ∧ earlierOpen p { s with opens := [op 3 .attn] } = true) := by decide +kernel

theorem witness_AbortCommandsComplete :
    (let p := pk 0x0905 1 3 0 0 0 0
     dispatches p rdy = true ∧ rdy.heldOf 5 = [] ∧ rdy.opens = [])
    ∧ (let p := pk 0x0905 1 3 0 0 0 0
       let q := { pk 0x0102 0 8 0 0 0 0 with seq := 3 }
       let s := { rdy with jobs := [{ job5 with state := 2, cmdList := [q] }] }
       dispatches p s = true ∧ ((taken p s).heldOf 5).find? (fun x => x.vi == 0 && x.sq == 0 && x.seq.toNat == 3
         && x.jobId == p.jobId && x.key != p.key) = some q)
    ∧ (let p := pk 0x0905 1 3 0 0 0 0
       let s := { rdy with opens := [op 3 .attn] }
       dispatches p s = true ∧ (taken p s).opens.find? (fun o => o.pkt.seq.toNat == 3 && o.pkt.key != p.key) = some (op 3 .attn)
       ∧ (((taken p s).openCmd p (.abort [(op 3 .attn).pkt.key] 0)).open? (op 3 .attn).pkt.key).isSome = true)
    ∧ (dispatches (pk 0x0905 2 0 0 0 0 0) { rdy with opens := [op 3 .attn] } = true) := by
  decide +kernel

/-- Die 0 of `dies1` with a 17th core free on standby, and its rotation on. -/
def testing (t : BitVec 5) : State :=
  { dies1 with dies := [(0, { role := 1, standbyFree := true, rotate := true, testing := t })] }

theorem witness_SelftestCommands :
    (let p := { pk 0x0A01 (1 + 3 * 2 ^ 8) 0 0 0 0 0 with jobId := 0xFFFF }
     dispatches p dies1 = true ∧ bf p.p0 20 16 < 18 ∧ (dies1.die 0).role = 1 ∧ dies1.role 0 3 ≤ 1
     ∧ (dies1.die 0).coreTest = none ∧ (dies1.die 0).coreTestWaits = none ∧ p.p1 = 0)
    ∧ (let p := { pk 0x0A01 (1 + 17 * 2 ^ 16) 5 0 0 0 0 with jobId := 0xFFFF }
       dispatches p dies1 = true ∧ (dies1.die 17).role ≠ 1 ∧ p.p1 ≠ 0 ∧ schedRefusal p.p1.toNat (taken p dies1) = none)
    ∧ ((dies1.updDie 0 fun x => { x with coreTest := some ((op 3 .attn).pkt.key, 4) }).die 0).coreTest
        = some ((op 3 .attn).pkt.key, 4)
    ∧ (let p := { pk 0x0A01 2 0 1000000 0 0 0 with jobId := 0xFFFF }
       dispatches p dies1 = true ∧ bf p.p2 31 0 = 1000000)
    ∧ (let s := testing 0x1F
       (s.die 0).rotate = true ∧ (s.die 0).paused = false ∧ s.ftu.count.toNat % s.slotFrets = 0 ∧ s.ready = true
       ∧ s.inSlot 0 = false ∧ s.rotationCore 0 = some 0 ∧ 0 ≠ (s.die 0).standby ∧ (dies1.die 0).rotate = false)
    ∧ (dispatches { pk 0x0A01 3 0 0 0 0 0 with jobId := 0xFFFF } dies1 = true
       ∧ dispatches { pk 0x0A01 (4 + 2 ^ 24) 0 0 0 0 0 with jobId := 0xFFFF } dies1 = true
       ∧ bf ({ pk 0x0A01 2 0 0 0 0 0 with jobId := 0xFFFF } : Packet).p2 31 0 = 0)
    ∧ ((testing 0x1F).inSlot 0 = false
       ∧ (let s := testing 3
          s.inSlot 0 = true ∧ s.standsForGood 0 = false ∧ (s.die 0).testing ≠ 0x1F ∧ (s.die 0).standFor = 0x1F
          ∧ 3 ≠ (s.die 0).standby ∧ (s.die 0).coreTest = none)
       ∧ (let s := (testing 3).updDie 0 fun x => { x with standFor := 3 }
          s.inSlot 0 = true ∧ s.standsForGood 0 = false ∧ (s.die 0).standFor ≠ 0x1F)
       ∧ (let s := (testing 0x1F).updDie 0 fun x => { x with standFor := 3 }
          s.inSlot 0 = true ∧ s.standsForGood 0 = false ∧ (s.die 0).testing = 0x1F))
    ∧ (let s (n : Nat) := dies1.updCore 0 16 fun k => { k with inSlice := true, slices := n }
       ((s 998).core 0 16).slices < 999 ∧ ((s 999).core 0 16).slices = 999 ∧ ((s 999).core 0 16).inSlice = true
       ∧ (dies1.core 0 16).inSlice = false) := by decide +kernel

theorem witness_FaultEventsCount :
    ([3, 8, 10, 11, 12, 14, 15, 20].contains (unitKind 0) = false ∧ rdy.boot.resetDecided = false
     ∧ ({ rdy with boot := { resetDecided := true } }.boot.resetDecided) = true)
    ∧ (let f : FaultUnit := { cfg := some (3, 100, 0x3F, 0, 0) }
       0 + 2 < (unitCfg 0 f).1 ∧ (unitCfg 0 f).2.2.2.1 = 0 ∧ (unitCfg 0 f).1 ≤ 0 + 3)
    ∧ (0x40000000 : Word).getLsbD 30 = true
    ∧ ((rdy.updFault 2099 fun f => { f with left := 2 }).fault 2099).left ≠ 0
    ∧ (prod2.watched 0 0 1 = true ∧ rdy.watched 0 0 1 = false ∧ isCore 17 16 = true) := by decide +kernel

theorem witness_FaultRegistersAndPolicy :
    (let p := { pk 0x0F06 1 (2099 + 1 * 2 ^ 16) (1 * 2 ^ 24) 0 0 0 with jobId := 0xFFFF }
     dispatches p rdy = true ∧ bf p.p1 15 0 + bf p.p1 31 16 ≤ 2100 ∧ bf p.p1 31 16 ≠ 0 ∧ p.p0.getLsbD 60 = false
     ∧ bf p.p2 31 24 ≠ 0)
    ∧ (let p := { pk 0x0F06 2 (2099 + 2 * 2 ^ 16) 0 0 0 0 with jobId := 0xFFFF }
       dispatches p rdy = true ∧ 2100 < bf p.p1 15 0 + bf p.p1 31 16)
    ∧ (let p := { pk 0x0F06 2 (2098 + 2 * 2 ^ 16) 0 0 0 0 with jobId := 0xFFFF }
       let q := { p with p0 := 2 + 2 ^ 60 }
       dispatches p rdy = true ∧ dispatches { p with p1 := 2098 } rdy = true ∧ bf (2098 : Dword) 31 16 = 0
       ∧ dispatches q rdy = true ∧ q.p0.getLsbD 60 = true ∧ rdy.groupLocked 2 = false
       ∧ dispatches q { rdy with boot := { rdy.boot with lock := 4 } } = true
       ∧ { rdy with boot := { rdy.boot with lock := 4 } }.groupLocked 2 = true)
    ∧ rdy.boot.evQueue = []
    ∧ (let e : EvRec := { code := 1, source := 0, cycles := 0, hours := 0, seconds := 0, p0 := 0, p1 := 0, p2 := 0 }
       let b (full : Bool) (n : Nat) : Boot := { evQueue := [e], evFull := full, evNext := n }
       (b true 0).evQueue = [e] ∧ (b false 65534).evNext < 65535 ∧ (b false 0).evLostNew = 0 ∧ 65535 ≤ (b false 65535).evNext) := by
  decide +kernel

theorem witness_BlockResets :
    (blockOk (.core 17 16) = true ∧ blockOk (.mover 17 1) = true ∧ blockOk (.hubEngine 7 1) = true ∧ blockOk (.stackCtl 31) = true
     ∧ blockOk (.weir 1) = true ∧ blockOk (.sampler 17) = true ∧ blockOk (.tributary 17) = true)
    ∧ rdy.blkRst = []
    ∧ (let r : BlockRst := { block := .core 17 16, phase := 1 }
       { rdy with blkRst := [r] }.blkRst = [{ block := .core 17 16, phase := 1 }] ∧ rdy.tiles = []
       ∧ rdy.movesOf 2 = [] ∧ rdy.fab.slots = [])
    ∧ (let s := testing 3
       (s.die 0).testing.toNat = 3 ∧ (s.die 0).standby = 16 ∧ (dies1.die 0).testing = 0x1F)
    ∧ (let s := (testing 0x1F).updDie 0 fun x => { x with standFor := 3 }
       let r := { s with blkRst := [{ block := .core 0 16, phase := 2 }] }
       (r.die 0).standby = 16 ∧ (r.die 0).testing = 0x1F ∧ r.standsForGood 0 = false) := by decide +kernel

/-! ## Witnesses: power, boot and buses -/

theorem witness_PowerEvents :
    (rdy.power.railsOn = true
     ∧ (let w : Power := { railsOn := false }
        w.railsOn = false ∧ w.tripped = false) ∧ max 43999 0 < 44000 ∧ 44000 ≤ max 0 44000)
    ∧ ((39999 : Nat) < 40000 ∧ (57000 : Nat) < 57001 ∧ (40000 ≤ 43999 ∧ 43999 < 44000) ∧ (56000 < 57000 ∧ 57000 ≤ 57000)
       ∧ rdy.power.oneFeed = false)
    ∧ (50 * rdy.power.cap < 8001 ∧ 8000 ≤ 50 * rdy.power.cap ∧ 50 * rdy.power.cap < 8000 + 200)
    ∧ (hot 0 (105 * 16) = true ∧ hot 0 (105 * 16 - 1) = false ∧ rdy.power.wasHot 0 = false ∧ hot 60 (45 * 16) = true
       ∧ rdy.power.throttling = false ∧ (limits 0).2.2 = some 115 ∧ 115 * 16 ≤ degrees (115 * 16) ∧ degrees (115 * 16 - 1) < 115 * 16)
    ∧ (let l : List (Nat × Half) := [(0, 101 * 16), (60, 44 * 16)]
       (∀ e ∈ l, e.1 < 63) ∧ (setTemps l rdy.power).wasHot 60 = false ∧ (setTemps l rdy.power).hotSensors = [])
    ∧ (let l : List (Nat × Half) := [(0, 0), (28, 95 * 16), (3, 106 * 16)]
       let w : Power := { rdy.power with throttling := true, temps := [(3, 105 * 16)] }
       (∀ e ∈ l, e.1 < 63) ∧ (setTemps l w).wasHot 60 = false ∧ (setTemps l w).hotSensors = [3, 28]
       ∧ (setTemps l rdy.power).hotSensors = [28, 3]) := by decide +kernel

theorem witness_ResetAndBootStart :
    (let b : Boot := { resetDecided := true, resetDue := true, trial := true, stage := 8 }
     b.resetDecided = true ∧ b.resetDue = true ∧ b.trial = true ∧ b.stage ≠ 0 ∧ b.state ≠ 4)
    ∧ ({ perst := true } : Power).perst = true
    ∧ (State.reset.boot.stage = 0 ∧ State.reset.power.good = true ∧ State.reset.power.railsOn = true)
    ∧ rdy.boot.stage ≠ 0 ∧ rdy.boot.resetDue = false ∧ rdy.boot.trial = false := by decide +kernel

/-- A stage report in which nothing failed. -/
def report : StageReport :=
  { xd0Ok := true, xd1Ok := true, xd0Result := 0, identity := 0, slotA := 0, slotB := 0, ownerOk := true, badSeals := [], hintsBad := false
    goodCores := [], badColumns := [], coreWords := [], badStacks := [], repairs := [], retired := [], ports := []
    badCounters := [], ms := 20000 }

/-- All 18 dies with 17 good cores, and stack 0 in service, at the end of stage 7. -/
def allGood : State :=
  { State.reset with boot := { State.reset.boot with stage := 7 }
                     cores := (List.range 306).map fun i => (i, { good := true }), stks := [(0, { state := 1 })] }

theorem witness_BootStages :
    (report.badCounters = [] ∧ report.xd0Ok = true ∧ report.identity = 0 ∧ report.slotA = 0 ∧ report.slotB = 0)
    ∧ ({ report with xd0Ok := false, xd1Ok := false }.xd1Ok = false)
    ∧ (State.reset.flash.trial = 0 ∧ State.reset.flash.preferredB = false
       ∧ State.reset.flash.fwSvn.toNat ≤ State.reset.flash.slotA.svn.toNat
       ∧ State.reset.flash.fwSvn.toNat ≤ State.reset.flash.slotB.svn.toNat)
    ∧ (State.reset.flash.owner = none ∧ State.reset.flash.journal = [])
    ∧ (let r := { report with goodCores := List.replicate 18 0x1FFFE, badStacks := [(1, 1)] }
       16 ≤ goodCount r 17 ∧ coreGood r 17 1 = true ∧ (r.badStacks.any fun e => e.1 == 1) = true
       ∧ (r.badStacks.any fun e => e.1 == 31) = false)
    ∧ (∀ d, d < 18 → State.reset.dieGood d = false) ∧ (9 ≤ rdy.boot.stage)
    ∧ (∀ d, d < 18 → allGood.dieGood d = true) ∧ allGood.inService 0 = true := by decide +kernel

/-- A well-formed owner image with no settings (Table 17.7). -/
def ownerImg : List Byte := leBytes 4 0x47464E4F ++ List.replicate 384 0

theorem witness_FirmwareCommandsComplete :
    (let p := { pk 0x0F03 1 0 0 0 0 0 with jobId := 0xFFFF }
     let s (t bad : Nat) := { rdy with flash := { rdy.flash with trial := t, slotB := { version := 1, svn := 3, bad := bad } } }
     dispatches p (s 0 0) = true ∧ dispatches p (s 2 3) = true ∧ (s 0 0).slotValid (!rdy.boot.slotB) = true
     ∧ (s 2 3).slotValid (!rdy.boot.slotB) = false ∧ (s 0 0).flash.trial ≠ 2 ∧ (s 2 3).flash.trial = 2)
    ∧ (let p := { pk 0x0F02 0 0x200000 512 0 0 0 with jobId := 0xFFFF }
       dispatches p rdy = true ∧ rdy.flash.trial = 0 ∧ (vread 0 rdy 0x200000 512).isOk = true
       ∧ dispatches p { rdy with flash := { rdy.flash with trial := 2 } } = true)
    ∧ (let p := { pk 0x0F01 65535 0x200000 4 0 0 0 with jobId := 0xFFFF }
       dispatches p rdy = true ∧ bf p.p0 31 0 = 65535 ∧ rdy.flash.events = [] ∧ rdy.firstUnmapped 0 0x200000 0 = none
       ∧ dispatches { p with p0 := 65536 } rdy = true ∧ 65535 < bf (65536 : Dword) 31 0
       ∧ rdy.firstUnmapped 0 0x200000 64 = none)
    ∧ (rdy.boot.state ≠ 1 ∧ ({ state := 1 } : Boot).state = 1) := by decide +kernel

theorem witness_ConfigurationCommandsComplete :
    (let p := { pk 0x0F08 1 0x200000 388 0 0 0 with jobId := 0xFFFF }
     let s := withBytes ownerImg
     dispatches p s = true ∧ vread 0 (taken p s) 0x200000 388 = .ok ownerImg
     ∧ (match parseOwner ownerImg with | .ok l => l.isEmpty | .error _ => false) = true
     ∧ (match parseOwner (List.replicate 388 0) with | .ok _ => false | .error i => i == 0) = true)
    ∧ (([2, 3, 4].all fun a => dispatches { pk 0x0F08 a 0x200000 16 0 0 0 with jobId := 0xFFFF } rdy) = true
       ∧ ([1, 2].all fun a => dispatches { pk 0x0F07 a 50 0 0 0 0 with jobId := 0xFFFF } rdy) = true ∧ rdy.firstUnmapped 0 0x200000 16 = none)
    ∧ (rdy.groupLocked 4 = false ∧ ({ rdy with boot := { rdy.boot with lock := 16 } }.groupLocked 4) = true)
    ∧ (bf (49 : Dword) 7 0 < 50 ∧ 160 < bf (161 : Dword) 7 0 ∧ bf (50 : Dword) 7 0 = 50 ∧ bf (160 : Dword) 7 0 = 160) := by
  decide +kernel

theorem witness_HostAndManagementBuses :
    viOk 4096 = true ∧ rdy.boot.stage ≠ 0 ∧ rdy.viOn 0 = true ∧ rdy.viOn 4096 = false ∧ State.reset.boot.stage = 0
    ∧ ({ rdy with boot := { rdy.boot with vfEn := true, numVfs := 2 } } : State).viOn 2 = true ∧ rdy.boot.vfEn = false ∧ rdy.boot.identity = false ∧ ({ identity := true } : Boot).identity = true
    ∧ spdmCodes.contains 0x84 = true ∧ spdmCodes.contains 1 = false
    ∧ spdmCodes.contains 0x82 = true ∧ rdy.power.railsOn = true ∧ ({ railsOn := false } : Power).railsOn = false
    ∧ rdy.tap.next true ≠ .shiftDr ∧ rdy.tap.next true ≠ .shiftIr
    ∧ Tap.captureDr.next false = .shiftDr ∧ Tap.captureIr.next false = .shiftIr := by decide +kernel

/-! ## Single steps with results worked out by hand -/

/-- The fret counter counts a boundary, and FRET_LO latches the high half (R85, R20). -/
theorem test_fret_counts : ∃ t, exec (.fretBoundary none) { rdy with ftu := { count := 0x1FFFFFFFF } } = .next t
    ∧ t.ftu.count = 0x200000000 := ⟨_, rfl, by decide +kernel⟩

/-- A register read of VI_FRET_LO (R47). -/
theorem test_fret_latch : ∃ t, exec (.latchingRead 0 0x0010) { rdy with ftu := { count := 0x500000007 } } = .next t
    ∧ t.busRead = 7 ∧ (t.vi 0).fretHi = 5 := ⟨_, rfl, by decide +kernel⟩

/-- FETCH_ADD wraps at 2^64 and answers the former word (R540). -/
theorem test_fetch_add :
    (let s := { withBytes (List.replicate 8 0xFF) with jobs := [{ job5 with domain := 7 }] }
     let r := doReq 5 7 (.atomic 1 0x200000 3 0 0) s
     r.2 = .ok (List.replicate 8 0xFF) ∧ r.1.devMem.readN 0 8 = [2, 0, 0, 0, 0, 0, 0, 0]) := by decide +kernel

/-- Sensor 0 at 105 °C lowers the thermal step from 32 to 31 and counts an entry (R754, Table 18.13). -/
theorem test_throttle : ∃ t, exec (.thermalThrottle 0 (105 * 16)) rdy = .next t
    ∧ t.power.thermalStep = 31 ∧ t.power.thrThermal = 1 := ⟨_, rfl, by decide +kernel⟩

/-- CD3 still at 105 °C a millisecond on: step 16 falls to 15 (Table 18.14). -/
theorem test_thermal_again : ∃ t, exec (.thermalStepTimer [(3, 105 * 16)])
      { rdy with power := { rdy.power with thermalStep := 16, throttling := true, temps := [(3, 105 * 16)] } } = .next t
    ∧ t.power.thermalStep = 15 := ⟨_, rfl, by decide +kernel⟩

/-- A spare at work stands for the failed port (R520). -/
theorem test_failover : ∃ t, exec (.spareFailover 3 18 true)
      { rdy with fab := { ports := [(3, { state := 3, peer := 9 }), (18, { spare := true, state := 2, peer := 9 })] } } = .next t
    ∧ (t.port 18).state = 4 ∧ (t.port 18).standsFor = 3 := ⟨_, rfl, by decide +kernel⟩

/-- An unknown pool refuses KV_FORK with POOL_UNKNOWN, 0x0401, and RESULT0 the pool (Table 2.16). -/
theorem test_pool_unknown : ∃ t, exec (.kvFork (pk 0x0403 (3 * 2 ^ 48) 0 0 0 0 0)) rdy = .next t
    ∧ t.hostMem.readN 0x4008 12 = [0x03, 0x04, 0xFF, 1, 0x01, 0x04, 0, 0, 3, 0, 0, 0] := ⟨_, rfl, by decide +kernel⟩


/-! ## The named algorithms -/

/-- FIPS 180-4, the digest of "abc". -/
theorem test_sha512_abc : (sha512 [0x61, 0x62, 0x63]).take 8 = [0xDD, 0xAF, 0x35, 0xA1, 0x93, 0x61, 0x7A, 0xBA] := by
  decide +kernel

/-- A signature that OpenSSL made over the digest of "hello bustivor" verifies. -/
theorem test_ecdsa :
    let key := beOctets 133 0x4009c654c988bc5502378977a30a405d732bca417238bc761a36d4b9603eeaab5c313f20603d1ac691ecaae30a210f785b95cd45b1007419ca4d8d7aff42c74f85521006bf2e93f9207961577e4d35127a513f08b5509544767317ad0d3273b4810f80ace9ea103a16ae089e7cf2a9acfc790c8b2565a8c200433c0006acd4b86c233fa9c
    let sig := beOctets 66 0x118ed214273c5f2590a3e85016101dbe04ed43cd041fff66ce380bfead25c405cfbccbb00dcc5947efe6abee47d50f75eca8185af425bb2c5fcd2c689b00b926a9a ++
      beOctets 66 0x60945f085ca5348313b2d3055fc655d1cb009cbf86013182c4951b394ea18bee071f85ac548d4236128fd25f98f55040ca20fcf9f36e4104024d95202ab0624f08
    ecdsaOk (sha512 ("hello bustivor".toUTF8.toList.map fun c => BitVec.ofNat 8 c.toNat)) sig key = true := by decide +kernel

end Sys2Proof.Tests
end

section
/-! PROOFS. Register reads, chip and block resets: a lemma for each operation of the model, then the statements that rest on
them. -/

namespace Sys2Proof.Machine

open Sys2Proof

/-- An event at a unit that the module has takes place. -/
theorem event_of_ok {ok : Bool} (h : ok = true) (t : State) : event ok t = .next t := by
  rw [h, event_true]

/-! ## Registers at reset (Tables 2.2 and 3.4) -/

@[simp] theorem reset_vi (n : Nat) : State.reset.vi n = {} := rfl
@[simp] theorem reset_fault (u : Nat) : State.reset.fault u = {} := rfl

/-- No VI is READY before a boot has made the module READY. -/
@[simp] theorem reset_viReady (n : Nat) : State.reset.viReady n = false := rfl

/-- Settles O59: an unlisted VI or fault unit is the record of default fields. -/
theorem registersAtReset : Obligations.RegistersAtReset := by
  unfold Obligations.RegistersAtReset
  refine ⟨fun vi q => ?_, rfl, fun u => ?_, rfl, rfl, rfl, rfl, rfl⟩
  · rw [reset_viReady, reset_vi]
    exact ⟨rfl, rfl, rfl, rfl, rfl, rfl, rfl, rfl, rfl, rfl⟩
  · rw [reset_fault]
    exact ⟨rfl, rfl, rfl⟩

/-! ## Reads of registers (R20, R47) -/

/-- A read through a VI that is on puts the value on the bus, in the state after the read's side effect. -/
theorem busRead_of_on {vi : Nat} {s : State} (off : Nat) (h : s.viOn vi = true) :
    busRead vi off s = { (readReg vi off s).2 with busRead := BitVec.ofNat 32 (readReg vi off s).1 } :=
  if_pos h

/-- A VI that is off answers nothing. -/
theorem busRead_of_off {vi : Nat} {s : State} (off : Nat) (h : s.viOn vi = false) : busRead vi off s = s :=
  if_neg (by simp [h])

theorem exec_latchingRead {vi : Nat} (hv : viOk vi = true) (off : Nat) (s : State) :
    exec (.latchingRead vi off) s = .next (busRead vi off s) := event_of_ok hv _

theorem exec_rcRead {vi : Nat} (hv : viOk vi = true) (off : Nat) (s : State) :
    exec (.rcRead vi off) s = .next (busRead vi off s) := event_of_ok hv _

/-- Below 0x10000 lies the register page of the VI (R46). -/
theorem readReg_of_page (vi : Nat) {off : Nat} (s : State) (h : off < 0x10000) : readReg vi off s = readVi vi off s :=
  if_pos h

/-- VI0 alone reaches the management registers (R46). -/
theorem readReg_zero {off : Nat} (s : State) (h : 0x10000 ≤ off) : readReg 0 off s = readMgmt off s := by
  rw [readReg, if_neg (by omega), if_pos rfl]

/-- Behind every other VI the management registers read as 0. -/
theorem readReg_of_ne_zero {vi off : Nat} (s : State) (hv : vi ≠ 0) (h : 0x10000 ≤ off) : readReg vi off s = (0, s) := by
  rw [readReg, if_neg (by omega), if_neg hv]

/-- The block of the fret time unit (Table 3.7). -/
theorem readMgmt_ftu {off : Nat} (s : State) (h : 0x12000 ≤ off) (h' : off < 0x12024) :
    readMgmt off s = readFtu (off - 0x12000) s := by
  simp [readMgmt, h, h']

/-- The memory block (Table 12.15). -/
theorem readMgmt_mem {off : Nat} (s : State) (h : 0x30600 ≤ off) (h' : off < 0x30610) :
    readMgmt off s = readMem (off % 0x10) s := by
  simp only [readMgmt, decide_eq_true_eq]
  iterate 10 rw [if_neg (by omega)]
  rw [if_pos (by omega)]

/-- The job block (Table 15.10). -/
theorem readMgmt_job {off : Nat} (s : State) (h : 0x30800 ≤ off) (h' : off < 0x30820) :
    readMgmt off s = readJob (off % 0x20) s := by
  simp only [readMgmt, decide_eq_true_eq]
  iterate 12 rw [if_neg (by omega)]
  rw [if_pos (by omega)]

/-- Settles O17: each read of VI0's management space is the read of its block, and a read-clear or latching register is one
arm of that block. -/
theorem registerReads : Obligations.RegisterReads := by
  unfold Obligations.RegisterReads
  refine ⟨fun vi off s hv => ⟨fun hon => ?_, fun hoff => ?_⟩, fun vi s => ?_, fun s => ?_, fun s => ?_, fun s => ?_, fun s => ?_,
    fun vi off s hv h => readReg_of_ne_zero s hv h⟩
  · rw [exec_latchingRead hv, exec_rcRead hv, busRead_of_on off hon]
    exact ⟨rfl, rfl⟩
  · rw [exec_latchingRead hv, exec_rcRead hv, busRead_of_off off hoff]
    exact ⟨rfl, rfl⟩
  · rw [readReg_of_page vi s (by decide)]
    rfl
  · rw [readReg_zero s (by decide), readMgmt_ftu s (by decide) (by decide)]
    rfl
  · rw [readReg_zero s (by decide), readMgmt_mem s (by decide) (by decide)]
    rfl
  · rw [readReg_zero s (by decide), readMgmt_job s (by decide) (by decide)]
    rfl
  · rw [readReg_zero s (by decide), readMgmt_job s (by decide) (by decide)]
    rfl

/-! ## Event records before a chip reset (R673, R728) -/

/-- t differs from s at most in what programming event records changes: the records of the flash and their bookkeeping. -/
def ProgramsOnly (s t : State) : Prop :=
  t = { s with
    flash := { s.flash with events := t.flash.events }
    boot := { s.boot with
      evNext := t.boot.evNext, evFull := t.boot.evFull, evLostNew := t.boot.evLostNew, evQueue := t.boot.evQueue } }

theorem ProgramsOnly.refl (s : State) : ProgramsOnly s s := rfl

theorem ProgramsOnly.trans {s t u : State} (h : ProgramsOnly s t) (k : ProgramsOnly t u) : ProgramsOnly s u := by
  unfold ProgramsOnly at h k ⊢
  rw [k, h]

/-- Programming one record. -/
theorem programRecord_programsOnly (s : State) : ProgramsOnly s (programRecord s) := by
  unfold programRecord
  split
  · exact .refl s
  · split <;> rfl

/-- Programming every waiting record. -/
theorem programAll_programsOnly (n : Nat) (s : State) : ProgramsOnly s (programAll n s) := by
  induction n generalizing s with
  | zero => exact .refl s
  | succ n ih =>
    unfold programAll
    split
    · exact .refl s
    · exact (programRecord_programsOnly s).trans (ih _)

/-! ## Chip resets (R673, R713, R717, R745) -/

/-- A chip reset is a fresh module over the flash in which the waiting records stand. -/
theorem chipReset_eq_freshModule (reason : Nat) (s : State) : ∃ s1, ProgramsOnly s s1 ∧
    chipReset reason s = freshModule (powerAfter s.power) (bootAfter reason [resetRec reason s] s1) s1 := by
  refine ⟨_, ?_, rfl⟩
  split
  · exact .refl s
  · exact programAll_programsOnly _ s

/-- The records given wait for the next boot when the flash has room for any (R732). -/
theorem bootAfter_evQueue {reason : Nat} {records : List EvRec} {s : State}
    (h : (bootAfter reason records s).evFull = false) : (bootAfter reason records s).evQueue = records :=
  if_neg (Bool.eq_false_iff.mp h)

/-- The record of a fault reaction names the unit that decided it (Table 17.13). -/
theorem resetRec_one_source (s : State) : (resetRec 1 s).source = BitVec.ofNat 16 s.boot.resetUnit := rfl

theorem chipResetRow_of_due {reason : Nat} {s : State} (h : reason = 1 ∧ s.boot.resetDecided = true ∨
    reason = 2 ∧ s.boot.resetDue = true ∨ reason = 3 ∧ s.power.perst = true) :
    chipResetRow reason s = chipReset reason s :=
  if_pos (by simpa [or_assoc] using h)

theorem chipResetRow_of_not_due {reason : Nat} {s : State} (h : ¬(reason = 1 ∧ s.boot.resetDecided = true ∨
    reason = 2 ∧ s.boot.resetDue = true ∨ reason = 3 ∧ s.power.perst = true)) : chipResetRow reason s = s :=
  if_neg (by simpa [or_assoc] using h)

/-- A trial boot that has not come to READY ends (R713). -/
theorem trialTimeout_of_running {s : State} (ht : s.boot.trial = true) (hs : s.boot.stage ≠ 0) (hr : s.boot.state ≠ 4) :
    trialTimeout s = chipReset 2 { s with boot := { s.boot with timedOut := true } } :=
  if_pos (by simpa [ht, hs] using hr)

theorem trialTimeout_of_not_running {s : State} (h : s.boot.trial = false ∨ s.boot.stage = 0 ∨ s.boot.state = 4) :
    trialTimeout s = s :=
  if_neg (by rcases h with h | h | h <;> simp [h])

/-- A chip reset keeps the mark of a trial that ran out of time, by which the next boot judges it (R712, R713). -/
theorem chipReset_timedOut (reason : Nat) (s : State) : (chipReset reason s).boot.timedOut = s.boot.timedOut := by
  obtain ⟨s1, hs1, hreset⟩ := chipReset_eq_freshModule reason s
  rw [hreset, hs1]
  rfl

/-- Settles O54: a chip reset is a fresh module, and programming the waiting records before it touches event records
alone. -/
theorem resetAndBootStart : Obligations.ResetAndBootStart := by
  unfold Obligations.ResetAndBootStart
  intro fresh
  have hfresh (reason : Nat) (s : State) : fresh reason s (chipReset reason s) := by
    obtain ⟨s1, hs1, hreset⟩ := chipReset_eq_freshModule reason s
    rw [hreset]
    refine ⟨rfl, rfl, rfl, rfl, rfl, rfl, rfl, rfl, rfl, rfl, rfl, rfl, rfl, rfl, ?pending, ?hostMem, rfl, ?flash, ?seconds,
      ?hours, rfl, ?remMem, rfl, rfl, rfl, fun hroom => ⟨_, bootAfter_evQueue hroom, rfl, rfl, ?source⟩⟩
    case source => rintro rfl; exact resetRec_one_source s
    all_goals rw [hs1]; rfl
  refine ⟨fun reason s => ⟨fun hdue => ⟨?_, hfresh reason s⟩, fun hdue => ?_⟩,
    fun s => ⟨fun hdue => ⟨?_, hfresh 2 s⟩, fun hdue => ?_, fun ht hs hr => ⟨?_, hfresh 2 { s with boot := _ }, ?_⟩, fun h => ?_,
      fun hs hg hr => ?_, fun h => ?_⟩⟩
  · exact congrArg _ (chipResetRow_of_due hdue)
  · exact congrArg _ (chipResetRow_of_not_due hdue)
  · exact congrArg _ (if_pos hdue)
  · exact congrArg _ (if_neg (by simp [hdue]))
  · exact congrArg _ (trialTimeout_of_running ht hs hr)
  · exact chipReset_timedOut 2 _
  · exact congrArg _ (trialTimeout_of_not_running h)
  · exact congrArg _ (if_pos ⟨hs, hg, hr⟩)
  · exact congrArg _ (if_neg (by rcases h with h | h | h <;> simp [h]))

/-! ## Block resets (R654 to R656) -/

/-- The block leaves phase 1 for phase 2. -/
def enterPhase2 (b : Block) (t : State) : State :=
  { t with blkRst := t.blkRst.map fun r => if r.block = b then { r with phase := 2 } else r }

section
variable {b : Block} {s : State}

theorem exec_blockReset (hb : blockOk b = true) (s : State) : exec (.blockReset b) s = .next (blockReset b s) :=
  event_of_ok hb _

theorem exec_blockResetDrainEnd (hb : blockOk b = true) (s : State) :
    exec (.blockResetDrainEnd b) s = .next (blockDrainEnd b s) := event_of_ok hb _

theorem exec_blockResetRejoin (hb : blockOk b = true) (s : State) :
    exec (.blockResetRejoin b) s = .next (blockRejoin b s) := event_of_ok hb _

/-- A block in a reset starts no second one (R672). -/
theorem blockReset_of_inReset (h : ∃ r ∈ s.blkRst, r.block = b) : blockReset b s = s :=
  if_pos (by simpa using h)

/-- Phase 1 begins. -/
theorem blockReset_of_ne_core (hb : ∀ d c, b ≠ .core d c) (h : ∀ r ∈ s.blkRst, r.block ≠ b) :
    blockReset b s = { s with blkRst := s.blkRst ++ [{ block := b, phase := 1 }] } := by
  have hany : ¬(s.blkRst.any fun r => r.block == b) = true := by simpa using h
  rw [blockReset, if_neg hany, startBlockReset, if_neg hany]
  cases b with
  | core d c => exact absurd rfl (hb d c)
  | _ => rfl

/-- Phase 1 of a core begins and meets the test of its die (Table 16.12). -/
theorem blockReset_core {d c : Nat} (h : ∀ r ∈ s.blkRst, r.block ≠ .core d c) :
    blockReset (.core d c) s = abortTest d c { s with blkRst := s.blkRst ++ [{ block := .core d c, phase := 1 }] } := by
  have hany : ¬(s.blkRst.any fun r => r.block == .core d c) = true := by simpa using h
  rw [blockReset, if_neg hany, startBlockReset, if_neg hany]

/-- The drain ends for a block in phase 1 alone. -/
theorem blockDrainEnd_of_phase1 (h : s.blkRst = [{ block := b, phase := 1 }]) :
    blockDrainEnd b s = enterPhase2 b (drainReset b s) := if_pos (by simp [h])

theorem blockDrainEnd_of_not_phase1 (h : ∀ r ∈ s.blkRst, r.block = b → r.phase ≠ 1) : blockDrainEnd b s = s :=
  if_neg (by simpa using h)

/-- A block in phase 2 leaves its reset. -/
theorem blockRejoin_of_ne_core (hb : ∀ d c, b ≠ .core d c) (h : s.blkRst = [{ block := b, phase := 2 }]) :
    blockRejoin b s = { s with blkRst := [] } := by
  rw [blockRejoin, if_pos (by simp [h])]
  cases b with
  | core d c => exact absurd rfl (hb d c)
  | _ => simp [h]

/-- A standby that leaves its reset after the slot's end gives the target's work back (Table 16.12). -/
theorem blockRejoin_core {d c : Nat} (h : s.blkRst = [{ block := .core d c, phase := 2 }]) :
    blockRejoin (.core d c) s
      = if c = (s.die d).standby ∧ (s.die d).testing = 0x1F ∧ s.standsForGood d = false
        then handBack d { s with blkRst := [] } else { s with blkRst := [] } := by
  rw [blockRejoin, if_pos (by simp [h])]
  simp [h]

theorem blockRejoin_of_not_phase2 (h : ∀ r ∈ s.blkRst, r.block = b → r.phase ≠ 2) : blockRejoin b s = s :=
  if_neg (by simpa using h)

end

/-! ### The drain of a block that holds no work -/

/-- No tile is in progress on the core. -/
theorem drainReset_core {d c : Nat} {s : State} (h : ∀ t ∈ s.tiles, t.die ≠ d ∨ t.core ≠ c ∨ t.issued = false) :
    drainReset (.core d c) s = s.updCore d c resetCore := by
  have hnone : (s.tiles.filter fun t => t.die == d && t.core == c && t.issued) = [] := by
    simpa [List.filter_eq_nil_iff, or_iff_not_imp_left] using h
  simp [drainReset, resetTiles, hnone]

/-- Engine 1 of a hub, the copy-and-parity engine, has no registers that a reset clears. -/
theorem drainReset_hubEngine_of_ne_zero {h k : Nat} (s : State) (hk : k ≠ 0) : drainReset (.hubEngine h k) s = s :=
  if_neg hk

/-- The migration engine moves no page. -/
theorem drainReset_hubEngine_zero {h : Nat} {s : State} (hm : s.movesOf h = []) :
    drainReset (.hubEngine h 0) s = motionEnds (s.updHub h fun x => { x with mig := 0, ahead := 0 }) := by
  simp [drainReset, hm]

/-- No slot of the half holds a sum. -/
theorem resetPool_of_empty {h : Nat} {s : State} (he : ∀ t ∈ s.fab.slots, t.half = h → t.from_ = []) :
    resetPool h s = pumpAll s := by
  have hnone : (s.fab.slots.filter fun t => t.half == h && !t.from_.isEmpty) = [] := by
    simpa [List.filter_eq_nil_iff] using he
  simp [resetPool, hnone]

/-- Settles O52: each phase by the lemma of its row, each block by the lemma of its drain. -/
theorem blockResets : Obligations.BlockResets := by
  unfold Obligations.BlockResets
  intro b s hb
  rw [exec_blockReset hb, exec_blockResetDrainEnd hb, exec_blockResetRejoin hb]
  refine ⟨fun hin => congrArg _ (blockReset_of_inReset hin), fun hout => ?start, fun h1 => ?drain, fun h2 => ?rejoin⟩
  case start =>
    rw [blockDrainEnd_of_not_phase1 fun r hr hrb => absurd hrb (hout r hr),
      blockRejoin_of_not_phase2 fun r hr hrb => absurd hrb (hout r hr)]
    refine ⟨fun hcore => congrArg _ (blockReset_of_ne_core hcore hout), fun d c hcore => ?_, rfl, rfl⟩
    subst hcore
    exact congrArg _ (blockReset_core hout)
  case drain =>
    rw [blockRejoin_of_not_phase2 (by simp [h1]), blockDrainEnd_of_phase1 h1]
    refine ⟨rfl, fun k hk => ?_, fun d k hk => ?_, fun d hk => ?_, fun d hk => ?_, fun h k hk hne => ?_, fun h hk hm => ?_,
      fun h hk he => ?_, fun d c hk ht => ?_⟩ <;> subst hk
    · rfl
    · rfl
    · rfl
    · rfl
    · rw [drainReset_hubEngine_of_ne_zero s hne]
      rfl
    · rw [drainReset_hubEngine_zero hm]
      rfl
    · rw [drainReset, resetPool_of_empty he]
      rfl
    · rw [drainReset_core ht]
      rfl
  case rejoin =>
    rw [blockDrainEnd_of_not_phase1 (by simp [h2])]
    refine ⟨rfl, fun hcore => congrArg _ (blockRejoin_of_ne_core hcore h2), fun d c hcore => ?_⟩
    subst hcore
    exact congrArg _ (blockRejoin_core h2)

end Sys2Proof.Machine
end

section
/-! PROOFS. The boot stages: what each operation that a stage uses leaves alone, then a lemma for each stage. -/

namespace Sys2Proof.Machine

open Sys2Proof

/-! ## What the steps of stages 6 and 7 keep -/

/-- A core that is good in s is good in t, and the boot stands at the same stage and in the same state. -/
structure KeepsGood (s t : State) : Prop where
  good : ∀ d c, (s.core d c).good = true → (t.core d c).good = true
  stage : t.boot.stage = s.boot.stage
  state : t.boot.state = s.boot.state

/-- t keeps what the tests of stage 6 have found in s: the good cores, and every register of the stacks. -/
structure KeepsTests (s t : State) : Prop extends KeepsGood s t where
  stks : t.stks = s.stks

theorem KeepsGood.trans {s t u : State} (h : KeepsGood s t) (k : KeepsGood t u) : KeepsGood s u :=
  ⟨fun d c hg => k.good d c (h.good d c hg), k.stage.trans h.stage, k.state.trans h.state⟩

theorem KeepsGood.foldl {α : Type} {f : State → α → State} (hf : ∀ s a, KeepsGood s (f s a)) (l : List α) (s : State) :
    KeepsGood s (l.foldl f s) :=
  List.foldlRecOn l f ⟨fun _ _ hg => hg, rfl, rfl⟩ fun t ht a _ => ht.trans (hf t a)

/-- Cores, stacks, stage and state are those of s. -/
theorem KeepsTests.of_eq {s t : State} (hc : t.cores = s.cores) (hk : t.stks = s.stks) (hg : t.boot.stage = s.boot.stage)
    (hs : t.boot.state = s.boot.state) : KeepsTests s t :=
  ⟨⟨fun d c h => by rwa [State.core, hc], hg, hs⟩, hk⟩

theorem KeepsTests.refl (s : State) : KeepsTests s s := .of_eq rfl rfl rfl rfl

theorem KeepsTests.trans {s t u : State} (h : KeepsTests s t) (k : KeepsTests t u) : KeepsTests s u :=
  ⟨h.toKeepsGood.trans k.toKeepsGood, k.stks.trans h.stks⟩

theorem KeepsTests.ite {s t u : State} {p : Prop} [Decidable p] (h : KeepsTests s t) (k : KeepsTests s u) :
    KeepsTests s (if p then t else u) := by
  split
  · exact h
  · exact k

theorem KeepsTests.foldl {α : Type} {f : State → α → State} (hf : ∀ s a, KeepsTests s (f s a)) (l : List α) (s : State) :
    KeepsTests s (l.foldl f s) :=
  List.foldlRecOn l f (.refl s) fun t ht a _ => ht.trans (hf t a)

theorem KeepsTests.stk {s t : State} (h : KeepsTests s t) (k : Nat) : t.stk k = s.stk k := by
  rw [State.stk, h.stks, State.stk]

/-- What one element of a list establishes and the others keep holds after a fold over the list. -/
theorem foldl_of_mem {α : Type} {P : State → Prop} {f : State → α → State} {l : List α} {a : α} (ha : a ∈ l)
    (hset : ∀ s, P (f s a)) (hkeep : ∀ s b, P s → P (f s b)) (s : State) : P (l.foldl f s) := by
  obtain ⟨l₁, l₂, rfl⟩ := List.append_of_mem ha
  rw [List.foldl_append, List.foldl_cons]
  exact List.foldlRecOn l₂ f (hset _) fun t ht b _ => hkeep t b ht

/-! ## Shared operations -/

theorem RecordsOnly.keepsTests {s t : State} (h : RecordsOnly s t) : KeepsTests s t :=
  .of_eq h.cores h.stks (by rw [h.boot]) (by rw [h.boot])

theorem evrec_keepsTests (code source a b c : Nat) (s : State) : KeepsTests s (evrec code source a b c s) := by
  rw [evrec_eq]
  exact .of_eq rfl rfl rfl rfl

theorem newHint_keepsTests (kind loc detail : Nat) (s : State) : KeepsTests s (newHint kind loc detail s) :=
  .ite (.refl s) (.of_eq rfl rfl rfl rfl)

/-- A change of a core that loses no good one. -/
theorem updCore_keepsTests (s : State) (d c : Nat) {f : Core → Core} (hf : ∀ k, k.good = true → (f k).good = true) :
    KeepsTests s (s.updCore d c f) := by
  refine ⟨⟨fun d' c' hg => ?_, rfl, rfl⟩, rfl⟩
  by_cases hix : coreIx d' c' = coreIx d c
  · have hsame (t : State) : t.core d' c' = t.core d c := by rw [State.core, hix, State.core]
    rw [hsame] at hg ⊢
    rw [State.updCore_core_same]
    exact hf _ hg
  · rwa [State.updCore_core_of_ne s f hix]

theorem updDie_keepsTests (s : State) (d : Nat) (f : Die → Die) : KeepsTests s (s.updDie d f) := .of_eq rfl rfl rfl rfl

theorem updPort_keepsTests (s : State) (p : Nat) (f : Port → Port) : KeepsTests s (s.updPort p f) :=
  .of_eq rfl rfl rfl rfl

/-! ## Fault events of stacks -/

theorem notice_keepsTests (u applied info vec : Nat) (severe : Bool) (s : State) :
    KeepsTests s (notice u applied info vec severe s) := by
  unfold notice
  refine .ite (.refl s) (.ite (.of_eq rfl rfl rfl rfl) ?_)
  extract_lets b last
  refine .trans ?_ (raiseVec_recordsOnly _ _ _).keepsTests
  exact .of_eq rfl rfl rfl rfl

/-- From unit 1950 on, the reactions act on a stack controller, on a weir or on no block (Table 16.5). -/
theorem unitTarget_of_ge {u info : Nat} {b : Block} (hu : 1950 ≤ u) (hb : unitTarget u info = some b) :
    (∃ k, b = .stackCtl k) ∨ ∃ h, b = .weir h := by
  unfold unitTarget at hb
  rw [if_neg (by omega), if_neg (by omega), if_neg (by omega)] at hb
  grind

theorem withdraw_stackCtl (k : Nat) (s : State) : withdraw (.stackCtl k) s = s := rfl

theorem withdraw_weir_keepsTests (h : Nat) (s : State) : KeepsTests s (withdraw (.weir h) s) := .of_eq rfl rfl rfl rfl

theorem startBlockReset_keepsTests (b : Block) (s : State) : KeepsTests s (startBlockReset b s) :=
  .ite (.refl s) (.of_eq rfl rfl rfl rfl)

/-- NMI and BLOCK_RESET of a unit that belongs to no core. -/
theorem withdraw_keepsTests {u info : Nat} {b : Block} (hu : 1950 ≤ u) (hb : unitTarget u info = some b) (s : State) :
    KeepsTests s (withdraw b s) := by
  obtain ⟨k, rfl⟩ | ⟨h, rfl⟩ := unitTarget_of_ge hu hb
  · exact withdraw_stackCtl k s ▸ .refl s
  · exact withdraw_weir_keepsTests h s

theorem applyMask_keepsTests {u : Nat} (hu : 1950 ≤ u) (mask info vec : Nat) (severe : Bool) (s : State) :
    KeepsTests s (applyMask u mask info vec severe s) := by
  unfold applyMask
  extract_lets on s1 s2 s3 s4 _ s5 s6
  have h1 : KeepsTests s s1 := .ite (notice_keepsTests ..) (.refl _)
  have h2 : KeepsTests s1 s2 := .ite (.of_eq rfl rfl rfl rfl) (.refl _)
  have h3 : KeepsTests s2 s3 := .ite (.of_eq rfl rfl rfl rfl) (.refl _)
  have h4 : KeepsTests s3 s4 := .ite (evrec_keepsTests ..) (.refl _)
  have h5 : KeepsTests s4 s5 := .ite (.of_eq rfl rfl rfl rfl) (.refl _)
  have h6 : KeepsTests s5 s6 := by
    unfold s6
    split
    · exact .refl _
    · next b hb =>
      exact .trans (.ite (withdraw_keepsTests hu hb _) (.refl _)) (.ite (startBlockReset_keepsTests ..) (.refl _))
  exact (((((h1.trans h2).trans h3).trans h4).trans h5).trans h6).trans (.ite (.of_eq rfl rfl rfl rfl) (.refl _))

theorem faultEvent1_keepsTests {u : Nat} (hu : 1950 ≤ u) (info : Nat) (s : State) :
    KeepsTests s (faultEvent1 u info s) := by
  unfold faultEvent1 faultEvents
  refine .ite (.refl s) ?_
  extract_lets f
  obtain ⟨thr, w, sv, mn, vec⟩ := unitCfg u f
  refine .trans ?_ (applyMask_keepsTests hu ..)
  exact .of_eq rfl rfl rfl rfl

/-! ## Stages 1 to 5 -/

/-- The stage in progress, by its number, with nothing found at the counters. -/
def endStage (r : StageReport) (n : Nat) (s : State) : State :=
  match n with
  | 1 => stage1 r s
  | 2 => stage2 r s
  | 3 => stage3 r s
  | 4 => stage4 r s
  | 5 => stage5 s
  | 6 => stage6 r s
  | 7 => stage7 s
  | 8 => stage8 r s
  | _ => s

section
variable {r : StageReport} {s : State}

/-- Outside a boot, and in RECOVERY, READY and FAILED, no stage is in progress. -/
theorem endStage_of_not_booting {n : Nat} (h : n = 0 ∨ 9 ≤ n) : endStage r n s = s := by
  obtain rfl | h := h
  · rfl
  · obtain ⟨m, rfl⟩ := Nat.exists_eq_add_of_le' h
    rfl

/-- Without a failed counter a stage's end is that of the stage alone. -/
theorem exec_bootStageEnd (hr : r.badCounters = []) (s : State) :
    exec (.bootStageEnd r) s = .next (endStage r s.boot.stage s) := by
  have hcounters : counterFaults r s = s := by rw [counterFaults, hr, List.foldl_nil]
  change Host.Outcome.next (bootStageEnd r s) = _
  simp only [bootStageEnd, hcounters, ite_self]
  rfl

theorem badCounter_eq_false (hr : r.badCounters = []) (k : Nat) : badCounter r k = false := by
  rw [badCounter, hr, List.any_nil]

/-- Stage 1 with a pair that boots: XD1 when pair is set. -/
def pairUp (pair : Bool) (s : State) : State :=
  let n := if s.boot.fromPowerOn then satAdd s.flash.powerCycles 1 else s.flash.powerCycles
  { s with flash := { s.flash with powerCycles := n }, boot := { s.boot with stage := 2, pair := pair, cycles := n } }

theorem stage1_of_no_pair (h0 : r.xd0Ok = false) (h1 : r.xd1Ok = false) : stage1 r s = s := if_pos (by simp [h0, h1])

theorem stage1_of_xd0 (hr : r.badCounters = []) (h0 : r.xd0Ok = true) : stage1 r s = pairUp false s := by
  simp [stage1, pairUp, h0, badCounter_eq_false hr]

theorem stage1_of_xd1 (hr : r.badCounters = []) (h0 : r.xd0Ok = false) (h1 : r.xd1Ok = true) :
    stage1 r s = evrec 0x0003 0xFFFF r.xd0Result.toNat 0 0 (pairUp true s) := by
  simp [stage1, pairUp, h0, h1, badCounter_eq_false hr]

/-- The DeviceID key is derived (R725). -/
theorem stage2_of_derived (h : r.identity = 0) : stage2 r s = { s with boot := { s.boot with
    stage := 3, identity := true, keys := some (deriveIdentity s.flash.helper) } } := by
  simp only [stage2, h, if_true]
  rfl

/-- A boot without identity (R727). -/
theorem stage2_of_failed (h : r.identity ≠ 0) : stage2 r s = evrec 0x000A 0xFFFF r.identity 0 0
    { s with boot := { s.boot with stage := 3, identity := false, keys := none } } := by
  simp only [stage2, if_neg h, beq_false_of_ne h]

theorem slotCause_of_found {b : Bool} (h : (if b then r.slotB else r.slotA) ≠ 0) :
    slotCause r b s = if b then r.slotB else r.slotA := if_pos h

/-- A slot that passes its checks is valid under FW_SVN (R711). -/
theorem slotCause_eq_zero {b : Bool} (hr : r.badCounters = []) (h : (if b then r.slotB else r.slotA) = 0)
    (hsvn : s.flash.fwSvn.toNat ≤ (s.fwSlot b).svn.toNat) : slotCause r b s = 0 := by
  simp [slotCause, h, badCounter_eq_false hr, Nat.not_lt.mpr hsvn]

/-- Causes of the two slots, as stage 3 keeps them. -/
def markSlots (a b : Nat) (s : State) : State :=
  { s with flash := { s.flash with slotA := { s.flash.slotA with bad := a }, slotB := { s.flash.slotB with bad := b } } }

/-- t differs from s in the boot registers at most. -/
def BootOnly (s t : State) : Prop := t = { s with boot := t.boot }

theorem BootOnly.of_eq {s t : State} {b : Boot} (h : t = { s with boot := b }) : BootOnly s t := by
  subst h
  rfl

theorem evrec_bootOnly (code source a b c : Nat) (s : State) : BootOnly s (evrec code source a b c s) :=
  .of_eq (evrec_eq code source a b c s)

theorem BootOnly.trans {s t u : State} (h : BootOnly s t) (k : BootOnly t u) : BootOnly s u := by
  unfold BootOnly at h k ⊢
  rw [k, h]

theorem recordSlot_bootOnly (b : Bool) (s : State) : BootOnly s (recordSlot b s) := by
  unfold recordSlot
  extract_lets x
  split
  · rfl
  · exact evrec_bootOnly ..

/-- A valid slot is not recorded. -/
theorem recordSlot_of_valid {b : Bool} (h : (s.fwSlot b).bad = 0) : recordSlot b s = s := if_pos h

theorem checkSlots_bootOnly (r : StageReport) (s : State) :
    BootOnly (markSlots (slotCause r false s) (slotCause r true s) s) (checkSlots r s) :=
  (recordSlot_bootOnly _ _).trans (recordSlot_bootOnly _ _)

theorem checkSlots_of_valid (ha : slotCause r false s = 0) (hb : slotCause r true s = 0) :
    checkSlots r s = markSlots 0 0 s := by
  have hvalid (b : Bool) : ((markSlots 0 0 s).fwSlot b).bad = 0 := by cases b <;> rfl
  calc checkSlots r s
      = recordSlot (!s.flash.preferredB) (recordSlot s.flash.preferredB (markSlots 0 0 s)) := by
        simp only [checkSlots, ha, hb, markSlots]
    _ = markSlots 0 0 s := by rw [recordSlot_of_valid (hvalid _), recordSlot_of_valid (hvalid _)]

/-- With no trial set and no valid slot none boots. -/
theorem chooseSlot_of_none_valid (ht : s.flash.trial = 0) (h : ∀ b, (s.fwSlot b).bad ≠ 0) :
    chooseSlot s = (none, false, s) := by
  simp [chooseSlot, ht, h]

/-- With no trial set a valid preferred slot boots. -/
theorem chooseSlot_of_preferred_valid (ht : s.flash.trial = 0) (h : (s.fwSlot s.flash.preferredB).bad = 0) :
    chooseSlot s = (some s.flash.preferredB, false, s) := by
  simp [chooseSlot, ht, h]

/-- RECOVERY (R712). -/
theorem stage3_of_none_valid (ht : s.flash.trial = 0) (ha : r.slotA ≠ 0) (hb : r.slotB ≠ 0) :
    (stage3 r s).boot.state = 1 ∧ (stage3 r s).boot.stage = 9 ∧ BootOnly (markSlots r.slotA r.slotB s) (stage3 r s) := by
  have hchecked : BootOnly (markSlots r.slotA r.slotB s) (checkSlots r s) := by
    have h := checkSlots_bootOnly r s
    rwa [slotCause_of_found (b := false) ha, slotCause_of_found (b := true) hb] at h
  have hflash : (checkSlots r s).flash = (markSlots r.slotA r.slotB s).flash := by rw [hchecked]
  have hchoice : chooseSlot (checkSlots r s) = (none, false, checkSlots r s) := by
    refine chooseSlot_of_none_valid (by rw [hflash]; exact ht) fun b => ?_
    cases b <;> rw [State.fwSlot, hflash]
    · exact ha
    · exact hb
  unfold stage3
  rw [hchoice]
  exact ⟨rfl, rfl, hchecked.trans rfl⟩

/-- The preferred one of two valid slots boots (R712). -/
theorem stage3_of_both_valid (hr : r.badCounters = []) (ht : s.flash.trial = 0) (ha : r.slotA = 0) (hb : r.slotB = 0)
    (hsvnA : s.flash.fwSvn.toNat ≤ s.flash.slotA.svn.toNat) (hsvnB : s.flash.fwSvn.toNat ≤ s.flash.slotB.svn.toNat) :
    let b := s.flash.preferredB
    let x := s.fwSlot b
    let t := markSlots 0 0 s
    stage3 r s = evrec 0x0001 0xFFFF (s.boot.reason.toNat + 2 ^ 8 * b2n b + 2 ^ 16 * b2n s.boot.pair) x.version.toNat
      s.flash.fwSvn.toNat { t with boot := { t.boot with
        stage := 4, state := 2, timedOut := false, slotB := b, trial := false, preferred := b
        fw := x.version, svn := s.flash.fwSvn, fwAlt := (s.fwSlot !b).version
        keys := s.boot.keys.map fun (k : Identity) => k.withSlot x.digest } } := by
  intro b x t
  have hchecked : checkSlots r s = t :=
    checkSlots_of_valid (slotCause_eq_zero hr ha hsvnA) (slotCause_eq_zero hr hb hsvnB)
  have hbad (b : Bool) : (t.fwSlot b).bad = 0 := by cases b <;> rfl
  have hchoice : chooseSlot (checkSlots r s) = (some b, false, t) := by
    rw [hchecked]
    exact chooseSlot_of_preferred_valid ht (hbad _)
  simp only [stage3, hchoice]
  cases hp : s.flash.preferredB <;>
    simp [b, x, t, markSlots, hp, State.fwSlot, State.altVersion, State.slotValid, hsvnA, hsvnB]

/-- An empty store (R718). -/
theorem stage4_of_empty (ho : s.flash.owner = none) (hj : s.flash.journal = []) :
    stage4 r s = { s with boot := { s.boot with stage := 5, owner := s.flash.ownerKey.isSome } } := by
  simp only [stage4, ho, hj, applyJournal]

end

/-! ## Stage 6 -/

theorem testArray_keepsTests (r : StageReport) (d c a : Nat) (s : State) : KeepsTests s (testArray r d c a s) := by
  unfold testArray
  extract_lets cols s1
  have h1 : KeepsTests s s1 := updCore_keepsTests s d c fun k hk => by split <;> exact hk
  exact h1.trans (.foldl (fun t e => (evrec_keepsTests ..).trans (newHint_keepsTests ..)) _ _)

theorem testCore_keepsTests (r : StageReport) (d c : Nat) (s : State) : KeepsTests s (testCore r d c s) := by
  unfold testCore
  refine .ite ?_ ((evrec_keepsTests ..).trans (newHint_keepsTests ..))
  exact ((updCore_keepsTests s d c fun _ _ => rfl).trans (testArray_keepsTests ..)).trans (testArray_keepsTests ..)

/-- A core that passes is marked good (R35). -/
theorem testCore_good {r : StageReport} {d c : Nat} (h : coreGood r d c = true) (s : State) :
    ((testCore r d c s).core d c).good = true := by
  rw [testCore, if_pos h]
  refine ((testArray_keepsTests ..).trans (testArray_keepsTests ..)).good d c ?_
  rw [State.updCore_core_same]

theorem testDie_keepsTests (r : StageReport) (d : Nat) (s : State) : KeepsTests s (testDie r d s) :=
  .ite ((evrec_keepsTests ..).trans (newHint_keepsTests ..)) (.foldl (fun t c => testCore_keepsTests r d c t) _ _)

/-- The good cores of a die with at least 16 of them (R36). -/
theorem testDie_good {r : StageReport} {d c : Nat} (hc : c < 17) (hd : 16 ≤ goodCount r d) (h : coreGood r d c = true)
    (s : State) : ((testDie r d s).core d c).good = true := by
  rw [testDie, if_neg (Nat.not_lt.mpr hd)]
  exact foldl_of_mem (P := fun t => (t.core d c).good = true) (List.mem_range.mpr hc) (testCore_good h)
    (fun t c' ht => (testCore_keepsTests r d c' t).good d c ht) s

/-- A stack out of service, as its test leaves it (R500). -/
def stackOut (t : Stack) : Stack := { t with state := 2 }

/-- Retired frames of stack k. -/
def retiredOf (r : StageReport) (k : Nat) : List Nat := (r.retired.filter fun e => e.1 == k).map (·.2)

/-- A stack in service, as its test leaves it (R499). -/
def stackTrained (r : StageReport) (hs : List Hint) (k : Nat) (s : State) (t : Stack) : Stack :=
  { t with
    state := 1, oxbow := BitVec.ofNat 3 (((s.setting 7 k).map leNat).getD 0), soft := satAdd 0 (softCount r k hs)
    retired := retiredOf r k, retiredCount := satAdd 0 (retiredOf r k).length }

/-- A stack out of service raises at most the fault unit of its controller. -/
theorem testStack_of_bad {r : StageReport} {k : Nat} (h : (r.badStacks.any fun e => e.1 == k) = true)
    (hs : List Hint) (s : State) :
    KeepsTests (s.updStk k stackOut) (testStack r hs k s) := by
  obtain ⟨e, he⟩ := Option.isSome_iff_exists.mp (List.find?_isSome.trans List.any_eq_true.symm |>.mpr h)
  have h1 (a b : Nat) : KeepsTests (s.updStk k stackOut) (newHint 5 k 0 (evrec 0x0013 0xFFFF a b 0 (s.updStk k stackOut))) :=
    (evrec_keepsTests ..).trans (newHint_keepsTests ..)
  simp only [testStack, he]
  exact .ite ((h1 ..).trans (faultEvent1_keepsTests (by omega) ..)) (h1 ..)

theorem testStack_of_good {r : StageReport} {k : Nat} (h : (r.badStacks.any fun e => e.1 == k) = false)
    (hs : List Hint) (s : State) :
    KeepsTests (s.updStk k (stackTrained r hs k s)) (testStack r hs k s) := by
  have hnone : (r.badStacks.find? fun e => e.1 == k) = none := by simpa using h
  simp only [testStack, hnone]
  exact .trans (.foldl (fun t e => newHint_keepsTests ..) _ _)
    (.foldl (fun t f => (evrec_keepsTests ..).trans (newHint_keepsTests ..)) _ _)

/-- The test of a stack changes that stack's registers and no core. -/
theorem testStack_eq_updStk (r : StageReport) (hs : List Hint) (k : Nat) (s : State) :
    ∃ f, KeepsTests (s.updStk k f) (testStack r hs k s) := by
  cases h : r.badStacks.any fun e => e.1 == k with
  | true => exact ⟨_, testStack_of_bad h hs s⟩
  | false => exact ⟨_, testStack_of_good h hs s⟩

theorem testStack_keepsGood (r : StageReport) (hs : List Hint) (k : Nat) (s : State) : KeepsGood s (testStack r hs k s) := by
  obtain ⟨f, hf⟩ := testStack_eq_updStk r hs k s
  exact ⟨hf.good, hf.stage, hf.state⟩

theorem testStack_stk_of_ne (r : StageReport) (hs : List Hint) {k m : Nat} (hne : m ≠ k) (s : State) :
    (testStack r hs k s).stk m = s.stk m := by
  obtain ⟨f, hf⟩ := testStack_eq_updStk r hs k s
  rw [hf.stk, State.updStk_stk_of_ne s f hne]

/-- A stack that is trained, with its retired frames. -/
def Trained (r : StageReport) (k : Nat) (s : State) : Prop := (s.stk k).state = 1 ∧ (s.stk k).retired = retiredOf r k

theorem testStack_trained {r : StageReport} {k : Nat} (h : (r.badStacks.any fun e => e.1 == k) = false)
    (hs : List Hint) (s : State) :
    Trained r k (testStack r hs k s) := by
  rw [Trained, (testStack_of_good h hs s).stk, State.updStk_stk_same]
  exact ⟨rfl, rfl⟩

theorem setPort_keepsTests (q : Nat) (s : State) : KeepsTests s (setPort q s) := .of_eq rfl rfl rfl rfl

/-- Stage 6 as the tests of the dies, those of the stacks and the ports, in this order. -/
theorem stage6_phases (r : StageReport) (s : State) : ∃ hs s1, s1.boot.stage = 7 ∧
    KeepsTests ((List.range 32).foldl (fun s k => testStack r hs k s) ((List.range 18).foldl (fun s d => testDie r d s) s1))
      (stage6 r s) := by
  unfold stage6
  extract_lets hs _ _ s1 s2 s3 s4
  refine ⟨hs, s1, rfl, ?_⟩
  have h4 : KeepsTests s3 s4 := .foldl (fun t q => setPort_keepsTests q t) _ _
  exact h4.trans (.foldl (fun t e => .ite (updPort_keepsTests ..) (.refl t)) _ _)

theorem stage6_stage (r : StageReport) (s : State) : (stage6 r s).boot.stage = 7 := by
  obtain ⟨hs, s1, h1, h6⟩ := stage6_phases r s
  have hdies : KeepsTests s1 _ := .foldl (fun t d => testDie_keepsTests r d t) (List.range 18) s1
  have hstacks := KeepsGood.foldl (fun t k => testStack_keepsGood r hs k t) (List.range 32)
    ((List.range 18).foldl (fun s d => testDie r d s) s1)
  rw [h6.stage, hstacks.stage, hdies.stage, h1]

theorem stage6_core_good {r : StageReport} {d c : Nat} (hd : d < 18) (hc : c < 17) (hcount : 16 ≤ goodCount r d)
    (h : coreGood r d c = true) (s : State) : ((stage6 r s).core d c).good = true := by
  obtain ⟨hs, s1, -, h6⟩ := stage6_phases r s
  refine h6.good d c ((KeepsGood.foldl (fun t k => testStack_keepsGood r hs k t) _ _).good d c ?_)
  exact foldl_of_mem (P := fun t => (t.core d c).good = true) (List.mem_range.mpr hd) (testDie_good hc hcount h)
    (fun t d' ht => (testDie_keepsTests r d' t).good d c ht) s1

theorem stage6_trained {r : StageReport} {k : Nat} (hk : k < 32) (h : (r.badStacks.any fun e => e.1 == k) = false) (s : State) :
    Trained r k (stage6 r s) := by
  obtain ⟨hs, s1, -, h6⟩ := stage6_phases r s
  rw [Trained, h6.stk]
  refine foldl_of_mem (P := Trained r k) (List.mem_range.mpr hk) (testStack_trained h hs) (fun t m ht => ?_) _
  by_cases hm : k = m
  · exact hm ▸ testStack_trained h hs t
  · rwa [Trained, testStack_stk_of_ne r hs hm]

/-! ## Stage 7 -/

theorem setRole_good (r : BitVec 2) (k : Core) : (setRole r k).good = k.good := rfl

theorem setCores_keepsTests (d : Nat) (s : State) : KeepsTests s (setCores d s) := by
  unfold setCores
  extract_lets all s1
  have h1 : KeepsTests s s1 := .foldl (fun t c => updCore_keepsTests t d c fun k hk => (setRole_good _ k).trans hk) _ _
  exact h1.trans (updDie_keepsTests ..)

/-- FAILED with no good die (R707). -/
theorem stage7_of_no_die {s : State} (h : ∀ d < 18, s.dieGood d = false) : ∃ t, stage7 s = fetchAll t
    ∧ t.boot.state = 5 ∧ t.boot.stage = 9 ∧ t.boot.dies = 0 := by
  have hgood : (List.range 18).filter s.dieGood = [] := by simpa [List.filter_eq_nil_iff] using h
  simp only [stage7, hgood]
  exact ⟨_, if_pos rfl, rfl, rfl, rfl⟩

/-- Stage 8 follows when a die is good and a stack is in service. -/
theorem stage7_of_die_and_stack {s : State} {d k : Nat} (hd : d < 18) (hgood : s.dieGood d = true) (hk : k < 32)
    (hs : s.inService k = true) : (stage7 s).boot.stage = 8 ∧ (stage7 s).boot.state = s.boot.state := by
  unfold stage7
  extract_lets good act s1 _ s2
  have h1 : KeepsTests s s1 := .foldl (fun t d => .ite (setCores_keepsTests d t) (updDie_keepsTests ..)) _ _
  have hmem : d ∈ good := List.mem_filter.mpr ⟨List.mem_range.mpr hd, hgood⟩
  have hserve : k ∈ (List.range 32).filter s1.inService := by
    refine List.mem_filter.mpr ⟨List.mem_range.mpr hk, ?_⟩
    rwa [State.inService, h1.stk]
  have htotal : s1.stackTotal ≠ 0 := List.length_pos_of_mem hserve |>.ne'
  rw [if_neg (by simp [List.ne_nil_of_mem hmem, htotal])]
  exact ⟨rfl, h1.state⟩

/-! ## Stage 8 -/

theorem applySetting_ftu (s : State) (e : Nat × Nat × List Byte) : (applySetting s e).ftu = s.ftu := by
  simp only [applySetting]
  split
  · split <;> rfl
  · split <;> rfl
  · split_ifs <;> rfl
  · rfl

/-- The settings in force leave the fret counter as it runs. -/
theorem foldl_applySetting_ftu (l : List (Nat × Nat × List Byte)) (s : State) : (l.foldl applySetting s).ftu = s.ftu :=
  List.foldlRecOn (motive := fun t => t.ftu = s.ftu) l applySetting rfl fun t ht e _ => (applySetting_ftu t e).trans ht

theorem foldl_updDie_eq (f : Die → Die) (l : List Nat) (s : State) :
    l.foldl (fun s d => s.updDie d f) s = { s with dies := (l.foldl (fun s d => s.updDie d f) s).dies } :=
  List.foldlRecOn (motive := fun t : State => t = { s with dies := t.dies }) l _ rfl fun t ht d _ => by rw [ht]; rfl

/-- READY (R706), before the waiting packets are fetched. -/
theorem enterReady_eq_fetchAll (ms : Nat) (s : State) : ∃ t, enterReady ms s = fetchAll t
    ∧ t.boot.state = 4 ∧ t.boot.stage = 9 ∧ t.boot.time = BitVec.ofNat 32 ms
    ∧ t.sched.stepMode = true ∧ t.noJobSeed = s.ftu.count := by
  refine ⟨_, rfl, ?_⟩
  rw [evrec_eq, foldl_updDie_eq]
  exact ⟨rfl, rfl, rfl, rfl, rfl⟩

/-- The no-job seed is the count at the end of stage 8 (R771). -/
theorem stage8_eq_fetchAll (r : StageReport) (s : State) : ∃ t, stage8 r s = fetchAll t
    ∧ t.boot.state = 4 ∧ t.boot.stage = 9 ∧ t.boot.time = BitVec.ofNat 32 r.ms
    ∧ t.sched.stepMode = true ∧ t.noJobSeed = s.ftu.count := by
  obtain ⟨t, ht, hstate, hstage, htime, hmode, hseed⟩ :=
    enterReady_eq_fetchAll r.ms (s.boot.settings.foldl applySetting (bootFtu s))
  rw [foldl_applySetting_ftu] at hseed
  exact ⟨t, ht, hstate, hstage, htime, hmode, hseed⟩

/-! ## Each stage by its lemma -/

/-- Settles O55: the stage in progress is one of eight, and each clause is the lemma of its stage. -/
theorem bootStages : Obligations.BootStages := by
  unfold Obligations.BootStages
  intro r s hr
  rw [exec_bootStageEnd hr]
  refine ⟨fun h => ?idle, fun h => ?pair, fun h => ?identity, fun h ht => ?slots, fun h ho hj => ?store, fun h => ?power,
    fun h => ?selftest, fun h => ?roles, fun h => ?ready⟩
  case idle => exact congrArg _ (endStage_of_not_booting h)
  all_goals rw [h]
  case pair =>
    refine ⟨fun h0 => congrArg _ ?_, fun h0 h1 => congrArg _ ?_, fun h0 h1 => congrArg _ (stage1_of_no_pair h0 h1)⟩
    · exact stage1_of_xd0 hr h0
    · exact stage1_of_xd1 hr h0 h1
  case identity => exact ⟨fun hi => congrArg _ (stage2_of_derived hi), fun hi => congrArg _ (stage2_of_failed hi)⟩
  case slots =>
    refine ⟨fun ha hb => ⟨_, rfl, stage3_of_none_valid ht ha hb⟩, fun ha hb hsvnA hsvnB => congrArg _ ?_⟩
    rw [endStage, stage3_of_both_valid hr ht ha hb hsvnA hsvnB]
    cases hp : s.flash.preferredB <;> rfl
  case store => exact congrArg _ (stage4_of_empty ho hj)
  case power => rfl
  case selftest =>
    exact ⟨_, rfl, stage6_stage r s, fun d c hd hc hcount hcore => stage6_core_good hd hc hcount hcore s,
      fun k hk hstack => stage6_trained hk hstack s⟩
  case roles =>
    refine ⟨fun hdies => ?_, fun d hd hgood ⟨k, hk, hserve⟩ => ⟨_, rfl, stage7_of_die_and_stack hd hgood hk hserve⟩⟩
    obtain ⟨t, ht, hstate, hstage, hnone⟩ := stage7_of_no_die hdies
    exact ⟨t, congrArg _ ht, hstate, hstage, hnone, by rw [State.failed, hstate]; rfl⟩
  case ready =>
    obtain ⟨t, ht, hstate, hstage, htime, hmode, hseed⟩ := stage8_eq_fetchAll r s
    exact ⟨t, congrArg _ ht, hstate, hstage, htime, hmode, by rw [State.ready, hstate]; rfl, hseed⟩

end Sys2Proof.Machine
end

section
/-! PROOFS. Packet rows: each is its packet submitted with the effect that OPCODE and ACTION select. -/

namespace Sys2Proof.Machine

open Sys2Proof

/-! ## Packet rows (R69, Table 2.10) -/

/-- Ring and opcode of the packet that a row carries. -/
theorem has_iff {p : Packet} {n : Nat} : p.has n = true ↔ viOk p.vi = true ∧ p.sq < 8 ∧ p.op = n := by
  simp [Packet.has, Packet.op, and_assoc]

/-- A parameter field that `wf` fixes, as the dispatch reads it. -/
theorem bf_eq_of_fieldIs {w : Dword} {lo n v : Nat} (h : fieldIs w lo (n + 1) v = true) : bf w (lo + n) lo = v := by
  rw [bf, show lo + n + 1 - lo = n + 1 by omega]
  exact beq_iff_eq.mp h

/-- A parameter bit that `wf` fixes, as the dispatch reads it. -/
theorem getLsbD_of_fieldIs {w : Dword} {lo v : Nat} (h : fieldIs w lo 1 v = true) : w.getLsbD lo = decide (v = 1) := by
  rw [← beq_iff_eq.mp h, BitVec.getLsbD, Nat.testBit_eq_decide_div_mod_eq, pow_one]

/-- Submitting a packet depends on what the effect makes of that packet alone. -/
theorem submit_congr {f g : Packet → State → State} {p : Packet} (h : f p = g p) (s : State) :
    submit f p s = submit g p s := by
  simp only [submit, arrive, gate, jobGate, h]

/-- A row that submits its packet with an effect submits it with the effect that the opcode selects, where they agree. -/
theorem row_of_effect {c : Instr} {p : Packet} {n : Nat} {f : Packet → State → State} (h : p.has n = true)
    (hexec : ∀ s, exec c s = submit f p s) (hrun : p.op = n → runEffect p = f p) :
    viOk p.vi = true ∧ p.sq < 8 ∧ ∀ s, exec c s = submit runEffect p s := by
  obtain ⟨hvi, hsq, hop⟩ := has_iff.mp h
  exact ⟨hvi, hsq, fun s => (hexec s).trans (submit_congr (hrun hop).symm s)⟩

/-- Every well-formed packet row submits a packet of a ring of the module, and OPCODE and ACTION select the row's effect. -/
theorem exec_packet_row {c : Instr} {p : Packet} (hc : c.packet = some p) (hwf : c.wf = true) :
    viOk p.vi = true ∧ p.sq < 8 ∧ ∀ s, exec c s = submit runEffect p s := by
  cases c with
  | move q | fill q | migrate q | fence q | matmul q | matmulBatched q | braidRun q | tableLoad q | attnFwd q
    | attnBwd q =>
    cases hc
    exact row_of_effect hwf (fun _ => rfl) fun hop => by simp [runEffect, runCompute, hop]
  | placeMap q | placeUnmap q | placeQuery q | braidLoadProgram q | braidLoadSeed q =>
    cases hc
    obtain ⟨hp, ha⟩ := Bool.and_eq_true_iff.mp hwf
    exact row_of_effect hp (fun _ => rfl) fun hop => by simp [runEffect, runCompute, hop, bf_eq_of_fieldIs ha]
  | rolloutStep q | sample q | seqCancel q | specVerify q | prefill q | kvFork q | kvRelease q =>
    cases hc
    exact row_of_effect hwf (fun _ => rfl) fun hop => by simp [runEffect, runRollout, hop]
  | rolloutOpen q | rolloutClose q | kvPoolCreate q | kvPoolSetPolicy q | kvPoolDestroy q | kvShipReceive q
    | kvShipSend q =>
    cases hc
    obtain ⟨hp, ha⟩ := Bool.and_eq_true_iff.mp hwf
    exact row_of_effect hp (fun _ => rfl) fun hop => by simp [runEffect, runRollout, hop, bf_eq_of_fieldIs ha]
  | passBwd q | update q | stepSizeSet q | updateProgramLoad q | stowLoad q | freshetPush q | modelDrain q =>
    cases hc
    exact row_of_effect hwf (fun _ => rfl) fun hop => by simp [runEffect, runLearn, hop]
  | passFwd q | passFwdQuery q | adapterLoad q | adapterUnload q | freshetFlip q | freshetDiscard q =>
    cases hc
    obtain ⟨hp, ha⟩ := Bool.and_eq_true_iff.mp hwf
    exact row_of_effect hp (fun _ => rfl) fun hop => by simp [runEffect, runLearn, hop, bf_eq_of_fieldIs ha]
  | put q | get q | atomic q | signal q | shift q | permute q | reduceShift q | restore q | rollback q | shrink q =>
    cases hc
    exact row_of_effect hwf (fun _ => rfl) fun hop => by simp [runEffect, runFabric, hop]
  | groupDefine q | groupRelease q | setDomain q | ckptTake q | ckptHold q | ckptDiscard q | ckptReadback q
    | ckptExport q | ckptList q =>
    cases hc
    obtain ⟨hp, ha⟩ := Bool.and_eq_true_iff.mp hwf
    exact row_of_effect hp (fun _ => rfl) fun hop => by simp [runEffect, runFabric, hop, bf_eq_of_fieldIs ha]
  | jobCreate q | jobStart q | jobPreempt q | jobEnd q =>
    cases hc
    exact row_of_effect hwf (fun _ => rfl) fun hop => by simp [runEffect, runJobs, hop]
  | abortPacket q | abortJob q | admissionSetVi q | admissionSetMode q | admissionQuery q | selftestCore q
    | selftestSliced q | selftestStop q | selftestRotation q | calibrate q =>
    cases hc
    obtain ⟨hp, ha⟩ := Bool.and_eq_true_iff.mp hwf
    exact row_of_effect hp (fun _ => rfl) fun hop => by simp [runEffect, runJobs, hop, bf_eq_of_fieldIs ha]
  | evrecRead q | fwStage q | phaseTimesRead q =>
    cases hc
    exact row_of_effect hwf (fun _ => rfl) fun hop => by simp [runEffect, runManage, hop]
  | fwActivateTrial q | fwActivateCommit q | fwActivateDisarm q | fwActivateReset q | powerCapSet q | powerCapQuery q
    | setRole q | setPeriod q | armEpoch q | setBeaconPorts q | faultPolicySet q | faultPolicyDefaults q
    | configInstall q | configRead q | saveRoutes q | configClear q =>
    cases hc
    obtain ⟨hp, ha⟩ := Bool.and_eq_true_iff.mp hwf
    exact row_of_effect hp (fun _ => rfl) fun hop => by simp [runEffect, runManage, hop, bf_eq_of_fieldIs ha]
  | linkPattern q | linkPatternStop q =>
    cases hc
    obtain ⟨hp, ha⟩ := Bool.and_eq_true_iff.mp hwf
    exact row_of_effect hp (fun _ => rfl) fun hop => by
      simp only [runEffect, runJobs, hop, getLsbD_of_fieldIs ha]
      rfl
  | _ => cases hc

/-- Settles O6: a packet row is its packet submitted with the effect that OPCODE and ACTION select. -/
theorem packetRowsRunTheirEffect : Obligations.PacketRowsRunTheirEffect := by
  unfold Obligations.PacketRowsRunTheirEffect
  refine ⟨fun c p s hc hwf hdisp => ?_, fun c p s hc hwf hfetch => ?_⟩
  · obtain ⟨-, -, hexec⟩ := exec_packet_row hc hwf
    rw [hexec, submit_of_dispatches runEffect hdisp]
  · obtain ⟨hvi, hsq, hexec⟩ := exec_packet_row hc hwf
    rw [hexec, submit_of_not_fetches runEffect hvi hsq hfetch]

/-! ## Checks before dispatch (Table 2.13) -/

/-- A packet with none of its SQ fetched before it that fails a check is refused. -/
theorem submit_of_firstRefusal (f : Packet → State → State) {p : Packet} {s : State} {e : Byte × Half × Nat}
    (hvi : viOk p.vi = true) (hsq : p.sq < 8) (hfetch : s.fetches p.vi = true)
    (hnone : ((s.vi p.vi).sq p.sq).fetched = []) (he : firstRefusal p s = some e) :
    submit f p s = .next (refuseFetch p e s) := by
  rw [submit_next f s hvi hsq, if_pos hfetch]
  simp [arrive, hnone, he]

/-- The first refusal is that of Table 2.13, where a check of the table fails. -/
theorem firstRefusal_of_fetchCheck {p : Packet} {s : State} {e : Byte × Half × Nat} (h : fetchCheck p s = some e) :
    firstRefusal p s = some e := by
  rw [firstRefusal, h]

/-- Settles O7: a packet that a check refuses is posted its final record, and the checks are judged in the order of Table
2.13. -/
theorem refusedPacketChangesNothing : Obligations.RefusedPacketChangesNothing := by
  unfold Obligations.RefusedPacketChangesNothing
  refine ⟨fun c p s e hc hwf hfetch hnone he => ?_, fun p s => ⟨fun htag => ?_, fun htag hvf honly => ?_,
    fun htag honly hop => ?_, fun htag honly hop hjob hmine => ?_⟩⟩
  · obtain ⟨hvi, hsq, hexec⟩ := exec_packet_row hc hwf
    rw [hexec, submit_of_firstRefusal runEffect hvi hsq hfetch hnone he]
    rfl
  all_goals refine firstRefusal_of_fetchCheck ?_
  · rw [fetchCheck, if_pos htag]
  · rw [fetchCheck, if_neg (not_not.mpr htag), if_pos ⟨hvf, honly⟩]
  all_goals
    have hallowed : ¬(p.vi ≠ 0 ∧ vi0Only p.op = true) := by
      rintro ⟨hvf, hown⟩
      rcases honly with hzero | hopen
      · exact hvf hzero
      · simp [hopen] at hown
    rw [fetchCheck, if_neg (not_not.mpr htag), if_neg hallowed]
  · rw [if_pos (by simpa using hop)]
  · have hforeign : (s.jobs.any fun j => j.id == p.job && j.vi == p.vi) = false := by
      simpa using hmine
    rw [if_neg (by simpa using hop), if_pos ⟨hjob, by simp [hforeign]⟩]

end Sys2Proof.Machine
end

section
/-! PROOFS. Completion records: what posting one changes and leaves alone, and when one is written, held or left out. -/

namespace Sys2Proof.Machine

open Sys2Proof

/-! ## The frame of a record (R59 to R68) -/

/-- t differs from s at most in what the records of packets that end change: CQs and MSI-X entries of VIs, host memory, the
messages sent, and commands in progress, of which some may have left. -/
structure RecordFrame (s t : State) : Prop where
  state : t = { s with vis := t.vis, hostMem := t.hostMem, msixOut := t.msixOut, opens := t.opens }
  vi : ∀ n, t.vi n = { s.vi n with cqs := (t.vi n).cqs, msix := (t.vi n).msix }
  opens : t.opens ⊆ s.opens

theorem RecordFrame.refl (s : State) : RecordFrame s s := ⟨rfl, fun _ => rfl, fun _ h => h⟩

theorem RecordFrame.trans {s t u : State} (h : RecordFrame s t) (k : RecordFrame t u) : RecordFrame s u where
  state := by rw [k.state, h.state]
  vi n := by rw [k.vi n, h.vi n]
  opens := List.Subset.trans k.opens h.opens

/-- A change of one VI's CQs and MSI-X entries. -/
theorem updVi_recordFrame {s : State} {n : Nat} {f : Vi → Vi} (hf : ∀ v, f v = { v with cqs := (f v).cqs, msix := (f v).msix }) :
    RecordFrame s (s.updVi n f) where
  state := rfl
  vi m := by
    by_cases hm : m = n
    · subst hm
      rw [State.updVi_vi_same]
      exact hf _
    · rw [State.updVi_vi_of_ne s f hm]
  opens _ h := h

theorem updCq_recordFrame (s : State) (n c : Nat) (f : Cq → Cq) : RecordFrame s (s.updCq n c f) :=
  updVi_recordFrame fun _ => rfl

theorem closeCmd_recordFrame (s : State) (k : Key) : RecordFrame s (s.closeCmd k) :=
  ⟨rfl, fun _ => rfl, List.filter_subset_self _⟩

theorem raiseVec_recordFrame (n k : Nat) (s : State) : RecordFrame s (raiseVec n k s) := by
  simp only [raiseVec]
  split
  · exact .refl s
  · split
    · exact updVi_recordFrame fun _ => rfl
    · exact ⟨rfl, fun _ => rfl, fun _ h => h⟩

theorem signalRec_recordFrame (n c : Nat) (now : Bool) (s : State) : RecordFrame s (signalRec n c now s) := by
  simp only [signalRec]
  split
  · exact .refl s
  · split
    · exact (updCq_recordFrame s n c _).trans (raiseVec_recordFrame n _ _)
    · exact updCq_recordFrame s n c _

/-- The state in which a record stands at the tail of its CQ, and is not counted for its interrupt yet (R60, R61). -/
def placeRec (c : Nat) (r : Rec) (s : State) : State :=
  let v := s.vi r.key.vi
  let q := v.cq c
  let bytes := recBytes r q.phase (v.sq r.key.sq).head (BitVec.ofNat 32 s.ftu.count.toNat)
  let last := q.tail.toNat + 1 = ringSize q.sizeLog2
  { s with hostMem := s.hostMem.writeN (q.base.toNat + 32 * q.tail.toNat) bytes }.updCq r.key.vi c fun q =>
    { q with tail := if last then 0 else q.tail + 1, phase := if last then !q.phase else q.phase }

/-- Host memory is no part of a VI. -/
@[simp] theorem hostMem_vi (s : State) (m : Mem) (n : Nat) : State.vi { s with hostMem := m } n = s.vi n := rfl

/-- A record is written at the tail and then counted. -/
theorem writeRec_eq_signalRec (c : Nat) (r : Rec) (s : State) :
    writeRec c r s = signalRec r.key.vi c r.irqNow (placeRec c r s) := rfl

theorem hostMem_recordFrame (s : State) (m : Mem) : RecordFrame s { s with hostMem := m } :=
  ⟨rfl, fun _ => rfl, fun _ h => h⟩

theorem placeRec_recordFrame (c : Nat) (r : Rec) (s : State) : RecordFrame s (placeRec c r s) := by
  unfold placeRec
  exact (hostMem_recordFrame s _).trans (updCq_recordFrame _ _ c _)

theorem writeRec_recordFrame (c : Nat) (r : Rec) (s : State) : RecordFrame s (writeRec c r s) := by
  rw [writeRec_eq_signalRec]
  exact (placeRec_recordFrame c r s).trans (signalRec_recordFrame _ c _ _)

theorem passRec_recordFrame (c : Nat) (r : Rec) (s : State) : RecordFrame s (passRec c r s) := by
  unfold passRec
  split
  · exact .refl s
  · exact writeRec_recordFrame c r s

theorem postRec_recordFrame (r : Rec) (s : State) : RecordFrame s (postRec r s) := by
  simp only [postRec]
  split
  · exact .refl s
  · split
    · exact updCq_recordFrame s _ _ _
    · exact passRec_recordFrame _ r s

theorem writeFinal_recordFrame (p : Packet) (st : Byte) (rs : Half) (a b : Nat) (s : State) :
    RecordFrame s (writeFinal p st rs a b s) := postRec_recordFrame _ s

theorem settleFences_recordFrame (k : Nat) (s : State) : RecordFrame s (settleFences k s) := by
  induction k generalizing s with
  | zero => exact .refl s
  | succ k ih =>
    unfold settleFences
    split
    · exact .refl s
    · exact ((closeCmd_recordFrame s _).trans (writeFinal_recordFrame _ _ _ _ _ _)).trans (ih _)

/-- What follows the leaving of a packet whose end changes nothing else. -/
theorem postRefused_recordFrame_closeCmd (p : Packet) (st : Byte) (rs : Half) (a b : Nat) (s : State) :
    RecordFrame (s.closeCmd p.key) (postRefused p st rs a b s) :=
  (writeFinal_recordFrame p st rs a b _).trans (settleFences_recordFrame _ _)

theorem postRefused_recordFrame (p : Packet) (st : Byte) (rs : Half) (a b : Nat) (s : State) :
    RecordFrame s (postRefused p st rs a b s) :=
  (closeCmd_recordFrame s _).trans (postRefused_recordFrame_closeCmd p st rs a b s)

/-- No command of the key of a packet that ends stays in progress. -/
theorem postRefused_open? (p : Packet) (st : Byte) (rs : Half) (a b : Nat) (s : State) :
    (postRefused p st rs a b s).open? p.key = none := by
  refine List.find?_eq_none.mpr fun o ho hkey => ?_
  have hleft := (postRefused_recordFrame_closeCmd p st rs a b s).opens ho
  simp_all [State.closeCmd]

/-- Settles O11: the end of such a packet is its record alone, and a record stays in its frame. -/
theorem finalRecordFrame : Obligations.FinalRecordFrame := by
  unfold Obligations.FinalRecordFrame
  intro p st rs a b s hstep hclass
  rw [postFinal_eq_postRefused p st rs a b s hstep hclass]
  have hframe := postRefused_recordFrame p st rs a b s
  refine ⟨hframe.state, fun n => ?_, postRefused_open? p st rs a b s, fun o ho => hframe.opens ho⟩
  rw [hframe.vi n]
  exact ⟨rfl, rfl⟩

/-! ## Interrupts of a CQ (R66, R776) -/

section
variable {n c k : Nat} {now : Bool} {s : State}

/-- Raising a vector leaves the CQs alone. -/
@[simp] theorem raiseVec_cq (m : Nat) : ((raiseVec n k s).vi m).cq c = (s.vi m).cq c := by
  simp only [raiseVec]
  split
  · rfl
  · split
    · by_cases hm : m = n
      · subst hm
        rw [State.updVi_vi_same]
        rfl
      · rw [State.updVi_vi_of_ne s _ hm]
    · rfl

/-- An unmasked vector of an enabled function sends its message (R776). -/
theorem raiseVec_sends (hup : s.ready = true ∨ (s.failed = true ∧ n = 0)) (hen : (s.vi n).msixEn = true)
    (hbusy : (s.vi n).resetBusy = false) (hfunc : (s.vi n).funcMask = false) (hmask : ((s.vi n).vec k).mask = false) :
    raiseVec n k s = { s with msixOut := s.msixOut ++
      [{ rid := s.routingId n, vi := n, vec := k, addr := ((s.vi n).vec k).addr, data := ((s.vi n).vec k).data }] } := by
  have hup' : (s.ready || (s.failed && n == 0)) = true := by simpa using hup
  simp [raiseVec, hup', hen, hbusy, hfunc, hmask]

theorem signalRec_of_not_ien (h : ((s.vi n).cq c).ien = false) : signalRec n c now s = s := by
  simp [signalRec, h]

theorem signalRec_of_due (h : ((s.vi n).cq c).ien = true)
    (hdue : now = true ∨ ((s.vi n).cq c).unsig = ((s.vi n).cq c).irqCount.toNat) :
    signalRec n c now s = raiseVec n ((s.vi n).cq c).vec.toNat (s.updCq n c fun q => { q with unsig := 0, timer := false }) := by
  simp only [signalRec, h, Bool.not_true, Bool.false_eq_true, if_false]
  rw [if_pos (by simpa using hdue)]

theorem signalRec_of_counted (h : ((s.vi n).cq c).ien = true) (hnow : now = false)
    (hcount : ((s.vi n).cq c).unsig ≠ ((s.vi n).cq c).irqCount.toNat) :
    signalRec n c now s = s.updCq n c fun q => { q with unsig := q.unsig + 1, timer := q.timer || q.irqTime != 0 } := by
  simp only [signalRec, h, Bool.not_true, Bool.false_eq_true, if_false]
  rw [if_neg (by simpa [hnow] using hcount)]

/-- Counting a record leaves the ring's tail and phase alone. -/
theorem signalRec_ring : (((signalRec n c now s).vi n).cq c).tail = ((s.vi n).cq c).tail
    ∧ (((signalRec n c now s).vi n).cq c).phase = ((s.vi n).cq c).phase := by
  simp only [signalRec]
  split
  · exact ⟨rfl, rfl⟩
  · split
    · rw [raiseVec_cq, State.updCq_cq_same]
      exact ⟨rfl, rfl⟩
    · rw [State.updCq_cq_same]
      exact ⟨rfl, rfl⟩

end

/-! ## Written, held or left out (R63, R67, R68, R74) -/

section
variable {r : Rec} {s : State}

theorem postRec_of_resetBusy (h : (s.vi r.key.vi).resetBusy = true) : postRec r s = s := by
  simp [postRec, h]

theorem postRec_of_no_room (hbusy : (s.vi r.key.vi).resetBusy = false)
    (h : ((s.vi r.key.vi).cq ((s.vi r.key.vi).cqOf r.key.sq)).blocked = true ∨
      ((s.vi r.key.vi).cq ((s.vi r.key.vi).cqOf r.key.sq)).held ≠ []) :
    postRec r s = s.updCq r.key.vi ((s.vi r.key.vi).cqOf r.key.sq) fun q => { q with held := q.held ++ [r] } := by
  simp only [postRec, hbusy, Bool.false_eq_true, if_false]
  rw [if_pos (by simpa using h)]

theorem postRec_of_room (hbusy : (s.vi r.key.vi).resetBusy = false)
    (hroom : ((s.vi r.key.vi).cq ((s.vi r.key.vi).cqOf r.key.sq)).blocked = false)
    (hheld : ((s.vi r.key.vi).cq ((s.vi r.key.vi).cqOf r.key.sq)).held = []) :
    postRec r s = passRec ((s.vi r.key.vi).cqOf r.key.sq) r s := by
  simp [postRec, hbusy, hroom, hheld]

theorem passRec_of_silent {c : Nat} (h : r.silent = true) : passRec c r s = s := if_pos h

theorem passRec_of_not_silent {c : Nat} (h : r.silent = false) : passRec c r s = writeRec c r s := if_neg (by simp [h])

/-- The CQ in which a record has been placed: its tail has moved on, and the phase changes at the wrap (R61). -/
theorem placeRec_cq (c : Nat) : ((placeRec c r s).vi r.key.vi).cq c =
    let q := (s.vi r.key.vi).cq c
    let last := q.tail.toNat + 1 = ringSize q.sizeLog2
    { q with tail := if last then 0 else q.tail + 1, phase := if last then !q.phase else q.phase } := by
  rw [placeRec, State.updCq_cq_same, hostMem_vi]

/-- A CQ is changed and nothing else of its VI. -/
theorem updCq_vi_same (s : State) (n c : Nat) (f : Cq → Cq) :
    (s.updCq n c f).vi n = { s.vi n with cqs := tset (s.vi n).cqs c (f ((s.vi n).cq c)) } := State.updVi_vi_same ..

/-- Placing a record changes one CQ of its VI. -/
theorem placeRec_vi (c : Nat) : (placeRec c r s).vi r.key.vi =
    { s.vi r.key.vi with cqs := ((placeRec c r s).vi r.key.vi).cqs } := by
  rw [placeRec, updCq_vi_same, hostMem_vi]

/-- The ring in which a record has been written. -/
theorem writeRec_ring (c : Nat) :
    let q := (s.vi r.key.vi).cq c
    let q' := ((writeRec c r s).vi r.key.vi).cq c
    (q.tail.toNat + 1 = ringSize q.sizeLog2 → q'.tail = 0 ∧ q'.phase = !q.phase)
    ∧ (q.tail.toNat + 1 ≠ ringSize q.sizeLog2 → q'.tail = q.tail + 1 ∧ q'.phase = q.phase) := by
  intro q q'
  have htail : q'.tail = (((placeRec c r s).vi r.key.vi).cq c).tail := signalRec_ring.1
  have hphase : q'.phase = (((placeRec c r s).vi r.key.vi).cq c).phase := signalRec_ring.2
  rw [htail, hphase, placeRec_cq]
  exact ⟨fun h => ⟨if_pos h, if_pos h⟩, fun h => ⟨if_neg h, if_neg h⟩⟩

/-- With IEN clear a record is not counted. -/
theorem writeRec_of_not_ien {c : Nat} (h : ((s.vi r.key.vi).cq c).ien = false) : writeRec c r s = placeRec c r s := by
  rw [writeRec_eq_signalRec, signalRec_of_not_ien (by rw [placeRec_cq]; exact h)]

/-- A record that is neither the last to be awaited nor carries IRQ_NOW is counted. -/
theorem writeRec_of_counted {c : Nat} (h : ((s.vi r.key.vi).cq c).ien = true) (hnow : r.irqNow = false)
    (hcount : ((s.vi r.key.vi).cq c).unsig ≠ ((s.vi r.key.vi).cq c).irqCount.toNat) :
    writeRec c r s = (placeRec c r s).updCq r.key.vi c fun q =>
      { q with unsig := q.unsig + 1, timer := q.timer || q.irqTime != 0 } := by
  have hcq := placeRec_cq (r := r) (s := s) c
  rw [writeRec_eq_signalRec, signalRec_of_counted (by rw [hcq]; exact h) hnow (by rw [hcq]; exact hcount)]

/-- The (IRQ_COUNT + 1)th unsignalled record, or one with IRQ_NOW, raises the vector and restarts count and timer. -/
theorem writeRec_of_due {c : Nat} (h : ((s.vi r.key.vi).cq c).ien = true)
    (hdue : r.irqNow = true ∨ ((s.vi r.key.vi).cq c).unsig = ((s.vi r.key.vi).cq c).irqCount.toNat) :
    writeRec c r s = raiseVec r.key.vi ((s.vi r.key.vi).cq c).vec.toNat
      ((placeRec c r s).updCq r.key.vi c fun q => { q with unsig := 0, timer := false }) := by
  have hcq := placeRec_cq (r := r) (s := s) c
  rw [writeRec_eq_signalRec, signalRec_of_due (by rw [hcq]; exact h) (by rw [hcq]; exact hdue), hcq]

end

/-- The final record of a DONE under NO_DONE is silent (R67). -/
def silentDone (p : Packet) (rs : Half) (a b : Nat) : Rec :=
  { key := p.key, userTag := p.userTag, opcode := p.opcode, status := 0, interim := false, reason := rs
    result0 := BitVec.ofNat 64 a, result1 := BitVec.ofNat 32 b, irqNow := p.flags.getLsbD 0, silent := true }

theorem writeFinal_of_noDone {p : Packet} (h : p.flags.getLsbD 2 = true) (rs : Half) (a b : Nat) (s : State) :
    writeFinal p 0 rs a b s = postRec (silentDone p rs a b) s := by
  rw [writeFinal, h]
  rfl

/-- Settles O10: a record that finds the VI in reset, its CQ without room, or room, and in the last case how it is counted. -/
theorem recordHeldOrWritten : Obligations.RecordHeldOrWritten := by
  unfold Obligations.RecordHeldOrWritten
  refine ⟨fun p rs a b s hnoDone => ?_, fun r s => ⟨postRec_of_resetBusy, postRec_of_no_room, fun hbusy hroom hheld hloud => ?_⟩⟩
  · rw [writeFinal_of_noDone hnoDone]
    refine ⟨fun hbusy hroom hheld => ?_, fun hbusy hfull => ?_⟩
    · rw [postRec_of_room (r := silentDone p rs a b) hbusy hroom hheld, passRec_of_silent rfl]
    · rw [postRec_of_no_room (r := silentDone p rs a b) hbusy hfull]
      exact (congrArg _ (congrArg _ (State.updCq_cq_same s p.vi _ _))).trans (List.map_append ..)
  · rw [postRec_of_room hbusy hroom hheld, passRec_of_not_silent hloud]
    refine ⟨rfl, (writeRec_ring _).1, (writeRec_ring _).2, fun hien => ?_, fun hien hnow hcount => ?_, fun hien hdue => ?_⟩
    · rw [writeRec_of_not_ien hien, placeRec_cq]
      exact ⟨rfl, rfl⟩
    · rw [writeRec_of_counted hien hnow hcount, State.updCq_cq_same, placeRec_cq]
      exact ⟨rfl, rfl⟩
    · rw [writeRec_of_due hien hdue, raiseVec_cq, State.updCq_cq_same]
      refine ⟨rfl, rfl, fun hup hen hfunc hmask => ?_⟩
      have hvi := (updCq_vi_same (placeRec ((s.vi r.key.vi).cqOf r.key.sq) r s) r.key.vi
        ((s.vi r.key.vi).cqOf r.key.sq) fun q => { q with unsig := 0, timer := false }).trans
        (by rw [placeRec_vi])
      rw [raiseVec_sends, Vi.vec, hvi]
      · rfl
      · exact hup
      all_goals
        simp only [Vi.vec, hvi]
        assumption

end Sys2Proof.Machine
end

section
/-! PROOFS. Queues, doorbells and interrupts: an equation for each outcome of a register write, then the statements. -/

namespace Sys2Proof.Machine

open Sys2Proof

/-! ## Register writes of a VI that is on -/

section
variable {vi q : Nat} {s : State}

/-- A VI and queue of the module. -/
theorem ringOk (hvi : viOk vi = true) (hq : q < 8) : (viOk vi && decide (q < 8)) = true := by
  simp [hvi, hq]

theorem exec_sqCfgWrite (hvi : viOk vi = true) (hq : q < 8) (hon : s.viOn vi = true) (v : Word) :
    exec (.sqCfgWrite vi q v) s = .next (sqCfg vi q v s) :=
  (event_of_ok (ringOk hvi hq) _).trans (congrArg _ (if_pos hon))

theorem exec_cqCfgWrite (hvi : viOk vi = true) (hq : q < 8) (hon : s.viOn vi = true) (v : Word) :
    exec (.cqCfgWrite vi q v) s = .next (cqCfg vi q v s) :=
  (event_of_ok (ringOk hvi hq) _).trans (congrArg _ (if_pos hon))

theorem exec_sqTailDbWrite (hvi : viOk vi = true) (hq : q < 8) (hon : s.viOn vi = true) (v : Word) :
    exec (.sqTailDbWrite vi q v) s = .next (sqTail vi q v s) :=
  (event_of_ok (ringOk hvi hq) _).trans (congrArg _ (if_pos hon))

theorem exec_cqHeadDbWrite (hvi : viOk vi = true) (hq : q < 8) (hon : s.viOn vi = true) (v : Word) :
    exec (.cqHeadDbWrite vi q v) s = .next (cqHead vi q v s) :=
  (event_of_ok (ringOk hvi hq) _).trans (congrArg _ (if_pos hon))

end

/-! ## Queue configuration (R50 to R52) -/

theorem sizeOk_iff {n : Nat} : sizeOk n = true ↔ 4 ≤ n ∧ n ≤ 16 := by
  simp [sizeOk]

/-- The SQ that a write to SQ_CFG leaves, `idle` being SQ_CFG.IDLE. -/
def sqCfgFields (idle : Bool) (value : Word) (u : Sq) : Sq :=
  let size := if idle then BitVec.ofNat 5 (bw value 4 0) else u.sizeLog2
  let cq := if idle then BitVec.ofNat 3 (bw value 10 8) else u.cq
  let en := value.getLsbD 31 && sizeOk size.toNat
  let start := en && !u.en
  { u with sizeLog2 := size, cq := cq, en := en, head := if start then 0 else u.head, tail := if start then 0 else u.tail }

/-- A write to SQ_CFG changes its SQ alone. -/
theorem sqCfg_eq_updSq (n q : Nat) (v : Word) (s : State) :
    sqCfg n q v s = s.updSq n q fun _ => sqCfgFields (s.sqIdle n q) v ((s.vi n).sq q) := rfl

/-- A queue starts when EN goes from 0 to 1 (R52). -/
theorem starts_iff {en was : Bool} : (en && !was) = true ↔ was = false ∧ en = true := by
  cases en <;> cases was <;> decide

theorem not_starts_iff {en was : Bool} : ¬(en && !was) = true ↔ was = true ∨ en = false := by
  cases en <;> cases was <;> decide

/-- EN is set when it is written 1 with a legal size (R50). -/
theorem en_iff {v : Word} {n : Nat} : (v.getLsbD 31 && sizeOk n) = true ↔ v.getLsbD 31 = true ∧ 4 ≤ n ∧ n ≤ 16 := by
  rw [Bool.and_eq_true, sizeOk_iff]

/-- Settles O12: the fields that a write leaves, EN by the legal sizes and the indices by whether the queue starts. -/
theorem queueEnableNeedsLegalSize : Obligations.QueueEnableNeedsLegalSize := by
  unfold Obligations.QueueEnableNeedsLegalSize
  intro vi q v s hvi hq hon
  constructor
  · refine ⟨sqCfgFields (s.sqIdle vi q) v ((s.vi vi).sq q), ?_, rfl, rfl, en_iff, fun hwas hen => ?_, fun hno => ?_, rfl⟩
    · rw [exec_sqCfgWrite hvi hq hon, sqCfg_eq_updSq]
    · have hstart := starts_iff.mpr ⟨hwas, hen⟩
      exact ⟨if_pos hstart, if_pos hstart⟩
    · have hnot := not_starts_iff.mpr hno
      exact ⟨if_neg hnot, if_neg hnot⟩
  · refine ⟨cqCfgFields v ((s.vi vi).cq q), ?_, rfl, en_iff, fun hwas hen => ?_, fun hno => ?_, rfl, rfl, rfl, rfl,
      fun hien => ?_, fun hwas hien => if_pos (Bool.and_eq_true_iff.mpr ⟨hien, hwas⟩), rfl, rfl⟩
    · rw [exec_cqCfgWrite hvi hq hon]
      rfl
    · have hstart := starts_iff.mpr ⟨hwas, hen⟩
      exact ⟨if_pos hstart, if_pos hstart, if_pos hstart⟩
    · have hnot := not_starts_iff.mpr hno
      exact ⟨if_neg hnot, if_neg hnot, if_neg hnot⟩
    · have hsame : (v.getLsbD 30 && ((s.vi vi).cq q).ien) = false := by
        have : ((s.vi vi).cq q).ien ≠ v.getLsbD 30 := hien
        revert this
        cases v.getLsbD 30 <;> cases ((s.vi vi).cq q).ien <;> decide
      exact ⟨if_neg (Bool.eq_false_iff.mp hsame), by simp only [cqCfgFields, hsame, Bool.false_and]⟩

/-! ## Doorbells (Table 2.9) -/

section
variable {n q : Nat} {v : Word} {s : State}

theorem dbOk_eq_false {en : Bool} {log2 : BitVec 5} {i : Nat} (h : en = false ∨ ringSize log2 ≤ i) : dbOk en log2 i = false := by
  rcases h with h | h <;> simp [dbOk, h]

theorem dbOk_eq_true {en : Bool} {log2 : BitVec 5} {i : Nat} (h : en = true) (hi : i < ringSize log2) :
    dbOk en log2 i = true := by
  simp [dbOk, h, hi]

theorem sqTail_of_bad (h : ((s.vi n).sq q).en = false ∨ ringSize ((s.vi n).sq q).sizeLog2 ≤ bw v 15 0) :
    sqTail n q v s = setDbErr n s := by
  simp [sqTail, dbOk_eq_false h]

theorem sqTail_of_same (hen : ((s.vi n).sq q).en = true) (hi : bw v 15 0 < ringSize ((s.vi n).sq q).sizeLog2)
    (h : ((s.vi n).sq q).tail.toNat = bw v 15 0) : sqTail n q v s = s := by
  simp [sqTail, dbOk_eq_true hen hi, h]

theorem sqTail_of_new (hen : ((s.vi n).sq q).en = true) (hi : bw v 15 0 < ringSize ((s.vi n).sq q).sizeLog2)
    (h : ((s.vi n).sq q).tail.toNat ≠ bw v 15 0) :
    sqTail n q v s = fetchAll (s.updSq n q fun u => { u with tail := BitVec.ofNat 16 (bw v 15 0) }) := by
  simp [sqTail, dbOk_eq_true hen hi, h]

theorem cqHead_of_bad (h : ((s.vi n).cq q).en = false ∨ ringSize ((s.vi n).cq q).sizeLog2 ≤ bw v 15 0) :
    cqHead n q v s = setDbErr n s := by
  simp [cqHead, dbOk_eq_false h]

theorem cqHead_of_same (hen : ((s.vi n).cq q).en = true) (hi : bw v 15 0 < ringSize ((s.vi n).cq q).sizeLog2)
    (h : ((s.vi n).cq q).head.toNat = bw v 15 0) : cqHead n q v s = s := by
  simp [cqHead, dbOk_eq_true hen hi, h]

theorem cqHead_of_new (hen : ((s.vi n).cq q).en = true) (hi : bw v 15 0 < ringSize ((s.vi n).cq q).sizeLog2)
    (h : ((s.vi n).cq q).head.toNat ≠ bw v 15 0) :
    cqHead n q v s = fetchAll (roomMade n q (s.updCq n q fun c => { c with head := BitVec.ofNat 16 (bw v 15 0) })) := by
  simp [cqHead, dbOk_eq_true hen hi, h]

/-- A refused doorbell sets VI_STATUS.DB_ERR (R48, R73). -/
theorem setDbErr_dbErr : ((setDbErr n s).vi n).dbErr = true := by
  simp only [setDbErr]
  split
  · rw [(raiseVec_recordFrame n _ _).vi n, State.updVi_vi_same]
  · rw [State.updVi_vi_same]

end

/-- Settles O13: each outcome of Table 2.9 by its equation. -/
theorem doorbellOutcomes : Obligations.DoorbellOutcomes := by
  unfold Obligations.DoorbellOutcomes
  intro vi q v s hvi hq hon
  simp only [exec_sqTailDbWrite hvi hq hon, exec_cqHeadDbWrite hvi hq hon]
  refine ⟨fun hbad => ⟨?_, setDbErr_dbErr⟩, fun hen hi hsame => ?_, fun hen hi hnew => ?_, fun hbad => ?_,
    fun hen hi hsame => ?_, fun hen hi hnew => ?_⟩
  · rw [sqTail_of_bad hbad]
  · rw [sqTail_of_same hen hi hsame]
  · rw [sqTail_of_new hen hi hnew]
  · rw [cqHead_of_bad hbad]
  · rw [cqHead_of_same hen hi hsame]
  · rw [cqHead_of_new hen hi hnew]

/-! ## Interrupt rows (R66, R776) -/

end Sys2Proof.Machine
end

section
/-! PROOFS. Interrupt rows: the coalescing timer, writes to the MSI-X table, and the messages that a cleared mask releases. -/

namespace Sys2Proof.Machine

open Sys2Proof

/-! ## IRQ_TIME (R66) -/

theorem exec_irqTimeExpire {vi c : Nat} (hvi : viOk vi = true) (hc : c < 8) (s : State) :
    exec (.irqTimeExpire vi c) s = .next (irqExpire vi c s) := event_of_ok (ringOk hvi hc) _

/-- The timer of a CQ raises the vector when it runs for unsignalled records, and else does nothing. -/
theorem irqExpire_eq_ite (n c : Nat) (s : State) :
    let q := (s.vi n).cq c
    irqExpire n c s = if q.ien = true ∧ q.timer = true ∧ q.unsig ≠ 0 then
      raiseVec n q.vec.toNat (s.updCq n c fun q => { q with unsig := 0, timer := false }) else s := by
  simp [irqExpire, and_assoc]

/-! ## The MSI-X table (R776) -/

/-- An MSI-X entry in which one double word has been written. -/
def MsixEntry.written (dw : Nat) (value : Word) (e : MsixEntry) : MsixEntry :=
  match dw with
  | 0 => { e with addr := BitVec.ofNat 64 (e.addr.toNat / 2 ^ 32 * 2 ^ 32 + value.toNat / 4 * 4) }
  | 1 => { e with addr := BitVec.ofNat 64 (value.toNat * 2 ^ 32 + e.addr.toNat % 2 ^ 32) }
  | 2 => { e with data := value }
  | _ => { e with mask := value.getLsbD 0 }

/-- A table write stores its entry and then sends what has become free to go. -/
theorem exec_msiXTableWrite {vi k dw : Nat} {s : State} (hvi : viOk vi = true) (hk : k < 4) (hdw : dw < 4)
    (hon : s.viOn vi = true) (v : Word) :
    exec (.msiXTableWrite vi k dw v) s = .next (sendPending vi (s.updVi vi fun x =>
      { x with msix := tset x.msix k (((s.vi vi).vec k).written dw v) })) := by
  refine (event_of_ok (by simp [hvi, hk, hdw]) _).trans (congrArg _ ?_)
  rw [if_pos hon]
  match dw, hdw with
  | 0, _ | 1, _ | 2, _ | 3, _ => simp only [msixWrite, MsixEntry.written, State.updVi]

/-- Double word 0 holds the low half of the address, bits [1:0] zero. -/
theorem MsixEntry.written_zero_addr (v : Word) (e : MsixEntry) :
    (e.written 0 v).addr.toNat = e.addr.toNat / 2 ^ 32 * 2 ^ 32 + v.toNat / 4 * 4 := by
  have haddr := e.addr.isLt
  have hv := v.isLt
  rw [show (e.written 0 v).addr = BitVec.ofNat 64 (e.addr.toNat / 2 ^ 32 * 2 ^ 32 + v.toNat / 4 * 4) from rfl,
    BitVec.toNat_ofNat]
  omega

/-- Double word 1 holds its high half. -/
theorem MsixEntry.written_one_addr (v : Word) (e : MsixEntry) :
    (e.written 1 v).addr.toNat = v.toNat * 2 ^ 32 + e.addr.toNat % 2 ^ 32 := by
  have hv := v.isLt
  rw [show (e.written 1 v).addr = BitVec.ofNat 64 (v.toNat * 2 ^ 32 + e.addr.toNat % 2 ^ 32) from rfl, BitVec.toNat_ofNat]
  omega

/-- A table write leaves the pending bit alone. -/
theorem MsixEntry.written_pending (dw : Nat) (v : Word) (e : MsixEntry) : (e.written dw v).pending = e.pending := by
  unfold written
  split <;> rfl

/-- Each double word of an entry holds its own field (R776). -/
theorem MsixEntry.written_fields {dw : Nat} (hdw : dw < 4) (v : Word) (e : MsixEntry) :
    (e.written dw v).addr.toNat = (if dw = 0 then e.addr.toNat / 2 ^ 32 * 2 ^ 32 + v.toNat / 4 * 4
      else if dw = 1 then v.toNat * 2 ^ 32 + e.addr.toNat % 2 ^ 32 else e.addr.toNat)
    ∧ (e.written dw v).data = (if dw = 2 then v else e.data)
    ∧ (e.written dw v).mask = (if dw = 3 then v.getLsbD 0 else e.mask)
    ∧ (e.written dw v).pending = e.pending := by
  obtain rfl | rfl | rfl | rfl : dw = 0 ∨ dw = 1 ∨ dw = 2 ∨ dw = 3 := by omega
  · exact ⟨(written_zero_addr v e).trans (if_pos rfl).symm, rfl, rfl, written_pending _ v e⟩
  · exact ⟨(written_one_addr v e).trans ((if_neg one_ne_zero).trans (if_pos rfl)).symm, rfl, rfl, written_pending _ v e⟩
  · exact ⟨rfl, rfl, rfl, rfl⟩
  · exact ⟨rfl, rfl, rfl, rfl⟩

/-! ## Held messages -/

/-- One vector of `sendPending`: a pending message that nothing masks is sent. -/
def sendHeld (n : Nat) (s : State) (k : Nat) : State :=
  let v := s.vi n
  let e := v.vec k
  if e.pending && v.msixEn && !v.funcMask && !e.mask then
    raiseVec n k (s.updVi n fun v => { v with msix := tset v.msix k { e with pending := false } })
  else s

theorem sendPending_eq_foldl (n : Nat) (s : State) : sendPending n s = [0, 1, 2, 3].foldl (sendHeld n) s := rfl

section
variable {n k : Nat} {s : State}

theorem sendHeld_of_not_pending (h : ((s.vi n).vec k).pending = false) : sendHeld n s k = s := by
  simp [sendHeld, h]

/-- Vectors with nothing pending send nothing. -/
theorem foldl_sendHeld_of_not_pending {l : List Nat} (h : ∀ i ∈ l, ((s.vi n).vec i).pending = false) :
    l.foldl (sendHeld n) s = s := by
  induction l with
  | nil => rfl
  | cons i l ih =>
    rw [List.foldl_cons, sendHeld_of_not_pending (h i (.head l))]
    exact ih fun j hj => h j (.tail i hj)

/-- The MSI-X entries of a VI in which one has been set. -/
theorem vec_updVi_tset (e : MsixEntry) (i : Nat) :
    ((s.updVi n fun v => { v with msix := tset v.msix k e }).vi n).vec i = if i = k then e else (s.vi n).vec i := by
  rw [State.updVi_vi_same, Vi.vec]
  by_cases hi : i = k
  · rw [if_pos hi, hi, tget_tset_same]
  · rw [if_neg hi, tget_tset_of_ne _ _ _ hi]
    rfl

/-- The message of a VI's vector k (R45, R65). -/
def State.message (s : State) (n k : Nat) : MsixMsg :=
  { rid := s.routingId n, vi := n, vec := k, addr := ((s.vi n).vec k).addr, data := ((s.vi n).vec k).data }

/-- A pending message that nothing masks is sent, and its pending bit clears. -/
theorem sendHeld_of_pending (hup : s.ready = true) (hen : (s.vi n).msixEn = true) (hfunc : (s.vi n).funcMask = false)
    (hbusy : (s.vi n).resetBusy = false) (hpend : ((s.vi n).vec k).pending = true) (hmask : ((s.vi n).vec k).mask = false) :
    sendHeld n s k = { s.updVi n (fun v => { v with msix := tset v.msix k { (s.vi n).vec k with pending := false } })
      with msixOut := s.msixOut ++ [s.message n k] } := by
  have hvec := (vec_updVi_tset (n := n) (k := k) (s := s) { (s.vi n).vec k with pending := false } k).trans (if_pos rfl)
  have hgo : (((s.vi n).vec k).pending && (s.vi n).msixEn && !(s.vi n).funcMask && !((s.vi n).vec k).mask) = true := by
    simp [hpend, hen, hfunc, hmask]
  refine (if_pos hgo).trans ((raiseVec_sends ?_ ?_ ?_ ?_ ?_).trans ?_)
  · exact .inl hup
  · rw [State.updVi_vi_same]; exact hen
  · rw [State.updVi_vi_same]; exact hbusy
  · rw [State.updVi_vi_same]; exact hfunc
  · rw [hvec]; exact hmask
  · rw [hvec]; rfl

/-- A vector whose message has been sent is pending no more, and the others stand as before. -/
theorem sendHeld_pending (hup : s.ready = true) (hen : (s.vi n).msixEn = true) (hfunc : (s.vi n).funcMask = false)
    (hbusy : (s.vi n).resetBusy = false) (hpend : ((s.vi n).vec k).pending = true) (hmask : ((s.vi n).vec k).mask = false)
    (i : Nat) : (((sendHeld n s k).vi n).vec i).pending = if i = k then false else ((s.vi n).vec i).pending := by
  rw [sendHeld_of_pending hup hen hfunc hbusy hpend hmask]
  refine (congrArg MsixEntry.pending (vec_updVi_tset _ i)).trans ?_
  split <;> rfl

/-- With one message pending, and nothing that masks it, that message is sent and no bit stays pending. -/
theorem sendPending_of_one (hk : k < 4) (hup : s.ready = true) (hen : (s.vi n).msixEn = true)
    (hfunc : (s.vi n).funcMask = false) (hbusy : (s.vi n).resetBusy = false) (hpend : ((s.vi n).vec k).pending = true)
    (hmask : ((s.vi n).vec k).mask = false) (hone : ∀ i, i ≠ k → ((s.vi n).vec i).pending = false) :
    sendPending n s = sendHeld n s k := by
  obtain ⟨l₁, l₂, hl, hk₁⟩ := List.eq_append_cons_of_mem (show k ∈ [0, 1, 2, 3] by simp; omega)
  have hnone (i : Nat) : (((sendHeld n s k).vi n).vec i).pending = false := by
    rw [sendHeld_pending hup hen hfunc hbusy hpend hmask]
    split
    · rfl
    · next h => exact hone i h
  rw [sendPending_eq_foldl, hl, List.foldl_append, List.foldl_cons,
    foldl_sendHeld_of_not_pending fun i hi => hone i fun h => hk₁ (h ▸ hi), foldl_sendHeld_of_not_pending fun i _ => hnone i]

/-- The state in which the mask of vector k is cleared through its table entry. -/
def clearMask (n k : Nat) (s : State) : State :=
  s.updVi n fun v => { v with msix := tset v.msix k (((s.vi n).vec k).written 3 0) }

theorem clearMask_vec (i : Nat) :
    ((clearMask n k s).vi n).vec i = if i = k then ((s.vi n).vec k).written 3 0 else (s.vi n).vec i :=
  vec_updVi_tset _ i

/-- Clearing the mask of the one pending vector sends its message. -/
theorem sendPending_clearMask (hk : k < 4) (hup : s.ready = true) (hen : (s.vi n).msixEn = true)
    (hfunc : (s.vi n).funcMask = false) (hbusy : (s.vi n).resetBusy = false) (hpend : ((s.vi n).vec k).pending = true)
    (hone : ∀ i, i ≠ k → ((s.vi n).vec i).pending = false) :
    (sendPending n (clearMask n k s)).msixOut = s.msixOut ++ [s.message n k]
    ∧ (((sendPending n (clearMask n k s)).vi n).vec k).pending = false := by
  have hvi : (clearMask n k s).vi n = { s.vi n with msix := ((clearMask n k s).vi n).msix } := by
    rw [clearMask, State.updVi_vi_same]
  have hvec : ((clearMask n k s).vi n).vec k = ((s.vi n).vec k).written 3 0 := (clearMask_vec k).trans (if_pos rfl)
  have hen1 : ((clearMask n k s).vi n).msixEn = true := by rw [hvi]; exact hen
  have hfunc1 : ((clearMask n k s).vi n).funcMask = false := by rw [hvi]; exact hfunc
  have hbusy1 : ((clearMask n k s).vi n).resetBusy = false := by rw [hvi]; exact hbusy
  have hpend1 : (((clearMask n k s).vi n).vec k).pending = true := by rw [hvec, MsixEntry.written_pending, hpend]
  have hmask1 : (((clearMask n k s).vi n).vec k).mask = false := by rw [hvec]; rfl
  have hone1 (i : Nat) (hi : i ≠ k) : (((clearMask n k s).vi n).vec i).pending = false := by
    rw [clearMask_vec, if_neg hi, hone i hi]
  have hup1 : (clearMask n k s).ready = true := hup
  rw [sendPending_of_one hk hup1 hen1 hfunc1 hbusy1 hpend1 hmask1 hone1]
  refine ⟨?_, (sendHeld_pending hup1 hen1 hfunc1 hbusy1 hpend1 hmask1 k).trans (if_pos rfl)⟩
  rw [sendHeld_of_pending hup1 hen1 hfunc1 hbusy1 hpend1 hmask1]
  have hmsg : (clearMask n k s).message n k = s.message n k := by
    simp only [State.message, hvec]
    rfl
  rw [← hmsg]
  rfl

end

/-- Settles O16: the timer by its condition, a table write by its entry, and a cleared mask by the one message that it
releases. -/
theorem interruptRows : Obligations.InterruptRows := by
  unfold Obligations.InterruptRows
  refine ⟨fun vi c s hvi hc => ?_, fun vi k dw v s hvi hk hdw hon => ?_,
    fun vi k s hvi hk hon hup hen hfunc hbusy hpend hone => ?_⟩
  · rw [exec_irqTimeExpire hvi hc, irqExpire_eq_ite]
  · exact ⟨((s.vi vi).vec k).written dw v, exec_msiXTableWrite hvi hk hdw hon v, MsixEntry.written_fields hdw v _⟩
  · exact ⟨_, exec_msiXTableWrite hvi hk (by decide) hon 0, sendPending_clearMask hk hup hen hfunc hbusy hpend hone⟩

end Sys2Proof.Machine
end

section
/-! PROOFS. The host and management buses: an equation for each request, tick and clock edge, then the statement. -/

namespace Sys2Proof.Machine

open Sys2Proof

/-! ## Configuration requests (R43, R703) -/

section
variable {n ms : Nat} {q : PcieReq} {s : State}

theorem exec_pcieConfigRequest (hn : viOk n = true) : exec (.pcieConfigRequest n ms q) s = .next (configRequest n ms q s) :=
  event_of_ok hn _

/-- The state in which a configuration request has been answered with success or with Request Retry Status. -/
def cfgAnswered (ok : Bool) (s : State) : State :=
  { s with boot := { s.boot with cfgAnswers := s.boot.cfgAnswers ++ [ok] } }

theorem configRequest_of_silent (h : s.boot.stage = 0 ∨ s.viOn n = false) : configRequest n ms q s = s :=
  if_pos (by simpa using h)

theorem configRequest_of_early (hstage : s.boot.stage ≠ 0) (hon : s.viOn n = true) (h : ms < 1000) :
    configRequest n ms q s = cfgAnswered false s := by
  simp [configRequest, hstage, hon, Nat.not_le.mpr h, cfgAnswered]

theorem configRequest_of_late (hstage : s.boot.stage ≠ 0) (hon : s.viOn n = true) (h : 1000 ≤ ms) :
    configRequest n ms q s = configReq n q (cfgAnswered true s) := by
  simp [configRequest, hstage, hon, h, cfgAnswered]

/-! ## SR-IOV (R43) -/

/-- With VF Enable clear, a write sets VF Enable and NumVFs. -/
theorem setVfs_of_disabled (on : Bool) (num : Nat) (h : s.boot.vfEn = false) :
    setVfs on num s = { s with boot := { s.boot with vfEn := on, numVfs := min num 4096 } } := by
  simp [setVfs, h]

/-- With VF Enable set, NumVFs is fixed and a write that leaves it set changes nothing. -/
theorem setVfs_of_kept (num : Nat) (h : s.boot.vfEn = true) : setVfs true num s = s := by
  simp only [setVfs, h, if_true, Bool.not_true, Bool.and_false, Bool.false_eq_true, if_false]
  rw [← h]

/-- Clearing VF Enable resets the VFs. -/
theorem setVfs_of_cleared (num : Nat) (h : s.boot.vfEn = true) :
    setVfs false num s = dropVfs 1 s.boot.numVfs { s with boot := { s.boot with vfEn := false } } := by
  simp [setVfs, h]

end

/-! ## The TAP controller (R738) -/

section
variable {tms tdi : Bool} {s : State}

/-- A rising TCK outside the shift states moves the controller and clears TDO. -/
theorem boundaryScan_of_not_shift (hdr : s.tap.next tms ≠ .shiftDr) (hir : s.tap.next tms ≠ .shiftIr) :
    boundaryScan true tms true s = { s with tap := s.tap.next tms, tdo := false } := by
  simp [boundaryScan, hdr, hir]

/-- In a shift state TDO is free. -/
theorem boundaryScan_of_shift (h : s.tap.next tms = .shiftDr ∨ s.tap.next tms = .shiftIr) :
    boundaryScan true tms true s = { s with tap := s.tap.next tms, tdo := s.freeVal.getLsbD 0, fresh := s.fresh + 1 } :=
  if_pos h

end

/-! ## SPDM and HOURS (R727, R729) -/

section
variable {code : Nat} {s : State}

/-- The module answers a request: its code is listed, and it needs no identity or finds one (R727). -/
def State.spdmOk (s : State) (code : Nat) : Bool :=
  spdmCodes.contains code && (s.boot.identity || !(code == 0x82 || code == 0xE4))

theorem spdmRequest_of_answered (hstage : s.boot.stage ≠ 0) (h : s.spdmOk code = true) : spdmRequest code s =
    { s with boot := { s.boot with answers := s.boot.answers ++ [Config.spdmAnswer code s.measurements s.certChain] } } := by
  rw [State.spdmOk] at h
  simp only [spdmRequest, if_neg hstage, h, if_true]

theorem spdmRequest_of_refused (hstage : s.boot.stage ≠ 0) (h : s.spdmOk code = false) : spdmRequest code s =
    { s with boot := { s.boot with answers := s.boot.answers ++ [Config.spdmError code] } } := by
  rw [State.spdmOk] at h
  simp only [spdmRequest, if_neg hstage, h, Bool.false_eq_true, if_false]

/-- GET_CERTIFICATE and KEY_EXCHANGE need an identity. -/
theorem spdmOk_of_no_identity (hid : s.boot.identity = false) (hcode : code = 0x82 ∨ code = 0xE4) :
    s.spdmOk code = false := by
  simp only [State.spdmOk, hid, Bool.false_or]
  rcases hcode with rfl | rfl <;> decide

theorem spdmOk_of_unlisted (h : spdmCodes.contains code = false) : s.spdmOk code = false := by
  rw [State.spdmOk, h, Bool.false_and]

theorem spdmOk_of_listed (h : spdmCodes.contains code = true)
    (hid : s.boot.identity = true ∨ (code ≠ 0x82 ∧ code ≠ 0xE4)) : s.spdmOk code = true := by
  rw [State.spdmOk, h, Bool.true_and]
  simpa using hid

end

/-- Settles O58: each request of a bus by its equation. -/
theorem hostAndManagementBuses : Obligations.HostAndManagementBuses := by
  unfold Obligations.HostAndManagementBuses
  refine ⟨fun n ms q s hn => ?_, fun s => rfl, fun code s => ?_, fun s => rfl, fun s => ?_, fun tck tms tdi s => ?_⟩
  · rw [exec_pcieConfigRequest hn]
    refine ⟨fun h => by rw [configRequest_of_silent h], fun hstage hon => ?_⟩
    refine ⟨fun h => by rw [configRequest_of_early hstage hon h]; rfl, fun h => ?_⟩
    rw [configRequest_of_late hstage hon h]
    refine ⟨?_, ?_, ?_, ?_, ?_, ?_⟩
    · rintro rfl
      refine ⟨?_, ?_, ?_, ?_⟩ <;> (rintro rfl; rfl)
    · rintro rfl; rfl
    · rintro b rfl rfl; rfl
    · rintro on mask rfl; rfl
    · rintro d rfl; rfl
    · rintro on num rfl rfl
      refine ⟨fun hoff => ?_, fun hvf hon' => ?_, fun hvf hon' => ?_⟩
      · exact congrArg _ (setVfs_of_disabled (s := cfgAnswered true s) on num hoff)
      · subst hon'
        exact congrArg _ (setVfs_of_kept (s := cfgAnswered true s) num hvf)
      · subst hon'
        exact congrArg _ (setVfs_of_cleared (s := cfgAnswered true s) num hvf)
  · refine ⟨fun h => congrArg _ (if_pos h), fun h => ⟨fun hid hcode => ?_, fun hcode => ?_, fun hcode hid => ?_⟩⟩
    · exact congrArg _ (spdmRequest_of_refused h (spdmOk_of_no_identity hid hcode))
    · exact congrArg _ (spdmRequest_of_refused h (spdmOk_of_unlisted hcode))
    · exact congrArg _ (spdmRequest_of_answered h (spdmOk_of_listed hcode hid))
  · exact ⟨fun h => congrArg _ (if_pos (by simp [h])), fun h => congrArg _ (if_neg (by simp [h]))⟩
  · exact ⟨rfl, rfl, fun hdr hir => congrArg _ (boundaryScan_of_not_shift hdr hir), fun h => congrArg _ (boundaryScan_of_shift h)⟩

end Sys2Proof.Machine
end

section
/-! PROOFS. Fetching: where no SQ has a packet to fetch nothing is fetched, and a state in which the tail of an SQ alone moves
although its entry is fit to be fetched. -/

namespace Sys2Proof.Machine

open Sys2Proof

/-! ## Nothing to fetch (R57) -/

/-- Without an SQ that has a packet to fetch, no turn comes. -/
theorem nextFetch_of_no_canFetch {s : State} (h : ∀ n k, s.canFetch n k = false) : s.nextFetch = none := by
  have hturn (n : Nat) : s.turnOf n = none := by
    rw [State.turnOf, List.filter_eq_nil_iff.mpr fun k _ => by simp [h n k]]
    rfl
  rw [State.nextFetch, List.filter_eq_nil_iff.mpr fun n _ => by simp [hturn n]]
  rfl

theorem fetchTurns_of_no_canFetch {s : State} (h : ∀ n k, s.canFetch n k = false) (m : Nat) : fetchTurns m s = s := by
  cases m with
  | zero => rfl
  | succ m => rw [fetchTurns, nextFetch_of_no_canFetch h]

theorem fetchAll_of_no_canFetch {s : State} (h : ∀ n k, s.canFetch n k = false) : fetchAll s = s :=
  fetchTurns_of_no_canFetch h _

/-- An SQ that is not enabled has nothing to fetch. -/
theorem canFetch_of_not_en {s : State} {n k : Nat} (h : ((s.vi n).sq k).en = false) : s.canFetch n k = false := by
  simp [State.canFetch, h]

/-- A full command list of its job holds an entry back (R641). -/
theorem canFetch_of_listFull {s : State} {n k : Nat} (h : listFull (s.nextEntry n k) s = true) : s.canFetch n k = false := by
  simp [State.canFetch, h]

/-! ## A table of VIs out of order

The keys of a table rise, and an entry is then set in its place. The statement O14 ranges over every state, and so over
tables whose keys do not rise: there the entry of a VI may be entered a second time, before the first, and what that VI
holds counts twice toward the command list of a job (R641). -/

namespace UnorderedVis

/-- A packet of job 0. -/
def waits : Packet :=
  { vi := 0, sq := 0, opcode := 0x0101, flags := 0, viTag := 0, jobId := 0, seq := 0, userTag := 0
    p0 := 0, p1 := 0, p2 := 0, p3 := 0, p4 := 0, p5 := 0 }

/-- A job of VI0 that does not run. -/
def job : Job :=
  { id := 0, vi := 0, state := 0, ctxHost := 0, evicted := false, ctxFrames := [], cmdList := [], start := none
    deferred := none, heldFrom := 0, lastRan := 0, preempt := 0, preemptBy := 0, capoFret := 0, cls := 0, lastRoll := none
    everRun := false, seedLo := 0, seedHi := 0, seedLoads := 0, progs := [], funcs := [], gens := [], upds := []
    stepSize := none, passes := [], window := none, rollouts := [], pools := [], models := [], ckpts := [], holds := []
    parities := [], domain := 0 }

/-- SQ 0 of VI0, empty, with m packets of the job held behind a FENCE. -/
def sq (m : Nat) : Sq := { en := true, sizeLog2 := 4, waiting := List.replicate m waits }

/-- VI0 with SQ 0 and CQ 0 of 16 entries. -/
def vi0 (m : Nat) : Vi := { sqs := [(0, sq m)], cqs := [(0, { en := true, sizeLog2 := 4 })] }

/-- A READY module whose table lists VI1 before VI0, with a MOVE of job 0 as the first entry of VI0's SQ 0. -/
def state (m : Nat) : State :=
  { boot := { state := 4 }, jobs := [job], vis := [(1, {}), (0, vi0 m)], hostMem := [(0, 1), (1, 1)] }

/-- The state in which the tail of that SQ has moved to 1. -/
def moved (m : Nat) : State := (state m).updSq 0 0 fun u => { u with tail := 1 }

section
variable {m : Nat}

/-- The table then lists VI0 twice. -/
theorem moved_vis : (moved m).vis = [(0, { vi0 m with sqs := [(0, { sq m with tail := 1 })] }), (1, {}), (0, vi0 m)] := rfl

/-- What waits in the SQ is held for the job. -/
theorem heldOf_state : ((state m).heldOf 0).length = m := by
  have hmine : (waits.job == 0) = true := by decide
  simp [State.heldOf, State.job?, state, job, vi0, sq, hmine]

/-- What waits in the SQ counts once for each time that VI0 is listed. -/
theorem heldOf_moved : ((moved m).heldOf 0).length = m + m := by
  have hmine : (waits.job == 0) = true := by decide
  have hjobs : (moved m).jobs = [job] := rfl
  simp [State.heldOf, State.job?, moved_vis, hjobs, job, vi0, sq, hmine]

/-- The first entry of the ring is a MOVE of job 0. -/
theorem nextEntry_job : ((state m).nextEntry 0 0).job = 0 ∧ ((moved m).nextEntry 0 0).job = 0 := ⟨rfl, rfl⟩

/-- The job's command list is full when 4,096 packets are held for it. -/
theorem listFull_eq {s : State} (hjobs : s.jobs = [job]) {p : Packet} (hp : p.job = 0) :
    listFull p s = decide (4096 ≤ (s.heldOf 0).length) := by
  simp [listFull, State.job?, hjobs, hp, job]

theorem listFull_state : listFull ((state m).nextEntry 0 0) (state m) = decide (4096 ≤ m) := by
  rw [listFull_eq rfl nextEntry_job.1, heldOf_state]

theorem listFull_moved : listFull ((moved m).nextEntry 0 0) (moved m) = decide (4096 ≤ m + m) := by
  rw [listFull_eq rfl nextEntry_job.2, heldOf_moved]

/-- No other SQ is enabled. -/
theorem en_state {n k : Nat} (h : n ≠ 0 ∨ k ≠ 0) : (((state m).vi n).sq k).en = false := by
  by_cases hn : n = 0
  · subst hn
    have hk : ¬0 = k := fun hk => h.elim (· rfl) (· hk.symm)
    have hvi : (state m).vi 0 = vi0 m := rfl
    rw [hvi]
    simp [vi0, Vi.sq, tget, hk]
  · have hvi : (state m).vi n = {} := by simp [State.vi, state, tget, Ne.symm hn]
    rw [hvi]
    rfl

theorem en_moved {n k : Nat} (h : n ≠ 0 ∨ k ≠ 0) : (((moved m).vi n).sq k).en = false := by
  by_cases hn : n = 0
  · subst hn
    have hk : k ≠ 0 := fun hk => h.elim (· rfl) (· hk)
    have hsq : ((moved m).vi 0).sq k = ((state m).vi 0).sq k := by
      rw [moved, State.updSq, State.updVi_vi_same]
      exact tget_tset_of_ne _ _ _ hk
    rw [hsq, en_state h]
  · rw [moved, State.updSq, State.updVi_vi_of_ne _ _ hn, en_state h]

/-- With the command list full by the second listing, the doorbell of the entry moves the tail alone. -/
theorem exec_doorbell (hm : 4096 ≤ m + m) : exec (.sqTailDbWrite 0 0 1) (state m) = .next (moved m) := by
  have hnone (n k : Nat) : (moved m).canFetch n k = false := by
    by_cases h : n ≠ 0 ∨ k ≠ 0
    · exact canFetch_of_not_en (en_moved h)
    · obtain ⟨rfl, rfl⟩ : n = 0 ∧ k = 0 := by omega
      exact canFetch_of_listFull (listFull_moved.trans (decide_eq_true hm))
  have hlog : ((state m).vi 0).sq 0 = sq m := rfl
  rw [exec_sqTailDbWrite rfl (by decide) rfl, sqTail_of_new rfl]
  · exact congrArg _ (fetchAll_of_no_canFetch hnone)
  · rw [hlog]
    exact (by decide : bw 1 15 0 < ringSize 4)
  · rw [hlog]
    exact (by decide : BitVec.toNat (0 : Half) ≠ bw 1 15 0)

end

end UnorderedVis

/-- Refutes O14: with the table of VIs out of order, the doorbell of an entry that is fit to be fetched moves the tail alone,
because the VI then counts twice toward the command list of the entry's job. -/
theorem not_fetchOfOneEntry : ¬ Obligations.FetchOfOneEntry := by
  unfold Obligations.FetchOfOneEntry
  intro h
  have hfetched := (h 0 0 1 (UnorderedVis.state 2048) rfl (by decide) rfl
    (fun n k hne => canFetch_of_not_en (UnorderedVis.en_state hne)) rfl (by decide) (by decide)).2
    rfl rfl rfl (by decide) (by decide) (by decide) (UnorderedVis.listFull_state.trans rfl) rfl
  rw [UnorderedVis.exec_doorbell (by decide)] at hfetched
  have hhead := congrArg (fun t => ((State.vi t 0).sq 0).head) (Host.Outcome.next.inj hfetched)
  exact absurd hhead (by decide)

end Sys2Proof.Machine
end

section
/-! PROOFS. What the operations of a VI reset keep: the jobs there are and their VIs, the commands in progress, and
the VI's being in reset (R74). -/

namespace Sys2Proof.Machine

open Sys2Proof

/-- Every job has an ID and a VI that `J` allows, every command in progress has a packet that `P` allows, and `vi` is in
reset. -/
structure Confined (J : Nat → Nat → Prop) (P : Packet → Prop) (vi : Nat) (s : State) : Prop where
  jobs : ∀ j ∈ s.jobs, J j.id j.vi
  opens : ∀ o ∈ s.opens, P o.pkt
  busy : (s.vi vi).resetBusy = true

variable {J : Nat → Nat → Prop} {P : Packet → Prop} {vi : Nat} {s t : State}

/-! ## The state -/

theorem Confined.of_eq (h : Confined J P vi s) (hjobs : t.jobs = s.jobs) (hopens : t.opens = s.opens)
    (hvis : t.vis = s.vis) : Confined J P vi t where
  jobs := hjobs ▸ h.jobs
  opens := hopens ▸ h.opens
  busy := by rw [State.vi, hvis]; exact h.busy

theorem Confined.fab (h : Confined J P vi s) : Confined J P vi { s with fab := x } := h.of_eq rfl rfl rfl

theorem Confined.ctr (h : Confined J P vi s) : Confined J P vi { s with ctr := x } := h.of_eq rfl rfl rfl

theorem Confined.boot (h : Confined J P vi s) : Confined J P vi { s with boot := x } := h.of_eq rfl rfl rfl

theorem Confined.tiles (h : Confined J P vi s) : Confined J P vi { s with tiles := x } := h.of_eq rfl rfl rfl

theorem Confined.cores (h : Confined J P vi s) : Confined J P vi { s with cores := x } := h.of_eq rfl rfl rfl

theorem Confined.devMem (h : Confined J P vi s) : Confined J P vi { s with devMem := x } := h.of_eq rfl rfl rfl

theorem Confined.sched (h : Confined J P vi s) : Confined J P vi { s with sched := x } := h.of_eq rfl rfl rfl

theorem Confined.nextFree (h : Confined J P vi s) : Confined J P vi s.nextFree := h.of_eq rfl rfl rfl

theorem Confined.updDie (h : Confined J P vi s) : Confined J P vi (s.updDie d f) := h.of_eq rfl rfl rfl

theorem Confined.updCore (h : Confined J P vi s) : Confined J P vi (s.updCore d c f) := h.of_eq rfl rfl rfl

theorem Confined.updStk (h : Confined J P vi s) : Confined J P vi (s.updStk k f) := h.of_eq rfl rfl rfl

theorem Confined.updHub (h : Confined J P vi s) : Confined J P vi (s.updHub k f) := h.of_eq rfl rfl rfl

theorem Confined.updPort (h : Confined J P vi s) : Confined J P vi (s.updPort q f) := h.of_eq rfl rfl rfl

theorem Confined.updFault (h : Confined J P vi s) : Confined J P vi (s.updFault u f) := h.of_eq rfl rfl rfl

theorem Confined.setSpace (h : Confined J P vi s) : Confined J P vi (s.setSpace x m) := by
  cases x <;> exact h.of_eq rfl rfl rfl

/-- A change of jobs that leaves every ID and VI as it was. -/
theorem Confined.updJob {i : Nat} (h : Confined J P vi s)
    (hf : ∀ j : Job, (f j).id = j.id ∧ (f j).vi = j.vi := by exact fun _ => ⟨rfl, rfl⟩) :
    Confined J P vi (s.updJob i f) where
  jobs j hj := by
    obtain ⟨k, hk, rfl⟩ := List.mem_map.mp hj
    split
    · rw [(hf k).1, (hf k).2]
      exact h.jobs k hk
    · exact h.jobs k hk
  opens := h.opens
  busy := h.busy

theorem Confined.setProg (h : Confined J P vi s) : Confined J P vi (s.setProg k g) where
  jobs := h.jobs
  opens o ho := by
    obtain ⟨i, hi, rfl⟩ := List.mem_map.mp ho
    split <;> exact h.opens i hi
  busy := h.busy

/-- A change of one VI that leaves a reset in progress. -/
theorem Confined.updVi (h : Confined J P vi s)
    (hf : ∀ v : Vi, (f v).resetBusy = v.resetBusy := by exact fun _ => rfl) :
    Confined J P vi (s.updVi m f) where
  jobs := h.jobs
  opens := h.opens
  busy := by
    by_cases hm : vi = m
    · subst hm
      rw [State.updVi_vi_same, hf]
      exact h.busy
    · rw [State.updVi_vi_of_ne s f hm]
      exact h.busy

/-- Records and interrupts keep what is confined. -/
theorem Confined.recordFrame (h : Confined J P vi s) (k : RecordFrame s t) : Confined J P vi t where
  jobs := by rw [k.state]; exact h.jobs
  opens o ho := h.opens o (k.opens ho)
  busy := by rw [k.vi]; exact h.busy

theorem Confined.ite {_ : Decidable c} (ht : Confined J P vi s) (he : Confined J P vi t) :
    Confined J P vi (if c then s else t) := by
  split <;> assumption

theorem Confined.ite_fst {_ : Decidable c} {a b : State × α} (ha : Confined J P vi a.1) (hb : Confined J P vi b.1) :
    Confined J P vi (if c then a else b).1 := by
  split <;> assumption

theorem Confined.foldl {f : State → α → State} {l : List α} (h : Confined J P vi s)
    (hf : ∀ {u x}, Confined J P vi u → Confined J P vi (f u x)) : Confined J P vi (l.foldl f s) := by
  induction l generalizing s with
  | nil => exact h
  | cons x l ih => exact ih (hf h)

theorem Confined.closeCmd (h : Confined J P vi s) : Confined J P vi (s.closeCmd k) :=
  h.recordFrame (closeCmd_recordFrame s k)

theorem Confined.raiseVec (h : Confined J P vi s) : Confined J P vi (Machine.raiseVec m k s) :=
  h.recordFrame (raiseVec_recordFrame m k s)

theorem Confined.postRefused (h : Confined J P vi s) : Confined J P vi (Machine.postRefused p st rs r0 r1 s) :=
  h.recordFrame (postRefused_recordFrame p st rs r0 r1 s)

/-! ## Memory of a VI -/

theorem Confined.copySpan (h : Confined J P vi s) : Confined J P vi (s.copySpan x y k) := h.setSpace

theorem Confined.copyRegion (h : Confined J P vi s) : Confined J P vi (Machine.copyRegion m page off s j c) := by
  unfold Machine.copyRegion
  generalize s.mapping m _ = y
  rcases c.slots.find? _ with _ | ⟨_, k, f⟩
  · exact h
  · rcases y with _ | y
    · exact h
    · exact h.copySpan.updJob

theorem Confined.copyAhead (h : Confined J P vi s) : Confined J P vi (Machine.copyAhead m va s) :=
  h.foldl fun h => .ite (h.foldl fun h => .ite h.copyRegion.ctr h) h

theorem Confined.healBurst (h : Confined J P vi s) : Confined J P vi (Machine.healBurst x s) := by
  unfold Machine.healBurst
  split
  · exact h
  · exact .ite h.updStk h

theorem Confined.vwriteRaw (h : Confined J P vi s) : Confined J P vi (Machine.vwriteRaw m va bs s) := by
  induction bs generalizing va s with
  | nil => exact h
  | cons b bs ih =>
    refine ih ?_
    unfold vwrite1
    split
    · exact h
    · exact h.setSpace

theorem Confined.vwrite (h : Confined J P vi s) : Confined J P vi (Machine.vwrite m va bs s) := by
  unfold Machine.vwrite
  extract_lets s1 s2
  have h2 : Confined J P vi s2 := by
    refine (h.foldl .copyAhead).foldl fun hu => .ite ?_ hu
    split
    · exact hu.healBurst
    · exact hu
  split <;> exact h2.vwriteRaw

theorem Confined.vstore_eq (h : Confined J P vi s) (e : vstore p va bs s = (t, x)) : Confined J P vi t := by
  cases e
  exact h.vwrite

theorem Confined.wr (h : Confined J P vi s) : Confined J P vi (Machine.wr m a k x s) := h.vwrite

theorem Confined.setCb (h : Confined J P vi s) : Confined J P vi (Machine.setCb m q a k x s) := h.wr

theorem Confined.setDesc (h : Confined J P vi s) : Confined J P vi (Machine.setDesc m q page x st pin ref s) := h.wr

theorem Confined.pushFree (h : Confined J P vi s) : Confined J P vi (Machine.pushFree m q page s) := by
  simp only [Machine.pushFree]
  exact (Confined.ite h.setDesc.setCb h.setDesc.wr).setCb.setCb

theorem Confined.unpinPage (h : Confined J P vi s) : Confined J P vi (Machine.unpinPage m q page s) :=
  .ite h.setCb.pushFree h.setDesc

/-! ## The end of a packet -/

theorem Confined.markPhase (h : Confined J P vi s) : Confined J P vi (Machine.markPhase job phase s) :=
  h.updJob

theorem Confined.markWork (h : Confined J P vi s) : Confined J P vi (Machine.markWork p s) := h.markPhase

theorem Confined.pushPhase (h : Confined J P vi s) : Confined J P vi (Machine.pushPhase r s) :=
  .ite (h.of_eq rfl rfl rfl) (h.of_eq rfl rfl rfl)

theorem Confined.closeWindow (h : Confined J P vi s) : Confined J P vi (Machine.closeWindow job flags last s) := by
  unfold Machine.closeWindow
  split
  · exact h
  · exact h.pushPhase.updJob.ctr

theorem Confined.closeStep (h : Confined J P vi s) : Confined J P vi (Machine.closeStep p s) := by
  unfold Machine.closeStep
  refine .ite h ?_
  split
  · exact h
  · exact .ite h.closeWindow h.closeWindow.vwrite

theorem Confined.postFinal (h : Confined J P vi s) : Confined J P vi (Machine.postFinal p st rs r0 r1 s) :=
  have hend : Confined J P vi (noteEnd p s) := .ite h.markWork h.closeStep
  hend.postRefused

theorem Confined.postDone (h : Confined J P vi s) : Confined J P vi (Machine.postDone p r0 r1 s) := h.postFinal

theorem Confined.postErr (h : Confined J P vi s) : Confined J P vi (Machine.postErr p rs r0 s) := h.postFinal

/-! ## Tiles and fault units -/

theorem Confined.evrec (h : Confined J P vi s) : Confined J P vi (Machine.evrec code src a b c s) :=
  .ite h (.ite h.boot h.boot)

theorem Confined.addHint (h : Confined J P vi s) : Confined J P vi (Machine.addHint k l d s) := h.of_eq rfl rfl rfl

theorem Confined.notice (h : Confined J P vi s) : Confined J P vi (Machine.notice u a i v sv s) :=
  .ite h (.ite (h.of_eq rfl rfl rfl) (Confined.raiseVec (h.of_eq rfl rfl rfl)))

theorem Confined.dropTest (h : Confined J P vi s) : Confined J P vi (Machine.dropTest d s) := .ite h h.updDie

theorem Confined.idleUnit (h : Confined J P vi s) : Confined J P vi (Machine.idleUnit d c u s) := h.updCore

theorem Confined.abortSlot (h : Confined J P vi s) : Confined J P vi (Machine.abortSlot d s) :=
  have hback : Confined J P vi (handBack d s) := .ite h (h.updDie.foldl .idleUnit).tiles
  hback.dropTest

theorem Confined.standIn (h : Confined J P vi s) : Confined J P vi (Machine.standIn d c s) :=
  (((Confined.ite h.dropTest h.abortSlot).updCore.updCore.updDie).foldl .idleUnit).tiles

theorem Confined.leaveStandby (h : Confined J P vi s) : Confined J P vi (Machine.leaveStandby d s) :=
  (Confined.ite h.dropTest h.abortSlot).updDie

theorem Confined.unpinAll (h : Confined J P vi s) : Confined J P vi (Machine.unpinAll k s) := by
  unfold Machine.unpinAll
  split
  · split
    · refine .ite h ?_
      split
      · exact (h.foldl .unpinPage).setProg
      · exact h.setProg
    · exact h
  · exact h

theorem Confined.spoilGrads (h : Confined J P vi s) : Confined J P vi (Machine.spoilGrads k s) := by
  unfold Machine.spoilGrads
  split
  · split
    · exact h.foldl fun h => h.nextFree.vwrite
    · exact h
  · exact h

theorem Confined.dropTiles (h : Confined J P vi s) : Confined J P vi (Machine.dropTiles k s) :=
  Confined.foldl (h.spoilGrads.unpinAll.of_eq rfl rfl rfl) .idleUnit

theorem Confined.dropWork (h : Confined J P vi s) : Confined J P vi (Machine.dropWork k s) :=
  Confined.fab (h.dropTiles.of_eq rfl rfl rfl)

theorem Confined.endTilesOf (h : Confined J P vi s) : Confined J P vi (Machine.endTilesOf d c rs k s) := by
  induction k generalizing s with
  | zero => exact h
  | succ k ih =>
    unfold Machine.endTilesOf
    split
    · exact h
    · dsimp only
      split
      · exact ih h.dropTiles
      · exact ih h.dropTiles.postFinal.ctr

theorem Confined.withdraw (h : Confined J P vi s) : Confined J P vi (Machine.withdraw b s) := by
  cases b with
  | core d c => exact (Confined.ite h (.ite h.standIn (Confined.ite h.leaveStandby h).updCore.endTilesOf)).addHint
  | mover => exact h.updDie.addHint
  | sampler => exact h.updDie.addHint
  | hubEngine => exact h.updHub.addHint
  | weir => exact h.fab.addHint
  | stackCtl => exact h
  | tributary => exact h

theorem Confined.startBlockReset (h : Confined J P vi s) : Confined J P vi (Machine.startBlockReset b s) :=
  .ite h (h.of_eq rfl rfl rfl)

theorem Confined.applyMask (h : Confined J P vi s) : Confined J P vi (Machine.applyMask u mask info vec severe s) := by
  unfold Machine.applyMask
  extract_lets on s1 s2 s3 s4 _ s5 s6
  have h3 : Confined J P vi s3 :=
    have h1 : Confined J P vi s1 := .ite h.notice h
    have h2 : Confined J P vi s2 := .ite h1.updFault h1
    .ite h2.updFault h2
  have h5 : Confined J P vi s5 :=
    have h4 : Confined J P vi s4 := .ite h3.evrec h3
    .ite h4.boot h4
  have h6 : Confined J P vi s6 := by
    unfold s6
    split
    · exact h5
    · have hw : ∀ b, Confined J P vi (if on 1 then Machine.withdraw b s5 else s5) := fun _ => .ite h5.withdraw h5
      exact .ite (hw _).startBlockReset (hw _)
  exact .ite h6.boot h6

theorem Confined.faultEvents (h : Confined J P vi s) : Confined J P vi (Machine.faultEvents u k info s) := by
  unfold Machine.faultEvents
  refine .ite h ?_
  rcases unitCfg u (s.fault u) with ⟨thr, w, sv, mn, vec⟩
  exact h.updFault.applyMask

theorem Confined.faultEvent1 (h : Confined J P vi s) : Confined J P vi (Machine.faultEvent1 u info s) := h.faultEvents

theorem Confined.recordUe (h : Confined J P vi s) : Confined J P vi (Machine.recordUe m va s) := by
  unfold Machine.recordUe
  split
  · exact h.updStk.faultEvent1
  · exact h

theorem Confined.memFail (h : Confined J P vi s) : Confined J P vi (Machine.memFail p e s) := by
  cases e with
  | notMapped => exact h.postFinal
  | parity => exact h.postFinal
  | ue => exact h.recordUe.postFinal

theorem Confined.finishMem {r : State × Option MemErr} (h : Confined J P vi r.1) :
    Confined J P vi (Machine.finishMem p r r0 r1) := by
  unfold Machine.finishMem
  split
  · exact h.memFail
  · exact h.postDone

end Sys2Proof.Machine

end

section
/-! PROOFS. What a VI reset keeps while packets move on the fabric and the commands of chapter 12 go on. -/

namespace Sys2Proof.Machine

open Sys2Proof

variable {J : Nat → Nat → Prop} {P : Packet → Prop} {vi : Nat} {s t : State}

/-! ## Packets and chunks -/

theorem Confined.countTx (h : Confined J P vi s) : Confined J P vi (Machine.countTx q k s) := h.updPort

theorem Confined.putLine (h : Confined J P vi s) : Confined J P vi (Machine.putLine q f s) := h.fab.countTx

theorem Confined.drainPort (h : Confined J P vi s) : Confined J P vi (Machine.drainPort q k s) := by
  induction k generalizing s with
  | zero => exact h
  | succ k ih =>
    unfold Machine.drainPort
    dsimp only
    split
    · exact .ite h (ih h.updPort.putLine)
    · split
      · exact h
      · exact ih h.updPort

theorem Confined.putPort (h : Confined J P vi s) : Confined J P vi (Machine.putPort q p s) :=
  .ite h.fab.countTx h.updPort.drainPort

theorem Confined.sendPkt (h : Confined J P vi s) : Confined J P vi (Machine.sendPkt p s) := by
  unfold Machine.sendPkt
  refine .ite h.fab ?_
  split
  · exact h
  · exact h.fab.putPort

theorem Confined.sendPkts (h : Confined J P vi s) : Confined J P vi (Machine.sendPkts ps s) := h.foldl .sendPkt

theorem Confined.sendChunk (h : Confined J P vi s) : Confined J P vi (Machine.sendChunk cmd code hd d s) :=
  h.fab.sendPkts

theorem Confined.sendGroup (h : Confined J P vi s) :
    Confined J P vi (Machine.sendGroup p g op m k kind first per d s) :=
  h.fab.sendPkts

theorem Confined.setSeq (h : Confined J P vi s) : Confined J P vi (Machine.setSeq dst code k s) := h.fab

theorem Confined.setRx (h : Confined J P vi s) : Confined J P vi (Machine.setRx c s) := h.fab

theorem Confined.dropChunk (h : Confined J P vi s) : Confined J P vi (Machine.dropChunk c s) := h.fab

theorem Confined.resend (h : Confined J P vi s) : Confined J P vi (Machine.resend c s) := h.fab.sendPkts

theorem Confined.sendAck (h : Confined J P vi s) : Confined J P vi (Machine.sendAck p s) := h.sendPkt

theorem Confined.sendNak (h : Confined J P vi s) : Confined J P vi (Machine.sendNak p cause s) :=
  (Confined.ite h.fab h).sendPkt

theorem Confined.sendDeny (h : Confined J P vi s) : Confined J P vi (Machine.sendDeny p st rs r0 s) := h.fab.sendPkt

theorem Confined.sendReq (h : Confined J P vi s) : Confined J P vi (Machine.sendReq cmd dst job chan src r s) :=
  h.setSeq.sendChunk

theorem Confined.sendGrant (h : Confined J P vi s) : Confined J P vi (Machine.sendGrant w s) := h.sendPkt

theorem Confined.sendAnswerPkt (h : Confined J P vi s) : Confined J P vi (Machine.sendAnswerPkt p kind job dest d s) :=
  h.sendChunk

theorem Confined.takeChunk (h : Confined J P vi s) : Confined J P vi (Machine.takeChunk p code s).1 :=
  .ite_fst (.ite_fst h.setRx (.ite_fst h.setRx h.setRx)) (.ite_fst h (.ite_fst h h))

theorem Confined.assembleChunk (h : Confined J P vi s) : Confined J P vi (Machine.assembleChunk p code s).1 :=
  .ite_fst h.setRx h.setRx

/-! ## Checkpoint images and memory requests -/

theorem Confined.updHold (h : Confined J P vi s) :
    Confined J P vi (Machine.updHold job k f s) := h.updJob

theorem Confined.updCkpt (h : Confined J P vi s) : Confined J P vi (Machine.updCkpt job k f s) := h.updJob

theorem Confined.setParity (h : Confined J P vi s) : Confined J P vi (Machine.setParity job y s) := h.updJob

theorem Confined.freeOxbow (h : Confined J P vi s) : Confined J P vi (Machine.freeOxbow l s) := h.foldl .devMem

theorem Confined.landRegions (h : Confined J P vi s) : Confined J P vi (Machine.landRegions job k i ds s) := by
  induction ds generalizing i s with
  | nil => exact h
  | cons d ds ih =>
    unfold Machine.landRegions
    split
    · exact h
    · refine ih ?_
      split
      · exact h.updHold.devMem
      · exact h.updHold

theorem Confined.contribute_eq (h : Confined J P vi s) (e : contribute job group rank k d s = some t) :
    Confined J P vi t := by
  unfold contribute at e
  split at e
  · cases e
  · split at e
    · cases e
    · cases e
      exact h.devMem.setParity

theorem Confined.beginParity_eq (h : Confined J P vi s)
    (e : beginParity job group st rk g k rank regions shards s = some t) : Confined J P vi t := by
  unfold beginParity at e
  split at e
  · cases e
  · dsimp only at e
    split at e
    · cases e
      exact h.updJob
    · obtain ⟨fr, -, rfl⟩ := Option.map_eq_some_iff.mp e
      exact h.updJob

theorem Confined.imgWrite (h : Confined J P vi s) : Confined J P vi (Machine.imgWrite job domain src a d s).1 := by
  unfold Machine.imgWrite
  extract_lets f1 f2 off deny done
  have hdone : ∀ x : Option State, (∀ u, x = some u → Confined J P vi u) → Confined J P vi (done x).1 := by
    rintro (_ | u) hx
    · exact h
    · exact hx u rfl
  split
  · exact h
  · split
    · split
      · exact h.landRegions
      · exact h
    · split
      · exact h.updHold
      · exact h
    · exact hdone _ fun _ e => h.contribute_eq e
    · refine hdone _ fun u e => ?_
      obtain ⟨x, -, rfl⟩ := Option.map_eq_some_iff.mp e
      exact h.setParity
    · split
      · split
        · exact h
        · exact h.updHold
      · exact h
    · split
      · exact hdone _ fun _ e => h.beginParity_eq e
      · exact h
    · split
      · split
        · exact h.updHold
        · exact h
      · exact h.freeOxbow.updJob
    · exact h

theorem Confined.doReq (h : Confined J P vi s) : Confined J P vi (Machine.doReq job domain r s).1 := by
  unfold Machine.doReq
  split
  · exact h
  · cases r <;> dsimp only
    case put => exact h.vwrite
    case get =>
      split <;> exact h
    case atomic =>
      split
      · exact h.vwrite
      · exact h
    case signal =>
      split
      · exact h.vwrite
      · exact h

theorem Confined.restartChecks (h : Confined J P vi s) : Confined J P vi (Machine.restartChecks job a len s) := by
  have hcheck {u hd i c} (hu : Confined J P vi u) : Confined J P vi (setChecked job hd i c u) := hu.updJob
  unfold Machine.restartChecks
  split
  · exact h
  · exact h.foldl fun h => h.foldl fun h => .ite (hcheck h) h

theorem Confined.doReqAny (h : Confined J P vi s) : Confined J P vi (Machine.doReqAny job domain src r s).1 := by
  unfold Machine.doReqAny
  split
  · split
    · exact h.imgWrite
    · dsimp only
      split
      · exact h.doReq.restartChecks
      · exact h.doReq
  · split
    · exact h
    · exact h.doReq
  · exact h.doReq

/-! ## Checkpoints -/

theorem Confined.dropCkpt (h : Confined J P vi s) : Confined J P vi (Machine.dropCkpt job k s) := by
  unfold Machine.dropCkpt
  split
  · exact h
  · exact h.freeOxbow.freeOxbow.updJob

theorem Confined.denyTake (h : Confined J P vi s) : Confined J P vi (Machine.denyTake p job k st rs r0 s) := by
  unfold Machine.denyTake
  split
  · exact .ite h.dropWork.dropCkpt.postFinal h.dropWork.updCkpt.ctr.postFinal
  · exact h.postFinal

theorem Confined.freezeCkpt (h : Confined J P vi s) : Confined J P vi (Machine.freezeCkpt job k s) := by
  unfold Machine.freezeCkpt
  split
  · exact (h.foldl .dropCkpt).markPhase.updCkpt
  · exact h

theorem Confined.takeAnswer (h : Confined J P vi s) : Confined J P vi (Machine.takeAnswer p job k s) := by
  unfold Machine.takeAnswer
  split
  · exact h
  · exact .ite h.updCkpt.ctr.freezeCkpt h.updCkpt.ctr.markPhase

theorem Confined.writeTargets (h : Confined J P vi s) : Confined J P vi (Machine.writeTargets p l s).1 := by
  induction l generalizing s with
  | nil => exact h
  | cons x l ih =>
    unfold Machine.writeTargets
    split
    next e => exact h.vstore_eq e
    next e => exact ih (h.vstore_eq e)

theorem Confined.finishRestore (h : Confined J P vi s) : Confined J P vi (Machine.finishRestore p r s) := by
  have hscramble {l u} (hu : Confined J P vi u) : Confined J P vi (scrambleTargets p l u) :=
    hu.foldl fun h => h.nextFree.vwrite
  unfold Machine.finishRestore
  dsimp only
  split
  · exact h.markPhase.writeTargets.finishMem
  · split
    · exact (hscramble h.markPhase).vwrite.memFail
    · exact (hscramble h.markPhase).vwrite.postFinal

theorem Confined.stepRestore_eq (h : Confined J P vi s) (e : stepRestore p got s = .inr t) : Confined J P vi t := by
  unfold stepRestore at e
  split at e <;> cases e
  · exact h.finishRestore
  · exact h.postFinal
  · exact h.memFail

theorem Confined.stepReadback_eq (h : Confined J P vi s) (e : stepReadback p job k got s = .inr t) :
    Confined J P vi t := by
  unfold stepReadback at e
  split at e
  · cases e
    exact h.postErr
  · split at e <;> cases e
    · exact h.updCkpt.postDone
    · exact h.updCkpt.ctr.postFinal
    · exact h.postFinal
    · exact h.memFail

end Sys2Proof.Machine

end

section
/-! PROOFS. What a VI reset keeps while the commands that wait on fabric traffic advance, and while packets that
waited for a page in motion are taken. -/

namespace Sys2Proof.Machine

open Sys2Proof

variable {J : Nat → Nat → Prop} {P : Packet → Prop} {vi : Nat} {s t : State}

/-! ## What a command wants next -/

/-- A command that advances without traffic advances to a state that `C` holds of. -/
def Want.Goes (C : State → Prop) : Want → Prop
  | .go t => C t
  | _ => True

theorem Confined.unpinSend (h : Confined J P vi s) : Confined J P vi (Machine.unpinSend p l s) := by
  unfold Machine.unpinSend
  split
  · exact h.foldl .unpinPage
  · exact h

theorem Confined.wantRemote (h : Confined J P vi s) : (Machine.wantRemote p done s).Goes (Confined J P vi) := by
  unfold Machine.wantRemote
  dsimp only
  split
  · split
    · split <;> trivial
    · split
      · trivial
      · exact h.memFail
  all_goals trivial

theorem Confined.wantSend (h : Confined J P vi s) :
    (Machine.wantSend p phase page off pages got s).Goes (Confined J P vi) := by
  unfold Machine.wantSend
  split
  · trivial
  · dsimp only
    split
    case h_1 =>
      split
      · exact (h.foldl fun h => h.setDesc).setProg
      · trivial
    case h_5 =>
      split
      · exact h.setProg
      · exact h.unpinSend.memFail
    all_goals trivial

theorem Confined.startPush (h : Confined J P vi s) : Confined J P vi (Machine.startPush p m s) := by
  unfold Machine.startPush
  dsimp only
  split
  · exact h.postErr
  · exact h.setProg

theorem Confined.wantPush (h : Confined J P vi s) :
    (Machine.wantPush p phase i off got s).Goes (Confined J P vi) := by
  unfold Machine.wantPush
  split
  · trivial
  · dsimp only
    split
    case h_1 =>
      split
      · trivial
      · exact h.startPush
    case h_7 =>
      split
      · trivial
      · exact h.memFail
    case h_8 =>
      split
      · trivial
      · exact h.memFail
    all_goals trivial

theorem Confined.wantOf (h : Confined J P vi s) : (Machine.wantOf o s).Goes (Confined J P vi) := by
  unfold Machine.wantOf
  dsimp only
  split
  · split
    · trivial
    · exact h.wantRemote
  · exact h.wantSend
  · exact h.wantPush
  · split
    · trivial
    · split <;> trivial
  · split
    · split <;> trivial
    · trivial
  · split
    · trivial
    next e => exact h.stepRestore_eq e
  · split
    · trivial
    next e => exact h.stepReadback_eq e
  · trivial

/-! ## What an answer does -/

theorem Confined.endRemote (h : Confined J P vi s) : Confined J P vi (Machine.endRemote p r0 s) := by
  have hctr : Confined J P vi (raiseCtr p (localCtr p) 1 s).1 := by
    unfold raiseCtr
    split
    · exact h
    · split
      · exact h.vwrite
      · exact h
  exact hctr.finishMem

theorem Confined.remoteAnswer (h : Confined J P vi s) : Confined J P vi (Machine.remoteAnswer p done ab d s) := by
  unfold Machine.remoteAnswer
  dsimp only
  split
  · exact .ite h.postFinal (.ite h.endRemote (.ite h.endRemote h.setProg))
  · split
    · exact h.vwrite.memFail
    · exact .ite h.vwrite.postFinal (.ite h.vwrite.endRemote h.vwrite.setProg)
  · have hstore : Confined J P vi (if p.p1 = 0 then (s, none) else vstore p p.p1.toNat d s).1 := .ite_fst h h.vwrite
    split
    · exact hstore.memFail
    · exact .ite hstore.postFinal hstore.endRemote
  · exact .ite h.postFinal h.endRemote

theorem Confined.sendAnswer (h : Confined J P vi s) :
    Confined J P vi (Machine.sendAnswer p phase page off pages got d s) := by
  unfold Machine.sendAnswer
  split
  · exact h
  · dsimp only
    split
    · exact h.setProg
    · exact .ite (.ite h.postDone h.setProg) h.unpinSend.postErr
    · exact h.setProg
    · exact .ite h.setProg h.setProg
    · exact h.setProg
    · exact .ite h.unpinSend.postDone h.setProg

theorem Confined.stopPush (h : Confined J P vi s) : Confined J P vi (Machine.stopPush p i rs s) := h.postErr

theorem Confined.pushNext (h : Confined J P vi s) : Confined J P vi (Machine.pushNext p m got k i a b c s) := by
  induction k generalizing i a b c with
  | zero => exact h.postDone
  | succ k ih => exact .ite ih h.setProg

theorem Confined.pushOn (h : Confined J P vi s) : Confined J P vi (Machine.pushOn p m got i a b c s) := h.pushNext

theorem Confined.pushClaim (h : Confined J P vi s) : Confined J P vi (Machine.pushClaim p m got i a b c u w s) := by
  unfold Machine.pushClaim
  split
  · exact h.setProg
  · exact h.setProg
  · exact .ite h.pushOn h.stopPush
  · exact .ite h.stopPush h.setProg
  · exact .ite h.stopPush h.setProg
  · exact h.stopPush
  · exact h.stopPush

theorem Confined.pushAnswer (h : Confined J P vi s) :
    Confined J P vi (Machine.pushAnswer p phase i off a b c u got d s) := by
  unfold Machine.pushAnswer
  split
  · exact h
  · dsimp only
    split
    · exact .ite h.postErr h.setProg
    · refine .ite h.setProg ?_
      split
      · exact h.stopPush
      · exact h.pushNext
    · exact h.pushClaim
    · exact .ite h.setProg h.pushClaim
    · exact h.setProg
    · exact h.setProg
    · exact h.setProg
    · exact .ite h.setProg h.pushOn
    · exact h

theorem Confined.donePass (h : Confined J P vi s) : Confined J P vi (Machine.donePass p since waited total s) :=
  h.updJob.nextFree.ctr.postDone

theorem Confined.answer (h : Confined J P vi s) : Confined J P vi (Machine.answer o dst job addr r s) := by
  have hs : Confined J P vi (Machine.markWork o.pkt s) := h.markWork
  unfold Machine.answer
  dsimp only
  split
  · exact hs.setProg
  · exact hs.setProg
  · exact hs.denyTake
  · exact hs.takeAnswer
  · exact hs.remoteAnswer
  · exact .ite hs.postFinal hs.postFinal
  · exact hs.sendAnswer
  · exact hs.unpinSend.postFinal
  · exact hs.pushAnswer
  · exact .ite hs.setProg hs.donePass
  · exact hs.postFinal
  · exact hs

theorem Confined.issue (h : Confined J P vi s) : Confined J P vi (Machine.issue o dst job chan r s) :=
  .ite h.markWork.doReqAny.answer h.markWork.sendReq

theorem Confined.advanceOne_eq (h : Confined J P vi s) (e : advanceOne o s = some t) : Confined J P vi t := by
  have hwant : (Machine.wantOf o s).Goes (Confined J P vi) := h.wantOf
  unfold advanceOne at e
  split at e
  · cases e
  · split at e
    · cases e
    next hgo =>
      cases e
      rw [hgo] at hwant
      exact hwant
    · split at e
      · cases e
      · split at e
        · cases e
        · cases e
          exact h.issue

theorem Confined.pump (h : Confined J P vi s) : Confined J P vi (Machine.pump s) := by
  have hpump : ∀ k, ∀ {u}, Confined J P vi u → Confined J P vi (pumpN k u) := by
    intro k
    induction k with
    | zero => exact fun hu => hu
    | succ k ih =>
      intro u hu
      unfold pumpN
      split
      next e =>
        obtain ⟨o, -, ho⟩ := List.exists_of_findSome?_eq_some e
        exact ih (hu.advanceOne_eq ho)
      · exact hu
  exact hpump _ h

end Sys2Proof.Machine

end

section
/-! PROOFS. What a VI reset keeps while group operations advance and while the module takes the packets that waited for
a page in motion (R488). -/

namespace Sys2Proof.Machine

open Sys2Proof

variable {J : Nat → Nat → Prop} {P : Packet → Prop} {vi : Nat} {s t : State}

/-! ## Groups -/

theorem Confined.settleGroups (h : Confined J P vi s) : Confined J P vi (Machine.settleGroups s) := by
  refine h.foldl fun hu => ?_
  split
  · split
    · split
      · exact Confined.postDone hu.fab
      · exact hu
    · exact hu.postDone
  · exact hu

theorem Confined.leaveGroup (h : Confined J P vi s) : Confined J P vi (Machine.leaveGroup p num op s) :=
  h.dropWork.fab.fab

theorem Confined.endColl (h : Confined J P vi s) : Confined J P vi (Machine.endColl p num op st rs r0 r1 s) :=
  h.leaveGroup.postFinal.settleGroups

theorem Confined.failColl (h : Confined J P vi s) : Confined J P vi (Machine.failColl p num op e s) :=
  h.leaveGroup.memFail.settleGroups

theorem Confined.startColl (h : Confined J P vi s) : Confined J P vi (Machine.startColl p g op out recv s) := by
  unfold Machine.startColl
  refine .ite ?_ h.setProg
  split
  · exact h.setProg.failColl
  · split
    next e => exact (h.setProg.vstore_eq e).failColl
    next e => exact h.setProg.vstore_eq e

theorem Confined.sendNext_eq (h : Confined J P vi s) (e : sendNext p g op out s = some t) : Confined J P vi t := by
  unfold sendNext at e
  dsimp only at e
  split at e
  · cases e
  · split at e
    · cases e
      exact h.markPhase.sendGroup
    · split at e <;> cases e
      · exact h.markPhase.sendGroup
      · exact h.failColl

theorem Confined.advanceColl_eq (h : Confined J P vi s) (e : advanceColl g s = some t) : Confined J P vi t := by
  unfold advanceColl at e
  split at e
  · split at e
    · split at e
      · rw [← Option.some.inj e]
        exact h.startColl
      · cases e
    · split at e
      · cases e
        exact h.endColl
      · split at e
        · exact h.sendNext_eq e
        · cases e
  · cases e

theorem Confined.pumpGroups (h : Confined J P vi s) : Confined J P vi (Machine.pumpGroups k s) := by
  induction k generalizing s with
  | zero => exact h
  | succ k ih =>
    unfold Machine.pumpGroups
    split
    next e =>
      obtain ⟨g, -, hg⟩ := List.exists_of_findSome?_eq_some e
      exact ih (h.advanceColl_eq hg)
    · exact h

theorem Confined.openSlot (h : Confined J P vi s) : Confined J P vi (Machine.openSlot w s) := by
  unfold Machine.openSlot
  split
  · refine .ite h.fab ?_
    split
    · exact h.fab
    · exact h.failColl
  · exact h

theorem Confined.nextGrant_eq (h : Confined J P vi s) (e : nextGrant half s = some (w, t)) : Confined J P vi t := by
  unfold nextGrant at e
  dsimp only at e
  split at e
  · cases e
    exact h
  · split at e
    · cases e
    · split at e
      · cases e
        exact h
      · split at e
        · cases e
        · obtain ⟨w', -, hw⟩ := Option.map_eq_some_iff.mp e
          cases hw
          exact h.fab

theorem Confined.grantOne_eq (h : Confined J P vi s) (e : grantOne half s = some t) : Confined J P vi t := by
  obtain ⟨⟨w, u⟩, hu, rfl⟩ := Option.map_eq_some_iff.mp e
  have hdrop : Confined J P vi (dropWait w u) := (h.nextGrant_eq hu).fab
  have hslot : Confined J P vi (if ((dropWait w u).slot? w.job w.group w.op w.chunk).isSome then dropWait w u
      else Machine.openSlot w (dropWait w u)) := .ite hdrop hdrop.openSlot
  exact .ite hslot.sendGrant hslot

theorem Confined.grantAll (h : Confined J P vi s) : Confined J P vi (Machine.grantAll half k s) := by
  induction k generalizing s with
  | zero => exact h
  | succ k ih =>
    unfold Machine.grantAll
    split
    next e => exact ih (h.grantOne_eq e)
    · exact h

theorem Confined.pumpAll (h : Confined J P vi s) : Confined J P vi (Machine.pumpAll s) := h.pump.grantAll.grantAll.pumpGroups

/-! ## Requests and answers -/

theorem Confined.applyReq (h : Confined J P vi s) : Confined J P vi (Machine.applyReq p d s) := by
  unfold Machine.applyReq
  dsimp only
  split
  · exact h.doReqAny.sendDeny
  · split
    · exact h.doReqAny.sendAck
    · exact h.doReqAny.sendAnswerPkt
    · exact h.doReqAny.sendAnswerPkt

theorem Confined.crcBad (h : Confined J P vi s) : Confined J P vi (Machine.crcBad p code s) :=
  .ite h.sendNak.faultEvent1 h.sendNak

theorem Confined.scrambleChunk (h : Confined J P vi s) : Confined J P vi (Machine.scrambleChunk p d s) := by
  unfold Machine.scrambleChunk
  refine .ite h ?_
  split
  · exact h.nextFree.vwrite
  · exact h

theorem Confined.takeRequest (h : Confined J P vi s) : Confined J P vi (Machine.takeRequest p s) := by
  unfold Machine.takeRequest
  dsimp only
  split
  · exact h.takeChunk
  · exact h.takeChunk.applyReq.pumpAll
  · exact h.takeChunk.scrambleChunk.crcBad
  · exact h.takeChunk.sendNak
  · split
    · exact h.takeChunk.resend
    · exact h.takeChunk.sendAck

theorem Confined.endByChunk (h : Confined J P vi s) : Confined J P vi (Machine.endByChunk c st rs r0 s) := by
  unfold Machine.endByChunk
  split
  · exact h
  · split
    · exact h.endColl
    · exact .ite h.dropWork.postFinal h.answer
    · exact .ite h.dropWork.postFinal h.answer
    · exact h.answer

theorem Confined.chunkFailed (h : Confined J P vi s) : Confined J P vi (Machine.chunkFailed c again s) :=
  .ite (.ite (Confined.resend h.fab) h.fab) (Confined.ite h.dropChunk.setSeq h.dropChunk).endByChunk

theorem Confined.takeAnswerPkt (h : Confined J P vi s) : Confined J P vi (Machine.takeAnswerPkt p s) := by
  unfold Machine.takeAnswerPkt
  dsimp only
  split
  · exact h.assembleChunk
  · split
    · exact .ite h.assembleChunk.sendAck h.assembleChunk.crcBad
    · split
      · split
        · have hscramble {o a d} {u : State} (hu : Confined J P vi u) : Confined J P vi (scrambleAnswer o a d u) :=
            .ite hu.nextFree.vwrite hu
          exact (hscramble h.assembleChunk).crcBad.chunkFailed.pumpAll
        · exact h.assembleChunk.crcBad.chunkFailed.pumpAll
      · split
        · exact h.assembleChunk.sendAck.dropChunk.pumpAll
        · exact h.assembleChunk.sendAck.dropChunk.answer.pumpAll

theorem Confined.bumpOut (h : Confined J P vi s) : Confined J P vi (Machine.bumpOut c o s) := by
  unfold Machine.bumpOut
  split
  · split
    · exact h.setProg
    · exact h
  · exact h

theorem Confined.takeAck (h : Confined J P vi s) : Confined J P vi (Machine.takeAck p s) := by
  unfold Machine.takeAck
  split
  · exact h
  · refine .ite h.dropChunk (.ite ?_ (.ite ?_ h))
    · split
      · exact h.dropChunk.pumpAll
      · exact h.dropChunk.answer.pumpAll
    · split
      · exact h.dropChunk.pumpAll
      · exact h.dropChunk.bumpOut.pumpAll

theorem Confined.takeNak (h : Confined J P vi s) : Confined J P vi (Machine.takeNak p s) := by
  unfold Machine.takeNak
  split
  · exact h
  · exact .ite (.ite h.dropChunk h.chunkFailed.pumpAll) h.resend

theorem Confined.takeDeny (h : Confined J P vi s) : Confined J P vi (Machine.takeDeny p s) := by
  unfold Machine.takeDeny
  split
  · exact h
  · exact h.dropChunk.endByChunk.pumpAll

/-! ## Grants and group data -/

theorem Confined.mismatch (h : Confined J P vi s) : Confined J P vi (Machine.mismatch p o num op s) :=
  h.sendPkt.endColl.pumpAll

theorem Confined.takeGrantReq (h : Confined J P vi s) : Confined J P vi (Machine.takeGrantReq p s) := by
  unfold Machine.takeGrantReq
  split
  · exact h.sendDeny
  · dsimp only
    split
    · exact h
    · split
      · split
        · split
          · exact h.mismatch
          · exact .ite h.mismatch (.ite h.sendGrant (.ite h (Confined.pumpAll h.fab)))
        · exact h
      · refine .ite h ?_
        split
        · exact .ite h (Confined.pumpAll h.fab)
        · exact h

theorem Confined.weirNarrow (h : Confined J P vi s) : Confined J P vi (Machine.weirNarrow job w half vs s).2 := by
  have hgens {x} : Confined J P vi (s.putGens job x) := by
    unfold State.putGens
    dsimp only
    split
    · exact h.updJob.cores
    · exact h.of_eq rfl rfl rfl
  exact hgens

theorem Confined.redData_eq (h : Confined J P vi s) (e : redData p x run k s = .ok (d, t)) : Confined J P vi t := by
  unfold redData at e
  dsimp only at e
  split at e
  · cases e
  · split at e <;> cases e
    · exact h
    · exact h.weirNarrow

theorem Confined.takeGrant (h : Confined J P vi s) : Confined J P vi (Machine.takeGrant p s) := by
  unfold Machine.takeGrant
  dsimp only
  split
  · exact h
  · split
    · split
      · split
        · exact h.dropChunk.setProg.markPhase.failColl.pumpAll
        next e => exact (h.dropChunk.setProg.markPhase.redData_eq e).sendGroup
      · exact h
    · exact h

theorem Confined.countIn (h : Confined J P vi s) : Confined J P vi (Machine.countIn o g m s) := by
  unfold Machine.countIn
  split
  · exact h.setProg
  · exact h

theorem Confined.slotResult (h : Confined J P vi s) : Confined J P vi (Machine.slotResult job x sl s).2 := by
  unfold Machine.slotResult
  split
  · exact h
  · exact h.weirNarrow

theorem Confined.writeElems_eq (h : Confined J P vi s) (e : writeElems p fmt base total k d s = (t, x)) :
    Confined J P vi t := by
  unfold writeElems andThen at e
  split at e <;> cases e
  · exact h.vwrite
  · exact h.vwrite.vwrite

theorem Confined.applyRed (h : Confined J P vi s) : Confined J P vi (Machine.applyRed p o g op m k senders d s) := by
  unfold Machine.applyRed
  dsimp only
  split
  · exact h.sendNak
  · refine .ite (Confined.fab h.markPhase).countIn.sendAck.pumpAll ?_
    have hres {x sl l} : Confined J P vi (Machine.slotResult o.pkt.job x sl
        { Machine.markPhase o.pkt.job 4 s with fab := l }).2 := (Confined.fab h.markPhase).slotResult
    split
    next e => exact (hres.writeElems_eq e).failColl.pumpAll
    next e => exact (hres.writeElems_eq e).countIn.sendAck.pumpAll

theorem Confined.applyColl (h : Confined J P vi s) : Confined J P vi (Machine.applyColl p o g op m k d s) := by
  unfold Machine.applyColl
  dsimp only
  split
  next e => exact (h.markPhase.vstore_eq e).failColl.pumpAll
  next e => exact (h.markPhase.vstore_eq e).countIn.sendAck.pumpAll

theorem Confined.takeGroupData (h : Confined J P vi s) : Confined J P vi (Machine.takeGroupData p s) := by
  unfold Machine.takeGroupData
  split
  · exact .ite h.sendDeny h
  · dsimp only
    generalize hx : Machine.assembleChunk p _ s = x
    have hs : Confined J P vi x.1 := hx ▸ h.assembleChunk
    split
    · split
      · exact .ite hs.sendAck hs.sendNak
      · split
        · refine .ite (Confined.ite hs hs.nextFree.vwrite).crcBad ?_
          split
          · exact hs.mismatch
          · exact .ite hs.mismatch (.ite hs.sendAck (.ite hs.sendNak (.ite hs.applyRed hs.applyColl)))
        · exact hs
    · exact hs

/-! ## Packets that waited -/

theorem Confined.takeOwn (h : Confined J P vi s) : Confined J P vi (Machine.takeOwn p s) := by
  unfold Machine.takeOwn
  split
  · exact h.takeRequest
  · exact h.takeRequest
  · exact h.takeRequest
  · exact h.takeRequest
  · exact h.takeAnswerPkt
  · exact h.takeAnswerPkt
  · exact h.takeAck
  · exact h.takeNak
  · exact h.takeDeny
  · exact h.takeGrantReq
  · exact h.takeGrant
  · exact h.takeGroupData
  · exact h.takeGroupData
  · exact h

theorem Confined.releasePkts (h : Confined J P vi s) : Confined J P vi (Machine.releasePkts l s) := by
  induction l generalizing s with
  | nil => exact h
  | cons p l ih => exact .ite (ih h.fab) (ih h.takeOwn)

theorem Confined.motionEnds (h : Confined J P vi s) : Confined J P vi (Machine.motionEnds s) :=
  (Confined.releasePkts h.fab).pumpAll

end Sys2Proof.Machine

end

section
/-! PROOFS. O15: a VI reset ends what the VI owns, and its end empties the VI's page (R74, R75). -/

namespace Sys2Proof.Machine

open Sys2Proof

variable {J K : Nat → Nat → Prop} {P : Packet → Prop} {vi : Nat} {s t : State}

/-! ## The end of a job -/

theorem Confined.mono (h : Confined J P vi s) (hJK : ∀ i v, J i v → K i v) : Confined K P vi s :=
  ⟨fun j hj => hJK _ _ (h.jobs j hj), h.opens, h.busy⟩

theorem Confined.zeroing (h : Confined J P vi s) : Confined J P vi { s with devMem := x, zeroing := y } :=
  h.of_eq rfl rfl rfl

theorem Confined.releaseHome (h : Confined J P vi s) : Confined J P vi (Machine.releaseHome x s) := by
  unfold Machine.releaseHome
  split
  · dsimp only
    split
    · exact .ite h.zeroing.updStk.addHint.evrec h.zeroing
    · exact h.zeroing
  · exact h

theorem Confined.unmapJob (h : Confined J P vi s) : Confined J P vi (Machine.unmapJob m job s) := by
  refine Confined.foldl h.updVi fun {_ e} hu => ?_
  dsimp only
  cases e.2.move with
  | none => exact .ite hu hu.releaseHome
  | some => exact .ite hu.releaseHome hu.releaseHome.releaseHome

theorem Confined.startSwitch (h : Confined J P vi s) : Confined J P vi (Machine.startSwitch job s) := h.updJob.sched

theorem Confined.startNext (h : Confined J P vi s) : Confined J P vi (Machine.startNext order s) := by
  unfold Machine.startNext
  refine .ite h (.ite ?_ ?_)
  · split
    · exact h
    · exact h.startSwitch
  · split
    · exact h
    · exact h.startSwitch

/-- A job that ends leaves the table of jobs. -/
theorem Confined.endJob (h : Confined J P vi s) :
    Confined (fun i v => J i v ∧ i ≠ job) P vi { s with jobs := s.jobs.filter fun j => j.id != job } where
  jobs j hj := by
    obtain ⟨hj, hne⟩ := List.mem_filter.mp hj
    exact ⟨h.jobs j hj, bne_iff_ne.mp hne⟩
  opens := h.opens
  busy := h.busy

theorem Confined.releaseJob (h : Confined J P vi s) :
    Confined (fun i v => J i v ∧ i ≠ job) P vi (Machine.releaseJob job s) := by
  unfold Machine.releaseJob
  split
  next hnone =>
    have hgone : ∀ j ∈ s.jobs, j.id ≠ job := by simpa [State.job?] using hnone
    exact ⟨fun j hj => ⟨h.jobs j hj, hgone j hj⟩, h.opens, h.busy⟩
  next j _ =>
    have hfab : Confined J P vi (dropFabric job (Machine.unmapJob j.vi job (Machine.closeWindow job 2 s.ftu.count s))) :=
      h.closeWindow.unmapJob.fab
    have hend := (hfab.freeOxbow (l := j.oxbow)).foldl (l := j.ctxFrames) (f := fun s x => Machine.releaseHome x s)
      .releaseHome |>.endJob (job := job)
    exact .startNext (.ite hend.cores.sched.cores hend.cores.sched)

theorem Confined.endPreempts (h : Confined J P vi s) : Confined J P vi (Machine.endPreempts job s) := by
  refine h.foldl fun hu => ?_
  split
  · exact .ite hu.postErr hu
  · exact hu

/-- Once each of a list's jobs has ended, no job of the VI is left that the list held. -/
theorem Confined.releaseJobs {l : List Job} (h : Confined (fun i v => v = vi → i ∈ l.map Job.id) P vi s) :
    Confined (fun _ v => v ≠ vi) P vi (l.foldl (fun s j => Machine.endPreempts j.id (Machine.releaseJob j.id s)) s) := by
  induction l generalizing s with
  | nil => exact h.mono fun _ _ hv e => List.not_mem_nil (hv e)
  | cons j l ih =>
    refine ih (h.releaseJob.endPreempts.mono fun i v hi e => ?_)
    exact (List.mem_cons.mp (hi.1 e)).resolve_left hi.2

/-! ## The reset -/

/-- The VI is in reset and the commands of the VI are gone (R74). -/
def resetBegun (vi : Nat) (s : State) : State :=
  { s.updVi vi fun v =>
      { v with resetBusy := true, sqs := v.sqs.map fun e => (e.1, { e.2 with fetched := [], waiting := [] })
               cqs := v.cqs.map fun e => (e.1, { e.2 with held := [] }) } with
    opens := s.opens.filter fun o => o.pkt.vi != vi }

theorem resetBegun_confined (vi : Nat) (s : State) :
    Confined (fun i v => v = vi → i ∈ (s.jobs.filter fun j => j.vi == vi).map Job.id) (fun p => p.vi ≠ vi) vi
      (resetBegun vi s) where
  jobs j hj hv := List.mem_map_of_mem (List.mem_filter.mpr ⟨hj, beq_iff_eq.mpr hv⟩)
  opens o ho := bne_iff_ne.mp (List.mem_filter.mp ho).2
  busy := by simp [resetBegun, State.vi, State.updVi]

theorem startViReset_confined (vi : Nat) (s : State) :
    Confined (fun _ v => v ≠ vi) (fun p => p.vi ≠ vi) vi (startViReset vi s) := by
  have hdrop : Confined (fun i v => v = vi → i ∈ (s.jobs.filter fun j => j.vi == vi).map Job.id) (fun p => p.vi ≠ vi) vi
      ((s.opens.filter fun o => o.pkt.vi == vi).foldl (fun s o => dropWork o.pkt.key s) (resetBegun vi s)) :=
    (resetBegun_confined vi s).foldl .dropWork
  exact hdrop.releaseJobs.unmapJob.recordFrame (settleFences_recordFrame _ _)

theorem viReset_confined (vi : Nat) (s : State) :
    Confined (fun _ v => v ≠ vi) (fun p => p.vi ≠ vi) vi (viReset vi s) :=
  (startViReset_confined vi _).motionEnds

theorem viReady_of_resetBusy (h : (s.vi vi).resetBusy = true) : s.viReady vi = false := by
  simp [State.viReady, h]

theorem fetches_of_resetBusy (h : (s.vi vi).resetBusy = true) : s.fetches vi = false := by
  simp [State.fetches, viReady_of_resetBusy h, h]

/-! ## The end of the reset -/

theorem tget_terase_same (d : α) (l : Tbl α) (m : Nat) : tget d (terase l m) m = d := by
  induction l with
  | nil => rfl
  | cons e l ih =>
    by_cases he : e.1 = m
    · simpa [terase, he] using ih
    · simpa [terase, tget, he] using ih

theorem tget_terase_of_ne (d : α) (l : Tbl α) {k m : Nat} (h : k ≠ m) : tget d (terase l m) k = tget d l k := by
  induction l with
  | nil => rfl
  | cons e l ih =>
    by_cases he : e.1 = m
    · have hk : ¬ e.1 = k := fun e' => h (e' ▸ he)
      simpa [terase, tget, he, hk, Ne.symm h] using ih
    · by_cases hk : e.1 = k
      · simp [terase, tget, hk, h]
      · simpa [terase, tget, he, hk] using ih

theorem exec_viCtrlReset (hvi : viOk vi = true) (hon : s.viOn vi = true) (v : Word) :
    exec (.viCtrlReset vi v) s = .next (if v.getLsbD 0 then viReset vi s else s) :=
  (event_of_ok hvi _).trans (by rw [hon, Bool.true_and])

theorem exec_functionLevelReset (hvi : viOk vi = true) (hon : s.viOn vi = true) :
    exec (.functionLevelReset vi) s = .next (viReset vi s) :=
  (event_of_ok hvi _).trans (congrArg _ (if_pos hon))

theorem exec_viResetComplete (hvi : viOk vi = true) (hbusy : (s.vi vi).resetBusy = true) :
    exec (.viResetComplete vi) s = .next { s with vis := terase s.vis vi } :=
  (event_of_ok hvi _).trans (congrArg _ (if_pos hbusy))

/-- Settles O15: no operation of a reset enters a job or a command, and the jobs of the VI end one by one. -/
theorem viResetEndsWhatTheViOwns : Obligations.ViResetEndsWhatTheViOwns := by
  refine ⟨fun vi v s hvi hon => ⟨fun hv => ?_, fun hv => ?_⟩, fun vi s hvi hbusy => ?_⟩
  · rw [exec_viCtrlReset hvi hon, if_neg (ne_true_of_eq_false hv)]
  · have h := viReset_confined vi s
    exact ⟨viReset vi s, by rw [exec_viCtrlReset hvi hon, if_pos hv], exec_functionLevelReset hvi hon, h.busy,
      viReady_of_resetBusy h.busy, fetches_of_resetBusy h.busy, h.jobs, h.opens⟩
  · have hpage : tget {} (terase s.vis vi) vi = ({} : Vi) := tget_terase_same _ _ _
    refine ⟨_, exec_viResetComplete hvi hbusy, rfl, hpage, fun m hm => tget_terase_of_ne _ _ hm, ?_⟩
    have hidle : (State.vi { s with vis := terase s.vis vi } vi).resetBusy = false := congrArg Vi.resetBusy hpage
    rw [State.viReady, hidle, Bool.not_false, Bool.and_true]
    rfl

end Sys2Proof.Machine

end

section
/-! PROOFS. The fret time unit under the shared operations: records, tiles, fault units and what a scheduled command had set
up go by without a change of it. -/

namespace Sys2Proof.Machine

open Sys2Proof

/-! ## Folds, memory and records -/

/-- A fold of changes that leave the FTU alone. -/
theorem foldl_ftu {α : Type} {f : State → α → State} (hf : ∀ s a, (f s a).ftu = s.ftu) (l : List α) (s : State) :
    (l.foldl f s).ftu = s.ftu :=
  List.foldlRecOn (motive := fun t => t.ftu = s.ftu) l f rfl fun t ht a _ => (hf t a).trans ht

theorem ite_ftu {c : Prop} [Decidable c] {s t : State} {f : Ftu} (hs : s.ftu = f) (ht : t.ftu = f) :
    (if c then s else t).ftu = f := by
  split
  · exact hs
  · exact ht

@[simp] theorem vwrite_ftu (n va : Nat) (bs : List Byte) (s : State) : (vwrite n va bs s).ftu = s.ftu :=
  (vwrite_writesOnly n va bs s).ftu

@[simp] theorem wr_ftu (n a k v : Nat) (s : State) : (wr n a k v s).ftu = s.ftu := vwrite_ftu ..

@[simp] theorem setCb_ftu (n : Nat) (q : Pool) (off k v : Nat) (s : State) : (setCb n q off k v s).ftu = s.ftu := wr_ftu ..

@[simp] theorem setDesc_ftu (n : Nat) (q : Pool) (page next state pin ref : Nat) (s : State) :
    (setDesc n q page next state pin ref s).ftu = s.ftu := wr_ftu ..

@[simp] theorem pushFree_ftu (n : Nat) (q : Pool) (page : Nat) (s : State) : (pushFree n q page s).ftu = s.ftu := by
  simp only [pushFree, setCb_ftu]
  exact ite_ftu (by simp) (by simp)

@[simp] theorem unpinPage_ftu (n : Nat) (q : Pool) (page : Nat) (s : State) : (unpinPage n q page s).ftu = s.ftu :=
  ite_ftu (by simp) (by simp)

@[simp] theorem raiseVec_ftu (n k : Nat) (s : State) : (raiseVec n k s).ftu = s.ftu := (raiseVec_recordsOnly n k s).ftu

@[simp] theorem evrec_ftu (code source a b c : Nat) (s : State) : (evrec code source a b c s).ftu = s.ftu := by
  rw [evrec_eq]

@[simp] theorem pushPhase_ftu (r : PhaseRec) (s : State) : (pushPhase r s).ftu = s.ftu := ite_ftu rfl rfl

@[simp] theorem closeWindow_ftu (job flags : Nat) (last : Dword) (s : State) :
    (closeWindow job flags last s).ftu = s.ftu := by
  unfold closeWindow
  split
  · rfl
  · exact pushPhase_ftu ..

@[simp] theorem closeStep_ftu (p : Packet) (s : State) : (closeStep p s).ftu = s.ftu := by
  unfold closeStep
  refine ite_ftu rfl ?_
  split
  · rfl
  · exact ite_ftu (by simp) (by simp)

@[simp] theorem noteEnd_ftu (p : Packet) (s : State) : (noteEnd p s).ftu = s.ftu := ite_ftu rfl (closeStep_ftu p s)

/-- The end of a packet leaves the FTU alone. -/
@[simp] theorem postFinal_ftu (p : Packet) (st : Byte) (rs : Half) (a b : Nat) (s : State) :
    (postFinal p st rs a b s).ftu = s.ftu :=
  (postRefused_recordsOnly p st rs a b (noteEnd p s)).ftu.trans (noteEnd_ftu p s)

@[simp] theorem postErr_ftu (p : Packet) (rs : Half) (a : Nat) (s : State) : (postErr p rs a s).ftu = s.ftu :=
  postFinal_ftu ..

/-! ## Tiles and cores -/

@[simp] theorem dropTest_ftu (d : Nat) (s : State) : (dropTest d s).ftu = s.ftu := ite_ftu rfl rfl

theorem idleUnit_ftu (d c : Nat) (u : TileUnit) (s : State) : (idleUnit d c u s).ftu = s.ftu := rfl

theorem foldl_idleUnit_ftu {α : Type} (d c : α → Nat) (u : α → TileUnit) (l : List α) (s : State) :
    (l.foldl (fun s x => idleUnit (d x) (c x) (u x) s) s).ftu = s.ftu :=
  foldl_ftu (fun s x => idleUnit_ftu (d x) (c x) (u x) s) l s

@[simp] theorem handBack_ftu (d : Nat) (s : State) : (handBack d s).ftu = s.ftu :=
  ite_ftu rfl (foldl_idleUnit_ftu ..)

@[simp] theorem abortSlot_ftu (d : Nat) (s : State) : (abortSlot d s).ftu = s.ftu := by simp [abortSlot]

@[simp] theorem standIn_ftu (d c : Nat) (s : State) : (standIn d c s).ftu = s.ftu :=
  (foldl_idleUnit_ftu ..).trans (ite_ftu (dropTest_ftu d s) (abortSlot_ftu d s))

@[simp] theorem leaveStandby_ftu (d : Nat) (s : State) : (leaveStandby d s).ftu = s.ftu :=
  ite_ftu (s := dropTest d s) (dropTest_ftu d s) (abortSlot_ftu d s)

@[simp] theorem unpinAll_ftu (k : Key) (s : State) : (unpinAll k s).ftu = s.ftu := by
  unfold unpinAll
  split
  · split
    · refine ite_ftu rfl ?_
      split
      · exact foldl_ftu (fun s _ => unpinPage_ftu ..) _ _
      · rfl
    · rfl
  · rfl

@[simp] theorem spoilGrads_ftu (k : Key) (s : State) : (spoilGrads k s).ftu = s.ftu := by
  unfold spoilGrads
  split
  · split
    · exact foldl_ftu (fun s _ => (vwrite_ftu ..).trans (State.nextFree_ftu s)) _ _
    · rfl
  · rfl

@[simp] theorem dropTiles_ftu (k : Key) (s : State) : (dropTiles k s).ftu = s.ftu := by
  refine (foldl_idleUnit_ftu ..).trans ?_
  simp

theorem endTilesOf_ftu (d c : Nat) (rs : Half) (n : Nat) (s : State) : (endTilesOf d c rs n s).ftu = s.ftu := by
  induction n generalizing s with
  | zero => rfl
  | succ n ih =>
    unfold endTilesOf
    split
    · rfl
    · next t _ =>
      dsimp only
      split
      · rw [ih, dropTiles_ftu]
      · next o _ =>
        have hreset : (postReset o.pkt rs (blockWord (.core d c)) 0 (dropTiles t.cmd s)).ftu = s.ftu :=
          (postFinal_ftu ..).trans (dropTiles_ftu ..)
        rw [ih, hreset]

/-! ## Fault units (R666 to R674) -/

theorem withdraw_ftu (b : Block) (s : State) : (withdraw b s).ftu = s.ftu := by
  cases b with
  | core d c =>
    have hleave : (if (s.die d).standby = c then leaveStandby d s else s).ftu = s.ftu := ite_ftu (leaveStandby_ftu d s) rfl
    exact ite_ftu (s := s) rfl (ite_ftu (standIn_ftu d c s) ((endTilesOf_ftu ..).trans hleave))
  | mover | sampler | hubEngine | weir | stackCtl | tributary => rfl

theorem startBlockReset_ftu (b : Block) (s : State) : (startBlockReset b s).ftu = s.ftu := ite_ftu rfl rfl

theorem notice_ftu (u a i v : Nat) (severe : Bool) (s : State) : (notice u a i v severe s).ftu = s.ftu :=
  ite_ftu rfl (ite_ftu rfl (raiseVec_ftu ..))

theorem applyMask_ftu (u mask info vec : Nat) (severe : Bool) (s : State) :
    (applyMask u mask info vec severe s).ftu = s.ftu := by
  unfold applyMask
  extract_lets on s1 s2 s3 s4 _ s5 s6
  have h1 : s1.ftu = s.ftu := ite_ftu (notice_ftu ..) rfl
  have h2 : s2.ftu = s.ftu := ite_ftu h1 h1
  have h3 : s3.ftu = s.ftu := ite_ftu h2 h2
  have h4 : s4.ftu = s.ftu := ite_ftu ((evrec_ftu ..).trans h3) h3
  have h5 : s5.ftu = s.ftu := ite_ftu h4 h4
  have h6 : s6.ftu = s.ftu := by
    unfold s6
    split
    · exact h5
    · next b _ =>
      have ha : (if on 1 then withdraw b s5 else s5).ftu = s.ftu := ite_ftu ((withdraw_ftu b s5).trans h5) h5
      exact ite_ftu ((startBlockReset_ftu ..).trans ha) ha
  exact ite_ftu h6 h6

/-- Events of a fault unit leave the FTU alone. -/
@[simp] theorem faultEvent1_ftu (u info : Nat) (s : State) : (faultEvent1 u info s).ftu = s.ftu :=
  ite_ftu rfl (applyMask_ftu ..)

/-! ## Scheduled commands that never begin (R93) -/

theorem freeOxbow_ftu (l : List (Nat × Nat)) (s : State) : (freeOxbow l s).ftu = s.ftu := by
  unfold freeOxbow
  refine foldl_ftu (fun t x => ?_) l s
  rfl

theorem dropCkpt_ftu (job ckpt : Nat) (s : State) : (dropCkpt job ckpt s).ftu = s.ftu := by
  unfold dropCkpt
  split
  · rfl
  · exact (freeOxbow_ftu ..).trans (freeOxbow_ftu ..)

@[simp] theorem cancelSched_ftu (o : OpenCmd) (s : State) : (cancelSched o s).ftu = s.ftu := by
  unfold cancelSched
  split
  · split
    · rfl
    · exact vwrite_ftu ..
  · exact dropCkpt_ftu ..
  · rfl
  · rfl
  · rfl

end Sys2Proof.Machine
end

section
/-! PROOFS. O24: what a fret boundary makes of the FTU (R85, R89, R92, R93, R107). -/

namespace Sys2Proof.Machine

open Sys2Proof

/-! ## The check of the boundary (R102) -/

/-- A boundary check changes the phase error and the counts of checks alone. -/
theorem boundaryCheck_eq (r : Option Half) (f : Ftu) : boundaryCheck r f =
    { f with phaseErr := (boundaryCheck r f).phaseErr, goodChecks := (boundaryCheck r f).goodChecks
             badChecks := (boundaryCheck r f).badChecks, counting := (boundaryCheck r f).counting } := by
  simp only [boundaryCheck]
  split
  · split <;> rfl
  · split <;> rfl
  · split <;> rfl
  · rfl

/-- The FTU after the check of a boundary, before the count moves. -/
def checked (r : Option Half) (f : Ftu) : Ftu := { boundaryCheck r f with obs := none, epochOut := false }

section
variable (r : Option Half) (f : Ftu)

@[simp] theorem checked_count : (checked r f).count = f.count := by rw [checked, boundaryCheck_eq]
@[simp] theorem checked_epoch : (checked r f).epoch = f.epoch := by rw [checked, boundaryCheck_eq]
@[simp] theorem checked_armed : (checked r f).armed = f.armed := by rw [checked, boundaryCheck_eq]
@[simp] theorem checked_role : (checked r f).role = f.role := by rw [checked, boundaryCheck_eq]
@[simp] theorem checked_sched : (checked r f).sched = f.sched := by rw [checked, boundaryCheck_eq]
@[simp] theorem checked_pendingUs : (checked r f).pendingUs = f.pendingUs := by rw [checked, boundaryCheck_eq]
@[simp] theorem checked_bootPeriod : (checked r f).bootPeriod = f.bootPeriod := by rw [checked, boundaryCheck_eq]
@[simp] theorem checked_pendingRole : (checked r f).pendingRole = f.pendingRole := by rw [checked, boundaryCheck_eq]
@[simp] theorem checked_markWaiting : (checked r f).markWaiting = f.markWaiting := by rw [checked, boundaryCheck_eq]
@[simp] theorem checked_epochDue : epochDue (checked r f) = epochDue f := by simp [epochDue]

end

/-! ## The count (R85, R93) -/

/-- The FTU as an epoch start leaves it (R93, R104). -/
def epochStarted (f : Ftu) : Ftu :=
  { f with count := 0, epoch := f.epoch + 1, armed := false, pendingUs := 0, countErr := false, sched := []
           markWaiting := false }

theorem startEpoch_ftu (s : State) : (startEpoch s).ftu = epochStarted s.ftu := by
  refine (foldl_ftu (fun t k => ?_) _ _).trans rfl
  split
  · rw [postErr_ftu, cancelSched_ftu]
  · rfl

theorem advance_of_epochDue {s : State} (h : epochDue s.ftu = true) :
    (advance s).ftu = { epochStarted s.ftu with epochOut := true } := by
  rw [advance, if_pos h, State.updFtu_ftu, startEpoch_ftu]

/-- With no epoch start due and no mark at a follower the count grows by one. -/
theorem advance_of_no_mark {s : State} (h : epochDue s.ftu = false)
    (hm : s.ftu.markWaiting = false ∨ s.ftu.role.toNat < 2) :
    (advance s).ftu = { s.ftu with count := s.ftu.count + 1 } := by
  have hfollow : ¬ (s.ftu.markWaiting && decide (2 ≤ s.ftu.role.toNat)) = true := by
    rcases hm with hm | hm
    · simp [hm]
    · simp [hm]
  rw [advance, if_neg (ne_true_of_eq_false h), if_neg hfollow, State.updFtu_ftu]

/-! ## The period (R89) -/

section
variable (f : Ftu)

/-- A period that takes effect changes the period, what was pending of it and the schedule alone. -/
theorem takePeriod_eq : takePeriod f =
    { f with periodUs := (takePeriod f).periodUs, pendingUs := (takePeriod f).pendingUs
             bootPeriod := (takePeriod f).bootPeriod, sched := (takePeriod f).sched } := by
  simp only [takePeriod]
  split
  · split <;> rfl
  · split <;> rfl

@[simp] theorem takePeriod_count : (takePeriod f).count = f.count := by rw [takePeriod_eq]
@[simp] theorem takePeriod_epoch : (takePeriod f).epoch = f.epoch := by rw [takePeriod_eq]
@[simp] theorem takePeriod_armed : (takePeriod f).armed = f.armed := by rw [takePeriod_eq]
@[simp] theorem takePeriod_role : (takePeriod f).role = f.role := by rw [takePeriod_eq]
@[simp] theorem takePeriod_pendingRole : (takePeriod f).pendingRole = f.pendingRole := by rw [takePeriod_eq]

end

theorem takePeriod_of_empty {f : Ftu} (h : f.sched = []) :
    (takePeriod f).sched = [] ∧ (takePeriod f).pendingUs = f.pendingUs := by
  simp only [takePeriod]
  split
  · simp [h]
  · simp [h]

/-- An entered SET_PERIOD takes effect in its fret. -/
theorem takePeriod_of_entry {f : Ftu} (hboot : f.bootPeriod = none)
    (h : ∃ e ∈ f.sched, e.kind = .period ∧ e.fret = f.count.toNat) :
    (takePeriod f).periodUs = f.pendingUs ∧ (takePeriod f).pendingUs = 0 := by
  have hany : (f.sched.any fun e => e.kind == .period && e.fret == f.count.toNat) = true := by
    simpa [List.any_eq_true] using h
  simp only [takePeriod, hboot, hany, if_true, and_self]

/-! ## The role (R773) -/

section
variable (f : Ftu)

/-- A change of role leaves the count, the epoch, the periods and the counters of events alone. -/
theorem takeRole_eq : takeRole f =
    { f with role := (takeRole f).role, masterId := (takeRole f).masterId, pendingRole := (takeRole f).pendingRole
             armed := (takeRole f).armed, counting := (takeRole f).counting, goodChecks := (takeRole f).goodChecks
             badChecks := (takeRole f).badChecks, obs := (takeRole f).obs, markWaiting := (takeRole f).markWaiting
             state := (takeRole f).state, sched := (takeRole f).sched, source := (takeRole f).source } := by
  simp only [takeRole]
  split
  · rfl
  · split <;> rfl

@[simp] theorem takeRole_count : (takeRole f).count = f.count := by rw [takeRole_eq]
@[simp] theorem takeRole_epoch : (takeRole f).epoch = f.epoch := by rw [takeRole_eq]
@[simp] theorem takeRole_periodUs : (takeRole f).periodUs = f.periodUs := by rw [takeRole_eq]
@[simp] theorem takeRole_pendingUs : (takeRole f).pendingUs = f.pendingUs := by rw [takeRole_eq]

end

/-- No role arms the FTU or enters an action. -/
theorem takeRole_of_disarmed {f : Ftu} (harmed : f.armed = false) (hsched : f.sched = []) :
    (takeRole f).armed = false ∧ (takeRole f).sched = [] := by
  unfold takeRole
  split
  · exact ⟨harmed, hsched⟩
  · split
    · exact ⟨harmed, hsched⟩
    · simp [hsched]

theorem takeRole_of_change {f : Ftu} {r : BitVec 2} {id : Half} (h : f.pendingRole = some (r, id)) (hr : r ≠ f.role) :
    (takeRole f).role = r ∧ (takeRole f).masterId = id ∧ (takeRole f).armed = false ∧ (takeRole f).pendingRole = none
    ∧ (takeRole f).state = (if 2 ≤ r.toNat then 0 else 2) := by
  simp only [takeRole, h, if_neg hr, and_self]

/-! ## The boundary -/

@[simp] theorem sendBeacons_ftu (mark : Bool) (s : State) : (sendBeacons mark s).ftu = s.ftu := ite_ftu rfl rfl

/-- The boundary checks, counts, and takes the period and the role, in this order (R107). -/
theorem ftuBoundary_ftu (r : Option Half) (s : State) :
    (ftuBoundary r s).ftu = takeRole (takePeriod (advance (s.updFtu (checked r))).ftu) := sendBeacons_ftu ..

/-- What is counted at a boundary before the FTU's part leaves the FTU alone. -/
theorem countsBeforeBoundary_ftu (s : State) : (countMisses (countWindows (countPhases s))).ftu = s.ftu := by
  have hphases : (countPhases s).ftu = s.ftu := by
    unfold countPhases
    refine foldl_ftu (fun t j => ?_) _ _
    split <;> rfl
  exact hphases

theorem ftuBoundary_of_epochDue (r : Option Half) {s : State} (h : epochDue s.ftu = true) :
    (ftuBoundary r s).ftu.count = 0 ∧ (ftuBoundary r s).ftu.epoch = s.ftu.epoch + 1 ∧ (ftuBoundary r s).ftu.armed = false
    ∧ (ftuBoundary r s).ftu.pendingUs = 0 ∧ (ftuBoundary r s).ftu.sched = [] := by
  rw [ftuBoundary_ftu, advance_of_epochDue (by simpa using h), State.updFtu_ftu]
  set f : Ftu := { epochStarted (checked r s.ftu) with epochOut := true }
  obtain ⟨hsched, hpending⟩ := takePeriod_of_empty (f := f) rfl
  obtain ⟨harmed, hnone⟩ := takeRole_of_disarmed (takePeriod_armed f) hsched
  refine ⟨?_, ?_, harmed, ?_, hnone⟩
  · rw [takeRole_count, takePeriod_count]; rfl
  · rw [takeRole_epoch, takePeriod_epoch]; exact congrArg (· + 1) (checked_epoch r s.ftu)
  · rw [takeRole_pendingUs, hpending]; rfl

/-- The FTU of the fret that begins with the next count. -/
def counted (r : Option Half) (f : Ftu) : Ftu := { checked r f with count := f.count + 1 }

section
variable (r : Option Half) (f : Ftu)

@[simp] theorem counted_count : (counted r f).count = f.count + 1 := rfl
@[simp] theorem counted_epoch : (counted r f).epoch = f.epoch := checked_epoch r f
@[simp] theorem counted_role : (counted r f).role = f.role := checked_role r f
@[simp] theorem counted_sched : (counted r f).sched = f.sched := checked_sched r f
@[simp] theorem counted_pendingUs : (counted r f).pendingUs = f.pendingUs := checked_pendingUs r f
@[simp] theorem counted_bootPeriod : (counted r f).bootPeriod = f.bootPeriod := checked_bootPeriod r f
@[simp] theorem counted_pendingRole : (counted r f).pendingRole = f.pendingRole := checked_pendingRole r f

end

theorem ftuBoundary_of_no_mark (r : Option Half) {s : State} (h : epochDue s.ftu = false)
    (hm : s.ftu.markWaiting = false ∨ s.ftu.role.toNat < 2) :
    (ftuBoundary r s).ftu = takeRole (takePeriod (counted r s.ftu)) := by
  rw [ftuBoundary_ftu, advance_of_no_mark (by simpa using h) (by simpa using hm), State.updFtu_ftu, checked_count, counted]

theorem exec_fretBoundary_of_off (r : Option Half) {s : State} (h : s.boot.stage = 0) : exec (.fretBoundary r) s = .next s :=
  congrArg _ (if_pos h)

theorem exec_fretBoundary (r : Option Half) {s : State} (h : s.boot.stage ≠ 0) : exec (.fretBoundary r) s
    = .next (tellPositions (settleAll (reopenWindows (ftuBoundary r (countMisses (countWindows (countPhases s))))))) := by
  have hout : exec (.fretBoundary r) s = .next (if s.boot.stage = 0 then s else fretBoundary r s) := rfl
  rw [hout, if_neg h, fretBoundary]

/-- Settles O24: the boundary counts, or starts the epoch that is due, and then takes the period and the role. -/
theorem fretBoundaryCounts : Obligations.FretBoundaryCounts := by
  unfold Obligations.FretBoundaryCounts
  refine ⟨fun r s h => exec_fretBoundary_of_off r h, fun r s h => ⟨exec_fretBoundary r h, ?_⟩⟩
  rw [← countsBeforeBoundary_ftu s]
  generalize countMisses (countWindows (countPhases s)) = u
  refine ⟨fun hdue hm => ?count, ftuBoundary_of_epochDue r, fun hdue hm hboot hentry => ?period,
    fun role id hrole hne hdue hm => ?role⟩
  case count =>
    rw [ftuBoundary_of_no_mark r hdue hm, takeRole_count, takeRole_epoch, takePeriod_count, takePeriod_epoch]
    exact ⟨counted_count .., counted_epoch ..⟩
  case period =>
    rw [ftuBoundary_of_no_mark r hdue (.inl hm), takeRole_periodUs, takeRole_pendingUs]
    have hentry' := takePeriod_of_entry (f := counted r u.ftu) (by simpa using hboot) (by simpa using hentry)
    simpa using hentry'
  case role =>
    rw [ftuBoundary_of_no_mark r hdue (.inl hm)]
    obtain ⟨hr, hid, harmed, hnone, hstate⟩ :=
      takeRole_of_change (f := takePeriod (counted r u.ftu)) (by simpa using hrole) (by simpa using hne)
    exact ⟨hr, hid, harmed, hnone, by simp, hstate⟩

end Sys2Proof.Machine
end

section
/-! PROOFS. O25: lock, holdover, epoch marks, beacons and FRET_REF at the FTU (Table 3.2). -/

namespace Sys2Proof.Machine

open Sys2Proof

variable {s : State} {b : Beacon} {f : Ftu}

/-! ## Lock and holdover (R102, R103) -/

theorem exec_ftuLockAcquired (s : State) : exec .ftuLockAcquired s = .next (lockAcquired s) := rfl
theorem exec_ftuHoldoverEntry (s : State) : exec .ftuHoldoverEntry s = .next (holdoverEntry s) := rfl

theorem lockAcquired_of_good (hgood : 16 ≤ s.ftu.goodChecks) (hstate : s.ftu.state = 1 ∨ s.ftu.state = 3) :
    lockAcquired s = { s with ftu := { s.ftu with state := 2, source := sourceOf s.ftu, badChecks := 0 } } :=
  if_pos ⟨hgood, hstate⟩

theorem lockAcquired_of_not (h : s.ftu.goodChecks < 16 ∨ (s.ftu.state ≠ 1 ∧ s.ftu.state ≠ 3)) : lockAcquired s = s :=
  if_neg fun ⟨hgood, hstate⟩ => h.elim (fun hlt => absurd hgood (by omega)) fun ⟨h1, h3⟩ => hstate.elim h1 h3

/-- The FTU as a loss of lock leaves it. -/
def heldOver (f : Ftu) : Ftu :=
  { f with state := 3, source := 0, lockLoss := satAdd f.lockLoss 1, goodChecks := 0, badChecks := 0 }

theorem holdoverEntry_of_bad (hbad : 2 ≤ s.ftu.badChecks) (hstate : s.ftu.state = 2) :
    holdoverEntry s = faultEvents 2092 1 (ftuStatus (heldOver s.ftu)) { s with ftu := heldOver s.ftu } :=
  if_pos ⟨hbad, hstate⟩

theorem holdoverEntry_of_not (h : s.ftu.badChecks < 2 ∨ s.ftu.state ≠ 2) : holdoverEntry s = s :=
  if_neg fun ⟨hbad, hstate⟩ => h.elim (fun hlt => absurd hbad (by omega)) fun hne => hne hstate

/-! ## Epoch marks (R92, R94) -/

theorem exec_epochInMark (s : State) : exec .epochInMark s = .next { s with ftu := epochMark s.ftu } := rfl

theorem role_ne_of_follower (h : 2 ≤ f.role.toNat) : f.role ≠ 0 ∧ f.role ≠ 1 :=
  ⟨fun e => by simp [e] at h, fun e => by simp [e] at h⟩

theorem epochMark_of_solo (h : f.role = 0) : epochMark f = f := if_pos h

theorem epochMark_of_ignored (h : f.role = 1 ∨ (2 ≤ f.role.toNat ∧ f.armed = false ∧ f.state ≠ 0)) :
    epochMark f = { f with epochIgn := satAdd f.epochIgn 1 } := by
  rcases h with hmaster | ⟨hfollow, harmed, hstate⟩
  · rw [epochMark, if_neg (by simp [hmaster]), if_pos hmaster]
  · obtain ⟨h0, h1⟩ := role_ne_of_follower hfollow
    rw [epochMark, if_neg h0, if_neg h1, if_neg fun h => h.elim (ne_true_of_eq_false harmed) hstate]

theorem epochMark_of_taken (hfollow : 2 ≤ f.role.toNat) (h : f.armed = true ∨ f.state = 0) :
    epochMark f = { f with markWaiting := true } := by
  obtain ⟨h0, h1⟩ := role_ne_of_follower hfollow
  rw [epochMark, if_neg h0, if_neg h1, if_pos h]

/-- A mark waits or is counted; it changes nothing else. -/
theorem epochMark_eq (f : Ftu) : ∃ ign wait, epochMark f = { f with epochIgn := ign, markWaiting := wait } := by
  unfold epochMark
  split_ifs <;> exact ⟨_, _, rfl⟩

/-! ## FRET_REF (R760, R772) -/

theorem exec_fretRefGained (s : State) : exec .fretRefGained s = .next { s with ftu := refGained s.ftu } := rfl
theorem exec_fretRefLost (s : State) : exec .fretRefLost s = .next { s with ftu := refLost s.ftu } := rfl

theorem refGained_of_locked_master (hrole : f.role = 1) (hstate : f.state = 2) :
    (refGained f).source = 1 ∧ (refGained f).state = 2 ∧ (refGained f).counting = false :=
  ⟨if_pos ⟨hrole, hstate⟩, hstate, if_pos ⟨hrole, hstate⟩⟩

theorem refLost_of_master (hrole : f.role = 1) : (refLost f).source = 0 := if_pos hrole

/-! ## Beacons (R98, R99, R104) -/

theorem exec_beaconReceive {port : Nat} (h : port < 20) (b : Beacon) (ph : Half) (s : State) :
    exec (.beaconReceive port b ph) s = .next (beaconIn port b ph s) := event_of_ok (decide_eq_true h) _

@[simp] theorem relay_ftu (b : Beacon) (s : State) : (relay b s).ftu = s.ftu := ite_ftu rfl rfl

theorem accepts_of_master (hrole : 2 ≤ f.role.toNat) (hid : b.masterId = f.masterId) : accepts f b = true := by
  simp [accepts, hrole, hid]

/-- A follower leaves the beacons of other masters (notes/assumptions/105.md). -/
theorem beaconIn_of_other (port : Nat) (ph : Half) (hrole : 2 ≤ s.ftu.role.toNat) (hid : b.masterId ≠ s.ftu.masterId) :
    beaconIn port b ph s = s := by
  have hacc : accepts s.ftu b = false := by simp [accepts, hid]
  have hmark : (b.epochMark && s.ftu.role == 1) = false := by
    rw [beq_false_of_ne (role_ne_of_follower hrole).2, Bool.and_false]
  rw [beaconIn, if_pos (by rw [hacc, Bool.not_false]), if_neg (ne_true_of_eq_false hmark)]

/-- The count of an accepted beacon is adopted in UNSET. -/
def adopted (b : Beacon) (s : State) : State :=
  (jumpCount s.ftu.count b.count s).updFtu fun f =>
    { f with state := 1, source := sourceOf f, goodChecks := 0, badChecks := 0 }

/-- An accepted beacon has been compared with the count and the period that the FTU had (R104, notes/assumptions/33.md). -/
def compared (b : Beacon) (f : Ftu) (s : State) : State :=
  if b.count != ownCount f b || b.period != f.periodUs then
    faultEvent1 2093 (b.count.toNat % 2 ^ 32) (s.updFtu fun f => { f with countErr := true })
  else s

/-- An accepted beacon has been observed, and its mark has reached the FTU where it is one. -/
def noted (port : Nat) (b : Beacon) (ph : Half) (mark : Bool) (s : State) : State :=
  if mark then (s.updFtu (observe port b ph)).updFtu epochMark else s.updFtu (observe port b ph)

theorem beaconIn_of_accepts (port : Nat) (ph : Half) (hacc : accepts s.ftu b = true) :
    beaconIn port b ph s = relay b (noted port b ph (b.epochMark && !(decide (s.ftu.state = 0) && !s.ftu.armed))
      (compared b s.ftu (if s.ftu.state = 0 then adopted b s else s))) := by
  rw [beaconIn, if_neg (by rw [hacc]; decide)]
  rfl

theorem compared_ftu (b : Beacon) (f : Ftu) (s : State) :
    (compared b f s).ftu = { s.ftu with countErr := (compared b f s).ftu.countErr } := by
  unfold compared
  split
  · rw [faultEvent1_ftu]
    rfl
  · rfl

theorem compared_of_count_ne (hcount : b.count ≠ ownCount f b) : (compared b f s).ftu.countErr = true := by
  rw [compared, if_pos (by simp [hcount]), faultEvent1_ftu]
  rfl

theorem compared_of_same (hcount : b.count = ownCount f b) (hperiod : b.period = f.periodUs) : compared b f s = s :=
  if_neg (by simp [hcount, hperiod])

/-- An observation changes what is observed alone. -/
theorem observe_eq (port : Nat) (b : Beacon) (ph : Half) (f : Ftu) :
    ∃ obs, observe port b ph f = { f with obs := obs } := by
  unfold observe
  split
  · split <;> exact ⟨_, rfl⟩
  · exact ⟨_, rfl⟩

theorem noted_ftu (port : Nat) (b : Beacon) (ph : Half) (mark : Bool) (s : State) : ∃ obs ign wait,
    (noted port b ph mark s).ftu = { s.ftu with obs := obs, epochIgn := ign, markWaiting := wait } := by
  obtain ⟨obs, hobs⟩ := observe_eq port b ph s.ftu
  obtain ⟨ign, wait, hmark⟩ := epochMark_eq { s.ftu with obs := obs }
  cases mark with
  | false => exact ⟨obs, _, _, hobs⟩
  | true => exact ⟨obs, ign, wait, (congrArg epochMark hobs).trans hmark⟩

/-- What an accepted beacon makes of the FTU: the count adopted, the comparison, then the observation and the mark. -/
theorem beaconIn_ftu (port : Nat) (ph : Half) (hacc : accepts s.ftu b = true) : ∃ obs ign wait,
    (beaconIn port b ph s).ftu = { (compared b s.ftu (if s.ftu.state = 0 then adopted b s else s)).ftu with
      obs := obs, epochIgn := ign, markWaiting := wait } := by
  rw [beaconIn_of_accepts port ph hacc, relay_ftu]
  exact noted_ftu ..

/-- A follower in UNSET adopts the count of an accepted beacon (R98). -/
theorem beaconIn_of_unset (port : Nat) (ph : Half) (hacc : accepts s.ftu b = true) (hstate : s.ftu.state = 0) :
    (beaconIn port b ph s).ftu.count = b.count ∧ (beaconIn port b ph s).ftu.state = 1
    ∧ (beaconIn port b ph s).ftu.epoch = s.ftu.epoch := by
  obtain ⟨_, _, _, hftu⟩ := beaconIn_ftu port ph hacc
  rw [hftu, if_pos hstate, compared_ftu]
  exact ⟨rfl, rfl, rfl⟩

theorem ownCount_of_no_mark (hstate : f.state ≠ 0) (hmark : b.epochMark = false) : ownCount f b = f.count := by
  rw [ownCount, if_neg hstate, hmark]
  rfl

/-- An accepted beacon with another count sets COUNT_ERR (R104). -/
theorem beaconIn_of_count_ne (port : Nat) (ph : Half) (hacc : accepts s.ftu b = true) (hstate : s.ftu.state ≠ 0)
    (hmark : b.epochMark = false) (hcount : b.count ≠ s.ftu.count) :
    (beaconIn port b ph s).ftu.countErr = true ∧ (beaconIn port b ph s).ftu.count = s.ftu.count := by
  have herr : (compared b s.ftu s).ftu.countErr = true :=
    compared_of_count_ne (by rwa [ownCount_of_no_mark hstate hmark])
  obtain ⟨_, _, _, hftu⟩ := beaconIn_ftu port ph hacc
  rw [hftu, if_neg hstate]
  refine ⟨herr, ?_⟩
  rw [compared_ftu]

/-- The first beacon of a fret that agrees with the FTU is observed and relayed, and changes nothing else (R98, R99). -/
theorem beaconIn_of_same (port : Nat) (ph : Half) (hacc : accepts s.ftu b = true) (hstate : s.ftu.state ≠ 0)
    (hmark : b.epochMark = false) (hcount : b.count = s.ftu.count) (hperiod : b.period = s.ftu.periodUs)
    (hobs : s.ftu.obs = none) :
    beaconIn port b ph s = relay b { s with ftu := { s.ftu with obs := some (b.hops.toNat, port, ph) } } := by
  have hsame : compared b s.ftu s = s := compared_of_same (by rw [hcount, ownCount_of_no_mark hstate hmark]) hperiod
  have hfirst : observe port b ph s.ftu = { s.ftu with obs := some (b.hops.toNat, port, ph) } := by rw [observe, hobs]
  rw [beaconIn_of_accepts port ph hacc, if_neg hstate, hsame, hmark, ← hfirst]
  rfl

/-- Settles O25: one lemma per event and case of Table 3.2. -/
theorem ftuEvents : Obligations.FtuEvents := by
  unfold Obligations.FtuEvents
  refine ⟨fun s => ⟨fun hgood hstate => ?_, fun h => ?_, fun hbad hstate => ?_, fun h => ?_, fun h => ?_, fun h => ?_,
    fun hfollow h => ?_, ?gained, ?lost⟩, fun port b ph s hport hrole => ?beacon⟩
  case gained =>
    exact ⟨_, exec_fretRefGained s, rfl, rfl, fun hrole hstate => refGained_of_locked_master hrole hstate⟩
  case lost => exact ⟨_, exec_fretRefLost s, rfl, rfl, fun hrole => refLost_of_master hrole⟩
  case beacon =>
    rw [exec_beaconReceive hport]
    refine ⟨fun hid => congrArg _ (beaconIn_of_other port ph hrole hid), fun hid hstate => ?_,
      fun hid hstate hmark hcount => ?_, fun hid hstate hmark hcount hperiod hobs => ?_⟩
    · exact ⟨_, rfl, beaconIn_of_unset port ph (accepts_of_master hrole hid) hstate⟩
    · exact ⟨_, rfl, beaconIn_of_count_ne port ph (accepts_of_master hrole hid) hstate hmark hcount⟩
    · exact congrArg _ (beaconIn_of_same port ph (accepts_of_master hrole hid) hstate hmark hcount hperiod hobs)
  · rw [exec_ftuLockAcquired, lockAcquired_of_good hgood hstate]
  · rw [exec_ftuLockAcquired, lockAcquired_of_not h]
  · exact congrArg _ (holdoverEntry_of_bad hbad hstate)
  · rw [exec_ftuHoldoverEntry, holdoverEntry_of_not h]
  · rw [exec_epochInMark, epochMark_of_solo h]
  · rw [exec_epochInMark, epochMark_of_ignored h]
  · rw [exec_epochInMark, epochMark_of_taken hfollow h]

end Sys2Proof.Machine
end

section
/-! PROOFS. O26: FRET_CONFIG (R89, R91, R105, R110, R111, R773). -/

namespace Sys2Proof.Machine

open Sys2Proof

variable {p : Packet} {n : Nat} {s : State}

/-! ## Table 3.3 -/

theorem schedRefusal_of_past (h : n ≤ s.ftu.count.toNat) : schedRefusal n s = some (0xFF, 0x0F20, s.ftu.count.toNat) :=
  if_pos h

theorem schedRefusal_of_too_far (h : s.ftu.count.toNat + 2 ^ 40 < n) :
    schedRefusal n s = some (0xFF, 0x0F21, s.ftu.count.toNat) := by
  rw [schedRefusal, if_neg (by omega), if_pos h]

/-- For a fret ahead and within reach, the lock and the room of the schedule decide. -/
theorem schedRefusal_of_near (h : s.ftu.count.toNat < n) (hnear : n ≤ s.ftu.count.toNat + 2 ^ 40) :
    schedRefusal n s = if s.ftu.state.toNat < 2 then some (0xFF, 0x0F22, ftuStatus s.ftu)
      else if 256 ≤ s.ftu.sched.length then some (0x10, 0x0F23, n) else none := by
  rw [schedRefusal, if_neg (by omega), if_neg (by omega)]

/-! ## The four forms, without SAVE -/

/-- Without SAVE no locked group refuses the command (R721). -/
theorem lockRefusal_of_no_save (g : Nat) (s : State) : lockRefusal false g s = none := rfl

theorem effSetRole_of_no_save (hsave : p.p1.getLsbD 31 = false) : effSetRole p s = postDone p 0 0
    { s with ftu := { s.ftu with
      pendingRole := some (BitVec.ofNat 2 (bf p.p1 17 16), BitVec.ofNat 16 (bf p.p1 15 0)) } } := by
  simp only [effSetRole, hsave, lockRefusal_of_no_save]
  rfl

theorem effSetPeriod_of_range (h : bf p.p1 9 0 = 0 ∨ 1000 < bf p.p1 9 0) :
    effSetPeriod p s = postErr p 0x0F25 (bf p.p1 9 0) s := if_pos h

theorem effSetPeriod_of_refusal (hlow : 1 ≤ bf p.p1 9 0) (hhigh : bf p.p1 9 0 ≤ 1000)
    {e : Byte × Half × Nat} (h : schedRefusal p.p2.toNat s = some e) :
    effSetPeriod p s = postFinal p e.1 e.2.1 e.2.2 0 s := by
  simp only [effSetPeriod, h, Option.some_or]
  exact if_neg (by omega)

/-- The schedule with one entry of a kind, in place of those it had. -/
def entered (k : SchedKind) (n : Nat) (l : List SchedEntry) : List SchedEntry :=
  (l.filter fun e => e.kind != k) ++ [{ kind := k, fret := n, cmd := none }]

theorem effSetPeriod_of_none (hsave : p.p1.getLsbD 31 = false) (hlow : 1 ≤ bf p.p1 9 0) (hhigh : bf p.p1 9 0 ≤ 1000)
    (h : schedRefusal p.p2.toNat s = none) : effSetPeriod p s = postDone p 0 0 { s with ftu := { s.ftu with
      pendingUs := BitVec.ofNat 10 (bf p.p1 9 0), sched := entered .period p.p2.toNat s.ftu.sched } } := by
  simp only [effSetPeriod, h, hsave, lockRefusal_of_no_save, Option.none_or]
  exact if_neg (by omega)

theorem effArmEpoch_of_not_master (h : s.ftu.role ≠ 1) :
    effArmEpoch p s = postDone p 0 0 { s with ftu := { s.ftu with armed := true } } := if_neg h

theorem effArmEpoch_of_master (hrole : s.ftu.role = 1) (h : schedRefusal p.p2.toNat s = none) :
    effArmEpoch p s = postDone p 0 0 { s with ftu := { s.ftu with
      armed := true, sched := entered .epoch p.p2.toNat s.ftu.sched } } := by
  simp only [effArmEpoch, h]
  exact if_pos hrole

/-- Settles O26: each form by its effect, and Table 3.3 row by row. -/
theorem fretConfigCommands : Obligations.FretConfigCommands := by
  unfold Obligations.FretConfigCommands
  refine ⟨fun p s0 hd hsave => ⟨?role, fun hlow hhigh h => ?period, fun h => ?range, fun e hlow hhigh h => ?refused,
    fun h => ?follower, fun hrole h => ?master, exec_setBeaconPorts hd⟩, fun n s =>
    ⟨schedRefusal_of_past, schedRefusal_of_too_far, fun h hnear hlock => ?lock, fun h hnear hlock hfull => ?full,
      fun h hnear hlock hroom => ?room⟩⟩
  case role => rw [exec_setRole hd, effSetRole_of_no_save hsave]
  case period =>
    rw [exec_setPeriod hd, effSetPeriod_of_none hsave hlow hhigh h]
    rfl
  case range => rw [exec_setPeriod hd, effSetPeriod_of_range h]
  case refused => rw [exec_setPeriod hd, effSetPeriod_of_refusal hlow hhigh h]
  case follower => rw [exec_armEpoch hd, effArmEpoch_of_not_master h]
  case master =>
    rw [exec_armEpoch hd, effArmEpoch_of_master hrole h]
    rfl
  case lock => rw [schedRefusal_of_near h hnear, if_pos hlock]
  case full => rw [schedRefusal_of_near h hnear, if_neg (by omega), if_pos hfull]
  case room => rw [schedRefusal_of_near h hnear, if_neg (by omega), if_neg (by omega)]

end Sys2Proof.Machine
end

section
/-! PROOFS. O28: tiles are issued and end on the units of their cores, checks and parity errors halt them, a halted tile runs
again, and a core reaches its capo point. An equation for each outcome, then the statement. -/

namespace Sys2Proof.Machine

open Sys2Proof

variable {d c ns : Nat} {u : TileUnit} {t : Tile} {o : OpenCmd} {w : Work} {s : State}

/-! ## Rows of a core that the module has (Table 1.2) -/

theorem exec_tileIssue (hcore : isCore d c = true) (u : TileUnit) (s : State) :
    exec (.tileIssue d c u) s = .next (tileIssue d c u s) := event_of_ok hcore _

theorem exec_tileEnd (hcore : isCore d c = true) (u : TileUnit) (ns : Nat) (s : State) :
    exec (.tileEnd d c u ns) s = .next (tileEnd d c u ns s) := event_of_ok hcore _

theorem exec_arrayCheckFail (hcore : isCore d c = true) (pass vec : Nat) (sumsA sumsB : List (Nat × Dword)) (ns : Nat) (s : State) :
    exec (.arrayCheckFail d c pass vec sumsA sumsB ns) s = .next (arrayCheckFail d c pass vec (sumsOf sumsA sumsB) ns s) :=
  event_of_ok hcore _

theorem exec_arrayParityHalt (hcore : isCore d c = true) (inA inB : Bool) (pass drawn ns : Nat) (s : State) :
    exec (.arrayParityHalt d c (inA, inB) ⟨pass, drawn, ns⟩) s = .next (arrayParityHalt d c inA inB pass drawn ns s) :=
  event_of_ok hcore _

theorem exec_braidParityHalt (hcore : isCore d c = true) (cell row ns : Nat) (s : State) :
    exec (.braidParityHalt d c (cell, row) ns) s = .next (braidParityHalt d c cell row ns s) := event_of_ok hcore _

theorem exec_capoPointReached (hcore : isCore d c = true) (ns : Nat) (s : State) :
    exec (.capoPointReached d c ns) s = .next (capoPoint d c ns s) := event_of_ok hcore _

/-! ## Issue (R245, R257) -/

/-- The next tile of a core is placed on it. -/
theorem nextTile_placed (h : s.nextTile d c = some t) : t.die = d ∧ t.core = c := by
  have hfound := List.find?_some h
  simp only [Bool.and_eq_true, beq_iff_eq] at hfound
  obtain ⟨⟨⟨hdie, hcore⟩, -⟩, -⟩ := hfound
  exact ⟨hdie, hcore⟩

/-- A tile with its operands staged is counted and begun on its unit. -/
def beginTile (o : OpenCmd) (t : Tile) (st : List Elem) (s : State) : State :=
  markWork o.pkt (busyUnit t (usesTurn (o.workOf t) t) (countIssue t
    { s with tiles := s.tiles.map fun x => if x = t then { x with issued := true, staged := st } else x }))

theorem tileIssue_of_ready {st : List Elem} (htakes : s.takesTiles d c = true) (hidle : s.tileOn d c t.unit = none)
    (hnext : s.nextTile d c = some t) (hfirst : ∀ x ∈ s.tilesBefore t, s.tileWaits t x = false)
    (ho : s.open? t.cmd = some o) (haccess : s.accessWaits (o.workOf t) t = false)
    (hstream : s.streamWaits o (o.workOf t) t = false) (hst : stageTile (o.workOf t) t s = .ok st) :
    tileIssue d c t.unit s = beginTile o t st s := by
  have hfree : ((s.tilesBefore t).any fun x => s.tileWaits t x) = false := by simpa using hfirst
  simp [tileIssue, htakes, hidle, hnext, hfree, ho, haccess, hstream, hst, beginTile]

theorem beginTile_tiles (o : OpenCmd) (t : Tile) (st : List Elem) (s : State) : (beginTile o t st s).tiles
    = s.tiles.map fun x => if x = t then { x with issued := true, staged := st } else x := rfl

/-- The tile is counted on its die. -/
theorem beginTile_tilTiles (o : OpenCmd) (t : Tile) (st : List Elem) (s : State) :
    ((beginTile o t st s).die t.die).tilTiles = satAdd (s.die t.die).tilTiles 1 := by
  have hdie : (beginTile o t st s).die t.die = (countIssue t s).die t.die := rfl
  rw [hdie, countIssue, State.updDie_die_same]

/-- The record of the tile's core is that which its unit's begin makes of it. -/
theorem beginTile_core (o : OpenCmd) (t : Tile) (st : List Elem) (s : State) :
    (beginTile o t st s).core t.die t.core = (busyUnit t (usesTurn (o.workOf t) t) s).core t.die t.core := rfl

theorem busyUnit_arrays (hu : t.unit = .arrays) (turn : Bool) (s : State) :
    ((busyUnit t turn s).core t.die t.core).a.state = 1 ∧ ((busyUnit t turn s).core t.die t.core).b.state = 1 := by
  simp [busyUnit, hu]

theorem busyUnit_mvp (hu : t.unit = .mvp) (turn : Bool) (s : State) :
    ((busyUnit t turn s).core t.die t.core).mvpState = 1 := by
  simp [busyUnit, hu]

theorem busyUnit_braid (hu : t.unit = .braid) (turn : Bool) (s : State) :
    ((busyUnit t turn s).core t.die t.core).brdState = 1 := by
  simp [busyUnit, hu]

/-- An issue changes tiles, dies, cores and the phase windows of jobs. -/
theorem beginTile_frame (o : OpenCmd) (t : Tile) (st : List Elem) (s : State) :
    let s' := beginTile o t st s
    s' = { s with tiles := s'.tiles, dies := s'.dies, cores := s'.cores, jobs := s'.jobs } := rfl

/-! ## End (R245, R264) -/

/-- A tile that has ended: its unit is idle, and it has written what it computes. -/
def endedTile (o : OpenCmd) (t : Tile) (d c : Nat) (u : TileUnit) (ns : Nat) (s : State) : State × Option MemErr :=
  endEffect (o.workOf t) t o.pkt.job ns (markWork o.pkt (idleUnit d c u { s with tiles := s.tiles.filter (· != t) }))

theorem tileEnd_of_ended (ht : s.tileOn d c u = some t) (ho : s.open? t.cmd = some o) (hok : (endedTile o t d c u ns s).2 = none)
    (habort : (endedTile o t d c u ns s).1.abortOn t.cmd = false) :
    tileEnd d c u ns s = tileDone o (o.workOf t) t (endedTile o t d c u ns s).1 := by
  unfold endedTile at hok habort ⊢
  simp only [tileEnd, ht, ho, hok, habort, Bool.false_eq_true, if_false]

/-- With tiles of its work left nothing more happens. -/
theorem tileDone_of_more (hmore : ∃ x ∈ s.tiles, x.cmd = t.cmd ∧ x.work = t.work) : tileDone o w t s = s := by
  obtain ⟨x, hx, hcmd, hwork⟩ := hmore
  have hany : ((s.tiles.filter fun y => y.cmd == t.cmd).any fun y => y.work == t.work) = true :=
    List.any_eq_true.mpr ⟨x, List.mem_filter.mpr ⟨hx, beq_iff_eq.mpr hcmd⟩, beq_iff_eq.mpr hwork⟩
  exact if_pos hany

/-- With the last tile of a product, run or attention the command posts DONE. -/
theorem tileDone_of_last {ws : List Work} {r0 r1 pool : Nat} {pins : List Nat} (hprog : o.prog = .works ws r0 r1 pool pins)
    (hlast : ∀ x ∈ s.tiles, x.cmd ≠ t.cmd) (hend : (workEnd t.cmd t.work w s).2 = none) :
    tileDone o w t s = settleSlots (postDone o.pkt r0 r1 (dropTiles t.cmd (workEnd t.cmd t.work w s).1)) := by
  have hmine : (s.tiles.filter fun x => x.cmd == t.cmd) = [] := List.filter_eq_nil_iff.mpr fun x hx => by simpa using hlast x hx
  simp [tileDone, hmine, hend, hprog]

/-! ## Failed checks (R171 to R178) -/

/-- The arrays of a core whose check of a vector fails, each with the column located. -/
def checkFails (g : Seg) (k : Core) (r : List Elem) (sums : List (Nat × Nat × Dword)) : List (Nat × Nat) :=
  [(0, k.a.chkMode.toNat), (1, k.b.chkMode.toNat)].filterMap fun x => (checkVerdict g x.2 x.1 r sums).map fun col => (x.1, col)

/-- The verdicts of array A, then of array B. -/
theorem checkFails_eq (g : Seg) (k : Core) (r : List Elem) (sums : List (Nat × Nat × Dword)) : checkFails g k r sums
    = ((checkVerdict g k.a.chkMode.toNat 0 r sums).map fun col => (0, col)).toList
      ++ ((checkVerdict g k.b.chkMode.toNat 1 r sums).map fun col => (1, col)).toList := by
  cases ha : checkVerdict g k.a.chkMode.toNat 0 r sums <;> cases hb : checkVerdict g k.b.chkMode.toNat 1 r sums <;>
    simp [checkFails, ha, hb]

/-- The state in which the failing vector of a pass has been seen: the draws and passes before it are counted. -/
def passUntil (o : OpenCmd) (t : Tile) (pass vec : Nat) (g : Seg × Option Nat) (s : State) : State :=
  haltPasses (o.workOf t) t pass vec (haltDraws (o.workOf t) t o.pkt.job
    (if pass + 1 = (s.tilePasses (o.workOf t) t).length then drawnBefore (passCost g) g.1.rows.length vec else 0) s)

section
variable {pass vec : Nat} {sums : List (Nat × Nat × Dword)} {g : Seg × Option Nat} {r : Nat × List Elem}
  (ht : s.tileOn d c .arrays = some t) (hkind : t.kind ≠ 6) (ho : s.open? t.cmd = some o)
  (hg : (s.tilePasses (o.workOf t) t)[pass]? = some g) (hr : g.1.rows[vec]? = some r)
include ht hkind ho hg hr

theorem arrayCheckFail_of_pass (hfails : checkFails g.1 (s.core d c) r.2 sums = []) :
    arrayCheckFail d c pass vec sums ns s = s := by
  unfold checkFails at hfails
  simp only [arrayCheckFail, ht, ho, if_neg hkind, hg, hr, hfails]

theorem arrayCheckFail_of_fail {f : Nat × Nat} {l : List (Nat × Nat)} (hfails : checkFails g.1 (s.core d c) r.2 sums = f :: l) :
    arrayCheckFail d c pass vec sums ns s
      = haltTile o (o.workOf t) t true 0x32 0x0210 (locWord f.2 d c f.1) (pass * 65536 + vec) ns
          ((f :: l).foldl (fun s f => recordFail d c vec f s) (passUntil o t pass vec g s)) := by
  unfold checkFails at hfails
  simp only [arrayCheckFail, ht, ho, if_neg hkind, hg, hr, hfails, passUntil]

end

/-! ## Parity errors (R181, R215, R416) -/

theorem parityHalt_of_update {dn : List Nat} {st : Dword} {ws : List Work} (hprog : o.prog = .updateRun dn st ws) (rs : Half)
    (a b ns : Nat) (s : State) : parityHalt o w t rs a b ns s
      = endUpdateParity o t dn (s.updDie t.die fun x => { x with tilLong := satMax x.tilLong ns }) := by
  simp only [parityHalt, hprog]

theorem parityHalt_of_not_update (hprog : ∀ dn st ws, o.prog ≠ .updateRun dn st ws) (rs : Half) (a b ns : Nat) (s : State) :
    parityHalt o w t rs a b ns s = haltTile o w t true 0x31 rs a b ns s := by
  unfold parityHalt
  split
  · next dn st ws h => exact absurd h (hprog dn st ws)
  · rfl

theorem arrayParityHalt_in_a {pass drawn : Nat} {g : Seg × Option Nat} (ht : s.tileOn d c .arrays = some t)
    (hkind : t.kind ≠ 6) (ho : s.open? t.cmd = some o) (hg : (s.tilePasses (o.workOf t) t)[pass]? = some g) :
    arrayParityHalt d c true false pass drawn ns s
      = parityHalt o (o.workOf t) t 0x0211 (locWord 0xFF d c 0) (pass * 65536 + 0xFFFF) ns
          (faultEvent1 (6 * coreIx d c + 1) (locWord 0xFF d c 0) (haltPasses (o.workOf t) t pass 0
            (if pass + 1 = (s.tilePasses (o.workOf t) t).length
              then haltDraws (o.workOf t) t o.pkt.job (min drawn g.1.rows.length) s else s))) := by
  simp only [arrayParityHalt, ht, ho, if_neg hkind, hg]
  rfl

theorem braidParityHalt_of_tile {cell row : Nat} (hcell : cell < 32) (hrow : row < 2 ^ 32)
    (ht : s.tileOn d c .braid = some t) (ho : s.open? t.cmd = some o) :
    braidParityHalt d c cell row ns s
      = parityHalt o (o.workOf t) t 0x0220 (cell * 2 ^ 24 + d * 2 ^ 16 + c * 2 ^ 8) row ns
          (faultEvent1 (6 * coreIx d c + 2) (cell * 2 ^ 24)
            (s.updCore d c fun k => { k with brdParity := satAdd k.brdParity 1 })) := by
  simp only [braidParityHalt, ht, ho, Nat.mod_eq_of_lt hcell, Nat.mod_eq_of_lt hrow]

/-! ## Reruns (R179, R215) -/

/-- A halted tile stands to run again from its start. -/
def rerunTile (t : Tile) (ns : Nat) (s : State) : State :=
  let s1 := haltUnit t (s.updDie t.die fun x => { x with tilLong := satMax x.tilLong ns })
  { s1 with tiles := s1.tiles.map fun x => if x = t then { x with issued := false, staged := [], reruns := x.reruns + 1 } else x }

theorem haltTile_of_first (hreruns : t.reruns = 0) (hkeeps : overwritesInputs w t = false) (habort : s.abortOn t.cmd = false)
    (sc : Bool) (st : Byte) (rs : Half) (a b ns : Nat) : haltTile o w t sc st rs a b ns s = rerunTile t ns s := by
  simp [haltTile, rerunTile, hreruns, hkeeps, habort]

theorem rerunTile_tiles (hreruns : t.reruns = 0) (ns : Nat) (s : State) : (rerunTile t ns s).tiles
    = s.tiles.map fun x => if x = t then { x with issued := false, staged := [], reruns := 1 } else x := by
  refine List.map_congr_left fun x _ => ?_
  split
  · next hx => rw [hx, hreruns]
  · rfl

theorem rerunTile_tilLong (t : Tile) (ns : Nat) (s : State) :
    ((rerunTile t ns s).die t.die).tilLong = satMax (s.die t.die).tilLong ns := by
  have hdie : (rerunTile t ns s).die t.die
      = (s.updDie t.die fun x => { x with tilLong := satMax x.tilLong ns }).die t.die := rfl
  rw [hdie, State.updDie_die_same]

/-- A halt with a rerun changes tiles, dies and cores. -/
theorem rerunTile_frame (t : Tile) (ns : Nat) (s : State) :
    let s' := rerunTile t ns s
    s' = { s with tiles := s'.tiles, dies := s'.dies, cores := s'.cores } := rfl

/-! ## Capo points (R259) -/

/-- TIL_CAPO of a die keeps the longest time to a capo point (R269). -/
def noteCapo (d ns : Nat) (s : State) : State := s.updDie d fun x => { x with tilCapo := satMax x.tilCapo ns }

/-- What the die shows of a test in progress is as before. -/
@[simp] theorem noteCapo_handsOver (d c ns : Nat) (s : State) : (noteCapo d ns s).handsOver d c = s.handsOver d c := by
  simp [noteCapo, State.handsOver]

@[simp] theorem noteCapo_givesBack (d c ns : Nat) (s : State) : (noteCapo d ns s).givesBack d c = s.givesBack d c := by
  simp [noteCapo, State.givesBack, State.standsForGood, State.role, State.core]

@[simp] theorem noteCapo_core (d c ns : Nat) (s : State) : (noteCapo d ns s).core d c = s.core d c := rfl

@[simp] theorem noteCapo_preemptDue (d ns : Nat) (s : State) : (noteCapo d ns s).preemptDue = s.preemptDue := rfl

/-- Without a command in progress no seed load waits for the core. -/
theorem serveSeeds_of_no_opens (hopens : s.opens = []) (d c : Nat) : serveSeeds d c s = s := by
  rw [serveSeeds, hopens]
  rfl

/-- A core at its capo point goes on to its next tile. -/
def runOn (d c : Nat) (s : State) : State :=
  (s.updCore d c fun k => { clearHalt k with capoReq := false, atCapo := false }).updCore d c
    fun k => { k with capoReq := false, atCapo := false }

theorem capoPoint_of_nothing_due (hreq : (s.core d c).capoReq = true) (hnew : (s.core d c).atCapo = false)
    (hquiet : ∀ t ∈ s.tiles, t.die = d → t.core = c → t.issued = false) (hopens : s.opens = [])
    (hhand : s.handsOver d c = false) (hback : s.givesBack d c = false) (hslice : (s.core d c).sliceDue = false)
    (hdue : s.preemptDue = false) : capoPoint d c ns s = runOn d c (noteCapo d ns s) := by
  have hnone : (s.tiles.any fun t => t.die == d && t.core == c && t.issued) = false := by simpa using hquiet
  unfold capoPoint
  rw [if_neg (by simp [hreq, hnew, hnone])]
  extract_lets s1 s2 hand s3 s4 back e s5 due s6 s7
  have h2 : s2 = noteCapo d ns s := serveSeeds_of_no_opens (s := noteCapo d ns s) hopens d c
  have hkeeps : hand = false := by rw [← hhand, ← noteCapo_handsOver d c ns, ← h2]
  have h3 : s3 = noteCapo d ns s := by rw [← h2]; exact if_neg (by simp [hkeeps])
  have h4 : s4 = noteCapo d ns s := by rw [← h3]; exact if_neg (by simp [h3, hslice])
  have hkeepsBack : back = false := by rw [← hback, ← noteCapo_givesBack d c ns, ← h4]
  have h5 : s5 = noteCapo d ns s := by rw [← h4]; exact if_neg (by simp [hkeepsBack])
  have he : e = c := by simp [e, hkeeps, hkeepsBack]
  have hnot : due = false := by rw [← hdue, ← noteCapo_preemptDue d ns, ← h5]
  simp [s7, s6, h5, he, hnot, runOn]

theorem runOn_core (d c : Nat) (s : State) :
    ((runOn d c s).core d c).capoReq = false ∧ ((runOn d c s).core d c).atCapo = false := by
  simp [runOn]

/-- A capo point that asks for nothing else changes dies and cores. -/
theorem runOn_noteCapo_frame (d c ns : Nat) (s : State) :
    let s' := runOn d c (noteCapo d ns s)
    s' = { s with dies := s'.dies, cores := s'.cores } := rfl

theorem runOn_noteCapo_tilCapo (d c ns : Nat) (s : State) :
    ((runOn d c (noteCapo d ns s)).die d).tilCapo = satMax (s.die d).tilCapo ns := by
  have hdie : (runOn d c (noteCapo d ns s)).die d = (noteCapo d ns s).die d := rfl
  rw [hdie, noteCapo, State.updDie_die_same]

/-! ## The statement -/

/-- Settles O28: each row of a core by its outcome, the halts through the one lemma on reruns. -/
theorem tilesRunOnTheirCores : Obligations.TilesRunOnTheirCores := by
  unfold Obligations.TilesRunOnTheirCores
  refine ⟨?issue, ?ended, ?check, ?arrayParity, ?braidParity, ?rerun, ?capo⟩
  case issue =>
    intro d c t o st s hcore w htakes hidle hnext hfirst ho haccess hstream hst
    obtain ⟨rfl, rfl⟩ := nextTile_placed hnext
    refine ⟨beginTile o t st s, ?_, beginTile_tiles .., beginTile_tilTiles .., ?_, ?_, ?_, beginTile_frame ..⟩
    · rw [exec_tileIssue hcore, tileIssue_of_ready htakes hidle hnext hfirst ho haccess hstream hst]
    all_goals
      intro hu
      rw [beginTile_core]
    · exact busyUnit_arrays hu ..
    · exact busyUnit_mvp hu ..
    · exact busyUnit_braid hu ..
  case ended =>
    intro d c u ns t o s hcore ht ho w s0 r hok habort
    have hend : exec (.tileEnd d c u ns) s = .next (tileDone o w t r.1) := by
      rw [exec_tileEnd hcore, tileEnd_of_ended ht ho hok habort]
      rfl
    refine ⟨fun hmore => ?_, fun ws r0 r1 pool pins hprog hlast hwork => ?_⟩
    · rw [hend, tileDone_of_more hmore]
    · rw [hend, tileDone_of_last hprog hlast hwork]
  case check =>
    intro d c pass vec ns sumsA sumsB t o g r s hcore ht hkind ho w l hg hr sums a b drawn s1 halt
    have hfails : checkFails g.1 (s.core d c) r.2 sums
        = (a.map fun col => (0, col)).toList ++ (b.map fun col => (1, col)).toList := checkFails_eq ..
    rw [exec_arrayCheckFail hcore]
    refine ⟨fun ha hb => ?_, fun col ha hb => ?_, fun col ha hb => ?_, fun col col' ha hb => ?_⟩ <;> rw [ha, hb] at hfails
    · rw [arrayCheckFail_of_pass ht hkind ho hg hr hfails]
    all_goals
      rw [arrayCheckFail_of_fail ht hkind ho hg hr hfails]
      rfl
  case arrayParity =>
    intro d c pass drawn ns t o g s hcore ht hkind ho w l hg hprog s1
    rw [exec_arrayParityHalt hcore, arrayParityHalt_in_a ht hkind ho hg, parityHalt_of_not_update hprog]
  case braidParity =>
    intro d c cell row ns t o s hcore hcell hrow ht ho w s1
    rw [exec_braidParityHalt hcore, braidParityHalt_of_tile hcell hrow ht ho]
    refine ⟨fun dn st ws hprog => ?_, fun hprog => ?_⟩
    · rw [parityHalt_of_update hprog]
    · rw [parityHalt_of_not_update hprog]
  case rerun =>
    intro o w t sc st rs a b ns s hreruns hkeeps habort s'
    have hs' : s' = rerunTile t ns s := haltTile_of_first hreruns hkeeps habort ..
    rw [hs']
    exact ⟨rerunTile_tiles hreruns ns s, rerunTile_tilLong .., rerunTile_frame ..⟩
  case capo =>
    intro d c ns s hcore hreq hnew hquiet hopens hhand hback hslice hdue
    obtain ⟨hcleared, hleft⟩ := runOn_core d c (noteCapo d ns s)
    refine ⟨runOn d c (noteCapo d ns s), ?_, hcleared, hleft, runOn_noteCapo_tilCapo .., runOn_noteCapo_frame ..⟩
    rw [exec_capoPointReached hcore, capoPoint_of_nothing_due hreq hnew hquiet hopens hhand hback hslice hdue]

end Sys2Proof.Machine
end

section
/-! PROOFS. O27: products, runs, slot loads and fused attention from their dispatch on. What every tile of a cut is, an
equation for each command whose operands are accepted, then the statement. -/

namespace Sys2Proof.Machine

open Sys2Proof

variable {p : Packet} {s : State}

/-! ## Tiles as they are cut (R238, R263) -/

/-- A tile that a core has not issued yet, of the command k. -/
def Tile.WaitsFor (k : Key) (x : Tile) : Prop := x.cmd = k ∧ x.issued = false

section
variable (k : Key) (wi : Nat) (w : Work)

theorem tileOf_waitsFor (u : TileUnit) (kind : Nat) (at_ : Nat × Nat)
    (problem row0 rows col0 cols k0 kLen kIdx passes : Nat) :
    (tileOf k wi u kind at_ problem row0 rows col0 cols k0 kLen kIdx passes).WaitsFor k := ⟨rfl, rfl⟩

/-- K ranges and summing tiles alike. -/
theorem blockTiles_waitsFor (at_ : Nat × Nat) (c : Cut) (nt kt b row0 rows n : Nat) :
    ∀ x ∈ blockTiles k wi w at_ c nt kt b row0 rows n, x.WaitsFor k := by
  intro x hx
  rcases List.mem_append.mp hx with hrange | hsum
  · obtain ⟨i, -, rfl⟩ := List.mem_map.mp hrange
    exact tileOf_waitsFor ..
  · split at hsum
    · exact absurd hsum List.not_mem_nil
    · obtain ⟨r, -, rfl⟩ := List.mem_map.mp hsum
      exact tileOf_waitsFor ..

/-- The pieces of a long row are tiles of the Braid. -/
theorem splitRow_waitsFor (q : Prog) (kind : Nat) (at_ : Nat × Nat) (rate bcast problem row : Nat) :
    ∀ x ∈ splitRow k wi q kind at_ rate bcast problem row, x.WaitsFor k ∧ x.unit = .braid := by
  intro x hx
  obtain ⟨sweep, -, hx⟩ := List.mem_flatMap.mp hx
  obtain ⟨i, -, rfl⟩ := List.mem_map.mp hx
  exact ⟨tileOf_waitsFor .., rfl⟩

/-- Program tiles run on the Braid, whole rows or pieces of one. -/
theorem rowTiles_waitsFor (kind : Nat) (at_ : Nat × Nat) (problem row0 rows : Nat) :
    ∀ x ∈ rowTiles k wi w kind at_ problem row0 rows, x.WaitsFor k ∧ x.unit = .braid := by
  intro x hx
  dsimp only [rowTiles] at hx
  split at hx
  · obtain ⟨r, -, hx⟩ := List.mem_flatMap.mp hx
    exact splitRow_waitsFor _ _ _ _ _ _ _ _ _ x hx
  · obtain ⟨r, -, rfl⟩ := List.mem_map.mp hx
    exact ⟨tileOf_waitsFor .., rfl⟩

theorem epilogueTiles_waitsFor (at_ : Nat × Nat) (b row0 rows : Nat) :
    ∀ x ∈ epilogueTiles k wi w at_ b row0 rows, x.WaitsFor k := by
  intro x hx
  unfold epilogueTiles at hx
  split at hx
  · exact (rowTiles_waitsFor k wi w _ _ _ _ _ x hx).1
  · rw [List.mem_singleton.mp hx]
    exact tileOf_waitsFor ..

/-- Blocks and epilogues of a product. -/
theorem productTiles_waitsFor (c : Cut) (nt kt : Nat) (place : Nat → Nat → Nat → Nat × Nat) :
    ∀ x ∈ productTiles k wi w c nt kt place, x.WaitsFor k := by
  intro x hx
  obtain ⟨b, -, hx⟩ := List.mem_flatMap.mp hx
  obtain ⟨m, -, hx⟩ := List.mem_flatMap.mp hx
  rcases List.mem_append.mp hx with hblock | hepilogue
  · obtain ⟨n, -, hx⟩ := List.mem_flatMap.mp hblock
    exact blockTiles_waitsFor k wi w _ _ _ _ _ _ _ _ x hx
  · split at hepilogue
    · exact epilogueTiles_waitsFor k wi w _ _ _ _ x hepilogue
    · exact absurd hepilogue List.not_mem_nil

theorem runTiles_waitsFor (order : List (Nat × Nat)) :
    ∀ x ∈ runTiles k wi w order, x.WaitsFor k ∧ x.unit = .braid := by
  intro x hx
  obtain ⟨i, -, hx⟩ := List.mem_flatMap.mp hx
  exact rowTiles_waitsFor k wi w _ _ _ _ _ x hx

end

/-! ## Products (R213, R240, R244) -/

theorem effMatmul_of_accepted (hok : prodMalformed p = false) (hload : s.loadAhead s.opens p = false) :
    effMatmul p s = startProduct p s := by
  simp [effMatmul, hok, hload]

/-- A product whose results are stored as they are. -/
theorem startProduct_to_memory {ops : List Byte} (hops : vread p.vi s p.p2.toNat 96 = .ok ops)
    (hplain : (prodOf p).toBraid = false) : startProduct p s = launchProduct p ops none s := by
  simp [startProduct, hops, hplain]

/-- A product whose results go through the epilogue program of its slot. -/
theorem startProduct_to_braid {ops img b : List Byte} (hops : vread p.vi s p.p2.toNat 96 = .ok ops)
    (hbraid : (prodOf p).toBraid = true) (himg : s.progAt p.job (prodOf p).slot = some img)
    (hfits : epilogueFits (prodOf p) (progOf img) = true) (hb : readTables p.vi p.p4.toNat p.p5.toNat s = .ok b) :
    startProduct p s = launchProduct p (ops ++ b) (some img) s := by
  simp [startProduct, hops, hbraid, himg, hfits, hb]

/-! ## BRAID_RUN (R211 to R213) -/

theorem effBraidRun_of_accepted (hrows : bf p.p0 63 32 ≠ 0) (halign : p.p1.toNat % 32 = 0)
    (hload : s.loadAhead s.opens p = false) : effBraidRun p s = startRun p s := by
  simp [effBraidRun, hrows, halign, hload]

theorem startRun_of_empty_slot (hempty : s.progAt p.job (bf p.p0 4 0) = none) :
    startRun p s = postErr p 0x0221 (bf p.p0 4 0) s := by
  simp only [startRun, hempty]

/-- The rows of a run over the program held in its slot. -/
def braidRunWork (p : Packet) (img tables : List Byte) : Work :=
  withProg p.vi img tables 0 { kind := .rows, rows := bf p.p0 63 32, vote := bf p.p0 31 16 }

theorem startRun_of_program {img tables : List Byte} (himg : s.progAt p.job (bf p.p0 4 0) = some img)
    (htables : readTables p.vi p.p1.toNat p.p2.toNat s = .ok tables) :
    startRun p s = { s.openCmd p (.works [braidRunWork p img tables] 0 0 0 []) with
      tiles := s.tiles ++ runTiles p.key 0 (braidRunWork p img tables) s.coreOrder } := by
  simp only [startRun, himg, htables]
  rfl

/-! ## Loads of slots, functions and seeds (R208 to R210, R220, R225, R398) -/

theorem effSlotLoad_of_free (hjob : (s.job? p.job).isSome = true) (hlen : p.op = 0x0204 → bf p.p2 15 0 ≤ 384)
    (huser : s.userAhead s.opens p = false) : effSlotLoad p s = finishLoad p s := by
  have hvalid : ¬((s.job? p.job).isNone = true ∨ p.op = 0x0204 ∧ 384 < bf p.p2 15 0) := by
    rintro (hnone | ⟨hop, hlong⟩)
    · rw [Option.isNone_iff_eq_none.mp hnone] at hjob
      cases hjob
    · exact absurd hlong (hlen hop).not_gt
  simp only [effSlotLoad, if_neg hvalid, huser, Bool.false_eq_true, if_false]

theorem finishLoad_program {img : List Byte} (hop : p.op = 0x0204)
    (himg : vread p.vi s p.p1.toNat (bf p.p2 15 0) = .ok img) (hok : progOk img false = true) :
    finishLoad p s = postDone p 0 0 (s.updJob p.job fun j => { j with progs := tset j.progs (bf p.p0 12 8) img }) := by
  simp [finishLoad, hop, himg, hok]

theorem finishLoad_update {img : List Byte} (hop : p.op = 0x0505)
    (himg : vread p.vi s p.p1.toNat (bf p.p2 15 0) = .ok img) (hok : updOk img = true) :
    finishLoad p s = postDone p 0 0 (s.updJob p.job fun j => { j with upds := tset j.upds (bf p.p0 2 0) img }) := by
  simp [finishLoad, hop, himg, hok]

theorem finishLoad_table {img : List Byte} (hop : p.op = 0x0205) (himg : vread p.vi s p.p1.toNat 6208 = .ok img) :
    finishLoad p s = postDone p 0 0 (s.updJob p.job fun j =>
      { j with funcs := tset j.funcs (4 * bf p.p0 0 0 + bf p.p0 9 8) img }) := by
  simp [finishLoad, hop, himg]

theorem effSeedLoad_of_job (hjob : (s.job? p.job).isSome = true) :
    effSeedLoad p s = askCapo s.coreOrder (s.openCmd p (.seedLoad s.coreOrder)) :=
  if_neg (by simpa [Option.isSome_iff_ne_none] using hjob)

/-! ## ATTN_FWD (R302, R335, R337) -/

/-- A pin is a write of the page's descriptor. -/
theorem pinPage_writesOnly (n : Nat) (q : Pool) (page : Nat) (s : State) : WritesOnly s (pinPage n q page s) :=
  vwrite_writesOnly ..

/-- The state in which the pages of a pool are pinned for a command. -/
def pinAll (n : Nat) (pool : Option Pool) (pins : List Nat) (s : State) : State :=
  match pool with
  | some q => pins.foldl (fun s x => pinPage n q x s) s
  | none => s

theorem pinAll_writesOnly (n : Nat) (pool : Option Pool) (pins : List Nat) (s : State) :
    WritesOnly s (pinAll n pool pins s) := by
  cases pool with
  | none => exact .refl s
  | some q => exact .foldl _ (fun s x => pinPage_writesOnly n q x s) pins s

/-- An attention command in progress with its pages pinned, before its tiles are placed. -/
def attnOpened (p : Packet) (w : Work) (pool : Option Pool) (pins : List Nat) (s : State) : State :=
  (pinAll p.vi pool pins s).openCmd p (.works [w] 0 0 ((pool.map (·.id)).getD 0) pins)

section
variable {w : Work} {pool : Option Pool} {pins : List Nat} (hnew : s.open? p.key = none)
include hnew

/-- The pins leave commands in progress and tiles alone. -/
theorem launchAttn_eq : launchAttn p w pool pins s =
    if (s.tilesOf p.key 0 w s.coreOrder).isEmpty then postDone p 0 0 (dropTiles p.key (attnOpened p w pool pins s))
    else { attnOpened p w pool pins s with tiles := s.tiles ++ s.tilesOf p.key 0 w s.coreOrder } := by
  have hpins := pinAll_writesOnly p.vi pool pins s
  have hfresh : ¬((pinAll p.vi pool pins s).open? p.key).isSome = true := by
    simp [State.open?, hpins.opens, show s.opens.find? (fun o => o.pkt.key == p.key) = none from hnew]
  have htiles : (attnOpened p w pool pins s).tiles = s.tiles := hpins.tiles
  unfold launchAttn
  extract_lets s1 g s2 tiles
  have hopened : s2 = attnOpened p w pool pins s := if_neg hfresh
  rw [hopened, htiles]

end

/-- Every length entry has as many keys as query rows: the table is accepted (R303). -/
theorem no_short_entry {es : List LenEntry} (hlens : ∀ e ∈ es, e.qLen ≤ e.kvLen) :
    (es.any fun e => decide (e.kvLen < e.qLen)) = false := by
  simpa using hlens

theorem effAttnFwd_of_read {ops lens : List Byte} (hok : (attnOf p).bad = false) (hsome : bf p.p0 63 32 ≠ 0)
    (hmost : bf p.p0 63 32 ≤ 65536) (hops : vread p.vi s p.p3.toNat 192 = .ok ops)
    (hlens : vread p.vi s (entryOf ops 5).base (16 * bf p.p0 63 32) = .ok lens) :
    effAttnFwd p s = runAttn p (attnOf p) ops lens s := by
  simp [effAttnFwd, hok, hsome, hmost.not_gt, hops, hlens]

section
variable {x : AttnP} {ops lens : List Byte} (hlens : ∀ e ∈ lenEntries lens (bf p.p0 63 32), e.qLen ≤ e.kvLen)
include hlens

/-- Keys and values in contiguous operands. -/
theorem runAttn_of_contiguous (hpaged : x.paged = false) : runAttn p x ops lens s
    = launchAttn p (s.attnWork p x ops (lenEntries lens (bf p.p0 63 32)) none) none [] s := by
  simp [runAttn, no_short_entry hlens, hpaged]

/-- Keys and values in the pages of a pool, each of which takes one more pin. -/
theorem runAttn_of_paged {q : Pool} (hpaged : x.paged = true) (hpool : s.pool? p.job (bf p.p4 63 48) = some q)
    (hmapped : s.firstHole p.vi (s.poolRanges p.vi q
      (((lenEntries lens (bf p.p0 63 32)).filter fun e => e.qLen != 0).map (·.kvRef))) = none)
    (hfits : s.attnPagedBad p.vi x q (bf p.p4 47 32) (lenEntries lens (bf p.p0 63 32)) = false)
    (hpins : s.pinnable p.vi q (s.attnPages p.vi q (lenEntries lens (bf p.p0 63 32))) = true) :
    runAttn p x ops lens s = launchAttn p (s.attnWork p x ops (lenEntries lens (bf p.p0 63 32)) (some q)) (some q)
      (s.attnPages p.vi q (lenEntries lens (bf p.p0 63 32))) s := by
  simp only [runAttn, no_short_entry hlens, hpaged, hpool, hmapped, hfits, hpins, Bool.false_eq_true, if_false, if_true]

end

/-! ## The statement -/

/-- Settles O27: each command by its effect on accepted operands. -/
theorem productAndRunCommands : Obligations.ProductAndRunCommands := by
  unfold Obligations.ProductAndRunCommands
  intro p s0 hd s q
  refine ⟨?product, ?run, ?load, ?seed, ?attention⟩
  case product =>
    intro hok hload ops tables prog hops hprog w c w1 tiles r t
    have hstart : startProduct p s = launchProduct p tables prog s := by
      rcases hprog with ⟨hplain, rfl, rfl⟩ | ⟨hbraid, img, b, himg, hfits, hb, rfl, rfl⟩
      · exact startProduct_to_memory hops hplain
      · exact startProduct_to_braid hops hbraid himg hfits hb
    have heff : effMatmul p s = t := (effMatmul_of_accepted hok hload).trans hstart
    refine ⟨productTiles_waitsFor _ _ _ _ _ _ _, fun _ => ?_, fun _ => ?_⟩
    · rw [exec_matmul hd, heff]
    · rw [exec_matmulBatched hd, heff]
  case run =>
    intro hrows halign hload
    rw [exec_braidRun hd, effBraidRun_of_accepted hrows halign hload]
    refine ⟨fun hempty => ?empty, ?filled⟩
    case empty => rw [startRun_of_empty_slot hempty]
    case filled =>
      intro img tables himg htables w tiles
      refine ⟨?_, fun x hx => ?_⟩
      · rw [startRun_of_program himg htables]
        rfl
      · obtain ⟨⟨hcmd, hissued⟩, hunit⟩ := runTiles_waitsFor _ _ _ _ x hx
        exact ⟨hcmd, hunit, hissued⟩
  case load =>
    intro img hjob huser
    refine ⟨fun hcode hlen himg hok => ?_, fun hcode himg hok => ?_, fun hcode himg => ?_⟩
    · have hop : p.op = 0x0204 := congrArg BitVec.toNat hcode
      rw [exec_braidLoadProgram hd, effSlotLoad_of_free hjob (fun _ => hlen) huser, finishLoad_program hop himg hok]
    · have hop : p.op = 0x0505 := congrArg BitVec.toNat hcode
      rw [exec_updateProgramLoad hd, effSlotLoad_of_free hjob (by simp [hop]) huser, finishLoad_update hop himg hok]
    · have hop : p.op = 0x0205 := congrArg BitVec.toNat hcode
      rw [exec_tableLoad hd, effSlotLoad_of_free hjob (by simp [hop]) huser, finishLoad_table hop himg]
  case seed =>
    intro hjob
    rw [exec_braidLoadSeed hd, effSeedLoad_of_job hjob]
  case attention =>
    intro ops lens pool x n hok hsome hmost hnew hops hlens es hes hpool w pins s1 s2 tiles
    have hrun : runAttn p x ops lens s = launchAttn p w pool pins s := by
      rcases hpool with ⟨hpaged, rfl⟩ | ⟨hpaged, k, hk, rfl, hmapped, hfits, hpins⟩
      · exact runAttn_of_contiguous hes hpaged
      · exact runAttn_of_paged hes hpaged hk hmapped hfits hpins
    have hs2 : s2 = attnOpened p w pool pins s := by
      cases pool <;> rfl
    rw [exec_attnFwd hd, effAttnFwd_of_read hok hsome hmost hops hlens, hrun, launchAttn_eq hnew, ← hs2]
    refine ⟨fun htiles => ?_, fun hnone => ?_⟩
    · rw [if_neg (by simpa using htiles)]
    · rw [if_pos (by simpa using hnone)]

end Sys2Proof.Machine
end

section
/-! PROOFS. O32: the learning commands from their dispatch on. What every tile of a work is, whatever the work's kind, an
equation for each branch of a pass, of an UPDATE and of the commands beside them, then the statement. -/

namespace Sys2Proof.Machine

open Sys2Proof

variable {p : Packet} {s : State}

/-! ## Tiles of works (R238, R266) -/

section
variable {k : Key}

/-- Dealing decides the core of a tile and not its command. -/
theorem dealTiles_waitsFor {α : Type} {order : List (Nat × Nat)} {l : List α} {f : Nat × Nat → α → List Tile}
    (hunit : ∀ at_ a, ∀ x ∈ f at_ a, x.WaitsFor k) : ∀ x ∈ dealTiles order l f, x.WaitsFor k := by
  intro x hx
  obtain ⟨u, -, hx⟩ := List.mem_flatMap.mp hx
  exact hunit _ u.1 x hx

theorem transposeTiles_waitsFor (wi : Nat) (w : Work) (order : List (Nat × Nat)) :
    ∀ x ∈ transposeTiles k wi w order, x.WaitsFor k :=
  dealTiles_waitsFor fun at_ u x hx => by
    rw [List.mem_singleton.mp hx]
    exact tileOf_waitsFor ..

theorem expertTiles_waitsFor (wi : Nat) (w : Work) (kind : Nat) (order : List (Nat × Nat)) :
    ∀ x ∈ expertTiles k wi w kind order, x.WaitsFor k :=
  dealTiles_waitsFor fun at_ r x hx => by
    rcases List.mem_cons.mp hx with rfl | hepilogue
    · exact tileOf_waitsFor ..
    · split at hepilogue
      · exact (rowTiles_waitsFor k wi w _ _ _ _ _ x hepilogue).1
      · exact absurd hepilogue List.not_mem_nil

/-- The tiles of each block of keys, and the one that narrows dQ. -/
theorem problemTiles_waitsFor (wi : Nat) (a : AttnW) (bwd : Bool) (at_ : Nat × Nat) (problem : Nat) :
    ∀ x ∈ problemTiles k wi a bwd at_ problem, x.WaitsFor k := by
  intro x hx
  obtain ⟨g, -, hx⟩ := List.mem_flatMap.mp hx
  rcases List.mem_append.mp hx with hblock | hnarrow
  · obtain ⟨b, -, hx⟩ := List.mem_flatMap.mp hblock
    cases bwd
    case false =>
      simp only [Bool.false_eq_true, if_false, List.mem_cons, List.not_mem_nil, or_false] at hx
      rcases hx with rfl | rfl | rfl | rfl <;> exact tileOf_waitsFor ..
    case true =>
      simp only [if_true, List.mem_cons, List.not_mem_nil, or_false] at hx
      rcases hx with rfl | rfl | rfl <;> exact tileOf_waitsFor ..
  · split at hnarrow
    · rw [List.mem_singleton.mp hnarrow]
      exact tileOf_waitsFor ..
    · exact absurd hnarrow List.not_mem_nil

/-- The problems, and the tiles that narrow dK and dV. -/
theorem attnTiles_waitsFor (wi : Nat) (a : AttnW) (bwd : Bool) (order : List (Nat × Nat)) :
    ∀ x ∈ attnTiles k wi a bwd order, x.WaitsFor k := by
  intro x hx
  rcases List.mem_append.mp hx with hproblem | hnarrow
  · exact dealTiles_waitsFor (fun at_ n => problemTiles_waitsFor wi a bwd at_ n) x hproblem
  · split at hnarrow
    · refine dealTiles_waitsFor (fun at_ n x hx => ?_) x hnarrow
      obtain ⟨r, -, rfl⟩ := List.mem_map.mp hx
      exact tileOf_waitsFor ..
    · exact absurd hnarrow List.not_mem_nil

theorem tilesOf_waitsFor (s : State) (wi : Nat) (w : Work) (order : List (Nat × Nat)) :
    ∀ x ∈ s.tilesOf k wi w order, x.WaitsFor k := by
  intro x hx
  unfold State.tilesOf at hx
  split at hx
  case h_1 => exact productTiles_waitsFor k wi w _ _ _ _ x hx
  case h_2 => exact (runTiles_waitsFor k wi w order x hx).1
  case h_3 =>
    rw [List.mem_singleton.mp hx]
    exact tileOf_waitsFor ..
  case h_4 => exact transposeTiles_waitsFor wi w order x hx
  case h_5 => exact attnTiles_waitsFor wi w.attn false order x hx
  case h_6 => exact attnTiles_waitsFor wi w.attn true order x hx
  case h_7 => exact expertTiles_waitsFor wi w 7 order x hx
  case h_8 => exact expertTiles_waitsFor wi w 8 order x hx

/-- On the cores of its stage a product is cut as elsewhere, and placed otherwise (R266). -/
theorem tilesAt_waitsFor (s : State) (wi : Nat) (w : Work) (cores : List (Nat × Nat)) :
    ∀ x ∈ s.tilesAt k wi w cores, x.WaitsFor k := by
  intro x hx
  dsimp only [State.tilesAt] at hx
  split at hx
  · exact productTiles_waitsFor k wi w _ _ _ _ x hx
  · exact tilesOf_waitsFor s wi w _ x hx

theorem stageTiles_waitsFor (s : State) (ws : List (Work × List (Nat × Nat))) :
    ∀ x ∈ s.stageTiles k ws, x.WaitsFor k := by
  intro x hx
  obtain ⟨w, -, hx⟩ := List.mem_flatMap.mp hx
  exact tilesAt_waitsFor s w.2 w.1.1 w.1.2 x hx

end

/-! ## Passes (R362, R366, R372) -/

/-- The state in which a pass that is accepted stands open: entered in the job's steps and in its window. -/
def passOpened (p : Packet) (s : State) : State :=
  let x := passOf p
  (noteStep p.job x.step x.mbCount (some (BitVec.ofNat 32 x.version))
    (if x.bwd then s else noteFwd p.job x (turnWindow p.job x.step s))).openCmd p (.pass x.bwd s.ftu.count 0)

theorem effPass_of_accepted {m : Model} (hok : (passOf p).bad p = false)
    (haccept : passRefusal p (passOf p) false s = .ok m) :
    effPass p s = tryPass false { pkt := p, prog := .pass (passOf p).bwd s.ftu.count 0 } (passOpened p s) := by
  simp only [effPass, hok, haccept, Bool.false_eq_true, if_false]
  rfl

/-- A PASS_FWD that is not a QUERY is a pass. -/
theorem effPassFwd_of_pass (hpass : p.p1.getLsbD 0 = false) : effPassFwd p s = effPass p s := by
  simp only [effPassFwd, hpass, Bool.false_eq_true, if_false]

theorem effPassFwd_of_query (hquery : p.p1.getLsbD 0 = true) : effPassFwd p s = effPassQuery p s := if_pos hquery

theorem passOf_bwd_of_fwd (hop : p.opcode = 0x0501) : (passOf p).bwd = false := by
  simp [passOf, Packet.op, hop]

section
variable {bs : List Byte} {bwd tick : Bool} {since : Dword} {waited : Nat}

section
variable (hturn : s.passTurn p = true) (hblock : vread p.vi s p.p3.toNat 128 = .ok bs)
include hturn hblock

/-- Without IN_CTR a pass starts when its turn has come. -/
theorem tryPass_of_no_counter (hctr : (blockOf bs).inCtr = 0) :
    tryPass tick { pkt := p, prog := .pass bwd since waited } s = startPass p bs since waited s := by
  simp [tryPass, hturn, hblock, hctr]

/-- Below its value IN_CTR holds the pass (R372). -/
theorem tryPass_of_low_counter {v : List Byte} (hctr : (blockOf bs).inCtr ≠ 0)
    (hv : vread p.vi s (blockOf bs).inCtr 8 = .ok v) (hlow : leNat v < (blockOf bs).inValue) :
    tryPass tick { pkt := p, prog := .pass bwd since waited } s
      = s.setProg p.key (.pass bwd since (waited + b2n tick)) := by
  simp [tryPass, hturn, hblock, hctr, hv, hlow.not_ge]

end

/-- The checks of a pass whose waits have ended: those of Wᵀ and of operand pairs belong to a PASS_BWD
(R370, R371, R383). -/
theorem startPass_of_checked {m : Model} {es : List LenEntry} (hmodel : s.model? p.job (passOf p).model = some m)
    (htag : s.passTag p.vi m (passOf p) = none)
    (hcopy : (passOf p).bwd = true → s.noCopy p.vi m (passOf p) = none)
    (hpair : (passOf p).bwd = true → m.badPair (passOf p) (s.savedOf p.job (passOf p).step (passOf p).mb) = none)
    (hlens : readLens p.vi m (passOf p) (blockOf bs) s = .ok es) (hfit : entriesBad (blockOf bs).rows es = false) :
    startPass p bs since waited s = runPass p m (blockOf bs) bs es since waited s := by
  cases hbwd : (passOf p).bwd
  case false => simp [startPass, hmodel, htag, hbwd, hlens, hfit]
  case true => simp [startPass, hmodel, htag, hbwd, hcopy hbwd, hpair hbwd, hlens, hfit]

/-! ### The launch of a pass (R238, R266) -/

/-- What a pass plans, by its direction. -/
def passPlan (p : Packet) (m : Model) (b : PassBlock) (es : List LenEntry) (s : State) : Launch :=
  let x := passOf p
  let c := passCtx p.vi m x b es
  if x.bwd then
    s.launchBwd c x b (s.savedOf p.job x.step x.mb) (!(((s.stepOf p.job x.step).map (·.anyBwd)).getD false)) p.key.scratch
  else s.launchFwd c b p.key.scratch

/-- The planned works with the cores of their stages. -/
def passWorks (p : Packet) (m : Model) (b : PassBlock) (es : List LenEntry) (s : State) :
    List (Work × List (Nat × Nat)) :=
  (passPlan p m b es s).works s (passOf p).bwd (passOf p).first b.rows

/-- The tiles of the planned works. -/
def passTiles (p : Packet) (m : Model) (b : PassBlock) (es : List LenEntry) (s : State) : List Tile :=
  s.stageTiles p.key (passWorks p m b es s)

/-- The ranges of OUT that go to another module. -/
def Launch.sent (l : Launch) (b : PassBlock) : List (Nat × Nat) :=
  if b.outModule = 0xFFFF then [] else (l.out.map fun o => rowRanges o.o b.rows o.cols).getD []

/-- A pass that has tiles opens with them in the state in which its constants are written. -/
theorem runPass_of_tiles {m : Model} {b : PassBlock} {es : List LenEntry} {t : State}
    (hprep : (passPlan p m b es s).plan.prepare
      (notePass p.job (passOf p) (passPlan p m b es s).saved s).nextFree = (t, none))
    (htiles : passTiles p m b es s ≠ []) :
    runPass p m b bs es since waited s
      = { t.setProg p.key (.passRun (passOf p).bwd since waited (passTiles p m b es s).length
            ((passWorks p m b es s).map (·.1)) bs ((passPlan p m b es s).sent b) (passPlan p m b es s).spans) with
          tiles := t.tiles ++ passTiles p m b es s } := by
  have hsome : ¬(passTiles p m b es s).isEmpty = true := by simpa using htiles
  simp only [passPlan] at hprep
  simp only [runPass, hprep]
  exact if_neg hsome

end

theorem effPassQuery_of_read {m : Model} {b : List Byte} (hok : (passOf p).bad p = false)
    (haccept : passRefusal p (passOf p) true s = .ok m) (hread : vread p.vi s (p.p3.toNat + 64) 8 = .ok b) :
    effPassQuery p s = postDone p (m.saveBytes (passOf p).first (passOf p).pieces ((passOf p).word % 256) (blk b 0 4))
      (cdiv (m.gradBytes (passOf p).first (passOf p).pieces 4) 4096 % 2 ^ 32) s := by
  simp only [effPassQuery, hok, haccept, hread, Bool.false_eq_true, if_false]

/-! ## STEP_SIZE_SET and UPDATE (R392 to R415) -/

theorem effStepSizeSet_of_job {j : Job} (hjob : s.job? p.job = some j) :
    effStepSizeSet p s = postDone p ((j.stepSize.map fun t => t.1.toNat).getD 0xFFFFFFFFFFFFFFFF) 0
      (s.updJob p.job fun j => { j with stepSize := some (p.p0, BitVec.ofNat 32 (bf p.p1 31 0)) }) := by
  simp only [effStepSizeSet, hjob]

/-- The state in which an UPDATE stands open. -/
def updateOpened (p : Packet) (s : State) : State := (noteStep p.job p.p0 0 none s).openCmd p .update

theorem effUpdate_of_ready (hversion : bf p.p2 63 32 ≠ 0xFFFFFFFF) (hjob : (s.job? p.job).isSome = true)
    (hlayers : layerCount p ≠ 0) (halign : p.p1.toNat % 32 = 0) (hready : (updateOpened p s).updateReady p = true) :
    effUpdate p s = startUpdate p (updateOpened p s) := by
  have hvalid : ¬((s.job? p.job).isNone = true ∨ layerCount p = 0 ∨ p.p1.toNat % 32 ≠ 0) := by
    simp [Option.isSome_iff_ne_none.mp hjob, hlayers, halign]
  rw [effUpdate, if_neg hversion, if_neg hvalid]
  exact if_pos ⟨rfl, hready⟩

/-- Another tag than the UPDATE's, or none (R393). -/
theorem startUpdate_of_stale (hstale : ∀ t, (s.job? p.job).bind (·.stepSize) = some t → t.1 ≠ p.p0) :
    startUpdate p s = postFinal p 0x28 0x0000 p.p0.toNat
      ((((s.job? p.job).bind (·.stepSize)).map fun t => bf t.1 31 0).getD 0xFFFFFFFF)
      { s with ctr := { s.ctr with lrnStale := satAdd s.ctr.lrnStale 1 } } := by
  have hother : ((s.job? p.job).bind (·.stepSize)).filter (fun t => t.1 == p.p0) = none :=
    Option.filter_eq_none_iff.mpr fun t ht => by simpa using hstale t ht
  simp only [startUpdate, hother]

section
variable {eta : Word} (htag : (s.job? p.job).bind (·.stepSize) = some (p.p0, eta))
include htag

/-- The tag that is set is the UPDATE's own. -/
theorem tag_filter_same : ((s.job? p.job).bind (·.stepSize)).filter (fun t => t.1 == p.p0) = some (p.p0, eta) := by
  simp [htag]

theorem startUpdate_of_empty_slot (hempty : s.updImg p = none) :
    startUpdate p s = postErr p 0x0508 (bf p.p2 2 0) s := by
  simp only [startUpdate, tag_filter_same htag, hempty]

section
variable {g : UpdImg} (himg : s.updImg p = some g)
include himg

/-- STOCHASTIC PART of an image without SPLIT has nothing to run (R412). -/
theorem startUpdate_of_no_split (hpart : p.p2.getLsbD 4 = true) (hsplit : g.ops.any UpdOp.isSplit = false) :
    startUpdate p s = doneUpdate p 0 s.ftu.count s := by
  simp [startUpdate, tag_filter_same htag, himg, hpart, hsplit]

theorem startUpdate_of_works {ws : List Work} (hpart : p.p2.getLsbD 4 = true → g.ops.any UpdOp.isSplit = true)
    (hfit : layersFit p g s (List.range (layerCount p)) = .ok true)
    (hworks : updWorks p g eta s (List.range (layerCount p)) = .ok ws) :
    startUpdate p s = launchUpdate p ws s := by
  have hruns : (p.p2.getLsbD 4 && !(g.ops.any UpdOp.isSplit)) = false := by
    cases hbit : p.p2.getLsbD 4
    case false => rfl
    case true => simp [hpart hbit]
  simp only [startUpdate, tag_filter_same htag, himg, hruns, hfit, hworks, Bool.false_eq_true, if_false]

end
end

/-! ## ATTN_BWD (R387 to R391) -/

/-- ATTN_BWD takes the parameters of ATTN_FWD without statistics and pages (R387). -/
def attnBwdOf (p : Packet) : AttnP := { attnOf p with stats := false, paged := false }

/-- The formats that ATTN_BWD accepts: of dO, of O, and of dK and dV. -/
def attnBwdFmtsOk (p : Packet) : Bool :=
  fmtOk (bf p.p4 63 48 % 256) && bf p.p4 63 48 % 256 != 0x0D && fmtOk (attnDo p).1 && fmtOk (attnDo p).2

/-- The pairs of operands that ATTN_BWD multiplies are those of Table 4.5. -/
def attnBwdPairsOk (p : Packet) : Bool :=
  (pairRates (attnDo p).1 (attnBwdOf p).fpv).isSome && (pairRates (attnDo p).1 (attnBwdOf p).fqk).isSome
  && (pairRates (attnBwdOf p).fpv (attnDo p).1).isSome

theorem effAttnBwd_of_read {ops lens : List Byte} (hok : (attnBwdOf p).bad = false) (hsome : bf p.p0 63 32 ≠ 0)
    (hmost : bf p.p0 63 32 ≤ 65536) (hfmts : attnBwdFmtsOk p = true) (hpairs : attnBwdPairsOk p = true)
    (hops : vread p.vi s p.p3.toNat 320 = .ok ops)
    (hread : vread p.vi s (entryOf ops 6).base (16 * bf p.p0 63 32) = .ok lens)
    (hlens : ∀ e ∈ lenEntries lens (bf p.p0 63 32), e.qLen ≤ e.kvLen) :
    effAttnBwd p s
      = launchAttn p (attnBwdWork p (attnBwdOf p) ops (lenEntries lens (bf p.p0 63 32))) none [] s := by
  simp only [attnBwdFmtsOk, Bool.and_eq_true, bne_iff_ne, ne_eq] at hfmts
  obtain ⟨⟨⟨hw, hnot⟩, hdO⟩, hO⟩ := hfmts
  unfold effAttnBwd
  extract_lets _ x w n f
  have hx : x = attnBwdOf p := rfl
  have hvalid : (x.bad || n == 0 || decide (65536 < n) || !(fmtOk w) || w == 0x0D || !(fmtOk f.1)
      || !(fmtOk f.2)) = false := by
    simp [hx, hok, n, hsome, hmost, w, hw, hnot, f, hdO, hO]
  have hrates : ((pairRates f.1 x.fpv).isNone || (pairRates f.1 x.fqk).isNone || (pairRates x.fpv f.1).isNone) = false := by
    simpa [hx, f, attnBwdPairsOk] using hpairs
  rw [if_neg (ne_true_of_eq_false hvalid), if_neg (ne_true_of_eq_false hrates)]
  simp only [hops, n, hread, no_short_entry hlens, Bool.false_eq_true, if_false, hx]

/-! ## PHASE_TIMES_READ (R426) -/

/-- The unread records that the command asks for, oldest first, with their places. -/
def State.unreadPhases (s : State) (p : Packet) : List (PhaseRec × Nat) :=
  ((s.phases.zip (List.range s.phases.length)).filter fun e =>
    !e.1.read && (bf p.p0 15 0 == 0xFFFF || e.1.job == bf p.p0 15 0)).take (bf p.p2 31 0)

/-- The records as they are written. -/
def State.unreadBytes (s : State) (p : Packet) : List Byte :=
  (s.unreadPhases p).flatMap fun e => phaseBytes s.moduleId e.1

/-- A write of memory leaves the phase records and the count of those lost. -/
theorem WritesOnly.phaseLost {s t : State} (h : WritesOnly s t) : t.ctr.phaseLost = s.ctr.phaseLost := by rw [h]

theorem effPhaseTimesRead_of_mapped (hmapped : s.firstUnmapped p.vi p.p1.toNat (s.unreadBytes p).length = none) :
    effPhaseTimesRead p s = postDone p (s.unreadPhases p).length (min s.ctr.phaseLost 0xFFFFFFFF)
      { vwrite p.vi p.p1.toNat (s.unreadBytes p) s with
        phases := (s.phases.zip (List.range s.phases.length)).map fun e =>
          if ((s.unreadPhases p).map (·.2)).contains e.2 then { e.1 with read := true } else e.1
        ctr := { (vwrite p.vi p.p1.toNat (s.unreadBytes p) s).ctr with phaseLost := 0 } } := by
  have hstore : vstore p p.p1.toNat (s.unreadBytes p) s = (vwrite p.vi p.p1.toNat (s.unreadBytes p) s, none) := by
    rw [vstore, hmapped]
    rfl
  have hwrites := vwrite_writesOnly p.vi p.p1.toNat (s.unreadBytes p) s
  unfold effPhaseTimesRead
  extract_lets id ix w done mark t
  have hw : w.2 = none := congrArg Prod.snd hstore
  have hphases : t.phases = s.phases := hwrites.phases
  have hlost : t.ctr.phaseLost = s.ctr.phaseLost := hwrites.phaseLost
  rw [hw, hphases, hlost]
  rfl

/-! ## The statement -/

/-- Settles O32: each command by its effect on accepted operands. -/
theorem learningCommandsComplete : Obligations.LearningCommandsComplete := by
  unfold Obligations.LearningCommandsComplete
  intro p s0 hd s x s1 s2
  refine ⟨?pass, ?query, ?stepSize, ?update, ?attnBwd, ?phaseTimes⟩
  case pass =>
    intro m m' bs hok haccept hturn hblock b
    have heff : effPass p s = tryPass false { pkt := p, prog := .pass x.bwd s.ftu.count 0 } s2 :=
      effPass_of_accepted hok haccept
    refine ⟨?launched, ?held⟩
    case launched =>
      intro es t hctr hmodel htag hlens hfit c v l ws tiles out u hprep htiles
      have hstart (hcopy : x.bwd = true → s2.noCopy p.vi m' x = none) (hpair : x.bwd = true → m'.badPair x v = none) :
          effPass p s = { u with tiles := u.tiles ++ tiles } := by
        rw [heff, tryPass_of_no_counter hturn hblock hctr, startPass_of_checked hmodel htag hcopy hpair hlens hfit,
          runPass_of_tiles hprep htiles]
        rfl
      refine ⟨stageTiles_waitsFor s2 ws, fun hop hfwd => ?fwd, fun _ hcopy hpair => ?bwd⟩
      case fwd =>
        have hbwd : x.bwd ≠ true := by simp [x, passOf_bwd_of_fwd hop]
        rw [exec_passFwd hd, effPassFwd_of_pass hfwd, hstart (absurd · hbwd) (absurd · hbwd)]
      case bwd => rw [exec_passBwd hd, hstart (fun _ => hcopy) (fun _ => hpair)]
    case held =>
      intro v hctr hv hlow
      have hwait : effPass p s = s2.setProg p.key (.pass x.bwd s.ftu.count 0) :=
        heff.trans (tryPass_of_low_counter hturn hblock hctr hv hlow)
      refine ⟨fun _ hfwd => ?fwd, fun _ => ?bwd⟩
      case fwd => rw [exec_passFwd hd, effPassFwd_of_pass hfwd, hwait]
      case bwd => rw [exec_passBwd hd, hwait]
  case query =>
    intro m b _ hquery hok haccept hread
    rw [exec_passFwdQuery hd, effPassFwd_of_query hquery, effPassQuery_of_read hok haccept hread]
  case stepSize =>
    intro j hjob
    rw [exec_stepSizeSet hd, effStepSizeSet_of_job hjob]
  case update =>
    intro u tag split hversion hjob hlayers halign hready
    rw [exec_update hd, effUpdate_of_ready hversion hjob hlayers halign hready]
    refine ⟨fun hstale => ?stale, fun eta htag => ⟨fun hempty => ?emptySlot, fun g himg =>
      ⟨fun hpart hsplit => ?noSplit, fun ws hpart hfit hworks => ?works⟩⟩⟩
    case stale => exact congrArg Host.Outcome.next (startUpdate_of_stale hstale)
    case emptySlot => exact congrArg Host.Outcome.next (startUpdate_of_empty_slot htag hempty)
    case noSplit => exact congrArg Host.Outcome.next (startUpdate_of_no_split htag himg hpart hsplit)
    case works => exact congrArg Host.Outcome.next (startUpdate_of_works htag himg hpart hfit hworks)
  case attnBwd =>
    intro ops lens y n f hok hsome hmost hw hnot hdO hO hpv hqk hvp hnew hops hread hlens w s1 tiles
    have hfmts : attnBwdFmtsOk p = true := by
      simp only [attnBwdFmtsOk, Bool.and_eq_true, bne_iff_ne]
      exact ⟨⟨⟨hw, hnot⟩, hdO⟩, hO⟩
    have hpairs : attnBwdPairsOk p = true := by
      simp only [attnBwdPairsOk, Bool.and_eq_true]
      exact ⟨⟨hpv, hqk⟩, hvp⟩
    have hs1 : s1 = attnOpened p w none [] s := rfl
    have heff : effAttnBwd p s = launchAttn p w none [] s :=
      effAttnBwd_of_read hok hsome hmost hfmts hpairs hops hread hlens
    rw [exec_attnBwd hd, heff, launchAttn_eq hnew, ← hs1]
    refine ⟨fun htiles => ?_, fun hnone => ?_⟩
    · rw [if_neg (by simpa using htiles)]
    · rw [if_pos (by simpa using hnone)]
  case phaseTimes =>
    intro id ix bytes t hmapped
    rw [exec_phaseTimesRead hd, effPhaseTimesRead_of_mapped hmapped]
    rfl

end Sys2Proof.Machine
end

section
/-! PROOFS. O29 and O30: rollouts, their requests and their step commands from their dispatch on, the batch step of the
running step command, and stage 4 for one held sequence. An equation for each branch, then the two statements. -/

namespace Sys2Proof.Machine

open Sys2Proof

variable {p : Packet} {s : State}

/-! ## ROLLOUT_OPEN and ROLLOUT_CLOSE (R270 to R273, R331) -/

/-- A store to pages that are all mapped meets no error. -/
theorem vstore_of_mapped {va : Nat} {bs : List Byte} (hmapped : s.firstUnmapped p.vi va bs.length = none) :
    vstore p va bs s = (vwrite p.vi va bs s, none) := by
  rw [vstore, hmapped]
  rfl

/-- The ID that an opening rollout takes: the lowest that no rollout of the job has. -/
def Job.nextRollout (j : Job) : Nat := (firstFree (fun i => !(j.rollouts.any fun r => r.id == i)) 64 0).getD 0

/-- A rollout as an accepted OPEN makes it of a job and a model, on the tables from `t` on. -/
def openedRollout (p : Packet) (j : Job) (m : Model) (t : Nat) (s : State) : Rollout :=
  rolloutOf p j.nextRollout t (BitVec.ofNat 32 (s.modelVersion p.vi m))

theorem effRolloutOpen_of_accepted {j : Job} {m : Model} {q : Pool} {t : Nat} (hjob : s.job? p.job = some j)
    (hmodel : s.nameModel p (bf p.p4 63 48) = .ok m) (hpool : s.pool? p.job (bf p.p0 63 48) = some q)
    (hdraft : draftBad p j = false) (hshape : s.shapeBad p.vi q m = false) (hroom : j.rollouts.length < 64)
    (hrun : s.tableRun p.vi q (bf p.p0 47 32 + 1) = some t) (hok : openBad p = false)
    (hmapped : s.firstUnmapped p.vi p.p1.toNat (64 * (bf p.p0 47 32 + 1)) = none) :
    effRolloutOpen p s = postDone p j.nextRollout t
      ((bindTables p.vi q j.nextRollout t (bf p.p0 47 32 + 1)
          (vwrite p.vi p.p1.toNat (List.replicate (64 * (bf p.p0 47 32 + 1)) 0) s)).updJob p.job fun i =>
        { i with rollouts := i.rollouts ++ [openedRollout p j m t s] }) := by
  have hzeroed : vstore p p.p1.toNat (List.replicate (64 * (bf p.p0 47 32 + 1)) 0) s
      = (vwrite p.vi p.p1.toNat (List.replicate (64 * (bf p.p0 47 32 + 1)) 0) s, none) :=
    vstore_of_mapped (by rwa [List.length_replicate])
  simp only [effRolloutOpen, hjob, hmodel, hpool, hdraft, hshape, hroom.not_ge, hrun, hok, hzeroed, Bool.false_eq_true,
    if_false]
  rfl

theorem effRolloutClose_of_open {x : Nat × Rollout × Pool} (hroll : s.roll? p.job (bf p.p0 15 8) = some x) :
    effRolloutClose p s =
      if s.stepRunning p.job (bf p.p0 15 8) then
        (s.openCmd p (.rolloutClose (bf p.p0 15 8))).updRoll p.job (bf p.p0 15 8) fun r =>
          { r with closing := r.closing.or (some p) }
      else closeRollout p.job (bf p.p0 15 8) (s.openCmd p (.rolloutClose (bf p.p0 15 8))) := by
  simp only [effRolloutClose, hroll]

/-! ## Commands on a rollout that is open (R278, R281, R288, R299, R310) -/

section
variable {n : Nat} {r : Rollout} {q : Pool} (hroll : s.roll? p.job (bf p.p0 7 0) = some (n, r, q))
include hroll

theorem effPrefill_of_accepted (hok : prefillBad p r = false) (hmapped : s.rollHole n r q = none)
    (haccept : prefillRefusal p n r q s = none) : effPrefill p s = acceptPrefill p n r q s := by
  simp only [effPrefill, hroll, hok, hmapped, haccept, Bool.false_eq_true, if_false]

/-- With no step of the rollout running a cancel takes effect at once. -/
theorem effSeqCancel_of_idle (hidle : s.stepRunning p.job (bf p.p0 7 0) = false) :
    effSeqCancel p s = endings p.job (bf p.p0 7 0) false (s.openCmd p (.cancel (bf p.p0 7 0))) := by
  simp only [effSeqCancel, hroll, hidle, Bool.false_eq_true, if_false]

section
variable (hrun : s.stepRunning p.job (bf p.p0 7 0) = true)
include hrun

/-- A cancel of a sequence that is not present waits for the boundary and marks nothing. -/
theorem effSeqCancel_of_absent (habsent : s.slotOf n r (bf p.p0 63 32) = none) :
    effSeqCancel p s = s.openCmd p (.cancel (bf p.p0 7 0)) := by
  simp only [effSeqCancel, hroll, hrun, habsent, if_true]

/-- A cancel that waits for the boundary marks the entry of its sequence. -/
theorem effSeqCancel_of_present {slot : Nat} (hslot : s.slotOf n r (bf p.p0 63 32) = some slot) :
    effSeqCancel p s = touch n r slot
      (setSe n r slot 5 1 (s.se n r slot 5 1 ||| 1) (s.openCmd p (.cancel (bf p.p0 7 0)))) := by
  simp only [effSeqCancel, hroll, hrun, hslot, if_true]

end

/-- A step command joins the order that the rollout shares with its draft. -/
theorem enterStep_of_open (g : Progress) :
    enterStep p.job (bf p.p0 7 0) p g s
      = (s.openCmd p g).updRoll p.job r.owner fun r => { r with stepCmds := r.stepCmds ++ [p] } := by
  simp only [enterStep, hroll]

theorem effRolloutStep_of_open :
    effRolloutStep p s = enterStep p.job (bf p.p0 7 0) p (.rolloutStep (bf p.p0 7 0) 0 0 0) s := by
  simp only [effRolloutStep, hroll]

/-- A SPEC_VERIFY of a draft rollout by its own target. -/
theorem effSpecVerify_of_draft {n' : Nat} {d : Rollout} {q' : Pool}
    (hdraft : s.roll? p.job (bf p.p0 15 8) = some (n', d, q')) (hrole : d.role = 2) (htarget : d.target = bf p.p0 7 0) :
    effSpecVerify p s = enterStep p.job (bf p.p0 7 0) p (.specVerify (bf p.p0 7 0) (bf p.p0 15 8)) s := by
  have hown : ¬(d.role ≠ 2 ∨ d.target ≠ bf p.p0 7 0) := by simp [hrole, htarget]
  simp only [effSpecVerify, hroll, hdraft, if_neg hown]

end

/-! ## Commands on a rollout that is not open (R281) -/

section
variable (hnone : s.roll? p.job (bf p.p0 7 0) = none)
include hnone

theorem effPrefill_of_unknown : effPrefill p s = postErr p 0x0302 (bf p.p0 7 0) s := by
  simp only [effPrefill, hnone]

theorem effSeqCancel_of_unknown : effSeqCancel p s = postErr p 0x0302 (bf p.p0 7 0) s := by
  simp only [effSeqCancel, hnone]

theorem effRolloutStep_of_unknown : effRolloutStep p s = postErr p 0x0302 (bf p.p0 7 0) s := by
  simp only [effRolloutStep, hnone]

/-- The target is judged before the draft. -/
theorem effSpecVerify_of_unknown : effSpecVerify p s = postErr p 0x0302 (bf p.p0 7 0) s := by
  simp only [effSpecVerify, hnone]

end

/-! ## SAMPLE (R313) -/

/-- The rows that an accepted SAMPLE draws, and the error that stops it. -/
def sampled (p : Packet) (s : State) : State × Option MemErr :=
  sampleRows p (smpOf p.p3 p.p4) (bf p.p0 63 32) 0 (markPhase p.job 0 s)

theorem effSample_of_drawn (hsome : bf p.p0 63 32 ≠ 0) (hmost : bf p.p0 63 32 ≤ 1048576)
    (hfmt : bf p.p2 31 24 = 1 ∨ bf p.p2 31 24 = 2) (hok : (smpOf p.p3 p.p4).bad = false)
    (hdrawn : (sampled p s).2 = none) : effSample p s = postDone p 0 0 (sampled p s).1 := by
  have hvalid : ¬(bf p.p0 63 32 = 0 ∨ 1048576 < bf p.p0 63 32 ∨ (bf p.p2 31 24 ≠ 1 ∧ bf p.p2 31 24 ≠ 2)
      ∨ (smpOf p.p3 p.p4).bad = true) := by
    simp only [hok, Bool.false_eq_true, or_false]
    omega
  have heff : effSample p s = finishMem p (sampled p s) 0 0 := if_neg hvalid
  simp only [heff, finishMem, hdrawn]

/-! ## The statement on rollout commands -/

/-- Settles O29: each command by its effect on accepted operands, and on a rollout that is not open. -/
theorem rolloutCommandsComplete : Obligations.RolloutCommandsComplete := by
  unfold Obligations.RolloutCommandsComplete
  intro p s0 hd s k
  refine ⟨?opens, ?closes, fun n r q hroll => ?onRollout, fun hnone => ?unknown, ?samples⟩
  case opens =>
    intro j m q t hjob hmodel hpool hdraft hshape hroom hrun hok hmapped slots id s1 r
    rw [exec_rolloutOpen hd, effRolloutOpen_of_accepted hjob hmodel hpool hdraft hshape hroom hrun hok hmapped]
    rfl
  case closes =>
    intro x hroll c s1
    rw [exec_rolloutClose hd, effRolloutClose_of_open hroll]
  case onRollout =>
    refine ⟨fun hok hmapped haccept => ?prefill, fun hidle => ?cancelNow, fun hrun habsent => ?cancelAbsent,
      fun slot hrun hslot => ?cancelPresent, ?step, fun n' d q' hdraft hrole htarget => ?verify⟩
    case prefill =>
      rw [exec_prefill hd, effPrefill_of_accepted hroll hok hmapped haccept]
      rfl
    case cancelNow => rw [exec_seqCancel hd, effSeqCancel_of_idle hroll hidle]
    case cancelAbsent => rw [exec_seqCancel hd, effSeqCancel_of_absent hroll hrun habsent]
    case cancelPresent => rw [exec_seqCancel hd, effSeqCancel_of_present hroll hrun hslot]
    case step => rw [exec_rolloutStep hd, effRolloutStep_of_open hroll, enterStep_of_open hroll]
    case verify =>
      rw [exec_specVerify hd, effSpecVerify_of_draft hroll hdraft hrole htarget, enterStep_of_open hroll]
  case unknown =>
    refine ⟨?_, ?_, ?_, ?_⟩
    · rw [exec_prefill hd, effPrefill_of_unknown hnone]
    · rw [exec_seqCancel hd, effSeqCancel_of_unknown hnone]
    · rw [exec_rolloutStep hd, effRolloutStep_of_unknown hnone]
    · rw [exec_specVerify hd, effSpecVerify_of_unknown hnone]
  case samples =>
    intro hsome hmost hfmt hok r hdrawn
    rw [exec_sample hd, effSample_of_drawn hsome hmost hfmt hok hdrawn]
    rfl

/-! ## How a step ends (R288, R295) -/

variable {id k : Nat} {kind : StepKind} {r : Rollout} {f : Option (StepFault × Nat × Nat)}

section
variable {x : State × StepEnd}

theorem stepEnded_of_failed {st : Byte} {rs : Half} {r0 r1 : Nat} (hend : x.2 = .failed st rs r0 r1) :
    stepEnded id k kind p x = some (failStep id k kind p (fun p => postFinal p st rs r0 r1) x.1) := by
  simp only [stepEnded, hend]

/-- A step that is done ends its command only where an ABORT of it waits. -/
theorem stepEnded_of_done {acc off got : Nat} (hend : x.2 = .done acc off got) (habort : x.1.abortOn p.key = false) :
    stepEnded id k kind p x = none := by
  simp only [stepEnded, hend, habort, Bool.false_eq_true, if_false]

end

/-- A failed step whose command outlives the boundary ends it. -/
theorem failStep_of_open {post : Packet → State → State}
    (hopen : ((lastBoundary id k kind s).open? p.key).isSome = true) :
    failStep id k kind p post s = post p (dropStep id p (lastBoundary id k kind s)) := if_pos hopen

/-! ## The batch step of a ROLLOUT_STEP (R288, R290) -/

/-- A ROLLOUT_STEP has a step to take: STEPS is not 0, or a sequence of its rollout is neither FREE nor HELD. -/
def State.hasStep (s : State) (p : Packet) (n : Nat) (r : Rollout) : Prop :=
  bf p.p0 31 16 ≠ 0 ∨ ∃ e ∈ r.reqs, 1 ≤ s.slotState n r e.1 ∧ s.slotState n r e.1 ≤ 3

/-- The test of `batchPlain` for a command that is done before its step. -/
theorem hasStep_iff {n : Nat} : s.hasStep p n r ↔ ¬(bf p.p0 31 16 = 0
    ∧ (!(r.reqs.any fun e => decide (1 ≤ s.slotState n r e.1 ∧ s.slotState n r e.1 ≤ 3))) = true) := by
  rw [not_and_or, Bool.not_eq_true', Bool.not_eq_false, List.any_eq_true]
  simp only [decide_eq_true_eq]
  rfl

section
variable {b : State} {x : State × StepEnd} (hfirst : r.stage6 = none)
  (hbound : boundary id k (nextRows id k kind) s = b) (hrun : runStep id k p.key kind f b = x)
include hfirst hbound hrun

section
variable {o : OpenCmd} {k1 a1 a2 a3 n : Nat} {r1 : Rollout} {q : Pool}
  (hopen : b.open? p.key = some o) (hprog : o.prog = .rolloutStep k1 a1 a2 a3)
  (hroll : b.roll? id k = some (n, r1, q)) (hwork : b.hasStep p n r1)
include hopen hprog hroll hwork

/-- After a step that did not complete, its own end follows. -/
theorem batchPlain_of_ended {t : State} (hend : stepEnded id k kind p x = some t) :
    batchPlain id k p r kind f s = t := by
  obtain ⟨pkt, prog⟩ := o
  subst hprog
  simp only [batchPlain, hfirst, hbound, hopen, hroll, if_neg (hasStep_iff.mp hwork), hrun, hend, Option.isSome_none,
    Bool.false_eq_true, if_false]

section
variable {acc off got k2 steps toks ended : Nat} {o' : OpenCmd} (hend : stepEnded id k kind p x = none)
  (hdone : x.2 = .done acc off got) (hopen' : x.1.open? p.key = some o')
  (hprog' : o'.prog = .rolloutStep k2 steps toks ended)
include hend hdone hopen' hprog'

/-- A completed step is counted with its tokens; the last one is followed by the boundary. -/
theorem batchPlain_of_done : batchPlain id k p r kind f s =
    let s1 := x.1.setProg p.key (.rolloutStep k (steps + 1) (toks + got) ended)
    if bf p.p0 31 16 = steps + 1 then
      let s2 := lastBoundary id k kind s1
      if (s2.open? p.key).isSome then doneStep id k p s2 else s2
    else s1 := by
  obtain ⟨pkt, prog⟩ := o
  subst hprog
  obtain ⟨pkt', prog'⟩ := o'
  subst hprog'
  simp only [batchPlain, hfirst, hbound, hopen, hroll, if_neg (hasStep_iff.mp hwork), hrun, hend, hdone, hopen',
    Option.isSome_none, Bool.false_eq_true, if_false]

/-- Short of STEPS the command stays open. -/
theorem batchPlain_of_more (hmore : bf p.p0 31 16 ≠ steps + 1) : batchPlain id k p r kind f s
    = x.1.setProg p.key (.rolloutStep k (steps + 1) (toks + got) ended) := by
  rw [batchPlain_of_done hfirst hbound hrun hopen hprog hroll hwork hend hdone hopen' hprog']
  exact if_neg hmore

/-- With STEPS reached the command completes at the boundary. -/
theorem batchPlain_of_last (hlast : bf p.p0 31 16 = steps + 1)
    (hlives : ((lastBoundary id k kind
      (x.1.setProg p.key (.rolloutStep k (steps + 1) (toks + got) ended))).open? p.key).isSome = true) :
    batchPlain id k p r kind f s = doneStep id k p (lastBoundary id k kind
      (x.1.setProg p.key (.rolloutStep k (steps + 1) (toks + got) ended))) := by
  rw [batchPlain_of_done hfirst hbound hrun hopen hprog hroll hwork hend hdone hopen' hprog']
  exact (if_pos hlast).trans (if_pos hlives)

end
end

/-! ## The batch step of a SPEC_VERIFY (R310) -/

/-- The one step of a SPEC_VERIFY that is done completes it at the boundary. -/
theorem batchVerify_of_done {acc off got : Nat} (hopen : (b.open? p.key).isSome = true)
    (hroll : (b.roll? id k).isSome = true) (hend : stepEnded id k kind p x = none) (hdone : x.2 = .done acc off got)
    (hlives : ((lastBoundary id k kind x.1).open? p.key).isSome = true) :
    batchVerify id k p r kind f s
      = endStep id p 0 0 (acc % 2 ^ 32 + got % 2 ^ 32 * 2 ^ 32) off (lastBoundary id k kind x.1) := by
  obtain ⟨o, ho⟩ := Option.isSome_iff_exists.mp hopen
  obtain ⟨y, hy⟩ := Option.isSome_iff_exists.mp hroll
  simp only [batchVerify, hfirst, hbound, ho, hy, hrun, hend, hdone, hlives, Option.isSome_none, Bool.false_eq_true,
    if_false, if_true]

end

/-! ## BATCH_STEP (R290) -/

theorem batchStep_of_no_command (hnone : s.stepList id k = []) : batchStep id k f s = s := by
  simp only [batchStep, hnone]

/-- The running step command takes its step where nothing keeps it from it. -/
theorem batchStep_of_running {l : List Packet} {n : Nat} {q : Pool} (hlist : s.stepList id k = p :: l)
    (hroll : s.roll? id k = some (n, r, q)) (hown : bf p.p0 7 0 = k) (hjob : s.runs p = true)
    (hcores : ∀ c ∈ s.coreOrder, s.takesTiles c.1 c.2 = true) (hmode : s.sched.stepMode = false)
    (hmapped : s.stepHole id k (s.kindOf id p r) = none) :
    batchStep id k f s = if p.op = 0x0305 then batchVerify id k p r (s.kindOf id p r) f s
      else batchPlain id k p r (s.kindOf id p r) f s := by
  have hfree : ¬(bf p.p0 7 0 ≠ k ∨ (!(s.runs p)) = true
      ∨ (!(s.coreOrder.all fun x => s.takesTiles x.1 x.2)) = true ∨ (s.sched.stepMode = true ∧ s.turnRoll id ≠ some k)) := by
    have hall : (s.coreOrder.all fun x => s.takesTiles x.1 x.2) = true := List.all_eq_true.mpr hcores
    simp [hown, hjob, hall, hmode]
  simp only [batchStep, hlist, hroll, if_neg hfree, hmapped]

/-! ## Stage 4 for one held sequence (R349, R350) -/

section
variable {n slot : Nat} {q : Pool} {rows : Nat → Nat} {kept : List (Nat × Nat)}
  (hroll : s.roll? id k = some (n, r, q))
include hroll

section
variable (hheld : s.slotState n r slot = 4)
include hheld

/-- With the pages free that it needs it returns, and its new pages are withheld for it. -/
theorem serveHeld_of_fits (hfits : (s.heldNeed id k slot (rows slot)).1 + (s.heldNeed id k slot (rows slot)).2
      ≤ s.kvFree n q - (kept.map (·.2)).sum) :
    serveHeld id k rows (s, kept) slot
      = (returnHeld id k slot s, kept ++ [(slot, (s.heldNeed id k slot (rows slot)).2)]) := by
  simp only [serveHeld, hroll, hheld, if_pos hfits, ne_eq, not_true_eq_false, if_false]

section
variable (hshort : s.kvFree n q - (kept.map (·.2)).sum
  < (s.heldNeed id k slot (rows slot)).1 + (s.heldNeed id k slot (rows slot)).2)
include hshort

/-- Within the policy's wait it stays held. -/
theorem serveHeld_of_waiting (hwait : s.waited n r slot < (s.policyOf n q k).2) :
    serveHeld id k rows (s, kept) slot = (s, kept) := by
  simp only [serveHeld, hroll, hheld, hshort.not_ge, hwait, ne_eq, not_true_eq_false, if_false, if_true]

/-- Under policy END it ends once the wait is over. -/
theorem serveHeld_of_policy_end (hover : (s.policyOf n q k).2 ≤ s.waited n r slot)
    (hpolicy : (s.policyOf n q k).1 = 0) :
    serveHeld id k rows (s, kept) slot = (endExhausted id k slot 0x0412 s, kept) := by
  simp only [serveHeld, hroll, hheld, hshort.not_ge, hover.not_gt, hpolicy, ne_eq, not_true_eq_false, true_or, if_false,
    if_true]

end
end

/-- Between steps EXHAUSTION_POLICY serves its slot with the rows that the rollout's own next step feeds. -/
theorem exhaustion_of_idle (hfirst : r.stage6 = none) (hnone : s.stepList id k = []) {t : State}
    (hserve : serveHeld id k (nextRows id k (s.ownKind id r) s) (s, r.withheld) slot = (t, kept)) :
    exhaustion id k slot s = t.updRoll id k fun r => { r with withheld := kept } := by
  simp only [exhaustion, hroll, hfirst, hnone, serveSlots4, List.foldl_cons, List.foldl_nil, hserve, Option.isSome_none,
    Bool.false_eq_true, if_false]

end

/-! ## The statement on batch steps and held sequences -/

/-- Settles O30: the running step command by its kind and by how its step ends, then the branches of stage 4. -/
theorem batchStepsAndHeldSequences : Obligations.BatchStepsAndHeldSequences := by
  unfold Obligations.BatchStepsAndHeldSequences
  refine ⟨fun id k f s hnone => ?idle, ?running, ?held⟩
  case idle => exact congrArg Host.Outcome.next (batchStep_of_no_command hnone)
  case running =>
    intro id k f p l n r q s hlist hroll hown hjob hfirst hcores hmode kind b x hmapped habort
    have hstep : exec (.batchStep (id, k) f) s
        = .next (if p.op = 0x0305 then batchVerify id k p r kind f s else batchPlain id k p r kind f s) :=
      congrArg Host.Outcome.next (batchStep_of_running hlist hroll hown hjob hcores hmode hmapped)
    refine ⟨?rolloutStep, ?specVerify⟩
    case rolloutStep =>
      intro o k1 a1 a2 a3 steps toks ended acc off got y hop hopen hprog hy hwork
      have hplain : p.op ≠ 0x0305 := by simp [hop]
      rw [hstep, if_neg hplain]
      refine ⟨fun hdone o' k2 hopen' hprog' => ?done, fun st rs r0 r1 hfailed hlives => ?failed⟩
      case done =>
        have hend : stepEnded id k kind p x = none := stepEnded_of_done hdone habort
        refine ⟨fun hmore => ?more, fun hlast hlives => ?last⟩
        case more =>
          rw [batchPlain_of_more hfirst rfl rfl hopen hprog hy hwork hend hdone hopen' hprog' hmore]
        case last =>
          rw [batchPlain_of_last hfirst rfl rfl hopen hprog hy hwork hend hdone hopen' hprog' hlast hlives]
      case failed =>
        rw [batchPlain_of_ended hfirst rfl rfl hopen hprog hy hwork (stepEnded_of_failed hfailed),
          failStep_of_open hlives]
    case specVerify =>
      intro acc off got hop hopen hy hdone hlives
      rw [hstep, if_pos hop,
        batchVerify_of_done hfirst rfl rfl hopen hy (stepEnded_of_done hdone habort) hdone hlives]
  case held =>
    intro id k slot n r q s hroll hfirst hnone hheld x need free pol keep
    refine ⟨fun hfits => ?fits, fun hshort hwait => ?waiting, fun hshort hover hpolicy => ?ended⟩
    all_goals refine congrArg Host.Outcome.next (exhaustion_of_idle hroll hfirst hnone ?_)
    case fits => exact serveHeld_of_fits hroll hheld hfits
    case waiting => exact serveHeld_of_waiting hroll hheld hshort hwait
    case ended => exact serveHeld_of_policy_end hroll hheld hshort hover hpolicy

end Sys2Proof.Machine
end

section
/-! PROOFS. O31: KV page pools, their tables and their receives. What a command of a mapped pool goes on to do, then an
equation for each accepted command and for each outcome of a receive, then the statement. -/

namespace Sys2Proof.Machine

open Sys2Proof

variable {p : Packet} {s : State}

/-! ## Pools: made, governed, removed (R322 to R325) -/

/-- A pool as an accepted CREATE enters it in its job. -/
def createdPool (p : Packet) (j : Job) : Pool :=
  { id := freePool j, arena := p.p2.toNat, metaVa := p.p3.toNat, pendPolicy := none, spillUsed := [] }

theorem effPoolCreate_of_accepted {j : Job} (hjob : s.job? p.job = some j) (hok : poolBad p = false)
    (hroom : j.pools.length < 16) (hpages : (j.pools.map fun q => s.cb j.vi q 16 4).sum + bf p.p1 63 32 ≤ 2 ^ 24)
    (hmapped : s.firstUnmapped p.vi p.p3.toNat (poolImage p).length = none) :
    effPoolCreate p s =
      let t := vwrite p.vi p.p3.toNat (poolImage p) s
      postDone p (createdPool p j).id (t.cb p.vi (createdPool p j) 12 4)
        (t.updJob p.job fun i => { i with pools := i.pools ++ [createdPool p j] }) := by
  have hfits : ¬(16 ≤ j.pools.length ∨ 2 ^ 24 < (j.pools.map fun q => s.cb j.vi q 16 4).sum + bf p.p1 63 32) :=
    not_or.mpr ⟨hroom.not_ge, hpages.not_gt⟩
  simp only [effPoolCreate, hjob, hok, if_neg hfits, vstore_of_mapped hmapped, Bool.false_eq_true, if_false]
  rfl

/-- The policy that a SET_POLICY asks for: POLICY, WAIT_FRETS, and the spill area with its slots. -/
def askedPolicy (p : Packet) : Nat × Nat × Nat × Nat := (bf p.p0 9 8, bf p.p1 31 0, p.p2.toNat, bf p.p3 31 0)

/-- With no policy pending, no rollout on the pool and no spill slot in use, the policy is in force at once. -/
theorem effPoolPolicy_of_no_rollout {q : Pool} (hpool : s.pool? p.job (bf p.p0 63 48) = some q)
    (hmapped : s.firstUnmapped p.vi q.metaVa 256 = none) (hpolicy : bf p.p0 9 8 < 2) (halign : p.p2.toNat % 4096 = 0)
    (hslots : bf p.p3 31 0 ≤ 16777215) (hspill : q.spillUsed = []) (hpend : q.pendPolicy = none)
    (hnone : s.rolloutsOn p.job (bf p.p0 63 48) = []) :
    effPoolPolicy p s = postDone p 0 0 ((putPolicy p.vi q (askedPolicy p) s).updPool p.job (bf p.p0 63 48)
      fun q => { q with pendPolicy := none }) := by
  have hvalid : ¬(2 ≤ bf p.p0 9 8 ∨ p.p2.toNat % 4096 ≠ 0 ∨ 16777215 < bf p.p3 31 0) := by omega
  simp only [effPoolPolicy, hpool, if_neg hvalid, hmapped, hspill, hpend, hnone, List.isEmpty_nil, Option.isSome_none,
    Bool.not_true, Bool.false_eq_true, and_false, if_false, if_true]
  rfl

/-! ## Commands of a pool whose structures are mapped (R325, R353, R354, R356) -/

/-- The control block is mapped, and so are the structures that a command uses and the further ranges it names. -/
def State.PoolMapped (s : State) (n : Nat) (q : Pool) (tables : List Nat) (more : List (Nat × Nat)) : Prop :=
  s.firstUnmapped n q.metaVa 256 = none ∧ s.firstHole n (s.poolRanges n q tables ++ more) = none

theorem withPool_of_mapped {q : Pool} {tables : List Nat} {more : State → List (Nat × Nat)} {f : State → State}
    (hmapped : s.PoolMapped p.vi q tables (more s)) : withPool p q tables more f s = f s := by
  obtain ⟨hblock, hranges⟩ := hmapped
  simp only [withPool, hblock, hranges, Option.isSome_none, Bool.false_eq_true, if_false]

/-- The ranges that a FORK reads to copy: the shared pages whose REF cannot be raised (R340). -/
def State.forkCopies (s : State) (p : Packet) (q : Pool) : List (Nat × Nat) :=
  ((s.sharable p.vi q (bf p.p0 47 24) (bf p.p1 31 0)).filter fun x => s.pageRef p.vi q x.2 == 255).map fun x =>
    (s.pageVa p.vi q x.2, s.kvStr p.vi q)

/-- A table as an accepted RECEIVE leaves it: its pages listed, its header for the pages to come, and RECEIVING. -/
def receivingTable (p : Packet) (q : Pool) (s : State) : State :=
  let t := bf p.p0 47 24
  let pages := bf p.p1 31 0
  let hdr := leBytes 4 (bf p.p1 63 32) ++ leBytes 4 pages ++ leBytes 2 (bf p.p2 15 0)
  setTh p.vi q t 0 1 3 (wr p.vi (s.tblVa p.vi q t + 24) 8 0
    (vwrite p.vi (s.tblVa p.vi q t + 8) hdr (fixUsed p.vi q t pages (fillTable p.vi q t pages 0 s))))

/-- The fret at which a RECEIVE times out; 0 where it waits without end. -/
def State.receiveDeadline (s : State) (p : Packet) : Nat :=
  if bf p.p2 63 32 = 0 then 0 else s.ftu.count.toNat + bf p.p2 63 32

/-- A fork of tables that it may use is done with the pages that it shares. -/
theorem forkTable_of_shared {q : Pool} {src dst len : Nat} {t : State} (hsrc : src < s.kvTables p.vi q)
    (hdst : dst < s.kvTables p.vi q) (hidle : s.tableIdle p.vi q dst = true) (hstate : s.th p.vi q src 0 1 ≠ 3)
    (hlisted : ∀ i, i < s.covers p.vi q len → i < s.used p.vi q src → teSpilled (s.te p.vi q src i) = false)
    (hshare : sharePages p.vi q src dst len s = some t) :
    forkTable p q src dst len s = postDone p (s.sharable p.vi q src len).length 0 t := by
  have hresident : ((List.range (min (s.covers p.vi q len) (s.used p.vi q src))).any fun j =>
      teSpilled (s.te p.vi q src j)) = false := by
    rw [List.any_eq_false]
    intro i hi
    obtain ⟨hcover, hused⟩ := lt_min_iff.mp (List.mem_range.mp hi)
    exact Bool.eq_false_iff.mp (hlisted i hcover hused)
  simp only [forkTable, hsrc.not_ge, hdst.not_ge, hidle, hstate, hresident, hshare, Bool.not_true, Bool.false_eq_true,
    or_self, if_false]

section
variable {q : Pool} (hpool : s.pool? p.job (bf p.p0 63 48) = some q)
include hpool

/-- A pool with every REF and PIN 0 and no rollout on it is removed from its job. -/
theorem effPoolDestroy_of_unreferenced (hmapped : s.PoolMapped p.vi q [] [])
    (hfree : ∀ i < s.cb p.vi q 16 4, s.desc p.vi q i % 65536 = 0)
    (hnone : s.rolloutsOn p.job (bf p.p0 63 48) = []) :
    effPoolDestroy p s = postDone p 0 0
      (s.updJob p.job fun j => { j with pools := j.pools.filter fun x => x.id != bf p.p0 63 48 }) := by
  have hunused : ((List.range (s.cb p.vi q 16 4)).any fun i => s.desc p.vi q i % 65536 != 0) = false := by
    rw [List.any_eq_false]
    intro i hi
    simp [hfree i (List.mem_range.mp hi)]
  simp only [effPoolDestroy, hpool]
  rw [withPool_of_mapped (more := fun _ => []) hmapped]
  simp only [hunused, hnone, List.isEmpty_nil, Bool.not_true, Bool.or_self, Bool.false_eq_true, if_false]

theorem effKvFork_of_mapped
    (hmapped : s.PoolMapped p.vi q [bf p.p0 23 0, bf p.p0 47 24] (s.forkCopies p q)) :
    effKvFork p s = forkTable p q (bf p.p0 47 24) (bf p.p0 23 0) (bf p.p1 31 0) s := by
  simp only [effKvFork, hpool]
  exact withPool_of_mapped hmapped

variable (hmapped : s.PoolMapped p.vi q [bf p.p0 47 24] []) (htable : bf p.p0 47 24 < s.kvTables p.vi q)
include hmapped htable

/-- A release of a table that neither receives, nor serves a sequence, nor is being sent acts at once. -/
theorem effKvRelease_of_idle (hstate : s.th p.vi q (bf p.p0 47 24) 0 1 ≠ 3)
    (hidle : s.tableBusy p.vi p.job (bf p.p0 63 48) q (bf p.p0 47 24) = false)
    (hsent : s.sending p.job (bf p.p0 63 48) (bf p.p0 47 24) = false) :
    effKvRelease p s = releaseNow p q s := by
  simp only [effKvRelease, hpool]
  rw [withPool_of_mapped (more := fun _ => []) hmapped]
  simp only [htable.not_ge, hstate, hidle, hsent, Bool.false_eq_true, or_self, if_false]

/-- A receive into an empty table that no sequence uses stays open on the table. -/
theorem effKvReceive_of_accepted
    (hpages : bf p.p1 31 0 ≤ cdiv (s.kvMaxPos p.vi q) (s.kvPt p.vi q)) (hempty : s.used p.vi q (bf p.p0 47 24) = 0)
    (hstate : s.th p.vi q (bf p.p0 47 24) 0 1 = 0 ∨ (s.th p.vi q (bf p.p0 47 24) 0 1 = 1
      ∧ s.tableBusy p.vi p.job (bf p.p0 63 48) q (bf p.p0 47 24) = false))
    (hroom : bf p.p1 31 0 ≤ s.kvFree p.vi q) :
    effKvReceive p s = (receivingTable p q s).openCmd p (.kvReceive (bf p.p0 63 48) (bf p.p0 47 24)
      (s.th p.vi q (bf p.p0 47 24) 0 1) (s.receiveDeadline p) 0 none) := by
  simp only [effKvReceive, hpool]
  rw [withPool_of_mapped (more := fun _ => []) hmapped]
  simp only [htable.not_ge, hpages.not_gt, hempty, hroom.not_gt, hstate, Bool.not_eq_true', decide_true, Bool.not_true,
    ne_eq, not_true_eq_false, Bool.false_eq_true, or_self, if_false]
  rfl

end

/-! ## Commands on a pool that the job does not have -/

section
variable (hnone : s.pool? p.job (bf p.p0 63 48) = none)
include hnone

theorem effPoolPolicy_of_unknown : effPoolPolicy p s = postErr p 0x0401 (bf p.p0 63 48) s := by
  simp only [effPoolPolicy, hnone]

theorem effPoolDestroy_of_unknown : effPoolDestroy p s = postErr p 0x0401 (bf p.p0 63 48) s := by
  simp only [effPoolDestroy, hnone]

theorem effKvFork_of_unknown : effKvFork p s = postErr p 0x0401 (bf p.p0 63 48) s := by
  simp only [effKvFork, hnone]

theorem effKvRelease_of_unknown : effKvRelease p s = postErr p 0x0401 (bf p.p0 63 48) s := by
  simp only [effKvRelease, hnone]

theorem effKvReceive_of_unknown : effKvReceive p s = postErr p 0x0401 (bf p.p0 63 48) s := by
  simp only [effKvReceive, hnone]

end

/-! ## The pages of an open receive (R358, R359) -/

/-- A page that matches its CRC is counted. -/
def countShipPage (s : State) : State := { s with ctr := { s.ctr with kvShipPages := satAdd s.ctr.kvShipPages 1 } }

section
variable {id k t former till checked : Nat} {q : Pool}
  (hrecv : s.receiveOn id k t = some { pkt := p, prog := .kvReceive k t former till checked none })
  (hpool : s.pool? id k = some q)
include hrecv hpool

section
variable (harrived : checked < s.th p.vi q t 24 8) (hshipped : checked < s.th p.vi q t 12 4)
  (hcrc : crc32c (s.peek p.vi (s.pageVa p.vi q (tePage (s.te p.vi q t checked))) (s.kvStr p.vi q))
    = BitVec.ofNat 32 (s.te p.vi q t checked / 2 ^ 32))
include harrived hshipped hcrc

/-- A page that matches is counted; then the check moves on, or ends the receive after the last page. -/
theorem pageCheck_of_match : pageCheck id k t s =
    if checked + 1 = s.th p.vi q t 12 4 then finishReceive p q t former none (countShipPage s)
    else (countShipPage s).setProg p.key (.kvReceive k t former till (checked + 1) none) := by
  have hsome : s.th p.vi q t 12 4 ≠ 0 := Nat.ne_zero_of_lt hshipped
  simp only [pageCheck, hrecv, hpool, hsome, harrived.not_ge, hshipped.not_ge, hcrc, beq_self_eq_true, or_self, if_false,
    if_true]
  rfl

end

/-- A receive past its deadline with pages missing leaves the table stranded (STATE 4). -/
theorem receiveTimeout_of_late (htimed : till ≠ 0) (hlate : till ≤ s.ftu.count.toNat)
    (hmissing : s.th p.vi q t 24 8 < s.th p.vi q t 12 4) :
    receiveTimeout id k t s =
      let s1 := setTh p.vi q t 0 1 4 s
      postErr p 0x0422 (s.th p.vi q t 24 8)
        { s1 with ctr := { s1.ctr with kvShipTimeout := satAdd s1.ctr.kvShipTimeout 1 } } := by
  simp only [receiveTimeout, hrecv, hpool, htimed, hlate.not_gt, hmissing.not_ge, or_self, if_false]

end

/-- With every page good and the table not empty, the table has its former STATE again. -/
theorem finishReceive_of_good {q : Pool} {t former : Nat} (hused : s.used p.vi q t ≠ 0) :
    finishReceive p q t former none s = postDone p 0 0 (setTh p.vi q t 0 1 former s) := by
  simp only [finishReceive, if_neg hused]

/-! ## The statement on KV pools -/

/-- Settles O31: each command by its effect on accepted operands or on a pool that the job does not have, then the outcomes
of a receive. -/
theorem kvCommandsComplete : Obligations.KvCommandsComplete := by
  unfold Obligations.KvCommandsComplete
  refine ⟨fun p s0 hd => ?commands, fun id k t former till checked p q s hrecv hpool => ?receives⟩
  case commands =>
    intro s k
    refine ⟨?create, fun hnone => ?unknown, fun q hpool => ?onPool⟩
    case create =>
      intro j hjob hok hroom hpages hmapped q s1
      rw [exec_kvPoolCreate hd, effPoolCreate_of_accepted hjob hok hroom hpages hmapped]
      rfl
    case unknown =>
      refine ⟨?_, ?_, ?_, ?_, ?_⟩
      · rw [exec_kvPoolSetPolicy hd, effPoolPolicy_of_unknown hnone]
      · rw [exec_kvPoolDestroy hd, effPoolDestroy_of_unknown hnone]
      · rw [exec_kvFork hd, effKvFork_of_unknown hnone]
      · rw [exec_kvRelease hd, effKvRelease_of_unknown hnone]
      · rw [exec_kvShipReceive hd, effKvReceive_of_unknown hnone]
    case onPool =>
      intro mapped
      refine ⟨?policy, ?destroy, ?fork, ?release, ?receive⟩
      case policy =>
        intro hblock hpolicy halign hslots hspill hpend hidle
        rw [exec_kvPoolSetPolicy hd, effPoolPolicy_of_no_rollout hpool hblock hpolicy halign hslots hspill hpend hidle]
        rfl
      case destroy =>
        intro hmapped hfree hidle
        rw [exec_kvPoolDestroy hd, effPoolDestroy_of_unreferenced hpool hmapped hfree hidle]
      case fork =>
        intro s1 hmapped hsrc hdst hidle hstate hlisted hshare
        rw [exec_kvFork hd, effKvFork_of_mapped hpool hmapped,
          forkTable_of_shared hsrc hdst hidle hstate hlisted hshare]
      case release =>
        intro hmapped htable hstate hidle hsent
        rw [exec_kvRelease hd, effKvRelease_of_idle hpool hmapped htable hstate hidle hsent]
      case receive =>
        intro t pages st hdr hmapped htable hpages hempty hstate hroom
        rw [exec_kvShipReceive hd, effKvReceive_of_accepted hpool hmapped htable hpages hempty hstate hroom]
        rfl
  case receives =>
    refine ⟨?check, fun htimed hlate hmissing => ?late⟩
    case check =>
      intro e s1 harrived hshipped hcrc
      have hcheck := pageCheck_of_match hrecv hpool harrived hshipped hcrc
      refine ⟨fun hmore => ?more, fun hlast hused => ?last⟩
      all_goals refine congrArg Host.Outcome.next (hcheck.trans ?_)
      case more => exact if_neg hmore
      case last => exact (if_pos hlast).trans (finishReceive_of_good hused)
    case late => exact congrArg Host.Outcome.next (receiveTimeout_of_late hrecv hpool htimed hlate hmissing)

end Sys2Proof.Machine
end

section
/-! PROOFS. O33 and O34: models, their adapters and the freshet. An equation for each accepted command and for each outcome
of an event; then, for each of the two statements, a state in which one of its clauses fails. The clauses that fail are the
loaded model's handle (the model's equation is `loadModel_of_room`) and the count of released versions
(`decideFlip_of_verified`); every other clause is one of the equations. -/

namespace Sys2Proof.Machine

open Sys2Proof

variable {p : Packet} {s : State} {m : Model}

/-! ## The model that a command names (R467, R469) -/

/-- A model is found by the handle that it has. -/
theorem model?_handle {id h : Nat} (hmodel : s.model? id h = some m) : m.handle = h := by
  obtain ⟨j, -, hfind⟩ := Option.bind_eq_some_iff.mp hmodel
  simpa using List.find?_some hfind

theorem nameModel_eq_ok_iff {h : Nat} :
    s.nameModel p h = .ok m ↔ s.model? p.job h = some m ∧ s.modelState p.vi m = 0 := by
  unfold State.nameModel
  cases hfind : s.model? p.job h with
  | none => simp
  | some m' =>
    by_cases hopen : s.modelState p.vi m' = 0
    · simp only [hopen, ne_eq, not_true_eq_false, if_false, Except.ok.injEq, Option.some.injEq]
      exact ⟨fun heq => ⟨heq, heq ▸ hopen⟩, And.left⟩
    · simp only [ne_eq, hopen, not_false_eq_true, if_true, reduceCtorEq, Option.some.injEq, false_iff, not_and]
      exact fun heq => heq ▸ hopen

/-! ## STOW_LOAD (R435 to R439) -/

/-- The regions of a base image. -/
def stowRegions (b : List Byte) : List Region := (List.range (blk b 20 2)).map (regionOf b 0)

/-- The regions that a load places in the host tier. -/
def stowTier (p : Packet) (b : List Byte) : List Nat := tierRegions (p.p0.getLsbD 8) (bf p.p4 63 32) (stowRegions b)

/-- Bytes of the header and of the freshet table, with the spare entries asked for. -/
def stowTab (p : Packet) (b : List Byte) : Nat := 256 + 64 * ((stowRegions b).length + bf p.p4 15 0)

/-- Pages of the table and of the check arrays, which stand before the data. -/
def stowHead (p : Packet) (b : List Byte) : Nat :=
  cdiv (stowTab p b + checkBytes (p.p0.getLsbD 8) (stowRegions b)) pageSize

/-- Kinds of the pages of a model's area. -/
def stowKinds (p : Packet) (b : List Byte) : List Nat :=
  areaKinds (p.p0.getLsbD 8) (stowTier p b) (stowHead p b) (stowRegions b)

/-- The header of a model as it is loaded (Table 11.6). -/
def stowHeader (p : Packet) (b : List Byte) (j : Job) : List Byte :=
  leBytes 2 (freeHandle j) ++ leBytes 2 (stowRegions b).length ++ leBytes 1 0 ++ leBytes 1 (b2n (p.p0.getLsbD 8))
    ++ leBytes 2 (bf p.p4 15 0) ++ leBytes 8 (blk b 8 8) ++ leBytes 4 (blk b 16 4) ++ leBytes 4 0xFFFFFFFF
    ++ leBytes 8 0 ++ leBytes 8 0 ++ leBytes 8 0

/-- The area is mapped at its homes, its header written and its regions entered. -/
def stowLaidOut (p : Packet) (b : List Byte) (j : Job) (homes : List (Nat × Home)) (s : State) : State :=
  putRegions p.vi p.p3.toNat (blk b 16 4) (p.p0.getLsbD 8) b (stowRegions b) 0 0
    (p.p3.toNat + stowHead p b * pageSize) (p.p3.toNat + stowTab p b)
    (vwrite p.vi p.p3.toNat (stowHeader p b j) (mapArea p.vi p.job homes s))

/-- The model that a load adds to its job. -/
def stowModel (p : Packet) (b : List Byte) (j : Job) : Model :=
  modelOf b (freeHandle j) p.p3.toNat (stowKinds p b).length (p.p0.getLsbD 8) (stowRegions b) (stowTier p b)

theorem effStowLoad_of_image {j : Job} {b : List Byte} (hjob : s.job? p.job = some j)
    (hread : vread p.vi s p.p1.toNat p.p2.toNat = .ok b) (himage : imageRefusal b p.p2.toNat 1 = none) :
    effStowLoad p s = loadModel p b j s := by
  simp only [effStowLoad, hjob, hread, himage]

/-- A model for which there is room is laid out and added to the jobs of the packet's ID, under the handle that the job
found by that ID has free. -/
theorem loadModel_of_room {j : Job} {b : List Byte} {homes : List (Nat × Home)} (hroom : j.models.length < 256)
    (hfree : s.areaFree p.vi p.p3.toNat (stowKinds p b).length = true)
    (hhomes : s.areaHomes p.job (p.p3.toNat / pageSize) (stowKinds p b) = .ok homes)
    (hshort : s.areaShort p.vi (stowKinds p b).length 0 = 0) :
    loadModel p b j s = postDone p ((stowTier p b).length * 2 ^ 32 + freeHandle j) (stowKinds p b).length
      ((stowLaidOut p b j homes s).updJob p.job fun i => { i with models := i.models ++ [stowModel p b j] }) := by
  simp only [stowKinds, stowTier, stowHead, stowTab, stowRegions] at hfree hhomes hshort
  simp only [loadModel, hroom.not_ge, hfree, hhomes, hshort, Bool.not_true, Bool.false_eq_true, ne_eq, not_true_eq_false,
    if_false]
  rfl

/-! ## Adapters (R457, R458, R465) -/

theorem effAdapterUnload_of_unused {v : Variant} (hmodel : s.nameModel p (bf p.p0 15 0) = .ok m)
    (hloaded : m.variant? (bf p.p0 31 16) = some v) (hunused : s.variantBusy p.vi p.job m v = false) :
    effAdapterUnload p s = postDone p 0 0 (dropVariant p.vi p.job m v s) := by
  simp only [effAdapterUnload, hmodel, hloaded, hunused, Bool.false_eq_true, if_false]

/-- The image of a variant that is not loaded yet replaces nothing: it goes where there is room. -/
theorem effAdapterLoad_of_new {b : List Byte} {x : Nat × List (Nat × Home)}
    (hmodel : s.nameModel p (bf p.p0 15 0) = .ok m) (hread : vread p.vi s p.p1.toNat p.p2.toNat = .ok b)
    (himage : imageRefusal b p.p2.toNat 2 = none) (hnew : m.variant? (bf p.p0 31 16) = none)
    (hshape : blk b 8 8 = m.shapeId.toNat) (hroom : blk b 20 2 ≤ s.rd p.vi (m.wbase + 6) 2)
    (hpairs : adapterBad (variantRegions p b) = none) (hplace : variantPlace p (variantRegions p b) m s = .ok x) :
    effAdapterLoad p s = loadVariant p b (variantRegions p b) m x s := by
  obtain ⟨hfind, -⟩ := nameModel_eq_ok_iff.mp hmodel
  have hlength : (variantRegions p b).length = blk b 20 2 := by simp [variantRegions]
  have hfits : ¬(blk b 8 8 ≠ m.shapeId.toNat ∨ s.rd p.vi (m.wbase + 6) 2 + 0 < (variantRegions p b).length) := by omega
  have hself : s.model? p.job m.handle = some m := by rw [model?_handle hfind, hfind]
  simp only [effAdapterLoad, hmodel, hread, himage, hnew, Option.map_none, Option.getD_none, if_neg hfits, hpairs,
    Option.any_none, Bool.false_eq_true, if_false, hself, Option.getD_some, hplace]

/-! ## FRESHET_FLIP and FRESHET_DISCARD (R449, R455) -/

/-- The state in which a flip is entered in the schedule and in the header of its model. -/
def flipEntered (p : Packet) (m : Model) (s : State) : State :=
  wr p.vi (m.wbase + 24) 8 p.p2.toNat
    (wr p.vi (m.wbase + 20) 4 (bf p.p1 31 0) (schedule .flip p.p2.toNat (some p.key) s))

theorem effFlip_of_accepted (hmodel : s.model? p.job (bf p.p0 15 0) = some m) (hversion : bf p.p1 31 0 ≠ 0xFFFFFFFF)
    (hflip : m.flip = none) (hshadow : m.shadow = true) (hopen : s.modelState p.vi m = 0)
    (hsched : schedRefusal p.p2.toNat s = none) :
    effFlip p s = ((flipEntered p m s).updModel p.job m.handle fun m => { m with flip := some p }).openCmd p
      (.flip p.job m.handle) := by
  simp only [effFlip, hmodel, hversion, hflip, hshadow, hopen, hsched, Option.isSome_none, Bool.not_true, ne_eq,
    not_true_eq_false, Bool.false_eq_true, if_false]
  rfl

/-- The regions whose spare buffer a DISCARD empties: VERIFIED, FAILED, and with FILLING asked for those in reception. -/
def State.discarded (s : State) (p : Packet) (m : Model) : List Nat :=
  m.indices.filter fun i =>
    let st := ssOf (s.stw p.vi m i)
    st == 3 || st == 4 || (st == 2 && p.p0.getLsbD 24)

theorem effDiscard_of_no_flip (hmodel : s.nameModel p (bf p.p0 15 0) = .ok m) (hflip : m.flip = none) :
    effDiscard p s = postDone p (s.discarded p m).length 0 ((s.discarded p m).foldl
      (fun s i => setSs p.vi m i 1 (setChecked p.job m.handle i noCheck s)) s) := by
  simp only [effDiscard, hmodel, hflip, Option.isSome_none, Bool.false_eq_true, if_false]
  rfl

/-! ## MODEL_DRAIN (R467, R468) -/

/-- A model that begins to drain without CLOSE: DRAINING, its entered flip ended, and the command open. -/
def drainOpened (p : Packet) (m : Model) (s : State) : State :=
  ((dropFlip p.vi p.job m (wr p.vi (m.wbase + 4) 1 1 s)).updModel p.job (bf p.p0 15 0) fun m =>
    { m with drain := some (p, s.ftu.count.toNat + bf p.p1 31 0) }).openCmd p (.drain p.job (bf p.p0 15 0))

theorem effModelDrain_of_first (hmodel : s.model? p.job (bf p.p0 15 0) = some m) (hdrain : m.drain = none)
    (hclose : p.p0.getLsbD 16 = false) : effModelDrain p s =
      tryDrain { pkt := p, prog := .drain p.job (bf p.p0 15 0) } (drainOpened p m s) := by
  simp only [effModelDrain, hmodel, hdrain, hclose, Option.isSome_none, Bool.false_eq_true, if_false]
  rfl

section
variable {id h : Nat}

theorem tryDrain_of_not_ready (hwait : s.drainReady p h = false) :
    tryDrain { pkt := p, prog := .drain id h } s = s := by
  cases hmodel : s.model? id h <;> simp only [tryDrain, hmodel, hwait, Bool.not_false, if_true]

/-- With no region in reception and no variant loaded, every region is closed, the area unmapped and the model gone. -/
theorem tryDrain_of_ready (hmodel : s.model? id h = some m) (hready : s.drainReady p h = true)
    (hfilled : s.filling p.vi m = []) (hvariants : m.variants = []) :
    tryDrain { pkt := p, prog := .drain id h } s = postDone p m.units 0
      ((unmapArea p.vi m.wbase m.units (m.indices.foldl (fun s i => setSs p.vi m i 6 s) s)).updJob id fun j =>
        { j with models := j.models.filter fun x => x.handle != h }) := by
  have hall : (m.indices.filter fun _ => true) = m.indices := List.filter_true m.indices
  simp only [tryDrain, hmodel, hready, hfilled, hvariants, List.contains_nil, Bool.not_true, Bool.not_false, hall,
    List.isEmpty_nil, Bool.false_eq_true, if_false, List.map_nil, List.sum_nil, Nat.add_zero, List.foldl_nil]

section
variable {last : Nat} (hmodel : s.model? id h = some m) (hdrain : m.drain = some (p, last))
include hmodel hdrain

theorem drainTimeout_of_early (hearly : s.ftu.count.toNat < last) : drainTimeout id h s = s := by
  simp only [drainTimeout, hmodel, hdrain, if_pos hearly]

theorem drainTimeout_of_late (hlate : last ≤ s.ftu.count.toNat) : drainTimeout id h s =
    postErr p 0x060A (s.filling p.vi m).length (s.updModel id h fun m => { m with drain := none }) := by
  simp only [drainTimeout, hmodel, hdrain, if_neg hlate.not_gt]

end
end

/-! ## The decision of a flip (R450 to R452) -/

theorem flipDecision_of_due {id h : Nat} {t : State} (hmodel : s.model? id h = some m) (hflip : m.flip = some p)
    (hdue : takeDue .flip p.key s = some t) : flipDecision id h s = decideFlip p m t := by
  simp only [flipDecision, hmodel, hflip, hdue]

/-- The regions that do not qualify for the release of a version. -/
def State.unverified (s : State) (n : Nat) (m : Model) (version : Nat) : List Nat :=
  m.live.filter fun i => !(s.verifiedAt n m version i)

/-- Every region is released at a version, and the release counted: the count is that before the releases, plus one. -/
def releaseAll (n version : Nat) (m : Model) (s : State) : State :=
  let t := m.live.foldl (releaseRegion n version m) s
  let u := wr n (m.wbase + 32) 8 (s.rd n (m.wbase + 32) 8 + 1) (wr n (m.wbase + 16) 4 version t)
  { u with ctr := { u.ctr with fshReleased := satAdd u.ctr.fshReleased 1 } }

/-- A flip that is held is counted; nothing is released. -/
def holdFlip (n : Nat) (m : Model) (s : State) : State :=
  let t := wr n (m.wbase + 40) 8 (s.rd n (m.wbase + 40) 8 + 1) s
  { t with ctr := { t.ctr with fshHeld := satAdd t.ctr.fshHeld 1 } }

/-- The reason of VERSION_HELD: whether one of the regions failed its checks. -/
def State.heldReason (s : State) (n : Nat) (m : Model) (bad : List Nat) : Half :=
  if bad.any fun i => ssOf (s.stw n m i) == 4 then 0x0621 else 0x0620

section
variable {t : State} (hclear : clearFlip p.vi p.job m s = t)
include hclear

theorem decideFlip_of_served (hserved : ∀ i ∈ m.live, t.ent p.vi m i 48 4 = bf p.p1 31 0) :
    decideFlip p m s = postDone p (bf p.p1 31 0) 0 t := by
  have hall : (m.live.all fun i => t.ent p.vi m i 48 4 == bf p.p1 31 0) = true := by simpa using hserved
  simp only [decideFlip, hclear, hall, if_true]

section
variable (hother : ∃ i ∈ m.live, t.ent p.vi m i 48 4 ≠ bf p.p1 31 0)
include hother

theorem decideFlip_of_verified (hverified : t.unverified p.vi m (bf p.p1 31 0) = []) :
    decideFlip p m s = postDone p (bf p.p1 31 0) m.live.length (releaseAll p.vi (bf p.p1 31 0) m t) := by
  have hall : (m.live.all fun i => t.ent p.vi m i 48 4 == bf p.p1 31 0) = false := by simpa using hother
  unfold State.unverified at hverified
  simp only [decideFlip, hclear, hall, hverified, List.isEmpty_nil, Bool.false_eq_true, if_false, if_true]
  rfl

theorem decideFlip_of_unverified (hbad : t.unverified p.vi m (bf p.p1 31 0) ≠ []) :
    decideFlip p m s = postFinal p 0x40 (t.heldReason p.vi m (t.unverified p.vi m (bf p.p1 31 0)))
      (t.modelVersion p.vi m) (t.unverified p.vi m (bf p.p1 31 0)).length (holdFlip p.vi m t) := by
  have hall : (m.live.all fun i => t.ent p.vi m i 48 4 == bf p.p1 31 0) = false := by simpa using hother
  have hsome : (t.unverified p.vi m (bf p.p1 31 0)).isEmpty = false := by simpa using hbad
  unfold State.unverified at hsome
  simp only [decideFlip, hclear, hall, hsome, Bool.false_eq_true, if_false]
  rfl

end
end

/-! ## A push at its destination (R446) -/

/-- Where the next chunk of a region in reception lies: in the buffer that is not in service. -/
def State.spareBuffer (s : State) (n : Nat) (m : Model) (i : Nat) : Nat :=
  s.ent n m i (if bn (s.stw n m i) 4 4 = 0 then 8 else 0) 8

/-- The next chunk of a region matches its checksum. -/
def State.chunkGood (s : State) (n : Nat) (m : Model) (i : Nat) (r : Region) : Prop :=
  (crc32c (s.peek n (s.spareBuffer n m i + r.checked * 262144) (min 262144 (r.bytes - r.checked * 262144)))).toNat
    = s.rd n (s.ent n m i 40 8 + 4 * r.checked) 4

/-- A chunk of 256 KiB that matches counts towards the units of 16 MiB received. -/
def countChunk (s : State) : State :=
  { s with ctr := { s.ctr with
      fshReceived := satAdd s.ctr.fshReceived ((s.ctr.fshRest + 1) / 64), fshRest := (s.ctr.fshRest + 1) % 64 } }

/-- A chunk that does not match is counted. -/
def countFailure (s : State) : State := { s with ctr := { s.ctr with fshFails := satAdd s.ctr.fshFails 1 } }

section
variable {id h i : Nat} {j : Job} {r : Region} (hjob : s.job? id = some j) (hmodel : s.model? id h = some m)
include hjob hmodel

section
variable (hregion : m.regions[i]? = some r) (hfilling : ssOf (s.stw j.vi m i) = 2)
  (harrived : r.checked < s.ent j.vi m i 24 8) (hmore : r.checked < s.ent j.vi m i 52 4)
include hregion hfilling harrived hmore

theorem chunkCheck_of_good (hgood : s.chunkGood j.vi m i r) : chunkCheck id h i s =
    if r.checked + 1 = s.ent j.vi m i 52 4 then
      setSs j.vi m i 3 (setChecked id h i noCheck (countChunk (setChecked id h i (r.checked + 1) s)))
    else countChunk (setChecked id h i (r.checked + 1) s) := by
  simp only [State.chunkGood, State.spareBuffer] at hgood
  simp only [chunkCheck, hjob, hmodel, hregion, hfilling, harrived.not_ge, hmore.not_ge, hgood, ne_eq, not_true_eq_false,
    or_self, if_false, if_true]
  rfl

theorem chunkCheck_of_bad (hbad : ¬s.chunkGood j.vi m i r) : chunkCheck id h i s =
    setSs j.vi m i 4 (countFailure (setChecked id h i noCheck (setChecked id h i (r.checked + 1) s))) := by
  simp only [State.chunkGood, State.spareBuffer] at hbad
  simp only [chunkCheck, hjob, hmodel, hregion, hfilling, harrived.not_ge, hmore.not_ge, hbad, ne_eq, not_true_eq_false,
    or_self, if_false]
  rfl

end

/-! ## Region drains and the host tier (R454, R466) -/

theorem regionDrainEnd_of_model : regionDrainEnd id h i s =
    if m.indices.contains i = true ∧ ssOf (s.stw j.vi m i) = 5
      ∧ s.formerReader id m (s.ent j.vi m i 48 4) = false then setSs j.vi m i 1 s else s := by
  simp only [regionDrainEnd, hjob, hmodel, Bool.and_eq_true, beq_iff_eq, Bool.not_eq_true', and_assoc]

end

theorem hostTierStream_of_hostTier {id h i : Nat} (hmodel : s.model? id h = some m)
    (htier : m.hostTier.contains i = true) : hostTierStream id h i s =
      let bytes := s.ctr.fshStreamRest + ((m.regions[i]?).map (·.bytes)).getD 0
      let kept := (m.streamed.filter (· != i)) ++ [i]
      let t := s.updModel id h fun m => { m with streamed := kept.drop (kept.length - 3) }
      { t with ctr := { t.ctr with
        fshStream := satAdd s.ctr.fshStream (bytes / 65536), fshStreamRest := bytes % 65536 } } := by
  simp only [hostTierStream, hmodel, htier, if_true]
  rfl

/-! ## The end of a packet of class 0x06 -/

/-- It closes no window and marks no phase: its record is all. -/
theorem postDone_recordsOnly (hclass : p.opcode.toNat / 256 = 6) (r0 r1 : Nat) (s : State) :
    RecordsOnly s (postDone p r0 r1 s) := by
  have hupdate : p.opcode ≠ 0x0503 := by
    rintro heq
    rw [heq] at hclass
    exact absurd hclass (by decide)
  rw [postDone, postFinal_eq_postRefused p _ _ _ _ s (.inl hupdate) (.inl (by omega))]
  exact postRefused_recordsOnly ..

/-! ## Two jobs of one ID

The statement O33 ranges over every state, and so over states that list an ID twice. A load adds its model to every job of
its ID under the handle that the first of them has free. The statement binds the job anew in `fun j => …`, and so takes the
handle that each job has free itself. -/

/-- A running job of VI0 with models. -/
def jobWith (models : List Model) : Job :=
  { id := 0, vi := 0, state := 3, ctxHost := 0, evicted := false, ctxFrames := [], cmdList := [], start := none
    deferred := none, heldFrom := 0, lastRan := 0, preempt := 0, preemptBy := 0, capoFret := 0, cls := 0, lastRoll := none
    everRun := true, seedLo := 0, seedHi := 0, seedLoads := 0, progs := [], funcs := [], gens := [], upds := []
    stepSize := none, passes := [], window := none, rollouts := [], pools := [], models := models, ckpts := [], holds := []
    parities := [], domain := 0 }

namespace TwinJobs

/-- The header of a base image of one region and one piece, without its CRC (Table 11.1). -/
def head : List Byte :=
  leBytes 4 0x54535642 ++ [1, 1, 0, 0] ++ leBytes 12 0 ++ leBytes 2 1 ++ leBytes 2 1 ++ leBytes 12 0 ++ leBytes 4 8
    ++ leBytes 8 128 ++ leBytes 8 192 ++ leBytes 16 0 ++ leBytes 8 224 ++ leBytes 44 0

/-- The image: its header, the entry of a region of no bytes and the entry of a piece (Tables 11.2 and 11.3). -/
def image : List Byte :=
  head ++ leBytes 4 (crc32c head).toNat ++ (leBytes 8 224 ++ leBytes 56 0) ++ ([1] ++ leBytes 31 0)

/-- STOW_LOAD of the image in page 1, to an area at page 16. -/
def load : Packet :=
  { vi := 0, sq := 0, opcode := 0x0601, flags := 0, viTag := 0, jobId := 0, seq := 0, userTag := 0
    p0 := 0, p1 := 0x200000, p2 := 224, p3 := 0x2000000, p4 := 0, p5 := 0 }

/-- A READY module that has fetched the load; of the two jobs of ID 0, the second has handle 0 in use. -/
def state : State :=
  { boot := { state := 4 }, jobs := [jobWith [], jobWith [modelOf image 0 0 0 false [] []]]
    stks := [(2, { state := 1 })], dies := [(0, { role := 1 })]
    vis := [(0, { pages := [(1, { home := .hbm 0 0, job := 0, move := none })], sqs := [(0, { fetched := [load] })] })]
    devMem := Mem.writeN [] 0 image }

/-- The one page that the area takes. -/
def homes : List (Nat × Home) := [(16, .hbm 2 0)]

theorem dispatches_load : dispatches load state = true := by decide +kernel

theorem vread_image : vread load.vi (taken load state) load.p1.toNat load.p2.toNat = .ok image := by decide +kernel

theorem imageRefusal_image : imageRefusal image load.p2.toNat 1 = none := by decide +kernel

theorem areaHomes_load : (taken load state).areaHomes load.job (load.p3.toNat / pageSize) (stowKinds load image)
    = .ok homes := by decide +kernel

theorem areaFree_load : (taken load state).areaFree load.vi load.p3.toNat (stowKinds load image).length = true := by
  decide +kernel

theorem areaShort_load : (taken load state).areaShort load.vi (stowKinds load image).length 0 = 0 := by decide +kernel

/-- The area laid out, before the model is entered in its jobs. -/
def laidOut : State := stowLaidOut load image (jobWith []) homes (taken load state)

theorem exec_load : exec (.stowLoad load) state = .next (postDone load 0 1
    (laidOut.updJob 0 fun i => { i with models := i.models ++ [stowModel load image (jobWith [])] })) := by
  rw [exec_stowLoad dispatches_load, effStowLoad_of_image rfl vread_image imageRefusal_image,
    loadModel_of_room (by decide) areaFree_load areaHomes_load areaShort_load]
  rfl

/-- The handles of the models of each job. -/
def handles (s : State) : List (List Nat) := s.jobs.map fun j => j.models.map (·.handle)

end TwinJobs

open TwinJobs in
/-- Refutes O33: of two jobs of one ID the second has handle 0 in use, and the load enters its model there under handle 0
again, not under handle 1. -/
theorem not_modelAndFreshetCommands : ¬ Obligations.ModelAndFreshetCommands := by
  unfold Obligations.ModelAndFreshetCommands
  rintro ⟨hcommands, -⟩
  obtain ⟨hload, -⟩ := hcommands load state dispatches_load
  have hstated := hload (jobWith []) image homes rfl vread_image imageRefusal_image (by decide) areaFree_load
    areaHomes_load areaShort_load
  rw [exec_load] at hstated
  have hends := congrArg handles (Host.Outcome.next.inj hstated)
  simp only [handles, (postDone_recordsOnly (p := load) rfl _ _ _).jobs] at hends
  exact absurd hends (by decide +kernel)

/-! ## A count that a region's entry overlaps

The statement O34 ranges over every state, and so over states in which two pages of a VI share bytes. There the release of a
region may write the count of released versions itself. The module counts on from the value before the releases, the
statement from the value after them. -/

namespace SharedBytes

/-- FRESHET_FLIP of model 0 of job 0 to version 9. -/
def flip : Packet :=
  { vi := 0, sq := 0, opcode := 0x0604, flags := 0, viTag := 0, jobId := 0, seq := 0, userTag := 0
    p0 := 0x10000, p1 := 9, p2 := 0, p3 := 0, p4 := 0, p5 := 0 }

/-- A shadow model of one region, whose header ends with page 1; its table begins with page 2. -/
def model : Model :=
  { handle := 0, wbase := 0x3FFF00, units := 1, shadow := true, shapeId := 0, layers := 0, kvHeads := 0, headDim := 0
    fmtK := 0, fmtV := 0, vocab := 0, pieces := [], programs := [], route := [], variants := [], hostTier := []
    streamed := [], flip := some flip, drain := none
    regions := [{ bytes := 0, rows := 0, cols := 0, fmt := 0, order := 0, home := 0, flags := 0, twin := 0, piece := 0
                  alpha := 0, variant := 0, checked := 0 }] }

/-- The flip is due. In remote memory page 2 begins 240 bytes before page 1 ends, so that the region's state word is the
count of released versions: VERIFIED at version 9, where the region serves version 7. -/
def state : State :=
  { ftu := { sched := [{ kind := .flip, fret := 0, cmd := some flip.key }] }, jobs := [jobWith [model]]
    vis := [(0, { pages := [(1, { home := .remote 0 0, job := 0, move := none }),
                            (2, { home := .remote 0 0x1FFF10, job := 0, move := none })] })]
    remMem := [(0x1FFF20, 3), (0x1FFF24, 9), (0x1FFF40, 7)] }

/-- The state in which the flip is no longer entered. -/
def cleared : State := clearFlip 0 0 model (unschedule flip.key state)

theorem takeDue_flip : takeDue .flip flip.key state = some (unschedule flip.key state) := rfl

theorem other_version : ∃ i ∈ model.live, cleared.ent 0 model i 48 4 ≠ 9 := ⟨0, by decide +kernel⟩

theorem no_unverified : cleared.unverified 0 model 9 = [] := by decide +kernel

end SharedBytes

open SharedBytes in
/-- Refutes O34: where a region's state word lies at the count of released versions, the flip counts on from the word before
the release, not from the one that the release has written. -/
theorem not_freshetEvents : ¬ Obligations.FreshetEvents := by
  unfold Obligations.FreshetEvents
  rintro ⟨hflip, -⟩
  obtain ⟨-, hreleased, -⟩ := hflip 0 0 model flip state (unschedule flip.key state) rfl rfl rfl takeDue_flip
  have hstated := Host.Outcome.next.inj (hreleased other_version no_unverified)
  have hdone : flipDecision 0 0 state = postDone flip 9 1 (releaseAll 0 9 model cleared) :=
    (flipDecision_of_due rfl rfl takeDue_flip).trans (decideFlip_of_verified (p := flip) rfl other_version no_unverified)
  have hmem := congrArg State.remMem (hdone.symm.trans hstated)
  simp only [(postDone_recordsOnly (p := flip) rfl _ _ _).remMem] at hmem
  exact absurd hmem (by decide +kernel)

end Sys2Proof.Machine
end

section
/-! PROOFS. O19 and O21: the commands of the memory tiers. What a table of mappings and a zeroed memory read as, an equation
for each accepted command, then the two statements. -/

namespace Sys2Proof.Machine

open Sys2Proof

/-! ## Tables of mappings -/

section
variable {α : Type} {t : Tbl α} {n m : Nat} {v : α}

/-- To find an entry is to read it with `none` for those that are not listed. -/
theorem tfind_eq_tget (t : Tbl α) (n : Nat) : tfind t n = tget none (t.map fun e => (e.1, some e.2)) n := by
  induction t with
  | nil => rfl
  | cons e t ih => simp only [tfind, List.map_cons, tget, ih]

theorem map_tset (t : Tbl α) (n : Nat) (v : α) :
    (tset t n v).map (fun e => (e.1, some e.2)) = tset (t.map fun e => (e.1, some e.2)) n (some v) := by
  induction t with
  | nil => rfl
  | cons e t ih =>
    simp only [tset, List.map_cons]
    split
    · rfl
    · split
      · rfl
      · exact congrArg _ ih

@[simp] theorem tfind_tset_same (t : Tbl α) (n : Nat) (v : α) : tfind (tset t n v) n = some v := by
  rw [tfind_eq_tget, map_tset, tget_tset_same]

@[simp] theorem tfind_tset_of_ne (t : Tbl α) (v : α) (h : m ≠ n) : tfind (tset t n v) m = tfind t m := by
  rw [tfind_eq_tget, map_tset, tget_tset_of_ne _ _ _ h, ← tfind_eq_tget]

end

/-! ## Zeroed memory -/

/-- A zeroed byte reads as 0. -/
theorem Mem.read_zero_of_inside (m : Mem) {a n x : Nat} (ha : a ≤ x) (hn : x < a + n) : (m.zero a n).read x = 0 := by
  induction m with
  | nil => rfl
  | cons c m ih =>
    obtain ⟨k, b⟩ := c
    simp only [Mem.zero] at ih ⊢
    rw [List.filter_cons]
    split
    case isTrue hkept =>
      have hk : k ≠ x := by simp only [decide_eq_true_eq] at hkept; omega
      simp only [Mem.read, if_neg hk, ih]
    case isFalse => exact ih

/-- A byte outside what is zeroed stays. -/
theorem Mem.read_zero_of_outside (m : Mem) {a n x : Nat} (h : x < a ∨ a + n ≤ x) : (m.zero a n).read x = m.read x := by
  induction m with
  | nil => rfl
  | cons c m ih =>
    obtain ⟨k, b⟩ := c
    simp only [Mem.zero] at ih ⊢
    rw [List.filter_cons]
    split
    case isTrue => simp only [Mem.read, ih]
    case isFalse hgone =>
      have hk : k ≠ x := by simp only [decide_eq_true_eq] at hgone; omega
      simp only [Mem.read, if_neg hk, ih]

/-! ## The frame of a command's end -/

section
variable {s t : State}

theorem RecordFrame.devMem (h : RecordFrame s t) : t.devMem = s.devMem := by rw [h.state]

theorem RecordFrame.pages (h : RecordFrame s t) (n : Nat) : (t.vi n).pages = (s.vi n).pages := by rw [h.vi n]

end

variable {p : Packet} {s : State}

/-- A packet that closes no phase window and is of no class 0x07 ends with its record alone. -/
theorem postDone_recordFrame (hupdate : p.opcode ≠ 0x0503) (hclass : p.opcode.toNat / 256 ≠ 7) (r0 r1 : Nat) (s : State) :
    RecordFrame s (postDone p r0 r1 s) := by
  rw [postDone, postFinal_eq_postRefused p _ _ _ _ s (.inl hupdate) (.inl hclass)]
  exact postRefused_recordFrame ..

@[simp] theorem taken_pages (p : Packet) (s : State) (n : Nat) : ((taken p s).vi n).pages = (s.vi n).pages := by
  unfold taken
  split
  · by_cases hn : n = p.vi
    · rw [hn, State.updSq, State.updVi_vi_same]
    · rw [State.updSq, State.updVi_vi_of_ne s _ hn]
  · rfl

/-! ## FILL and MOVE (R493, R495) -/

theorem effFill_of_mapped (hva : p.p0.toNat % 8 = 0) (hlen : p.p1.toNat % 8 = 0)
    (hmapped : s.firstUnmapped p.vi p.p0.toNat p.p1.toNat = none) :
    effFill p s = postDone p 0 0 (vwrite p.vi p.p0.toNat (fillBytes p) (markPhase p.job 8 s)) := by
  have hrange : (markPhase p.job 8 s).firstUnmapped p.vi p.p0.toNat (fillBytes p).length = none := by
    rw [show (fillBytes p).length = p.p1.toNat by simp [fillBytes]]
    exact hmapped
  rw [effFill, if_neg (by omega), vstore_of_mapped hrange]
  rfl

theorem effMove_of_read (hok : moveMalformed p = false)
    (hrows : (moveRows p (bf p.p2 31 0) 0 (markPhase p.job 8 s)).2 = none) :
    effMove p s = postDone p 0 0 (moveRows p (bf p.p2 31 0) 0 (markPhase p.job 8 s)).1 := by
  simp only [effMove, hok, Bool.false_eq_true, if_false, finishMem, hrows]

/-! ## PLACE and MIGRATE (R480 to R485) -/

theorem placeMalformed_eq_false (hsome : bf p.p0 63 32 ≠ 0) (hmost : bf p.p0 63 32 ≤ 1048576) (hkind : bf p.p0 10 8 ≤ 4) :
    placeMalformed p = false := by
  simp only [placeMalformed, Bool.or_eq_false_iff, beq_eq_false_iff_ne, decide_eq_false_iff_not]
  omega

@[simp] theorem length_pageRange (va n : Nat) : (pageRange va n).length = n := by simp [pageRange]

/-- The homes dealt to the pages of a PLACE MAP or MIGRATE, and how many pages found no frame; `cur` gives a page's present
home. -/
def State.dealt (s : State) (p : Packet) (cur : Nat → Option Home) : List (Nat × Option Home) × Nat :=
  dealHomes s p.job (bf p.p0 10 8) p.p2.toNat (p.p1.toNat / pageSize) p.p3.toNat cur
    (bf p.p0 63 32 + (s.maskStacks p.p2.toNat).length) (s.maskStacks p.p2.toNat)
    (pageRange p.p1.toNat (bf p.p0 63 32)) []

/-- The pages are mapped to the homes dealt to them, in order. -/
def enterHomes (p : Packet) (homes : List (Nat × Option Home)) (s : State) : State :=
  homes.foldl (fun s x => match x.2 with | some h => mapPage p.vi p.job x.1 h s | none => s) s

theorem effPlaceMap_of_frames (hok : placeMalformed p = false) (haccepted : placeRefusal p true s = none)
    (hframes : (s.dealt p fun _ => none).2 = 0) :
    effPlaceMap p s = postDone p 0 0 (enterHomes p (s.dealt p fun _ => none).1 s) := by
  unfold State.dealt at hframes
  simp only [effPlaceMap, hok, Bool.false_eq_true, if_false, haccepted, length_pageRange, hframes, ne_eq, not_true_eq_false]
  rfl

/-- The pages of a PLACE UNMAP that are mapped. -/
def State.mappedPages (s : State) (p : Packet) : List Nat :=
  (pageRange p.p1.toNat (bf p.p0 63 32)).filter fun g => (tfind (s.vi p.vi).pages g).isSome

theorem effPlaceUnmap_of_still (hsome : bf p.p0 63 32 ≠ 0) (hmost : bf p.p0 63 32 ≤ 1048576)
    (halign : p.p1.toNat % pageSize = 0) (hrange : p.p1.toNat + bf p.p0 63 32 * pageSize ≤ 2 ^ 52)
    (hstill : ∀ g ∈ pageRange p.p1.toNat (bf p.p0 63 32), ∀ m, tfind (s.vi p.vi).pages g = some m → m.move = none) :
    effPlaceUnmap p s = postDone p (s.mappedPages p).length (bf p.p0 63 32 - (s.mappedPages p).length)
      ((s.mappedPages p).foldl (fun s g => unmapPage p.vi g s) s) := by
  have hmoving : (s.mappedPages p).filter (fun g => ((tfind (s.vi p.vi).pages g).bind (·.move)).isSome) = [] := by
    refine List.filter_eq_nil_iff.mpr fun g hg => ?_
    cases hfind : tfind (s.vi p.vi).pages g with
    | none => simp
    | some m => simp [hstill g (List.mem_of_mem_filter hg) m hfind]
  unfold State.mappedPages at hmoving ⊢
  rw [effPlaceUnmap, if_neg (by omega), if_neg (by omega), if_neg (by omega)]
  simp only [hmoving, List.contains_nil, Bool.not_false, List.filter_true, List.isEmpty_nil, if_true]

theorem effPlaceQuery_of_mapped {m : Mapping} (halign : p.p1.toNat % pageSize = 0) (hrange : p.p1.toNat < 2 ^ 52)
    (hmapped : tfind (s.vi p.vi).pages (p.p1.toNat / pageSize) = some m) :
    effPlaceQuery p s = postDone p (m.home.place * 2 ^ 48 + 256 * b2n m.move.isSome + m.home.kind)
      (min (runLength (s.vi p.vi).pages m.home (p.p1.toNat / pageSize) (s.vi p.vi).pages.length) 0xFFFFFFFF) s := by
  simp only [effPlaceQuery, halign, ne_eq, not_true_eq_false, if_false, hrange.not_ge, hmapped]

/-- The home that each page of a VI has now. -/
def State.homeOf (s : State) (n g : Nat) : Option Home := (tfind (s.vi n).pages g).map (·.home)

/-- The pages that a MIGRATE moves, with their targets: those that are not at the target place yet. -/
def State.toMove (s : State) (p : Packet) : List (Nat × Home) :=
  (s.dealt p (s.homeOf p.vi)).1.filterMap fun x => x.2.map fun h => (x.1, h)

theorem effMigrate_of_frames (hok : placeMalformed p = false) (haccepted : placeRefusal p false s = none)
    (hframes : (s.dealt p (s.homeOf p.vi)).2 = 0) (hwork : s.toMove p ≠ []) :
    effMigrate p s = s.openCmd p (.migrate (s.toMove p) 0 (bf p.p0 63 32 - (s.toMove p).length) false) := by
  have hsome : (s.toMove p).isEmpty = false := by simpa using hwork
  unfold State.toMove State.dealt State.homeOf at *
  simp only [effMigrate, hok, Bool.false_eq_true, if_false, haccepted, length_pageRange, hframes, ne_eq, not_true_eq_false,
    hsome]

/-! ## FENCE (R497) -/

/-- The packets in scope of a FENCE that are dispatched and lack their final records. -/
def State.fenceAwaits (s : State) (p : Packet) : List Key :=
  (s.dispatched p.vi).filter fun k => (p.p0.getLsbD 0 || k.sq == p.sq) && k != p.key

theorem effFence_of_none (hnone : s.fenceAwaits p = []) : effFence p s = postDone p 0 0 s := by
  unfold State.fenceAwaits at hnone
  simp only [effFence, hnone, List.isEmpty_nil, if_true]

theorem effFence_of_some (hsome : s.fenceAwaits p ≠ []) : effFence p s = s.openCmd p (.fence (s.fenceAwaits p)) := by
  unfold State.fenceAwaits at *
  simp only [effFence, List.isEmpty_iff, if_neg hsome]

/-- Settles O19: in the state in which the packet is taken, each effect is the one of its accepted form. -/
theorem memoryCommandsComplete : Obligations.MemoryCommandsComplete := by
  unfold Obligations.MemoryCommandsComplete
  intro p s0 hd
  rw [exec_fill hd, exec_move hd, exec_placeMap hd, exec_placeUnmap hd, exec_placeQuery hd, exec_migrate hd, exec_fence hd]
  refine ⟨fun hva hlen hmapped => ?fill, fun hok hrows => ?move, fun hsome hmost hkind haccepted hframes => ?map,
    fun hsome hmost halign hrange hstill => ?unmap, fun halign hrange m hmapped => ?query,
    fun hsome hmost hkind haccepted hframes hwork => ?migrate, fun hnone => ?fenceDone, fun hawaits => ?fenceWaits⟩
  case fill => exact congrArg _ (effFill_of_mapped hva hlen hmapped)
  case move => exact congrArg _ (effMove_of_read hok hrows)
  case map => exact congrArg _ (effPlaceMap_of_frames (placeMalformed_eq_false hsome hmost hkind) haccepted hframes)
  case unmap => exact congrArg _ (effPlaceUnmap_of_still hsome hmost halign hrange hstill)
  case query => exact congrArg _ (effPlaceQuery_of_mapped halign hrange hmapped)
  case migrate => exact congrArg _ (effMigrate_of_frames (placeMalformed_eq_false hsome hmost hkind) haccepted hframes hwork)
  case fenceDone => exact congrArg _ (effFence_of_none hnone)
  case fenceWaits => exact congrArg _ (effFence_of_some hawaits)

/-! ## A page mapped to an HBM frame (R480, R482) -/

/-- One page, one stack in the rotation, and a free frame there: the page gets that frame. -/
theorem dealHomes_one_page {owner sel first addr fuel k g : Nat} {h : Home} (hfree : s.freeHbm k [] = some h) :
    dealHomes s owner 2 sel first addr (fun _ => none) (fuel + 2) [k] [g] [] = ([(g, some h)], 0) := by
  simp only [dealHomes, Bool.false_eq_true, if_false, hfree]

theorem effPlaceMap_one_page {k : Nat} {h : Home} (hcount : bf p.p0 63 32 = 1) (hkind : bf p.p0 10 8 = 2)
    (hrot : s.maskStacks p.p2.toNat = [k]) (haccepted : placeRefusal p true s = none) (hfree : s.freeHbm k [] = some h) :
    effPlaceMap p s = postDone p 0 0 (mapPage p.vi p.job (p.p1.toNat / pageSize) h s) := by
  have hdealt : (s.dealt p fun _ => none) = ([(p.p1.toNat / pageSize, some h)], 0) := by
    rw [State.dealt, hcount, hkind, hrot]
    exact dealHomes_one_page (fuel := 0) hfree
  rw [effPlaceMap_of_frames (placeMalformed_eq_false (by omega) (by omega) (by omega)) haccepted (by rw [hdealt]), hdealt]
  rfl

section
variable (n job g k f : Nat) (s : State)

@[simp] theorem mapPage_hbm_devMem :
    (mapPage n job g (.hbm k f) s).devMem = s.devMem.zero ((k * 32768 + f) * pageSize) pageSize := rfl

@[simp] theorem mapPage_hbm_vi (m : Nat) : (mapPage n job g (.hbm k f) s).vi m
    = (s.updVi n fun v => { v with pages := tset v.pages g { home := .hbm k f, job := job, move := none } }).vi m := rfl

/-- The page has its new home. -/
theorem mapPage_hbm_page : tfind ((mapPage n job g (.hbm k f) s).vi n).pages g
    = some { home := .hbm k f, job := job, move := none } := by
  rw [mapPage_hbm_vi, State.updVi_vi_same, tfind_tset_same]

variable {n g}

/-- Every other page keeps its mapping. -/
theorem mapPage_hbm_other_page {m i : Nat} (hother : m ≠ n ∨ i ≠ g) :
    tfind ((mapPage n job g (.hbm k f) s).vi m).pages i = tfind (s.vi m).pages i := by
  rw [mapPage_hbm_vi]
  by_cases hm : m = n
  · subst hm
    rw [State.updVi_vi_same, tfind_tset_of_ne _ _ (hother.resolve_left (· rfl))]
  · rw [State.updVi_vi_of_ne s _ hm]

end

/-- A byte of another frame lies before the frame or after it. -/
theorem outside_frame {x f : Nat} (h : x / pageSize ≠ f) : x < f * pageSize ∨ f * pageSize + pageSize ≤ x := by
  unfold pageSize at *
  omega

/-- Settles O21: the page's mapping and the zeroing of its frame are those of `mapPage`, and the end of the packet leaves
pages and device memory alone. -/
theorem mapGivesZeroedPage : Obligations.MapGivesZeroedPage := by
  unfold Obligations.MapGivesZeroedPage
  intro p s k f hop hd hcount hkind hrot haccepted hfree
  have hrot' : (taken p s).maskStacks p.p2.toNat = [k] := by
    rw [taken_eq]
    exact hrot
  have hends := postDone_recordFrame (p := p) (by rw [hop]; decide) (by rw [hop]; decide) 0 0
    (mapPage p.vi p.job (p.p1.toNat / pageSize) (.hbm k f) (taken p s))
  refine ⟨_, (exec_placeMap hd).trans (congrArg _ (effPlaceMap_one_page hcount hkind hrot' haccepted hfree)), ?page,
    fun i hi => ?zeroed, fun x hx => ?kept, fun n g hother => ?others⟩
  case page => rw [hends.pages, mapPage_hbm_page]
  case zeroed =>
    rw [hends.devMem, mapPage_hbm_devMem]
    exact Mem.read_zero_of_inside _ (Nat.le_add_right _ _) (Nat.add_lt_add_left hi _)
  case kept =>
    rw [hends.devMem, mapPage_hbm_devMem, Mem.read_zero_of_outside _ (outside_frame hx), taken_devMem]
  case others => rw [hends.pages, mapPage_hbm_other_page _ _ _ _ hother, taken_pages]

end Sys2Proof.Machine
end

section
/-! PROOFS. O50: fault events, watchdogs and stalls. What an event does to its unit in each of its three outcomes, what it
leaves in the registers of its own block, then the statement. -/

namespace Sys2Proof.Machine

open Sys2Proof

variable {u n : Nat} {s : State}

/-! ## The count of a unit (R666 to R668, R673) -/

/-- The frets that the unit's window still lasts, with these events counted: a new one begins where none is open. -/
def State.windowLeft (s : State) (u : Nat) : Nat :=
  let w := (unitCfg u (s.fault u)).2.1
  if (s.fault u).left = 0 then (if w = 0 then 2 ^ 24 else w) else (s.fault u).left

/-- The events of the window, with n more. -/
def State.windowCount (s : State) (u n : Nat) : Nat := (if (s.fault u).left = 0 then 0 else (s.fault u).window.toNat) + n

/-- The unit's registers after n events that stay below its threshold. -/
def minorEvent (u n : Nat) (s : State) : State :=
  s.updFault u fun f => { f with
    event := true, lastFret := BitVec.ofNat 24 s.ftu.count.toNat, total := satAdd f.total n
    window := BitVec.ofNat 8 (s.windowCount u n), left := s.windowLeft u }

/-- The unit's registers after n events that reach its threshold: the window closes. -/
def severeEvent (u n : Nat) (s : State) : State :=
  s.updFault u fun f => { f with
    event := true, severe := true, lastFret := BitVec.ofNat 24 s.ftu.count.toNat, total := satAdd f.total n
    window := 0, left := 0 }

theorem faultEvents_of_resetDecided (h : s.boot.resetDecided = true) (u n info : Nat) : faultEvents u n info s = s := by
  simp only [faultEvents, h, Bool.true_or, if_true]

section
variable (hcounts : s.boot.resetDecided = false) (hsome : n ≠ 0)
include hcounts hsome

theorem faultEvents_of_minor (info : Nat) (hbelow : s.windowCount u n < (unitCfg u (s.fault u)).1) :
    faultEvents u n info s = applyMask u (unitCfg u (s.fault u)).2.2.2.1 info (unitCfg u (s.fault u)).2.2.2.2 false
      (minorEvent u n s) := by
  have hminor : decide ((unitCfg u (s.fault u)).1 ≤ s.windowCount u n) = false := by simpa using hbelow
  unfold State.windowCount at hminor
  simp only [faultEvents, hcounts, hsome, decide_false, Bool.or_self, Bool.false_eq_true, if_false, hminor, Bool.or_false]
  rfl

theorem faultEvents_of_severe (info : Nat) (hreached : (unitCfg u (s.fault u)).1 ≤ s.windowCount u n) :
    faultEvents u n info s = applyMask u (unitCfg u (s.fault u)).2.2.1 info (unitCfg u (s.fault u)).2.2.2.2 true
      (severeEvent u n s) := by
  have hsevere : decide ((unitCfg u (s.fault u)).1 ≤ s.windowCount u n) = true := by simpa using hreached
  unfold State.windowCount at hsevere
  simp only [faultEvents, hcounts, hsome, decide_false, Bool.or_self, Bool.false_eq_true, if_false, hsevere, Bool.or_true,
    if_true]
  rfl

end

/-- An empty minor mask reacts to nothing. -/
theorem applyMask_zero_minor (u info vec : Nat) (s : State) : applyMask u 0 info vec false s = s := by
  simp only [applyMask, Nat.zero_testBit, Bool.or_self, Bool.false_eq_true, if_false]
  split <;> rfl

/-! ## The block that an event concerns (R507 to R513) -/

theorem faultEvent_of_some (hsome : n ≠ 0) (info : Word) (a : Option Access) :
    faultEvent u n info a s = faultEvents u n info.toNat (faultEffect u n info a s) := if_neg hsome

/-- The kinds of units whose events leave more than the unit's own registers. -/
def effectKinds : List Nat := [3, 8, 10, 11, 12, 14, 15, 20]

theorem faultEffect_of_other_kind (hkind : effectKinds.contains (unitKind u) = false) (info : Word) :
    faultEffect u n info none s = s := by
  unfold faultEffect
  split
  case h_9 => rfl
  all_goals
    rename_i hlisted
    rw [hlisted] at hkind
    exact absurd hkind (by decide)

section
variable {k : Nat} (hk : k < 32)
include hk

theorem unitKind_hbm_ce : unitKind (1950 + 3 * k) = 14 := by
  unfold unitKind
  split_ifs <;> omega

theorem unitKind_hbm_ue : unitKind (1951 + 3 * k) = 15 := by
  unfold unitKind
  split_ifs <;> omega

/-- Corrected errors count in their stack. -/
theorem faultEffect_hbm_ce (info : Word) : faultEffect (1950 + 3 * k) n info none s
    = s.updStk k fun t => { t with ce := satAdd t.ce n } := by
  simp only [faultEffect, unitKind_hbm_ce hk, show (1950 + 3 * k - 1950) / 3 = k by omega]

/-- A stack whose scrubber has met uncorrectable errors. -/
def scrubbedUe (n : Nat) (info : Word) (t : Stack) : Stack :=
  let b := (bw info 29 15, bw info 14 0)
  { t with ueScrub := satAdd t.ueScrub n, lastErr := info
           ueBursts := if t.ueBursts.contains b then t.ueBursts else t.ueBursts ++ [b] }

theorem faultEffect_hbm_ue_scrubbed {info : Word} (hscrub : info.getLsbD 30 = true) :
    faultEffect (1951 + 3 * k) n info none s = s.updStk k (scrubbedUe n info) := by
  simp only [faultEffect, unitKind_hbm_ue hk, hscrub, if_true, show (1951 + 3 * k - 1950) / 3 = k by omega]
  rfl

end

/-! ## The rows -/

theorem exec_faultEvent (hu : u < 2100) (n : Nat) (info : Word) (a : Option Access) (s : State) :
    exec (.faultEvent u n info a) s = .next (faultEvent u n info a s) := event_of_ok (by simpa using hu) _

theorem exec_faultWindowClose (hu : u < 2100) (s : State) : exec (.faultWindowClose u) s = .next (windowClose u s) :=
  event_of_ok (by simpa using hu) _

theorem exec_coreWdog {d c : Nat} (hcore : isCore d c = true) (u : Nat) (s : State) : exec (.coreWdog d c u) s
    = .next (if s.watched d c u then faultEvent1 (6 * coreIx d c + 4) u s else s) := event_of_ok hcore _

theorem exec_tribWdog {d c : Nat} (hd : d < 18) (hc : c < 4) (s : State) :
    exec (.tribWdog d c) s = .next (faultEvent1 (1836 + 5 * d) c s) := event_of_ok (by simp [hd, hc]) _

theorem exec_hwFault {x : Nat} (hx : x < 2) (s : State) :
    exec (.hwFault x) s = .next (if b2n s.boot.pair = x then faultEvent1 2096 x s else s) := event_of_ok (by simpa using hx) _

theorem exec_hubEngineStall {h e : Nat} (hh : h < 8) (he : e < 2) (s : State) :
    exec (.hubEngineStall h e) s = .next (faultEvent1 (1928 + 3 * h) e s) := by
  rw [show 1928 + 3 * h = 1926 + 3 * h + 2 by omega]
  exact event_of_ok (by simp [hh, he]) _

theorem windowClose_of_ended (hleft : (s.fault u).left = 0) :
    windowClose u s = s.updFault u fun f => { f with window := 0 } := if_pos hleft

theorem windowClose_of_open (hleft : (s.fault u).left ≠ 0) : windowClose u s = s := if_neg hleft

/-- Settles O50: the outcome of the count decides a unit's registers, the kind of the unit what its block shows; every other
row raises one event of its unit. -/
theorem faultEventsCount : Obligations.FaultEventsCount := by
  unfold Obligations.FaultEventsCount
  refine ⟨fun u info a s hu => ?noEvents, fun u n info s hu hsome hkind => ?count, fun k n info s hk hsome => ?hbm,
    fun u s hu => ?window, fun s => ?rows⟩
  case noEvents => exact exec_faultEvent hu ..
  case count =>
    rw [exec_faultEvent hu, faultEvent_of_some hsome, faultEffect_of_other_kind hkind]
    refine ⟨fun hreset => ?_, fun hcounts hbelow hmask => ?_, fun hcounts hreached => ?_⟩
    · rw [faultEvents_of_resetDecided hreset]
    · rw [faultEvents_of_minor hcounts hsome _ hbelow, hmask, applyMask_zero_minor]
      rfl
    · rw [faultEvents_of_severe hcounts hsome _ hreached]
      rfl
  case hbm =>
    rw [exec_faultEvent (by omega), exec_faultEvent (by omega), faultEvent_of_some hsome, faultEvent_of_some hsome,
      faultEffect_hbm_ce hk]
    refine ⟨rfl, fun hscrub => ?_⟩
    rw [faultEffect_hbm_ue_scrubbed hk hscrub]
    rfl
  case window =>
    rw [exec_faultWindowClose hu]
    exact ⟨fun hleft => congrArg _ (windowClose_of_ended hleft), fun hleft => congrArg _ (windowClose_of_open hleft)⟩
  case rows =>
    refine ⟨fun d c u hcore => ?_, fun d c hd hc => exec_tribWdog hd hc s, fun x hx => exec_hwFault hx s,
      fun h e hh he => exec_hubEngineStall hh he s, fun w => rfl⟩
    rw [exec_coreWdog hcore]
    exact ⟨fun hwatched => congrArg _ (if_pos hwatched), fun hwatched => congrArg _ (if_neg (by simp [hwatched]))⟩

end Sys2Proof.Machine
end

section
/-! PROOFS. O22: pages in motion. The lookups that the phases of a move turn on, what the release of a home and the end of a
packet leave alone, an equation for each phase, then the statement. -/

namespace Sys2Proof.Machine

open Sys2Proof

variable {s : State}

/-! ## Changes of a VI -/

/-- An update of a VI is what it makes of the VI that is there. -/
theorem updVi_congr {n : Nat} {f g : Vi → Vi} (h : f (s.vi n) = g (s.vi n)) : s.updVi n f = s.updVi n g := by
  simp only [State.updVi, h]

section
variable {n g : Nat} {m : Mapping} {mv : PageMove} (hpage : tfind (s.vi n).pages g = some m) (hmove : m.move = some mv)
include hpage hmove

theorem setMove_of_moving (f : PageMove → PageMove) :
    setMove n g f s = s.updVi n fun v => { v with pages := tset v.pages g { m with move := some (f mv) } } :=
  updVi_congr (by simp only [hpage, hmove, Option.map_some])

theorem movePhase_of_moving : s.movePhase n g = mv.phase := by
  simp only [State.movePhase, hpage, Option.bind_some, hmove, Option.map_some, Option.getD_some]

end

/-! ## PAGE_MOVE_START (R485, R488) -/

/-- The move of a page that begins, for a command. -/
def moveBegun (d : Home) (h : Nat) (p : Packet) : PageMove := { target := d, phase := 1, hub := h, cmd := some p.key }

section
variable {p : Packet} {h g moved skipped : Nat} {d : Home} {m : Mapping} {rest : List (Nat × Home)}

/-- The first page of a MIGRATE is marked where the hub's engine may move it. -/
theorem startMove_of_first (hpage : tfind (s.vi p.vi).pages g = some m) (hstill : m.move = none)
    (hhub : s.moveHub m.home d = h) (haway : m.home.kind ≠ d.kind ∨ m.home.place ≠ d.place) :
    startMove h { pkt := p, prog := .migrate ((g, d) :: rest) moved skipped false } s
      = some ((s.setProg p.key (.migrate (rest.filter fun x => x.1 != g) moved skipped false)).updVi p.vi fun v =>
          { v with pages := tset v.pages g { m with move := some (moveBegun d h p) } }) := by
  have hgoes : ¬(m.home.kind = d.kind ∧ m.home.place = d.place) := by omega
  simp only [startMove, List.find?_cons, hpage, hstill, Option.isNone_none, hhub, BEq.rfl, Bool.and_self, if_neg hgoes,
    List.filter_cons, bne_self_eq_false, Bool.false_eq_true, if_false]
  rfl

/-- The oldest command in progress of a running job has the engine. -/
theorem pageMoveStart_of_oldest {o : OpenCmd} {post : List OpenCmd} {t : State} (hroom : s.movingOn h < 4)
    (hengine : ∀ r ∈ s.blkRst, r.block ≠ .hubEngine h 0) (hopens : s.opens = o :: post) (hruns : s.runs o.pkt = true)
    (hstart : startMove h o s = some t) : pageMoveStart h s = t := by
  have hup : (s.blkRst.any fun r => r.block == .hubEngine h 0) = false := by simpa using hengine
  simp only [pageMoveStart, hroom.not_ge, decide_false, hup, Bool.or_self, Bool.false_eq_true, if_false, hopens,
    List.filter_cons, hruns, if_true, List.findSome?_cons, hstart, Option.getD_some]

end

/-! ## PAGE_DRAIN_END and PAGE_COPY_AHEAD_DONE (R488, R492) -/

/-- Every region of a page copied ahead for the checkpoints that owe it. -/
def aheadOf (n g : Nat) (s : State) : State :=
  (List.range 32).foldl (fun s i => copyAhead n (g * pageSize + i * 65536) s) s

theorem aheadOf_writesOnly (n g : Nat) (s : State) : WritesOnly s (aheadOf n g s) :=
  .foldl _ (fun _ _ => copyAhead_writesOnly ..) _ _

section
variable {n g : Nat} {m : Mapping} {mv : PageMove} (hpage : tfind (s.vi n).pages g = some m) (hmove : m.move = some mv)
include hpage hmove

theorem pageDrainEnd_of_marked (hphase : mv.phase = 1) : pageDrainEnd n g s = s.updVi n fun v =>
    { v with pages := tset v.pages g { m with move := some { mv with phase := if s.owesCopy n g then 3 else 4 } } } := by
  rw [pageDrainEnd, movePhase_of_moving hpage hmove, if_pos hphase, setMove_of_moving hpage hmove]

/-- The engine counts the page, which goes on to its copy. -/
theorem pageCopyAheadDone_of_unpaused (hphase : mv.phase = 3) (hpause : s.movePaused n g = false) :
    pageCopyAheadDone n g s = ((aheadOf n g s).updHub mv.hub fun x => { x with ahead := satAdd x.ahead 1 }).updVi n fun v =>
      { v with pages := tset v.pages g { m with move := some { mv with phase := 4 } } } := by
  have hgoes : (s.movePhase n g = 3 && !(s.movePaused n g)) = true := by
    simp [movePhase_of_moving hpage hmove, hphase, hpause]
  have hhub : (((tfind (s.vi n).pages g).bind (·.move)).map (·.hub)).getD 0 = mv.hub := by
    simp only [hpage, Option.bind_some, hmove, Option.map_some, Option.getD_some]
  have hkept : tfind (((aheadOf n g s).updHub mv.hub fun x => { x with ahead := satAdd x.ahead 1 }).vi n).pages g = some m := by
    rw [State.vi, State.updHub_vis, (aheadOf_writesOnly n g s).vis]
    exact hpage
  rw [← setMove_of_moving hkept hmove fun m => { m with phase := 4 }, ← hhub]
  exact if_pos hgoes

end

/-! ## Commands in progress at the end of a page's motion -/

/-- The release of a home changes device memory, the frames being zeroed, its stack and the records of a retirement. -/
theorem releaseHome_eq (h : Home) (s : State) : releaseHome h s = { s with
    devMem := (releaseHome h s).devMem, zeroing := (releaseHome h s).zeroing, stks := (releaseHome h s).stks
    flash := (releaseHome h s).flash, boot := (releaseHome h s).boot } := by
  unfold releaseHome
  split
  · dsimp only
    split
    · split
      · rw [evrec_eq]
        rfl
      · rfl
    · rfl
  · rfl

@[simp] theorem releaseHome_vis (h : Home) (s : State) : (releaseHome h s).vis = s.vis := by rw [releaseHome_eq]

@[simp] theorem releaseHome_opens (h : Home) (s : State) : (releaseHome h s).opens = s.opens := by rw [releaseHome_eq]

@[simp] theorem closeWindow_opens (id flags : Nat) (last : Dword) (s : State) :
    (closeWindow id flags last s).opens = s.opens := by
  unfold closeWindow
  split
  · rfl
  · simp only [pushPhase]
    split <;> rfl

/-- What the end of a packet means for its job's phase window leaves the commands in progress alone. -/
@[simp] theorem noteEnd_opens (p : Packet) (s : State) : (noteEnd p s).opens = s.opens := by
  unfold noteEnd closeStep
  split
  · rfl
  · split
    · rfl
    · split
      · rfl
      · dsimp only
        split
        · exact closeWindow_opens ..
        · exact (vwrite_writesOnly ..).opens.trans (closeWindow_opens ..)

/-- The end of a packet begins no command. -/
theorem postDone_opens_subset (p : Packet) (r0 r1 : Nat) (s : State) : (postDone p r0 r1 s).opens ⊆ s.opens := by
  have hends := (postRefused_recordFrame p 0 0 r0 r1 (noteEnd p s)).opens
  rwa [noteEnd_opens] at hends

/-- The command of a key is found with the progress that was set. -/
theorem open?_setProg (k : Key) (x : Progress) : (s.setProg k x).open? k = (s.open? k).map fun o => { o with prog := x } := by
  simp only [State.open?, State.setProg]
  induction s.opens with
  | nil => rfl
  | cons o l ih =>
    simp only [List.map_cons, List.find?_cons]
    by_cases hkey : o.pkt.key = k
    · simp only [hkey, if_true, BEq.rfl, Option.map_some]
    · have hother : (o.pkt.key == k) = false := by simpa using hkey
      simp only [if_neg hkey, hother]
      exact ih

/-- No PLACE UNMAP waits for a page in motion. -/
def State.NoUnmap (s : State) : Prop := ∀ o ∈ s.opens, ∀ w d k, o.prog ≠ .unmap w d k

theorem State.NoUnmap.setProg (h : s.NoUnmap) (k : Key) {x : Progress} (hx : ∀ w d k, x ≠ .unmap w d k) :
    (s.setProg k x).NoUnmap := by
  intro o ho
  obtain ⟨o', ho', rfl⟩ := List.mem_map.mp ho
  split
  · exact hx
  · exact h o' ho'

theorem serveUnmaps_of_noUnmap (h : s.NoUnmap) (n g : Nat) : serveUnmaps n g s = s := by
  refine List.foldlRecOn (motive := fun t => t = s) s.opens _ rfl fun t ht o ho => ?_
  subst ht
  split
  case h_1 hprog => exact absurd hprog (h o ho _ _ _)
  case h_2 => rfl

/-! ## PAGE_COPY_DONE (R488) -/

/-- A page at its new home: its bytes copied there, its former home released, and the move counted. -/
def pageLanded (n g ns : Nat) (m : Mapping) (mv : PageMove) (s : State) : State :=
  let s1 := s.copySpan m.now.base mv.target.base pageSize
  let s2 := s1.updVi n fun v =>
    { v with pages := tset v.pages g { m with home := mv.target, move := none, saved := none } }
  let s3 := if m.saved.isSome then s2 else releaseHome m.home s2
  let s4 := s3.updHub mv.hub fun x => { x with mig := satAdd x.mig 1 }
  { s4 with ctr := { s4.ctr with memWait := satMax s4.ctr.memWait ns } }

/-- The MIGRATE of a page that has landed counts it, and ends with its last page. -/
def countMoved (cmd : Option Key) (s : State) : State :=
  match cmd with
  | some k =>
    (match s.open? k with
     | some { pkt := _, prog := .migrate todo moved skipped aborted } =>
       finishMigrate k (s.setProg k (.migrate todo (moved + 1) skipped aborted))
     | _ => s)
  | none => s

section
variable {n g : Nat} {m : Mapping} {mv : PageMove}

theorem pageLanded_opens (hsaved : m.saved = none) (ns : Nat) : (pageLanded n g ns m mv s).opens = s.opens := by
  simp only [pageLanded, hsaved, Option.isSome_none, Bool.false_eq_true, if_false, State.updHub_opens, releaseHome_opens,
    State.updVi_opens, (copySpan_writesOnly ..).opens]

theorem pageLanded_pages (hsaved : m.saved = none) (ns : Nat) : ((pageLanded n g ns m mv s).vi n).pages
    = tset (s.vi n).pages g { m with home := mv.target, move := none, saved := none } := by
  have hvis : (pageLanded n g ns m mv s).vis = ((s.copySpan m.now.base mv.target.base pageSize).updVi n fun v =>
      { v with pages := tset v.pages g { m with home := mv.target, move := none, saved := none } }).vis := by
    simp only [pageLanded, hsaved, Option.isSome_none, Bool.false_eq_true, if_false, State.updHub_vis, releaseHome_vis]
  rw [State.vi, hvis]
  refine (congrArg Vi.pages (State.updVi_vi_same ..)).trans ?_
  rw [State.vi, (copySpan_writesOnly ..).vis]
  rfl

theorem pageCopyDone_of_unpaused (hpage : tfind (s.vi n).pages g = some m) (hmove : m.move = some mv)
    (hphase : mv.phase = 4) (hpause : s.movePaused n g = false) (ns : Nat) :
    pageCopyDone n g ns s = serveUnmaps n g (countMoved mv.cmd (pageLanded n g ns m mv s)) := by
  have hgoes : ¬(mv.phase ≠ 4 || s.movePaused n g) = true := by simp [hphase, hpause]
  rw [pageCopyDone, hpage]
  dsimp -zeta only
  rw [hmove]
  exact if_neg hgoes

section
variable {p : Packet} {todo : List (Nat × Home)} {moved skipped : Nat}
  (hopen : s.open? p.key = some { pkt := p, prog := .migrate todo moved skipped false })
include hopen

theorem countMoved_of_open : countMoved (some p.key) s
    = finishMigrate p.key (s.setProg p.key (.migrate todo (moved + 1) skipped false)) := by
  simp only [countMoved, hopen]

/-- A MIGRATE with pages left goes on. -/
theorem finishMigrate_of_more (hmore : todo ≠ []) : finishMigrate p.key s = s := by
  have hsome : todo.isEmpty = false := by simpa using hmore
  simp only [finishMigrate, hopen, hsome, Bool.false_and, Bool.false_eq_true, if_false]

/-- A MIGRATE with no page left and none in motion ends. -/
theorem finishMigrate_of_last (hlast : todo = []) (hstill : ∀ e ∈ (s.vi p.vi).pages, e.2.move = none) :
    finishMigrate p.key s = postDone p moved skipped s := by
  have hnone : ((s.vi p.vi).pages.any fun e => match e.2.move with | some m => m.cmd == some p.key | none => false) = false :=
    List.any_eq_false.mpr fun e he => by simp [hstill e he]
  subst hlast
  simp only [finishMigrate, hopen]
  exact if_pos (congrArg (fun b => [].isEmpty && !b) hnone)

end
end

/-- A page without a saved copy moves from its home. -/
theorem pageLanded_of_unsaved {m : Mapping} (hsaved : m.saved = none) (n g ns : Nat) (mv : PageMove) (s : State) :
    pageLanded n g ns m mv s =
      let s1 := s.copySpan m.home.base mv.target.base pageSize
      let s2 := releaseHome m.home (s1.updVi n fun v =>
        { v with pages := tset v.pages g { m with home := mv.target, move := none, saved := none } })
      let s3 := s2.updHub mv.hub fun x => { x with mig := satAdd x.mig 1 }
      { s3 with ctr := { s3.ctr with memWait := satMax s3.ctr.memWait ns } } := by
  have hnow : m.now = m.home := by rw [Mapping.now, hsaved, Option.getD_none]
  simp only [pageLanded, hnow, hsaved, Option.isSome_none, Bool.false_eq_true, if_false]

/-! ## The last page of a MIGRATE -/

section
variable {α : Type} {t : Tbl α} (hsorted : t.Pairwise fun a b => a.1 < b.1)
include hsorted

/-- A listed entry is found by its key. -/
theorem tfind_of_mem {e : Nat × α} (he : e ∈ t) : tfind t e.1 = some e.2 := by
  induction t with
  | nil => cases he
  | cons c t ih =>
    obtain ⟨hfirst, hrest⟩ := List.pairwise_cons.mp hsorted
    rcases List.mem_cons.mp he with rfl | he
    · exact if_pos rfl
    · exact (if_neg (hfirst e he).ne).trans (ih hrest he)

/-- Beside the entry that was set stand those of other keys. -/
theorem eq_or_mem_of_mem_tset {n : Nat} {v : α} {e : Nat × α} (he : e ∈ tset t n v) : e = (n, v) ∨ e ∈ t ∧ e.1 ≠ n := by
  induction t with
  | nil => exact .inl (List.mem_singleton.mp he)
  | cons c t ih =>
    obtain ⟨k, w⟩ := c
    obtain ⟨hfirst, hrest⟩ := List.pairwise_cons.mp hsorted
    simp only [tset] at he
    split at he
    case isTrue hk =>
      refine (List.mem_cons.mp he).imp_right fun he => ⟨List.mem_cons_of_mem _ he, ?_⟩
      exact hk ▸ (hfirst e he).ne'
    case isFalse hk =>
      split at he
      case isTrue hlt =>
        refine (List.mem_cons.mp he).imp_right fun he => ⟨he, ?_⟩
        rcases List.mem_cons.mp he with rfl | he
        · exact hlt.ne'
        · exact (hlt.trans (hfirst e he)).ne'
      case isFalse =>
        rcases List.mem_cons.mp he with rfl | he
        · exact .inr ⟨List.mem_cons_self, Ne.symm hk⟩
        · exact (ih hrest he).imp_right fun ⟨ht, hne⟩ => ⟨List.mem_cons_of_mem _ ht, hne⟩

end

/-- With one page of a VI landed that was alone in motion, none of its pages moves. -/
theorem pageLanded_still {n g : Nat} {m : Mapping} {mv : PageMove} (hsaved : m.saved = none)
    (hsorted : (s.vi n).pages.Pairwise fun a b => a.1 < b.1)
    (halone : ∀ h x, tfind (s.vi n).pages h = some x → h ≠ g → x.move = none) (ns : Nat) :
    ∀ e ∈ ((pageLanded n g ns m mv s).vi n).pages, e.2.move = none := by
  rw [pageLanded_pages hsaved]
  intro e he
  rcases eq_or_mem_of_mem_tset hsorted he with rfl | ⟨hlisted, hother⟩
  · rfl
  · exact halone e.1 e.2 (tfind_of_mem hsorted hlisted) hother

/-! ## The rows -/

theorem exec_pageMoveStart {h : Nat} (hh : h < 8) (s : State) : exec (.pageMoveStart h) s = .next (pageMoveStart h s) :=
  event_of_ok (by simpa using hh) _

section
variable {n : Nat} (hn : viOk n = true)
include hn

theorem exec_pageDrainEnd (g : Nat) (s : State) : exec (.pageDrainEnd n g) s = .next (pageDrainEnd n g s) := event_of_ok hn _

theorem exec_pageCopyAheadDone (g : Nat) (s : State) : exec (.pageCopyAheadDone n g) s = .next (pageCopyAheadDone n g s) :=
  event_of_ok hn _

theorem exec_pageCopyDone (g ns : Nat) (s : State) :
    exec (.pageCopyDone n g ns) s = .next (motionEnds (pageCopyDone n g ns s)) := event_of_ok hn _

end

/-- Settles O22: each row is the next phase of the page's move; the copy counts the page in its MIGRATE, and no PLACE UNMAP
waits for it. -/
theorem pageMotion : Obligations.PageMotion := by
  unfold Obligations.PageMotion
  refine ⟨fun h g d rest moved skipped p post m s hh hroom hengine hopens hruns hpage hstill hhub haway => ?start,
    fun n g m mv s hn hpage hmove => ⟨fun hphase => ?drain, fun hphase hpause => ?ahead,
      fun hphase hpause hunmaps hsaved ns k p todo moved skipped hcmd hkey hopen => ?copy⟩, fun f s => rfl⟩
  case start =>
    refine ⟨_, (exec_pageMoveStart hh s).trans (congrArg _ (pageMoveStart_of_oldest hroom hengine hopens hruns
      (startMove_of_first hpage hstill hhub haway))), ?_, rfl⟩
    rw [State.updVi_vi_same, tfind_tset_same]
    rfl
  case drain => exact (exec_pageDrainEnd hn g s).trans (congrArg _ (pageDrainEnd_of_marked hpage hmove hphase))
  case ahead =>
    refine ⟨_, (exec_pageCopyAheadDone hn g s).trans (congrArg _ (pageCopyAheadDone_of_unpaused hpage hmove hphase hpause)),
      ?_, ?_⟩
    · rw [State.hub, State.updVi_hubs, ← State.hub, State.updHub_hub_same, State.hub, (aheadOf_writesOnly n g s).hubs]
      rfl
    · rw [State.updVi_vi_same, tfind_tset_same]
  case copy =>
    subst hkey
    have hlandedOpen : (pageLanded n g ns m mv s).open? p.key
        = some { pkt := p, prog := .migrate todo moved skipped false } := by
      rw [State.open?, pageLanded_opens hsaved]
      exact hopen
    have hsetOpen := (open?_setProg p.key (.migrate todo (moved + 1) skipped false)).trans
      (congrArg (Option.map _) hlandedOpen)
    have hnoUnmap : ((pageLanded n g ns m mv s).setProg p.key (.migrate todo (moved + 1) skipped false)).NoUnmap :=
      State.NoUnmap.setProg (fun o ho => hunmaps o (pageLanded_opens hsaved ns ▸ ho)) _ fun _ _ _ => Progress.noConfusion
    rw [exec_pageCopyDone hn, pageCopyDone_of_unpaused hpage hmove hphase hpause, hcmd, countMoved_of_open hlandedOpen]
    refine ⟨fun hmore => ?_, fun hlast hvi halone hsorted => ?_⟩
    · rw [finishMigrate_of_more hsetOpen hmore, serveUnmaps_of_noUnmap hnoUnmap, pageLanded_of_unsaved hsaved]
    · have hstill := pageLanded_still (mv := mv) hsaved hsorted halone ns
      rw [finishMigrate_of_last hsetOpen hlast (hvi ▸ hstill),
        serveUnmaps_of_noUnmap fun o ho => hnoUnmap o (postDone_opens_subset _ _ _ _ ho), pageLanded_of_unsaved hsaved, hlast]

end Sys2Proof.Machine
end

section
/-! PROOFS. O40: request packets that arrive. Whether a packet is held or taken, what each arrival means for its chunk, how a
whole chunk is answered, packets in transit, then the statement. -/

namespace Sys2Proof.Machine

open Sys2Proof

variable {q : FabPkt} {s : State}

/-! ## Packets held or taken (R490) -/

section
variable (hdst : q.dst.toNat = s.moduleId)
include hdst

theorem takePacket_of_held (hheld : ¬s.holdsPkt s.fab.heldPkts q = false) :
    takePacket q s = { s with fab := { s.fab with heldPkts := s.fab.heldPkts ++ [q] } } := by
  rw [takePacket, if_neg (not_not_intro hdst), if_pos (by simpa using hheld)]

/-- A packet of a request that nothing holds is taken at once. -/
theorem takePacket_of_free (hasks : asks q = true) (hfree : s.holdsPkt s.fab.heldPkts q = false) :
    takePacket q s = takeRequest q s := by
  rw [takePacket, if_neg (not_not_intro hdst), hfree, if_neg Bool.false_ne_true]
  simp only [asks, Bool.or_eq_true, beq_iff_eq] at hasks
  unfold takeOwn
  obtain ((hkind | hkind) | hkind) | hkind := hasks <;> rw [hkind] <;> rfl

end

/-! ## The rows -/

theorem exec_putData (p : FabPkt) (s : State) : exec (.putData p) s = .next (takePacket { p with kind := 0x01 } s) := rfl
theorem exec_getReq (p : FabPkt) (s : State) : exec (.getReq p) s = .next (takePacket { p with kind := 0x02 } s) := rfl
theorem exec_atomicReq (p : FabPkt) (s : State) : exec (.atomicReq p) s = .next (takePacket { p with kind := 0x04 } s) := rfl
theorem exec_signalPacket (p : FabPkt) (s : State) :
    exec (.signalPacket p) s = .next (takePacket { p with kind := 0x06 } s) := rfl

/-! ## What an arrival means for its chunk (R533, R534) -/

/-- The channel in reception of a request packet. -/
def State.rxFor (s : State) (q : FabPkt) : RxChannel := s.rxOf q.src (chanCode q.dstJob.toNat (pktChan q))

/-- The channel goes on to its next chunk. -/
def chunkTaken (q : FabPkt) (s : State) : State :=
  setRx { s.rxFor q with data := [], next := (s.rxFor q).next + 1, fails := 0 } s

/-- The channel keeps the packet's bytes behind those of its chunk before. -/
def packetKept (q : FabPkt) (s : State) : State :=
  setRx { s.rxFor q with data := (if q.first then [] else (s.rxFor q).data) ++ q.data } s

theorem takeRequest_of_whole (hfirst : q.first = true) (hlast : q.last = true) (hseq : q.chunkSeq = (s.rxFor q).next)
    (hcrc : q.crc = crc32c q.data) : takeRequest q s = pumpAll (applyReq q q.data (chunkTaken q s)) := by
  have hchunk : takeChunk q (chanCode q.dstJob.toNat (pktChan q)) s = (chunkTaken q s, .whole q.data) := by
    unfold State.rxFor at hseq
    simp only [takeChunk, if_pos hseq, hfirst, hlast, if_true, List.nil_append, Bool.not_true, Bool.false_eq_true, if_false,
      if_pos hcrc]
    rfl
  simp only [takeRequest, hchunk]

theorem takeRequest_of_more (hmore : q.last = false) (hseq : q.chunkSeq = (s.rxFor q).next) :
    takeRequest q s = packetKept q s := by
  have hchunk : takeChunk q (chanCode q.dstJob.toNat (pktChan q)) s = (packetKept q s, .more) := by
    unfold State.rxFor at hseq
    simp only [takeChunk, if_pos hseq, hmore, Bool.not_false, if_true]
    rfl
  simp only [takeRequest, hchunk]

section
variable (hlast : q.last = true) (hseq : q.chunkSeq ≠ (s.rxFor q).next)
include hlast hseq

/-- A PUT chunk applied before is acknowledged again. -/
theorem takeRequest_of_old_put (hkind : q.kind = 0x01) (hold : (q.chunkSeq - (s.rxFor q).next).getLsbD 31 = true) :
    takeRequest q s = sendAck q s := by
  have hchunk : takeChunk q (chanCode q.dstJob.toNat (pktChan q)) s = (s, .again) := by
    unfold State.rxFor at hseq hold
    simp only [takeChunk, if_neg hseq, hlast, Bool.not_true, Bool.false_eq_true, if_false, hold, if_true]
  have hnone : (s.fab.unacked.find? fun c => c.answers && c.dst == q.src && c.chunk == q.chunkSeq
      && c.stream % 64 == pktChan q && q.kind != 0x01) = none :=
    List.find?_eq_none.mpr fun c _ => by simp [hkind]
  simp only [takeRequest, hchunk, hnone]

theorem takeRequest_of_ahead (hahead : (q.chunkSeq - (s.rxFor q).next).getLsbD 31 = false) :
    takeRequest q s = sendNak q 2 s := by
  have hchunk : takeChunk q (chanCode q.dstJob.toNat (pktChan q)) s = (s, .ahead) := by
    unfold State.rxFor at hseq hahead
    simp only [takeChunk, if_neg hseq, hlast, Bool.not_true, Bool.false_eq_true, if_false, hahead]
  simp only [takeRequest, hchunk]

end

/-! ## What a whole chunk does (R538 to R541, R547) -/

/-- The address of a chunk of one packet is the packet's. -/
@[simp] theorem chunkBase_of_one_packet (q : FabPkt) : chunkBase q q.data = q.addr.toNat := Nat.add_sub_cancel ..

section
variable {job a : Nat} {domain : Word} {d : List Byte} (src : Nat) (haddr : a < 2 ^ 63)
include haddr

theorem doReqAny_put_of_ok (hok : (doReq job domain (.put a d) s).2 = .ok []) :
    doReqAny job domain src (.put a d) s = (restartChecks job a d.length (doReq job domain (.put a d) s).1, .ok []) := by
  simp only [doReqAny, if_neg haddr.not_ge, hok]

theorem doReqAny_put_of_deny {st : Byte} {rs : Half} {r0 : Nat} (hdeny : (doReq job domain (.put a d) s).2 = .deny st rs r0) :
    doReqAny job domain src (.put a d) s = doReq job domain (.put a d) s := by
  simp only [doReqAny, if_neg haddr.not_ge, hdeny]

theorem doReqAny_get (k dest : Nat) (s : State) :
    doReqAny job domain src (.get a k dest) s = doReq job domain (.get a k dest) s := if_neg haddr.not_ge

end

/-- The operation of a request packet that is a chunk of its own, in a state. -/
def requestIn (q : FabPkt) (s : State) : State × Resp :=
  doReqAny q.dstJob.toNat q.domain q.src.toNat (reqOf q.kind q.addr.toNat q.data) s

/-- The answer to a request that took effect: ACK of a PUT, else the bytes or the former word. -/
def sendResult (q : FabPkt) (a : List Byte) (s : State) : State :=
  let to_ := askerOf q.kind q.data
  match q.kind.toNat with
  | 0x01 => sendAck q s
  | 0x02 => sendAnswerPkt q 0x03 to_.1 to_.2 a s
  | _ => sendAnswerPkt q 0x05 to_.1 to_.2 a s

theorem applyReq_of_ok {a : List Byte} (hok : (requestIn q s).2 = .ok a) :
    applyReq q q.data s = sendResult q a (requestIn q s).1 := by
  unfold requestIn at *
  simp only [applyReq, chunkBase_of_one_packet, hok]
  rfl

theorem applyReq_of_deny {st : Byte} {rs : Half} {r0 : Nat} (hdeny : (requestIn q s).2 = .deny st rs r0) :
    applyReq q q.data s = sendDeny q st rs r0 (requestIn q s).1 := by
  unfold requestIn at *
  simp only [applyReq, chunkBase_of_one_packet, hdeny]

/-! ## Transit (R554) -/

theorem transit_of_spent (hhops : q.hops = 15) :
    transit q s = { s with fab := { s.fab with drops := satAdd s.fab.drops 1 } } := if_pos hhops

theorem transit_of_routed {port : Nat} (hhops : q.hops ≠ 15) (hroute : s.portFor { q with hops := q.hops + 1 } = some port) :
    transit q s = putPort port { q with hops := q.hops + 1 }
      { s with fab := { s.fab with forwarded := s.fab.forwarded ++ [(port, { q with hops := q.hops + 1 })] } } := by
  simp only [transit, if_neg hhops, hroute]

theorem exec_transitForward {port : Nat} (hport : port < 20) (q : FabPkt) (s : State) :
    exec (.transitForward port q) s = .next (transit q s) := event_of_ok (by simpa using hport) _

/-! ## Request packets, from their arrival to what goes back -/

section
variable (hdst : q.dst.toNat = s.moduleId) (hasks : asks q = true) (hfree : s.holdsPkt s.fab.heldPkts q = false)
include hdst hasks hfree

section
variable (hfirst : q.first = true) (hlast : q.last = true) (hseq : q.chunkSeq = (s.rxFor q).next) (hcrc : q.crc = crc32c q.data)
include hfirst hlast hseq hcrc

theorem takePacket_of_ok {a : List Byte} {t : State} (hdone : requestIn q (chunkTaken q s) = (t, .ok a)) :
    takePacket q s = pumpAll (sendResult q a t) := by
  rw [takePacket_of_free hdst hasks hfree, takeRequest_of_whole hfirst hlast hseq hcrc, applyReq_of_ok (by rw [hdone]), hdone]

theorem takePacket_of_deny {st : Byte} {rs : Half} {r0 : Nat} {t : State}
    (hdone : requestIn q (chunkTaken q s) = (t, .deny st rs r0)) : takePacket q s = pumpAll (sendDeny q st rs r0 t) := by
  rw [takePacket_of_free hdst hasks hfree, takeRequest_of_whole hfirst hlast hseq hcrc, applyReq_of_deny (by rw [hdone]), hdone]

end

theorem takePacket_of_ahead (hlast : q.last = true) (hseq : q.chunkSeq ≠ (s.rxFor q).next)
    (hahead : (q.chunkSeq - (s.rxFor q).next).getLsbD 31 = false) : takePacket q s = sendNak q 2 s := by
  rw [takePacket_of_free hdst hasks hfree, takeRequest_of_ahead hlast hseq hahead]

end

/-- Settles O40: a request packet is held or taken; taken, its place in the sequence decides what its chunk means, and a whole
chunk's operation what goes back. -/
theorem requestPacketsArrive : Obligations.RequestPacketsArrive := by
  unfold Obligations.RequestPacketsArrive
  refine ⟨fun p s hdst => ?_, fun port p s hport => ?transit⟩
  case transit =>
    rw [exec_transitForward hport]
    exact ⟨fun hhops => congrArg _ (transit_of_spent hhops),
      fun hhops port hroute => congrArg _ (transit_of_routed hhops hroute)⟩
  rw [exec_putData, exec_getReq, exec_atomicReq, exec_signalPacket]
  intro q1 q2 q4 q6 free hold code c s1
  refine ⟨fun hheld => congrArg _ (takePacket_of_held (q := q1) hdst hheld),
    fun hheld => congrArg _ (takePacket_of_held (q := q2) hdst hheld),
    fun hheld => congrArg _ (takePacket_of_held (q := q4) hdst hheld),
    fun hheld => congrArg _ (takePacket_of_held (q := q6) hdst hheld),
    fun hfirst hlast hseq hcrc haddr => ⟨⟨fun hfree hok => ?put, fun st rs r0 hfree hdeny => ?putDenied⟩,
      ⟨fun d hfree hok => ?get, fun st rs r0 hfree hdeny => ?getDenied⟩,
      ⟨fun d hfree hok => ?atomic, fun st rs r0 hfree hdeny => ?atomicDenied⟩,
      ⟨fun d hfree hok => ?signal, fun st rs r0 hfree hdeny => ?signalDenied⟩⟩,
    fun hfree hmore hseq => ?more, fun hfree hlast hseq hold => ?old,
    fun hlast hseq hahead =>
      ⟨fun hfree => congrArg _ (takePacket_of_ahead (q := q1) hdst rfl hfree hlast hseq hahead),
        fun hfree => congrArg _ (takePacket_of_ahead (q := q2) hdst rfl hfree hlast hseq hahead),
        fun hfree => congrArg _ (takePacket_of_ahead (q := q4) hdst rfl hfree hlast hseq hahead),
        fun hfree => congrArg _ (takePacket_of_ahead (q := q6) hdst rfl hfree hlast hseq hahead)⟩⟩
  case put =>
    exact congrArg _ (takePacket_of_ok (q := q1) hdst rfl hfree hfirst hlast hseq hcrc (doReqAny_put_of_ok _ haddr hok))
  case putDenied =>
    exact congrArg _ (takePacket_of_deny (q := q1) hdst rfl hfree hfirst hlast hseq hcrc
      ((doReqAny_put_of_deny _ haddr hdeny).trans (Prod.ext rfl hdeny)))
  case get =>
    exact congrArg _ (takePacket_of_ok (q := q2) hdst rfl hfree hfirst hlast hseq hcrc
      ((doReqAny_get _ haddr ..).trans (Prod.ext rfl hok)))
  case getDenied =>
    exact congrArg _ (takePacket_of_deny (q := q2) hdst rfl hfree hfirst hlast hseq hcrc
      ((doReqAny_get _ haddr ..).trans (Prod.ext rfl hdeny)))
  case atomic => exact congrArg _ (takePacket_of_ok (q := q4) hdst rfl hfree hfirst hlast hseq hcrc (Prod.ext rfl hok))
  case atomicDenied =>
    exact congrArg _ (takePacket_of_deny (q := q4) hdst rfl hfree hfirst hlast hseq hcrc (Prod.ext rfl hdeny))
  case signal => exact congrArg _ (takePacket_of_ok (q := q6) hdst rfl hfree hfirst hlast hseq hcrc (Prod.ext rfl hok))
  case signalDenied =>
    exact congrArg _ (takePacket_of_deny (q := q6) hdst rfl hfree hfirst hlast hseq hcrc (Prod.ext rfl hdeny))
  case more => exact congrArg _ ((takePacket_of_free (q := q1) hdst rfl hfree).trans (takeRequest_of_more hmore hseq))
  case old =>
    exact congrArg _ ((takePacket_of_free (q := q1) hdst rfl hfree).trans (takeRequest_of_old_put hlast hseq rfl hold))

end Sys2Proof.Machine
end

section
/-! PROOFS. One step: the command at the front of the queue, the state after reset, which commands complete, and where a
packet waits. -/

namespace Sys2Proof.Machine

open Sys2Proof

variable {p : Packet} {s : State} {eff : Packet → State → State}

/-! ## The front of the queue -/

theorem tickUnits_of_idle (h : ∀ t ∈ s.tiles, t.issued = false) : tickUnits s = s := by
  have : s.tiles.filter (·.issued) = [] := List.filter_eq_nil_iff.2 fun t ht => by simp [h t ht]
  rw [tickUnits, this, List.foldl_nil]

theorem step_cons (h : s.pending = c :: rest) : step s = exec c { s with pending := rest } := by
  rw [step, h]

theorem step_nil (h : s.pending = []) : step s = .next (tickUnits s) := by
  rw [step, h]

/-- Settles O1: the two cases of a step. -/
theorem stepRunsFrontCommand : Obligations.StepRunsFrontCommand :=
  ⟨fun _ _ _ h => step_cons h, fun _ h => ⟨step_nil h, fun hi => by rw [step_nil h, tickUnits_of_idle hi]⟩⟩

/-- Settles O4: the state after reset lists no byte and no command. -/
theorem resetMemoryForm : Obligations.ResetMemoryForm := ⟨rfl, rfl⟩

/-- Refutes O5: THERMAL_STEP_TIMER is well formed with any readings, but faults on a reading of sensor 63, which no module
has. -/
theorem not_wellFormedCommandsComplete : ¬ Obligations.WellFormedCommandsComplete := by
  rintro ⟨h, -⟩
  obtain ⟨t, ht⟩ := h (.thermalStepTimer [(63, 0)]) State.reset rfl
  have hf : exec (.thermalStepTimer [(63, 0)]) State.reset = .fault .noSuchUnit := rfl
  rw [hf] at ht
  cases ht

/-! ## Where a packet waits (R640, R777, R497, R69) -/

/-- A packet that is the oldest fetched of its SQ meets the gate. -/
theorem submit_of_head (hvi : viOk p.vi = true) (hsq : p.sq < 8) (hfetch : s.fetches p.vi = true)
    (hhead : ((s.vi p.vi).sq p.sq).fetched.head? = some p) : submit eff p s = .next (gate p eff (taken p s)) := by
  have hmem : ((s.vi p.vi).sq p.sq).fetched.contains p = true := List.contains_iff_mem.2 (List.mem_of_mem_head? hhead)
  rw [submit_next eff s hvi hsq, if_pos hfetch, arrive, if_pos hmem, if_pos hhead, taken, if_pos hmem]

/-- A fetched packet that is not the oldest of its SQ waits as it is. -/
theorem submit_of_not_head (hvi : viOk p.vi = true) (hsq : p.sq < 8) (hfetch : s.fetches p.vi = true)
    (hmem : ((s.vi p.vi).sq p.sq).fetched.contains p = true) (hhead : ((s.vi p.vi).sq p.sq).fetched.head? ≠ some p) :
    submit eff p s = .next s := by
  rw [submit_next eff s hvi hsq, if_pos hfetch, arrive, if_pos hmem, if_neg hhead]

/-- A packet that something holds joins the waiting packets of its SQ. -/
theorem gate_of_held (h : ((s.vi p.vi).sq p.sq).waiting ≠ [] ∨ (p.barrier = true ∧ earlierOpen p s = true) ∨
    fenceHolds p s = true) :
    gate p eff s = s.updSq p.vi p.sq fun u => { u with waiting := u.waiting ++ [p] } := by
  rw [gate, if_pos]
  rcases h with h | ⟨hb, he⟩ | h
  · simp [h]
  · simp [hb, he]
  · simp [h]

/-- A packet that nothing holds meets the state of its job. -/
theorem gate_of_free (hw : ((s.vi p.vi).sq p.sq).waiting = []) (hb : p.barrier = false ∨ earlierOpen p s = false)
    (hf : fenceHolds p s = false) : gate p eff s = jobGate p eff s := by
  rw [gate, if_neg]
  rcases hb with hb | hb <;> simp [hw, hb, hf]

/-- A packet of a job that does not run joins the job's command list, and learns of its position in the queue. -/
theorem jobGate_of_not_running {j : Job} (hj : s.job? p.job = some j) (hr : j.state ≠ 3) (hfree : jobFree p = false) :
    jobGate p eff s =
      let s1 := s.updJob j.id fun j => { j with cmdList := j.cmdList ++ [p] }
      if j.state = 1 ∧ j.cls = 2 ∧ s.sched.stepMode = false then postInterim p 0x08 0x0910 (s.position j.id) s1 else s1 := by
  simp [jobGate, hj, hr, hfree]

@[simp] theorem taken_sched (p : Packet) (s : State) : (taken p s).sched = s.sched := by rw [taken_eq]

/-- Settles O8: the oldest fetched packet meets the gate, and there the state of its job; another stays as it is. -/
theorem heldPackets : Obligations.HeldPackets := by
  intro c p s hc hwf hfetch
  obtain ⟨hvi, hsq, hexec⟩ := exec_packet_row hc hwf
  refine ⟨fun hhead => ⟨fun hheld => ?_, fun hw hb hf j hj hr hfree => ?_⟩, fun hmem hhead => ?_⟩
  · rw [hexec, submit_of_head hvi hsq hfetch hhead, gate_of_held]
    rwa [taken_waiting]
  · rw [hexec, submit_of_head hvi hsq hfetch hhead, gate_of_free (by rwa [taken_waiting]) hb hf,
      jobGate_of_not_running (by rwa [taken_job?]) hr hfree]
    simp [State.position]
  · rw [hexec, submit_of_not_head hvi hsq hfetch hmem hhead]

end Sys2Proof.Machine
end

section
/-! PROOFS. The commands that wait and the form of the memories, as one predicate that every function of the model keeps. -/

namespace Sys2Proof.Machine

open Sys2Proof

/-- The commands that wait are `C`, and where `W` holds the four memories are in canonical form. -/
structure Steady (C : List Instr) (W : Prop) (s : State) : Prop where
  pending : s.pending = C
  memWf : W → s.memWf = true

variable {C : List Instr} {W : Prop} {s t : State}

/-! ## States, choices and folds -/

/-- A change of other fields. -/
theorem Steady.set (h : Steady C W s) (hp : t.pending = s.pending) (hm : t.memWf = s.memWf) :
    Steady C W t where
  pending := hp.trans h.pending
  memWf hw := hm.trans (h.memWf hw)

theorem Steady.vis (h : Steady C W s) : Steady C W { s with vis := x } := h.set rfl rfl
theorem Steady.turnVi (h : Steady C W s) : Steady C W { s with turnVi := x } := h.set rfl rfl
theorem Steady.ftu (h : Steady C W s) : Steady C W { s with ftu := x } := h.set rfl rfl
theorem Steady.cores (h : Steady C W s) : Steady C W { s with cores := x } := h.set rfl rfl
theorem Steady.dies (h : Steady C W s) : Steady C W { s with dies := x } := h.set rfl rfl
theorem Steady.stks (h : Steady C W s) : Steady C W { s with stks := x } := h.set rfl rfl
theorem Steady.hubs (h : Steady C W s) : Steady C W { s with hubs := x } := h.set rfl rfl
theorem Steady.fab (h : Steady C W s) : Steady C W { s with fab := x } := h.set rfl rfl
theorem Steady.faults (h : Steady C W s) : Steady C W { s with faults := x } := h.set rfl rfl
theorem Steady.ntc (h : Steady C W s) : Steady C W { s with ntc := x } := h.set rfl rfl
theorem Steady.blkRst (h : Steady C W s) : Steady C W { s with blkRst := x } := h.set rfl rfl
theorem Steady.flash (h : Steady C W s) : Steady C W { s with flash := x } := h.set rfl rfl
theorem Steady.boot (h : Steady C W s) : Steady C W { s with boot := x } := h.set rfl rfl
theorem Steady.power (h : Steady C W s) : Steady C W { s with power := x } := h.set rfl rfl
theorem Steady.tap (h : Steady C W s) : Steady C W { s with tap := x } := h.set rfl rfl
theorem Steady.quotas (h : Steady C W s) : Steady C W { s with quotas := x } := h.set rfl rfl
theorem Steady.jobs (h : Steady C W s) : Steady C W { s with jobs := x } := h.set rfl rfl
theorem Steady.sched (h : Steady C W s) : Steady C W { s with sched := x } := h.set rfl rfl
theorem Steady.opens (h : Steady C W s) : Steady C W { s with opens := x } := h.set rfl rfl
theorem Steady.tiles (h : Steady C W s) : Steady C W { s with tiles := x } := h.set rfl rfl
theorem Steady.partials (h : Steady C W s) : Steady C W { s with partials := x } := h.set rfl rfl
theorem Steady.ctr (h : Steady C W s) : Steady C W { s with ctr := x } := h.set rfl rfl
theorem Steady.phases (h : Steady C W s) : Steady C W { s with phases := x } := h.set rfl rfl
theorem Steady.zeroing (h : Steady C W s) : Steady C W { s with zeroing := x } := h.set rfl rfl
theorem Steady.noJobSeed (h : Steady C W s) : Steady C W { s with noJobSeed := x } := h.set rfl rfl
theorem Steady.noJobGens (h : Steady C W s) : Steady C W { s with noJobGens := x } := h.set rfl rfl
theorem Steady.msixOut (h : Steady C W s) : Steady C W { s with msixOut := x } := h.set rfl rfl
theorem Steady.setBusRead (h : Steady C W s) : Steady C W { s with busRead := x } := h.set rfl rfl
theorem Steady.tdo (h : Steady C W s) : Steady C W { s with tdo := x } := h.set rfl rfl
theorem Steady.fresh (h : Steady C W s) : Steady C W { s with fresh := x } := h.set rfl rfl

theorem Steady.ite {_ : Decidable c} (hs : Steady C W s) (ht : Steady C W t) : Steady C W (if c then s else t) := by
  split
  · exact hs
  · exact ht

theorem Steady.ite_fst {_ : Decidable c} {a b : State × α} (ha : Steady C W a.1) (hb : Steady C W b.1) :
    Steady C W (if c then a else b).1 := by
  split
  · exact ha
  · exact hb

theorem Steady.ite_snd {_ : Decidable c} {a b : α × State} (ha : Steady C W a.2) (hb : Steady C W b.2) :
    Steady C W (if c then a else b).2 := by
  split
  · exact ha
  · exact hb

theorem Steady.foldl {f : State → α → State} {l : List α} (h : Steady C W s)
    (hf : ∀ {u x}, Steady C W u → Steady C W (f u x)) : Steady C W (l.foldl f s) := by
  induction l generalizing s with
  | nil => exact h
  | cons x l ih => exact ih (hf h)

theorem Steady.foldl_fst {f : State × β → α → State × β} {l : List α} {r : State × β} (h : Steady C W r.1)
    (hf : ∀ {u x}, Steady C W u.1 → Steady C W (f u x).1) : Steady C W (l.foldl f r).1 := by
  induction l generalizing r with
  | nil => exact h
  | cons x l ih => exact ih (hf h)

theorem Steady.of_state_eq {u : State} (h : Steady C W u) (e : u = t) : Steady C W t := e ▸ h

/-- A result that may not be there, or what stands for it. -/
theorem Steady.getD {o : Option State} (h : Steady C W s) (ho : ∀ t ∈ o, Steady C W t) : Steady C W (o.getD s) := by
  cases o with
  | none => exact h
  | some t => exact ho t rfl

/-- The first result that there is. -/
theorem Steady.findSome? {f : α → Option β} {g : β → State} {l : List α} (hf : ∀ x, ∀ y ∈ f x, Steady C W (g y)) :
    ∀ y ∈ l.findSome? f, Steady C W (g y) := fun y hy => by
  obtain ⟨x, -, hx⟩ := List.exists_of_findSome?_eq_some hy
  exact hf x y hx

theorem Steady.map {o : Option α} {f : α → β} {g : β → State} (hf : ∀ x ∈ o, Steady C W (g (f x))) :
    ∀ y ∈ o.map f, Steady C W (g y) := by
  cases o with
  | none => rintro _ ⟨⟩
  | some x =>
    rintro _ ⟨⟩
    exact hf x rfl

/-- The state of a pair that a case has taken apart. -/
theorem Steady.fst {x : State × α} (h : Steady C W x.1) (e : x = (t, y)) : Steady C W t := by
  rw [e] at h
  exact h

theorem Steady.snd {x : α × State} (h : Steady C W x.2) (e : x = (y, t)) : Steady C W t := by
  rw [e] at h
  exact h

/-! ## Memories -/

theorem memWf_iff : s.memWf = true ↔
    s.devMem.wf = true ∧ s.hostMem.wf = true ∧ s.remMem.wf = true ∧ s.scr.wf = true := by
  simp [State.memWf, and_assoc]

theorem Steady.hostMem (h : Steady C W s) (hm : s.hostMem.wf = true → m.wf = true) :
    Steady C W { s with hostMem := m } where
  pending := h.pending
  memWf hw := by
    obtain ⟨hd, hh, hr, hs⟩ := memWf_iff.1 (h.memWf hw)
    exact memWf_iff.2 ⟨hd, hm hh, hr, hs⟩

theorem Steady.devMem (h : Steady C W s) (hm : s.devMem.wf = true → m.wf = true) :
    Steady C W { s with devMem := m } where
  pending := h.pending
  memWf hw := by
    obtain ⟨hd, hh, hr, hs⟩ := memWf_iff.1 (h.memWf hw)
    exact memWf_iff.2 ⟨hm hd, hh, hr, hs⟩

theorem Steady.remMem (h : Steady C W s) (hm : s.remMem.wf = true → m.wf = true) :
    Steady C W { s with remMem := m } where
  pending := h.pending
  memWf hw := by
    obtain ⟨hd, hh, hr, hs⟩ := memWf_iff.1 (h.memWf hw)
    exact memWf_iff.2 ⟨hd, hh, hm hr, hs⟩

theorem Steady.scr (h : Steady C W s) (hm : s.scr.wf = true → m.wf = true) :
    Steady C W { s with scr := m } where
  pending := h.pending
  memWf hw := by
    obtain ⟨hd, hh, hr, hs⟩ := memWf_iff.1 (h.memWf hw)
    exact memWf_iff.2 ⟨hd, hh, hr, hm hs⟩

theorem Steady.setSpace {x : Space} (h : Steady C W s) (hm : (s.space x).wf = true → m.wf = true) :
    Steady C W (s.setSpace x m) := by
  cases x with
  | dev => exact h.devMem hm
  | host => exact h.hostMem hm
  | rem => exact h.remMem hm
  | scr => exact h.scr hm

/-- A page is zeroed. -/
theorem Steady.zeroDev (h : Steady C W s) : Steady C W { s with devMem := s.devMem.zero a n } :=
  h.devMem fun hm => Mem.wf_zero hm a n

theorem Steady.zeroScr (h : Steady C W s) : Steady C W { s with scr := s.scr.zero a n } :=
  h.scr fun hm => Mem.wf_zero hm a n

theorem Steady.copySpan (h : Steady C W s) : Steady C W (s.copySpan x y n) :=
  h.setSpace fun hm => Mem.wf_copyFrom hm _ _ _ _

theorem Steady.writeHost (h : Steady C W s) : Steady C W { s with hostMem := s.hostMem.writeN a bs } :=
  h.hostMem fun hm => Mem.wf_writeN hm a bs

theorem Steady.writeDev (h : Steady C W s) : Steady C W { s with devMem := s.devMem.writeN a bs } :=
  h.devMem fun hm => Mem.wf_writeN hm a bs

end Sys2Proof.Machine
end

section
/-! PROOFS. What every function of the model keeps: the commands that wait, and the form of the memories.
The tables, the memories, completion records and fault units of the state. -/

namespace Sys2Proof.Machine

open Sys2Proof

variable {C : List Instr} {W : Prop} {s t : State}

/-! ## Keys, VIs, queues -/

theorem Steady.updVi (h : Steady C W s) :
    Steady C W (s.updVi n f) := h.set rfl rfl

theorem Steady.updSq (h : Steady C W s) :
    Steady C W (s.updSq n q f) := h.set rfl rfl

theorem Steady.updCq (h : Steady C W s) :
    Steady C W (s.updCq n q f) := h.set rfl rfl

/-! ## Jobs and opens -/

theorem Steady.updJob (h : Steady C W s) :
    Steady C W (s.updJob id' f) := h.set rfl rfl

theorem Steady.openCmd (h : Steady C W s) :
    Steady C W (s.openCmd p g) := h.set rfl rfl

theorem Steady.setProg (h : Steady C W s) :
    Steady C W (s.setProg k g) := h.set rfl rfl

theorem Steady.closeCmd (h : Steady C W s) :
    Steady C W (s.closeCmd k) := h.set rfl rfl

/-! ## MSI-X (R65, R776) -/

theorem Steady.raiseVec (h : Steady C W s) :
    Steady C W (Machine.raiseVec n k s) :=
  Steady.ite h (Steady.ite h.updVi h.msixOut)

theorem Steady.sendPending (h : Steady C W s) :
    Steady C W (Machine.sendPending n s) :=
  h.foldl (fun h => Steady.ite h.updVi.raiseVec h)

/-! ## Event records (R728 to R731) -/

theorem Steady.evrec (h : Steady C W s) :
    Steady C W (Machine.evrec code source a b c s) :=
  Steady.ite h (Steady.ite h.boot h.boot)

/-! ## Cores and dies -/

theorem Steady.updCore (h : Steady C W s) :
    Steady C W (s.updCore d c f) := h.set rfl rfl

theorem Steady.updDie (h : Steady C W s) :
    Steady C W (s.updDie d f) := h.set rfl rfl

theorem Steady.updStk (h : Steady C W s) :
    Steady C W (s.updStk k f) := h.set rfl rfl

theorem Steady.updHub (h : Steady C W s) :
    Steady C W (s.updHub h' f) := h.set rfl rfl

theorem Steady.updPort (h : Steady C W s) :
    Steady C W (s.updPort p f) := h.set rfl rfl

/-! ## Homes and frames (R471 to R481) -/

theorem Steady.releaseHome {x : Home} (h : Steady C W s) : Steady C W (Machine.releaseHome x s) := by
  have hz : ∀ a, Steady C W { s with devMem := s.devMem.zero a pageSize, zeroing := s.zeroing ++ [a / pageSize] } :=
    fun a => (h.zeroDev (a := a) (n := pageSize)).zeroing
  unfold Machine.releaseHome
  split
  · dsimp only
    split
    · exact .ite (hz _).updStk.flash.evrec (hz _)
    · exact hz _
  · exact h

/-! ## Translation and access (R82, R471, R472, R506 to R509) -/

theorem Steady.healBurst (h : Steady C W s) :
    Steady C W (Machine.healBurst x s) := by
  fun_cases Machine.healBurst x s
  · exact h
  · exact h.updStk
  · exact h

theorem Steady.copyRegion (h : Steady C W s) :
    Steady C W (Machine.copyRegion n page off s j c) := by
  fun_cases Machine.copyRegion n page off s j c
  · exact h
  · exact h
  · exact h.copySpan.updJob

theorem Steady.copyAhead1 (h : Steady C W s) :
    Steady C W (Machine.copyAhead1 n page off s j c) :=
  h.copyRegion.ctr

theorem Steady.copyAhead (h : Steady C W s) :
    Steady C W (Machine.copyAhead n va s) :=
  h.foldl (fun h => Steady.ite (h.foldl (fun h => Steady.ite h.copyAhead1 h)) h)

theorem Steady.vwrite1 (h : Steady C W s) : Steady C W (Machine.vwrite1 n va b s) := by
  fun_cases Machine.vwrite1 n va b s
  · exact h
  · exact h.setSpace fun hm => Mem.wf_write hm _ b

theorem Steady.vwriteRaw (h : Steady C W s) :
    Steady C W (Machine.vwriteRaw n x x' s) := by
  fun_induction Machine.vwriteRaw n x x' s
  · exact h
  next ih =>
    exact ih h.vwrite1

theorem Steady.vwrite (h : Steady C W s) :
    Steady C W (Machine.vwrite n va bs s) := by
  fun_cases Machine.vwrite n va bs s
  · refine ((h.foldl (fun h => h.copyAhead)).foldl (fun h => Steady.ite ?_ h)).vwriteRaw
    split
    · exact h.healBurst
    · exact h
  · refine ((h.foldl (fun h => h.copyAhead)).foldl (fun h => Steady.ite ?_ h)).vwriteRaw
    split
    · exact h.healBurst
    · exact h

theorem Steady.vstore (h : Steady C W s) :
    Steady C W (Machine.vstore p va bs s).1 :=
  h.vwrite

/-! ## Structures that firmware keeps in a VI's memory -/

theorem Steady.wr (h : Steady C W s) :
    Steady C W (Machine.wr n a k v s) :=
  h.vwrite

/-! ## KV page pools: geometry (R317, R321) -/

theorem Steady.updPool (h : Steady C W s) :
    Steady C W (s.updPool id' k f) := h.set rfl rfl

/-! ## The structures at META (R327 to R329) -/

theorem Steady.setCb (h : Steady C W s) :
    Steady C W (Machine.setCb n q off k v s) :=
  h.wr

theorem Steady.bumpCb (h : Steady C W s) :
    Steady C W (Machine.bumpCb n q off v s) :=
  h.setCb

theorem Steady.setDesc (h : Steady C W s) :
    Steady C W (Machine.setDesc n q page next' state pin ref s) :=
  h.wr

theorem Steady.setTh (h : Steady C W s) :
    Steady C W (Machine.setTh n q t' off k v s) :=
  h.wr

theorem Steady.setTe (h : Steady C W s) :
    Steady C W (Machine.setTe n q t' j v s) :=
  h.wr

theorem Steady.fixUsed (h : Steady C W s) :
    Steady C W (Machine.fixUsed n q t' bound s) :=
  h.setTh

/-! ## REF and PIN (R336 to R341) -/

theorem Steady.pushFree (h : Steady C W s) :
    Steady C W (Machine.pushFree n q page s) :=
  ((Steady.ite h.setDesc.setCb h.setDesc.wr).setCb).setCb

theorem Steady.allocPage (h : Steady C W s) :
    ∀ t ∈ Machine.allocPage n q s, Steady C W t.2 := by
  fun_cases Machine.allocPage n q s
  · rintro _ ⟨⟩
  · rintro _ ⟨⟩
    exact ((Steady.ite h.setDesc.setCb.setCb.setCb h.setDesc.setCb.setCb).ctr).bumpCb

theorem Steady.dropRef (h : Steady C W s) : Steady C W (Machine.dropRef n q page s) := by
  simp only [Machine.dropRef]
  exact .ite h.setDesc (.ite h.pushFree h.setDesc.setCb)

theorem Steady.takeRef (h : Steady C W s) :
    Steady C W (Machine.takeRef n q page s) :=
  h.setDesc

theorem Steady.pinPage (h : Steady C W s) :
    Steady C W (Machine.pinPage n q page s) :=
  h.setDesc

theorem Steady.unpinPage (h : Steady C W s) :
    Steady C W (Machine.unpinPage n q page s) :=
  Steady.ite h.setCb.pushFree h.setDesc

/-! ## Free values (notes/assumptions/3.md) -/

theorem Steady.nextFree (h : Steady C W s) :
    Steady C W (s.nextFree) := h.set rfl rfl

/-! ## Closing a phase window (R420 to R425) -/

theorem Steady.pushPhase (h : Steady C W s) :
    Steady C W (Machine.pushPhase r' s) :=
  Steady.ite h.phases (h.set rfl rfl)

theorem Steady.markPhase (h : Steady C W s) :
    Steady C W (Machine.markPhase id' phase s) := h.set rfl rfl

theorem Steady.markWork (h : Steady C W s) :
    Steady C W (Machine.markWork p s) := h.set rfl rfl

theorem Steady.closeWindow (h : Steady C W s) :
    Steady C W (Machine.closeWindow id' flags last s) := by
  fun_cases Machine.closeWindow id' flags last s
  · exact h
  · exact h.pushPhase.updJob.ctr

theorem Steady.closeStep (h : Steady C W s) :
    Steady C W (Machine.closeStep p s) := by
  fun_cases Machine.closeStep p s
  · exact h
  · exact h
  · exact h.closeWindow
  · exact h.closeWindow.vwrite

/-! ## Completion records (R59 to R68) -/

theorem Steady.signalRec (h : Steady C W s) :
    Steady C W (Machine.signalRec n c now s) :=
  Steady.ite h (Steady.ite h.updCq.raiseVec h.updCq)

theorem Steady.writeRec (h : Steady C W s) :
    Steady C W (Machine.writeRec c r' s) :=
  h.writeHost.updCq.signalRec

theorem Steady.passRec (h : Steady C W s) :
    Steady C W (Machine.passRec c r' s) :=
  Steady.ite h h.writeRec

theorem Steady.postRec (h : Steady C W s) :
    Steady C W (Machine.postRec r' s) :=
  Steady.ite h (Steady.ite h.updCq h.passRec)

theorem Steady.releaseHeld (h : Steady C W s) :
    Steady C W (Machine.releaseHeld n c x s) := by
  fun_induction Machine.releaseHeld n c x s
  · exact h
  · exact h
  · exact h
  next ih =>
    exact ih h.updCq.passRec

theorem Steady.postInterim (h : Steady C W s) :
    Steady C W (Machine.postInterim p status reason r0 s) :=
  h.postRec

theorem Steady.writeFinal (h : Steady C W s) :
    Steady C W (Machine.writeFinal p status reason r0 r1 s) :=
  h.postRec

theorem Steady.settleFences (h : Steady C W s) :
    Steady C W (Machine.settleFences x s) := by
  fun_induction Machine.settleFences x s
  · exact h
  · exact h
  next ih =>
    exact ih h.closeCmd.writeFinal

theorem Steady.roomMade (h : Steady C W s) :
    Steady C W (Machine.roomMade n c s) :=
  h.releaseHeld.settleFences

theorem Steady.postRefused (h : Steady C W s) :
    Steady C W (Machine.postRefused p status reason r0 r1 s) :=
  h.closeCmd.writeFinal.settleFences

theorem Steady.noteEnd (h : Steady C W s) :
    Steady C W (Machine.noteEnd p s) :=
  Steady.ite h.markWork h.closeStep

theorem Steady.postFinal (h : Steady C W s) :
    Steady C W (Machine.postFinal p status reason r0 r1 s) :=
  h.noteEnd.postRefused

theorem Steady.postDone (h : Steady C W s) :
    Steady C W (Machine.postDone p r0 r1 s) :=
  h.postFinal

theorem Steady.postErr (h : Steady C W s) :
    Steady C W (Machine.postErr p reason r0 s) :=
  h.postFinal

theorem Steady.postCap (h : Steady C W s) :
    Steady C W (Machine.postCap p reason r0 s) :=
  h.postFinal

/-! ## Fault units (R662 to R677) -/

theorem Steady.updFault (h : Steady C W s) :
    Steady C W (s.updFault u f) := h.set rfl rfl

theorem Steady.notice (h : Steady C W s) : Steady C W (Machine.notice u applied info vec severe s) := by
  fun_cases Machine.notice u applied info vec severe s
  · exact h
  · exact h.ntc
  next r _ _ b _ =>
    exact .raiseVec (.set (h.writeHost (a := r.base.toNat + 16 * r.tail.toNat) (bs := b)) rfl rfl)

theorem Steady.startBlockReset (h : Steady C W s) :
    Steady C W (Machine.startBlockReset b s) :=
  Steady.ite h h.blkRst

theorem Steady.idleUnit (h : Steady C W s) :
    Steady C W (Machine.idleUnit d c u s) := h.set rfl rfl

theorem Steady.unpinAll (h : Steady C W s) :
    Steady C W (Machine.unpinAll k s) := by
  fun_cases Machine.unpinAll k s
  · exact h
  · refine Steady.setProg ?_
    split
    · exact h.foldl (fun h => h.unpinPage)
    · exact h
  · exact h
  · exact h

theorem Steady.spoilGrads (h : Steady C W s) :
    Steady C W (Machine.spoilGrads k s) := by
  fun_cases Machine.spoilGrads k s
  · exact h.foldl (fun h => h.nextFree.vwrite)
  · exact h
  · exact h

theorem Steady.dropTiles (h : Steady C W s) : Steady C W (Machine.dropTiles k s) := by
  unfold Machine.dropTiles
  extract_lets s1 s2
  have h1 : Steady C W s1 := h.spoilGrads.unpinAll
  have h2 : Steady C W s2 := (h1.zeroScr (a := k.scratch) (n := 2 ^ 60)).set rfl rfl
  exact h2.foldl fun h => h.idleUnit

theorem Steady.countResets (h : Steady C W s) :
    Steady C W (Machine.countResets again ended s) := h.set rfl rfl

theorem Steady.postReset (h : Steady C W s) :
    Steady C W (Machine.postReset p reason r0 r1 s) :=
  h.postFinal.countResets

theorem Steady.endTilesOf (h : Steady C W s) :
    Steady C W (Machine.endTilesOf d c reason x s) := by
  fun_induction Machine.endTilesOf d c reason x s
  · exact h
  · exact h
  next ih =>
    exact ih h.dropTiles
  next ih =>
    exact ih h.dropTiles.postReset

theorem Steady.handBack (h : Steady C W s) :
    Steady C W (Machine.handBack d s) :=
  Steady.ite h ((h.updDie.foldl (fun h => h.idleUnit)).tiles)

theorem Steady.dropTest (h : Steady C W s) :
    Steady C W (Machine.dropTest d s) :=
  Steady.ite h h.updDie

theorem Steady.abortSlot (h : Steady C W s) :
    Steady C W (Machine.abortSlot d s) :=
  h.handBack.dropTest

theorem Steady.standIn (h : Steady C W s) :
    Steady C W (Machine.standIn d c s) :=
  (((((Steady.ite h.dropTest h.abortSlot).updCore).updCore).updDie).foldl (fun h => h.idleUnit)).tiles

theorem Steady.leaveStandby (h : Steady C W s) :
    Steady C W (Machine.leaveStandby d s) :=
  (Steady.ite h.dropTest h.abortSlot).updDie

theorem Steady.withdraw (h : Steady C W s) :
    Steady C W (Machine.withdraw b s) := by
  unfold Machine.withdraw
  split
  · split
    · split
      · exact h
      · exact h
      · exact h.flash
    · split
      · split
        · exact h.standIn
        · exact h.standIn
        · exact h.standIn.flash
      · split
        · split
          · exact h.leaveStandby.updCore.endTilesOf
          · exact h.leaveStandby.updCore.endTilesOf
          · exact h.leaveStandby.updCore.endTilesOf.flash
        · split
          · exact h.updCore.endTilesOf
          · exact h.updCore.endTilesOf
          · exact h.updCore.endTilesOf.flash
  · split
    · split
      · exact h.updDie
      · exact h.updDie
      · exact h.updDie.flash
    · split
      · exact h.updDie
      · exact h.updDie
      · exact h.updDie.flash
  · split
    · exact h.updDie
    · exact h.updDie
    · exact h.updDie.flash
  · split
    · split
      · exact h.updHub
      · exact h.updHub
      · exact h.updHub.flash
    · split
      · exact h.updHub
      · exact h.updHub
      · exact h.updHub.flash
  · split
    · split
      · exact h.fab
      · exact h.fab
      · exact h.set rfl rfl
    · split
      · exact h.fab
      · exact h.fab
      · exact h.set rfl rfl
  · exact h
  · exact h

theorem Steady.applyMask (h : Steady C W s) : Steady C W (Machine.applyMask u mask info vec severe s) := by
  unfold Machine.applyMask
  extract_lets on s1 s2 s3 s4 _ s5 s6
  have h1 : Steady C W s1 := .ite h.notice h
  have h2 : Steady C W s2 := .ite h1.updFault h1
  have h3 : Steady C W s3 := .ite h2.updFault h2
  have h4 : Steady C W s4 := .ite h3.evrec h3
  have h5 : Steady C W s5 := .ite h4.boot h4
  have h6 : Steady C W s6 := by
    unfold s6
    cases unitTarget u info with
    | none => exact h5
    | some b => exact .ite (Steady.ite h5.withdraw h5).startBlockReset (.ite h5.withdraw h5)
  exact .ite h6.boot h6

theorem Steady.faultEvents (h : Steady C W s) :
    Steady C W (Machine.faultEvents u n info s) := by
  fun_cases Machine.faultEvents u n info s
  · exact h
  · exact h.updFault.applyMask

theorem Steady.faultEvent1 (h : Steady C W s) :
    Steady C W (Machine.faultEvent1 u info s) :=
  h.faultEvents

/-! ## Accesses that fail (R82, R508, R509) -/

theorem Steady.recordUe (h : Steady C W s) :
    Steady C W (Machine.recordUe n va s) := by
  fun_cases Machine.recordUe n va s
  · exact h.updStk.faultEvent1
  · exact h

theorem Steady.memFail (h : Steady C W s) :
    Steady C W (Machine.memFail p e' s) := by
  fun_cases Machine.memFail p e' s
  · exact h.postFinal
  · exact h.postFinal
  · exact h.recordUe.postFinal

/-! ## Generators (R222 to R229) -/

theorem Steady.putGens (h : Steady C W s) :
    Steady C W (s.putGens id' g) := by
  unfold Machine.State.putGens
  refine Steady.cores ?_
  split
  · exact h.updJob
  · exact h.noJobGens

end Sys2Proof.Machine
end

section
/-! PROOFS. What every function of the model keeps: the commands that wait, and the form of the memories.
Dispatch, jobs, fret time, memory tiers and switches. -/

namespace Sys2Proof.Machine

open Sys2Proof

variable {C : List Instr} {W : Prop} {s t : State}

theorem Steady.setTagErr (h : Steady C W s) :
    Steady C W (Machine.setTagErr n s) :=
  Steady.ite h.updVi.raiseVec h.updVi

theorem Steady.setDbErr (h : Steady C W s) :
    Steady C W (Machine.setDbErr n s) :=
  Steady.ite h.updVi.raiseVec h.updVi

theorem Steady.refuseFetch (h : Steady C W s) :
    Steady C W (Machine.refuseFetch p e' s) :=
  (Steady.ite h.setTagErr h).postRefused

theorem Steady.fetchOne (h : Steady C W s) :
    Steady C W (Machine.fetchOne n q s) := by
  fun_cases Machine.fetchOne n q s
  · exact h.updSq.refuseFetch
  · exact h.updSq.updSq

theorem Steady.fetchTurns (h : Steady C W s) :
    Steady C W (Machine.fetchTurns x s) := by
  fun_induction Machine.fetchTurns x s
  · exact h
  · exact h
  next ih =>
    exact ih h.updVi.turnVi.fetchOne

theorem Steady.fetchAll (h : Steady C W s) :
    Steady C W (Machine.fetchAll s) :=
  h.fetchTurns

theorem Steady.jobGate {eff : Packet → State → State} (h : Steady C W s)
    (heff : ∀ {x0 u}, Steady C W u → Steady C W (eff x0 u)) :
    Steady C W (Machine.jobGate p eff s) := by
  fun_cases Machine.jobGate p eff s
  · exact heff h
  · exact heff h
  · exact h.updJob.postInterim
  · exact h.updJob

theorem Steady.gate {eff : Packet → State → State} (h : Steady C W s)
    (heff : ∀ {x0 u}, Steady C W u → Steady C W (eff x0 u)) :
    Steady C W (Machine.gate p eff s) :=
  Steady.ite h.updSq (h.jobGate heff)

theorem Steady.arrive {eff : Packet → State → State} (h : Steady C W s)
    (heff : ∀ {x0 u}, Steady C W u → Steady C W (eff x0 u)) :
    Steady C W (Machine.arrive p eff s) := by
  fun_cases Machine.arrive p eff s
  · exact h.updSq.gate heff
  · exact h
  · exact h.refuseFetch
  · exact h.gate heff
  · exact h.updSq

theorem Steady.postInternal (h : Steady C W s) :
    Steady C W (Machine.postInternal p code s) :=
  h.evrec.postFinal

theorem Steady.postFree (h : Steady C W s) :
    Steady C W (Machine.postFree p s) :=
  Steady.ite h.nextFree.nextFree.postInternal h.nextFree.nextFree.postFinal

/-! ## Settings in force (R718, R720) -/

theorem Steady.journal (h : Steady C W s) :
    Steady C W (Machine.journal group item value s) := h.set rfl rfl

/-! ## Phase windows (R419 to R425) -/

theorem Steady.openWindow (h : Steady C W s) :
    Steady C W (Machine.openWindow id' start s) := h.set rfl rfl

/-! ## What a job owns (R629, R649) -/

theorem Steady.unschedule (h : Steady C W s) :
    Steady C W (Machine.unschedule k s) := h.set rfl rfl

theorem Steady.dropWork (h : Steady C W s) :
    Steady C W (Machine.dropWork k s) :=
  h.dropTiles.unschedule.fab

theorem Steady.abortOpen (h : Steady C W s) :
    Steady C W (Machine.abortOpen p s) :=
  h.dropWork.postFinal

theorem Steady.unhold (h : Steady C W s) :
    Steady C W (Machine.unhold p s) :=
  h.updSq.updJob

theorem Steady.unmapJob (h : Steady C W s) :
    Steady C W (Machine.unmapJob n id' s) := by
  fun_cases Machine.unmapJob n id' s
  refine h.updVi.foldl (fun h => Steady.ite ?_ (Steady.releaseHome ?_))
  · split
    · exact h.releaseHome
    · exact h
  · split
    · exact h.releaseHome
    · exact h

theorem Steady.freeOxbow (h : Steady C W s) :
    Steady C W (Machine.freeOxbow l s) :=
  h.foldl (fun h => h.zeroDev)

theorem Steady.freeSlots (h : Steady C W s) :
    Steady C W (Machine.freeSlots c s) :=
  h.freeOxbow

theorem Steady.dropCkpt (h : Steady C W s) :
    Steady C W (Machine.dropCkpt id' ckpt s) := by
  fun_cases Machine.dropCkpt id' ckpt s
  · exact h
  · exact h.freeSlots.freeOxbow.updJob

theorem Steady.dropFabric (h : Steady C W s) :
    Steady C W (Machine.dropFabric id' s) := h.set rfl rfl

theorem Steady.unqueue (h : Steady C W s) :
    Steady C W (Machine.unqueue id' s) := h.set rfl rfl

theorem Steady.requestCapo (h : Steady C W s) :
    Steady C W (Machine.requestCapo s) :=
  h.foldl (fun h => h.updCore)

theorem Steady.clearCapo (h : Steady C W s) :
    Steady C W (Machine.clearCapo s) := h.set rfl rfl

theorem Steady.clearStreams (h : Steady C W s) :
    Steady C W (Machine.clearStreams id' s) := h.set rfl rfl

theorem Steady.startSwitch (h : Steady C W s) :
    Steady C W (Machine.startSwitch id' s) :=
  h.updJob.sched

theorem Steady.startNext (h : Steady C W s) :
    Steady C W (Machine.startNext order s) := by
  fun_cases Machine.startNext order s
  · exact h
  · exact h
  · exact h.startSwitch
  · exact h
  · exact h.startSwitch

theorem Steady.releaseJob (h : Steady C W s) : Steady C W (Machine.releaseJob id' s) := by
  fun_cases Machine.releaseJob id' s
  · exact h
  next s4 s5 =>
    have h4 : Steady C W s4 := h.closeWindow.unmapJob.dropFabric.freeOxbow.foldl fun h => h.releaseHome
    have h5 : Steady C W s5 := h4.jobs.clearStreams.unqueue
    exact (Steady.ite h5.clearCapo h5).startNext

theorem Steady.abortPackets (h : Steady C W s) :
    Steady C W (Machine.abortPackets id' me s) :=
  (h.foldl (fun h => h.abortOpen)).foldl (fun h => Steady.ite h h.unhold.postFinal)

theorem Steady.endPreempts (h : Steady C W s) :
    Steady C W (Machine.endPreempts id' s) := by
  fun_cases Machine.endPreempts id' s
  refine h.foldl (fun h => ?_)
  split
  · exact Steady.ite h.postErr h
  · exact h

theorem Steady.endJob (h : Steady C W s) :
    Steady C W (Machine.endJob p s) := by
  unfold Machine.endJob
  split
  · exact h.postErr
  · refine (((Steady.releaseJob ?_).endPreempts).postDone).fetchAll
    split
    · exact h.abortPackets.postFinal
    · exact h.abortPackets

/-! ## VI reset (R74, R75) -/

theorem Steady.startViReset (h : Steady C W s) :
    Steady C W (Machine.startViReset n s) :=
  (((h.updVi.opens.foldl (fun h => h.dropWork)).foldl (fun h => h.releaseJob.endPreempts)).unmapJob).settleFences

/-! ## Switches (R643, R477) -/

theorem Steady.savePages (h : Steady C W s) :
    Steady C W (Machine.savePages j s) :=
  h.foldl (fun h => h.copySpan.zeroDev.updVi)

theorem Steady.returnPages (h : Steady C W s) :
    Steady C W (Machine.returnPages j s) :=
  h.foldl (fun h => h.copySpan.updVi)

theorem Steady.evictJob (h : Steady C W s) :
    Steady C W (Machine.evictJob id' s) := by
  unfold Machine.evictJob
  split
  · exact h
  · refine ((h.nextFree.writeHost.foldl (fun h => ?_)).foldl (fun h => h.releaseHome)).updJob
    split
    · exact h
    · exact h.copySpan.updVi

theorem Steady.recallCtx (h : Steady C W s) :
    ∀ t ∈ Machine.recallCtx id' s, Steady C W t := by
  fun_cases Machine.recallCtx id' s
  · rintro _ ⟨⟩
    exact h
  · rintro _ ⟨⟩
    exact h
  · rintro _ ⟨⟩
  · rintro _ ⟨⟩
    refine (h.foldl (fun h => ?_)).updJob
    split
    · exact h
    · exact h.copySpan.updVi

theorem Steady.updFtu (h : Steady C W s) :
    Steady C W (s.updFtu f) := h.set rfl rfl

/-! ## Scheduled actions (R105 to R107) -/

theorem Steady.schedule (h : Steady C W s) :
    Steady C W (Machine.schedule k n cmd s) := h.set rfl rfl

theorem Steady.takeDue (h : Steady C W s) :
    ∀ t ∈ Machine.takeDue kind k s, Steady C W t := by
  fun_cases Machine.takeDue kind k s
  · rintro _ ⟨⟩
    exact h.unschedule
  · rintro _ ⟨⟩
  · rintro _ ⟨⟩

theorem Steady.cancelSched (h : Steady C W s) :
    Steady C W (Machine.cancelSched o s) := by
  fun_cases Machine.cancelSched o s
  · exact h
  · exact h.vwrite.updJob
  · exact h.dropCkpt
  · exact h.fab
  · exact h.updDie
  · exact h

/-! ## Times kept as counts -/

theorem Steady.jumpCount (h : Steady C W s) :
    Steady C W (Machine.jumpCount old new s) := h.set rfl rfl

theorem Steady.startEpoch (h : Steady C W s) :
    Steady C W (Machine.startEpoch s) := by
  fun_cases Machine.startEpoch s
  refine h.jumpCount.updFtu.foldl (fun h => ?_)
  split
  · exact h.cancelSched.postErr
  · exact h

/-! ## The boundary (R85, R92, R102) -/

theorem Steady.advance (h : Steady C W s) :
    Steady C W (Machine.advance s) :=
  Steady.ite h.startEpoch.updFtu (Steady.ite (Steady.ite h.startEpoch.updFtu (Steady.ite h.jumpCount.updFtu h.updFtu))
      h.updFtu)

theorem Steady.sendBeacons (h : Steady C W s) :
    Steady C W (Machine.sendBeacons mark s) :=
  Steady.ite h.fab h.fab

theorem Steady.ftuBoundary (h : Steady C W s) :
    Steady C W (Machine.ftuBoundary refPhase s) :=
  h.updFtu.advance.updFtu.sendBeacons

theorem Steady.countWindows (h : Steady C W s) :
    Steady C W (Machine.countWindows s) := h.set rfl rfl

theorem Steady.lockAcquired (h : Steady C W s) :
    Steady C W (Machine.lockAcquired s) :=
  Steady.ite h.updFtu h

theorem Steady.holdoverEntry (h : Steady C W s) :
    Steady C W (Machine.holdoverEntry s) :=
  Steady.ite h.updFtu.faultEvent1 h

theorem Steady.relay (h : Steady C W s) :
    Steady C W (Machine.relay b s) :=
  Steady.ite h h.fab

theorem Steady.beaconIn (h : Steady C W s) : Steady C W (Machine.beaconIn port b phase s) := by
  refine .ite (.ite h.updFtu h) ?_
  extract_lets unset s0 s1 s2 s3
  have h0 : Steady C W s0 := .ite h.jumpCount.updFtu h
  have h1 : Steady C W s1 := .ite h0.updFtu.faultEvent1 h0
  have h2 : Steady C W s2 := h1.updFtu
  have h3 : Steady C W s3 := .ite h2.updFtu h2
  exact h3.relay

/-! ## FRET_CONFIG (R110, R111, R773, R774) -/

theorem Steady.refuse (h : Steady C W s) :
    Steady C W (Machine.refuse p e' s) :=
  h.postFinal

theorem Steady.effSetRole (h : Steady C W s) :
    Steady C W (Machine.effSetRole p s) := by
  fun_cases Machine.effSetRole p s
  · exact h.refuse
  · exact (Steady.ite h.updFtu.journal h.updFtu).postDone

theorem Steady.effSetPeriod (h : Steady C W s) :
    Steady C W (Machine.effSetPeriod p s) := by
  fun_cases Machine.effSetPeriod p s
  · exact h.postErr
  · exact h.refuse
  · exact (Steady.ite h.updFtu.schedule.journal h.updFtu.schedule).postDone

theorem Steady.effArmEpoch (h : Steady C W s) :
    Steady C W (Machine.effArmEpoch p s) := by
  fun_cases Machine.effArmEpoch p s
  · exact h.refuse
  · exact h.updFtu.schedule.postDone
  · exact h.updFtu.postDone

theorem Steady.effSetBeaconPorts (h : Steady C W s) :
    Steady C W (Machine.effSetBeaconPorts p s) :=
  h.updFtu.postDone

/-! ## Places (R25, R479 to R481) -/

theorem Steady.mapPage (h : Steady C W s) :
    Steady C W (Machine.mapPage n job g h' s) := by
  fun_cases Machine.mapPage n job g h' s
  · exact h.updVi.zeroDev
  · exact h.updVi

theorem Steady.effPlaceMap (h : Steady C W s) :
    Steady C W (Machine.effPlaceMap p s) := by
  fun_cases Machine.effPlaceMap p s
  · exact h.postFree
  · exact h.refuse
  · exact h.postCap
  · refine (h.foldl (fun h => ?_)).postDone
    split
    · exact h.mapPage
    · exact h

theorem Steady.keepPage (h : Steady C W s) :
    Steady C W (Machine.keepPage n g s) :=
  h.foldl (fun h => Steady.ite (h.foldl (fun h => h.foldl (fun h => h.copyRegion))) h)

theorem Steady.unmapPage (h : Steady C W s) :
    Steady C W (Machine.unmapPage n g s) := by
  fun_cases Machine.unmapPage n g s
  · exact h
  · exact h.keepPage.updVi
  · exact h.keepPage.updVi.releaseHome

theorem Steady.effPlaceUnmap (h : Steady C W s) : Steady C W (Machine.effPlaceUnmap p s) :=
  .ite h.postFree (.ite h.postErr (.ite h.postErr
    (.ite (h.foldl fun h => h.unmapPage).postDone (h.foldl fun h => h.unmapPage).openCmd)))

theorem Steady.effPlaceQuery (h : Steady C W s) :
    Steady C W (Machine.effPlaceQuery p s) := by
  fun_cases Machine.effPlaceQuery p s
  · exact h.postErr
  · exact h.postErr
  · exact h.postDone
  · exact h.postDone

theorem Steady.effMigrate (h : Steady C W s) :
    Steady C W (Machine.effMigrate p s) := by
  fun_cases Machine.effMigrate p s
  · exact h.postFree
  · exact h.refuse
  · exact h.postCap
  · exact h.postDone
  · exact h.openCmd

/-! ## Pages in motion (R485 to R492) -/

theorem Steady.finishMigrate (h : Steady C W s) :
    Steady C W (Machine.finishMigrate k s) := by
  fun_cases Machine.finishMigrate k s
  · exact h.postFinal
  · exact h.postDone
  · exact h
  · exact h

theorem Steady.startMove (h : Steady C W s) :
    ∀ t ∈ Machine.startMove h' o s, Steady C W t := by
  fun_cases Machine.startMove h' o s
  · rintro _ ⟨⟩
  · rintro _ ⟨⟩
    exact h.setProg.finishMigrate
  · rintro _ ⟨⟩
    exact h.setProg.finishMigrate
  · rintro _ ⟨⟩
    exact h.setProg.updVi
  · rintro _ ⟨⟩

theorem Steady.pageMoveStart (h : Steady C W s) : Steady C W (Machine.pageMoveStart hub s) :=
  Steady.ite h (h.getD (Steady.findSome? fun _ => h.startMove))

theorem Steady.setMove (h : Steady C W s) :
    Steady C W (Machine.setMove n g f s) := h.set rfl rfl

theorem Steady.pageDrainEnd (h : Steady C W s) :
    Steady C W (Machine.pageDrainEnd n g s) :=
  Steady.ite h.setMove h

theorem Steady.pageCopyAheadDone (h : Steady C W s) :
    Steady C W (Machine.pageCopyAheadDone n g s) :=
  Steady.ite (((h.foldl (fun h => h.copyAhead)).updHub).setMove) h

theorem Steady.serveUnmaps (h : Steady C W s) :
    Steady C W (Machine.serveUnmaps n g s) := by
  fun_cases Machine.serveUnmaps n g s
  refine h.foldl (fun h => ?_)
  split
  · exact Steady.ite (Steady.ite h.unmapPage.postDone h.unmapPage.setProg) h
  · exact h

theorem Steady.pageCopyDone (h : Steady C W s) :
    Steady C W (Machine.pageCopyDone n g ns s) := by
  unfold Machine.pageCopyDone
  split
  · split
    · refine Steady.ite h (Steady.serveUnmaps ?_)
      split
      · split
        · exact ((((Steady.ite h.copySpan.updVi h.copySpan.updVi.releaseHome).updHub).ctr).setProg).finishMigrate
        · exact ((Steady.ite h.copySpan.updVi h.copySpan.updVi.releaseHome).updHub).ctr
      · exact ((Steady.ite h.copySpan.updVi h.copySpan.updVi.releaseHome).updHub).ctr
    · exact h
  · exact h

theorem Steady.frameZeroed (h : Steady C W s) :
    Steady C W (Machine.frameZeroed f s) := h.set rfl rfl

/-! ## MOVE, FILL, FENCE (R493 to R497) -/

theorem Steady.moveRows (h : Steady C W s) :
    Steady C W (Machine.moveRows p x x' s).1 := by
  fun_induction Machine.moveRows p x x' s
  · exact h
  · exact h
  · exact (Steady.ite h.putGens h).vstore
  next ih =>
    exact ih ((Steady.ite h.putGens h).vstore)

theorem Steady.finishMem {r : State × Option MemErr} (h : Steady C W r.1) :
    Steady C W (Machine.finishMem p r r0 r1) := by
  fun_cases Machine.finishMem p r r0 r1
  · exact h.memFail
  · exact h.postDone

theorem Steady.effMove (h : Steady C W s) :
    Steady C W (Machine.effMove p s) :=
  Steady.ite h.postFree h.markPhase.moveRows.finishMem

theorem Steady.effFill (h : Steady C W s) :
    Steady C W (Machine.effFill p s) :=
  Steady.ite h.postFree h.markPhase.vstore.finishMem

theorem Steady.effFence (h : Steady C W s) :
    Steady C W (Machine.effFence p s) :=
  Steady.ite h.postDone h.openCmd

/-! ## Stacks (R499 to R513, R694, R695) -/

theorem Steady.effCalibrate (h : Steady C W s) :
    Steady C W (Machine.effCalibrate p s) := by
  fun_cases Machine.effCalibrate p s
  · exact h.postErr
  · exact h.refuse
  · exact h.schedule.openCmd

theorem Steady.dueWindow (h : Steady C W s) : ∀ t ∈ Machine.dueWindow k s, Steady C W t.2 := by
  refine Steady.findSome? fun o => ?_
  split
  · split
    · rintro _ ⟨⟩
    · split
      · exact Steady.map h.takeDue
      · rintro _ ⟨⟩
        exact h
  · rintro _ ⟨⟩

theorem Steady.recalStart (h : Steady C W s) :
    Steady C W (Machine.recalStart k s) := by
  fun_cases Machine.recalStart k s
  · exact h
  next e _ =>
    exact (h.dueWindow _ e).updStk
  next e _ =>
    exact h.dueWindow _ e

theorem Steady.repairRows (h : Steady C W s) :
    Steady C W (Machine.repairRows k rows s) :=
  h.updStk.foldl (fun h => h.flash)

theorem Steady.closeWindowOf (h : Steady C W s) : Steady C W (Machine.closeWindowOf k repairs s) := by
  refine h.getD (Steady.findSome? (g := id) fun o => ?_)
  split
  · split
    · rintro _ ⟨⟩
      exact .ite h.postDone h.setProg
    · rintro _ ⟨⟩
  · rintro _ ⟨⟩

theorem Steady.recalEnd (h : Steady C W s) :
    Steady C W (Machine.recalEnd k rows s) :=
  Steady.ite h (Steady.ite h.repairRows.updStk h.repairRows.updStk.closeWindowOf)

theorem Steady.recalForced (h : Steady C W s) :
    Steady C W (Machine.recalForced k s) :=
  Steady.ite h.updStk h

theorem Steady.rowError (h : Steady C W s) :
    Steady C W (Machine.rowError k f s) := h.set rfl rfl

theorem Steady.scrubBurst (h : Steady C W s) :
    Steady C W (Machine.scrubBurst k f b result s) := by
  unfold Machine.scrubBurst
  refine Steady.ite h (Steady.updStk ?_)
  split
  · exact h.rowError.faultEvent1
  · exact h.updStk.faultEvent1
  · exact h

/-! ## Creating (R630 to R632) -/

theorem Steady.effJobCreate (h : Steady C W s) :
    Steady C W (Machine.effJobCreate p s) := by
  unfold Machine.effJobCreate
  refine Steady.ite h.postFree (Steady.ite h.postFinal (Steady.ite h.postCap (Steady.ite h.postCap (Steady.ite
      h.postCap ((Steady.jobs ?_).postDone)))))
  split
  · exact Steady.ite h.evictJob h
  · exact h

/-! ## The admission queue (R636 to R639) -/

theorem Steady.enqueue (h : Steady C W s) :
    Steady C W (Machine.enqueue id' atHead s) :=
  h.updJob.sched

theorem Steady.defer (h : Steady C W s) :
    Steady C W (Machine.defer id' s) := by
  fun_cases Machine.defer id' s
  · exact h.updJob.postInterim
  · exact h
  · exact h

theorem Steady.enqueueTail (h : Steady C W s) :
    Steady C W (Machine.enqueueTail id' s) :=
  Steady.ite h.enqueue.defer h.enqueue

theorem Steady.preempt (h : Steady C W s) :
    Steady C W (Machine.preempt id' cause by_ s) := by
  fun_cases Machine.preempt id' cause by_ s
  · exact h.updJob.requestCapo
  · exact h.updJob
  · exact h.updJob

theorem Steady.arriveOver (h : Steady C W s) :
    Steady C W (Machine.arriveOver id' h' s) :=
  Steady.ite (Steady.ite (h.enqueue.foldl (fun h => h.defer)) (Steady.ite h.enqueue.defer h.enqueue)) h.enqueue.preempt

theorem Steady.admitJob (h : Steady C W s) :
    Steady C W (Machine.admitJob id' s) := by
  fun_cases Machine.admitJob id' s
  · exact h.startSwitch
  · exact h.enqueueTail
  · exact h.arriveOver
  · exact h.enqueueTail

theorem Steady.firstStart (h : Steady C W s) :
    Steady C W (Machine.firstStart id' s) := by
  fun_cases Machine.firstStart id' s
  · exact h
  · exact h.updJob.openWindow
  · exact h

theorem Steady.effJobStart (h : Steady C W s) :
    Steady C W (Machine.effJobStart p s) := by
  fun_cases Machine.effJobStart p s
  · exact h.postErr
  · exact h.postErr
  · exact h.ctr.postFinal
  · exact h.ctr.postCap
  · exact h.firstStart.openCmd.updJob.updJob.sched.startSwitch
  · exact h.firstStart.openCmd.updJob.updJob.sched
  · exact h.firstStart.openCmd.updJob.admitJob

/-! ## Pre-emption and the switch (R638, R642, R643) -/

theorem Steady.closeStart (h : Steady C W s) :
    Steady C W (Machine.closeStart id' status reason r0 r1 s) := by
  fun_cases Machine.closeStart id' status reason r0 r1 s
  · exact h.updJob.postFinal
  · exact h

theorem Steady.jobCapo (h : Steady C W s) : Steady C W (Machine.jobCapo s) := by
  unfold Machine.jobCapo
  split
  · exact h
  · refine Steady.ite h ?_
    extract_lets c _ s0 nxt s1 s2 _ _ s3
    have h0 : Steady C W s0 := h.sched
    have h1 : Steady C W s1 := .ite h0.closeStart (.ite h0.closeStart h0.closeStart)
    have h2 : Steady C W s2 := h1.updJob
    have h3 : Steady C W s3 := h2.set rfl rfl
    clear_value nxt s3
    split
    · exact h3.startSwitch
    · exact h3

theorem Steady.finishPreempts (h : Steady C W s) :
    Steady C W (Machine.finishPreempts id' us s) := by
  fun_cases Machine.finishPreempts id' us s
  refine h.foldl (fun h => ?_)
  split
  · refine Steady.ite h ?_
    split
    · exact Steady.ite h h.postDone
    · exact h
  · exact h

theorem Steady.switchOut (h : Steady C W s) :
    Steady C W (Machine.switchOut us s) := by
  fun_cases Machine.switchOut us s
  · exact h
  · exact h.savePages.updJob.clearStreams.sched.finishPreempts
  · exact h

theorem Steady.placeStreams (h : Steady C W s) :
    Steady C W (Machine.placeStreams id' loads s) :=
  h.foldl (fun h => h.foldl (fun h => h.updCore))

theorem Steady.switchIn (h : Steady C W s) : ∀ t ∈ Machine.switchIn job us s, Steady C W t := by
  fun_cases Machine.switchIn job us s
  · rintro _ ⟨⟩
    exact h
  · rintro _ ⟨⟩
  next j _ s0 s1 e s2 s3 s4 s5 =>
    have h0 : Steady C W s0 := by
      unfold s0
      split
      · split
        · exact h.evictJob
        · exact h
      · exact h
    have h3 : Steady C W s3 := (h0.recallCtx _ e).returnPages.updJob
    have h4 : Steady C W s4 := h3.clearCapo.set rfl rfl
    rintro _ ⟨⟩
    exact .ite h4.placeStreams.requestCapo h4.placeStreams

theorem Steady.runHeld {run : Packet → State → State} (h : Steady C W s)
    (hrun : ∀ {x0 u}, Steady C W u → Steady C W (run x0 u)) :
    Steady C W (Machine.runHeld run id' x s) := by
  fun_induction Machine.runHeld run id' x s
  · exact h
  · exact h
  · exact h
  next ih =>
    exact ih (hrun h.updJob)
  · exact h

theorem Steady.switchEnd {run : Packet → State → State} (h : Steady C W s)
    (hrun : ∀ {x0 u}, Steady C W u → Steady C W (run x0 u)) :
    Steady C W (Machine.switchEnd run us s) := by
  fun_cases Machine.switchEnd run us s
  · exact h
  · exact h.switchOut.clearCapo.sched.startNext
  · exact h.switchOut
  next e =>
    exact ((h.switchOut.switchIn _ e).runHeld hrun).fetchAll

theorem Steady.preemptIdle (h : Steady C W s) :
    Steady C W (Machine.preemptIdle p j s) :=
  Steady.ite ((Steady.ite h.unqueue.closeStart.updJob h).openCmd) ((Steady.ite h.unqueue.closeStart.updJob h).postDone)

theorem Steady.effJobPreempt (h : Steady C W s) :
    Steady C W (Machine.effJobPreempt p s) := by
  fun_cases Machine.effJobPreempt p s
  · exact h.postErr
  · exact h.postFree
  · exact (Steady.ite h.preempt h).openCmd
  · exact h.openCmd
  · exact h.preemptIdle

theorem Steady.evictionEnd (h : Steady C W s) :
    Steady C W (Machine.evictionEnd id' s) := by
  fun_cases Machine.evictionEnd id' s
  · exact h.evictJob.foldl (fun h => h.postDone)
  · exact h
  · exact h

/-! ## STEP mode (R646 to R648) -/

theorem Steady.toJobMode (h : Steady C W s) : Steady C W (Machine.toJobMode s) := by
  fun_cases Machine.toJobMode s
  · exact h.sched
  next s1 _ s2 s3 s4 _ =>
    have h2 : Steady C W s2 := Steady.foldl h.sched fun h => h.closeStart.ctr.updJob
    have h3 : Steady C W s3 := h2.foldl fun h => .ite h.sched.updJob h.sched
    exact h3.foldl fun h => .ite h.defer h
  next s1 _ s2 s3 s4 _ =>
    have h2 : Steady C W s2 := Steady.foldl h.sched fun h => h.closeStart.ctr.updJob
    have h3 : Steady C W s3 := h2.foldl fun h => .ite h.sched.updJob h.sched
    exact (h3.foldl fun h => .ite h.defer h).startSwitch

/-! ## The plan of a pass (R266, R366 to R384) -/

theorem Steady.passTurn (h : Steady C W s) :
    Steady C W (Machine.passTurn s) := by
  unfold Machine.passTurn
  refine Steady.ite h.sched.toJobMode ?_
  split
  · exact h.sched
  · refine Steady.ite h.sched (Steady.startSwitch ?_)
    split
    · exact h.sched.updJob
    · exact h.sched

theorem Steady.stepTurn (h : Steady C W s) :
    Steady C W (Machine.stepTurn s) :=
  Steady.ite h (Steady.ite h.sched.requestCapo h.passTurn)

theorem Steady.turnCapo (h : Steady C W s) :
    Steady C W (Machine.turnCapo s) :=
  Steady.ite h.sched.passTurn h.sched.passTurn.clearCapo

theorem Steady.effAdmissionSetVi (h : Steady C W s) :
    Steady C W (Machine.effAdmissionSetVi p s) := by
  fun_cases Machine.effAdmissionSetVi p s
  · exact h.postFree
  · exact h.refuse
  · exact (Steady.ite h.quotas.journal h.quotas).postDone

theorem Steady.setMode (h : Steady C W s) :
    Steady C W (Machine.setMode step' s) :=
  Steady.ite (Steady.ite h.sched h.sched) (Steady.ite h (Steady.ite h.toJobMode h.sched))

theorem Steady.effAdmissionSetMode (h : Steady C W s) :
    Steady C W (Machine.effAdmissionSetMode p s) := by
  fun_cases Machine.effAdmissionSetMode p s
  · exact h.refuse
  · exact (Steady.ite h.setMode.journal h.setMode).postDone

theorem Steady.effAdmissionQuery (h : Steady C W s) :
    Steady C W (Machine.effAdmissionQuery p s) :=
  Steady.ite h.postFree h.postDone

theorem Steady.effJobEnd (h : Steady C W s) :
    Steady C W (Machine.effJobEnd p s) :=
  Steady.ite h.endJob (Steady.ite h.endJob h.openCmd)

end Sys2Proof.Machine
end

section
/-! PROOFS. What every function of the model keeps: the commands that wait, and the form of the memories.
Works and tiles. -/

namespace Sys2Proof.Machine

open Sys2Proof

variable {C : List Instr} {W : Prop} {s t : State}

theorem Steady.vput (h : Steady C W s) :
    Steady C W (Machine.vput n va bs s).1 :=
  h.vwrite

theorem Steady.storeRun (h : Steady C W s) :
    Steady C W (Machine.storeRun n e' word row i weights vs s).1 := by
  fun_cases Machine.storeRun n e' word row i weights vs s
  · exact h.vput
  · exact h.vput.vput

theorem Steady.andThen {r : State × Option MemErr} {f : State → State × Option MemErr} (h : Steady C W r.1)
    (hf : ∀ {u}, Steady C W u → Steady C W (f u).1) :
    Steady C W (Machine.andThen r f).1 := by
  fun_cases Machine.andThen r f
  · exact h
  · exact hf h

theorem Steady.store (h : Steady C W s) :
    Steady C W (Machine.Opnd.store o word problem row i weights vs s).1 :=
  Steady.ite_fst (h.foldl_fst (fun h => h.andThen (fun h => h.storeRun))) h.storeRun

theorem Steady.keep (h : Steady C W s) :
    Steady C W (Machine.keep l s) := h.set rfl rfl

theorem Steady.unkeep (h : Steady C W s) :
    Steady C W (Machine.unkeep f s) := h.set rfl rfl

theorem Steady.keepRow (h : Steady C W s) :
    Steady C W (Machine.keepRow t' r' mark vs s) := h.set rfl rfl

theorem Steady.putRow (h : Steady C W s) :
    Steady C W (Machine.putRow w t' r' vs s).1 :=
  Steady.ite_fst h.keepRow h.store

theorem Steady.putRows {r : State × Option MemErr} (h : Steady C W r.1) :
    Steady C W (Machine.putRows w t' x r).1 := by
  fun_induction Machine.putRows w t' x r
  · exact h
  next ih =>
    exact ih (h.andThen (fun h => h.putRow))

theorem Steady.endProduct (h : Steady C W s) :
    Steady C W (Machine.endProduct w t' id' s).1 :=
  Steady.ite_fst (h.foldl (fun h => h.keepRow)) h.putGens.putRows

theorem Steady.endSumming (h : Steady C W s) :
    Steady C W (Machine.endSumming w t' id' s).1 :=
  h.unkeep.putGens.putRows

theorem Steady.keepCarry (h : Steady C W s) :
    Steady C W (Machine.keepCarry k wi row t' s) :=
  h.unkeep.keep

theorem Steady.keepOut (h : Steady C W s) :
    Steady C W (Machine.keepOut out o ix v bits s) := h.set rfl rfl

theorem Steady.storeRowOut {r : State × Option MemErr} (h : Steady C W r.1) :
    Steady C W (Machine.storeRowOut x out row l r).1 :=
  h.foldl_fst (fun h => h.andThen (fun h => Steady.ite_fst h.keepOut h.store))

theorem Steady.storeElems {r : State × Option MemErr} (h : Steady C W r.1) :
    Steady C W (Machine.storeElems x out row i0 vals results r).1 :=
  h.foldl_fst (fun h => Steady.ite_fst h (h.andThen (fun h => h.store)))

theorem Steady.runRowsR (h : Steady C W s) : Steady C W (Machine.runRowsR x out ins rows part s).1.1 := by
  unfold Machine.runRowsR
  extract_lets chunks first second start a1 a2
  have h2 : Steady C W a2.1.1 := by
    refine List.foldlRecOn (motive := fun a : (State × Option MemErr) × Gens × List
        (Nat × Tbl Word) => Steady C W a.1.1)
      _ _ h fun a ha e _ => ?_
    dsimp only
    split
    · split
      · exact ha.storeElems.storeRowOut.keepCarry
      · exact ha.storeElems.storeRowOut
    · exact ha.keepCarry
  exact h2.putGens

theorem Steady.runRows (h : Steady C W s) :
    Steady C W (Machine.runRows x out ins rows part s).1 :=
  h.runRowsR

theorem Steady.putScalars (h : Steady C W s) :
    Steady C W (Machine.putScalars k chain vs s) :=
  h.unkeep.keep

theorem Steady.keepRed (h : Steady C W s) :
    Steady C W (Machine.keepRed t' w l s) := h.set rfl rfl

theorem Steady.endRun (h : Steady C W s) :
    Steady C W (Machine.endRun w t' id' s).1 :=
  Steady.ite_fst h.runRowsR h.runRowsR.keepRed

theorem Steady.endEpilogue (h : Steady C W s) :
    Steady C W (Machine.endEpilogue w t' id' s).1 :=
  Steady.ite h.runRows.unkeep h.runRows

theorem Steady.endScalars (h : Steady C W s) :
    Steady C W (Machine.endScalars k wi w s) :=
  Steady.ite h h.putScalars.unkeep

theorem Steady.endScalarOp (h : Steady C W s) :
    Steady C W (Machine.endScalarOp w t' id' s) :=
  h.putGens.putScalars

theorem Steady.flushOut (h : Steady C W s) :
    Steady C W (Machine.flushOut k wi w s).1 :=
  h.unkeep.foldl_fst (fun h => Steady.ite_fst h (h.andThen (fun h => h.store)))

theorem Steady.endTranspose (h : Steady C W s) :
    Steady C W (Machine.endTranspose w t' id' s).1 :=
  h.putGens.foldl_fst (fun h => h.andThen (fun h => h.store))

theorem Steady.endRoute (h : Steady C W s) :
    Steady C W (Machine.endRoute w t' s).1 :=
  h.foldl_fst (fun h => h.andThen (fun h => h.vput))

theorem Steady.endExperts (h : Steady C W s) :
    Steady C W (Machine.endExperts w t' id' s).1 :=
  h.putGens.putRows

theorem Steady.putWords (h : Steady C W s) :
    Steady C W (Machine.putWords t' mark v vs s) :=
  h.unkeep.keep

theorem Steady.keepVisible (h : Steady C W s) :
    Steady C W (Machine.keepVisible a t' mark f s) := h.set rfl rfl

theorem Steady.endScores (h : Steady C W s) :
    Steady C W (Machine.endScores a fdo t' s) :=
  h.foldl (fun h => h.keepVisible)

theorem Steady.softmaxRow (h : Steady C W s) :
    Steady C W (Machine.softmaxRow a t' v s) :=
  Steady.ite h h.putWords.putWords.putWords.keep

theorem Steady.endSoftmax (h : Steady C W s) :
    Steady C W (Machine.endSoftmax a t' s) :=
  (h.foldl (fun h => h.softmaxRow)).unkeep

theorem Steady.endValues (h : Steady C W s) :
    Steady C W (Machine.endValues a t' s) := by
  fun_cases Machine.endValues a t' s
  · exact (h.foldl (fun h => Steady.ite h h.putWords)).unkeep
  · exact h

theorem Steady.drawHead (h : Steady C W s) :
    Steady C W (Machine.drawHead a t' word rows id' s).2 :=
  h.putGens

theorem Steady.putHead (h : Steady C W s) :
    Steady C W (Machine.putHead a t' v bits s).1 :=
  h.store.andThen (fun h => Steady.ite_fst h.vput h)

theorem Steady.endRescale (h : Steady C W s) : Steady C W (Machine.endRescale a t' id' s).1 := by
  unfold Machine.endRescale
  extract_lets s1 d w
  have h1 : Steady C W s1 := h.foldl fun h => .ite h h.putWords
  have hw : Steady C W w.1 := h1.drawHead.foldl_fst fun h => h.andThen fun h => h.putHead
  exact .ite_fst h1 hw.unkeep

theorem Steady.endGrads (h : Steady C W s) :
    Steady C W (Machine.endGrads a fdo fo t' s) :=
  (h.foldl (fun h => h.keep)).unkeep

theorem Steady.addTo (h : Steady C W s) :
    Steady C W (Machine.addTo t' mark problem row dim c xs s) := h.set rfl rfl

theorem Steady.endSums (h : Steady C W s) :
    Steady C W (Machine.endSums a fdo t' s) :=
  (h.foldl (fun h => h.foldl (fun h => h.addTo.addTo.addTo))).unkeep

theorem Steady.putGrad {r : State × Option MemErr} (h : Steady C W r.1) :
    Steady C W (Machine.putGrad a t' o word mark problem key row head bits r).1 :=
  h.andThen (fun h => h.store)

theorem Steady.endNarrow (h : Steady C W s) :
    Steady C W (Machine.endNarrow a t' id' s).1 :=
  Steady.ite_fst (h.drawHead.foldl_fst (fun h => h.putGrad)) (h.drawHead.foldl_fst (fun h => h.putGrad.putGrad))

theorem Steady.endAttn (h : Steady C W s) :
    Steady C W (Machine.endAttn a t' id' s).1 := by
  fun_cases Machine.endAttn a t' id' s
  · exact h.endScores
  · exact h.endScores
  · exact h.endSoftmax
  · exact h.endValues
  · exact h.endRescale
  · exact h.endGrads
  · exact h.endSums
  · exact h.endNarrow

theorem Steady.launchProduct (h : Steady C W s) :
    Steady C W (Machine.launchProduct p tables prog s) :=
  h.nextFree.openCmd.tiles

theorem Steady.startProduct (h : Steady C W s) :
    Steady C W (Machine.startProduct p s) := by
  fun_cases Machine.startProduct p s
  · exact h.memFail
  · exact h.launchProduct
  · exact h.postErr
  · exact h.postFree
  · exact h.memFail
  · exact h.launchProduct

theorem Steady.effMatmul (h : Steady C W s) :
    Steady C W (Machine.effMatmul p s) :=
  Steady.ite h.postFree (Steady.ite h.openCmd h.startProduct)

theorem Steady.startRun (h : Steady C W s) :
    Steady C W (Machine.startRun p s) := by
  fun_cases Machine.startRun p s
  · exact h.postErr
  · exact h.memFail
  · exact h.openCmd.tiles

theorem Steady.effBraidRun (h : Steady C W s) :
    Steady C W (Machine.effBraidRun p s) :=
  Steady.ite h.postFree (Steady.ite h.openCmd h.startRun)

theorem Steady.setTagAt (h : Steady C W s) :
    Steady C W (Machine.setTagAt n id' base version s) :=
  Steady.ite h (h.foldl (fun h => h.foldl (fun h => Steady.ite h.vwrite h)))

theorem Steady.tagLayer (h : Steady C W s) :
    Steady C W (Machine.tagLayer p l s) :=
  Steady.ite h.setTagAt h.setTagAt.setTagAt

theorem Steady.endLayer (h : Steady C W s) :
    Steady C W (Machine.endLayer p i s).1 := by
  fun_cases Machine.endLayer p i s
  · exact h
  · exact h
  · exact Steady.ite h.tagLayer h

theorem Steady.noteStep (h : Steady C W s) :
    Steady C W (Machine.noteStep id' step' mb version s) := h.set rfl rfl

theorem Steady.doneUpdate (h : Steady C W s) :
    Steady C W (Machine.doneUpdate p layers start s) := by
  fun_cases Machine.doneUpdate p layers start s
  · exact h.nextFree.ctr.memFail
  · exact h.nextFree.ctr.postDone

theorem Steady.scrambleLayers (h : Steady C W s) :
    Steady C W (Machine.scrambleLayers p done s) := by
  fun_cases Machine.scrambleLayers p done s
  refine h.foldl (fun h => ?_)
  split
  · exact h
  · exact h.foldl (fun h => h.nextFree.vwrite)

theorem Steady.bumpCounter (h : Steady C W s) :
    Steady C W (Machine.bumpCounter n a v s) := by
  fun_cases Machine.bumpCounter n a v s
  · exact h
  · exact h.vwrite
  · exact h

theorem Steady.donePass (h : Steady C W s) :
    Steady C W (Machine.donePass p since waited total s) :=
  h.updJob.nextFree.ctr.postDone

theorem Steady.endPassRun (h : Steady C W s) :
    Steady C W (Machine.endPassRun p since waited total block out s) :=
  Steady.ite h.setProg.dropTiles.setProg ((Steady.ite h.setProg.dropTiles.bumpCounter h.setProg.dropTiles).donePass)

theorem Steady.finishLoad (h : Steady C W s) :
    Steady C W (Machine.finishLoad p s) := by
  fun_cases Machine.finishLoad p s
  · exact h.memFail
  · exact h.postFree
  · exact h.updJob.postDone
  · exact h.memFail
  · exact h.postFree
  · exact h.updJob.postDone
  · exact h.memFail
  · exact h.updJob.postDone

theorem Steady.serveSlots (h : Steady C W s) :
    Steady C W (Machine.serveSlots x s) := by
  fun_induction Machine.serveSlots x s
  · exact h
  · exact h
  next ih =>
    refine ih ?_
    split
    · exact h.finishLoad
    · exact Steady.ite h.closeCmd.startRun h.closeCmd.startProduct

theorem Steady.settleSlots (h : Steady C W s) :
    Steady C W (Machine.settleSlots s) :=
  h.serveSlots

theorem Steady.effSlotLoad (h : Steady C W s) :
    Steady C W (Machine.effSlotLoad p s) :=
  Steady.ite h.postFree (Steady.ite h.openCmd h.finishLoad)

theorem Steady.askCapo (h : Steady C W s) :
    Steady C W (Machine.askCapo l s) :=
  h.foldl (fun h => h.updCore)

theorem Steady.effSeedLoad (h : Steady C W s) :
    Steady C W (Machine.effSeedLoad p s) :=
  Steady.ite h.postFree h.openCmd.askCapo

theorem Steady.finishSeed (h : Steady C W s) :
    Steady C W (Machine.finishSeed p s) :=
  h.updJob.placeStreams.postDone

theorem Steady.serveSeeds (h : Steady C W s) :
    Steady C W (Machine.serveSeeds d c s) := by
  fun_cases Machine.serveSeeds d c s
  refine h.foldl (fun h => ?_)
  split
  · exact Steady.ite h (Steady.ite h.finishSeed h.setProg)
  · exact h

theorem Steady.tileEffect (h : Steady C W s) :
    Steady C W (Machine.tileEffect w t' id' s).1 := by
  fun_cases Machine.tileEffect w t' id' s
  · exact h.endProduct
  · exact h.endProduct
  · exact h.endSumming
  · exact h.endEpilogue
  · exact h.endRun
  · exact h.endScalarOp
  · exact h.endTranspose
  · exact h.endRoute
  · exact h.endExperts
  · exact h.endAttn

theorem Steady.busyUnit (h : Steady C W s) :
    Steady C W (Machine.busyUnit t' turn s) := h.set rfl rfl

theorem Steady.stallTile (h : Steady C W s) :
    Steady C W (Machine.stallTile t' s) :=
  Steady.ite h (h.set rfl rfl)

theorem Steady.countIssue (h : Steady C W s) :
    Steady C W (Machine.countIssue t' s) := h.set rfl rfl

theorem Steady.tileIssue (h : Steady C W s) :
    Steady C W (Machine.tileIssue d c u s) := by
  fun_cases Machine.tileIssue d c u s
  case case6 =>
    exact h.stallTile
  case case7 =>
    exact h.dropTiles.memFail.settleSlots
  case case8 =>
    exact h.tiles.countIssue.busyUnit.markWork
  all_goals exact h

theorem Steady.tickUnits (h : Steady C W s) :
    Steady C W (Machine.tickUnits s) :=
  h.foldl (fun h => h.updCore)

theorem Steady.countArrays (h : Steady C W s) :
    Steady C W (Machine.countArrays t' l passes cycles s) := h.set rfl rfl

theorem Steady.countTile (h : Steady C W s) :
    Steady C W (Machine.countTile w t' ns s) := by
  fun_cases Machine.countTile w t' ns s
  · exact (((Steady.ite h.nextFree h).updDie).countArrays).updCore
  · exact ((Steady.ite h.nextFree h).updDie).updCore
  · exact ((Steady.ite h.nextFree h).updDie).updCore

theorem Steady.loadSets (h : Steady C W s) :
    Steady C W (Machine.loadSets t' l s) := h.set rfl rfl

theorem Steady.scramble (h : Steady C W s) :
    Steady C W (Machine.scramble l s) :=
  h.foldl (fun h => h.nextFree.vwrite)

theorem Steady.scrambleOut (h : Steady C W s) :
    Steady C W (Machine.scrambleOut o s) := by
  fun_cases Machine.scrambleOut o s
  · exact h.scramble
  · exact h.scramble
  · exact h.scrambleLayers
  · exact h

theorem Steady.finishAbort (h : Steady C W s) :
    Steady C W (Machine.finishAbort p count s) :=
  Steady.ite (Steady.ite h.postFinal h.postDone) h.postDone

theorem Steady.noteAbort (h : Steady C W s) :
    Steady C W (Machine.noteAbort target aborted s) := by
  fun_cases Machine.noteAbort target aborted s
  refine h.foldl (fun h => ?_)
  split
  · exact Steady.ite (Steady.ite h.finishAbort h.setProg) h
  · exact h

theorem Steady.tileAborted (h : Steady C W s) :
    Steady C W (Machine.tileAborted o s) :=
  Steady.ite h h.scrambleOut.dropTiles.postFinal.noteAbort.settleSlots

theorem Steady.workEnd (h : Steady C W s) :
    Steady C W (Machine.workEnd k wi w s).1 :=
  h.flushOut.endScalars.foldl_fst (fun h => h.andThen (fun h => h.vput))

theorem Steady.layerDone (h : Steady C W s) :
    Steady C W (Machine.layerDone o done start ws i s) := by
  fun_cases Machine.layerDone o done start ws i s
  · exact h.endLayer.dropTiles.memFail.settleSlots
  · exact h.endLayer.dropTiles.doneUpdate.settleSlots
  · exact h.endLayer.setProg

theorem Steady.tileDone (h : Steady C W s) :
    Steady C W (Machine.tileDone o w t' s) := by
  fun_cases Machine.tileDone o w t' s
  case case1 =>
    exact h
  case case2 =>
    exact h.workEnd.dropTiles.memFail.settleSlots
  case case3 =>
    exact h.workEnd.dropTiles.postDone.settleSlots
  case case5 =>
    exact h.workEnd.endPassRun.settleSlots
  case case8 =>
    exact h.workEnd.layerDone
  all_goals exact h.workEnd

theorem Steady.endEffect (h : Steady C W s) :
    Steady C W (Machine.endEffect w t' id' ns s).1 :=
  h.countTile.loadSets.tileEffect

theorem Steady.tileEnd (h : Steady C W s) :
    Steady C W (Machine.tileEnd d c u ns s) := by
  fun_cases Machine.tileEnd d c u ns s
  · exact h
  · exact h.tiles.idleUnit
  · exact h.tiles.idleUnit.markWork.endEffect.dropTiles.memFail.settleSlots
  · exact h.tiles.idleUnit.markWork.endEffect.tileAborted
  · exact h.tiles.idleUnit.markWork.endEffect.tileDone

theorem Steady.haltUnit (h : Steady C W s) :
    Steady C W (Machine.haltUnit t' s) :=
  h.idleUnit.updCore

theorem Steady.haltTile (h : Steady C W s) :
    Steady C W (Machine.haltTile o w t' scrambles status reason r0 r1 ns s) := by
  have hs := h.updDie (d := t'.die) (f := fun x => { x with tilLong := satMax x.tilLong ns })
  exact .ite hs.haltUnit.tiles.tileAborted (.ite hs.haltUnit.tiles
    ((Steady.ite hs.scrambleOut hs).idleUnit.dropTiles.postFinal.settleSlots))

theorem Steady.haltDraws (h : Steady C W s) :
    Steady C W (Machine.haltDraws w t' id' n s) :=
  Steady.ite h.putGens h

theorem Steady.updArr (h : Steady C W s) :
    Steady C W (Machine.updArr d c x f s) := h.set rfl rfl

theorem Steady.haltPasses (h : Steady C W s) :
    Steady C W (Machine.haltPasses w t' pass' vector s) := h.set rfl rfl

theorem Steady.recordFail (h : Steady C W s) :
    Steady C W (Machine.recordFail d c vector f s) :=
  h.updArr.faultEvent1

theorem Steady.arrayCheckFail (h : Steady C W s) :
    Steady C W (Machine.arrayCheckFail d c pass' vector sums ns s) := by
  fun_cases Machine.arrayCheckFail d c pass' vector sums ns s
  case case6 =>
    exact (h.haltDraws.haltPasses.foldl (fun h => h.recordFail)).haltTile
  all_goals exact h

theorem Steady.endUpdateParity (h : Steady C W s) :
    Steady C W (Machine.endUpdateParity o t' done s) :=
  h.scrambleLayers.idleUnit.dropTiles.postFinal.settleSlots

theorem Steady.parityHalt (h : Steady C W s) :
    Steady C W (Machine.parityHalt o w t' reason r0 r1 ns s) := by
  fun_cases Machine.parityHalt o w t' reason r0 r1 ns s
  · exact h.updDie.endUpdateParity
  · exact h.haltTile

theorem Steady.arrayParityHalt (h : Steady C W s) :
    Steady C W (Machine.arrayParityHalt d c inA inB pass' drawn ns s) := by
  fun_cases Machine.arrayParityHalt d c inA inB pass' drawn ns s
  · exact h
  · exact h
  · exact (((Steady.ite h.haltDraws h).haltPasses).foldl (fun h => h.faultEvent1)).parityHalt
  · exact h

theorem Steady.braidParityHalt (h : Steady C W s) :
    Steady C W (Machine.braidParityHalt d c cell row ns s) := by
  fun_cases Machine.braidParityHalt d c cell row ns s
  · exact h
  · exact h
  · exact h.updCore.faultEvent1.parityHalt

theorem Steady.handOver (h : Steady C W s) :
    Steady C W (Machine.handOver d c s) :=
  h.updDie.tiles

theorem Steady.switchCapo (h : Steady C W s) :
    Steady C W (Machine.switchCapo s) := by
  fun_cases Machine.switchCapo s
  · exact h.sched.jobCapo
  · exact h.turnCapo
  · exact h

theorem Steady.capoPoint (h : Steady C W s) : Steady C W (Machine.capoPoint d c ns s) := by
  refine .ite h ?_
  extract_lets s1 s2 hand s3 s4 back e s5 due s6 s7
  have h2 : Steady C W s2 := h.updDie.serveSeeds
  have h3 : Steady C W s3 := .ite h2.handOver h2
  have h4 : Steady C W s4 := .ite h3.updCore h3
  have h5 : Steady C W s5 := .ite h4.handBack h4
  have h7 : Steady C W s7 := h5.updCore.updCore
  exact .ite h7.switchCapo h7

end Sys2Proof.Machine
end

section
/-! PROOFS. What every function of the model keeps: the commands that wait, and the form of the memories.
Ports, remote operations at their destination, models and pools. -/

namespace Sys2Proof.Machine

open Sys2Proof

variable {C : List Instr} {W : Prop} {s t : State}

theorem Steady.countTx (h : Steady C W s) :
    Steady C W (Machine.countTx q n s) := h.set rfl rfl

theorem Steady.putLine (h : Steady C W s) :
    Steady C W (Machine.putLine q f s) :=
  h.fab.countTx

theorem Steady.drainPort (h : Steady C W s) :
    Steady C W (Machine.drainPort q x s) := by
  fun_induction Machine.drainPort q x s
  · exact h
  · exact h
  next ih =>
    exact ih h.updPort.putLine
  · exact h
  next ih =>
    exact ih h.updPort

theorem Steady.drain (h : Steady C W s) :
    Steady C W (Machine.drain q s) :=
  h.drainPort

theorem Steady.putPort (h : Steady C W s) :
    Steady C W (Machine.putPort q p s) :=
  Steady.ite h.fab.countTx h.updPort.drain

theorem Steady.sendPkt (h : Steady C W s) :
    Steady C W (Machine.sendPkt p s) := by
  fun_cases Machine.sendPkt p s
  · exact h.fab
  · exact h
  · exact h.fab.putPort

theorem Steady.sendPkts (h : Steady C W s) :
    Steady C W (Machine.sendPkts ps s) :=
  h.foldl (fun h => h.sendPkt)

theorem Steady.setSeq (h : Steady C W s) :
    Steady C W (Machine.setSeq dst code n s) := h.set rfl rfl

theorem Steady.sendChunk (h : Steady C W s) :
    Steady C W (Machine.sendChunk cmd code h' data s) :=
  h.fab.sendPkts

theorem Steady.dropChunk (h : Steady C W s) :
    Steady C W (Machine.dropChunk c s) := h.set rfl rfl

theorem Steady.resend (h : Steady C W s) :
    Steady C W (Machine.resend c s) :=
  h.fab.sendPkts

theorem Steady.setRx (h : Steady C W s) :
    Steady C W (Machine.setRx c s) := h.set rfl rfl

theorem Steady.takeChunk (h : Steady C W s) :
    Steady C W (Machine.takeChunk p code s).1 :=
  Steady.ite_fst (Steady.ite_fst h.setRx (Steady.ite_fst h.setRx h.setRx)) (Steady.ite_fst h (Steady.ite_fst h h))

theorem Steady.sendAck (h : Steady C W s) :
    Steady C W (Machine.sendAck p s) :=
  h.sendPkt

theorem Steady.sendNak (h : Steady C W s) :
    Steady C W (Machine.sendNak p cause s) :=
  (Steady.ite h.fab h).sendPkt

theorem Steady.sendDeny (h : Steady C W s) :
    Steady C W (Machine.sendDeny p status reason r0 s) :=
  h.fab.sendPkt

theorem Steady.doReq (h : Steady C W s) :
    Steady C W (Machine.doReq job domain r' s).1 := by
  fun_cases Machine.doReq job domain r' s
  case case2 =>
    exact h.vwrite
  case case5 =>
    exact h.vwrite
  case case7 =>
    exact h.vwrite
  all_goals exact h

theorem Steady.sendReq (h : Steady C W s) :
    Steady C W (Machine.sendReq cmd dst dstJob chan from_ r' s) :=
  h.setSeq.sendChunk

theorem Steady.setSs (h : Steady C W s) :
    Steady C W (Machine.setSs n m i st s) :=
  h.wr

theorem Steady.updModel (h : Steady C W s) :
    Steady C W (s.updModel id' h' f) := h.set rfl rfl

theorem Steady.mapArea (h : Steady C W s) :
    Steady C W (Machine.mapArea n job l s) :=
  h.nextFree.foldl (fun h => h.mapPage)

theorem Steady.unmapArea (h : Steady C W s) :
    Steady C W (Machine.unmapArea n base units s) :=
  h.foldl (fun h => h.unmapPage)

theorem Steady.putRegion (h : Steady C W s) :
    Steady C W (Machine.putRegion n wbase i shadow buf checks version r' data s) :=
  h.vwrite.vwrite

theorem Steady.putRegions (h : Steady C W s) :
    Steady C W (Machine.putRegions n wbase version shadow img x x' x'' x''' x'''' s) := by
  fun_induction Machine.putRegions n wbase version shadow img x x' x'' x''' x'''' s
  · exact h
  next ih =>
    exact ih h.putRegion

theorem Steady.loadModel (h : Steady C W s) :
    Steady C W (Machine.loadModel p b j s) := by
  fun_cases Machine.loadModel p b j s
  · exact h.postCap
  · exact h.postFree
  · exact h.postCap
  · exact h.postCap
  · exact h.mapArea.vwrite.putRegions.updJob.postDone

theorem Steady.effStowLoad (h : Steady C W s) :
    Steady C W (Machine.effStowLoad p s) := by
  fun_cases Machine.effStowLoad p s
  · exact h.postFree
  · exact h.memFail
  · exact h.refuse
  · exact h.loadModel

theorem Steady.tallyEntries (h : Steady C W s) :
    Steady C W (Machine.tallyEntries n m used free s) :=
  h.wr.wr

theorem Steady.dropVariant (h : Steady C W s) :
    Steady C W (Machine.dropVariant n id' m v s) :=
  h.unmapArea.tallyEntries.updModel

theorem Steady.loadVariant (h : Steady C W s) :
    Steady C W (Machine.loadVariant p b rs m x s) :=
  h.mapArea.putRegions.tallyEntries.updModel.postDone

theorem Steady.variantPlace (h : Steady C W s) (e : Machine.variantPlace p rs m u = .error f) : Steady C W (f s) := by
  revert e
  fun_cases Machine.variantPlace p rs m u
  · rintro ⟨⟩
    exact h.postErr
  · rintro ⟨⟩
    exact h.postFree
  · rintro ⟨⟩
    exact h.postCap
  · rintro ⟨⟩
    exact h.postCap
  · rintro ⟨⟩

theorem Steady.effAdapterLoad (h : Steady C W s) : Steady C W (Machine.effAdapterLoad p s) := by
  have hold : ∀ n job m, ∀ o : Option Variant,
      Steady C W (match o with | some v => Machine.dropVariant n job m v s | none => s) := fun _ _ _ o => by
    cases o with
    | none => exact h
    | some v => exact h.dropVariant
  fun_cases Machine.effAdapterLoad p s
  · exact h.refuse
  · exact h.memFail
  · exact h.refuse
  · exact h.postErr
  · exact h.postErr
  · exact h.postErr
  next e => exact h.variantPlace e
  · exact (hold ..).loadVariant

theorem Steady.effAdapterUnload (h : Steady C W s) :
    Steady C W (Machine.effAdapterUnload p s) := by
  fun_cases Machine.effAdapterUnload p s
  · exact h.refuse
  · exact h.postFree
  · exact h.postErr
  · exact h.dropVariant.postDone

theorem Steady.effFlip (h : Steady C W s) :
    Steady C W (Machine.effFlip p s) := by
  fun_cases Machine.effFlip p s
  case case6 =>
    exact h.refuse
  case case7 =>
    exact h.schedule.wr.wr.updModel.openCmd
  all_goals exact h.postErr

theorem Steady.clearFlip (h : Steady C W s) :
    Steady C W (Machine.clearFlip n id' m s) :=
  h.wr.updModel

theorem Steady.releaseRegion (h : Steady C W s) :
    Steady C W (Machine.releaseRegion n version m s i) :=
  h.wr.wr

theorem Steady.decideFlip (h : Steady C W s) :
    Steady C W (Machine.decideFlip p m s) :=
  Steady.ite h.clearFlip.postDone (Steady.ite (((((h.clearFlip.foldl (fun
      h => h.releaseRegion)).wr).wr).ctr).postDone) h.clearFlip.wr.ctr.postFinal)

theorem Steady.flipDecision (h : Steady C W s) :
    Steady C W (Machine.flipDecision id' h' s) := by
  fun_cases Machine.flipDecision id' h' s
  · exact h
  · exact h
  next e =>
    exact (h.takeDue _ e).decideFlip
  · exact h

theorem Steady.setChecked (h : Steady C W s) :
    Steady C W (Machine.setChecked id' h' i c s) := h.set rfl rfl

theorem Steady.effDiscard (h : Steady C W s) :
    Steady C W (Machine.effDiscard p s) := by
  fun_cases Machine.effDiscard p s
  · exact h.refuse
  · exact h.postErr
  · exact (h.foldl (fun h => h.setChecked.setSs)).postDone

theorem Steady.chunkCheck (h : Steady C W s) :
    Steady C W (Machine.chunkCheck id' h' i s) := by
  fun_cases Machine.chunkCheck id' h' i s
  · exact h
  · exact h
  · exact h.setChecked.ctr.setChecked.setSs
  · exact h.setChecked.ctr
  · exact h.setChecked.setChecked.ctr.setSs
  · exact h

theorem Steady.regionDrainEnd (h : Steady C W s) :
    Steady C W (Machine.regionDrainEnd id' h' i s) := by
  fun_cases Machine.regionDrainEnd id' h' i s
  · exact h.setSs
  · exact h
  · exact h

theorem Steady.hostTierStream (h : Steady C W s) :
    Steady C W (Machine.hostTierStream id' h' i s) := by
  fun_cases Machine.hostTierStream id' h' i s
  · exact h.updModel.ctr
  · exact h
  · exact h

theorem Steady.copyStride (h : Steady C W s) :
    Steady C W (Machine.copyStride n q src dst s) :=
  h.vwrite

theorem Steady.freeSpill (h : Steady C W s) :
    Steady C W (Machine.freeSpill n id' q slot s) :=
  h.setCb.updPool

theorem Steady.clearEntry (h : Steady C W s) :
    Steady C W (Machine.clearEntry n id' q t' j s) :=
  Steady.ite h.setTe.dropRef (Steady.ite h.setTe.freeSpill h.setTe)

theorem Steady.releaseFrom (h : Steady C W s) :
    Steady C W (Machine.releaseFrom n id' q t' pos s) :=
  Steady.ite h ((h.foldl (fun h => h.clearEntry)).fixUsed)

theorem Steady.emptyTable (h : Steady C W s) :
    Steady C W (Machine.emptyTable n id' q t' s) :=
  h.releaseFrom

theorem Steady.newEntry (h : Steady C W s) : ∀ t ∈ Machine.newEntry n q x j s, Steady C W t :=
  Steady.map (g := id) fun y hy => (h.allocPage y hy).setTe.fixUsed

theorem Steady.cowEntry (h : Steady C W s) : ∀ t ∈ Machine.cowEntry n q x j s, Steady C W t :=
  Steady.map (g := id) fun y hy => (h.allocPage y hy).copyStride.setTe.dropRef.bumpCb.ctr

theorem Steady.shareEntry (h : Steady C W s) :
    Steady C W (Machine.shareEntry n q src dst s x) := by
  fun_cases Machine.shareEntry n q src dst s x
  next e =>
    exact ((h.allocPage _ e).copyStride).setTe
  · exact h
  · exact h.setTe.takeRef

theorem Steady.sharePages (h : Steady C W s) :
    ∀ t ∈ Machine.sharePages n q src dst len s, Steady C W t := by
  fun_cases Machine.sharePages n q src dst len s
  · rintro _ ⟨⟩
  · rintro _ ⟨⟩
    exact (h.foldl (fun h => h.shareEntry)).fixUsed

theorem Steady.withPool {f : State → State} (h : Steady C W s) (hf : ∀ {u}, Steady C W u → Steady C W (f u)) :
    Steady C W (Machine.withPool p q tables more f s) := by
  fun_cases Machine.withPool p q tables more f s
  · exact h.memFail
  · exact hf h

theorem Steady.effPoolCreate (h : Steady C W s) :
    Steady C W (Machine.effPoolCreate p s) := by
  fun_cases Machine.effPoolCreate p s
  · exact h.postFree
  · exact h.postErr
  · exact h.postCap
  · exact h.vstore.memFail
  · exact h.vstore.updJob.postDone

theorem Steady.putSpill (h : Steady C W s) :
    Steady C W (Machine.putSpill n q area slots s) :=
  h.setCb.setCb.setCb

theorem Steady.putPolicy (h : Steady C W s) :
    Steady C W (Machine.putPolicy n q x s) :=
  h.setCb.setCb.putSpill

theorem Steady.effPoolPolicy (h : Steady C W s) :
    Steady C W (Machine.effPoolPolicy p s) := by
  unfold Machine.effPoolPolicy
  dsimp only
  split
  · exact h.postErr
  · refine Steady.ite h.postFree (Steady.ite h.memFail (Steady.ite h.postErr (Steady.ite
      (((Steady.putPolicy ?_).updPool).postDone) ((Steady.updPool ?_).postDone))))
    · split
      · exact h.putPolicy
      · exact h
    · split
      · exact h.putPolicy
      · exact h

theorem Steady.takePolicy (h : Steady C W s) :
    Steady C W (Machine.takePolicy n id' k r' s) := by
  fun_cases Machine.takePolicy n id' k r' s
  · exact h.putPolicy.updPool
  · exact (Steady.ite h.putSpill h).updPool
  · exact h
  · exact h

theorem Steady.effPoolDestroy (h : Steady C W s) :
    Steady C W (Machine.effPoolDestroy p s) := by
  fun_cases Machine.effPoolDestroy p s
  · exact h.postErr
  · exact h.withPool (fun h => Steady.ite h.postErr h.updJob.postDone)

theorem Steady.bindTables (h : Steady C W s) :
    Steady C W (Machine.bindTables n q r' base slots s) :=
  h.foldl (fun h => h.setTh.setTh.setTh)

theorem Steady.unbindTables (h : Steady C W s) :
    Steady C W (Machine.unbindTables n q base slots s) :=
  h.foldl (fun h => Steady.ite h.setTh.setTh h.setTh)

theorem Steady.forkTable (h : Steady C W s) :
    Steady C W (Machine.forkTable p q src dst len s) := by
  fun_cases Machine.forkTable p q src dst len s
  · exact h.postFree
  · exact h.postErr
  · exact h.postErr
  · exact h.postCap
  next e =>
    exact (h.sharePages _ e).postDone

theorem Steady.effKvFork (h : Steady C W s) :
    Steady C W (Machine.effKvFork p s) := by
  fun_cases Machine.effKvFork p s
  · exact h.postErr
  · exact h.withPool (fun h => h.forkTable)

theorem Steady.releaseNow (h : Steady C W s) :
    Steady C W (Machine.releaseNow p q s) :=
  (Steady.ite h.releaseFrom.setTh h.releaseFrom).postDone

theorem Steady.effKvRelease (h : Steady C W s) :
    Steady C W (Machine.effKvRelease p s) := by
  fun_cases Machine.effKvRelease p s
  · exact h.postErr
  · exact h.withPool (fun h => Steady.ite h.postFree (Steady.ite h.postErr (Steady.ite h.openCmd h.releaseNow)))

theorem Steady.settleReleases (h : Steady C W s) :
    Steady C W (Machine.settleReleases s) := by
  fun_cases Machine.settleReleases s
  refine h.foldl (fun h => Steady.ite ?_ h)
  split
  · exact h.releaseNow
  · exact h

theorem Steady.fillTable (h : Steady C W s) :
    Steady C W (Machine.fillTable n q t' x x' s) := by
  fun_induction Machine.fillTable n q t' x x' s
  · exact h
  next e ih =>
    exact ih ((h.allocPage _ e).setTe)
  · exact h

theorem Steady.effKvReceive (h : Steady C W s) :
    Steady C W (Machine.effKvReceive p s) := by
  fun_cases Machine.effKvReceive p s
  · exact h.postErr
  · exact h.withPool (fun h => Steady.ite h.postFree (Steady.ite h.postErr (Steady.ite h.postCap
      h.fillTable.fixUsed.vwrite.wr.setTh.openCmd)))

theorem Steady.finishReceive (h : Steady C W s) :
    Steady C W (Machine.finishReceive p q t' former bad s) := by
  fun_cases Machine.finishReceive p q t' former bad s
  · exact h.setTh.postDone
  · exact h.emptyTable.setTh.ctr.postFinal

theorem Steady.pageCheck (h : Steady C W s) :
    Steady C W (Machine.pageCheck id' k t' s) := by
  fun_cases Machine.pageCheck id' k t' s
  · exact h.finishReceive
  · exact h
  · exact (Steady.ite h.ctr h).finishReceive
  · exact (Steady.ite h.ctr h).setProg
  · exact h

theorem Steady.receiveTimeout (h : Steady C W s) :
    Steady C W (Machine.receiveTimeout id' k t' s) := by
  fun_cases Machine.receiveTimeout id' k t' s
  · exact h
  · exact h.setTh.ctr.postErr
  · exact h

end Sys2Proof.Machine
end

section
/-! PROOFS. What every function of the model keeps: the commands that wait, and the form of the memories.
Rollouts and their steps. -/

namespace Sys2Proof.Machine

open Sys2Proof

variable {C : List Instr} {W : Prop} {s t : State}

theorem Steady.noteDraw (h : Steady C W s) :
    Steady C W (Machine.noteDraw d x noFinite s) := by
  fun_cases Machine.noteDraw d x noFinite s
  exact h.nextFree.updDie

theorem Steady.drawAt (h : Steady C W s) :
    Steady C W (Machine.drawAt job i x row s).2 :=
  h.putGens.noteDraw

theorem Steady.sampleRows (h : Steady C W s) :
    Steady C W (Machine.sampleRows p x x' x'' s).1 := by
  fun_induction Machine.sampleRows p x x' x'' s
  · exact h
  · exact h
  · exact h.drawAt.vstore
  next ih =>
    exact ih h.drawAt.vstore

theorem Steady.effSample (h : Steady C W s) :
    Steady C W (Machine.effSample p s) :=
  Steady.ite h.postFree h.markPhase.sampleRows.finishMem

theorem Steady.updRoll (h : Steady C W s) :
    Steady C W (s.updRoll id' k f) := h.set rfl rfl

theorem Steady.setSe (h : Steady C W s) :
    Steady C W (Machine.setSe n r' slot off k v s) :=
  h.wr

theorem Steady.touch (h : Steady C W s) :
    Steady C W (Machine.touch n r' slot s) :=
  h.setSe

theorem Steady.setState (h : Steady C W s) :
    Steady C W (Machine.setState n r' q slot st s) :=
  ((Steady.ite h.setCb (Steady.ite h.setCb h)).setSe).touch

theorem Steady.bumpEnded (h : Steady C W s) :
    Steady C W (Machine.bumpEnded id' k s) := by
  fun_cases Machine.bumpEnded id' k s
  · exact h.setProg
  · exact h
  · exact h
  · exact h

theorem Steady.dropStep (h : Steady C W s) :
    Steady C W (Machine.dropStep id' p s) := h.set rfl rfl

theorem Steady.endStep (h : Steady C W s) :
    Steady C W (Machine.endStep id' p status reason r0 r1 s) :=
  h.dropStep.postFinal

theorem Steady.doneStep (h : Steady C W s) :
    Steady C W (Machine.doneStep id' k p s) := by
  fun_cases Machine.doneStep id' k p s
  · exact h.nextFree.endStep
  · exact h

theorem Steady.endSeq {post : Packet → State → State} (h : Steady C W s)
    (hpost : ∀ {x0 u}, Steady C W u → Steady C W (post x0 u)) :
    Steady C W (Machine.endSeq id' k slot drop post s) := by
  fun_cases Machine.endSeq id' k slot drop post s
  · exact h
  · exact h
  · exact hpost (((((Steady.ite h.emptyTable h).setState).setSe).updRoll).bumpEnded)

theorem Steady.endSlot (h : Steady C W s) :
    Steady C W (Machine.endSlot id' k closing s slot) := by
  fun_cases Machine.endSlot id' k closing s slot
  · exact h
  · exact h
  · exact h
  · exact ((h.endSeq (fun h => h.postFinal)).noteAbort).foldl (fun h => h.postFinal)

theorem Steady.endings (h : Steady C W s) :
    Steady C W (Machine.endings id' k closing s) := by
  fun_cases Machine.endings id' k closing s
  · exact h
  · exact (h.foldl (fun h => h.endSlot)).foldl (fun h => h.postFinal)

theorem Steady.closeSteps (h : Steady C W s) :
    Steady C W (Machine.closeSteps id' k s) :=
  h.foldl (fun h => Steady.ite h.doneStep h.endStep)

theorem Steady.freeRollout (h : Steady C W s) :
    Steady C W (Machine.freeRollout id' k s) := by
  fun_cases Machine.freeRollout id' k s
  · exact h
  · exact h.closeSteps.unbindTables.updJob.foldl (fun h => Steady.ite h.postDone h)

theorem Steady.closeRollout (h : Steady C W s) :
    Steady C W (Machine.closeRollout id' k s) :=
  (h.endings.foldl (fun h => h.endings.freeRollout)).freeRollout

theorem Steady.effRolloutOpen (h : Steady C W s) :
    Steady C W (Machine.effRolloutOpen p s) := by
  fun_cases Machine.effRolloutOpen p s
  · exact h.postFree
  · exact h.refuse
  · exact h.postErr
  · exact h.postErr
  · exact h.postErr
  · exact h.postCap
  · exact h.postCap
  · exact h.postFree
  · exact h.vstore.memFail
  · exact h.vstore.bindTables.updJob.postDone

theorem Steady.effRolloutClose (h : Steady C W s) :
    Steady C W (Machine.effRolloutClose p s) := by
  fun_cases Machine.effRolloutClose p s
  · exact h.postErr
  · exact h.openCmd.updRoll
  · exact h.openCmd.closeRollout

theorem Steady.takeTable (h : Steady C W s) :
    Steady C W (Machine.takeTable n q t' s) :=
  Steady.ite h.setTh h

theorem Steady.acceptPrefill (h : Steady C W s) :
    Steady C W (Machine.acceptPrefill p n r' q s) :=
  h.openCmd.vwrite.takeTable.updRoll

theorem Steady.effPrefill (h : Steady C W s) :
    Steady C W (Machine.effPrefill p s) := by
  fun_cases Machine.effPrefill p s
  · exact h.postErr
  · exact h.postFree
  · exact h.memFail
  · exact h.refuse
  · exact h.acceptPrefill

theorem Steady.effSeqCancel (h : Steady C W s) :
    Steady C W (Machine.effSeqCancel p s) := by
  fun_cases Machine.effSeqCancel p s
  · exact h.postErr
  · exact h.openCmd.setSe.touch
  · exact h.openCmd
  · exact h.openCmd.endings

theorem Steady.restoreEntry (h : Steady C W s) :
    Steady C W (Machine.restoreEntry n id' q t' s j) := by
  fun_cases Machine.restoreEntry n id' q t' s j
  · exact h
  next e _ _ =>
    exact (((((h.allocPage _ e).copyStride).setTe).freeSpill).bumpCb).ctr

theorem Steady.spillEntry (h : Steady C W s) :
    Steady C W (Machine.spillEntry n id' k t' j s) := by
  fun_cases Machine.spillEntry n id' k t' j s
  · exact h
  · exact h
  · exact h.copyStride.dropRef.setTe.setCb.bumpCb.updPool.ctr

theorem Steady.hold (h : Steady C W s) :
    Steady C W (Machine.hold id' k slot reason s) := by
  fun_cases Machine.hold id' k slot reason s
  · exact h
  · exact h
  · exact h
  · exact h.setState.updRoll.postInterim

theorem Steady.spillFor (h : Steady C W s) :
    ∀ t ∈ Machine.spillFor n id' k pool prio need q s, Steady C W t := by
  fun_cases Machine.spillFor n id' k pool prio need q s
  · rintro _ ⟨⟩
  · rintro _ ⟨⟩
    refine (h.foldl (fun h => ?_)).foldl (fun h => h.hold)
    split
    · exact h.spillEntry
    · exact h

theorem Steady.returnHeld (h : Steady C W s) :
    Steady C W (Machine.returnHeld id' k slot s) := by
  fun_cases Machine.returnHeld id' k slot s
  · exact h
  · exact h
  · exact (h.foldl (fun h => h.restoreEntry)).setState

theorem Steady.endExhausted (h : Steady C W s) :
    Steady C W (Machine.endExhausted id' k slot reason s) := by
  fun_cases Machine.endExhausted id' k slot reason s
  · exact h
  · exact ((h.endSeq (fun h => h.postFinal)).bumpCb).ctr

theorem Steady.serveHeld {r : State × List (ℕ × ℕ)} (h : Steady C W r.1) :
    Steady C W (Machine.serveHeld id' k rows r slot).1 := by
  fun_cases Machine.serveHeld id' k rows r slot
  · exact h
  · exact h
  · exact h.returnHeld
  · exact h
  · exact h.endExhausted
  next e =>
    exact (h.spillFor _ e).returnHeld
  · exact h.endExhausted

theorem Steady.serveSlots4 (h : Steady C W s) :
    Steady C W (Machine.serveSlots4 id' k rows slots s) := by
  fun_cases Machine.serveSlots4 id' k rows slots s
  · exact h
  · exact (h.foldl_fst (fun h => h.serveHeld)).updRoll

theorem Steady.stageHeld (h : Steady C W s) :
    Steady C W (Machine.stageHeld id' k rows s) := by
  fun_cases Machine.stageHeld id' k rows s
  · exact h
  · exact h.serveSlots4

theorem Steady.handOff (h : Steady C W s) :
    Steady C W (Machine.handOff id' k slot s) := by
  fun_cases Machine.handOff id' k slot s
  · exact h
  · exact h
  · exact h.vstore.endSeq (fun h => h.memFail)
  · exact (h.vstore.setTh.endSeq (fun h => h.postDone)).noteAbort

theorem Steady.joinPrompt (h : Steady C W s) :
    Steady C W (Machine.joinPrompt id' k slot n r' q x s) := by
  fun_cases Machine.joinPrompt id' k slot n r' q x s
  · exact h.setState
  · exact h.endSeq (fun h => h.memFail)
  · exact h.setSe.handOff
  · exact h.setSe.setState

theorem Steady.joinAt (h : Steady C W s) :
    Steady C W (Machine.joinAt n r' q slot len pending' s) :=
  h.setSe.setSe.setSe.setState

theorem Steady.joinAdopt (h : Steady C W s) :
    Steady C W (Machine.joinAdopt id' k slot n r' q x s) := by
  fun_cases Machine.joinAdopt id' k slot n r' q x s
  · exact h.endSeq (fun h => h.memFail)
  · exact h.endSeq (fun h => h.postFinal)
  · exact h.endSeq (fun h => h.postFinal)
  · exact h.joinAt

theorem Steady.joinFork (h : Steady C W s) :
    Steady C W (Machine.joinFork id' k slot n r' q x s) := by
  fun_cases Machine.joinFork id' k slot n r' q x s
  · exact h.endSeq (fun h => h.postFinal)
  · exact h
  · exact h.endSeq (fun h => h.postFinal)
  · exact h.hold
  next e =>
    exact (h.sharePages _ e).joinAt

theorem Steady.joinSlot (h : Steady C W s) :
    Steady C W (Machine.joinSlot id' k s slot) := by
  fun_cases Machine.joinSlot id' k s slot
  · exact h
  · exact h
  · exact h
  · exact h.joinAdopt
  · exact h.joinFork
  · exact h.joinPrompt

theorem Steady.stageRelease (h : Steady C W s) :
    Steady C W (Machine.stageRelease id' k s) := by
  fun_cases Machine.stageRelease id' k s
  · exact h
  · exact h.foldl (fun h => Steady.ite h.releaseFrom h)

theorem Steady.stageVersion (h : Steady C W s) :
    Steady C W (Machine.stageVersion id' k s) := by
  fun_cases Machine.stageVersion id' k s
  · exact h
  · exact h.updRoll
  · exact h

theorem Steady.boundary (h : Steady C W s) :
    Steady C W (Machine.boundary id' k rows s) := by
  fun_cases Machine.boundary id' k rows s
  · exact h
  · exact h.stageRelease.closeRollout
  · exact h.stageRelease.endings.stageVersion.takePolicy.stageHeld
  · exact h.stageRelease.endings.stageVersion.takePolicy.stageHeld.foldl (fun h => h.joinSlot)

theorem Steady.prepare (h : Steady C W s) : Steady C W (Machine.Plan.prepare a s).1 :=
  ((h.foldl_fst fun h => h.andThen fun h => h.nextFree.vput).foldl_fst
    fun h => h.andThen fun h => h.store).foldl_fst fun h => h.andThen fun h => h.vput

theorem Steady.runTile (h : Steady C W s) :
    Steady C W (Machine.runTile w id' t' s).1 := by
  fun_cases Machine.runTile w id' t' s
  · exact h
  · exact h.nextFree.countIssue.endEffect

theorem Steady.feedKv (h : Steady C W s) :
    Steady C W (Machine.feedKv w cols s).1 := by
  fun_cases Machine.feedKv w cols s
  refine h.foldl_fst (fun h => h.foldl_fst (fun h => h.foldl_fst (fun h => h.andThen (fun h => ?_))))
  split
  · exact h
  · exact h.store

theorem Steady.runWork (h : Steady C W s) :
    Steady C W (Machine.runWork k id' wi w0 s).1 :=
  ((Steady.ite_fst h.feedKv h).foldl_fst (fun h => h.andThen (fun h => h.runTile))).andThen (fun h => h.workEnd)

theorem Steady.streamTier (h : Steady C W s) :
    Steady C W (Machine.streamTier id' m s) :=
  Steady.ite h (((h.foldl (fun h => Steady.ite h h.hostTierStream)).nextFree).ctr)

theorem Steady.obtain_ (h : Steady C W s) : Steady C W (Machine.obtain_ n q x es s) :=
  (h.foldl fun h => Steady.ite (h.getD h.cowEntry) h).foldl fun h => Steady.ite h (h.getD h.newEntry)

theorem Steady.obtainFor {r : State × List (ℕ × ℕ) × List Fed} (h : Steady C W r.1) :
    Steady C W (Machine.obtainFor id' k r f).1 := by
  fun_cases Machine.obtainFor id' k r f
  · exact h
  · exact h.hold
  · exact h.obtain_

theorem Steady.stageSix (h : Steady C W s) :
    Steady C W (Machine.stageSix id' k x x' s).1 := by
  fun_induction Machine.stageSix id' k x x' s
  · exact h
  · exact h
  next ih =>
    exact ih (h.obtainFor.foldl (fun h => h.pinPage))
  · exact h.obtainFor

theorem Steady.unpinStep (h : Steady C W s) :
    Steady C W (Machine.unpinStep n q pins s) :=
  h.foldl (fun h => h.unpinPage)

theorem Steady.dropStage6 (h : Steady C W s) :
    Steady C W (Machine.dropStage6 id' k s) := by
  fun_cases Machine.dropStage6 id' k s
  · exact h
  · exact h
  · exact h.unpinStep.updRoll

theorem Steady.spoilKv (h : Steady C W s) :
    Steady C W (Machine.spoilKv n q t' pos s) :=
  h.foldl (fun h => h.nextFree.vwrite.nextFree.vwrite)

theorem Steady.spoilFed (h : Steady C W s) :
    Steady C W (Machine.spoilFed n r' q fs s) :=
  h.foldl (fun h => h.foldl (fun h => h.spoilKv))

theorem Steady.countTokens (h : Steady C W s) :
    Steady C W (Machine.countTokens id' c s) :=
  h.updJob.ctr

theorem Steady.commitTok (h : Steady C W s) :
    Steady C W (Machine.commitTok id' n r' slot tok lp' flags s).1 :=
  ((Steady.ite h.vwrite.setSe.setSe.setSe.setSe h.vwrite.setSe.setSe.setSe).touch).countTokens

theorem Steady.plainRow (h : Steady C W s) :
    Steady C W (Machine.plainRow id' n i r' slot row s) :=
  h.nextFree.drawAt.commitTok

theorem Steady.verifyRows (h : Steady C W s) :
    Steady C W (Machine.verifyRows id' n i r' d slot count x at_ x' x'' s).1 := by
  fun_induction Machine.verifyRows id' n i r' d slot count x at_ x' x'' s
  · exact h
  · exact h.plainRow
  next ih =>
    exact ih h.nextFree.putGens.noteDraw.commitTok
  · exact h.nextFree.putGens.noteDraw.commitTok

theorem Steady.putDrafts (h : Steady C W s) :
    Steady C W (Machine.putDrafts n r' slot l s) :=
  h.vwrite.foldl (fun h => h.vwrite)

theorem Steady.followTarget (h : Steady C W s) :
    Steady C W (Machine.followTarget n r' d slot s) :=
  Steady.ite h h.setSe.setSe.setSe.touch

theorem Steady.commitLive (h : Steady C W s) :
    Steady C W (Machine.commitLive id' n i r' kind y row ds f s).1 := by
  unfold Machine.commitLive
  split
  · exact h.plainRow
  · exact (Steady.ite h.verifyRows h.verifyRows.wr).followTarget
  · refine Steady.touch ?_
    split
    · exact h.putDrafts.setSe.setSe.setSe
    · exact h.putDrafts.setSe.setSe

theorem Steady.commitAll (h : Steady C W s) :
    Steady C W (Machine.commitAll id' n r' kind y ds x s).1 := by
  fun_induction Machine.commitAll id' n r' kind y ds x s
  · exact h
  next ih =>
    exact ih h
  next ih =>
    exact ih h.commitLive

theorem Steady.commitPrompt (h : Steady C W s) :
    Steady C W (Machine.commitPrompt id' k f s) := by
  fun_cases Machine.commitPrompt id' k f s
  · exact h
  · exact h
  · exact h.endSeq (fun h => h.memFail)
  · exact h.setSe.touch
  · exact h.setSe.touch.setSe.handOff
  · exact h.setSe.touch.setSe.setState

theorem Steady.noteFailure (h : Steady C W s) :
    Steady C W (Machine.noteFailure f r0 r1 s) := by
  unfold Machine.noteFailure
  split
  · exact h.recordFail.recordFail
  · exact h.faultEvent1.faultEvent1
  · exact h.updCore.faultEvent1.updCore.faultEvent1
  · exact h

theorem Steady.countDiscard (h : Steady C W s) :
    Steady C W (Machine.countDiscard s) := h.set rfl rfl

theorem Steady.feed {a : FeedSt} (h : Steady C W a.w.1) : Steady C W (Machine.feed job k key cs a).1.w.1 := by
  fun_cases Machine.feed job k key cs a
  · exact h
  · exact h
  · exact h
  · exact (h.streamTier.andThen (r := (_, _)) fun h => h.prepare).foldl_fst fun h => h.andThen fun h => h.runWork

theorem Steady.drawDrafts {a : FeedSt} (h : Steady C W a.w.1) :
    Steady C W (Machine.drawDrafts job k key i x slot pos m j y a).1.w.1 := by
  fun_induction Machine.drawDrafts job k key i x slot pos m j y a
  · exact h
  · exact h
  next m _ _ _ _ _ _ b f _ ih =>
    have hb : Steady C W b.w.1 := h.nextFree.drawAt
    refine ih ?_
    unfold f
    split
    · exact hb
    · exact hb.feed

theorem Steady.drawSlots {a : FeedSt} (h : Steady C W a.w.1) :
    Steady C W (Machine.drawSlots job k n key r x l a).1.w.1 :=
  List.foldlRecOn (motive := fun b : FeedSt × List (Nat × List (Nat × Cand)) => Steady C W b.1.w.1) _ _ h
    fun _ hb _ _ => hb.drawDrafts

/-- The drafts of a step that draws any. -/
theorem Steady.drawDrafted {kind : StepKind} {x : FeedSt × Option Act} {y : FeedSt × List (Nat × List (Nat × Cand))}
    (h : Steady C W x.1.w.1)
    (e : y = match kind with | .draft _ => Machine.drawSlots job k n key r x.2 l x.1 | _ => (x.1, [])) :
    Steady C W y.1.w.1 := by
  subst e
  cases kind with
  | plain => exact h
  | verify _ => exact h
  | draft _ => exact h.drawSlots

theorem Steady.stepLayers (h : Steady C W s) : Steady C W (Machine.stepLayers job k n key r kind fs s).1 := by
  have h2 : ∀ p q [Decidable p] [Decidable q], Steady C W
      (if p then Machine.markPhase job 1 (if q then Machine.markPhase job 0 s else s)
        else if q then Machine.markPhase job 0 s else s) := fun _ _ _ _ =>
    have h1 := Steady.ite h.markPhase h
    .ite h1.markPhase h1
  fun_cases Machine.stepLayers job k n key r kind fs s
  next x y _ _ =>
    have hy : Steady C W y.1.w.1 := Steady.drawDrafted (x := x) (Steady.feed (h2 ..)) rfl
    exact hy.dropTiles
  next x y _ _ _ _ _ _ =>
    have hy : Steady C W y.1.w.1 := Steady.drawDrafted (x := x) (Steady.feed (h2 ..)) rfl
    exact hy.putGens.dropTiles
  next x y _ _ c _ _ _ _ _ _ =>
    have hy : Steady C W y.1.w.1 := Steady.drawDrafted (x := x) (Steady.feed (h2 ..)) rfl
    have hc : Steady C W c.1 := Steady.commitAll hy
    exact (hc.foldl fun h => h.commitPrompt).updRoll.dropTiles.ctr

theorem Steady.noteTurn (h : Steady C W s) :
    Steady C W (Machine.noteTurn id' k s) :=
  Steady.ite h.sched.updJob h

theorem Steady.runStep (h : Steady C W s) :
    Steady C W (Machine.runStep id' k key kind fail s).1 := by
  fun_cases Machine.runStep id' k key kind fail s
  · exact h
  · exact h.updRoll.stageSix.updRoll
  · refine ((Steady.ite_fst h.updRoll.stageSix.updRoll.countDiscard.faultEvent1 ?_).unpinStep).noteTurn
    split
    · exact h.updRoll.stageSix.updRoll.spoilFed.countDiscard.noteFailure
    · exact h.updRoll.stageSix.updRoll.stepLayers

theorem Steady.lastBoundary (h : Steady C W s) :
    Steady C W (Machine.lastBoundary id' k kind s) := by
  fun_cases Machine.lastBoundary id' k kind s
  · exact h.boundary.boundary
  · exact h.boundary
  · exact h.boundary

theorem Steady.failStep {post : Packet → State → State} (h : Steady C W s)
    (hpost : ∀ {x0 u}, Steady C W u → Steady C W (post x0 u)) :
    Steady C W (Machine.failStep id' k kind p post s) :=
  Steady.ite (hpost h.lastBoundary.dropStep) h.lastBoundary

theorem Steady.abortStep (h : Steady C W s) :
    Steady C W (Machine.abortStep id' k kind p s) :=
  h.failStep (fun h => h.postFinal.noteAbort)

theorem Steady.stepEnded {r : State × StepEnd} (h : Steady C W r.1) :
    ∀ t ∈ Machine.stepEnded id' k kind p r, Steady C W t := by
  fun_cases Machine.stepEnded id' k kind p r
  · rintro _ ⟨⟩
    exact h
  · rintro _ ⟨⟩
    exact h.failStep (fun h => h.postFinal)
  · rintro _ ⟨⟩
    exact h.failStep (fun h => h.memFail)
  · rintro _ ⟨⟩
    exact h.abortStep
  · rintro _ ⟨⟩

theorem Steady.batchPlain (h : Steady C W s) :
    Steady C W (Machine.batchPlain id' k p r' kind fail s) := by
  fun_cases Machine.batchPlain id' k p r' kind fail s
  · exact (Steady.ite h h.boundary).doneStep
  next e =>
    exact ((Steady.ite h h.boundary).runStep).stepEnded _ e
  · exact ((((Steady.ite h h.boundary).runStep).setProg).lastBoundary).doneStep
  · exact (((Steady.ite h h.boundary).runStep).setProg).lastBoundary
  · exact ((Steady.ite h h.boundary).runStep).setProg
  · exact (Steady.ite h h.boundary).runStep
  · exact Steady.ite h h.boundary

theorem Steady.batchVerify (h : Steady C W s) :
    Steady C W (Machine.batchVerify id' k p r' kind fail s) := by
  fun_cases Machine.batchVerify id' k p r' kind fail s
  next e =>
    exact ((Steady.ite h h.boundary).runStep).stepEnded _ e
  · exact (((Steady.ite h h.boundary).runStep).lastBoundary).endStep
  · exact ((Steady.ite h h.boundary).runStep).lastBoundary
  · exact (Steady.ite h h.boundary).runStep
  · exact Steady.ite h h.boundary

theorem Steady.batchStep (h : Steady C W s) :
    Steady C W (Machine.batchStep id' k fail s) := by
  fun_cases Machine.batchStep id' k fail s
  · exact h
  · exact h.dropStage6.dropStep.memFail
  · exact h.batchVerify
  · exact h.batchPlain
  · exact h

theorem Steady.exhaustion (h : Steady C W s) :
    Steady C W (Machine.exhaustion id' k slot s) := by
  fun_cases Machine.exhaustion id' k slot s
  · exact h
  · exact h
  · exact h.serveSlots4

theorem Steady.enterStep (h : Steady C W s) :
    Steady C W (Machine.enterStep id' k p g s) := by
  fun_cases Machine.enterStep id' k p g s
  · exact h.openCmd.updRoll
  · exact h

theorem Steady.effRolloutStep (h : Steady C W s) :
    Steady C W (Machine.effRolloutStep p s) := by
  fun_cases Machine.effRolloutStep p s
  · exact h.postErr
  · exact h.enterStep

theorem Steady.effSpecVerify (h : Steady C W s) :
    Steady C W (Machine.effSpecVerify p s) := by
  fun_cases Machine.effSpecVerify p s
  · exact h.postErr
  · exact h.postErr
  · exact h.postErr
  · exact h.enterStep

theorem Steady.launchAttn (h : Steady C W s) :
    Steady C W (Machine.launchAttn p w pool pins s) := by
  unfold Machine.launchAttn
  refine Steady.ite (((Steady.ite (Steady.setProg ?_) (Steady.openCmd ?_)).dropTiles).postDone) ((Steady.ite
      (Steady.setProg ?_) (Steady.openCmd ?_)).tiles)
  · split
    · exact h.foldl (fun h => h.pinPage)
    · exact h
  · split
    · exact h.foldl (fun h => h.pinPage)
    · exact h
  · split
    · exact h.foldl (fun h => h.pinPage)
    · exact h
  · split
    · exact h.foldl (fun h => h.pinPage)
    · exact h

theorem Steady.runAttn (h : Steady C W s) :
    Steady C W (Machine.runAttn p x ops lens s) := by
  fun_cases Machine.runAttn p x ops lens s
  · exact h.postFree
  · exact h.postErr
  · exact h.memFail
  · exact h.postFree
  · exact h.launchAttn
  · exact h
  · exact h.openCmd
  · exact h.launchAttn

theorem Steady.effAttnFwd (h : Steady C W s) :
    Steady C W (Machine.effAttnFwd p s) := by
  fun_cases Machine.effAttnFwd p s
  · exact h.postFree
  · exact h.memFail
  · exact h.memFail
  · exact h.runAttn

theorem Steady.settleAttn (h : Steady C W s) :
    Steady C W (Machine.settleAttn s) :=
  h.foldl (fun h => Steady.ite h.effAttnFwd h)

end Sys2Proof.Machine
end

section
/-! PROOFS. What every function of the model keeps: the commands that wait, and the form of the memories.
Drains, passes and updates. -/

namespace Sys2Proof.Machine

open Sys2Proof

variable {C : List Instr} {W : Prop} {s t : State}

theorem Steady.dropFlip (h : Steady C W s) :
    Steady C W (Machine.dropFlip n id' m s) := by
  fun_cases Machine.dropFlip n id' m s
  · exact h
  · exact h.unschedule.clearFlip.postErr

theorem Steady.closeOn (h : Steady C W s) :
    Steady C W (Machine.closeOn p h' s) :=
  h.foldl (fun h => Steady.ite h.updRoll (Steady.ite h.closeRollout h))

theorem Steady.tryDrain (h : Steady C W s) :
    Steady C W (Machine.tryDrain o s) := by
  fun_cases Machine.tryDrain o s
  · exact h
  · exact h
  · exact h.foldl (fun h => h.setSs)
  · exact ((((h.foldl (fun h => h.setSs)).unmapArea).foldl (fun h => h.unmapArea)).updJob).postDone
  · exact h

theorem Steady.effModelDrain (h : Steady C W s) :
    Steady C W (Machine.effModelDrain p s) := by
  fun_cases Machine.effModelDrain p s
  · exact h.postErr
  · exact h.postErr
  · exact (((Steady.ite h.wr.dropFlip.closeOn h.wr.dropFlip).updModel).openCmd).tryDrain

theorem Steady.settleDrains (h : Steady C W s) :
    Steady C W (Machine.settleDrains s) :=
  h.foldl (fun h => h.tryDrain)

theorem Steady.drainTimeout (h : Steady C W s) :
    Steady C W (Machine.drainTimeout id' h' s) := by
  fun_cases Machine.drainTimeout id' h' s
  · exact h
  · exact h
  · exact h
  · exact h.updModel.postErr

theorem Steady.noteFwd (h : Steady C W s) :
    Steady C W (Machine.noteFwd id' x s) := h.set rfl rfl

theorem Steady.turnWindow (h : Steady C W s) :
    Steady C W (Machine.turnWindow id' step' s) := by
  fun_cases Machine.turnWindow id' step' s
  · exact h
  · exact h.closeWindow.openWindow.updJob
  · exact h

theorem Steady.notePass (h : Steady C W s) :
    Steady C W (Machine.notePass id' x saved s) := h.set rfl rfl

theorem Steady.runPass (h : Steady C W s) :
    Steady C W (Machine.runPass p m b block es since waited s) := by
  fun_cases Machine.runPass p m b block es since waited s
  · exact h.notePass.nextFree.prepare.dropTiles.memFail
  · exact h.notePass.nextFree.prepare.setProg.endPassRun
  · exact h.notePass.nextFree.prepare.setProg.tiles

theorem Steady.startPass (h : Steady C W s) :
    Steady C W (Machine.startPass p block since waited s) := by
  fun_cases Machine.startPass p block since waited s
  · exact h.postErr
  · exact h.ctr.postFinal.faultEvent1
  · exact h.postErr
  · exact h.postErr
  · exact h.memFail
  · exact h.postFree
  · exact h.runPass

theorem Steady.tryPass (h : Steady C W s) :
    Steady C W (Machine.tryPass tick o s) := by
  fun_cases Machine.tryPass tick o s
  · exact h
  · exact h.memFail
  · exact h.startPass
  · exact h.memFail
  · exact h.startPass
  · exact h.setProg
  · exact h

theorem Steady.effPass (h : Steady C W s) :
    Steady C W (Machine.effPass p s) := by
  fun_cases Machine.effPass p s
  · exact h.postFree
  · exact h.refuse
  · exact (((Steady.ite h h.turnWindow.noteFwd).noteStep).openCmd).tryPass

theorem Steady.effPassQuery (h : Steady C W s) :
    Steady C W (Machine.effPassQuery p s) := by
  fun_cases Machine.effPassQuery p s
  · exact h.postFree
  · exact h.refuse
  · exact h.memFail
  · exact h.postDone

theorem Steady.effPassFwd (h : Steady C W s) :
    Steady C W (Machine.effPassFwd p s) :=
  Steady.ite h.effPassQuery h.effPass

/-! ## UPDATE (R392 to R416, R447) -/

theorem Steady.endEmptyLayers (h : Steady C W s) :
    Steady C W (Machine.endEmptyLayers p tiles' ws s) := by
  fun_cases Machine.endEmptyLayers p tiles' ws s
  refine h.foldl (fun h => Steady.ite h ?_)
  split
  · split
    · exact h.layerDone
    · exact h
  · exact h

theorem Steady.launchUpdate (h : Steady C W s) :
    Steady C W (Machine.launchUpdate p ws0 s) :=
  h.setProg.tiles.endEmptyLayers

theorem Steady.startUpdate (h : Steady C W s) :
    Steady C W (Machine.startUpdate p s) := by
  fun_cases Machine.startUpdate p s
  · exact h.ctr.postFinal
  · exact h.postErr
  · exact h.doneUpdate
  · exact h.memFail
  · exact h.postFree
  · exact h.memFail
  · exact h.launchUpdate

theorem Steady.tryUpdate (h : Steady C W s) :
    Steady C W (Machine.tryUpdate o s) :=
  Steady.ite h.startUpdate h

theorem Steady.effUpdate (h : Steady C W s) :
    Steady C W (Machine.effUpdate p s) :=
  Steady.ite h.postErr (Steady.ite h.postFree h.noteStep.openCmd.tryUpdate)

theorem Steady.effStepSizeSet (h : Steady C W s) :
    Steady C W (Machine.effStepSizeSet p s) := by
  fun_cases Machine.effStepSizeSet p s
  · exact h.postFree
  · exact h.updJob.postDone

theorem Steady.settleLearn (h : Steady C W s) :
    Steady C W (Machine.settleLearn tick s) := by
  fun_cases Machine.settleLearn tick s
  refine h.foldl (fun h => ?_)
  split
  · exact Steady.ite h.tryPass.tryUpdate h
  · exact h

/-! ## ATTN_BWD (R387 to R391) -/

theorem Steady.effAttnBwd (h : Steady C W s) :
    Steady C W (Machine.effAttnBwd p s) := by
  fun_cases Machine.effAttnBwd p s
  · exact h.postFree
  · exact h.postErr
  · exact h.memFail
  · exact h.memFail
  · exact h.postFree
  · exact h.launchAttn

/-! ## PHASE_TIMES_READ (R426) -/

theorem Steady.effPhaseTimesRead (h : Steady C W s) :
    Steady C W (Machine.effPhaseTimesRead p s) := by
  fun_cases Machine.effPhaseTimesRead p s
  · exact h.vstore.memFail
  · exact .postDone (.set h.vstore rfl rfl)

end Sys2Proof.Machine
end

section
/-! PROOFS. What every function of the model keeps: the commands that wait, and the form of the memories.
Checkpoints and the commands that send. -/

namespace Sys2Proof.Machine

open Sys2Proof

variable {C : List Instr} {W : Prop} {s t : State}

/-! ## Frames (R583 to R585, R589, R590) -/

theorem Steady.updCkpt (h : Steady C W s) :
    Steady C W (Machine.updCkpt id' ckpt f s) := h.set rfl rfl

/-! ## The protective copy at its source (R602 to R604) -/

theorem Steady.countSent (h : Steady C W s) :
    Steady C W (Machine.countSent n s) := h.set rfl rfl

/-! ## Announcements at their destination (R601, R602, R604) -/

theorem Steady.updHold (h : Steady C W s) :
    Steady C W (Machine.updHold id' hold' f s) := h.set rfl rfl

theorem Steady.landRegions (h : Steady C W s) :
    Steady C W (Machine.landRegions id' hold' x x' s) := by
  fun_induction Machine.landRegions id' hold' x x' s
  · exact h
  · exact h
  next ih =>
    refine ih ?_
    split
    · exact h.updHold.writeDev
    · exact h.updHold

theorem Steady.beginParity {own : Nat} (h : Steady C W s) :
    ∀ t ∈ Machine.beginParity job group x own g n rank regions shards s, Steady C W t := by
  unfold Machine.beginParity
  split
  · rintro _ ⟨⟩
  · extract_lets note
    split
    · rintro _ ⟨⟩
      exact h.updJob
    · exact Steady.map (g := id) fun _ _ => h.updJob

theorem Steady.setParity (h : Steady C W s) :
    Steady C W (Machine.setParity id' y s) := h.set rfl rfl

theorem Steady.contribute (h : Steady C W s) :
    ∀ t ∈ Machine.contribute id' group rank k d s, Steady C W t := by
  fun_cases Machine.contribute id' group rank k d s
  · rintro _ ⟨⟩
  · rintro _ ⟨⟩
  · rintro _ ⟨⟩
    exact h.writeDev.setParity

theorem Steady.imgWrite (h : Steady C W s) : Steady C W (Machine.imgWrite job domain src a d s).1 := by
  unfold Machine.imgWrite
  extract_lets f1 f2 off deny done
  have hdeny : Steady C W deny.1 := h
  have hdone : ∀ o : Option State, (∀ t ∈ o, Steady C W t) → Steady C W (done o).1 := fun o ho => by
    unfold done
    split
    · exact ho _ rfl
    · exact hdeny
  refine Steady.ite_fst hdeny ?_
  split
  · split
    · exact h.landRegions
    · exact hdeny
  · split
    · exact h.updHold
    · exact hdeny
  · exact hdone _ h.contribute
  · exact hdone _ (Steady.map (g := id) fun _ _ => h.setParity)
  · split
    · exact Steady.ite_fst hdeny h.updHold
    · exact hdeny
  · split
    · exact hdone _ h.beginParity
    · exact hdeny
  · refine Steady.ite_fst ?_ h.freeOxbow.updJob
    split
    · exact h.updHold
    · exact hdeny
  · exact hdeny

/-! ## Reads of images at their holder (R613, R617, R621) -/

theorem Steady.restartChecks (h : Steady C W s) :
    Steady C W (Machine.restartChecks job a len s) := by
  fun_cases Machine.restartChecks job a len s
  · exact h
  · exact h.foldl (fun h => h.foldl (fun h => Steady.ite h.setChecked h))

theorem Steady.doReqAny (h : Steady C W s) :
    Steady C W (Machine.doReqAny job domain src r' s).1 := by
  unfold Machine.doReqAny
  dsimp only
  split
  · refine Steady.ite_fst h.imgWrite ?_
    split
    · exact h.doReq.restartChecks
    · exact h.doReq
  · exact Steady.ite_fst h h.doReq
  · exact h.doReq

/-! ## Freeze and local copy (R590 to R600) -/

theorem Steady.freezeCkpt (h : Steady C W s) :
    Steady C W (Machine.freezeCkpt id' ckpt s) := by
  fun_cases Machine.freezeCkpt id' ckpt s
  · exact ((h.foldl (fun h => h.dropCkpt)).markPhase).updCkpt
  · exact h

theorem Steady.ckptFreeze (h : Steady C W s) :
    Steady C W (Machine.ckptFreeze id' ckpt s) := by
  fun_cases Machine.ckptFreeze id' ckpt s
  · exact h
  next e =>
    exact (h.takeDue _ e).freezeCkpt
  · exact h

theorem Steady.peerLost (h : Steady C W s) :
    Steady C W (Machine.peerLost id' ckpt peer s) := by
  fun_cases Machine.peerLost id' ckpt peer s
  · exact h.fab.updCkpt.freezeCkpt
  · exact h.fab.updCkpt
  · exact h

theorem Steady.dropWork0 (h : Steady C W s) :
    Steady C W (Machine.peerLost.dropWork0 k s) := h.set rfl rfl

theorem Steady.failTake (h : Steady C W s) :
    Steady C W (Machine.failTake id' ckpt status r0 r1 s) := by
  fun_cases Machine.failTake id' ckpt status r0 r1 s
  · exact h.updCkpt.ctr.dropWork.postFinal
  · exact h.updCkpt.ctr

theorem Steady.writeHeaders (h : Steady C W s) :
    Steady C W (Machine.writeHeaders id' ckpt s) := by
  fun_cases Machine.writeHeaders id' ckpt s
  · exact h
  · exact h
  · exact h.updCkpt

theorem Steady.regionCopyDone (h : Steady C W s) :
    Steady C W (Machine.regionCopyDone id' ckpt region result s) := by
  fun_cases Machine.regionCopyDone id' ckpt region result s
  · exact h
  · exact h.markPhase.countResets.failTake
  · exact h.markPhase.countResets.updCkpt
  · refine Steady.failTake ?_
    split
    · exact h.markPhase.recordUe
    · exact h.markPhase
  · exact h.markPhase.copyRegion.ctr.writeHeaders
  · exact h

theorem Steady.copyAheadDone (h : Steady C W s) :
    Steady C W (Machine.copyAheadDone id' ckpt region ns s) := by
  fun_cases Machine.copyAheadDone id' ckpt region ns s
  · exact ((Steady.ite h.copyAhead1 h).ctr).writeHeaders
  · exact h

theorem Steady.ckptComplete (h : Steady C W s) :
    Steady C W (Machine.ckptComplete id' ckpt s) := by
  fun_cases Machine.ckptComplete id' ckpt s
  · exact h.writeHeaders
  · exact h.writeHeaders
  · exact h.writeHeaders.updCkpt.foldl (fun h => h.dropCkpt)
  · exact (h.writeHeaders.updCkpt.foldl (fun h => h.dropCkpt)).postErr
  · exact (h.writeHeaders.updCkpt.foldl (fun h => h.dropCkpt)).postDone
  · exact h.writeHeaders

/-! ## RESTORE (R618 to R620) -/

theorem Steady.writeTargets (h : Steady C W s) :
    Steady C W (Machine.writeTargets p x s).1 := by
  fun_induction Machine.writeTargets p x s
  · exact h
  next e =>
    exact h.vstore.fst e
  next e ih =>
    exact ih (h.vstore.fst e)

theorem Steady.scrambleTargets (h : Steady C W s) :
    Steady C W (Machine.scrambleTargets p targets s) :=
  h.foldl (fun h => h.nextFree.vwrite)

theorem Steady.finishRestore (h : Steady C W s) :
    Steady C W (Machine.finishRestore p r' s) := by
  fun_cases Machine.finishRestore p r' s
  · exact h.markPhase.writeTargets.finishMem
  · exact h.markPhase.scrambleTargets.vstore.memFail
  · exact h.markPhase.scrambleTargets.vstore.postFinal

theorem Steady.stepRestore (h : Steady C W s) (e : Machine.stepRestore p got s = .inr t) : Steady C W t := by
  revert e
  fun_cases Machine.stepRestore p got s
  · rintro ⟨⟩
    exact h.finishRestore
  · rintro ⟨⟩
  · rintro ⟨⟩
    exact h.postFinal
  · rintro ⟨⟩
    exact h.memFail

/-! ## READBACK (R613) -/

theorem Steady.stepReadback (h : Steady C W s) (e : Machine.stepReadback p job ckpt got s = .inr t) : Steady C W t := by
  revert e
  fun_cases Machine.stepReadback p job ckpt got s
  · rintro ⟨⟩
    exact h.postErr
  · rintro ⟨⟩
    exact h.updCkpt.postDone
  · rintro ⟨⟩
    exact h.updCkpt.ctr.postFinal
  · rintro ⟨⟩
  · rintro ⟨⟩
    exact h.postFinal
  · rintro ⟨⟩
    exact h.memFail

/-! ## PUT, GET, ATOMIC, SIGNAL (R536 to R545) -/

theorem Steady.raiseCtr (h : Steady C W s) :
    Steady C W (Machine.raiseCtr p a v s).1 := by
  fun_cases Machine.raiseCtr p a v s
  · exact h
  · exact h.vstore
  · exact h

theorem Steady.endRemote (h : Steady C W s) :
    Steady C W (Machine.endRemote p r0 s) :=
  h.raiseCtr.finishMem

theorem Steady.remoteAnswer (h : Steady C W s) :
    Steady C W (Machine.remoteAnswer p done aborted d s) := by
  unfold Machine.remoteAnswer
  dsimp only
  split
  · exact Steady.ite h.postFinal (Steady.ite h.endRemote (Steady.ite h.endRemote h.setProg))
  · split
    · exact h.vstore.memFail
    · exact Steady.ite h.vstore.postFinal (Steady.ite h.vstore.endRemote h.vstore.setProg)
  · split
    · exact (Steady.ite_fst h h.vstore).memFail
    · exact Steady.ite ((Steady.ite_fst h h.vstore).postFinal) ((Steady.ite_fst h h.vstore).endRemote)
  · exact Steady.ite h.postFinal h.endRemote

/-! ## KV_SHIP SEND (R357) -/

theorem Steady.unpinSend (h : Steady C W s) :
    Steady C W (Machine.unpinSend p l s) := by
  fun_cases Machine.unpinSend p l s
  · exact h.foldl (fun h => h.unpinPage)
  · exact h

theorem Steady.sendAnswer (h : Steady C W s) :
    Steady C W (Machine.sendAnswer p phase page off pages got d s) := by
  unfold Machine.sendAnswer
  split
  · exact h
  · split
    · exact h.setProg
    · exact Steady.ite (Steady.ite h.postDone h.setProg) h.unpinSend.postErr
    · exact h.setProg
    · exact Steady.ite h.setProg h.setProg
    · exact h.setProg
    · exact Steady.ite h.unpinSend.postDone h.setProg

theorem Steady.effKvSend (h : Steady C W s) :
    Steady C W (Machine.effKvSend p s) := by
  fun_cases Machine.effKvSend p s
  · exact h.postErr
  · exact h.postFree
  · exact h.openCmd

/-! ## FRESHET_PUSH (R443 to R445, R447) -/

theorem Steady.stopPush (h : Steady C W s) :
    Steady C W (Machine.stopPush p i reason s) :=
  h.postErr

theorem Steady.pushNext (h : Steady C W s) :
    Steady C W (Machine.pushNext p m got x x' x'' x''' x'''' s) := by
  fun_induction Machine.pushNext p m got x x' x'' x''' x'''' s
  · exact h.postDone
  next ih =>
    exact ih h
  · exact h.setProg

theorem Steady.pushOn (h : Steady C W s) :
    Steady C W (Machine.pushOn p m got i sent skipped fixed s) :=
  h.pushNext

theorem Steady.pushClaim (h : Steady C W s) :
    Steady C W (Machine.pushClaim p m got i sent skipped fixed until_ w s) := by
  fun_cases Machine.pushClaim p m got i sent skipped fixed until_ w s
  case case1 =>
    exact h.setProg
  case case2 =>
    exact h.setProg
  case case3 =>
    exact h.pushOn
  case case6 =>
    exact h.setProg
  case case8 =>
    exact h.setProg
  all_goals exact h.stopPush

theorem Steady.startPush (h : Steady C W s) :
    Steady C W (Machine.startPush p m s) := by
  fun_cases Machine.startPush p m s
  · exact h.postErr
  · exact h.setProg

theorem Steady.pushAnswer (h : Steady C W s) :
    Steady C W (Machine.pushAnswer p phase i off sent skipped fixed until_ got d s) := by
  unfold Machine.pushAnswer
  split
  · exact h
  · split
    · exact Steady.ite h.postErr h.setProg
    · refine Steady.ite h.setProg ?_
      split
      · exact h.stopPush
      · exact h.pushNext
    · exact h.pushClaim
    · exact Steady.ite h.setProg h.pushClaim
    · exact h.setProg
    · exact h.setProg
    · exact h.setProg
    · exact Steady.ite h.setProg h.pushOn
    · exact h

theorem Steady.effPush (h : Steady C W s) :
    Steady C W (Machine.effPush p s) := by
  fun_cases Machine.effPush p s
  · exact h.refuse
  · exact h.postFree
  · exact h.postErr
  · exact h.openCmd

/-! ## All of them -/

theorem Steady.denyTake (h : Steady C W s) :
    Steady C W (Machine.denyTake p id' ckpt status reason r0 s) := by
  fun_cases Machine.denyTake p id' ckpt status reason r0 s
  · exact h.dropWork.dropCkpt.postFinal
  · exact h.dropWork.updCkpt.ctr.postFinal
  · exact h.postFinal

theorem Steady.takeAnswer (h : Steady C W s) :
    Steady C W (Machine.takeAnswer p id' ckpt s) := by
  fun_cases Machine.takeAnswer p id' ckpt s
  · exact h
  · exact h.updCkpt.countSent.freezeCkpt
  · exact h.updCkpt.countSent.markPhase

theorem Steady.answer (h : Steady C W s) :
    Steady C W (Machine.answer o dst job addr r' s) := by
  fun_cases Machine.answer o dst job addr r' s
  · exact h.markWork.setProg
  · exact h.markWork.setProg
  · exact h.markWork.denyTake
  · exact h.markWork.takeAnswer
  · exact h.markWork.remoteAnswer
  · exact h.markWork.postFinal
  · exact h.markWork.postFinal
  · exact h.markWork.sendAnswer
  · exact h.markWork.unpinSend.postFinal
  · exact h.markWork.pushAnswer
  · exact h.markWork.setProg
  · exact h.markWork.donePass
  · exact h.markWork.postFinal
  · exact h.markWork

/-! ## The pump -/

theorem Steady.issue (h : Steady C W s) :
    Steady C W (Machine.issue o dst job chan r' s) :=
  Steady.ite h.markWork.doReqAny.answer h.markWork.sendReq

theorem Steady.wantRemote (h : Steady C W s) : Machine.wantRemote p a s = .go t → Steady C W t := by
  fun_cases Machine.wantRemote p a s
  case case4 =>
    rintro ⟨⟩
    exact h.memFail
  all_goals rintro ⟨⟩

theorem Steady.wantSend (h : Steady C W s) : Machine.wantSend p phase page off pages got s = .go t → Steady C W t := by
  fun_cases Machine.wantSend p phase page off pages got s
  case case2 =>
    rintro ⟨⟩
    exact (h.foldl fun h => h.pinPage).setProg
  case case7 =>
    rintro ⟨⟩
    exact h.setProg
  case case8 =>
    rintro ⟨⟩
    exact h.unpinSend.memFail
  all_goals rintro ⟨⟩

theorem Steady.wantPush (h : Steady C W s) : Machine.wantPush p phase i off got s = .go t → Steady C W t := by
  fun_cases Machine.wantPush p phase i off got s
  case case3 =>
    rintro ⟨⟩
    exact h.startPush
  case case10 =>
    rintro ⟨⟩
    exact h.memFail
  case case12 =>
    rintro ⟨⟩
    exact h.memFail
  all_goals rintro ⟨⟩

/-- What a command in progress does next by itself. -/
theorem Steady.wantOf (h : Steady C W s) : Machine.wantOf o s = .go t → Steady C W t := by
  unfold Machine.wantOf
  extract_lets fetch
  have hfetch : ∀ x, (∀ t, x = .inr t → Steady C W t) → fetch x = .go t → Steady C W t := fun x hx => by
    unfold fetch
    split
    · rintro ⟨⟩
    · rintro ⟨⟩
      exact hx _ rfl
  split
  · split
    · rintro ⟨⟩
    · exact h.wantRemote
  · exact h.wantSend
  · exact h.wantPush
  · split
    · rintro ⟨⟩
    · split
      · rintro ⟨⟩
      · rintro ⟨⟩
  · split
    · split
      · rintro ⟨⟩
      · rintro ⟨⟩
    · rintro ⟨⟩
  · exact hfetch _ fun _ => h.stepRestore
  · exact hfetch _ fun _ => h.stepReadback
  · rintro ⟨⟩

theorem Steady.advanceOne (h : Steady C W s) : ∀ t ∈ Machine.advanceOne o s, Steady C W t := by
  unfold Machine.advanceOne
  split
  · rintro _ ⟨⟩
  · split
    · rintro _ ⟨⟩
    next e =>
      rintro _ ⟨⟩
      exact h.wantOf e
    · split
      · rintro _ ⟨⟩
      · split
        · rintro _ ⟨⟩
        · rintro _ ⟨⟩
          exact h.issue

theorem Steady.pumpN (h : Steady C W s) : Steady C W (Machine.pumpN n s) := by
  fun_induction Machine.pumpN n s
  · exact h
  next e ih => exact ih (Steady.findSome? (g := id) (fun _ => h.advanceOne) _ e)
  · exact h

theorem Steady.pump (h : Steady C W s) :
    Steady C W (Machine.pump s) :=
  h.pumpN

theorem Steady.effRemote (h : Steady C W s) :
    Steady C W (Machine.effRemote p s) :=
  Steady.ite h.postFree h.openCmd.pump

theorem Steady.claimRetry (h : Steady C W s) :
    Steady C W (Machine.claimRetry k s) := by
  fun_cases Machine.claimRetry k s
  · exact h.setProg.pump
  · exact h

theorem Steady.freshetBusy (h : Steady C W s) :
    Steady C W (Machine.freshetBusy k s) := by
  fun_cases Machine.freshetBusy k s
  · exact h
  · exact h.stopPush
  · exact h

/-! ## Parameters (R562, R563, R565) -/

theorem Steady.updGroup (h : Steady C W s) :
    Steady C W (Machine.updGroup id' num f s) := h.set rfl rfl

/-! ## Elements (R566, R570, R571) -/

theorem Steady.writeElems (h : Steady C W s) :
    Steady C W (Machine.writeElems p fmt base total e' d s).1 :=
  h.vstore.andThen (fun h => h.vstore)

theorem Steady.weirNarrow (h : Steady C W s) :
    Steady C W (Machine.weirNarrow job word half vs s).2 :=
  h.putGens

theorem Steady.redData (h : Steady C W s) (e : Machine.redData p x run k s = .ok (d, t)) : Steady C W t := by
  revert e
  fun_cases Machine.redData p x run k s
  · rintro ⟨⟩
  · rintro ⟨⟩
    exact h
  · rintro ⟨⟩
    exact h.weirNarrow

theorem Steady.slotResult (h : Steady C W s) :
    Steady C W (Machine.slotResult job x t' s).2 :=
  Steady.ite_snd h h.weirNarrow

/-! ## Ending -/

theorem Steady.freeGroup (h : Steady C W s) :
    Steady C W (Machine.freeGroup id' num s) := h.set rfl rfl

theorem Steady.settleGroups (h : Steady C W s) :
    Steady C W (Machine.settleGroups s) := by
  fun_cases Machine.settleGroups s
  refine h.foldl (fun h => ?_)
  split
  · split
    · exact Steady.ite h.freeGroup.postDone h
    · exact h.postDone
  · exact h

theorem Steady.leaveGroup (h : Steady C W s) :
    Steady C W (Machine.leaveGroup p num op s) :=
  h.dropWork.updGroup.fab

theorem Steady.endColl (h : Steady C W s) :
    Steady C W (Machine.endColl p num op status reason r0 r1 s) :=
  h.leaveGroup.postFinal.settleGroups

theorem Steady.failColl (h : Steady C W s) :
    Steady C W (Machine.failColl p num op e' s) :=
  h.leaveGroup.memFail.settleGroups

/-! ## The pool (R573, R574) -/

theorem Steady.sendGrant (h : Steady C W s) :
    Steady C W (Machine.sendGrant w s) :=
  h.sendPkt

theorem Steady.dropWait (h : Steady C W s) :
    Steady C W (Machine.dropWait w s) := h.set rfl rfl

theorem Steady.openSlot (h : Steady C W s) :
    Steady C W (Machine.openSlot w s) := by
  unfold Machine.openSlot
  split
  · refine Steady.ite h.fab ?_
    split
    · exact h.fab
    · exact h.failColl
  · exact h

theorem Steady.nextGrant (h : Steady C W s) : ∀ x ∈ Machine.nextGrant half s, Steady C W x.2 := by
  fun_cases Machine.nextGrant half s
  · rintro _ ⟨⟩
    exact h
  · rintro _ ⟨⟩
  · rintro _ ⟨⟩
    exact h
  · rintro _ ⟨⟩
  · exact Steady.map fun _ _ => h.fab

theorem Steady.grantOne (h : Steady C W s) : ∀ t ∈ Machine.grantOne half s, Steady C W t := by
  refine Steady.map (g := id) fun x hx => ?_
  extract_lets w s1 s2
  have h1 : Steady C W s1 := (h.nextGrant x hx).dropWait
  have h2 : Steady C W s2 := .ite h1 h1.openSlot
  exact .ite h2.sendGrant h2

theorem Steady.grantAll (h : Steady C W s) :
    Steady C W (Machine.grantAll half x s) := by
  fun_induction Machine.grantAll half x s
  · exact h
  next e ih =>
    exact ih (h.grantOne _ e)
  · exact h

theorem Steady.settleGrants (h : Steady C W s) :
    Steady C W (Machine.settleGrants s) :=
  h.grantAll.grantAll

/-! ## Running (R559, R564, R575) -/

theorem Steady.sendGroup (h : Steady C W s) :
    Steady C W (Machine.sendGroup p g op m k kind first per d s) :=
  h.fab.sendPkts

theorem Steady.sendNext (h : Steady C W s) :
    ∀ t ∈ Machine.sendNext p g op out s, Steady C W t := by
  fun_cases Machine.sendNext p g op out s
  · rintro _ ⟨⟩
  · rintro _ ⟨⟩
    exact h.markPhase.sendGroup
  · rintro _ ⟨⟩
    exact h.markPhase.sendGroup
  · rintro _ ⟨⟩
    exact h.failColl

theorem Steady.startColl (h : Steady C W s) :
    Steady C W (Machine.startColl p g op out recv s) := by
  fun_cases Machine.startColl p g op out recv s
  · exact h.setProg.failColl
  next e =>
    exact (h.setProg.vstore.fst e).failColl
  next e =>
    exact h.setProg.vstore.fst e
  · exact h.setProg

theorem Steady.advanceColl (h : Steady C W s) : ∀ t ∈ Machine.advanceColl g s, Steady C W t := by
  fun_cases Machine.advanceColl g s
  · intro t ht
    exact h.startColl.of_state_eq (Option.some.inj ht)
  · rintro _ ⟨⟩
  · intro t ht
    exact h.endColl.of_state_eq (Option.some.inj ht)
  · exact h.sendNext
  · rintro _ ⟨⟩
  · rintro _ ⟨⟩

theorem Steady.pumpGroups (h : Steady C W s) : Steady C W (Machine.pumpGroups n s) := by
  fun_induction Machine.pumpGroups n s
  · exact h
  next e ih => exact ih (Steady.findSome? (g := id) (fun _ => h.advanceColl) _ e)
  · exact h

theorem Steady.pumpAll (h : Steady C W s) :
    Steady C W (Machine.pumpAll s) :=
  h.pump.settleGrants.pumpGroups

theorem Steady.enterColl (h : Steady C W s) :
    Steady C W (Machine.enterColl p g table s) :=
  (Steady.ite h.updGroup.openCmd h.updGroup.openCmd.schedule).pumpAll

theorem Steady.effColl (h : Steady C W s) :
    Steady C W (Machine.effColl p s) := by
  fun_cases Machine.effColl p s
  · exact h.postErr
  · exact h.postFree
  · exact h.postErr
  · exact h.memFail
  · exact h.postFree
  · exact h.refuse
  · exact h.enterColl

theorem Steady.collStart (h : Steady C W s) :
    Steady C W (Machine.collStart k s) := by
  fun_cases Machine.collStart k s
  next e =>
    exact (h.takeDue _ e).pumpAll
  · exact h

theorem Steady.groupTimeout (h : Steady C W s) :
    Steady C W (Machine.groupTimeout id' num member s) := by
  fun_cases Machine.groupTimeout id' num member s
  · exact h
  · exact h.endColl.pumpAll
  · exact h

/-! ## GROUP_DEFINE (R556, R557, R561, R546) -/

theorem Steady.effGroupDefine (h : Steady C W s) :
    Steady C W (Machine.effGroupDefine p s) := by
  fun_cases Machine.effGroupDefine p s
  · exact h.postFree
  · exact h.memFail
  · exact h.postCap
  · exact h.postErr
  · exact h.fab.postDone

theorem Steady.effGroupRelease (h : Steady C W s) :
    Steady C W (Machine.effGroupRelease p s) := by
  fun_cases Machine.effGroupRelease p s
  · exact h.postErr
  · exact h.openCmd.settleGroups

theorem Steady.effSetDomain (h : Steady C W s) :
    Steady C W (Machine.effSetDomain p s) :=
  h.updJob.postDone

/-! ## Transit (R554) -/

theorem Steady.transit (h : Steady C W s) :
    Steady C W (Machine.transit p s) := by
  fun_cases Machine.transit p s
  · exact h.fab
  · exact h
  · exact h.fab.putPort

/-! ## Chunk checks (R533, R534) -/

theorem Steady.crcBad (h : Steady C W s) :
    Steady C W (Machine.crcBad p code s) :=
  Steady.ite h.sendNak.faultEvent1 h.sendNak

theorem Steady.assembleChunk (h : Steady C W s) :
    Steady C W (Machine.assembleChunk p code s).1 :=
  Steady.ite_fst h.setRx h.setRx

end Sys2Proof.Machine
end

section
/-! PROOFS. What every function of the model keeps: the commands that wait, and the form of the memories.
Packets that arrive, ports, and the commands on checkpoints. -/

namespace Sys2Proof.Machine

open Sys2Proof

variable {C : List Instr} {W : Prop} {s t : State}

/-! ## Requests at their destination (R533 to R547) -/

theorem Steady.sendAnswerPkt (h : Steady C W s) :
    Steady C W (Machine.sendAnswerPkt p kind job dest d s) :=
  h.sendChunk

theorem Steady.applyReq (h : Steady C W s) :
    Steady C W (Machine.applyReq p d s) := by
  fun_cases Machine.applyReq p d s
  · exact h.doReqAny.sendDeny
  · exact h.doReqAny.sendAck
  · exact h.doReqAny.sendAnswerPkt
  · exact h.doReqAny.sendAnswerPkt

theorem Steady.scrambleChunk (h : Steady C W s) :
    Steady C W (Machine.scrambleChunk p d s) := by
  fun_cases Machine.scrambleChunk p d s
  · exact h
  · exact h.nextFree.vwrite
  · exact h

theorem Steady.takeRequest (h : Steady C W s) :
    Steady C W (Machine.takeRequest p s) := by
  fun_cases Machine.takeRequest p s
  · exact h.takeChunk
  · exact h.takeChunk.applyReq.pumpAll
  · exact h.takeChunk.scrambleChunk.crcBad
  · exact h.takeChunk.sendNak
  · exact h.takeChunk.resend
  · exact h.takeChunk.sendAck

/-! ## Ends of commands by their chunks -/

theorem Steady.endByChunk (h : Steady C W s) :
    Steady C W (Machine.endByChunk c status reason r0 s) := by
  fun_cases Machine.endByChunk c status reason r0 s
  · exact h
  · exact h.endColl
  · exact h.dropWork.postFinal
  · exact h.answer
  · exact h.dropWork.postFinal
  · exact h.answer
  · exact h.answer

theorem Steady.chunkFailed (h : Steady C W s) :
    Steady C W (Machine.chunkFailed c again s) :=
  Steady.ite (Steady.ite h.fab.resend h.fab) ((Steady.ite h.dropChunk.setSeq h.dropChunk).endByChunk)

/-! ## Answers at the source (R539, R540) -/

theorem Steady.scrambleAnswer (h : Steady C W s) :
    Steady C W (Machine.scrambleAnswer o a d s) :=
  Steady.ite h.nextFree.vwrite h

theorem Steady.takeAnswerPkt (h : Steady C W s) :
    Steady C W (Machine.takeAnswerPkt p s) := by
  unfold Machine.takeAnswerPkt
  dsimp only
  split
  · exact h.assembleChunk
  · split
    · exact Steady.ite h.assembleChunk.sendAck h.assembleChunk.crcBad
    · refine Steady.ite (((Steady.crcBad ?_).chunkFailed).pumpAll) ?_
      · split
        · exact h.assembleChunk.scrambleAnswer
        · exact h.assembleChunk
      · split
        · exact h.assembleChunk.sendAck.dropChunk.pumpAll
        · exact h.assembleChunk.sendAck.dropChunk.answer.pumpAll

/-! ## ACK, NAK, DENY at the source (R534, R547) -/

theorem Steady.bumpOut (h : Steady C W s) :
    Steady C W (Machine.bumpOut c o s) := by
  fun_cases Machine.bumpOut c o s
  · exact h.setProg
  · exact h
  · exact h

theorem Steady.takeAck (h : Steady C W s) :
    Steady C W (Machine.takeAck p s) := by
  fun_cases Machine.takeAck p s
  · exact h
  · exact h.dropChunk
  · exact h.dropChunk.pumpAll
  · exact h.dropChunk.answer.pumpAll
  · exact h.dropChunk.pumpAll
  · exact h.dropChunk.bumpOut.pumpAll
  · exact h

theorem Steady.takeNak (h : Steady C W s) :
    Steady C W (Machine.takeNak p s) := by
  fun_cases Machine.takeNak p s
  · exact h
  · exact h.dropChunk
  · exact h.chunkFailed.pumpAll
  · exact h.resend

theorem Steady.takeDeny (h : Steady C W s) :
    Steady C W (Machine.takeDeny p s) := by
  fun_cases Machine.takeDeny p s
  · exact h
  · exact h.dropChunk.endByChunk.pumpAll

/-! ## Group operations at the receiver (R559, R571, R573) -/

theorem Steady.mismatch (h : Steady C W s) :
    Steady C W (Machine.mismatch p o num op s) :=
  h.sendPkt.endColl.pumpAll

theorem Steady.takeGrantReq (h : Steady C W s) :
    Steady C W (Machine.takeGrantReq p s) := by
  unfold Machine.takeGrantReq
  dsimp only
  split
  · exact h.sendDeny
  · split
    · exact h
    · split
      · split
        · split
          · exact h.mismatch
          · exact Steady.ite h.mismatch (Steady.ite h.sendGrant (Steady.ite h h.fab.pumpAll))
        · exact h
      · refine Steady.ite h ?_
        split
        · exact Steady.ite h h.fab.pumpAll
        · exact h

theorem Steady.takeGrant (h : Steady C W s) : Steady C W (Machine.takeGrant p s) := by
  unfold Machine.takeGrant
  extract_lets job num hit
  split
  · exact h
  · split
    · split
      · extract_lets x m run k s1
        have h1 : Steady C W s1 := h.dropChunk.setProg.markPhase
        split
        · exact h1.failColl.pumpAll
        next e => exact (h1.redData e).sendGroup
      · exact h
    · exact h

theorem Steady.countIn (h : Steady C W s) :
    Steady C W (Machine.countIn o g m s) := by
  fun_cases Machine.countIn o g m s
  · exact h.setProg
  · exact h

theorem Steady.applyColl (h : Steady C W s) :
    Steady C W (Machine.applyColl p o g op m k d s) := by
  fun_cases Machine.applyColl p o g op m k d s
  next e =>
    exact ((h.markPhase.vstore.fst e).failColl).pumpAll
  next e =>
    exact (((h.markPhase.vstore.fst e).countIn).sendAck).pumpAll

theorem Steady.applyRed (h : Steady C W s) :
    Steady C W (Machine.applyRed p o g op m k senders d s) := by
  unfold Machine.applyRed
  dsimp only
  split
  · exact h.sendNak
  · refine Steady.ite h.markPhase.fab.countIn.sendAck.pumpAll ?_
    split
    next e =>
      exact ((h.markPhase.fab.slotResult.writeElems.fst e).failColl).pumpAll
    next e =>
      exact (((h.markPhase.fab.slotResult.writeElems.fst e).countIn).sendAck).pumpAll

theorem Steady.takeGroupData (h : Steady C W s) :
    Steady C W (Machine.takeGroupData p s) := by
  fun_cases Machine.takeGroupData p s
  · exact h.sendDeny
  · exact h
  · exact h.assembleChunk.sendAck
  · exact h.assembleChunk.sendNak
  · exact (Steady.ite h.assembleChunk h.assembleChunk.nextFree.vwrite).crcBad
  · exact h.assembleChunk.mismatch
  · exact h.assembleChunk.mismatch
  · exact h.assembleChunk.sendAck
  · exact h.assembleChunk.sendNak
  · exact h.assembleChunk.applyRed
  · exact h.assembleChunk.applyColl
  · exact h.assembleChunk
  · exact h.assembleChunk

/-! ## Packets that arrive -/

theorem Steady.takeOwn (h : Steady C W s) :
    Steady C W (Machine.takeOwn p s) := by
  fun_cases Machine.takeOwn p s
  case case5 =>
    exact h.takeAnswerPkt
  case case6 =>
    exact h.takeAnswerPkt
  case case7 =>
    exact h.takeAck
  case case8 =>
    exact h.takeNak
  case case9 =>
    exact h.takeDeny
  case case10 =>
    exact h.takeGrantReq
  case case11 =>
    exact h.takeGrant
  case case12 =>
    exact h.takeGroupData
  case case13 =>
    exact h.takeGroupData
  case case14 =>
    exact h
  all_goals exact h.takeRequest

theorem Steady.takePacket (h : Steady C W s) :
    Steady C W (Machine.takePacket p s) :=
  Steady.ite h.transit (Steady.ite h.fab h.takeOwn)

theorem Steady.releasePkts (h : Steady C W s) :
    Steady C W (Machine.releasePkts x s) := by
  fun_induction Machine.releasePkts x s
  · exact h
  next ih =>
    exact ih h.fab
  next ih =>
    exact ih h.takeOwn

theorem Steady.motionEnds (h : Steady C W s) :
    Steady C W (Machine.motionEnds s) :=
  h.fab.releasePkts.pumpAll

/-! ## Time-outs (R534, R550) -/

theorem Steady.retransmit (h : Steady C W s) :
    Steady C W (Machine.retransmit dst stream chunk s) := by
  fun_cases Machine.retransmit dst stream chunk s
  · exact h.resend
  · exact h

theorem Steady.destUnreachable (h : Steady C W s) :
    Steady C W (Machine.destUnreachable k s) := by
  fun_cases Machine.destUnreachable k s
  · exact h
  · exact h
  · exact h.peerLost.pumpAll
  · exact h.endColl.pumpAll
  · exact h.abortOpen.pumpAll
  · exact h.dropWork.unpinSend.postErr.pumpAll
  · exact h.dropWork.postErr.pumpAll

/-! ## The native link (R522 to R525) -/

theorem Steady.replyFlit (h : Steady C W s) :
    Steady C W (Machine.replyFlit q nak credit s) := h.set rfl rfl

theorem Steady.flitAck (h : Steady C W s) :
    Steady C W (Machine.flitAck q f s) :=
  (Steady.ite (h.updPort.updPort.foldl (fun h => h.putLine)) h.updPort).drain

theorem Steady.flitData (h : Steady C W s) :
    Steady C W (Machine.flitData q f s) :=
  Steady.ite h.updPort.takePacket h.updPort

theorem Steady.flitIn (h : Steady C W s) : Steady C W (Machine.flitIn q f s) :=
  have ha := h.updPort.flitAck.replyFlit
  .ite h (.ite (.ite h h.replyFlit)
    (.ite (.ite h.replyFlit (.ite ha.flitData ha)) (.ite h.flitAck h)))

theorem Steady.ethIn (h : Steady C W s) :
    Steady C W (Machine.ethIn q fcsOk udpOk p s) :=
  Steady.ite h (Steady.ite h.updPort (Steady.ite h.takePacket h))

/-! ## Ports (R517 to R521, R577 to R580, R737) -/

theorem Steady.portTrained (h : Steady C W s) :
    Steady C W (Machine.portTrained q peer peerPort delay s) :=
  Steady.ite h.updPort h

theorem Steady.portFailed (h : Steady C W s) :
    Steady C W (Machine.portFailed q cause s) :=
  Steady.ite h.updPort.faultEvent1 h

theorem Steady.spareFailover (h : Steady C W s) :
    Steady C W (Machine.spareFailover f q peerSpare s) :=
  Steady.ite h.updPort h

theorem Steady.spareUnfit (h : Steady C W s) :
    Steady C W (Machine.spareUnfit q lane s) :=
  Steady.ite h.updPort.faultEvent1 h

theorem Steady.spareFit (h : Steady C W s) :
    Steady C W (Machine.spareFit q s) := h.set rfl rfl

theorem Steady.cablePresence (h : Steady C W s) :
    Steady C W (Machine.cablePresence k present s) :=
  h.foldl (fun h => h.updPort)

/-! ## LINK_PATTERN (R577 to R579) -/

theorem Steady.effLinkPattern (h : Steady C W s) :
    Steady C W (Machine.effLinkPattern p s) :=
  Steady.ite h.postFree (Steady.ite h.postErr h.updPort.openCmd)

theorem Steady.endPattern (h : Steady C W s) :
    Steady C W (Machine.endPattern o q errs bits s) :=
  h.updPort.postDone

theorem Steady.effLinkPatternStop (h : Steady C W s) :
    Steady C W (Machine.effLinkPatternStop p s) := by
  fun_cases Machine.effLinkPatternStop p s
  · exact h.postFree
  · exact h.fresh.endPattern.postDone
  · exact h.postDone
  · exact h.postErr

theorem Steady.linkPatternEnd (h : Steady C W s) :
    Steady C W (Machine.linkPatternEnd q errs bits s) := by
  fun_cases Machine.linkPatternEnd q errs bits s
  · exact h.endPattern
  · exact h
  · exact h
  · exact h

/-! ## TAKE (R586 to R591) -/

theorem Steady.startTake (h : Steady C W s) :
    Steady C W (Machine.startTake p j c s) :=
  Steady.ite h.updJob.openCmd.schedule.pumpAll (Steady.ite h.updJob.openCmd.freezeCkpt h.updJob.openCmd.pumpAll)

theorem Steady.takeSlots (h : Steady C W s) : Steady C W (Machine.takeSlots p j hdrs slots s) := by
  unfold Machine.takeSlots
  extract_lets c s1 ready
  have h1 : Steady C W s1 := h.updJob
  have hready : ∀ t ∈ ready, Steady C W t := by
    unfold ready
    split
    · rintro _ ⟨⟩
      exact h
    · intro t ht
      obtain ⟨g, -, hg⟩ := Option.bind_eq_some_iff.1 ht
      exact Steady.map (g := id) (fun u hu => (h1.beginParity u hu).updJob) t hg
  split
  · exact h.postErr
  · exact h.refuse
  next e _ => exact (hready _ e).startTake

theorem Steady.effTake (h : Steady C W s) :
    Steady C W (Machine.effTake p s) := by
  fun_cases Machine.effTake p s
  · exact h.postFree
  · exact h.postFree
  · exact h.postErr
  · exact h.memFail
  · exact h.postFinal
  · exact h.postErr
  · exact h.postCap
  · exact h.takeSlots

/-! ## HOLD and DISCARD (R601, R608, R609) -/

theorem Steady.effHold (h : Steady C W s) :
    Steady C W (Machine.effHold p s) := by
  fun_cases Machine.effHold p s
  · exact h.updJob.postDone
  · exact h.postCap
  · exact h.postFree

theorem Steady.discardHold (h : Steady C W s) :
    Steady C W (Machine.discardHold p j s) := by
  fun_cases Machine.discardHold p j s
  · exact h.postErr
  · exact h.postErr
  · exact h.freeOxbow.updJob.postDone

theorem Steady.effCkptDiscard (h : Steady C W s) :
    Steady C W (Machine.effCkptDiscard p s) := by
  fun_cases Machine.effCkptDiscard p s
  · exact h.postFree
  · exact h.discardHold
  · exact h.postErr
  · exact h.postErr
  · exact h.dropCkpt.postDone

/-! ## READBACK, EXPORT, LIST (R612 to R615) -/

theorem Steady.effReadback (h : Steady C W s) :
    Steady C W (Machine.effReadback p s) := by
  fun_cases Machine.effReadback p s
  · exact h.openCmd.pumpAll
  · exact h.postErr
  · exact h.postErr

theorem Steady.exportShards (h : Steady C W s) :
    Steady C W (Machine.exportShards p c x x' x'' s) := by
  fun_induction Machine.exportShards p c x x' x'' s
  · exact h.postDone
  · exact h.postDone
  next e =>
    exact (h.vstore.fst e).memFail
  next e ih =>
    exact ih (h.vstore.fst e)

theorem Steady.effExport (h : Steady C W s) :
    Steady C W (Machine.effExport p s) := by
  fun_cases Machine.effExport p s
  · exact h.exportShards
  · exact h.postErr
  · exact h.postErr

theorem Steady.effList (h : Steady C W s) :
    Steady C W (Machine.effList p s) := by
  fun_cases Machine.effList p s
  · exact h.postFree
  · exact h.vstore.finishMem

/-! ## RESTORE (R616) -/

theorem Steady.effRestore (h : Steady C W s) :
    Steady C W (Machine.effRestore p s) :=
  Steady.ite h.postFree h.openCmd.pumpAll

/-! ## ROLLBACK (R622, R623) -/

theorem Steady.putBack (h : Steady C W s) :
    Steady C W (Machine.putBack p c x s).1 := by
  fun_induction Machine.putBack p c x s
  · exact h
  next e =>
    exact h.vstore.fst e
  next e ih =>
    exact ih (h.vstore.fst e)

theorem Steady.runRollback (h : Steady C W s) :
    Steady C W (Machine.runRollback p j c s) := by
  fun_cases Machine.runRollback p j c s
  next e =>
    exact (h.markPhase.putBack.fst e).memFail
  next e _ =>
    exact (Steady.ite ((h.markPhase.putBack.fst e).foldl (fun h => h.setTagAt)) (h.markPhase.putBack.fst e)).postDone

theorem Steady.settleRollbacks (h : Steady C W s) :
    Steady C W (Machine.settleRollbacks s) := by
  fun_cases Machine.settleRollbacks s
  refine h.foldl (fun h => ?_)
  split
  · split
    · exact Steady.ite h.runRollback (Steady.ite h.postErr h)
    · exact h.postErr
  · exact h

theorem Steady.discardNewer (h : Steady C W s) :
    Steady C W (Machine.discardNewer id' c s) := by
  unfold Machine.discardNewer
  refine Steady.dropCkpt ?_
  split
  · exact h.abortOpen
  · exact h

theorem Steady.effRollback (h : Steady C W s) :
    Steady C W (Machine.effRollback p s) := by
  fun_cases Machine.effRollback p s
  · exact h.postFree
  · exact h.postErr
  · exact h.postFinal
  · exact h.postErr
  · exact ((h.foldl (fun h => h.discardNewer)).openCmd).settleRollbacks

/-! ## SHRINK (R625) -/

theorem Steady.shrinkGroup (h : Steady C W s) :
    Steady C W (Machine.shrinkGroup g s) := by
  fun_cases Machine.shrinkGroup g s
  refine ((h.foldl (fun h => ?_)).freeGroup).settleGroups
  split
  · exact Steady.ite h.leaveGroup.postFinal h
  · exact h

theorem Steady.shrinkCkpt (h : Steady C W s) :
    Steady C W (Machine.shrinkCkpt id' m c s) :=
  Steady.ite h (Steady.ite h.peerLost h.updCkpt)

theorem Steady.effShrink (h : Steady C W s) :
    Steady C W (Machine.effShrink p s) :=
  ((((h.foldl (fun h => h.shrinkGroup)).foldl (fun h => h.abortOpen)).foldl (fun h => h.shrinkCkpt)).postDone).pumpAll

/-! ## Rows -/

theorem Steady.groupTimeoutAll (h : Steady C W s) :
    Steady C W (Machine.groupTimeoutAll id' num member s) := by
  fun_cases Machine.groupTimeoutAll id' num member s
  · exact h.groupTimeout
  · exact h.groupTimeout
  · exact h.groupTimeout.peerLost.pumpAll
  · exact h.groupTimeout

end Sys2Proof.Machine
end

section
/-! PROOFS. What every function of the model keeps: the commands that wait, and the form of the memories.
Aborts, queues, fault events, block resets and tests. -/

namespace Sys2Proof.Machine

open Sys2Proof

variable {C : List Instr} {W : Prop} {s t : State}

/-! ## What stops (R652 and the rules it names) -/

theorem Steady.stopNow (h : Steady C W s) :
    Steady C W (Machine.stopNow o s) :=
  h.abortOpen

theorem Steady.stopStep (h : Steady C W s) :
    Steady C W (Machine.stopStep k p status reason r0 r1 s) := by
  fun_cases Machine.stopStep k p status reason r0 r1 s
  · exact (Steady.ite h.dropStage6.lastBoundary h).endStep
  · exact Steady.ite h.dropStage6.lastBoundary h
  · exact h.endStep

theorem Steady.abortSteps (h : Steady C W s) :
    Steady C W (Machine.abortSteps k p s) :=
  Steady.ite h h.stopStep

theorem Steady.stopRequest (h : Steady C W s) :
    Steady C W (Machine.stopRequest id' k slot s) := by
  fun_cases Machine.stopRequest id' k slot s
  · exact h
  · exact h.setSe.touch
  · exact h.setSe.touch.endings

theorem Steady.dropCancel (h : Steady C W s) :
    Steady C W (Machine.dropCancel p k s) := by
  fun_cases Machine.dropCancel p k s
  · exact h
  · exact h
  · exact h
  · exact h.setSe

theorem Steady.discardImages (h : Steady C W s) :
    Steady C W (Machine.discardImages p c s) :=
  Steady.ite h (h.foldl (fun h => h.sendReq))

theorem Steady.stopTake (h : Steady C W s) :
    Steady C W (Machine.stopTake o id' ckpt s) := by
  fun_cases Machine.stopTake o id' ckpt s
  · exact h.stopNow
  · exact h.updCkpt.ctr.discardImages.stopNow

theorem Steady.stopOutside (h : Steady C W s) :
    Steady C W (Machine.stopOutside o s) := by
  fun_cases Machine.stopOutside o s
  · exact h.discardImages
  · exact h
  · exact h.updDie
  · exact h.updPort
  · exact h

theorem Steady.viReset (h : Steady C W s) :
    Steady C W (Machine.viReset n s) :=
  ((h.foldl (fun h => h.stopOutside)).startViReset).motionEnds

theorem Steady.scrambleCovered (h : Steady C W s) :
    Steady C W (Machine.scrambleCovered n id' ckpt s) := by
  fun_cases Machine.scrambleCovered n id' ckpt s
  · exact h
  · exact h.foldl (fun h => h.nextFree.vwrite)

theorem Steady.stopStart (h : Steady C W s) :
    Steady C W (Machine.stopStart id' s) := by
  fun_cases Machine.stopStart id' s
  · exact h
  · exact h.preempt
  · exact h.sched.updJob.closeStart

theorem Steady.stopTiles (h : Steady C W s) :
    Steady C W (Machine.stopTiles o s) :=
  Steady.ite h.tiles h.tiles.scrambleOut.stopNow.settleSlots

theorem Steady.stopOpen (h : Steady C W s) :
    Steady C W (Machine.stopOpen o s) := by
  fun_cases Machine.stopOpen o s
  case case1 =>
    exact h.stopTiles
  case case2 =>
    exact h.stopTiles
  case case3 =>
    exact h.stopTiles
  case case4 =>
    exact h.setProg.finishMigrate
  case case5 =>
    exact h.updRoll.stopNow
  case case6 =>
    exact h.abortSteps
  case case7 =>
    exact h.abortSteps
  case case8 =>
    exact h.stopRequest
  case case9 =>
    exact h.dropCancel.stopNow
  case case10 =>
    exact h.setTh.stopNow
  case case12 =>
    exact h.unpinSend.stopNow
  case case13 =>
    exact h.cancelSched.stopNow
  case case14 =>
    exact h.updModel.stopNow
  case case15 =>
    exact h.setProg
  case case17 =>
    exact h.endColl
  case case18 =>
    exact h.stopTake
  case case19 =>
    exact h.scrambleTargets.stopNow
  case case20 =>
    exact h.scrambleCovered.stopNow
  case case21 =>
    exact h.stopStart
  case case22 =>
    exact h.updDie.stopNow
  case case23 =>
    exact h.updPort.stopNow
  case case24 =>
    exact h.stopNow.settleSlots
  case case25 =>
    exact h.stopNow.settleSlots
  all_goals exact h.stopNow

/-! ## ABORT (R650 to R653) -/

theorem Steady.settleAborts (h : Steady C W s) :
    Steady C W (Machine.settleAborts s) := by
  fun_cases Machine.settleAborts s
  refine h.foldl (fun h => ?_)
  split
  · exact Steady.ite h.finishAbort h.setProg
  · exact h

theorem Steady.abortHeld (h : Steady C W s) :
    Steady C W (Machine.abortHeld p s) :=
  h.unhold.postFinal

theorem Steady.runAbort (h : Steady C W s) :
    Steady C W (Machine.runAbort p held running s) := by
  fun_cases Machine.runAbort p held running s
  refine (((((h.foldl (fun h => h.abortHeld)).openCmd).foldl (fun h => ?_)).settleAborts).pumpAll).fetchAll
  split
  · exact h.stopOpen
  · exact h

theorem Steady.effAbortPacket (h : Steady C W s) :
    Steady C W (Machine.effAbortPacket p s) := by
  fun_cases Machine.effAbortPacket p s
  · exact h.runAbort
  · exact h.runAbort
  · exact h.postFinal

theorem Steady.effAbortJob (h : Steady C W s) :
    Steady C W (Machine.effAbortJob p s) :=
  h.runAbort

theorem Steady.effJobEndAll (h : Steady C W s) :
    Steady C W (Machine.effJobEndAll p s) := by
  fun_cases Machine.effJobEndAll p s
  · refine ((h.foldl (fun h => ?_)).endJob).motionEnds
    split
    · exact h.stopOpen
    · exact h
  · exact h.effJobEnd.motionEnds

/-! ## A command whose data met a fault -/

theorem Steady.failOpen (h : Steady C W s) :
    Steady C W (Machine.failOpen o status reason r0 r1 s) := by
  fun_cases Machine.failOpen o status reason r0 r1 s
  case case1 =>
    exact h.endColl
  case case2 =>
    exact h.stopStep
  case case3 =>
    exact h.stopStep
  case case4 =>
    exact h.dropWork.unpinSend.postFinal
  case case5 =>
    exact h.failTake
  case case13 =>
    exact h.dropWork.postFinal.settleSlots
  all_goals exact h

/-! ## Doorbells (R55, R62, R73) -/

theorem Steady.sqTail (h : Steady C W s) :
    Steady C W (Machine.sqTail n q value s) :=
  Steady.ite h.setDbErr (Steady.ite h h.updSq.fetchAll)

theorem Steady.cqHead (h : Steady C W s) :
    Steady C W (Machine.cqHead n q value s) :=
  Steady.ite h.setDbErr (Steady.ite h h.updCq.roomMade.fetchAll)

/-! ## Queue configuration (R50 to R53) -/

theorem Steady.sqCfg (h : Steady C W s) :
    Steady C W (Machine.sqCfg n q value s) := h.set rfl rfl

theorem Steady.countMet (h : Steady C W s) :
    Steady C W (Machine.countMet n q s) :=
  Steady.ite h.updCq.raiseVec h

theorem Steady.cqCfg (h : Steady C W s) :
    Steady C W (Machine.cqCfg n q value s) :=
  h.updCq.countMet.roomMade.fetchAll

/-! ## VI reset (R74, R75) -/

theorem Steady.viResetDone (h : Steady C W s) :
    Steady C W (Machine.viResetDone n s) :=
  Steady.ite h.vis h

/-! ## Interrupts (R66, R776) -/

theorem Steady.irqExpire (h : Steady C W s) :
    Steady C W (Machine.irqExpire n c s) :=
  Steady.ite h.updCq.raiseVec h

theorem Steady.msixWrite (h : Steady C W s) :
    Steady C W (Machine.msixWrite n k dw value s) :=
  h.updVi.sendPending

/-! ## Events (R666 to R678) -/

theorem Steady.failAccess (h : Steady C W s) :
    Steady C W (Machine.failAccess a status reason s) := by
  fun_cases Machine.failAccess a status reason s
  · exact h
  · exact h.failOpen
  · exact h

theorem Steady.markParity (h : Steady C W s) :
    Steady C W (Machine.markParity a s) := by
  fun_cases Machine.markParity a s
  · exact h.updStk
  · exact h

theorem Steady.poolParity (h : Steady C W s) :
    Steady C W (Machine.poolParity half slot s) := by
  fun_cases Machine.poolParity half slot s
  · exact h
  · exact h.endColl.pumpAll
  · exact h

theorem Steady.faultEffect (h : Steady C W s) :
    Steady C W (Machine.faultEffect u n info a s) := by
  fun_cases Machine.faultEffect u n info a s
  case case5 =>
    exact h.updHub.markParity.failAccess
  case case6 =>
    exact h.updStk
  case case7 =>
    exact h.updStk
  case case8 =>
    exact h.updStk.failAccess
  case case9 =>
    exact h.poolParity
  case case10 =>
    exact h
  all_goals exact h.failAccess

theorem Steady.faultEvent (h : Steady C W s) :
    Steady C W (Machine.faultEvent u n info a s) :=
  Steady.ite h h.faultEffect.faultEvents

theorem Steady.windowClose (h : Steady C W s) :
    Steady C W (Machine.windowClose u s) :=
  Steady.ite h.updFault h

/-! ## Registers of the units and of the ring (R664, R670, R677) -/

theorem Steady.statClear (h : Steady C W s) :
    Steady C W (Machine.statClear u value s) := h.set rfl rfl

/-! ## FAULT_POLICY (R679 to R681) -/

theorem Steady.setPolicies (h : Steady C W s) :
    Steady C W (Machine.setPolicies cfg us s) :=
  h.foldl (fun h => h.updFault)

theorem Steady.faultPolicy (h : Steady C W s) :
    Steady C W (Machine.faultPolicy set' p s) := by
  fun_cases Machine.faultPolicy set' p s
  · exact h.postErr
  · exact h.postErr
  · exact h.refuse
  · exact (Steady.ite (h.setPolicies.foldl (fun h => h.journal)) h.setPolicies).postDone

theorem Steady.effFaultPolicySet (h : Steady C W s) :
    Steady C W (Machine.effFaultPolicySet p s) :=
  h.faultPolicy

theorem Steady.effFaultPolicyDefaults (h : Steady C W s) :
    Steady C W (Machine.effFaultPolicyDefaults p s) :=
  h.faultPolicy

/-! ## Event records (R728, R730, R731) -/

theorem Steady.programRecord (h : Steady C W s) :
    Steady C W (Machine.programRecord s) := by
  fun_cases Machine.programRecord s
  · exact h
  · exact h.boot
  · exact h.set rfl rfl

/-! ## Block reset (R654 to R656, R16) -/

theorem Steady.abortTest (h : Steady C W s) :
    Steady C W (Machine.abortTest d c s) :=
  Steady.ite h.updDie h

theorem Steady.blockReset (h : Steady C W s) :
    Steady C W (Machine.blockReset b s) := by
  fun_cases Machine.blockReset b s
  · exact h
  · exact h.startBlockReset.abortTest
  · exact h.startBlockReset

theorem Steady.resetTile (h : Steady C W s) :
    Steady C W (Machine.resetTile b o t' s) :=
  Steady.ite h.idleUnit.tiles.tileAborted (Steady.ite h.idleUnit.tiles.countResets
      h.idleUnit.dropTiles.postReset.settleSlots)

theorem Steady.resetTiles (h : Steady C W s) :
    Steady C W (Machine.resetTiles d c s) := by
  fun_cases Machine.resetTiles d c s
  refine h.foldl (fun h => ?_)
  split
  · exact Steady.ite h.resetTile h
  · exact h

theorem Steady.resetMove (h : Steady C W s) :
    Steady C W (Machine.resetMove h' n g mv s) := by
  fun_cases Machine.resetMove h' n g mv s
  · exact h.setMove.countResets
  · exact h.updVi.releaseHome.postReset
  · exact h.updVi.releaseHome

theorem Steady.resetPool (h : Steady C W s) :
    Steady C W (Machine.resetPool h' s) := by
  fun_cases Machine.resetPool h' s
  refine (h.foldl (fun h => ?_)).pumpAll
  split
  · exact h.endColl.countResets
  · exact h

theorem Steady.drainReset (h : Steady C W s) :
    Steady C W (Machine.drainReset b s) := by
  fun_cases Machine.drainReset b s
  · exact h.resetTiles.updCore
  · exact h
  · exact ((h.foldl (fun h => h.resetMove)).updHub).motionEnds
  · exact h
  · exact h.updStk
  · exact h.resetPool.fab
  · exact h.updDie
  · exact h.updDie

theorem Steady.blockDrainEnd (h : Steady C W s) :
    Steady C W (Machine.blockDrainEnd b s) :=
  Steady.ite h.drainReset.blkRst h

theorem Steady.blockRejoin (h : Steady C W s) :
    Steady C W (Machine.blockRejoin b s) := by
  fun_cases Machine.blockRejoin b s
  · exact h.blkRst.handBack
  · exact h.blkRst
  · exact h.blkRst
  · exact h

/-! ## Slots (R684 to R686) -/

theorem Steady.startSlot (h : Steady C W s) :
    Steady C W (Machine.startSlot d c s) :=
  Steady.ite h.updDie h.updDie.askCapo

theorem Steady.beginCoreTest (h : Steady C W s) :
    Steady C W (Machine.beginCoreTest d k c s) :=
  Steady.ite h.updDie.updCore (Steady.ite h.updDie h.updDie.startSlot)

theorem Steady.nextSlot (h : Steady C W s) :
    Steady C W (Machine.nextSlot d s) := by
  fun_cases Machine.nextSlot d s
  · exact h
  · exact h.startSlot
  · exact h.startSlot
  · exact h
  · exact h

theorem Steady.slotStart (h : Steady C W s) :
    Steady C W (Machine.slotStart d s) := by
  fun_cases Machine.slotStart d s
  next e =>
    exact (h.takeDue _ e).beginCoreTest
  · exact h.nextSlot
  · exact h.nextSlot

theorem Steady.judgeTest (h : Steady C W s) :
    Steady C W (Machine.judgeTest d c failUnit us s) := by
  fun_cases Machine.judgeTest d c failUnit us s
  · exact Steady.ite h.updDie h.updDie.faultEvent1
  · exact ((Steady.ite h.updDie h.updDie.faultEvent1).updDie).postDone
  · exact (Steady.ite h.updDie h.updDie.faultEvent1).updDie
  · exact Steady.ite h.updDie h.updDie.faultEvent1

theorem Steady.slotEnd (h : Steady C W s) :
    Steady C W (Machine.slotEnd d failUnit us s) :=
  Steady.ite h (Steady.ite (Steady.ite h.updDie h.updDie.judgeTest) ((Steady.ite h.updDie h.updDie.judgeTest).askCapo))

/-! ## Slices (R687) -/

theorem Steady.sliceStart (h : Steady C W s) :
    Steady C W (Machine.sliceStart d s) :=
  (h.foldl (fun h => h.updCore)).askCapo

theorem Steady.sliceEnd (h : Steady C W s) :
    Steady C W (Machine.sliceEnd d c failUnit us s) :=
  Steady.ite h (Steady.ite h.updCore h.updCore.judgeTest)

/-! ## SELFTEST (R689, R690) -/

theorem Steady.effSelftestCore (h : Steady C W s) :
    Steady C W (Machine.effSelftestCore p s) := by
  fun_cases Machine.effSelftestCore p s
  · exact h.postFree
  · exact h.postErr
  · exact h.postCap
  · exact h.openCmd.beginCoreTest
  · exact h.refuse
  · exact h.openCmd.schedule.updDie

theorem Steady.effSelftestSliced (h : Steady C W s) :
    Steady C W (Machine.effSelftestSliced p s) :=
  Steady.ite h.postFree ((h.updDie.foldl (fun h => h.updCore)).postDone)

theorem Steady.effSelftestStop (h : Steady C W s) :
    Steady C W (Machine.effSelftestStop p s) :=
  Steady.ite h.postFree ((h.updDie.foldl (fun h => h.updCore)).postDone)

theorem Steady.effSelftestRotation (h : Steady C W s) :
    Steady C W (Machine.effSelftestRotation p s) :=
  Steady.ite h.postFree h.updDie.postDone

end Sys2Proof.Machine
end

section
/-! PROOFS. What every function of the model keeps: the commands that wait, and the form of the memories.
Boot, power, firmware and configuration. -/

namespace Sys2Proof.Machine

open Sys2Proof

variable {C : List Instr} {W : Prop} {s t : State}

/-! ## Chip reset (R15, R673, R717, R745) -/

theorem Steady.programAll (h : Steady C W s) :
    Steady C W (Machine.programAll x s) := by
  fun_induction Machine.programAll x s
  · exact h
  · exact h
  next ih =>
    exact ih h.programRecord

/-- Blocks at their Reset values: device and scratch memory list nothing, host and remote memory stay. -/
theorem Steady.freshModule (h : Steady C W s) : Steady C W (Machine.freshModule w b s) where
  pending := h.pending
  memWf hw := by
    obtain ⟨-, hh, hr, -⟩ := memWf_iff.1 (h.memWf hw)
    exact memWf_iff.2 ⟨rfl, hh, hr, rfl⟩

theorem Steady.chipReset (h : Steady C W s) :
    Steady C W (Machine.chipReset reason s) :=
  (Steady.ite h h.programAll).freshModule

theorem Steady.chipResetRow (h : Steady C W s) :
    Steady C W (Machine.chipResetRow reason s) :=
  Steady.ite h.chipReset h

theorem Steady.trialTimeout (h : Steady C W s) :
    Steady C W (Machine.trialTimeout s) :=
  Steady.ite h.boot.chipReset h

/-! ## t = 0 (R85, R701, R743) -/

theorem Steady.bootStart (h : Steady C W s) :
    Steady C W (Machine.bootStart s) :=
  Steady.ite (h.set rfl rfl) h

/-! ## Counters of the flash (R699, Table 17.2) -/

theorem Steady.counterFaults (h : Steady C W s) :
    Steady C W (Machine.counterFaults r' s) :=
  h.foldl (fun h => h.faultEvent1)

/-! ## Stages 1 and 2 -/

theorem Steady.stage1 (h : Steady C W s) :
    Steady C W (Machine.stage1 r' s) :=
  Steady.ite h (Steady.ite (h.set rfl rfl) (.evrec (h.set rfl rfl)))

theorem Steady.stage2 (h : Steady C W s) :
    Steady C W (Machine.stage2 r' s) :=
  Steady.ite h.boot h.boot.evrec

/-! ## Stage 3: firmware slots (R711, R712) -/

theorem Steady.recordSlot (h : Steady C W s) :
    Steady C W (Machine.recordSlot b s) :=
  Steady.ite h h.evrec

theorem Steady.checkSlots (h : Steady C W s) :
    Steady C W (Machine.checkSlots r' s) :=
  h.flash.recordSlot.recordSlot

theorem Steady.setTrial (h : Steady C W s) :
    Steady C W (Machine.setTrial t' s) := h.set rfl rfl

theorem Steady.trialFailed (h : Steady C W s) :
    Steady C W (Machine.trialFailed cause s) :=
  h.evrec

theorem Steady.chooseSlot (h : Steady C W s) :
    Steady C W (Machine.chooseSlot s).2.2 := by
  fun_cases Machine.chooseSlot s
  · exact h.setTrial
  · exact h.setTrial.trialFailed
  · exact h.setTrial.trialFailed
  · exact h

theorem Steady.stage3 (h : Steady C W s) :
    Steady C W (Machine.stage3 r' s) := by
  fun_cases Machine.stage3 r' s
  next e =>
    exact (Steady.of_state_eq h.checkSlots.chooseSlot (congrArg (·.2.2) e)).boot
  next e =>
    exact (((Steady.of_state_eq h.checkSlots.chooseSlot (congrArg (·.2.2) e)).boot).boot).evrec

/-! ## Stage 4: the configuration store (R718 to R720) -/

theorem Steady.applyJournal (h : Steady C W s) :
    Steady C W (Machine.applyJournal r' lock x s) := by
  fun_induction Machine.applyJournal r' lock x s
  · exact h
  next ih =>
    exact ih h.boot.evrec
  next ih =>
    exact ih h.boot

theorem Steady.stage4 (h : Steady C W s) :
    Steady C W (Machine.stage4 r' s) := by
  unfold Machine.stage4
  refine Steady.applyJournal ?_
  split
  · exact h.boot
  · split
    · exact h.boot.evrec
    · exact h.boot

/-! ## Stage 5: clocks and power (R748, R752) -/

theorem Steady.stage5 (h : Steady C W s) :
    Steady C W (Machine.stage5 s) := h.set rfl rfl

/-! ## Stage 6: power-on self-test (R35, R36, R169 to R171, R499, R500, R709, R710) -/

theorem Steady.testArray (h : Steady C W s) :
    Steady C W (Machine.testArray r' d c a s) :=
  h.updCore.foldl (fun h => Steady.ite h.evrec h.evrec.flash)

theorem Steady.testCore (h : Steady C W s) :
    Steady C W (Machine.testCore r' d c s) :=
  Steady.ite h.updCore.testArray.testArray (Steady.ite h.evrec h.evrec.flash)

theorem Steady.testDie (h : Steady C W s) :
    Steady C W (Machine.testDie r' d s) :=
  Steady.ite (Steady.ite h.evrec h.evrec.flash) (h.foldl (fun h => h.testCore))

theorem Steady.testStack (h : Steady C W s) :
    Steady C W (Machine.testStack r' hs k s) := by
  fun_cases Machine.testStack r' hs k s
  · exact (Steady.ite h.updStk.evrec h.updStk.evrec.flash).faultEvent1
  · exact Steady.ite h.updStk.evrec h.updStk.evrec.flash
  · exact (h.updStk.foldl (fun h => Steady.ite h h.flash)).foldl (fun h => Steady.ite h.evrec h.evrec.flash)

theorem Steady.setPort (h : Steady C W s) :
    Steady C W (Machine.setPort q s) := h.set rfl rfl

theorem Steady.stage6 (h : Steady C W s) :
    Steady C W (Machine.stage6 r' s) :=
  .foldl (.foldl (.foldl (.foldl (.set h rfl rfl) fun h => h.testDie) fun h => h.testStack) fun h => h.setPort)
    fun h => .ite h.updPort h

/-! ## Stage 7: roles (R22, R26, R36, R37, R707) -/

theorem Steady.setCores (h : Steady C W s) :
    Steady C W (Machine.setCores d s) := by
  fun_cases Machine.setCores d s
  exact (h.foldl (fun h => h.updCore)).updDie

theorem Steady.stage7 (h : Steady C W s) :
    Steady C W (Machine.stage7 s) :=
  Steady.ite (((h.foldl (fun h => Steady.ite h.setCores h.updDie)).boot).fetchAll) ((h.foldl (fun h => Steady.ite
      h.setCores h.updDie)).boot)

/-! ## Stage 8 and READY (R95, R659, R664, R704, R706, R771) -/

theorem Steady.bootFtu (h : Steady C W s) :
    Steady C W (Machine.bootFtu s) := h.set rfl rfl

theorem Steady.applySetting (h : Steady C W s) :
    Steady C W (Machine.applySetting s e') := by
  fun_cases Machine.applySetting s e'
  case case1 =>
    exact h.updFault
  case case3 =>
    exact h.quotas
  case case5 =>
    exact h.fab
  case case6 =>
    exact h.fab
  all_goals exact h

theorem Steady.enterReady (h : Steady C W s) :
    Steady C W (Machine.enterReady ms s) :=
  .fetchAll (.evrec (.foldl (.set h rfl rfl) fun h => h.updDie))

theorem Steady.stage8 (h : Steady C W s) :
    Steady C W (Machine.stage8 r' s) :=
  (h.bootFtu.foldl (fun h => h.applySetting)).enterReady

theorem Steady.bootStageEnd (h : Steady C W s) :
    Steady C W (Machine.bootStageEnd r' s) := by
  fun_cases Machine.bootStageEnd r' s
  · exact (Steady.ite h.counterFaults h).stage1
  · exact (Steady.ite h.counterFaults h).stage2
  · exact (Steady.ite h.counterFaults h).stage3
  · exact (Steady.ite h.counterFaults h).stage4
  · exact (Steady.ite h.counterFaults h).stage5
  · exact (Steady.ite h.counterFaults h).stage6
  · exact (Steady.ite h.counterFaults h).stage7
  · exact (Steady.ite h.counterFaults h).stage8
  · exact h

/-! ## Power-on and power-off (R741 to R747, R756) -/

theorem Steady.dark (h : Steady C W s) :
    Steady C W (Machine.dark pwrEn tripped s) :=
  h.freshModule

theorem Steady.powerOn (h : Steady C W s) :
    Steady C W (Machine.powerOn mvA mvB s) :=
  Steady.ite h (Steady.ite h.power h.freshModule)

theorem Steady.pwrGood (h : Steady C W s) :
    Steady C W (Machine.pwrGood s) :=
  Steady.ite h.power h

theorem Steady.pwrEnDeassert (h : Steady C W s) :
    Steady C W (Machine.pwrEnDeassert us s) :=
  Steady.ite h.dark h

theorem Steady.perstAssert (h : Steady C W s) :
    Steady C W (Machine.perstAssert us s) :=
  Steady.ite h.chipReset.power h

/-! ## Input voltage (R741, R747) -/

theorem Steady.voltageChange (h : Steady C W s) :
    Steady C W (Machine.voltageChange mv s) :=
  Steady.ite h (Steady.ite h.dark (Steady.ite h.power.faultEvent1 h.power))

theorem Steady.voltageLapse (h : Steady C W s) :
    Steady C W (Machine.voltageLapse s) :=
  Steady.ite h.power h

theorem Steady.feedLost (h : Steady C W s) :
    Steady C W (Machine.feedLost mv s) :=
  Steady.ite h.power.faultEvent1 h

theorem Steady.feedRestored (h : Steady C W s) :
    Steady C W (Machine.feedRestored mv s) :=
  Steady.ite h.power h

/-! ## Measured power (R750) -/

theorem Steady.powerMeasure (h : Steady C W s) :
    Steady C W (Machine.powerMeasure watts s) :=
  Steady.ite h (Steady.ite h.nextFree.power h.nextFree.power)

/-! ## Temperature (R753 to R756) -/

theorem Steady.throttleBy (h : Steady C W s) :
    Steady C W (Machine.throttleBy i s) :=
  Steady.ite h.power h.power.faultEvent1

theorem Steady.thermalThrottle (h : Steady C W s) :
    Steady C W (Machine.thermalThrottle i t' s) :=
  Steady.ite h (Steady.ite h.power (Steady.ite h.power.faultEvent1 h.power.throttleBy))

theorem Steady.thermalTimer (h : Steady C W s) :
    Steady C W (Machine.thermalTimer readings s) := by
  unfold Machine.thermalTimer
  refine Steady.ite h (Steady.ite (Steady.faultEvent1 ?_) ?_)
  · split
    · exact h.power
    · exact h.power.throttleBy
  · split
    · exact h.power
    · exact h.power.throttleBy

theorem Steady.thermalTrip (h : Steady C W s) :
    Steady C W (Machine.thermalTrip i t' s) := by
  fun_cases Machine.thermalTrip i t' s
  · exact h.dark
  · exact h
  · exact h

/-! ## POWER_CAP (R748, R751, R752) -/

theorem Steady.capDone (h : Steady C W s) :
    Steady C W (Machine.capDone p s) :=
  h.nextFree.postDone

theorem Steady.effPowerCapSet (h : Steady C W s) :
    Steady C W (Machine.effPowerCapSet p s) :=
  Steady.ite h.postErr h.power.capDone

theorem Steady.effPowerCapQuery (h : Steady C W s) :
    Steady C W (Machine.effPowerCapQuery p s) :=
  h.capDone

/-! ## Operating hours (R729) -/

theorem Steady.hoursTick (h : Steady C W s) :
    Steady C W (Machine.hoursTick s) :=
  Steady.ite h (h.set rfl rfl)

/-! ## PCI Express (R43, R703, R762, R763, R776) -/

theorem Steady.dropVfs (h : Steady C W s) :
    Steady C W (Machine.dropVfs first last s) :=
  h.foldl (fun h => h.viReset)

theorem Steady.setVfs (h : Steady C W s) :
    Steady C W (Machine.setVfs on n s) :=
  Steady.ite h.boot.dropVfs h.boot

theorem Steady.configReq (h : Steady C W s) :
    Steady C W (Machine.configReq n q s) := by
  fun_cases Machine.configReq n q s
  · exact h.boot
  · exact h.boot
  · exact h
  · exact h.updVi.sendPending
  · exact h.setVfs
  · exact h
  · exact h.updVi.fetchAll

theorem Steady.configRequest (h : Steady C W s) :
    Steady C W (Machine.configRequest n ms q s) :=
  Steady.ite h (Steady.ite h.boot.configReq h.boot)

theorem Steady.hotReset (h : Steady C W s) : Steady C W (Machine.hotReset s) := by
  have h1 : Steady C W (Machine.viReset 0 s) := h.viReset
  unfold Machine.hotReset
  generalize Machine.viReset 0 s = u at h1 ⊢
  split
  · exact h1.dropVfs
  · exact h1

/-! ## J7 (R738) -/

theorem Steady.boundaryScan (h : Steady C W s) :
    Steady C W (Machine.boundaryScan tck tms trst s) :=
  Steady.ite (h.set rfl rfl) (Steady.ite h (Steady.ite (h.nextFree.set rfl rfl) (h.set rfl rfl)))

/-! ## EVREC_READ (R733) -/

theorem Steady.effEvrecRead (h : Steady C W s) :
    Steady C W (Machine.effEvrecRead p s) := by
  fun_cases Machine.effEvrecRead p s
  · exact h.postErr
  next e =>
    exact (h.vstore.fst e).memFail
  next e =>
    exact (h.vstore.fst e).postDone

/-! ## Firmware images (R711, Table 17.6) -/

theorem Steady.putSlot (h : Steady C W s) :
    Steady C W (Machine.putSlot b x s) := h.set rfl rfl

theorem Steady.refreshFw (h : Steady C W s) :
    Steady C W (Machine.refreshFw s) := h.set rfl rfl

theorem Steady.effFwStage (h : Steady C W s) :
    Steady C W (Machine.effFwStage p s) := by
  unfold Machine.effFwStage
  dsimp only
  split
  · exact Steady.ite h.postErr h.memFail
  · refine Steady.ite h.postErr ?_
    split
    · exact h.postErr
    · refine Steady.ite h.postFinal (Steady.ite h.postErr ?_)
      split
      · exact h.nextFree.putSlot.refreshFw.faultEvent1.postFinal
      · exact h.nextFree.putSlot.refreshFw.evrec.postDone

theorem Steady.pldmUpdate (h : Steady C W s) :
    Steady C W (Machine.pldmUpdate image s) :=
  Steady.ite h h.putSlot.nextFree.chipReset

/-! ## FW_ACTIVATE (R716, R717) -/

theorem Steady.activateDone (h : Steady C W s) :
    Steady C W (Machine.activateDone p reset s) :=
  Steady.ite h.postDone.boot h.postDone

theorem Steady.effFwActivateTrial (h : Steady C W s) :
    Steady C W (Machine.effFwActivateTrial p s) :=
  Steady.ite h.setTrial.activateDone h.nextFree.postErr

theorem Steady.effFwActivateCommit (h : Steady C W s) :
    Steady C W (Machine.effFwActivateCommit p s) :=
  Steady.ite h.postErr h.flash.boot.refreshFw.evrec.activateDone

theorem Steady.effFwActivateDisarm (h : Steady C W s) :
    Steady C W (Machine.effFwActivateDisarm p s) :=
  Steady.ite h.postErr h.setTrial.activateDone

theorem Steady.effFwActivateReset (h : Steady C W s) :
    Steady C W (Machine.effFwActivateReset p s) :=
  h.activateDone

/-! ## The owner image (R718, R719, R723, R724, Table 17.9) -/

theorem Steady.effConfigInstall (h : Steady C W s) :
    Steady C W (Machine.effConfigInstall p s) := by
  fun_cases Machine.effConfigInstall p s
  · exact h.memFail
  · exact h.postErr
  · exact h.postFinal
  · exact h.postErr
  · exact h.flash.evrec.postDone

/-! ## CONFIG_LOAD READ, SAVE_ROUTES, CLEAR (Table 17.10) -/

theorem Steady.effConfigRead (h : Steady C W s) :
    Steady C W (Machine.effConfigRead p s) := by
  fun_cases Machine.effConfigRead p s
  next e =>
    exact (h.vstore.fst e).memFail
  next e =>
    exact (h.vstore.fst e).postDone

theorem Steady.spdmRequest (h : Steady C W s) :
    Steady C W (Machine.spdmRequest code s) :=
  Steady.ite h h.boot

theorem Steady.journalGroup (h : Steady C W s) :
    Steady C W (Machine.journalGroup group vs s) := h.set rfl rfl

theorem Steady.effSaveRoutes (h : Steady C W s) :
    Steady C W (Machine.effSaveRoutes p s) := by
  fun_cases Machine.effSaveRoutes p s
  · exact h.refuse
  · exact h.journalGroup.postDone

theorem Steady.effConfigClear (h : Steady C W s) :
    Steady C W (Machine.effConfigClear p s) :=
  h.flash.postDone

theorem Steady.updCtr (h : Steady C W s) :
    Steady C W (s.updCtr f) := h.set rfl rfl

end Sys2Proof.Machine
end

section
/-! PROOFS. What every function of the model keeps: the commands that wait, and the form of the memories.
Registers, the dispatch by opcode and the fret boundary. -/

namespace Sys2Proof.Machine

open Sys2Proof

variable {C : List Instr} {W : Prop} {s t : State}

/-! ## The register page of a VI (Tables 2.3 to 2.5) -/

theorem Steady.readVi (h : Steady C W s) :
    Steady C W (Machine.readVi n off s).2 := by
  fun_cases Machine.readVi n off s
  case case5 =>
    dsimp only
    exact h.updVi
  case case8 =>
    exact Steady.ite_snd h (Steady.ite_snd h (Steady.ite_snd h h))
  case case9 =>
    exact Steady.ite_snd h (Steady.ite_snd h (Steady.ite_snd h h))
  case case10 =>
    exact Steady.ite_snd h (Steady.ite_snd h (Steady.ite_snd h h))
  case case11 =>
    exact Steady.ite_snd h (Steady.ite_snd h (Steady.ite_snd h h))
  all_goals exact h

/-! ## Fret time unit (Tables 3.7, 3.8) -/

theorem Steady.readFtu (h : Steady C W s) :
    Steady C W (Machine.readFtu r' s).2 := by
  fun_cases Machine.readFtu r' s
  case case3 =>
    dsimp only
    exact h.updFtu
  case case9 =>
    dsimp only
    exact h.updFtu
  all_goals exact h

/-! ## Arrays, cores, samplers (Tables 5.11, 5.12, 6.18, 6.19) -/

theorem Steady.readArr (h : Steady C W s) :
    Steady C W (Machine.readArr d c x r' s).2 := by
  unfold Machine.readArr
  split
  · split
    · exact h
    · dsimp only
      exact h.updCore
    · dsimp only
      exact h.updCore
    · dsimp only
      exact h.updCore
    · exact h
    · dsimp only
      exact h.updCore
    · exact h
  · split
    · exact h
    · dsimp only
      exact h.updCore
    · dsimp only
      exact h.updCore
    · dsimp only
      exact h.updCore
    · exact h
    · dsimp only
      exact h.updCore
    · exact h

theorem Steady.readMvp (h : Steady C W s) :
    Steady C W (Machine.readMvp d c r' s).2 := by
  fun_cases Machine.readMvp d c r' s
  · exact h
  · dsimp only
    exact h.updCore
  · dsimp only
    exact h.updCore
  · exact h
  · exact h

theorem Steady.readBrd (h : Steady C W s) :
    Steady C W (Machine.readBrd d c r' s).2 := by
  fun_cases Machine.readBrd d c r' s
  case case4 =>
    dsimp only
    exact h.updCore
  case case5 =>
    dsimp only
    exact h.updCore
  case case6 =>
    dsimp only
    exact h.updCore
  all_goals exact h

theorem Steady.readSmp (h : Steady C W s) :
    Steady C W (Machine.readSmp d r' s).2 := by
  fun_cases Machine.readSmp d r' s
  · exact h
  · dsimp only
    exact h.updDie
  · dsimp only
    exact h.updDie
  · dsimp only
    exact h.updDie
  · exact h

/-! ## Tiling and test (Tables 7.5, 7.6, 16.15, 16.16) -/

theorem Steady.readTil (h : Steady C W s) :
    Steady C W (Machine.readTil d r' s).2 := by
  fun_cases Machine.readTil d r' s
  · dsimp only
    exact h.updDie
  · dsimp only
    exact h.updDie
  · dsimp only
    exact h.updDie
  · dsimp only
    exact h.updDie
  · exact h

theorem Steady.readTst (h : Steady C W s) :
    Steady C W (Machine.readTst d r' s).2 := by
  fun_cases Machine.readTst d r' s
  · exact h
  · exact h
  · dsimp only
    exact h.updDie
  · dsimp only
    exact h.updDie
  · dsimp only
    exact h.updDie
  · exact h

/-! ## Module-wide counters (chapters 8 to 12, 14, 15) -/

theorem Steady.readGen (h : Steady C W s) :
    Steady C W (Machine.readGen r' s).2 := by
  fun_cases Machine.readGen r' s
  · dsimp only
    exact h.updCtr
  · dsimp only
    exact h.updCtr
  · dsimp only
    exact h.updCtr
  · dsimp only
    exact h.updCtr
  · exact h
  · dsimp only
    exact h.updCtr
  · exact h

theorem Steady.readKv (h : Steady C W s) :
    Steady C W (Machine.readKv r' s).2 := by
  fun_cases Machine.readKv r' s
  · dsimp only
    exact h.updCtr
  · dsimp only
    exact h.updCtr
  · dsimp only
    exact h.updCtr
  · dsimp only
    exact h.updCtr
  · dsimp only
    exact h.updCtr
  · dsimp only
    exact h.updCtr
  · dsimp only
    exact h.updCtr
  · exact h
  · exact h

theorem Steady.readLrn (h : Steady C W s) :
    Steady C W (Machine.readLrn r' s).2 := by
  fun_cases Machine.readLrn r' s
  · dsimp only
    exact h.updCtr
  · dsimp only
    exact h.updCtr
  · dsimp only
    exact h.updCtr
  · dsimp only
    exact h.updCtr
  · dsimp only
    exact h.updCtr
  · exact h
  · exact h
  · exact h

theorem Steady.readFsh (h : Steady C W s) :
    Steady C W (Machine.readFsh r' s).2 := by
  fun_cases Machine.readFsh r' s
  · dsimp only
    exact h.updCtr
  · dsimp only
    exact h.updCtr
  · dsimp only
    exact h.updCtr
  · exact h
  · dsimp only
    exact h.updCtr
  · dsimp only
    exact h.updCtr
  · exact h

theorem Steady.readMem (h : Steady C W s) :
    Steady C W (Machine.readMem r' s).2 := by
  fun_cases Machine.readMem r' s
  · exact h
  · exact h
  · dsimp only
    exact h.updCtr
  · dsimp only
    exact h.updCtr
  · exact h

theorem Steady.readStk (h : Steady C W s) :
    Steady C W (Machine.readStk k r' s).2 := by
  fun_cases Machine.readStk k r' s
  case case3 =>
    dsimp only
    exact h.updStk
  case case4 =>
    dsimp only
    exact h.updStk
  case case5 =>
    dsimp only
    exact h.updStk
  case case8 =>
    dsimp only
    exact h.updStk
  all_goals exact h

theorem Steady.readHub (h : Steady C W s) :
    Steady C W (Machine.readHub h' r' s).2 := by
  fun_cases Machine.readHub h' r' s
  · dsimp only
    exact h.updHub
  · dsimp only
    exact h.updHub
  · dsimp only
    exact h.updHub
  · exact h
  · exact h

theorem Steady.readCkpt (h : Steady C W s) :
    Steady C W (Machine.readCkpt r' s).2 := by
  fun_cases Machine.readCkpt r' s
  case case4 =>
    dsimp only
    exact h.updCtr
  case case5 =>
    dsimp only
    exact h.updCtr
  case case6 =>
    dsimp only
    exact h.updCtr
  case case7 =>
    dsimp only
    exact h.updCtr
  case case8 =>
    dsimp only
    exact h.updCtr
  all_goals exact h

theorem Steady.readJob (h : Steady C W s) :
    Steady C W (Machine.readJob r' s).2 := by
  fun_cases Machine.readJob r' s
  case case4 =>
    dsimp only
    exact h.updCtr
  case case5 =>
    dsimp only
    exact h.updCtr
  case case6 =>
    dsimp only
    exact h.updCtr
  case case7 =>
    dsimp only
    exact h.updCtr
  case case8 =>
    dsimp only
    exact h.updCtr
  all_goals exact h

/-! ## Fabric (Tables 13.16, 13.17) -/

theorem Steady.readPort (h : Steady C W s) :
    Steady C W (Machine.readPort p r' s).2 := by
  fun_cases Machine.readPort p r' s
  case case3 =>
    dsimp only
    exact h.updPort
  case case4 =>
    dsimp only
    exact h.updPort
  case case5 =>
    dsimp only
    exact h.updPort
  case case6 =>
    dsimp only
    exact h.updPort
  case case8 =>
    dsimp only
    exact h.updPort
  all_goals exact h

theorem Steady.updFab (h : Steady C W s) :
    Steady C W (s.updFab f) := h.set rfl rfl

theorem Steady.readWeir (h : Steady C W s) :
    Steady C W (Machine.readWeir r' s).2 := by
  fun_cases Machine.readWeir r' s
  case case3 =>
    dsimp only
    exact h.updFab
  case case4 =>
    dsimp only
    exact h.updFab
  case case7 =>
    dsimp only
    exact h.updFab
  all_goals exact h

/-! ## Faults (Tables 16.2, 16.3, 16.8) -/

theorem Steady.readFault (h : Steady C W s) :
    Steady C W (Machine.readFault u r' s).2 := by
  fun_cases Machine.readFault u r' s
  · exact h
  · dsimp only
    exact h.updFault
  · exact h
  · exact h
  · exact h

theorem Steady.readNtc (h : Steady C W s) :
    Steady C W (Machine.readNtc r' s).2 := by
  fun_cases Machine.readNtc r' s
  case case6 =>
    exact h.ntc
  all_goals exact h

/-! ## Boot and power (Tables 17.18, 17.19, 18.12, 18.13) -/

theorem Steady.readPwr (h : Steady C W s) :
    Steady C W (Machine.readPwr r' s).2 := by
  unfold Machine.readPwr
  split
  · exact h
  · exact h
  · exact h
  · exact h.power
  · exact h
  · exact h.power
  · exact h.power
  · exact h
  · exact h

/-! ## The address map -/

theorem Steady.readMgmt (h : Steady C W s) :
    Steady C W (Machine.readMgmt off s).2 :=
  .ite_snd h.readFtu (.ite_snd h.readArr (.ite_snd h.readMvp (.ite_snd h.readBrd (.ite_snd h.readSmp (
    .ite_snd h.readTil (.ite_snd h.readGen (.ite_snd h.readKv (.ite_snd h.readLrn (.ite_snd h.readFsh (
    .ite_snd h.readMem (.ite_snd h.readCkpt (.ite_snd h.readJob (.ite_snd h (.ite_snd h.readPwr (.ite_snd h (
    .ite_snd h.readStk (.ite_snd h.readHub (.ite_snd h.readPort (.ite_snd h.readWeir (.ite_snd h.readFault (
    .ite_snd h.readNtc (.ite_snd h.readTst h))))))))))))))))))))))

theorem Steady.readReg (h : Steady C W s) :
    Steady C W (Machine.readReg n off s).2 :=
  Steady.ite_snd h.readVi (Steady.ite_snd h.readMgmt h)

theorem Steady.busRead (h : Steady C W s) :
    Steady C W (Machine.busRead n off s) := by
  fun_cases Machine.busRead n off s
  next e =>
    exact (h.readReg.snd e).setBusRead
  · exact h

theorem Steady.latchingRead (h : Steady C W s) :
    Steady C W (Machine.latchingRead n off s) :=
  h.busRead

theorem Steady.rcRead (h : Steady C W s) :
    Steady C W (Machine.rcRead n off s) :=
  h.busRead

/-! ## Writes (R18, R47 to R51, R552, R677; Table 0.5) -/

theorem Steady.writeSqBase (h : Steady C W s) :
    Steady C W (Machine.writeSqBase n q f s) :=
  Steady.ite h.updSq h

theorem Steady.writeCqBase (h : Steady C W s) :
    Steady C W (Machine.writeCqBase n q f s) :=
  Steady.ite h h.updCq

theorem Steady.writeViCtrl (h : Steady C W s) :
    Steady C W (Machine.writeViCtrl n v s) := h.set rfl rfl

theorem Steady.writeViStatus (h : Steady C W s) :
    Steady C W (Machine.writeViStatus n v s) := h.set rfl rfl

theorem Steady.writeVi (h : Steady C W s) :
    Steady C W (Machine.writeVi n off v s) := by
  fun_cases Machine.writeVi n off v s
  · exact h.writeViCtrl
  · exact h.writeViStatus
  · exact h.writeSqBase
  · exact h.writeSqBase
  · exact h
  · exact h.writeCqBase
  · exact h.writeCqBase
  · exact h
  · exact h

theorem Steady.writeNtcBase (h : Steady C W s) :
    Steady C W (Machine.writeNtcBase f s) :=
  Steady.ite h h.ntc

theorem Steady.writePfx (h : Steady C W s) :
    Steady C W (Machine.writePfx f s) := h.set rfl rfl

theorem Steady.writeMgmt (h : Steady C W s) :
    Steady C W (Machine.writeMgmt off v s) := by
  fun_cases Machine.writeMgmt off v s
  · exact h.updFab
  · exact h.updFab
  · exact h.writePfx
  · exact h.writePfx
  · exact h.writeNtcBase
  · exact h.writeNtcBase
  · exact h

theorem Steady.regWrite (h : Steady C W s) :
    Steady C W (Machine.regWrite n off v s) :=
  Steady.ite h (Steady.ite h.writeVi (Steady.ite h.writeMgmt h))

theorem Steady.rtDataWrite (h : Steady C W s) :
    Steady C W (Machine.rtDataWrite value s) :=
  h.updFab

theorem Steady.runCompute (h : Steady C W s) :
    Steady C W (Machine.runCompute p s) := by
  fun_cases Machine.runCompute p
  · exact h.effMove
  · exact h.effFill
  · exact h.effMigrate
  · exact h.effPlaceMap
  · exact h.effPlaceUnmap
  · exact h.effPlaceQuery
  · exact h.postFree
  · exact h.effFence
  · exact h.effMatmul
  · exact h.effMatmul
  · exact h.effBraidRun
  · exact h.effSlotLoad
  · exact h.effSeedLoad
  · exact h.postFree
  · exact h.effSlotLoad
  · exact h.effAttnFwd
  · exact h.effAttnBwd
  · exact h.postFree

theorem Steady.runRollout (h : Steady C W s) :
    Steady C W (Machine.runRollout p s) := by
  fun_cases Machine.runRollout p
  case case1 =>
    exact h.effRolloutOpen
  case case2 =>
    exact h.effRolloutClose
  case case4 =>
    exact h.effRolloutStep
  case case5 =>
    exact h.effSample
  case case6 =>
    exact h.effSeqCancel
  case case7 =>
    exact h.effSpecVerify
  case case8 =>
    exact h.effPrefill
  case case9 =>
    exact h.effPoolCreate
  case case10 =>
    exact h.effPoolPolicy
  case case11 =>
    exact h.effPoolDestroy
  case case13 =>
    exact h.effKvReceive
  case case14 =>
    exact h.effKvSend.pump
  case case16 =>
    exact h.effKvFork
  case case17 =>
    exact h.effKvRelease
  all_goals exact h.postFree

theorem Steady.runLearn (h : Steady C W s) :
    Steady C W (Machine.runLearn p s) := by
  fun_cases Machine.runLearn p
  · exact h.effPassFwd
  · exact h.effPass
  · exact h.effUpdate
  · exact h.effStepSizeSet
  · exact h.effSlotLoad
  · exact h.effStowLoad
  · exact h.effAdapterLoad
  · exact h.effAdapterUnload
  · exact h.postFree
  · exact h.effPush.pump
  · exact h.effFlip
  · exact h.effDiscard
  · exact h.postFree
  · exact h.effModelDrain
  · exact h.postFree

theorem Steady.runFabric (h : Steady C W s) :
    Steady C W (Machine.runFabric p s) := by
  fun_cases Machine.runFabric p
  case case5 =>
    exact h.effColl
  case case6 =>
    exact h.effColl
  case case7 =>
    exact h.effColl
  case case8 =>
    exact h.effGroupDefine
  case case9 =>
    exact h.effGroupRelease
  case case10 =>
    exact h.effSetDomain
  case case11 =>
    exact h.postFree
  case case12 =>
    exact h.effTake
  case case13 =>
    exact h.effHold
  case case14 =>
    exact h.effCkptDiscard
  case case15 =>
    exact h.postFree
  case case16 =>
    exact h.effReadback
  case case17 =>
    exact h.effExport
  case case18 =>
    exact h.effList
  case case19 =>
    exact h.postFree
  case case20 =>
    exact h.effRestore
  case case21 =>
    exact h.effRollback
  case case22 =>
    exact h.effShrink
  case case23 =>
    exact h.postFree
  all_goals exact h.effRemote

theorem Steady.runJobs (h : Steady C W s) :
    Steady C W (Machine.runJobs p s) := by
  fun_cases Machine.runJobs p
  case case1 =>
    exact h.effJobCreate
  case case2 =>
    exact h.effJobStart
  case case3 =>
    exact h.effJobPreempt
  case case4 =>
    exact h.effJobEndAll
  case case5 =>
    exact h.effAbortPacket
  case case6 =>
    exact h.effAbortJob
  case case8 =>
    exact h.effAdmissionSetVi
  case case9 =>
    exact h.effAdmissionSetMode
  case case10 =>
    exact h.effAdmissionQuery
  case case12 =>
    exact h.effSelftestCore
  case case13 =>
    exact h.effSelftestSliced
  case case14 =>
    exact h.effSelftestStop
  case case15 =>
    exact h.effSelftestRotation
  case case17 =>
    exact h.effCalibrate
  case case18 =>
    exact h.effLinkPatternStop
  case case19 =>
    exact h.effLinkPattern
  all_goals exact h.postFree

theorem Steady.runManage (h : Steady C W s) :
    Steady C W (Machine.runManage p s) := by
  fun_cases Machine.runManage p
  case case1 =>
    exact h.effEvrecRead
  case case2 =>
    exact h.effFwStage
  case case3 =>
    exact h.effFwActivateTrial
  case case4 =>
    exact h.effFwActivateCommit
  case case5 =>
    exact h.effFwActivateDisarm
  case case6 =>
    exact h.effFwActivateReset
  case case8 =>
    exact h.effPowerCapSet
  case case9 =>
    exact h.effPowerCapQuery
  case case11 =>
    exact h.effSetRole
  case case12 =>
    exact h.effSetPeriod
  case case13 =>
    exact h.effArmEpoch
  case case14 =>
    exact h.effSetBeaconPorts
  case case16 =>
    exact h.effFaultPolicySet
  case case17 =>
    exact h.effFaultPolicyDefaults
  case case19 =>
    exact h.effPhaseTimesRead
  case case20 =>
    exact h.effConfigInstall
  case case21 =>
    exact h.effConfigRead
  case case22 =>
    exact h.effSaveRoutes
  case case23 =>
    exact h.effConfigClear
  all_goals exact h.postFree

theorem Steady.runEffect (h : Steady C W s) :
    Steady C W (Machine.runEffect p s) := by
  fun_cases Machine.runEffect p
  · exact h.runCompute
  · exact h.runCompute
  · exact h.runRollout
  · exact h.runRollout
  · exact h.runLearn
  · exact h.runLearn
  · exact h.runFabric
  · exact h.runFabric
  · exact h.runJobs
  · exact h.runJobs
  · exact h.runManage

theorem Steady.dispatchWaiting (h : Steady C W s) :
    Steady C W (Machine.dispatchWaiting n q x s) := by
  fun_induction Machine.dispatchWaiting n q x s
  · exact h
  · exact h
  · exact h
  next ih =>
    exact ih (h.updSq.jobGate (fun h => h.runEffect))

theorem Steady.countPhases (h : Steady C W s) :
    Steady C W (Machine.countPhases s) := by
  fun_cases Machine.countPhases s
  refine h.foldl (fun h => ?_)
  split
  · exact h.updJob
  · exact h

theorem Steady.reopenWindows (h : Steady C W s) :
    Steady C W (Machine.reopenWindows s) :=
  h.foldl (fun h => Steady.ite h.openWindow h)

theorem Steady.tellPositions (h : Steady C W s) :
    Steady C W (Machine.tellPositions s) :=
  h.foldl (fun h => Steady.ite h.defer h)

theorem Steady.settleJobEnds (h : Steady C W s) :
    Steady C W (Machine.settleJobEnds s) := by
  fun_cases Machine.settleJobEnds s
  refine h.foldl (fun h => ?_)
  split
  · exact Steady.ite h h.endJob
  · exact h

theorem Steady.settleAll (h : Steady C W s) :
    Steady C W (Machine.settleAll s) :=
  h.settleSlots.settleLearn.motionEnds.settleAttn.settleReleases.settleDrains.settleGroups
    |>.settleRollbacks.settleAborts.settleJobEnds

theorem Steady.countMisses (h : Steady C W s) :
    Steady C W (Machine.countMisses s) :=
  h.ctr.nextFree

theorem Steady.fretBoundary (h : Steady C W s) :
    Steady C W (Machine.fretBoundary refPhase s) :=
  h.countPhases.countWindows.countMisses.ftuBoundary.reopenWindows.settleAll.tellPositions

end Sys2Proof.Machine
end

section
/-! PROOFS. Every command keeps the commands that wait, and the form of the memories. -/

namespace Sys2Proof.Machine

open Sys2Proof

variable {C : List Instr} {W : Prop} {s t : State}

theorem Steady.submit {eff : Packet → State → State} (h : Steady C W s)
    (heff : ∀ {p u}, Steady C W u → Steady C W (eff p u)) (e : Machine.submit eff p s = .next t) : Steady C W t := by
  unfold Machine.submit at e
  split at e
  · obtain rfl := Host.Outcome.next.inj e
    exact .ite (h.arrive heff) h
  · cases e

theorem Steady.event (h : Steady C W u) (e : Machine.event ok u = .next t) : Steady C W t :=
  (event_eq_next e).2 ▸ h

theorem Steady.next (h : Steady C W u) (e : (.next u : Out) = .next t) : Steady C W t :=
  Host.Outcome.next.inj e ▸ h

theorem Steady.packetRow (h : Steady C W s) (e : Machine.packetRow kind p s = .next t) : Steady C W t :=
  h.takePacket.next e

theorem Steady.ckptEvent (h : Steady C W s) (e : Machine.ckptEvent s = .next t) : Steady C W t :=
  h.pumpAll.settleRollbacks.next e

/-- Every command keeps the commands that wait, and the form of the memories. -/
theorem Steady.exec (h : Steady C W s) (e : Machine.exec c s = .next t) : Steady C W t := by
  cases c with
  | move _ => exact h.submit (fun h => h.effMove) e
  | fill _ => exact h.submit (fun h => h.effFill) e
  | migrate _ => exact h.submit (fun h => h.effMigrate) e
  | placeMap _ => exact h.submit (fun h => h.effPlaceMap) e
  | placeUnmap _ => exact h.submit (fun h => h.effPlaceUnmap) e
  | placeQuery _ => exact h.submit (fun h => h.effPlaceQuery) e
  | fence _ => exact h.submit (fun h => h.effFence) e
  | matmul _ => exact h.submit (fun h => h.effMatmul) e
  | matmulBatched _ => exact h.submit (fun h => h.effMatmul) e
  | braidRun _ => exact h.submit (fun h => h.effBraidRun) e
  | braidLoadProgram _ => exact h.submit (fun h => h.effSlotLoad) e
  | braidLoadSeed _ => exact h.submit (fun h => h.effSeedLoad) e
  | tableLoad _ => exact h.submit (fun h => h.effSlotLoad) e
  | attnFwd _ => exact h.submit (fun h => h.effAttnFwd) e
  | attnBwd _ => exact h.submit (fun h => h.effAttnBwd) e
  | rolloutOpen _ => exact h.submit (fun h => h.effRolloutOpen) e
  | rolloutClose _ => exact h.submit (fun h => h.effRolloutClose) e
  | rolloutStep _ => exact h.submit (fun h => h.effRolloutStep) e
  | sample _ => exact h.submit (fun h => h.effSample) e
  | seqCancel _ => exact h.submit (fun h => h.effSeqCancel) e
  | specVerify _ => exact h.submit (fun h => h.effSpecVerify) e
  | prefill _ => exact h.submit (fun h => h.effPrefill) e
  | kvPoolCreate _ => exact h.submit (fun h => h.effPoolCreate) e
  | kvPoolSetPolicy _ => exact h.submit (fun h => h.effPoolPolicy) e
  | kvPoolDestroy _ => exact h.submit (fun h => h.effPoolDestroy) e
  | kvShipReceive _ => exact h.submit (fun h => h.effKvReceive) e
  | kvShipSend _ => exact h.submit (fun h => h.effKvSend.pump) e
  | kvFork _ => exact h.submit (fun h => h.effKvFork) e
  | kvRelease _ => exact h.submit (fun h => h.effKvRelease) e
  | passFwd _ => exact h.submit (fun h => h.effPassFwd) e
  | passFwdQuery _ => exact h.submit (fun h => h.effPassFwd) e
  | passBwd _ => exact h.submit (fun h => h.effPass) e
  | update _ => exact h.submit (fun h => h.effUpdate) e
  | stepSizeSet _ => exact h.submit (fun h => h.effStepSizeSet) e
  | updateProgramLoad _ => exact h.submit (fun h => h.effSlotLoad) e
  | stowLoad _ => exact h.submit (fun h => h.effStowLoad) e
  | adapterLoad _ => exact h.submit (fun h => h.effAdapterLoad) e
  | adapterUnload _ => exact h.submit (fun h => h.effAdapterUnload) e
  | freshetPush _ => exact h.submit (fun h => h.effPush.pump) e
  | freshetFlip _ => exact h.submit (fun h => h.effFlip) e
  | freshetDiscard _ => exact h.submit (fun h => h.effDiscard) e
  | modelDrain _ => exact h.submit (fun h => h.effModelDrain) e
  | put _ => exact h.submit (fun h => h.effRemote) e
  | get _ => exact h.submit (fun h => h.effRemote) e
  | atomic _ => exact h.submit (fun h => h.effRemote) e
  | signal _ => exact h.submit (fun h => h.effRemote) e
  | shift _ => exact h.submit (fun h => h.effColl) e
  | permute _ => exact h.submit (fun h => h.effColl) e
  | reduceShift _ => exact h.submit (fun h => h.effColl) e
  | groupDefine _ => exact h.submit (fun h => h.effGroupDefine) e
  | groupRelease _ => exact h.submit (fun h => h.effGroupRelease) e
  | setDomain _ => exact h.submit (fun h => h.effSetDomain) e
  | ckptTake _ => exact h.submit (fun h => h.effTake) e
  | ckptHold _ => exact h.submit (fun h => h.effHold) e
  | ckptDiscard _ => exact h.submit (fun h => h.effCkptDiscard) e
  | ckptReadback _ => exact h.submit (fun h => h.effReadback) e
  | ckptExport _ => exact h.submit (fun h => h.effExport) e
  | ckptList _ => exact h.submit (fun h => h.effList) e
  | restore _ => exact h.submit (fun h => h.effRestore) e
  | rollback _ => exact h.submit (fun h => h.effRollback) e
  | shrink _ => exact h.submit (fun h => h.effShrink) e
  | jobCreate _ => exact h.submit (fun h => h.effJobCreate) e
  | jobStart _ => exact h.submit (fun h => h.effJobStart) e
  | jobPreempt _ => exact h.submit (fun h => h.effJobPreempt) e
  | jobEnd _ => exact h.submit (fun h => h.effJobEndAll) e
  | abortPacket _ => exact h.submit (fun h => h.effAbortPacket) e
  | abortJob _ => exact h.submit (fun h => h.effAbortJob) e
  | admissionSetVi _ => exact h.submit (fun h => h.effAdmissionSetVi) e
  | admissionSetMode _ => exact h.submit (fun h => h.effAdmissionSetMode) e
  | admissionQuery _ => exact h.submit (fun h => h.effAdmissionQuery) e
  | selftestCore _ => exact h.submit (fun h => h.effSelftestCore) e
  | selftestSliced _ => exact h.submit (fun h => h.effSelftestSliced) e
  | selftestStop _ => exact h.submit (fun h => h.effSelftestStop) e
  | selftestRotation _ => exact h.submit (fun h => h.effSelftestRotation) e
  | calibrate _ => exact h.submit (fun h => h.effCalibrate) e
  | linkPattern _ => exact h.submit (fun h => h.effLinkPattern) e
  | linkPatternStop _ => exact h.submit (fun h => h.effLinkPatternStop) e
  | evrecRead _ => exact h.submit (fun h => h.effEvrecRead) e
  | fwStage _ => exact h.submit (fun h => h.effFwStage) e
  | fwActivateTrial _ => exact h.submit (fun h => h.effFwActivateTrial) e
  | fwActivateCommit _ => exact h.submit (fun h => h.effFwActivateCommit) e
  | fwActivateDisarm _ => exact h.submit (fun h => h.effFwActivateDisarm) e
  | fwActivateReset _ => exact h.submit (fun h => h.effFwActivateReset) e
  | powerCapSet _ => exact h.submit (fun h => h.effPowerCapSet) e
  | powerCapQuery _ => exact h.submit (fun h => h.effPowerCapQuery) e
  | setRole _ => exact h.submit (fun h => h.effSetRole) e
  | setPeriod _ => exact h.submit (fun h => h.effSetPeriod) e
  | armEpoch _ => exact h.submit (fun h => h.effArmEpoch) e
  | setBeaconPorts _ => exact h.submit (fun h => h.effSetBeaconPorts) e
  | faultPolicySet _ => exact h.submit (fun h => h.effFaultPolicySet) e
  | faultPolicyDefaults _ => exact h.submit (fun h => h.effFaultPolicyDefaults) e
  | phaseTimesRead _ => exact h.submit (fun h => h.effPhaseTimesRead) e
  | configInstall _ => exact h.submit (fun h => h.effConfigInstall) e
  | configRead _ => exact h.submit (fun h => h.effConfigRead) e
  | saveRoutes _ => exact h.submit (fun h => h.effSaveRoutes) e
  | configClear _ => exact h.submit (fun h => h.effConfigClear) e
  | sqTailDbWrite _ _ _ => exact (Steady.ite h.sqTail h).event e
  | cqHeadDbWrite _ _ _ => exact (Steady.ite h.cqHead h).event e
  | sqCfgWrite _ _ _ => exact (Steady.ite h.sqCfg h).event e
  | cqCfgWrite _ _ _ => exact (Steady.ite h.cqCfg h).event e
  | viCtrlReset _ _ => exact (Steady.ite h.viReset h).event e
  | functionLevelReset _ => exact (Steady.ite h.viReset h).event e
  | viResetComplete _ => exact h.viResetDone.event e
  | fltNtcCfgWrite _ => exact h.ntc.next e
  | fltNtcHeadWrite _ => exact h.ntc.next e
  | fltStatClear _ _ => exact h.statClear.event e
  | weirRtDataWrite _ => exact h.rtDataWrite.next e
  | latchingRead _ _ => exact h.latchingRead.event e
  | rcRead _ _ => exact h.rcRead.event e
  | registerWrite _ _ _ => exact h.regWrite.event e
  | irqTimeExpire _ _ => exact h.irqExpire.event e
  | barrierDispatch _ _ => exact h.dispatchWaiting.event e
  | powerOn _ _ => exact h.powerOn.next e
  | pwrGood => exact h.pwrGood.next e
  | pwrEnDeassert _ => exact h.pwrEnDeassert.next e
  | perstNAssert _ => exact h.perstAssert.next e
  | bootStart => exact h.bootStart.next e
  | bootStageEnd _ => exact h.bootStageEnd.next e
  | pcieConfigRequest _ _ _ => exact h.configRequest.event e
  | trialTimeout => exact h.trialTimeout.next e
  | activateChipReset => exact (Steady.ite h.chipReset h).next e
  | pldmFirmwareUpdate _ => exact h.pldmUpdate.next e
  | spdmRequest _ => exact h.spdmRequest.next e
  | pldmEventRetrieve => exact h.boot.next e
  | pcieHotReset => exact h.hotReset.next e
  | pcieAerError _ => exact h.faultEvent1.next e
  | inputVoltageChange _ => exact h.voltageChange.next e
  | voltageLimitLapse => exact h.voltageLapse.next e
  | feedLost _ _ => exact h.feedLost.event e
  | feedRestored _ _ => exact h.feedRestored.event e
  | powerMeasure _ => exact h.powerMeasure.next e
  | thermalThrottle _ _ => exact h.thermalThrottle.event e
  | thermalStepTimer _ => exact h.thermalTimer.event e
  | thermalTrip _ _ => exact h.thermalTrip.event e
  | hoursTick => exact h.hoursTick.next e
  | fretBoundary _ => exact (Steady.ite h h.fretBoundary).next e
  | ftuLockAcquired => exact h.lockAcquired.next e
  | ftuHoldoverEntry => exact h.holdoverEntry.next e
  | beaconReceive _ _ _ => exact h.beaconIn.event e
  | epochInMark => exact h.updFtu.next e
  | fretRefGained => exact h.updFtu.next e
  | fretRefLost => exact h.updFtu.next e
  | ckptFreeze _ _ => exact h.ckptFreeze.ckptEvent e
  | flipDecision _ _ => exact h.flipDecision.next e
  | collectiveStart _ _ _ => exact h.collStart.event e
  | recalWindowStart _ => exact h.recalStart.event e
  | recalWindowEnd _ _ => exact h.recalEnd.event e
  | recalDueSet _ => exact h.updStk.event e
  | recalForced _ => exact h.recalForced.event e
  | scrubBurst _ _ _ _ => exact h.scrubBurst.event e
  | scrubDemandSlot _ => exact h.event e
  | pageMoveStart _ => exact h.pageMoveStart.event e
  | pageDrainEnd _ _ => exact h.pageDrainEnd.event e
  | pageCopyAheadDone _ _ => exact h.pageCopyAheadDone.event e
  | pageCopyDone _ _ _ => exact h.pageCopyDone.motionEnds.event e
  | frameZeroed _ => exact h.frameZeroed.next e
  | hostTierStream _ _ _ => exact h.hostTierStream.next e
  | tileIssue _ _ _ => exact h.tileIssue.event e
  | tileEnd _ _ _ _ => exact h.tileEnd.event e
  | arrayCheckFail _ _ _ _ _ _ _ => exact h.arrayCheckFail.event e
  | arrayParityHalt _ _ _ _ => exact h.arrayParityHalt.event e
  | braidParityHalt _ _ _ _ => exact h.braidParityHalt.event e
  | capoPointReached _ _ _ => exact h.capoPoint.event e
  | batchStep _ _ => exact h.batchStep.next e
  | exhaustionPolicy _ _ _ => exact h.exhaustion.next e
  | kvPageCheck _ _ _ => exact h.pageCheck.next e
  | kvReceiveTimeout _ _ _ => exact h.receiveTimeout.next e
  | freshetChunkCheck _ _ _ => exact h.chunkCheck.next e
  | pushClaimRetry _ _ _ => exact h.claimRetry.event e
  | freshetBusy _ _ _ => exact h.freshetBusy.event e
  | regionDrainEnd _ _ _ => exact h.regionDrainEnd.next e
  | drainTimeout _ _ => exact h.drainTimeout.next e
  | ckptRegionCopyDone _ _ _ _ => exact h.regionCopyDone.ckptEvent e
  | ckptCopyAheadDone _ _ _ _ => exact h.copyAheadDone.ckptEvent e
  | ckptComplete _ _ => exact h.ckptComplete.ckptEvent e
  | flitReceive _ _ => exact h.flitIn.event e
  | ethFrameReceive _ _ _ _ => exact h.ethIn.event e
  | transitForward _ _ => exact h.transit.event e
  | putData _ => exact h.packetRow e
  | getReq _ => exact h.packetRow e
  | getData _ => exact h.packetRow e
  | atomicReq _ => exact h.packetRow e
  | atomicResp _ => exact h.packetRow e
  | signalPacket _ => exact h.packetRow e
  | ack _ => exact h.packetRow e
  | nak _ => exact h.packetRow e
  | deny _ => exact h.packetRow e
  | grantReq _ => exact h.packetRow e
  | poolSlotGrant _ => exact (h.getD h.grantOne).event e
  | grant _ => exact h.packetRow e
  | collData _ => exact h.packetRow e
  | redData _ => exact h.packetRow e
  | chunkRetransmitTimeout _ _ _ => exact h.retransmit.next e
  | destUnreachable _ _ _ => exact h.destUnreachable.event e
  | groupTimeout _ _ _ => exact h.groupTimeoutAll.next e
  | portTrained _ _ _ _ => exact h.portTrained.event e
  | portFailed _ _ => exact h.portFailed.event e
  | spareFailover _ _ _ => exact h.spareFailover.event e
  | spareUnfit _ _ => exact h.spareUnfit.event e
  | linkPatternEnd _ _ _ => exact h.linkPatternEnd.event e
  | cablePresence _ _ => exact h.cablePresence.event e
  | jobSwitchEnd _ => exact (h.switchEnd fun h => h.runEffect).next e
  | jobEvictionEnd _ => exact h.evictionEnd.next e
  | stepModeTurn => exact h.stepTurn.next e
  | faultEvent _ _ _ _ => exact h.faultEvent.event e
  | faultWindowClose _ => exact h.windowClose.event e
  | eventRecordProgram => exact h.programRecord.next e
  | blockReset _ => exact h.blockReset.event e
  | blockResetDrainEnd _ => exact h.blockDrainEnd.event e
  | blockResetRejoin _ => exact h.blockRejoin.event e
  | chipReset _ => exact h.chipResetRow.next e
  | coreWdog _ _ _ => exact (Steady.ite h.faultEvent1 h).event e
  | tribWdog _ _ => exact h.faultEvent1.event e
  | hwFault _ => exact (Steady.ite h.faultEvent1 h).event e
  | selftestSlotStart _ => exact h.slotStart.event e
  | selftestSlotEnd _ _ _ => exact h.slotEnd.event e
  | sliceStart _ => exact h.sliceStart.event e
  | msiXTableWrite _ _ _ _ => exact (Steady.ite h.msixWrite h).event e
  | spareFit _ => exact h.spareFit.event e
  | hubEngineStall _ _ => exact h.faultEvent1.event e
  | recalibrationTimeout _ => exact (Steady.ite h.faultEvent1 h).event e
  | sliceEnd _ _ _ _ => exact h.sliceEnd.event e
  | boundaryScan _ _ _ _ => exact h.boundaryScan.next e

theorem Steady.refl (s : State) : Steady s.pending (s.memWf = true) s := ⟨rfl, id⟩

/-- Settles O2: every command keeps `Steady`, which fixes the commands that wait. -/
theorem execLeavesQueue : Obligations.ExecLeavesQueue := fun _ s _ e =>
  ((Steady.refl s).exec e).pending

/-- Settles O3: every command, and the tick of an empty queue, keeps `Steady`. -/
theorem stepKeepsMemoryForm : Obligations.StepKeepsMemoryForm := by
  intro s t hs e
  unfold step at e
  split at e
  · exact ((Steady.refl s).tickUnits.next e).memWf hs
  next c rest _ =>
    exact ((Steady.refl { s with pending := rest }).exec e).memWf hs

end Sys2Proof.Machine
end

section
/-! PROOFS. The commands with work at other modules: how they open, and the retries of a push. -/

namespace Sys2Proof.Machine

open Sys2Proof

variable {p : Packet} {s : State}

theorem effRemote_of_good (h : remoteBad p = false) (s : State) :
    effRemote p s = pump (s.openCmd p (.remote 0 0 false)) := by
  simp [effRemote, h]

theorem effKvSend_of_pool (hq : s.pool? p.job (bf p.p0 63 48) = some q) (ht : bf p.p0 47 24 < s.kvTables p.vi q) :
    effKvSend p s = s.openCmd p (.kvSend 9 0 0 [] []) := by
  simp [effKvSend, hq, ht]

theorem effKvSend_of_no_pool (hq : s.pool? p.job (bf p.p0 63 48) = none) :
    effKvSend p s = postErr p 0x0401 (bf p.p0 63 48) s := by
  simp [effKvSend, hq]

/-- A push of regions of a model that the job names is judged by its version alone. -/
theorem effPush_of_regions (hm : s.nameModel p (bf p.p0 15 0) = .ok m) (hn : bf p.p0 47 32 ≠ 0)
    (hr : bf p.p0 31 16 + bf p.p0 47 32 ≤ m.regions.length) :
    effPush p s = if bf p.p1 31 0 = 0xFFFFFFFF then postErr p 0x0616 0xFFFFFFFF s
      else s.openCmd p (.push 10 0 0 0 0 0 0 []) := by
  simp [effPush, hm, hn, hr]

theorem claimRetry_of_blocked {k : Key}
    (ho : s.open? k = some { pkt := p, prog := .push 7 i off sent skipped fixed u got }) :
    claimRetry k s = pump (s.setProg p.key (.push 2 i 0 sent skipped fixed u got)) := by
  simp [claimRetry, ho]

theorem freshetBusy_of_blocked {k : Key}
    (ho : s.open? k = some { pkt := p, prog := .push 7 i off sent skipped fixed u got }) :
    freshetBusy k s = if s.ftu.count.toNat < u then s else stopPush p i 0x0613 s := by
  simp [freshetBusy, ho]

/-- Settles O38: each command opens by its own effect, and a blocked claim by its two events. -/
theorem remoteCommandsComplete : Obligations.RemoteCommandsComplete := by
  unfold Obligations.RemoteCommandsComplete
  refine ⟨fun p s0 hd => ⟨fun hb => ?_, fun q hq ht => ?_, fun hq => ?_, fun m hm hn hr => ⟨fun hv => ?_, fun hv => ?_⟩⟩,
    fun vi sq seq p i off sent skipped fixed u got s hvi ho => ⟨?_, fun hu => ?_, fun hu => ?_⟩⟩
  · rw [exec_put hd, exec_get hd, exec_atomic hd, exec_signal hd, effRemote_of_good hb]
    exact ⟨rfl, rfl, rfl, rfl⟩
  · rw [exec_kvShipSend hd, effKvSend_of_pool hq ht]
  · rw [exec_kvShipSend hd, effKvSend_of_no_pool hq]
  · rw [exec_freshetPush hd, effPush_of_regions hm hn hr, if_neg hv]
  · rw [exec_freshetPush hd, effPush_of_regions hm hn hr, if_pos hv]
  · exact (event_of_ok hvi _).trans (by rw [claimRetry_of_blocked ho])
  · exact (event_of_ok hvi _).trans (by rw [freshetBusy_of_blocked ho, if_pos hu])
  · exact (event_of_ok hvi _).trans (by rw [freshetBusy_of_blocked ho, if_neg (Nat.not_lt.2 hu)]; rfl)

end Sys2Proof.Machine
end

section
/-! PROOFS. A remote operation at its destination: the checks of Table 13.8, and what it does where none fails. -/

namespace Sys2Proof.Machine

open Sys2Proof

variable {id : Nat} {dom : Word} {r : Req} {s : State} {j : Job}

/-! ## The checks of Table 13.8 (R546, R547) -/

theorem doReq_of_refusal {e : Byte × Half × Nat} (h : reqRefusal id dom r s = some e) :
    doReq id dom r s = (s, .deny e.1 e.2.1 e.2.2) := by
  rw [doReq, h]

theorem reqRefusal_of_no_job (h : s.job? id = none) :
    reqRefusal id dom r s = some (0x12, 0x0701, s.moduleId * 2 ^ 16 + id) := by
  unfold reqRefusal
  rw [h]

theorem reqRefusal_of_domain (hj : s.job? id = some j) (hd : dom = 0 ∨ dom ≠ j.domain) :
    reqRefusal id dom r s = some (0x12, 0x0702, s.moduleId * 2 ^ 16 + id) := by
  simp only [reqRefusal, hj, if_pos hd]

theorem reqRefusal_of_unmapped (hj : s.job? id = some j) (h0 : dom ≠ 0) (hd : dom = j.domain)
    (ha : s.firstUnmapped j.vi r.span.1 r.span.2 = some a) : reqRefusal id dom r s = some (0x12, 0x0703, a) := by
  have hin : ¬(dom = 0 ∨ dom ≠ j.domain) := not_or.2 ⟨h0, not_not.2 hd⟩
  simp only [reqRefusal, hj, if_neg hin, ha]

/-- Address of an operation that needs a multiple of 8 (R540, R541). -/
def Req.wordAddr : Req → Option Nat
  | .atomic _ a _ _ _ | .signal a _ => some a
  | .put _ _ | .get _ _ _ => none

/-- In a mapped range of its domain an operation fails at a word that is not aligned only. -/
theorem reqRefusal_of_mapped (hj : s.job? id = some j) (h0 : dom ≠ 0) (hd : dom = j.domain)
    (ha : s.firstUnmapped j.vi r.span.1 r.span.2 = none) :
    reqRefusal id dom r s = (r.wordAddr.filter (· % 8 ≠ 0)).map fun a => (0xFF, 0x0704, a) := by
  subst hd
  have h0 : j.domain ≠ 0#32 := h0
  cases r with
  | put _ _ | get _ _ _ => simp [reqRefusal, hj, h0, ha, Req.wordAddr]
  | atomic _ a _ _ _ | signal a _ => by_cases h8 : a % 8 = 0 <;> simp [reqRefusal, hj, h0, ha, Req.wordAddr, Option.filter, h8]

theorem doReq_of_unaligned (hj : s.job? id = some j) (h0 : dom ≠ 0) (hd : dom = j.domain)
    (ha : s.firstUnmapped j.vi r.span.1 r.span.2 = none) (hw : r.wordAddr = some a) (h8 : a % 8 ≠ 0) :
    doReq id dom r s = (s, .deny 0xFF 0x0704 a) :=
  doReq_of_refusal (e := (0xFF, 0x0704, a)) (by simp [reqRefusal_of_mapped hj h0 hd ha, hw, h8])

/-! ## Its effect (R538 to R541) -/

theorem doReq_put (hj : s.job? id = some j) (hr : reqRefusal id dom (.put a d) s = none) :
    doReq id dom (.put a d) s = (vwrite j.vi a d s, .ok []) := by
  simp [doReq, hr, hj]

theorem doReq_get (hj : s.job? id = some j) (hr : reqRefusal id dom (.get a n to_) s = none)
    (hv : vread j.vi s a n = .ok d) : doReq id dom (.get a n to_) s = (s, .ok d) := by
  simp [doReq, hr, hj, hv]

theorem doReq_atomic (hj : s.job? id = some j) (hr : reqRefusal id dom (.atomic op a x y to_) s = none)
    (hv : vread j.vi s a 8 = .ok d) :
    doReq id dom (.atomic op a x y to_) s = (vwrite j.vi a (leBytes 8 (atomicNew op (leNat d) x y)) s, .ok d) := by
  simp [doReq, hr, hj, hv]

theorem doReq_signal (hj : s.job? id = some j) (hr : reqRefusal id dom (.signal a v) s = none)
    (hv : vread j.vi s a 8 = .ok d) :
    doReq id dom (.signal a v) s = (vwrite j.vi a (leBytes 8 (leNat d + v)) s, .ok d) := by
  simp [doReq, hr, hj, hv]

/-- An operation changes at most what a write of bytes changes. -/
theorem doReq_writesOnly (id : Nat) (dom : Word) (r : Req) (s : State) : WritesOnly s (doReq id dom r s).1 := by
  unfold doReq
  cases reqRefusal id dom r s with
  | some e => exact .refl s
  | none =>
    cases r with
    | put a d => exact vwrite_writesOnly ..
    | get _ _ _ =>
      dsimp only
      split <;> exact .refl s
    | atomic _ _ _ _ _ | signal _ _ =>
      dsimp only
      split
      · exact vwrite_writesOnly ..
      · exact .refl s

/-- Settles O39: the checks of Table 13.8 in their order, then the effect of each operation. -/
theorem remoteOperationEffect : Obligations.RemoteOperationEffect := by
  unfold Obligations.RemoteOperationEffect
  refine fun id dom r s => ⟨fun hj => doReq_of_refusal (reqRefusal_of_no_job hj), fun j hj => ⟨fun hd =>
    doReq_of_refusal (reqRefusal_of_domain hj hd), fun h0 hd => ⟨fun a ha =>
    doReq_of_refusal (reqRefusal_of_unmapped hj h0 hd ha), fun ha => ?_⟩, doReq_writesOnly id dom r s⟩⟩
  have hok := reqRefusal_of_mapped hj h0 hd ha
  refine ⟨?_, ?_, ?_, ?_, ?_, ?_, ?_⟩
  · rintro a d rfl
    exact doReq_put hj hok
  · rintro a n to_ d rfl hv
    exact doReq_get hj hok hv
  · rintro op a x y to_ rfl h8
    exact doReq_of_unaligned hj h0 hd ha rfl h8
  · rintro a v rfl h8
    exact doReq_of_unaligned hj h0 hd ha rfl h8
  · rintro a x y to_ d rfl h8 hv
    exact doReq_atomic hj (hok.trans (by simp [Req.wordAddr, h8])) hv
  · rintro a x y to_ d rfl h8 hv
    exact doReq_atomic hj (hok.trans (by simp [Req.wordAddr, h8])) hv
  · rintro a v d rfl h8 hv
    exact doReq_signal hj (hok.trans (by simp [Req.wordAddr, h8])) hv

end Sys2Proof.Machine
end

section
/-! PROOFS. Answers, ACK, NAK and DENY at the source of a request, and its time-outs. -/

namespace Sys2Proof.Machine

open Sys2Proof

variable {q : FabPkt} {c : TxChunk} {o : OpenCmd} {s : State}

/-- A packet that asks nothing is never held, and is taken at once (R490). -/
theorem takePacket_of_no_request (hdst : q.dst.toNat = s.moduleId) (hasks : asks q = false) :
    takePacket q s = takeOwn q s := by
  have hfree : s.holdsPkt s.fab.heldPkts q = false := by simp [State.holdsPkt, State.pktMoves, hasks]
  rw [takePacket, if_neg (not_not_intro hdst), hfree, if_neg Bool.false_ne_true]

theorem exec_getData (hdst : q.dst.toNat = s.moduleId) :
    exec (.getData q) s = .next (takeAnswerPkt { q with kind := 0x03 } s) :=
  congrArg _ (takePacket_of_no_request (q := { q with kind := 0x03 }) hdst rfl)

theorem exec_atomicResp (hdst : q.dst.toNat = s.moduleId) :
    exec (.atomicResp q) s = .next (takeAnswerPkt { q with kind := 0x05 } s) :=
  congrArg _ (takePacket_of_no_request (q := { q with kind := 0x05 }) hdst rfl)

theorem exec_ack (hdst : q.dst.toNat = s.moduleId) : exec (.ack q) s = .next (takeAck q s) :=
  congrArg _ (takePacket_of_no_request (q := { q with kind := 0x08 }) hdst rfl)

theorem exec_nak (hdst : q.dst.toNat = s.moduleId) : exec (.nak q) s = .next (takeNak q s) :=
  congrArg _ (takePacket_of_no_request (q := { q with kind := 0x09 }) hdst rfl)

theorem exec_deny (hdst : q.dst.toNat = s.moduleId) : exec (.deny q) s = .next (takeDeny q s) :=
  congrArg _ (takePacket_of_no_request (q := { q with kind := 0x0A }) hdst rfl)

/-! ## Answers (R539, R540) -/

/-- The kept request that an answer names. -/
def answersTo (q : FabPkt) (c : TxChunk) : Bool :=
  c.dst == q.src && c.chunk == q.chunkSeq && c.stream % 64 == pktChan q
    && (if q.kind = 0x03 then c.kind == 2 else c.kind == 4 || c.kind == 6)
    && (match c.pkts with
        | r :: _ => decide (askerOf r.kind r.data = (q.dstJob.toNat, if c.kind = 6 then 0 else q.addr.toNat))
        | [] => false)

/-- The state in which an answer of one packet is in. -/
def answerIn (q : FabPkt) (s : State) : State :=
  setRx { s.rxOf q.src (2 ^ 23 + chanCode q.dstJob.toNat (pktChan q)) with data := [], next := q.chunkSeq, fails := 0 } s

theorem assembleChunk_of_one (hfirst : q.first = true) (hlast : q.last = true) (hcrc : q.crc = crc32c q.data) :
    assembleChunk q (2 ^ 23 + chanCode q.dstJob.toNat (pktChan q)) s = (answerIn q s, some (true, q.data)) := by
  simp [assembleChunk, answerIn, hfirst, hlast, hcrc]

/-- An answer in one packet to a kept request is acknowledged, and its command takes it. -/
theorem takeAnswerPkt_of_named (hfirst : q.first = true) (hlast : q.last = true) (hcrc : q.crc = crc32c q.data)
    (hc : s.fab.unacked.find? (answersTo q) = some c)
    (ho : c.cmd.bind (dropChunk c (sendAck q (answerIn q s))).open? = some o) :
    takeAnswerPkt q s = pumpAll (answer o c.dst.toNat c.target.2 c.target.1 (.ok q.data)
      (dropChunk c (sendAck q (answerIn q s)))) := by
  rw [takeAnswerPkt, assembleChunk_of_one hfirst hlast hcrc]
  dsimp only
  rw [chunkBase_of_one_packet]
  split
  next hnone => exact absurd (hnone.symm.trans hc) (by simp)
  next c' hsome =>
    obtain rfl : c' = c := Option.some.inj (hsome.symm.trans hc)
    simp only [Bool.not_true, Bool.false_eq_true, if_false, ho]

/-! ## ACK, NAK, DENY (R534, R547) -/

theorem takeAck_of_none (h : s.named q = none) : takeAck q s = s := by rw [takeAck, h]
theorem takeNak_of_none (h : s.named q = none) : takeNak q s = s := by rw [takeNak, h]
theorem takeDeny_of_none (h : s.named q = none) : takeDeny q s = s := by rw [takeDeny, h]

theorem takeAck_of_put (h : s.named q = some c) (hk : c.kind = 1) (ho : c.cmd.bind s.open? = some o) :
    takeAck q s = pumpAll (answer o c.dst.toNat c.target.2 c.target.1 (.ok []) (dropChunk c s)) := by
  have ha : c.answers = false := by simp [TxChunk.answers, hk]
  simp [takeAck, h, ha, hk, ho]

theorem takeNak_of_sequence (h : s.named q = some c) (hd : q.data.getD 1 0 = 2) : takeNak q s = resend c s := by
  simp only [takeNak, h, hd]
  rfl

theorem takeDeny_of_remote (h : s.named q = some c) (ho : c.cmd.bind (dropChunk c s).open? = some o)
    (hp : o.prog = .remote a b false) : takeDeny q s =
      pumpAll (postFinal o.pkt (q.data.getD 1 0) (BitVec.ofNat 16 (blk q.data 2 2)) (blk q.data 4 8) 0
        (markWork o.pkt (dropChunk c s))) := by
  simp [takeDeny, h, endByChunk, ho, hp, answer]

/-! ## Time-outs (R534, R550) -/

theorem retransmit_of_kept (h : s.fab.unacked.find? (fun c => c.dst == dst && c.stream == st && c.chunk == k) = some c) :
    retransmit dst st k s = resend c s := by
  simp only [retransmit, h]

/-- A remote operation that no ACK comes for ends, and one that an ABORT has stopped ends as the ABORT says. -/
theorem destUnreachable_of_remote {k : Key} {p : Packet} {ab : Bool}
    (ho : s.open? k = some { pkt := p, prog := .remote n acked ab })
    (hc : s.fab.unacked.find? (fun c => c.cmd == some p.key) = some c) :
    destUnreachable k s = pumpAll (if ab then abortOpen p s else postErr p 0x0705 acked (dropWork k s)) := by
  cases ab <;> simp [destUnreachable, ho, unansweredBy, hc, ackedBytes]

/-- Settles O41: each packet by the kept chunk that it names. -/
theorem answerPacketsArrive : Obligations.AnswerPacketsArrive := by
  unfold Obligations.AnswerPacketsArrive
  refine ⟨fun p c o s hdst hfirst hlast hcrc => ⟨fun hc ho => ?_, fun hc ho => ?_⟩, fun p s hdst hn => ⟨?_, ?_, ?_⟩,
    fun p c s hdst hn => ⟨fun hd => ?_, fun o hk ho => ?_, fun o a b ho hp => ?_⟩,
    fun dst st k c s hc => congrArg _ (retransmit_of_kept hc),
    fun vi sq seq p n acked ab c s hvi ho hc => (event_of_ok hvi _).trans (congrArg _ (destUnreachable_of_remote ho hc))⟩
  · rw [exec_getData hdst]
    exact congrArg _ (takeAnswerPkt_of_named (q := { p with kind := 0x03 }) hfirst hlast hcrc hc ho)
  · rw [exec_atomicResp hdst]
    exact congrArg _ (takeAnswerPkt_of_named (q := { p with kind := 0x05 }) hfirst hlast hcrc hc ho)
  · rw [exec_ack hdst, takeAck_of_none hn]
  · rw [exec_nak hdst, takeNak_of_none hn]
  · rw [exec_deny hdst, takeDeny_of_none hn]
  · rw [exec_nak hdst, takeNak_of_sequence hn hd]
  · rw [exec_ack hdst, takeAck_of_put hn hk ho]
  · rw [exec_deny hdst, takeDeny_of_remote hn ho hp]

end Sys2Proof.Machine
end

section
/-! PROOFS. Collectives, groups, domains and the grants of the reduction pool. -/

namespace Sys2Proof.Machine

open Sys2Proof

variable {p : Packet} {s : State} {g : Group} {half : Nat}

/-! ## Collectives (R559, R562 to R565) -/

/-- A collective of a group that no RELEASE waits for, with parameters that the rules allow, is judged by its table. -/
theorem effColl_of_group {t : List Nat} (hg : s.group? p.job (collOf p).group = some g)
    (hc : ∀ o ∈ s.opens, o.pkt.job = p.job → o.prog ≠ .groupRelease (collOf p).group) (hb : collBad (collOf p) g = false)
    (hs : (collOf p).start = 0 ∨ schedRefusal (collOf p).start s = none) (hgather : ¬(p.op = 0x0707 ∧ 1 < bf p.p0 11 8))
    (hwire : ¬((collOf p).kind = 2 ∧ g.level = 2 ∧ !([0x06, 0x07, 0x0D].contains (collOf p).wireFmt)))
    (ht : (if (collOf p).kind = 1 then permTable p g s else .ok []) = .ok t)
    (hperm : (collOf p).kind = 1 → isPerm g.size t = true) : effColl p s = enterColl p g t s := by
  have hopen : (s.opens.any fun o => o.pkt.job == p.job && o.prog == .groupRelease (collOf p).group) = false := by
    simpa using hc
  have hbad : ¬(collBad (collOf p) g = true ∨ (p.op = 0x0707 ∧ 1 < bf p.p0 11 8)) := by simp [hb, hgather]
  have hp : ¬((collOf p).kind = 1 ∧ !(isPerm g.size t)) := by
    rintro ⟨hk, hn⟩
    simp [hperm hk] at hn
  have hstart : (if (collOf p).start = 0 then none else schedRefusal (collOf p).start s) = none := by
    rcases hs with h | h
    · rw [if_pos h]
    · rw [h, ite_self]
  simp only [effColl, hg, hopen, Bool.not_false, Option.filter_some, if_true, if_neg hbad, if_neg hwire, ht, if_neg hp, hstart]

theorem effColl_of_no_group (hg : s.group? p.job (collOf p).group = none) :
    effColl p s = postErr p 0x0711 (collOf p).group s := by
  simp [effColl, hg]

theorem collOf_kind (p : Packet) : (collOf p).kind = p.op - 0x0705 := rfl

/-! ## Groups and domains (R546, R557, R561) -/

theorem effGroupRelease_of_no_group (hg : s.group? p.job (bf p.p0 13 8) = none) :
    effGroupRelease p s = postErr p 0x0711 (bf p.p0 13 8) s := by
  simp [effGroupRelease, hg]

/-- A RELEASE that no command of its group precedes frees the group at once. -/
theorem effGroupRelease_of_idle (hg : s.group? p.job (bf p.p0 13 8) = some g) (hq : g.queue = []) (ho : s.opens = []) :
    effGroupRelease p s = postDone p 0 0 (freeGroup p.job (bf p.p0 13 8) (s.openCmd p (.groupRelease (bf p.p0 13 8)))) := by
  have hg' : (s.openCmd p (.groupRelease (bf p.p0 13 8))).group? p.job (bf p.p0 13 8) = some g := hg
  have hopens : (s.openCmd p (.groupRelease (bf p.p0 13 8))).opens = [⟨p, .groupRelease (bf p.p0 13 8)⟩] := by
    simp [State.openCmd, ho]
  simp [effGroupRelease, hg, settleGroups, hopens, hg', hq]

section
variable {b : List Byte}

/-- The members that a DEFINE names. -/
def membersOf (n : Nat) (b : List Byte) : List (Half × Half) :=
  (List.range n).map fun i => (BitVec.ofNat 16 (blk b (4 * i) 2), BitVec.ofNat 16 (blk b (4 * i + 2) 2))

/-- The group that a DEFINE makes. -/
def definedGroup (p : Packet) (b : List Byte) : Group :=
  { job := p.job, num := bf p.p0 13 8, members := membersOf (bf p.p2 31 0) b, rank := bf p.p2 63 32
    level := bf p.p0 25 24, weight := bf p.p0 23 16, timeout := bf p.p3 31 0, nextOp := 0, queue := [] }

theorem effGroupDefine_of_new (hw : bf p.p0 23 16 ≠ 0) (hl : bf p.p0 25 24 = 1 ∨ bf p.p0 25 24 = 2)
    (hn : 2 ≤ bf p.p2 31 0) (hn' : bf p.p2 31 0 ≤ 65536) (hr : bf p.p2 63 32 < bf p.p2 31 0)
    (hv : vread p.vi s p.p1.toNat (4 * bf p.p2 31 0) = .ok b) (hroom : s.fab.groups.length < 64)
    (hg : s.group? p.job (bf p.p0 13 8) = none)
    (hme : ((membersOf (bf p.p2 31 0) b).getD (bf p.p2 63 32) (0, 0)).1.toNat = s.moduleId)
    (hjob : ((membersOf (bf p.p2 31 0) b).getD (bf p.p2 63 32) (0, 0)).2.toNat = p.job)
    (hrack : bf p.p0 25 24 = 1 → ∀ m ∈ membersOf (bf p.p2 31 0) b, m.1.toNat / 1024 = s.moduleId / 1024) :
    effGroupDefine p s = postDone p 0 0 { s with fab := { s.fab with groups := s.fab.groups ++ [definedGroup p b] } } := by
  have hgood : ¬(bf p.p0 23 16 = 0 ∨ bf p.p0 25 24 = 0 ∨ bf p.p0 25 24 = 3 ∨ bf p.p2 31 0 < 2 ∨ 65536 < bf p.p2 31 0
      ∨ bf p.p2 31 0 ≤ bf p.p2 63 32) := by omega
  have hfit : ¬((s.group? p.job (bf p.p0 13 8)).isSome
      ∨ ((membersOf (bf p.p2 31 0) b).getD (bf p.p2 63 32) (0, 0)).1.toNat ≠ s.moduleId
      ∨ ((membersOf (bf p.p2 31 0) b).getD (bf p.p2 63 32) (0, 0)).2.toNat ≠ p.job
      ∨ (bf p.p0 25 24 = 1 ∧ (membersOf (bf p.p2 31 0) b).any fun m => m.1.toNat / 1024 != s.moduleId / 1024)) := by
    rintro (h | h | h | ⟨h1, h⟩)
    · simp [hg] at h
    · exact h hme
    · exact h hjob
    · obtain ⟨m, hm, hne⟩ := List.any_eq_true.1 h
      exact (bne_iff_ne.1 hne) (hrack h1 m hm)
  unfold effGroupDefine
  simp only [if_neg hgood, hv, if_neg (Nat.not_le.2 hroom)]
  exact if_neg hfit

end

/-! ## Events -/

theorem collStart_of_due {k : Key} (h : takeDue .coll k s = some t) : collStart k s = pumpAll t := by
  rw [collStart, h]

theorem collStart_of_not_due {k : Key} (h : takeDue .coll k s = none) : collStart k s = s := by
  rw [collStart, h]

theorem grantOne_of_none (h : nextGrant half s = none) : (grantOne half s).getD s = s := by
  simp [grantOne, h]

/-- A granted request leaves the waiting ones with its slot open, and its member is told (R574). -/
theorem grantOne_of_next {w : GrantWait} {s1 : State} (h : nextGrant half s = some (w, s1))
    (hc : ((if ((dropWait w s1).slot? w.job w.group w.op w.chunk).isSome then dropWait w s1
      else openSlot w (dropWait w s1)).collAt w.job w.group w.op).isSome = true) :
    (grantOne half s).getD s = sendGrant w (if ((dropWait w s1).slot? w.job w.group w.op w.chunk).isSome then dropWait w s1
      else openSlot w (dropWait w s1)) := by
  simp [grantOne, h, hc]

/-- Settles O42: each command by its own effect, and each event by what it finds. -/
theorem collectiveCommandsComplete : Obligations.CollectiveCommandsComplete := by
  unfold Obligations.CollectiveCommandsComplete
  refine ⟨fun p s0 hd => ⟨fun g hg hc hb hs => ⟨fun hop => ?_, fun l hop ht hperm => ?_, fun hop hgather hwire => ?_⟩,
    fun hg => ⟨?_, ?_, ?_⟩, fun b hw hl hn hn' hr hv hroom hg hme hjob hrack => ?_, fun hg => ?_,
    fun g hg hq ho => ?_, ?_⟩, fun vi sq seq s hvi => ⟨fun t ht => ?_, fun ht => ?_⟩,
    fun half s hh => ⟨fun hn => ?_, fun w s1 hn hc => ?_⟩⟩
  · rw [exec_shift hd]
    exact congrArg _ (effColl_of_group hg hc hb hs (by omega) (by simp [collOf_kind, hop])
      (if_neg (by simp [collOf_kind, hop])) (by simp [collOf_kind, hop]))
  · rw [exec_permute hd]
    exact congrArg _ (effColl_of_group hg hc hb hs (by omega) (by simp [collOf_kind, hop])
      ((if_pos (by simp [collOf_kind, hop])).trans ht) fun _ => hperm)
  · rw [exec_reduceShift hd]
    refine congrArg _ (effColl_of_group hg hc hb hs (by omega) ?_ (if_neg (by simp [collOf_kind, hop]))
      (by simp [collOf_kind, hop]))
    rintro ⟨-, hl, hw⟩
    rcases hwire with h | h | h | h
    · exact h hl
    all_goals simp [h] at hw
  · rw [exec_shift hd, effColl_of_no_group hg]
  · rw [exec_permute hd, effColl_of_no_group hg]
  · rw [exec_reduceShift hd, effColl_of_no_group hg]
  · rw [exec_groupDefine hd]
    exact congrArg _ (effGroupDefine_of_new hw hl hn hn' hr hv hroom hg hme hjob hrack)
  · rw [exec_groupRelease hd, effGroupRelease_of_no_group hg]
  · rw [exec_groupRelease hd, effGroupRelease_of_idle hg hq ho]
  · rw [exec_setDomain hd, effSetDomain]
  · exact (event_of_ok hvi _).trans (congrArg _ (collStart_of_due ht))
  · exact (event_of_ok hvi _).trans (congrArg _ (collStart_of_not_due ht))
  · exact (event_of_ok (decide_eq_true hh) _).trans (congrArg _ (grantOne_of_none hn))
  · exact (event_of_ok (decide_eq_true hh) _).trans (congrArg _ (grantOne_of_next hn hc))

end Sys2Proof.Machine
end

section
/-! PROOFS. Packets of group operations: requests for slots, grants and data chunks. -/

namespace Sys2Proof.Machine

open Sys2Proof

variable {q : FabPkt} {s : State} {g : Group} {o : OpenCmd}

/-! ## The rows -/

theorem exec_grantReq (hdst : q.dst.toNat = s.moduleId) :
    exec (.grantReq q) s = .next (takeGrantReq { q with kind := 0x10 } s) :=
  congrArg _ (takePacket_of_no_request (q := { q with kind := 0x10 }) hdst rfl)

theorem exec_grant (hdst : q.dst.toNat = s.moduleId) : exec (.grant q) s = .next (takeGrant q s) :=
  congrArg _ (takePacket_of_no_request (q := { q with kind := 0x11 }) hdst rfl)

theorem exec_collData (hdst : q.dst.toNat = s.moduleId) :
    exec (.collData q) s = .next (takeGroupData { q with kind := 0x12 } s) :=
  congrArg _ (takePacket_of_no_request (q := { q with kind := 0x12 }) hdst rfl)

theorem exec_redData (hdst : q.dst.toNat = s.moduleId) :
    exec (.redData q) s = .next (takeGroupData { q with kind := 0x13 } s) :=
  congrArg _ (takePacket_of_no_request (q := { q with kind := 0x13 }) hdst rfl)

/-! ## Requests for slots (R573) -/

theorem takeGrantReq_of_denied {e : Half × Nat} (h : groupDenied q s = some e) :
    takeGrantReq q s = sendDeny q 0x12 e.1 e.2 s := by
  rw [takeGrantReq, h]

/-- The request of a member for the slot of a chunk. -/
def waitOf (q : FabPkt) (m : Nat) (s : State) : GrantWait :=
  { half := s.redHalf q.chunkSeq.toNat, job := q.dstJob.toNat, group := pktGroup q, op := pktOp q
    chunk := q.chunkSeq.toNat, member := m, src := q.src }

/-- A request of a reduction in progress is granted again, or waits once. -/
theorem takeGrantReq_of_reduction (hd : groupDenied q s = none) (hg : s.group? q.dstJob.toNat (pktGroup q) = some g)
    (ho : s.collAt q.dstJob.toNat (pktGroup q) (pktOp q) = some o) (hp : o.prog = .coll n op st out recv u)
    (hm : senderOf g recv q.src q.chunkSeq.toNat = some m) (hr : recv.find? (fun e => e.1 == m) = some (m, total, got))
    (hk : (collOf o.pkt).kind = 2) (ht : q.chunkSeq.toNat < total) :
    takeGrantReq q s =
      if q.chunkSeq.toNat < got then sendGrant (waitOf q m s) s
      else if waitOf q m s ∈ s.fab.grantWaits then s
      else pumpAll { s with fab := { s.fab with grantWaits := s.fab.grantWaits ++ [waitOf q m s] } } := by
  have hfit : ¬((collOf o.pkt).kind ≠ 2 ∨ total ≤ q.chunkSeq.toNat) := by omega
  simp only [takeGrantReq, hd, hg, ho, hp, hm, hr, Option.map_some, Option.getD_some, if_neg hfit, List.contains_iff_mem]
  rfl

/-! ## Grants (R570, R573) -/

/-- The kept request that a GRANT names. -/
def grants (q : FabPkt) (s : State) (c : TxChunk) : Bool :=
  c.kind == 0x10 && c.dst == q.src && c.chunk == q.chunkSeq && c.stream % 64 == pktGroup q
    && (match c.cmd.bind s.open? with | some o => o.pkt.job == q.dstJob.toNat | none => false)

theorem takeGrant_of_none (h : s.fab.unacked.find? (grants q s) = none) : takeGrant q s = s := by
  unfold takeGrant
  dsimp only
  split
  · rfl
  next c hsome => exact absurd (hsome.symm.trans h) (by simp)

/-- The member of a group that a kept request went to. -/
def grantedMember (q : FabPkt) (c : TxChunk) (g : Group) (out : List (Nat × Nat × Nat)) : Nat :=
  ((out.find? fun e =>
    let t := g.members.getD e.1 (0, 0)
    t.1 == c.dst && groupCode t.2.toNat (pktGroup q) == c.stream).map (·.1)).getD 0

/-- A grant of a kept request sends the chunk, formed in the state in which the wait for partners starts again. -/
theorem takeGrant_of_kept {c : TxChunk} (hc : s.fab.unacked.find? (grants q s) = some c) (ho : c.cmd.bind s.open? = some o)
    (hg : s.group? q.dstJob.toNat (pktGroup q) = some g) (hp : o.prog = .coll n op st out recv u)
    (hd : redData o.pkt (collOf o.pkt) ((collOf o.pkt).part g.size (grantedMember q c g out)) c.chunk.toNat
      (markPhase q.dstJob.toNat 4 ((dropChunk c s).setProg o.pkt.key (.coll (pktGroup q) op st out recv (untilFret g s))))
        = .ok (d, t)) :
    takeGrant q s = sendGroup o.pkt g op (grantedMember q c g out) c.chunk.toNat 0x13
      ((collOf o.pkt).chunkAt ((collOf o.pkt).part g.size (grantedMember q c g out)) c.chunk.toNat).1
      (perPacket (collOf o.pkt).wireFmt) d t := by
  unfold grantedMember at hd ⊢
  unfold takeGrant
  dsimp only
  split
  next hnone => exact absurd (hnone.symm.trans hc) (by simp)
  next c' hsome =>
    obtain rfl : c' = c := Option.some.inj (hsome.symm.trans hc)
    simp only [ho, hg, hp, hd]

/-! ## Data chunks (R559, R571) -/

/-- The state in which a chunk of one packet is in. -/
def groupIn (q : FabPkt) (s : State) : State :=
  setRx { s.rxOf q.src (groupCode q.dstJob.toNat (pktGroup q)) with data := [], next := q.chunkSeq, fails := 0 } s

/-- A chunk that its operation expects: its number says whether it is in already, is ahead, or takes effect. -/
theorem takeGroupData_of_expected (hden : groupDenied q s = none) (hg : s.group? q.dstJob.toNat (pktGroup q) = some g)
    (hfirst : q.first = true) (hlast : q.last = true) (hcrc : q.crc = crc32c q.data)
    (ho : (groupIn q s).collAt q.dstJob.toNat (pktGroup q) (pktOp q) = some o) (hp : o.prog = .coll n op st out recv u)
    (hm : senderOf g recv q.src q.chunkSeq.toNat = some m) (hr : recv.find? (fun e => e.1 == m) = some (m, total, got))
    (ht : q.chunkSeq.toNat < total) (hlen : q.data.length = (collOf o.pkt).bytesOf g.size g.rank q.chunkSeq.toNat)
    (hkind : q.kind = if (collOf o.pkt).kind = 2 then 0x13 else 0x12) :
    takeGroupData q s =
      if q.chunkSeq.toNat < got then sendAck q (groupIn q s)
      else if got < q.chunkSeq.toNat then sendNak q 2 (groupIn q s)
      else if (collOf o.pkt).kind = 2 then
        applyRed q o g (pktOp q) m q.chunkSeq.toNat recv.length q.data (groupIn q s)
      else applyColl q o g (pktOp q) m q.chunkSeq.toNat q.data (groupIn q s) := by
  have ha : assembleChunk q (groupCode q.dstJob.toNat (pktGroup q)) s = (groupIn q s, some (true, q.data)) := by
    simp [assembleChunk, groupIn, hfirst, hlast, hcrc]
  have hg' : (groupIn q s).group? q.dstJob.toNat (pktGroup q) = some g := hg
  have hfit : ¬(((collOf o.pkt).kind = 2 ∧ q.kind ≠ 0x13) ∨ ((collOf o.pkt).kind ≠ 2 ∧ q.kind ≠ 0x12)
      ∨ total ≤ q.chunkSeq.toNat ∨ q.data.length ≠ (collOf o.pkt).bytesOf g.size g.rank q.chunkSeq.toNat) := by
    rintro (⟨h, hn⟩ | ⟨h, hn⟩ | h | h)
    · exact hn (hkind.trans (if_pos h))
    · exact hn (hkind.trans (if_neg h))
    · exact absurd ht (Nat.not_lt.2 h)
    · exact h hlen
  simp only [takeGroupData, hden, ha, hg', ho, hp, hm, Option.bind_some, hr, Bool.not_true, Bool.false_eq_true, if_false,
    if_neg hfit]

theorem applyColl_of_stored (h : vstore o.pkt ((collOf o.pkt).dst + k * chunkMax) d (markPhase o.pkt.job 4 s) = (t, none)) :
    applyColl q o g op m k d s = pumpAll (sendAck q (countIn o g m t)) := by
  simp only [applyColl, h]

/-- A contribution is one more of its slot. -/
@[simp] theorem addInto_from (x : Coll) (fmt n : Nat) (d : List Byte) (t : PoolSlot) : (addInto x fmt n d t).from_ = t.from_ := by
  simp only [addInto]
  split <;> rfl

theorem applyRed_of_not_last {t : PoolSlot} (ht : s.slot? o.pkt.job g.num op k = some t) (hl : t.from_.length + 1 < senders) :
    applyRed q o g op m k senders d s =
      let x := collOf o.pkt
      let t1 := addInto x x.wireFmt (x.chunkAt (x.part g.size g.rank) k).2 d { t with from_ := t.from_ ++ [m] }
      let s3 := markPhase o.pkt.job 4 s
      pumpAll (sendAck q (countIn o g m { s3 with fab := { s3.fab with slots := s3.fab.slots.filter (· != t) ++ [t1] } })) := by
  simp [applyRed, ht, hl]

/-- Settles O43: each packet by what it finds of its group, its operation and its slot. -/
theorem groupPacketsArrive : Obligations.GroupPacketsArrive := by
  unfold Obligations.GroupPacketsArrive
  intro p s hdst id num op k
  refine ⟨fun r hr => ?_, fun g o m n u total got st out recv hden hg ho hp hm hr hk ht => ?_,
    ⟨fun hn => ?_, fun c o g n n2 u st out recv d s2 hc ho hg hp hd => ?_⟩,
    fun g o m n u total got st out recv s2 hden hg hfirst hlast hcrc ho hp hm hr ht hlen => ⟨fun hk => ?_, fun hk => ?_⟩⟩
  · rw [exec_grantReq hdst]
    exact congrArg _ (takeGrantReq_of_denied (q := { p with kind := 0x10 }) hr)
  · rw [exec_grantReq hdst, takeGrantReq_of_reduction (q := { p with kind := 0x10 }) hden hg ho hp hm hr hk ht]
    exact ⟨fun h => congrArg _ (if_pos h), fun h hw => congrArg _ ((if_neg (Nat.not_lt.2 h)).trans (if_pos hw)),
      fun h hw => congrArg _ ((if_neg (Nat.not_lt.2 h)).trans (if_neg hw))⟩
  · rw [exec_grant hdst]
    exact congrArg _ (takeGrant_of_none hn)
  · rw [exec_grant hdst]
    exact congrArg _ (takeGrant_of_kept hc ho hg hp hd)
  · have hk2 : ¬(collOf o.pkt).kind = 2 := by omega
    rw [exec_collData hdst, takeGroupData_of_expected (q := { p with kind := 0x12 }) hden hg hfirst hlast hcrc ho hp hm hr
      ht hlen (if_neg hk2).symm, if_neg hk2]
    refine ⟨fun h => congrArg _ (if_pos h), fun h => congrArg _ ((if_neg (Nat.lt_asymm h)).trans (if_pos h)), fun h hv => ?_⟩
    rw [if_neg (Nat.not_lt.2 h.ge), if_neg (Nat.not_lt.2 h.le)]
    exact congrArg _ (applyColl_of_stored hv)
  · rw [exec_redData hdst, takeGroupData_of_expected (q := { p with kind := 0x13 }) hden hg hfirst hlast hcrc ho hp hm hr
      ht hlen (if_pos hk).symm, if_pos hk]
    refine ⟨fun h => congrArg _ (if_pos h), fun h => congrArg _ ((if_neg (Nat.lt_asymm h)).trans (if_pos h)),
      fun t h hs hl => ?_⟩
    rw [if_neg (Nat.not_lt.2 h.ge), if_neg (Nat.not_lt.2 h.le)]
    exact congrArg _ (applyRed_of_not_last hs hl)

end Sys2Proof.Machine
end

section
/-! PROOFS. Flits, frames and the states of the ports. -/

namespace Sys2Proof.Machine

open Sys2Proof

variable {q : Nat} {f : Flit} {s : State}

/-! ## Flits (R522 to R525) and frames (R528) -/

theorem flitIn_of_not_native (h : (s.port q).eth = true ∨ (s.port q).live = false) : flitIn q f s = s := by
  have : ((s.port q).eth || !(s.port q).live) = true := by simpa using h
  simp only [flitIn, this, if_true]

section
variable (hn : (s.port q).eth = false) (hl : (s.port q).live = true)
include hn hl

/-- A flit whose LCRC fails is answered by a NAK, but for a BEACON. -/
theorem flitIn_of_bad (hc : lcrcOk f = false) : flitIn q f s = if f.kind = 3 then s else replyFlit q true 0 s := by
  simp [flitIn, hn, hl, hc]

section
variable (hc : lcrcOk f = true)
include hc

theorem flitIn_of_gap (hk : f.kind = 1 ∨ f.kind = 2) (hs : f.seq ≠ (s.port q).rxSeq + 1) :
    flitIn q f s = replyFlit q true 0 s := by
  simp only [flitIn, hn, hl, hc, Bool.not_true, Bool.or_self, Bool.false_eq_true, if_false, if_pos hk, if_pos hs]

theorem flitIn_of_idle (hk : f.kind = 0 ∨ f.kind = 3) : flitIn q f s = flitAck q f s := by
  have hd : ¬(f.kind = 1 ∨ f.kind = 2) := by
    rcases hk with h | h <;> simp [h]
  simp only [flitIn, hn, hl, hc, Bool.not_true, Bool.or_self, Bool.false_eq_true, if_false, if_neg hd, if_pos hk]

/-- A flit in sequence acknowledges and is acknowledged; one of DATA hands on its payload. -/
theorem flitIn_of_next (hk : f.kind = 1 ∨ f.kind = 2) (hs : f.seq = (s.port q).rxSeq + 1) :
    flitIn q f s =
      let s1 := flitAck q f (s.updPort q fun t => { t with rxSeq := f.seq })
      let s2 := replyFlit q false (if f.kind = 1 then 1 else 0) s1
      if f.kind = 1 then flitData q f s2 else s2 := by
  simp only [flitIn, hn, hl, hc, Bool.not_true, Bool.or_self, Bool.false_eq_true, if_false, if_pos hk, if_neg (not_not_intro hs)]

end

end

/-- A frame on a live Ethernet port is dropped, taken, or discarded. -/
theorem ethIn_of_live {fcs udp : Bool} {p : FabPkt} (he : (s.port q).eth = true) (hl : (s.port q).live = true) :
    ethIn q fcs udp p s =
      if (fcs && udp) = false then s.updPort q fun t => { t with drops := satAdd t.drops 1 }
      else if p.dst.toNat = s.moduleId then takePacket p s else s := by
  cases fcs <;> cases udp <;> simp [ethIn, he, hl]

/-! ## Ports (R518 to R520, R580) -/

theorem portTrained_of_not_training (h : 2 ≤ (s.port q).state ∨ ((s.port q).state = 0 ∧ (s.port q).cable = false)) :
    portTrained q peer pp delay s = s := by
  have : ¬((s.port q).state = 1 ∨ ((s.port q).state = 0 ∧ (s.port q).cable)) := by
    rcases h with h | ⟨h0, hc⟩
    · bv_omega
    · simp [h0, hc]
  exact if_neg this

/-- A spare that does not qualify, or a port that another spare stands for, changes nothing (R520). -/
theorem spareFailover_of_fit {n : Nat} (h : qualifies (s.port n) (s.port q) ps = true)
    (hfree : ∀ k, k < 20 → (s.port k).state = 4 → (s.port k).standsFor.toNat ≠ n) :
    spareFailover n q ps s = s.updPort q fun t => { t with state := 4, standsFor := BitVec.ofNat 5 n } := by
  have : ((List.range 20).any fun k => (s.port k).state == 4 && (s.port k).standsFor.toNat == n) = false := by
    simpa using hfree
  rw [spareFailover, h, this]
  rfl

theorem spareFailover_of_misfit {n : Nat} (h : qualifies (s.port n) (s.port q) ps = false) : spareFailover n q ps s = s := by
  simp [spareFailover, h]

/-! ## Cables (R737) -/

/-- A port whose cable is mated or unmated, at a boot stage. -/
def plugPort (here : Bool) (stage : Nat) (t : Port) : Port :=
  { t with
    cable := here
    state := if here && t.state == 0 && decide (6 ≤ stage) then 1 else if !here && t.state == 1 then 0 else t.state }

theorem cablePresence_eq (c : Nat) (here : Bool) (s : State) :
    cablePresence c here s = (((s.updPort (4 * c) (plugPort here s.boot.stage)).updPort (4 * c + 1)
      (plugPort here s.boot.stage)).updPort (4 * c + 2) (plugPort here s.boot.stage)).updPort (4 * c + 3)
      (plugPort here s.boot.stage) := rfl

theorem cablePresence_port (c : Nat) (here : Bool) (s : State) (q : Nat) :
    (cablePresence c here s).port q = if q / 4 = c then plugPort here s.boot.stage (s.port q) else s.port q := by
  rw [cablePresence_eq]
  split
  next h =>
    obtain rfl | rfl | rfl | rfl : q = 4 * c ∨ q = 4 * c + 1 ∨ q = 4 * c + 2 ∨ q = 4 * c + 3 := by omega
    all_goals simp
  next h =>
    rw [State.updPort_port_of_ne _ _ (by omega), State.updPort_port_of_ne _ _ (by omega),
      State.updPort_port_of_ne _ _ (by omega), State.updPort_port_of_ne _ _ (by omega)]

theorem plugPort_eq (here : Bool) (stage : Nat) (t : Port) :
    plugPort here stage t = { t with cable := here, state := if here = true ∧ t.state = 0 ∧ 6 ≤ stage then 1
      else if here = false ∧ t.state = 1 then 0 else t.state } := by
  cases here <;> simp [plugPort]

/-- Settles O44: each event by the state of its port. -/
theorem linkEvents : Obligations.LinkEvents := by
  unfold Obligations.LinkEvents
  refine ⟨fun q f s hq => ⟨fun h => ?_, fun hn hl => ⟨fun hc hk => ?_, fun hc hk => ?_, fun hc hk hs => ?_,
      fun hc hk => ?_, fun hc hk hs => ?_, fun hc hk hs => ?_⟩⟩,
    fun q fcs udp p s hq he hl => ⟨fun hbad => ?_, fun hd => ?_, fun hd => ?_⟩,
    fun q peer pp delay cause lane s hq => ⟨fun h => ?_, fun h => ?_, fun hl => ?_, fun hl => ?_,
      fun hlane hsp hst hu => ?_, event_of_ok (decide_eq_true hq) _⟩,
    fun f q ps s hf hq => ⟨fun h hfree => ?_, fun h => ?_⟩,
    fun c here s hc => ⟨_, event_of_ok (decide_eq_true hc) _, rfl, fun q _ => ⟨fun hne => ?_, fun heq => ?_⟩⟩⟩
  · exact (event_of_ok (decide_eq_true hq) _).trans (congrArg _ (flitIn_of_not_native h))
  · exact (event_of_ok (decide_eq_true hq) _).trans (congrArg _ ((flitIn_of_bad hn hl hc).trans (if_neg hk)))
  · exact (event_of_ok (decide_eq_true hq) _).trans (congrArg _ ((flitIn_of_bad hn hl hc).trans (if_pos hk)))
  · exact (event_of_ok (decide_eq_true hq) _).trans (congrArg _ (flitIn_of_gap hn hl hc hk hs))
  · exact (event_of_ok (decide_eq_true hq) _).trans (congrArg _ (flitIn_of_idle hn hl hc hk))
  · refine (event_of_ok (decide_eq_true hq) _).trans (congrArg _ ((flitIn_of_next hn hl hc (.inr hk) hs).trans ?_))
    simp [hk]
  · refine (event_of_ok (decide_eq_true hq) _).trans (congrArg _ ((flitIn_of_next hn hl hc (.inl hk) hs).trans ?_))
    simp [hk]
  · exact (event_of_ok (decide_eq_true hq) _).trans (congrArg _ ((ethIn_of_live he hl).trans (if_pos hbad)))
  · exact (event_of_ok (decide_eq_true hq) _).trans (congrArg _ ((ethIn_of_live he hl).trans (if_pos hd)))
  · exact (event_of_ok (decide_eq_true hq) _).trans (congrArg _ ((ethIn_of_live he hl).trans (if_neg hd)))
  · exact (event_of_ok (decide_eq_true hq) _).trans (congrArg _ (if_pos h))
  · exact (event_of_ok (decide_eq_true hq) _).trans (congrArg _ (portTrained_of_not_training h))
  · exact (event_of_ok (decide_eq_true hq) _).trans (congrArg _ (if_pos hl))
  · exact (event_of_ok (decide_eq_true hq) _).trans (congrArg _ (if_neg (by simp [hl])))
  · exact (event_of_ok (decide_eq_true ⟨hq, hlane⟩) _).trans (congrArg _ (if_pos (by simp [hsp, hst, hu])))
  · exact (event_of_ok (decide_eq_true ⟨hf, hq⟩) _).trans (congrArg _ (spareFailover_of_fit h hfree))
  · exact (event_of_ok (decide_eq_true ⟨hf, hq⟩) _).trans (congrArg _ (spareFailover_of_misfit h))
  · rw [cablePresence_port, if_neg hne]
  · rw [cablePresence_port, if_pos heq, plugPort_eq]

end Sys2Proof.Machine
end

section
/-! PROOFS. LINK_PATTERN, its STOP and its end. -/

namespace Sys2Proof.Machine

open Sys2Proof

variable {p : Packet} {q : Nat} {s : State}

/-- Errors of a lane that a LINK_PATTERN has chosen. -/
def laneErrs (p : Packet) (errs : List Nat) (l : Nat) : Nat := if p.p0.getLsbD (8 + l) then errs.getD l 0 else 0

theorem map_laneErrs (p : Packet) (errs : List Nat) :
    ((List.range 4).map fun l => if p.p0.getLsbD (8 + l) then errs.getD l 0 else 0) =
      [laneErrs p errs 0, laneErrs p errs 1, laneErrs p errs 2, laneErrs p errs 3] := rfl

/-- The end of a pattern posts the errors of its lanes, and its port trains again. -/
theorem endPattern_eq (o : OpenCmd) (q : Nat) (errs : List Nat) (bits : Nat) (s : State) :
    endPattern o q errs bits s =
      postDone o.pkt (laneErrs o.pkt errs 0 + laneErrs o.pkt errs 1 + laneErrs o.pkt errs 2 + laneErrs o.pkt errs 3)
        (bits / 2 ^ 30) (s.updPort q fun t =>
          { t with state := if t.cable then 1 else if t.wasFailed then 3 else 0, pattern := none
                   pat0 := BitVec.ofNat 8 (min 255 (laneErrs o.pkt errs 0))
                   pat1 := BitVec.ofNat 8 (min 255 (laneErrs o.pkt errs 1))
                   pat2 := BitVec.ofNat 8 (min 255 (laneErrs o.pkt errs 2))
                   pat3 := BitVec.ofNat 8 (min 255 (laneErrs o.pkt errs 3)) }) := by
  have hsum : ([laneErrs o.pkt errs 0, laneErrs o.pkt errs 1, laneErrs o.pkt errs 2, laneErrs o.pkt errs 3] : List Nat).sum =
      laneErrs o.pkt errs 0 + laneErrs o.pkt errs 1 + laneErrs o.pkt errs 2 + laneErrs o.pkt errs 3 := by
    simp [Nat.add_assoc]
  rw [endPattern, map_laneErrs, hsum]
  rfl

theorem effLinkPattern_of_free (hq : bf p.p0 4 0 < 20) (h : patternFree (s.port (bf p.p0 4 0)) = true) :
    effLinkPattern p s = (s.updPort (bf p.p0 4 0) fun t =>
      { clearLink t with state := 5, wasFailed := t.wasFailed || t.state == 3, pattern := some p.key }).openCmd p
        (.linkPattern (bf p.p0 4 0) (s.ftu.count.toNat + bf p.p1 31 0)) := by
  simp only [effLinkPattern, if_neg (Nat.not_le.2 hq), h, Bool.not_true, Bool.false_eq_true, if_false]

theorem effLinkPattern_of_busy (hq : bf p.p0 4 0 < 20) (h : patternFree (s.port (bf p.p0 4 0)) = false) :
    effLinkPattern p s = postErr p 0x0A30 (bf p.p0 4 0) s := by
  simp only [effLinkPattern, if_neg (Nat.not_le.2 hq), h, Bool.not_false, if_true]

theorem effLinkPatternStop_of_none (hq : bf p.p0 4 0 < 20) (h : s.patternOn (bf p.p0 4 0) = none) :
    effLinkPatternStop p s =
      if patternFree (s.port (bf p.p0 4 0)) then postDone p 0 0 s else postErr p 0x0A30 (bf p.p0 4 0) s := by
  simp only [effLinkPatternStop, if_neg (Nat.not_le.2 hq), h]

/-- STOP posts what it makes the running pattern post: free counts. -/
theorem effLinkPatternStop_of_running {o : OpenCmd} (hq : bf p.p0 4 0 < 20) (h : s.patternOn (bf p.p0 4 0) = some o) :
    effLinkPatternStop p s =
      let v (i : Nat) : Nat := (Config.freeVal (s.fresh + i)).toNat
      let es := [v 0, v 1, v 2, v 3]
      postDone p (laneErrs o.pkt es 0 + laneErrs o.pkt es 1 + laneErrs o.pkt es 2 + laneErrs o.pkt es 3) (v 4 / 2 ^ 30)
        (endPattern o (bf p.p0 4 0) es (v 4) { s with fresh := s.fresh + 5 }) := by
  simp only [effLinkPatternStop, if_neg (Nat.not_le.2 hq), h, map_laneErrs]
  simp [Nat.add_assoc]

theorem linkPatternEnd_of_none (h : s.patternOn q = none) : linkPatternEnd q errs bits s = s := by
  simp only [linkPatternEnd, h]

theorem linkPatternEnd_of_running (h : s.patternOn q = some { pkt := p, prog := .linkPattern k u }) :
    linkPatternEnd q errs bits s = if u ≤ s.ftu.count.toNat then endPattern ⟨p, .linkPattern k u⟩ q errs bits s else s := by
  simp only [linkPatternEnd, h]

/-- Settles O45: each command and the end by the pattern that runs on the port. -/
theorem linkPatternCommands : Obligations.LinkPatternCommands := by
  unfold Obligations.LinkPatternCommands
  refine ⟨fun p s0 hd => ?_, fun q errs bits u k p s hq => ⟨fun h => ?_, fun h => ⟨fun hu => ?_, fun hu => ?_⟩⟩⟩
  · rw [exec_linkPattern hd, exec_linkPatternStop hd]
    refine fun hq => ⟨fun h => congrArg _ (effLinkPattern_of_free hq h), fun h => congrArg _ (effLinkPattern_of_busy hq h),
      fun h => congrArg _ (effLinkPatternStop_of_none hq h), fun o h => congrArg _ (effLinkPatternStop_of_running hq h)⟩
  · exact (event_of_ok (decide_eq_true hq) _).trans (congrArg _ (linkPatternEnd_of_none h))
  · exact (event_of_ok (decide_eq_true hq) _).trans
      (congrArg _ ((linkPatternEnd_of_running h).trans (if_neg (Nat.not_le.2 hu))))
  · refine (event_of_ok (decide_eq_true hq) _).trans
      (congrArg _ ((linkPatternEnd_of_running h).trans ((if_pos hu).trans ?_)))
    rw [endPattern_eq]
    rfl

end Sys2Proof.Machine
end

section
/-! PROOFS. Checkpoints taken, held and discarded. -/

namespace Sys2Proof.Machine

open Sys2Proof

variable {p : Packet} {s t : State} {j : Job}

/-! ## TAKE (R586 to R591) -/

/-- Once the slots of a TAKE are found it is set up, in a state in which its parity frames are reserved where it needs any. -/
def parityReady (p : Packet) (j : Job) (c : Ckpt) (s t : State) : Prop :=
  (bf p.p0 9 8 ≠ 2 ∧ t = s) ∨ (bf p.p0 9 8 = 2 ∧ ∃ (g : Group) (t1 : State), parityGroup p s = some g
    ∧ beginParity j.id c.group c.step g.rank g.size (takeFrames p) g.rank c.covered.length c.hdrs.length
        (s.updJob j.id fun j => { j with ckpts := j.ckpts ++ [c] }) = some t1
    ∧ t = t1.updJob j.id fun j => { j with ckpts := j.ckpts.filter fun x => x.id != c.id })

theorem takeSlots_of_ready {hdrs : List (List Byte)} {slots : List (Nat × Nat × Nat)}
    (hr : parityReady p j (newCkpt p j hdrs slots s) s t) (hf : (if p.p2 = 0 then none else schedRefusal p.p2.toNat s) = none) :
    takeSlots p j hdrs slots s = startTake p j (newCkpt p j hdrs slots s) t := by
  have hp : (newCkpt p j hdrs slots s).protect = bf p.p0 9 8 := rfl
  rcases hr with ⟨hprot, rfl⟩ | ⟨hprot, g, t1, hg, hb, rfl⟩
  · simp only [takeSlots, hp, if_pos hprot, hf]
  · simp only [takeSlots, hp, if_neg (not_not_intro hprot), hg, Option.bind_some, hb, Option.map_some, hf]

/-- The frames that a TAKE may reuse. -/
def doomedSlots (p : Packet) (j : Job) : List (Nat × Nat) :=
  (j.doomed (p.p0.getLsbD 12) none).flatMap fun c => c.slots.map (·.2) ++ j.parityFrames c

theorem effTake_of_slots {b : List Byte} (hp : bf p.p0 9 8 ≠ 3) (hn : bf p.p4 31 0 ≠ 0) (hn' : bf p.p4 31 0 ≤ 2 ^ 20)
    (ha : p.p3.toNat % 64 = 0) (hj : s.job? p.job = some j) (hc : ∀ c ∈ j.ckpts, 2 ≤ c.state)
    (hb : vread p.vi s p.p3.toNat (128 * bf p.p4 31 0) = .ok b) (hu : setUnmapped p.vi (hdrsOf b) s = none)
    (hh : (setPages p.vi (hdrsOf b) s).2 = none)
    (hd : (dealSlots s (doomedSlots p j) (setPages p.vi (hdrsOf b) s).1 []).2 = 0) :
    effTake p s =
      takeSlots p j (hdrsOf b) (dealSlots s (doomedSlots p j) (setPages p.vi (hdrsOf b) s).1 []).1 s := by
  have hgood : ¬(bf p.p0 9 8 = 3 ∨ bf p.p4 31 0 = 0 ∨ 2 ^ 20 < bf p.p4 31 0 ∨ p.p3.toNat % 64 ≠ 0) := by omega
  have hold : (j.ckpts.find? fun c => decide (c.state < 2)) = none :=
    List.find?_eq_none.2 fun c hm => by simpa using Nat.lt_of_succ_le (hc c hm)
  have hpages : setPages p.vi (hdrsOf b) s = ((setPages p.vi (hdrsOf b) s).1, none) := Prod.ext rfl hh
  unfold doomedSlots at hd ⊢
  unfold effTake
  simp only [if_neg hgood, hj, hold, hb, hu]
  rw [hpages]
  simp only [hd]
  rfl

theorem startTake_of_freeze (h0 : p.p2 = 0) {c : Ckpt} (hc : c.protect = 0) :
    startTake p j c t =
      freezeCkpt j.id c.id ((t.updJob j.id fun j => { j with ckpts := j.ckpts ++ [c] }).openCmd p (.take j.id c.id)) := by
  simp only [startTake, h0, ne_eq, not_true_eq_false, if_false, if_pos hc]

theorem startTake_of_peer (h0 : p.p2 = 0) {c : Ckpt} (hc : c.protect ≠ 0) :
    startTake p j c t =
      pumpAll ((t.updJob j.id fun j => { j with ckpts := j.ckpts ++ [c] }).openCmd p (.take j.id c.id)) := by
  simp only [startTake, h0, ne_eq, not_true_eq_false, if_false, if_neg hc]

theorem startTake_of_fret (h0 : p.p2 ≠ 0) {c : Ckpt} :
    startTake p j c t = pumpAll (schedule .ckpt p.p2.toNat (some p.key)
      ((t.updJob j.id fun j => { j with ckpts := j.ckpts ++ [c] }).openCmd p (.take j.id c.id))) := by
  simp only [startTake, if_pos h0]

/-! ## HOLD and DISCARD (R601, R608, R609) -/

theorem effHold_of_room (hj : s.job? p.job = some j) (hl : s.oxbowFree (bf p.p5 31 0) = some l) :
    effHold p s =
      let h : Hold := { id := lowestFree (j.holds.map (·.id)), peerModule := BitVec.ofNat 16 (bf p.p0 63 48)
                        peerJob := BitVec.ofNat 16 (bf p.p0 47 32), slots := l, imgs := [] }
      postDone p h.id 0 (s.updJob j.id fun j => { j with holds := j.holds ++ [h] }) := by
  simp only [effHold, hj, hl]

theorem effHold_of_no_room (hj : s.job? p.job = some j) (hl : s.oxbowFree (bf p.p5 31 0) = none) :
    effHold p s = postCap p 0x0802 (bf p.p5 31 0
      - ((List.range 32).map fun k => ((s.oxbowOf k).filter fun f => !(s.oxbowUsed k f)).length).sum) s := by
  simp only [effHold, hj, hl]

section
variable (hj : s.job? p.job = some j)
include hj

section
variable (hk : p.p1.getLsbD 8 = false)
include hk

theorem effCkptDiscard_of_ckpt {c : Ckpt} (hc : j.ckpts.find? (fun c => c.id == bf p.p1 7 0) = some c) :
    effCkptDiscard p s = if c.state < 2 then postErr p 0x0801 (bf p.p1 7 0) s
      else postDone p (j.framesUsed c) 0 (dropCkpt j.id (bf p.p1 7 0) s) := by
  simp only [effCkptDiscard, hj, hk, Bool.false_eq_true, if_false, hc]

theorem effCkptDiscard_of_unknown (hc : ∀ c ∈ j.ckpts, c.id ≠ bf p.p1 7 0) :
    effCkptDiscard p s = postErr p 0x0804 (bf p.p1 7 0) s := by
  have hnone : (j.ckpts.find? fun c => c.id == bf p.p1 7 0) = none := by simpa using hc
  simp only [effCkptDiscard, hj, hk, Bool.false_eq_true, if_false, hnone]

end

/-- A hold whose images are complete frees its slots. -/
theorem effCkptDiscard_of_hold {h : Hold} (hk : p.p1.getLsbD 8 = true)
    (hh : j.holds.find? (fun h => h.id == bf p.p1 7 0) = some h) (hi : ∀ x ∈ h.imgs, x.complete = true) :
    effCkptDiscard p s = postDone p h.slots.length 0 ((freeOxbow h.slots s).updJob j.id fun j =>
      { j with holds := j.holds.filter fun x => x.id != bf p.p1 7 0 }) := by
  have hdone : (h.imgs.any fun x => !x.complete) = false := by simpa using hi
  simp only [effCkptDiscard, hj, hk, if_true, discardHold, hh, hdone, Bool.false_eq_true, if_false]

end

/-- Settles O35: TAKE by its slots, its parity frames and its fret, HOLD by its room, DISCARD by what it names. -/
theorem checkpointCommandsComplete : Obligations.CheckpointCommandsComplete := by
  unfold Obligations.CheckpointCommandsComplete
  intro p s0 hd s prot
  rw [exec_ckptTake hd, exec_ckptHold hd, exec_ckptDiscard hd]
  refine ⟨fun j b t hp hn hn' ha hj hc hb hu hh hz hr => ?_, fun j hj =>
    ⟨fun l hl => congrArg _ (effHold_of_room hj hl), fun hl => congrArg _ (effHold_of_no_room hj hl),
      fun hk => ⟨fun c hc => ⟨fun h2 => ?_, fun h2 => ?_⟩, fun hc => congrArg _ (effCkptDiscard_of_unknown hj hk hc)⟩,
      fun h hk hh hi => congrArg _ (effCkptDiscard_of_hold hj hk hh hi)⟩⟩
  · have hslots := effTake_of_slots hp hn hn' ha hj hc hb hu hh hz
    refine ⟨fun h0 hp => congrArg _ ?_, fun h0 hp => congrArg _ ?_, fun h0 hs => congrArg _ ?_⟩
    · exact hslots.trans ((takeSlots_of_ready hr (if_pos h0)).trans (startTake_of_freeze h0 hp))
    · exact hslots.trans ((takeSlots_of_ready hr (if_pos h0)).trans (startTake_of_peer h0 hp))
    · exact hslots.trans ((takeSlots_of_ready hr ((if_neg h0).trans hs)).trans (startTake_of_fret h0))
  · exact congrArg _ ((effCkptDiscard_of_ckpt hj hk hc).trans (if_pos h2))
  · exact congrArg _ ((effCkptDiscard_of_ckpt hj hk hc).trans (if_neg (Nat.not_lt.2 h2)))

end Sys2Proof.Machine
end

section
/-! PROOFS. Checkpoints read back, exported, listed and restored, ROLLBACK and SHRINK. -/

namespace Sys2Proof.Machine

open Sys2Proof

variable {p : Packet} {s t : State} {j : Job} {c : Ckpt} {n m : Nat}

/-! ## READBACK, EXPORT, LIST (R613 to R615) -/

theorem effReadback_of_usable (hc : s.ckpt? p.job (bf p.p1 7 0) = some c) (hu : c.usable = true) :
    effReadback p s = pumpAll (s.openCmd p (.readback p.job (bf p.p1 7 0) [])) := by
  simp only [effReadback, hc, hu, if_true]

theorem effReadback_of_unusable (h : ∀ c, s.ckpt? p.job (bf p.p1 7 0) = some c → c.usable = false) :
    effReadback p s = postErr p 0x0804 (bf p.p1 7 0) s := by
  cases hc : s.ckpt? p.job (bf p.p1 7 0) with
  | none => simp only [effReadback, hc]
  | some c => simp only [effReadback, hc, h c hc, Bool.false_eq_true, if_false]

theorem effExport_of_usable (hc : s.ckpt? p.job (bf p.p1 7 0) = some c) (hu : c.usable = true) :
    effExport p s = exportShards p c c.hdrs 0 0 s := by
  simp only [effExport, hc, hu, if_true]

theorem effExport_of_unusable (h : ∀ c, s.ckpt? p.job (bf p.p1 7 0) = some c → c.usable = false) :
    effExport p s = postErr p 0x0804 (bf p.p1 7 0) s := by
  cases hc : s.ckpt? p.job (bf p.p1 7 0) with
  | none => simp only [effExport, hc]
  | some c => simp only [effExport, hc, h c hc, Bool.false_eq_true, if_false]

/-- Bytes of the record of a shard. -/
def recordSize (h : List Byte) : Nat := 128 + cdiv (hdrBytes h) 64 * 64

theorem exportShards_of_full {h : List Byte} (hm : bf p.p3 31 0 < recordSize h) :
    exportShards p c (h :: rest) 0 0 s = postDone p 0 0 s := by
  rw [recordSize] at hm
  simp only [exportShards, Nat.zero_add, if_pos hm]

theorem exportShards_singleton {h : List Byte} (hm : recordSize h ≤ bf p.p3 31 0)
    (hv : vstore p p.p2.toNat (exportHdr h ++ c.shardData s h
      ++ List.replicate (recordSize h - 128 - (c.shardData s h).length) 0) s = (t, none)) :
    exportShards p c [h] 0 0 s = postDone p 1 (recordSize h) t := by
  rw [recordSize] at *
  simp only [exportShards, Nat.zero_add, if_neg (Nat.not_lt.2 hm), Nat.add_zero, hv]

/-- The entries of a LIST, up to MAX. -/
def listEntries (p : Packet) (j : Job) : List (List Byte) :=
  (j.ckpts.map (ckptEntry j) ++ j.holds.map holdEntry).take (bf p.p3 31 0 / 32)

theorem effList_of_stored (hj : s.job? p.job = some j) (hv : vstore p p.p2.toNat (listEntries p j).flatten s = (t, none)) :
    effList p s = postDone p (listEntries p j).length 0 t := by
  rw [listEntries] at *
  simp only [effList, hj, hv, finishMem]

/-! ## RESTORE and ROLLBACK (R616, R622) -/

theorem effRestore_of_good (hs : 1 ≤ bf p.p0 7 0) (hs' : bf p.p0 7 0 ≤ 4) (hn : 1 ≤ bf p.p3 31 0)
    (hn' : bf p.p3 31 0 ≤ 2 ^ 20) : effRestore p s = pumpAll (s.openCmd p (.restore [])) :=
  if_neg (by omega)

theorem effRollback_of_target (hj : s.job? p.job = some j) (hc : rollbackTarget p j = some c)
    (hu : setUnmapped p.vi c.hdrs s = none) (hv : p.p0.getLsbD 8 = false ∨ bf p.p2 31 0 ≠ 0xFFFFFFFF) :
    effRollback p s = settleRollbacks (((j.ckpts.dropWhile fun x => x.id != c.id).tail.foldl
      (fun s x => discardNewer j.id x s) s).openCmd p (.rollback j.id c.id)) := by
  have hver : ¬(p.p0.getLsbD 8 = true ∧ bf p.p2 31 0 = 0xFFFFFFFF) := by
    rintro ⟨h8, h2⟩
    rcases hv with h | h
    · exact Bool.noConfusion (h.symm.trans h8)
    · exact h h2
  simp only [effRollback, hj, hc, hu, if_neg hver]

/-! ## SHRINK (R625) -/

/-- SHRINK leaves a checkpoint that the module is no member of. -/
theorem shrinkCkpt_of_no_member (h : ∀ x ∈ c.members, x.1.toNat ≠ m) : shrinkCkpt n m c s = s := by
  have : (c.members.any fun x => x.1.toNat == m) = false := by simpa using h
  simp [shrinkCkpt, this]

theorem foldl_shrinkCkpt_of_no_member {l : List Ckpt} (h : ∀ c ∈ l, ∀ x ∈ c.members, x.1.toNat ≠ m) :
    l.foldl (fun s c => shrinkCkpt n m c s) s = s := by
  induction l with
  | nil => rfl
  | cons c l ih =>
    rw [List.foldl_cons, shrinkCkpt_of_no_member (h c List.mem_cons_self)]
    exact ih fun c hc => h c (List.mem_cons_of_mem _ hc)

/-- What SHRINK does with the operations toward the module, once its groups are gone, and with the checkpoints. -/
def shrinkRest (p : Packet) (toward : OpenCmd → Bool) (s : State) : State :=
  let u := (s.opens.filter toward).foldl (fun s o => abortOpen o.pkt s) s
  (((u.job? p.job).map (·.ckpts)).getD []).foldl (fun s c => shrinkCkpt p.job (bf p.p0 63 48) c s) u

theorem shrinkRest_of_none {toward : OpenCmd → Bool} (ho : ∀ o ∈ s.opens, toward o = false)
    (hc : ∀ j, s.job? p.job = some j → ∀ c ∈ j.ckpts, ∀ x ∈ c.members, x.1.toNat ≠ bf p.p0 63 48) :
    shrinkRest p toward s = s := by
  have hnone : s.opens.filter toward = [] := List.filter_eq_nil_iff.2 fun o hm => by simp [ho o hm]
  simp only [shrinkRest, hnone, List.foldl_nil]
  refine foldl_shrinkCkpt_of_no_member ?_
  cases hj : s.job? p.job with
  | none => simp
  | some j => exact hc j hj

/-- A module that no group, open operation or checkpoint of the job knows leaves nothing behind. -/
theorem effShrink_of_stranger (hg : ∀ g ∈ s.fab.groups, g.job = p.job → ∀ x ∈ g.members, x.1.toNat ≠ bf p.p0 63 48)
    (ho : ∀ o ∈ s.opens, o.pkt.job = p.job → ∀ a b c, o.prog = .remote a b c → (remoteTo o.pkt).1 ≠ bf p.p0 63 48)
    (hc : ∀ j, s.job? p.job = some j → ∀ c ∈ j.ckpts, ∀ x ∈ c.members, x.1.toNat ≠ bf p.p0 63 48) :
    effShrink p s = pumpAll (postDone p 0 0 s) := by
  have hgs : (s.fab.groups.filter fun g => g.job == p.job && g.members.any fun x => x.1.toNat == bf p.p0 63 48) = [] := by
    simpa using hg
  unfold effShrink
  simp only [hgs, List.foldl_nil, List.length_nil]
  refine congrArg (fun u => pumpAll (postDone p 0 0 u)) (shrinkRest_of_none (fun o hm => ?_) hc)
  rw [Bool.and_eq_false_imp, beq_iff_eq]
  intro hjob
  split
  next hp => simpa using ho o hm hjob _ _ _ hp
  · rfl

/-- Settles O36: each command by the checkpoint, the job or the module that it names. -/
theorem checkpointReadsComplete : Obligations.CheckpointReadsComplete := by
  unfold Obligations.CheckpointReadsComplete
  intro p s0 hd s id
  rw [exec_ckptReadback hd, exec_ckptExport hd, exec_ckptList hd, exec_restore hd, exec_rollback hd, exec_shrink hd]
  refine ⟨fun c hc hu => ⟨congrArg _ (effReadback_of_usable hc hu), fun h rest hh hm => ?_, fun hh => ?_, fun h t hh hm hv => ?_⟩,
    fun h => ⟨congrArg _ (effReadback_of_unusable h), congrArg _ (effExport_of_unusable h)⟩,
    fun j t hj hv => congrArg _ (effList_of_stored hj hv),
    fun hs hs' hn hn' => congrArg _ (effRestore_of_good hs hs' hn hn'),
    fun j c hj hc hu hv => congrArg _ (effRollback_of_target hj hc hu hv),
    fun hg ho hc => congrArg _ (effShrink_of_stranger hg ho hc)⟩
  · rw [effExport_of_usable hc hu, hh]
    exact congrArg _ (exportShards_of_full hm)
  · rw [effExport_of_usable hc hu, hh]
    rfl
  · rw [effExport_of_usable hc hu, hh]
    exact congrArg _ (exportShards_singleton hm hv)

end Sys2Proof.Machine
end

section
/-! PROOFS. The events of a checkpoint, and a group's time-out. -/

namespace Sys2Proof.Machine

open Sys2Proof

variable {s t : State} {j : Job} {c : Ckpt} {k r ns : Nat}

/-! ## Freeze (R591) -/

theorem ckptFreeze_of_not_due (hc : s.ckpt? i k = some c) (h : takeDue .ckpt c.cmd s = none) : ckptFreeze i k s = s := by
  simp only [ckptFreeze, hc, h]

/-- A freeze that is due drops what the checkpoint replaces and lists the regions that its copy owes. -/
theorem ckptFreeze_of_due (hc : s.ckpt? i k = some c) (h : takeDue .ckpt c.cmd s = some t) (hj : t.job? i = some j)
    (hc' : t.ckpt? i k = some d) :
    ckptFreeze i k s = updCkpt i k (fun c => { c with state := 1, freeze := t.ftu.count, todo := sortNat c.covered })
      (markPhase i 7 ((j.doomed d.gen2 (some k)).foldl (fun s x => dropCkpt i x.id s) t)) := by
  simp only [ckptFreeze, hc, h, freezeCkpt, hj, hc']

/-! ## Region copies and held writes (R593, R594, R597, R599) -/

/-- The engine that copies a region of a VI. -/
def State.engineOf (s : State) (n r : Nat) : Option Block := (s.mapping n (r * 65536)).map fun m => copyEngine m.now

section
variable (hj : s.job? i = some j) (hc : s.ckpt? i k = some c)
include hj hc

section
variable (hs : c.state = 1) (ho : (c.todo.filter fun x => s.engineOf c.vi x == s.engineOf c.vi r).head? = some r)
include hs ho

/-- The next region of its engine is copied, unless its read fails. -/
theorem regionCopyDone_of_turn (h3 : result ≠ 3) :
    regionCopyDone i k r result s =
      if result ≠ 0 ∨ (s.badRegion c.vi r).isSome then
        failTake i k 0x31 (r * 65536) 0
          (match s.badRegion c.vi r with | some (.ue a) => recordUe c.vi a (markPhase i 7 s) | _ => markPhase i 7 s)
      else
        let s1 := copyRegion c.vi (r / 32) (r % 32) (markPhase i 7 s) j c
        let n := s1.ctr.ckptCopiedRest + 1
        writeHeaders i k { s1 with ctr := { s1.ctr with
          ckptCopied := satAdd s1.ctr.ckptCopied (n / 32), ckptCopiedRest := n % 32 } } := by
  unfold State.engineOf at ho
  have hturn : ¬(c.state ≠ 1 ∨ (c.todo.filter fun x => (s.mapping c.vi (x * 65536)).map (fun m => copyEngine m.now)
      == (s.mapping c.vi (r * 65536)).map fun m => copyEngine m.now).head? ≠ some r) := by
    rw [hs, ho]
    simp
  simp only [regionCopyDone, hj, hc, if_neg hturn, if_neg h3] <;>
    rfl

theorem regionCopyDone_of_copied (hb : s.badRegion c.vi r = none) :
    regionCopyDone i k r 0 s =
      let s1 := copyRegion c.vi (r / 32) (r % 32) (markPhase i 7 s) j c
      let n := s1.ctr.ckptCopiedRest + 1
      writeHeaders i k { s1 with ctr := { s1.ctr with
        ckptCopied := satAdd s1.ctr.ckptCopied (n / 32), ckptCopiedRest := n % 32 } } := by
  rw [regionCopyDone_of_turn hj hc hs ho (by decide), hb]
  rfl

/-- A read that fails with a parity error ends the TAKE. -/
theorem regionCopyDone_of_parity (hb : s.badRegion c.vi r = some (.parity va)) :
    regionCopyDone i k r 1 s = failTake i k 0x31 (r * 65536) 0 (markPhase i 7 s) := by
  rw [regionCopyDone_of_turn hj hc hs ho (by decide), hb]
  rfl

end

theorem copyAheadDone_of_owed (hr : r ∈ c.todo) :
    copyAheadDone i k r ns s =
      let s1 := copyAhead1 c.vi (r / 32) (r % 32) s j c
      writeHeaders i k { s1 with ctr := { s1.ctr with ckptStall := satMax s1.ctr.ckptStall ns } } := by
  simp only [copyAheadDone, hj, hc, List.contains_iff_mem, hr, if_true]

end

/-! ## The end of a checkpoint (R606, R607) -/

/-- The state in which a checkpoint is over: its own state, and the older ones gone unless its peer is lost. -/
def ckptOver (i k : Nat) (j : Job) (c : Ckpt) (s : State) : State :=
  (j.ckpts.filter fun x => x.id != k && c.lost.isNone).foldl (fun s x => dropCkpt i x.id s)
    (updCkpt i k (fun c => { c with state := if c.lost.isSome then 5 else 2 }) s)

/-- With every region, header and transfer done the TAKE ends. -/
theorem ckptComplete_of_done {p : Packet} (hj : (writeHeaders i k s).job? i = some j)
    (hc : (writeHeaders i k s).ckpt? i k = some c) (hs : c.state = 1) (ht : c.todo = [])
    (hw : c.written.length = c.hdrs.length) (hsent : c.allSent = true ∨ c.lost ≠ none)
    (hp : (ckptOver i k j c (writeHeaders i k s)).takeOf i k = some p) :
    ckptComplete i k s = match c.lost with
      | some m => postErr p 0x0806 m (ckptOver i k j c (writeHeaders i k s))
      | none => postDone p (j.framesUsed c * 2 ^ 32 + k) (min (s.ftu.count - c.freeze).toNat 0xFFFFFFFF)
          (ckptOver i k j c (writeHeaders i k s)) := by
  have hdone : ¬(c.state ≠ 1 ∨ !c.todo.isEmpty ∨ c.written.length ≠ c.hdrs.length) := by simp [hs, ht, hw]
  have hover : ¬((!c.allSent && c.lost.isNone) = true) := by
    rcases hsent with h | h
    · simp [h]
    · simp [Option.isNone_iff_eq_none, h]
  unfold ckptOver at hp ⊢
  simp only [ckptComplete, hj, hc, if_neg hdone, if_neg hover, hp] <;>
    rfl

/-! ## Time-outs of groups (R560, R607) -/

/-- Without a protective transfer in progress a GROUP_TIMEOUT acts on the group's head alone. -/
theorem groupTimeoutAll_of_no_take (h : ∀ o ∈ (groupTimeout i num m s).opens, ∀ i k, o.prog ≠ .take i k) :
    groupTimeoutAll i num m s = groupTimeout i num m s := by
  unfold groupTimeoutAll
  dsimp only
  split
  · rfl
  · split
    · rfl
    · split
      next o hfind =>
        exact absurd rfl (h _ (List.mem_of_find?_eq_some hfind) _ _)
      · rfl

section
variable {g : Group} {p : Packet} (hg : s.group? i num = some g) (hq : g.queue.head? = some p)
include hg hq

theorem groupTimeout_of_waiting (ho : s.open? p.key = some { pkt := p, prog := .coll n op st out recv u })
    (hw : st = false ∨ u = 0 ∨ s.ftu.count.toNat < u) : groupTimeout i num m s = s := by
  cases st with
  | false => simp only [groupTimeout, hg, Option.bind_some, hq, ho]
  | true => simp only [groupTimeout, hg, Option.bind_some, hq, ho, if_pos (hw.resolve_left (by simp))]

theorem groupTimeout_of_over (ho : s.open? p.key = some { pkt := p, prog := .coll n op true out recv u }) (hu : u ≠ 0)
    (hn : u ≤ s.ftu.count.toNat) : groupTimeout i num m s = pumpAll (endColl p num op 0xFF 0x0713 m 0 s) := by
  have hover : ¬(u = 0 ∨ s.ftu.count.toNat < u) := by omega
  simp only [groupTimeout, hg, Option.bind_some, hq, ho, if_neg hover]

end

/-- Settles O37: each event by the checkpoint or the group that it names. -/
theorem checkpointEvents : Obligations.CheckpointEvents := by
  unfold Obligations.CheckpointEvents
  refine ⟨fun i k c s hc => ⟨fun h => ?_, fun s1 j c1 h hj hc1 => ?_⟩,
    fun i k r j c s hj hc hs ho => ⟨fun hb => ?_, fun va hb => ?_⟩, fun i k r ns j c s hj hc hr => ?_,
    fun i k j c p s hj hc hs ht hw hsent hp => ?_,
    fun i num m g p n op u st out recv s hg hq ho => ⟨fun hw hn => ?_, fun hst hu hn ht => ?_⟩⟩
  · exact congrArg ckptEvent (ckptFreeze_of_not_due hc h)
  · exact congrArg ckptEvent (ckptFreeze_of_due hc h hj hc1)
  · exact congrArg ckptEvent (regionCopyDone_of_copied hj hc hs ho hb)
  · exact congrArg ckptEvent (regionCopyDone_of_parity hj hc hs ho hb)
  · exact congrArg ckptEvent (copyAheadDone_of_owed hj hc hr)
  · exact congrArg ckptEvent (ckptComplete_of_done hj hc hs ht hw hsent hp)
  · have hsame : groupTimeout i num m s = s := groupTimeout_of_waiting hg hq ho hw
    exact congrArg _ ((groupTimeoutAll_of_no_take (by rwa [hsame])).trans hsame)
  · subst hst
    have hover := groupTimeout_of_over (m := m) hg hq ho hu hn
    exact congrArg _ ((groupTimeoutAll_of_no_take (by rwa [hover])).trans hover)

end Sys2Proof.Machine
end

section
/-! PROOFS. Commands on jobs and on admission. -/

namespace Sys2Proof.Machine

open Sys2Proof

variable {p : Packet} {s : State} {j : Job}

/-! ## Job IDs -/

theorem startSwitch_ids (i : Nat) (s : State) : (startSwitch i s).jobs.map Job.id = s.jobs.map Job.id := by
  simp only [startSwitch, State.updJob, List.map_map]
  refine List.map_congr_left fun x _ => ?_
  simp only [Function.comp_apply]
  split <;> rfl

theorem startNext_ids (order : List Nat) (s : State) : (startNext order s).jobs.map Job.id = s.jobs.map Job.id := by
  fun_cases startNext order s
  · rfl
  · rfl
  · exact startSwitch_ids ..
  · rfl
  · exact startSwitch_ids ..

/-- A job that is released leaves no job of its ID. -/
theorem releaseJob_ids (i : Nat) (s : State) : i ∉ (releaseJob i s).jobs.map Job.id := by
  fun_cases releaseJob i s
  next hnone => simpa [State.job?] using hnone
  next s4 s5 =>
    have hjobs : (if s.sched.holder = some i then clearCapo s5 else s5).jobs = s4.jobs.filter fun x => x.id != i := by
      split <;> rfl
    rw [startNext_ids, hjobs]
    simp

/-! ## JOB_CREATE (R632) -/

theorem effJobCreate_of_room (ha : p.p0.toNat % pageSize = 0) (hc : (s.quota p.vi).cls ≠ 0)
    (hq : (s.jobs.filter fun j => j.vi == p.vi).length < (s.quota p.vi).jobs) (hn : s.jobs.length < 1024)
    (hr : s.resident < 256) (hs : s.ctxShort p.vi s.ctxSize = 0) :
    effJobCreate p s = postDone p s.freeJobId s.ctxSize
      { s with jobs := s.jobs ++ [newJob s.freeJobId p.vi p.p0.toNat (s.pickFrames (List.range 32) s.ctxSize)] } := by
  have hroom : ¬(1024 ≤ s.jobs.length ∨ (256 ≤ s.resident ∧ s.evictable.isNone)) := by omega
  have hfull : ¬256 ≤ s.resident := Nat.not_le.2 hr
  cases he : s.evictable <;>
    simp only [he] at hroom <;>
    simp only [effJobCreate, ha, ne_eq, not_true_eq_false, if_false, if_neg hc, if_neg (Nat.not_le.2 hq), he,
      if_neg hroom, hs, if_neg hfull]

/-! ## JOB_START (R635 to R637) -/

theorem effJobStart_of_no_job (hj : s.job? p.job = none) : effJobStart p s = postErr p 0x0907 p.job s := by
  simp only [effJobStart, hj]

theorem effJobStart_of_started (hj : s.job? p.job = some j) (h0 : j.state ≠ 0) (h5 : j.state ≠ 5) :
    effJobStart p s = postErr p 0x0906 j.state s := by
  simp only [effJobStart, hj, if_pos (And.intro h0 h5)]

/-- The state in which a job that starts asks for admission. -/
def jobStarting (p : Packet) (j : Job) (s : State) : State :=
  ((firstStart j.id s).openCmd p .jobStart).updJob j.id fun x =>
    { x with start := some p, deferred := none, preempt := 0, cls := (s.quota x.vi).cls }

theorem effJobStart_of_admitted (hj : s.job? p.job = some j) (hst : j.state = 0 ∨ j.state = 5) (hc : (s.quota j.vi).cls ≠ 0)
    (hb : backfillBusy (s.quota j.vi).cls s = false) (hm : s.sched.stepMode = false) :
    effJobStart p s = admitJob j.id (jobStarting p j s) := by
  have hidle : ¬(j.state ≠ 0 ∧ j.state ≠ 5) := by omega
  simp only [effJobStart, hj, if_neg hidle, if_neg hc, hb, hm, Bool.false_eq_true, if_false]
  rfl

theorem admitJob_of_free (hh : s.holding = none) :
    admitJob i s = if s.sched.queue = [] then startSwitch i s else enqueueTail i s := by
  simp only [admitJob, hh, List.isEmpty_iff]

/-- Behind a holder that its class does not pre-empt a job is queued. -/
theorem admitJob_of_behind (hh : s.holding = some h) (h1 : s.clsOf i ≠ 1 ∨ s.clsOf h = 1) (h2 : s.clsOf i ≠ 2 ∨ s.clsOf h ≠ 3) :
    admitJob i s = enqueueTail i s := by
  have hlow : ¬(s.clsOf i = 1 ∧ s.clsOf h ≠ 1 ∨ s.clsOf i = 2 ∧ s.clsOf h = 3) := by omega
  simp only [admitJob, hh, if_neg hlow]

theorem admitJob_of_over (hh : s.holding = some h)
    (hc : s.clsOf i = 1 ∧ s.clsOf h ≠ 1 ∨ s.clsOf i = 2 ∧ s.clsOf h = 3) (hp : s.preempting h = false) :
    admitJob i s = preempt h 1 i (enqueue i true s) := by
  simp only [admitJob, hh, if_pos hc, arriveOver, hp, Bool.false_eq_true, if_false]

/-! ## JOB_PREEMPT and JOB_END (R642, R649) -/

section
variable (hj : s.job? p.job = some j)
include hj

theorem effJobPreempt_of_running (hne : p.job ≠ 0xFFFF) (h3 : j.state = 3) (h0 : j.preempt = 0) :
    effJobPreempt p s = (preempt p.job 2 0xFFFF s).openCmd p (.jobPreempt p.job (p.p0.getLsbD 16)) := by
  have hid : ¬(p.vi = 0 ∧ p.job = 0xFFFF) := fun h => hne h.2
  simp only [effJobPreempt, if_neg hid, hj, h3, or_true, if_true, h0]

theorem effJobPreempt_of_suspended (hne : p.job ≠ 0xFFFF) (h5 : j.state = 5) (he : p.p0.getLsbD 16 = false) :
    effJobPreempt p s = postDone p 0 0 s := by
  have hid : ¬(p.vi = 0 ∧ p.job = 0xFFFF) := fun h => hne h.2
  have hrun : ¬(j.state = 2 ∨ j.state = 3) := by omega
  have hout : j.state ≠ 4 := by omega
  have hqueued : j.state ≠ 1 := by omega
  simp only [effJobPreempt, if_neg hid, hj, if_neg hrun, if_neg hout, preemptIdle, if_neg hqueued, he, Bool.false_and,
    Bool.false_eq_true, if_false]

/-- The state in which the packets of a job that ends, and its JOB_START, have their final records. -/
def jobClosed (p : Packet) (j : Job) (s : State) : State :=
  match j.start with
  | some q => postFinal q 0x00 0x0914 (s.fretsHeld j) 0 (abortPackets j.id p.key s)
  | none => abortPackets j.id p.key s

/-- A JOB_END with nothing of its job in progress ends the job at once. -/
theorem effJobEndAll_of_idle (hf : p.p0.getLsbD 0 = false) (hl : j.cmdList = [])
    (ho : ∀ o ∈ s.opens, o.pkt.job = p.job → o.prog = .jobStart) :
    effJobEndAll p s =
      motionEnds (fetchAll (postDone p (s.framesOf j) 0 (endPreempts j.id (releaseJob j.id (jobClosed p j s))))) := by
  have hearly : (s.opens.filter fun o => o.pkt.job == p.job && o.prog != .jobStart) = [] := by simpa using ho
  simp only [effJobEndAll, hf, Bool.false_eq_true, if_false, effJobEnd, hearly, List.map_nil, hj, Option.map_some, hl,
    Option.getD_some, List.append_nil, List.isEmpty_nil, if_true, endJob, jobClosed] <;>
    rfl

end

theorem job?_id (h : s.job? i = some j) : j.id = i := by
  have hf : s.jobs.find? (fun x => x.id == i) = some j := h
  have hid := List.find?_some hf
  exact beq_iff_eq.1 hid

/-! ## ADMISSION_CLASS (R657, R658) -/

theorem lockRefusal_of_open {save : Bool} {g : Nat} (h : save = false ∨ s.groupLocked g = false) : lockRefusal save g s = none := by
  rcases h with h | h <;> simp [lockRefusal, h]

theorem lockRefusal_of_locked {g : Nat} (h : s.groupLocked g = true) : lockRefusal true g s = some (0xFF, 0x0F4B, g) := by
  simp [lockRefusal, h]

/-- The quota that SET_VI names. -/
def quotaOf (p : Packet) : Quota := { cls := bf p.p0 9 8, pages := bf p.p1 23 0, jobs := bf p.p2 10 0 }

section
variable (hn : bf p.p0 28 16 ≤ 4096)
include hn

theorem effAdmissionSetVi_of_good (hp : (quotaOf p).pages ≤ 8388608) (hj : (quotaOf p).jobs ≤ 1024) :
    effAdmissionSetVi p s =
      match lockRefusal (p.p0.getLsbD 60) 3 s with
      | some e => refuse p e s
      | none =>
        let s1 := { s with quotas := tset s.quotas (bf p.p0 28 16) (quotaOf p) }
        postDone p 0 0 (if p.p0.getLsbD 60 then journal 3 (bf p.p0 28 16)
          (leBytes 4 (quotaOf p).cls ++ leBytes 4 (quotaOf p).pages ++ leBytes 4 (quotaOf p).jobs) s1 else s1) := by
  unfold quotaOf at hp hj
  have hgood : ¬(4096 < bf p.p0 28 16 ∨ 8388608 < bf p.p1 23 0 ∨ 1024 < bf p.p2 10 0) := by
    simp only at hp hj
    omega
  simp only [effAdmissionSetVi, if_neg hgood]
  rfl

theorem effAdmissionQuery_of_vi :
    effAdmissionQuery p s = postDone p ((s.quota (bf p.p0 28 16)).jobs * 2 ^ 32 + (s.quota (bf p.p0 28 16)).cls * 2 ^ 8)
      (s.quota (bf p.p0 28 16)).pages s := by
  simp only [effAdmissionQuery, if_neg (Nat.not_lt.2 hn)]

end

theorem effAdmissionSetMode_of_locked (hs : p.p0.getLsbD 60 = true) (hl : s.groupLocked 3 = true) :
    effAdmissionSetMode p s = postFinal p 0xFF 0x0F4B 3 0 s := by
  simp only [effAdmissionSetMode, hs, lockRefusal_of_locked hl]
  rfl

theorem effAdmissionSetMode_of_unsaved (hs : p.p0.getLsbD 60 = false) :
    effAdmissionSetMode p s = postDone p 0 0 (setMode (p.p0.getLsbD 8) s) := by
  simp only [effAdmissionSetMode, hs, lockRefusal_of_open (.inl rfl), Bool.false_eq_true, if_false]

/-- JOB mode is kept. -/
theorem setMode_false_of_job (h : s.sched.stepMode = false) : setMode false s = s := by
  simp [setMode, h]

/-- Settles O46: each command by the state of its job, or by the lock of the settings. -/
theorem jobCommandsComplete : Obligations.JobCommandsComplete := by
  unfold Obligations.JobCommandsComplete
  intro p s0 hd s
  rw [exec_jobCreate hd, exec_jobStart hd, exec_jobPreempt hd, exec_jobEnd hd, exec_admissionSetVi hd,
    exec_admissionSetMode hd, exec_admissionQuery hd]
  refine ⟨fun ha hc hq hn hr hs => congrArg _ (effJobCreate_of_room ha hc hq hn hr hs),
    fun hj => congrArg _ (effJobStart_of_no_job hj),
    fun j hj => ⟨fun h0 h5 => congrArg _ (effJobStart_of_started hj h0 h5), fun hst hc hb hm => ?start,
      fun hne => ⟨fun h3 h0 => congrArg _ (effJobPreempt_of_running hj hne h3 h0),
        fun h5 he => congrArg _ (effJobPreempt_of_suspended hj hne h5 he)⟩,
      fun hf hl ho => ⟨congrArg _ (effJobEndAll_of_idle hj hf hl ho), fun x hx hid => ?gone⟩⟩,
    fun hn hp hq => ⟨fun hs => ?unsaved, fun hs hl => ?saved, fun hs hl => ⟨?locked,
      congrArg _ (effAdmissionSetMode_of_locked hs hl)⟩, congrArg _ (effAdmissionQuery_of_vi hn)⟩,
    fun hs => ⟨congrArg _ (effAdmissionSetMode_of_unsaved hs), fun h8 hm => ?mode⟩⟩
  case start =>
    rw [effJobStart_of_admitted hj hst hc hb hm]
    exact ⟨fun hh hq => congrArg _ ((admitJob_of_free hh).trans (if_pos hq)),
      fun hh hq => congrArg _ ((admitJob_of_free hh).trans (if_neg hq)),
      fun h hh h1 h2 => congrArg _ (admitJob_of_behind hh h1 h2),
      fun h hh hc hp => congrArg _ (admitJob_of_over hh hc hp)⟩
  case gone => exact releaseJob_ids _ _ (List.mem_map.2 ⟨x, hx, hid.trans (job?_id hj).symm⟩)
  case unsaved =>
    rw [effAdmissionSetVi_of_good hn hp hq, hs, lockRefusal_of_open (.inl rfl)]
    rfl
  case saved =>
    rw [effAdmissionSetVi_of_good hn hp hq, hs, lockRefusal_of_open (.inr hl)]
    rfl
  case locked =>
    rw [effAdmissionSetVi_of_good hn hp hq, hs, lockRefusal_of_locked hl]
    rfl
  case mode => rw [effAdmissionSetMode_of_unsaved hs, h8, setMode_false_of_job hm]

end Sys2Proof.Machine
end

section
/-! PROOFS. The end of a switch, an eviction, a STEP turn, and packets behind a BARRIER
(R634, R643, R644, R647, R648, R777). -/

namespace Sys2Proof.Machine

open Sys2Proof

/-! ## What the pages and the context of a job leave of the counters -/

theorem foldl_ctr {α : Type} {f : State → α → State} (hf : ∀ s a, (f s a).ctr = s.ctr) (l : List α) (s : State) :
    (l.foldl f s).ctr = s.ctr :=
  List.foldlRecOn (motive := fun t => t.ctr = s.ctr) l f rfl fun t ht a _ => (hf t a).trans ht

@[simp] theorem copySpan_ctr (s : State) (x y : Space × Nat) (n : Nat) : (s.copySpan x y n).ctr = s.ctr := by
  unfold State.copySpan State.setSpace
  split <;> rfl

@[simp] theorem releaseHome_ctr (h : Home) (s : State) : (releaseHome h s).ctr = s.ctr := by rw [releaseHome_eq]

@[simp] theorem evictJob_ctr (i : Nat) (s : State) : (evictJob i s).ctr = s.ctr := by
  unfold evictJob
  split
  · rfl
  · refine (foldl_ctr (fun s h => releaseHome_ctr h s) _ _).trans ((foldl_ctr (fun s e => ?_) _ _).trans rfl)
    split
    · rfl
    · exact copySpan_ctr ..

theorem recallCtx_ctr {i : Nat} {s t : State} (h : recallCtx i s = some t) : t.ctr = s.ctr := by
  unfold recallCtx at h
  split at h
  · rw [← Option.some.inj h]
  · split at h
    · rw [← Option.some.inj h]
    · dsimp only at h
      split at h
      · cases h
      · rw [← Option.some.inj h]
        refine foldl_ctr (fun s e => ?_) _ _
        split
        · rfl
        · exact copySpan_ctr ..

@[simp] theorem returnPages_ctr (j : Job) (s : State) : (returnPages j s).ctr = s.ctr := by
  unfold returnPages
  refine foldl_ctr (fun s e => ?_) _ _
  exact copySpan_ctr ..

/-! ## A job that switches in (R643) -/

/-- Two states with the same jobs, scheduler and counters. -/
def SameSched (s t : State) : Prop := t.jobs = s.jobs ∧ t.sched = s.sched ∧ t.ctr = s.ctr

theorem SameSched.foldl {α : Type} {f : State → α → State} {l : List α} {s : State}
    (hf : ∀ t a, SameSched s t → SameSched s (f t a)) {t : State} (h : SameSched s t) : SameSched s (l.foldl f t) :=
  List.foldlRecOn (motive := SameSched s) l f h fun u hu a _ => hf u a hu

theorem SameSched.requestCapo {s t : State} (h : SameSched s t) : SameSched s (requestCapo t) := by
  unfold Machine.requestCapo
  refine SameSched.foldl (fun _ _ hu => ?_) h
  exact hu

theorem SameSched.placeStreams {s t : State} {i n : Nat} (h : SameSched s t) : SameSched s (placeStreams i n t) := by
  unfold Machine.placeStreams
  refine SameSched.foldl (fun _ _ hu => SameSched.foldl (fun _ _ hv => ?_) hu) h
  exact hv

theorem job?_updJob_state {s : State} {i n : Nat} {f : Job → Job} (hst : ∀ j, (f j).state = n)
    {x : Job} (hx : (s.updJob i f).job? i = some x) : x.state = n := by
  have hf : (s.jobs.map fun j => if j.id = i then f j else j).find? (fun j => j.id == i) = some x := hx
  obtain ⟨j, -, rfl⟩ := List.mem_map.1 (List.mem_of_find?_eq_some hf)
  have hxid := job?_id hx
  by_cases h : j.id = i
  · rw [if_pos h]
    exact hst j
  · rw [if_neg h] at hxid
    exact absurd hxid h

/-- A job that is RUNNING from a state on. -/
def runningFrom (s : State) (j : Job) : Job := { j with state := 3, heldFrom := s.ftu.count, lastRan := s.sched.runs + 1 }

/-- The state in which a job that switches in, with its pages back in place, is RUNNING. -/
def onCores (i us : Nat) (s back : State) : State :=
  let t := back.updJob i (runningFrom s)
  { clearCapo t with
    sched := { t.sched with holder := some i, incoming := none, switching := false, runs := s.sched.runs + 1 }
    ctr := { t.ctr with jobSwitches := satAdd t.ctr.jobSwitches 1, jobSwitchLong := satMax t.ctr.jobSwitchLong us } }

/-- The job that has switched in holds the module, RUNNING, and the switch is over and counted. -/
theorem switchIn_effect {i us : Nat} {j : Job} {s t : State} (hj : s.job? i = some j) (h : switchIn i us s = some t) :
    t.sched.holder = some i ∧ t.sched.incoming = none ∧ t.sched.switching = false
      ∧ (∀ x, t.job? i = some x → x.state = 3) ∧ t.ctr.jobSwitches = satAdd s.ctr.jobSwitches 1 := by
  simp only [switchIn, hj] at h
  split at h
  · cases h
  next s1 hrecall =>
    have hctr : s1.ctr = s.ctr := by
      rw [recallCtx_ctr hrecall]
      split
      · split
        · exact evictJob_ctr ..
        · rfl
      · rfl
    have hsame : SameSched (onCores i us s (returnPages ((s1.job? i).getD j) s1)) t := by
      rw [← Option.some.inj h]
      split
      · exact (SameSched.placeStreams ⟨rfl, rfl, rfl⟩).requestCapo
      · exact SameSched.placeStreams ⟨rfl, rfl, rfl⟩
    obtain ⟨hjobs, hsched, hctrs⟩ := hsame
    rw [hsched, hctrs]
    refine ⟨rfl, rfl, rfl, fun x hx => ?_, congrArg (fun c : Counters => satAdd c.jobSwitches 1) ((returnPages_ctr _ _).trans hctr)⟩
    unfold State.job? at hx
    rw [hjobs] at hx
    exact job?_updJob_state (s := returnPages ((s1.job? i).getD j) s1) (f := runningFrom s) (fun _ => rfl) hx

/-! ## JOB_SWITCH_END (R643, R644) -/

section
variable {run : Packet → State → State} {us : Nat} {s : State}

theorem switchEnd_of_idle (h : s.sched.switching = false) : switchEnd run us s = s := by
  simp only [switchEnd, h, Bool.not_false, if_true]

theorem switchEnd_of_incoming {i : Nat} {t : State} (h : s.sched.switching = true) (hi : (switchOut us s).sched.incoming = some i)
    (hin : switchIn i us (switchOut us s) = some t) (hl : ∀ x, t.job? i = some x → x.cmdList = []) :
    switchEnd run us s = fetchAll t := by
  have hnone : ((t.job? i).map fun j => j.cmdList.length).getD 0 = 0 := by
    cases hx : t.job? i with
    | none => rfl
    | some x => simp [hl x hx]
  simp only [switchEnd, h, Bool.not_true, Bool.false_eq_true, if_false, hi, hin, hnone, runHeld]

theorem switchEnd_of_none (h : s.sched.switching = true) (hi : (switchOut us s).sched.incoming = none) :
    switchEnd run us s = startNext (switchOut us s).turnOrder
      { clearCapo (switchOut us s) with sched := { (switchOut us s).sched with switching := false } } := by
  simp only [switchEnd, h, Bool.not_true, Bool.false_eq_true, if_false, hi]

end

/-! ## JOB_EVICTION_END (R634) -/

theorem evictionEnd_of_unasked {i : Nat} {j : Job} {s : State} (hj : s.job? i = some j)
    (h : ∀ o ∈ s.opens, o.prog ≠ .jobPreempt i true) : evictionEnd i s = s := by
  have hnone : (s.opens.filter fun o => o.prog == .jobPreempt i true) = [] := by simpa using h
  simp [evictionEnd, hj, hnone]

theorem evictionEnd_of_asked {i : Nat} {j : Job} {o : OpenCmd} {s : State} (hj : s.job? i = some j)
    (h : (s.opens.filter fun o => o.prog == .jobPreempt i true) = [o]) (h5 : j.state = 5) (he : j.evicted = false)
    (hc : j.ctxHost ≠ 0) : evictionEnd i s = postDone o.pkt j.capoFret.toNat 0 (evictJob i s) := by
  simp [evictionEnd, hj, h, h5, he, hc]

/-! ## STEP turns (R647, R648) -/

section
variable {s : State}

theorem stepTurn_of_busy
    (h : s.sched.stepMode = false ∨ s.sched.switching = true ∨ s.sched.stepSwitch = true ∨ s.midTurn = true) :
    stepTurn s = s := by
  have hbusy : (!s.sched.stepMode || s.sched.switching || s.sched.stepSwitch || s.midTurn) = true := by
    rcases h with h | h | h | h <;> simp [h]
  simp only [stepTurn, hbusy, if_true]

/-- The state in which the turn of the job that held it is over. -/
def turnOver (s : State) : State := { s with sched := { s.sched with turnTaken := false } }

variable (hm : s.sched.stepMode = true) (hw : s.sched.switching = false) (hs : s.sched.stepSwitch = false)
  (ht : s.midTurn = false) (hj : s.sched.toJobMode = false)

/-- The turn passes to the job whose turn comes, if any. -/
def passTo (s : State) : Option Nat → State
  | none => turnOver s
  | some i =>
    if s.sched.holder = some i then turnOver s
    else startSwitch i (match s.sched.holder with
      | some h => (turnOver s).updJob h fun j => { j with state := 4 }
      | none => turnOver s)

include hj in
theorem passTurn_of_step : passTurn s = passTo s s.nextTurn := by
  have hstep : ¬s.sched.toJobMode = true := by simp [hj]
  unfold passTurn
  exact if_neg hstep

include hj in
theorem turnTo_of_step : s.turnTo = s.nextTurn := by
  simp only [State.turnTo, hj, Bool.false_eq_true, if_false]

include hm hw hs ht in
/-- A turn that comes passes at once, or asks for the holder's capo point first. -/
theorem stepTurn_of_due : stepTurn s =
    if s.sched.holder.isSome && s.turnTo.isSome && s.turnTo != s.sched.holder then
      requestCapo { s with sched := { s.sched with stepSwitch := true } }
    else passTurn s := by
  simp only [stepTurn, hm, hw, hs, ht, Bool.not_true, Bool.or_false, Bool.false_eq_true, if_false]

include hm hw hs ht hj

theorem stepTurn_of_none (hn : s.nextTurn = none) : stepTurn s = turnOver s := by
  rw [stepTurn_of_due hm hw hs ht, turnTo_of_step hj, passTurn_of_step hj, hn]
  simp [passTo]

theorem stepTurn_of_holder {i : Nat} (hn : s.nextTurn = some i) (hh : s.sched.holder = some i) : stepTurn s = turnOver s := by
  rw [stepTurn_of_due hm hw hs ht, turnTo_of_step hj, passTurn_of_step hj, hn]
  simp [passTo, hh]

theorem stepTurn_of_free {i : Nat} (hn : s.nextTurn = some i) (hh : s.sched.holder = none) :
    stepTurn s = startSwitch i (turnOver s) := by
  rw [stepTurn_of_due hm hw hs ht, passTurn_of_step hj, hn]
  simp [passTo, hh]

theorem stepTurn_of_other {i h : Nat} (hn : s.nextTurn = some i) (hh : s.sched.holder = some h) (hne : h ≠ i) :
    stepTurn s = requestCapo { s with sched := { s.sched with stepSwitch := true } } := by
  have hask : (s.sched.holder.isSome && s.turnTo.isSome && s.turnTo != s.sched.holder) = true := by
    simp [turnTo_of_step hj, hn, hh, hne.symm]
  rw [stepTurn_of_due hm hw hs ht, if_pos hask]

omit hm hw ht in
/-- At the capo point that a turn has asked for the holder leaves and the job whose turn comes switches in. -/
theorem turnCapo_of_other {i h : Nat} (hn : s.nextTurn = some i) (hh : s.sched.holder = some h) (hne : h ≠ i) :
    turnCapo { s with sched := { s.sched with stepSwitch := true } }
      = startSwitch i ((turnOver s).updJob h fun j => { j with state := 4 }) := by
  have hsame : ({ s with sched := { s.sched with stepSwitch := false } } : State) = s := by rw [← hs]
  unfold turnCapo
  dsimp only
  rw [hsame, passTurn_of_step hj, hn]
  simp [passTo, hh, hne, startSwitch]

end

/-! ## BARRIER_DISPATCH (R777) -/

section
variable {vi sq : Nat} {p : Packet} {s : State}

theorem dispatchWaiting_of_held (hw : ((s.vi vi).sq sq).waiting.head? = some p)
    (h : (p.barrier = true ∧ earlierOpen p s = true) ∨ fenceHolds p s = true) (n : Nat) : dispatchWaiting vi sq n s = s := by
  cases n with
  | zero => rfl
  | succ n =>
    obtain ⟨rest, hr⟩ := List.head?_eq_some_iff.1 hw
    have hheld : (p.barrier && earlierOpen p s || fenceHolds p s) = true := by simpa using h
    simp only [dispatchWaiting, hr, hheld, if_true]

theorem dispatchWaiting_of_free (hw : ((s.vi vi).sq sq).waiting = [p]) (hb : p.barrier = false ∨ earlierOpen p s = false)
    (hf : fenceHolds p s = false) (hj : ∀ j, s.job? p.job = some j → j.state = 3 ∨ jobFree p = true) :
    dispatchWaiting vi sq ((s.vi vi).sq sq).waiting.length s
      = runEffect p (s.updSq vi sq fun u => { u with waiting := [] }) := by
  have hfree : (p.barrier && earlierOpen p s || fenceHolds p s) = false := by
    rcases hb with hb | hb <;> simp [hf, hb]
  simp only [hw, List.length_singleton, dispatchWaiting, hfree, Bool.false_eq_true, if_false]
  have hj' : ∀ j, (s.updSq vi sq fun u => { u with waiting := [] }).job? p.job = some j → j.state = 3 ∨ jobFree p = true := hj
  unfold jobGate
  split
  · rfl
  next j hs => exact if_pos (hj' j hs)

end

/-- Settles O47: each event by the state of the switch, of the eviction, of the turn or of the SQ. -/
theorem switchEvents : Obligations.SwitchEvents := by
  unfold Obligations.SwitchEvents
  refine ⟨fun us s h => congrArg _ (switchEnd_of_idle h),
    fun us i j s t h hi hj hin hl => ⟨congrArg _ (switchEnd_of_incoming h hi hin hl), switchIn_effect hj hin⟩,
    fun us s h hi => congrArg _ (switchEnd_of_none h hi),
    fun i j s hj => ⟨fun h => congrArg _ (evictionEnd_of_unasked hj h),
      fun o ho h5 he hc => congrArg _ (evictionEnd_of_asked hj ho h5 he hc)⟩,
    fun s => ⟨fun h => congrArg _ (stepTurn_of_busy h), fun hm hw hs ht hj => ⟨?_, fun i hn => ⟨?_, ?_, fun h hh hne => ⟨?_, ?_⟩⟩⟩⟩,
    fun vi sq p s hv hq hw => ⟨fun h => ?_, fun hw hb hf hj => ?_⟩⟩
  · exact fun hn => congrArg _ (stepTurn_of_none hm hw hs ht hj hn)
  · exact fun hh => congrArg _ (stepTurn_of_holder hm hw hs ht hj hn hh)
  · exact fun hh => congrArg _ (stepTurn_of_free hm hw hs ht hj hn hh)
  · exact congrArg _ (stepTurn_of_other hm hw hs ht hj hn hh hne)
  · exact turnCapo_of_other hs hj hn hh hne
  · exact (event_of_ok (by simp [hv, hq]) _).trans (congrArg _ (dispatchWaiting_of_held hw h _))
  · exact (event_of_ok (by simp [hv, hq]) _).trans (congrArg _ (dispatchWaiting_of_free hw hb hf hj))

end Sys2Proof.Machine
end

section
/-! PROOFS. ABORT of a packet and of a job (R650, R651, R653). -/

namespace Sys2Proof.Machine

open Sys2Proof

/-- An ABORT names a packet of its own VI and job by SQ and SEQ, and not itself. -/
def abortNames (p q : Packet) : Bool :=
  q.vi == p.vi && q.sq == bf p.p0 10 8 && q.seq.toNat == bf p.p1 31 0 && q.jobId == p.jobId && q.key != p.key

section
variable {p : Packet} {s : State}

theorem effAbortPacket_of_gone (hh : (s.heldOf p.job).find? (abortNames p) = none)
    (ho : (s.opens.find? fun o => abortNames p o.pkt) = none) :
    effAbortPacket p s = postFinal p 0x01 0x0000 (bf p.p1 31 0) 0 s := by
  unfold abortNames at hh ho
  simp only [effAbortPacket, hh, ho]

theorem effAbortPacket_of_held {q : Packet} (hh : (s.heldOf p.job).find? (abortNames p) = some q) :
    effAbortPacket p s = runAbort p [q] [] s := by
  unfold abortNames at hh
  simp only [effAbortPacket, hh]

theorem effAbortPacket_of_open {o : OpenCmd} (hh : (s.heldOf p.job).find? (abortNames p) = none)
    (ho : (s.opens.find? fun o => abortNames p o.pkt) = some o) : effAbortPacket p s = runAbort p [] [o] s := by
  unfold abortNames at hh ho
  simp only [effAbortPacket, hh, ho]

theorem runAbort_one_held {q : Packet} : runAbort p [q] [] s
    = fetchAll (pumpAll (settleAborts ((postFinal q 0x02 0x0000 0 0 (unhold q s)).openCmd p (.abort [] 1)))) := by
  simp only [runAbort, List.foldl_nil, List.foldl_cons, List.map_nil, List.length_singleton, abortHeld]

theorem runAbort_one_open {o x : OpenCmd} (hx : (s.openCmd p (.abort [o.pkt.key] 0)).open? o.pkt.key = some x) :
    runAbort p [] [o] s = fetchAll (pumpAll (settleAborts (stopOpen x (s.openCmd p (.abort [o.pkt.key] 0))))) := by
  simp only [runAbort, List.foldl_nil, List.foldl_cons, List.map_cons, List.map_nil, List.length_nil, hx]

end

/-- Settles O48: an ABORT_PACKET by where its packet is found, an ABORT_JOB at one stroke. -/
theorem abortCommandsComplete : Obligations.AbortCommandsComplete := by
  unfold Obligations.AbortCommandsComplete
  intro p s0 hd s
  rw [exec_abortPacket hd, exec_abortJob hd]
  exact ⟨fun hh ho => congrArg _ (effAbortPacket_of_gone hh ho), fun q hh => congrArg _ ((effAbortPacket_of_held hh).trans runAbort_one_held),
    fun o x hh ho hx => congrArg _ ((effAbortPacket_of_open hh ho).trans (runAbort_one_open hx)), rfl⟩

end Sys2Proof.Machine
end

section
/-! PROOFS. SELFTEST, its slots and its slices (R684 to R687, R689). -/

namespace Sys2Proof.Machine

open Sys2Proof

/-! ## SELFTEST (R689, R690) -/

section
variable {p : Packet} {s : State} (hd : bf p.p0 20 16 < 18)
include hd

section
variable (hc : bf p.p0 12 8 < 17)
include hc

theorem effSelftestCore_of_other (h : (s.die (bf p.p0 20 16)).role ≠ 1 ∨ 1 < s.role (bf p.p0 20 16) (bf p.p0 12 8)) :
    effSelftestCore p s = postErr p 0x0A01 (bf p.p0 20 16 * 256 + bf p.p0 12 8) s := by
  have hin : ¬(18 ≤ bf p.p0 20 16 ∨ 17 ≤ bf p.p0 12 8) := by omega
  simp only [effSelftestCore, if_neg hin, if_pos h]

variable (hr : (s.die (bf p.p0 20 16)).role = 1) (hk : s.role (bf p.p0 20 16) (bf p.p0 12 8) ≤ 1)
include hr hk

theorem effSelftestCore_of_busy {k : Key} {c : Nat} (h : (s.die (bf p.p0 20 16)).coreTest = some (k, c)) :
    effSelftestCore p s = postCap p 0x0A02 (bf p.p0 20 16 * 256 + c) s := by
  have hin : ¬(18 ≤ bf p.p0 20 16 ∨ 17 ≤ bf p.p0 12 8) := by omega
  have hown : ¬((s.die (bf p.p0 20 16)).role ≠ 1 ∨ 1 < s.role (bf p.p0 20 16) (bf p.p0 12 8)) := by omega
  have hpending : (s.die (bf p.p0 20 16)).coreTest.or (s.die (bf p.p0 20 16)).coreTestWaits = some (k, c) := by
    rw [h, Option.some_or]
  simp only [effSelftestCore, if_neg hin, if_neg hown, hpending]

variable (ht : (s.die (bf p.p0 20 16)).coreTest = none) (hw : (s.die (bf p.p0 20 16)).coreTestWaits = none)
include ht hw

theorem effSelftestCore_now (h0 : p.p1 = 0) : effSelftestCore p s =
    beginCoreTest (bf p.p0 20 16) p.key (bf p.p0 12 8) (s.openCmd p (.selftest (bf p.p0 20 16) (bf p.p0 12 8))) := by
  have hin : ¬(18 ≤ bf p.p0 20 16 ∨ 17 ≤ bf p.p0 12 8) := by omega
  have hown : ¬((s.die (bf p.p0 20 16)).role ≠ 1 ∨ 1 < s.role (bf p.p0 20 16) (bf p.p0 12 8)) := by omega
  simp only [effSelftestCore, if_neg hin, if_neg hown, ht, hw, Option.or_none, if_pos h0]

theorem effSelftestCore_later (h0 : p.p1 ≠ 0) (hs : schedRefusal p.p1.toNat s = none) : effSelftestCore p s =
    (schedule .selftest p.p1.toNat (some p.key) (s.openCmd p (.selftest (bf p.p0 20 16) (bf p.p0 12 8)))).updDie
      (bf p.p0 20 16) fun x => { x with coreTestWaits := some (p.key, bf p.p0 12 8) } := by
  have hin : ¬(18 ≤ bf p.p0 20 16 ∨ 17 ≤ bf p.p0 12 8) := by omega
  have hown : ¬((s.die (bf p.p0 20 16)).role ≠ 1 ∨ 1 < s.role (bf p.p0 20 16) (bf p.p0 12 8)) := by omega
  simp only [effSelftestCore, if_neg hin, if_neg hown, ht, hw, Option.or_none, if_neg h0, hs]

end

/-- The interval of SLICED: 0 means 1,000 µs. -/
def slicedInterval (p : Packet) : Nat := if bf p.p2 31 0 = 0 then 1000 else bf p.p2 31 0

theorem effSelftestSliced_of_good (hl : 1000 ≤ slicedInterval p) (hh : slicedInterval p ≤ 1000000) :
    effSelftestSliced p s = postDone p 0 0 ((List.range 17).foldl
      (fun s c => s.updCore (bf p.p0 20 16) c fun k => { k with slices := 0 })
      (s.updDie (bf p.p0 20 16) fun x => { x with sliced := true, interval := slicedInterval p })) := by
  have hgood : ¬(18 ≤ bf p.p0 20 16 ∨ slicedInterval p < 1000 ∨ 1000000 < slicedInterval p) := by omega
  unfold slicedInterval at hgood
  simp only [effSelftestSliced, if_neg hgood, slicedInterval]

theorem effSelftestStop_of_die : effSelftestStop p s = postDone p 0 0 ((List.range 17).foldl
    (fun s c => s.updCore (bf p.p0 20 16) c fun k => { k with sliceDue := false })
    (s.updDie (bf p.p0 20 16) fun x => { x with sliced := false })) := by
  simp only [effSelftestStop, if_neg (Nat.not_le.2 hd)]

theorem effSelftestRotation_of_die :
    effSelftestRotation p s = postDone p 0 0 (s.updDie (bf p.p0 20 16) fun x => { x with paused := !p.p0.getLsbD 24 }) := by
  simp only [effSelftestRotation, if_neg (Nat.not_le.2 hd)]

end

/-! ## Slots (R684 to R686) -/

section
variable {d c u us : Nat} {s : State}

section
variable (hw : (s.die d).coreTestWaits = none) (ht : (s.die d).coreTest = none)
include hw ht

theorem slotStart_of_rest (h : (s.die d).rotate = false ∨ (s.die d).paused = true ∨ s.ftu.count.toNat % s.slotFrets ≠ 0
    ∨ s.ready = false) : slotStart d s = s := by
  simp only [slotStart, hw, nextSlot, ht]
  rcases h with h | h | h | h <;> simp [h]

theorem slotStart_of_rotation (hr : (s.die d).rotate = true) (hp : (s.die d).paused = false)
    (hf : s.ftu.count.toNat % s.slotFrets = 0) (hy : s.ready = true) (h1 : (s.die d).role = 1)
    (hb : (s.die d).standbyFree = true) (hi : s.inSlot d = false) (hc : s.rotationCore d = some c) :
    slotStart d s = startSlot d c s := by
  simp [slotStart, hw, nextSlot, ht, hr, hp, hf, hy, h1, hb, hi, hc]

end

theorem slotEnd_of_none (h : s.inSlot d = false ∨ s.standsForGood d = true) : slotEnd d u us s = s := by
  simp only [slotEnd]
  rcases h with h | h <;> simp [h]

/-- The state in which a slot of a die is over. -/
def slotOver (d : Nat) (s : State) : State := s.updDie d fun x => { x with testing := 0x1F }

section
variable (hi : s.inSlot d = true) (hg : s.standsForGood d = false)
include hi hg

omit hi hg in
theorem slotEnd_of_unmoved (ht : (s.die d).testing ≠ 0x1F) (hc : (s.die d).testing.toNat ≠ (s.die d).standby)
    (hf : (s.die d).standFor = 0x1F) : slotEnd d u us s = s := by
  have hunbegun : (s.die d).testing ≠ 0x1F ∧ (s.die d).testing.toNat ≠ (s.die d).standby ∧ (s.die d).standFor = 0x1F :=
    ⟨ht, hc, hf⟩
  simp only [slotEnd, hunbegun, decide_true, Bool.or_true, if_true, ne_eq, not_false_eq_true, and_self]

theorem slotEnd_of_tested (ht : (s.die d).testing ≠ 0x1F)
    (hm : (s.die d).testing.toNat = (s.die d).standby ∨ (s.die d).standFor ≠ 0x1F) :
    slotEnd d u us s =
      let t := judgeTest d (s.die d).testing.toNat u us (slotOver d s)
      if t.standsForGood d || (s.die d).standFor = 0x1F then t else askCapo [(d, (s.die d).standby)] t := by
  have hbegun : ¬((s.die d).testing ≠ 0x1F ∧ (s.die d).testing.toNat ≠ (s.die d).standby ∧ (s.die d).standFor = 0x1F) :=
    fun h => hm.elim h.2.1 fun hne => hne h.2.2
  simp only [slotEnd, hi, hg, hbegun, Bool.not_true, Bool.or_false, decide_false, Bool.false_eq_true, if_false, if_neg ht]
  rfl

theorem slotEnd_of_returned (ht : (s.die d).testing = 0x1F) (hs : (slotOver d s).standsForGood d = false) :
    slotEnd d u us s = askCapo [(d, (s.die d).standby)] (slotOver d s) := by
  have hstand : (s.die d).standFor ≠ 0x1F := by
    intro h
    simp [State.inSlot, ht, h] at hi
  have hbegun : ¬((s.die d).testing ≠ 0x1F ∧ (s.die d).testing.toNat ≠ (s.die d).standby ∧ (s.die d).standFor = 0x1F) :=
    fun h => h.1 ht
  unfold slotOver at hs
  simp only [slotEnd, hi, hg, hbegun, Bool.not_true, Bool.or_false, decide_false, Bool.false_eq_true, if_false, if_pos ht,
    hs, Bool.false_or, decide_eq_true_eq, if_neg hstand, slotOver]

end

theorem judgeTest_of_pass (ht : (s.die d).coreTest = none) : judgeTest d c 0 us s = s.updDie d fun x =>
    { x with tstSlots := satAdd x.tstSlots 1, tstFailed := satAdd x.tstFailed 0 } := by
  simp only [judgeTest, if_true, State.updDie_die_same, ht]
  rfl

/-! ## Slices (R687) -/

theorem sliceEnd_of_none (h : (s.core d c).inSlice = false) : sliceEnd d c u us s = s := by
  simp only [sliceEnd, h, Bool.not_false, if_true]

section
variable (hi : (s.core d c).inSlice = true)
include hi

theorem sliceEnd_of_early (hn : (s.core d c).slices < 999) : sliceEnd d c u us s =
    s.updCore d c fun k => { k with inSlice := false, slices := (s.core d c).slices + 1 } := by
  have hlt : (s.core d c).slices + 1 < 1000 := by omega
  simp only [sliceEnd, hi, Bool.not_true, Bool.false_eq_true, if_false, if_pos hlt, Nat.mod_eq_of_lt hlt]

theorem sliceEnd_of_last (hn : (s.core d c).slices = 999) : sliceEnd d c u us s =
    judgeTest d c u us (s.updCore d c fun k => { k with inSlice := false, slices := 0 }) := by
  simp only [sliceEnd, hi, hn, Bool.not_true, Bool.false_eq_true, if_false, Nat.reduceAdd, Nat.mod_self, Nat.lt_irrefl]

end

end

/-- Settles O49: SELFTEST by its parameters, a slot and a slice by where they stand. -/
theorem selftestCommands : Obligations.SelftestCommands := by
  unfold Obligations.SelftestCommands
  refine ⟨fun p s0 hp => ?_, fun d s hd => ⟨fun hw ht => ⟨fun h => ?_, fun c hr hq hf hy h1 hb hi hc => ?_⟩, fun u us h => ?_,
    fun hi hg => ⟨fun u us ht hc hf => ?_, fun u us ht hm => ?_, fun u us ht hs => ?_⟩,
    fun c us ht => judgeTest_of_pass ht, event_of_ok (decide_eq_true hd) _,
    fun c u us hc => ⟨fun h => ?_, fun h hn => ?_, fun h hn => ?_⟩⟩⟩
  · rw [exec_selftestCore hp, exec_selftestSliced hp, exec_selftestStop hp, exec_selftestRotation hp]
    exact fun hd => ⟨fun hc h => congrArg _ (effSelftestCore_of_other hd hc h),
      fun hc hr hk => ⟨fun k c h => congrArg _ (effSelftestCore_of_busy hd hc hr hk h),
        fun ht hw => ⟨fun h0 => congrArg _ (effSelftestCore_now hd hc hr hk ht hw h0),
          fun h0 hs => congrArg _ (effSelftestCore_later hd hc hr hk ht hw h0 hs)⟩⟩,
      fun hl hh => congrArg _ (effSelftestSliced_of_good hd hl hh), congrArg _ (effSelftestStop_of_die hd),
      congrArg _ (effSelftestRotation_of_die hd)⟩
  · exact (event_of_ok (decide_eq_true hd) _).trans (congrArg _ (slotStart_of_rest hw ht h))
  · exact (event_of_ok (decide_eq_true hd) _).trans (congrArg _ (slotStart_of_rotation hw ht hr hq hf hy h1 hb hi hc))
  · exact (event_of_ok (decide_eq_true hd) _).trans (congrArg _ (slotEnd_of_none h))
  · exact (event_of_ok (decide_eq_true hd) _).trans (congrArg _ (slotEnd_of_unmoved ht hc hf))
  · exact (event_of_ok (decide_eq_true hd) _).trans (congrArg _ (slotEnd_of_tested hi hg ht hm))
  · exact (event_of_ok (decide_eq_true hd) _).trans (congrArg _ (slotEnd_of_returned hi hg ht hs))
  · exact (event_of_ok (decide_eq_true ⟨hd, hc⟩) _).trans (congrArg _ (sliceEnd_of_none h))
  · exact (event_of_ok (decide_eq_true ⟨hd, hc⟩) _).trans (congrArg _ (sliceEnd_of_early h hn))
  · exact (event_of_ok (decide_eq_true ⟨hd, hc⟩) _).trans (congrArg _ (sliceEnd_of_last h hn))

end Sys2Proof.Machine
end

section
/-! PROOFS. The notice ring's registers, FLT_STAT, FAULT_POLICY and the programming of event records
(R670, R677, R679 to R681, R728, R730). -/

namespace Sys2Proof.Machine

open Sys2Proof

/-! ## The notice ring (R677) -/

section
variable {v : Word} {r : Ntc}

theorem ntcCfg_en : (ntcCfg v r).en = true ↔
    v.getLsbD 31 = true ∧ 4 ≤ (ntcCfg v r).sizeLog2.toNat ∧ (ntcCfg v r).sizeLog2.toNat ≤ 16 := by
  simp only [ntcCfg, sizeOk, Bool.and_eq_true, decide_eq_true_eq]

theorem ntcCfg_of_enabled (h0 : r.en = false) (h : (ntcCfg v r).en = true) :
    (ntcCfg v r).head = 0 ∧ (ntcCfg v r).tail = 0 ∧ (ntcCfg v r).phase = true := by
  have hstart : ((ntcCfg v r).en && !r.en) = true := by simp [h, h0]
  exact ⟨if_pos hstart, if_pos hstart, if_pos hstart⟩

theorem ntcCfg_of_not_enabled (h : r.en = true ∨ (ntcCfg v r).en = false) :
    (ntcCfg v r).head = r.head ∧ (ntcCfg v r).tail = r.tail ∧ (ntcCfg v r).phase = r.phase := by
  have hstay : ¬((ntcCfg v r).en && !r.en) = true := by
    rcases h with h | h <;> simp [h]
  exact ⟨if_neg hstay, if_neg hstay, if_neg hstay⟩

end

/-! ## FAULT_POLICY (R679 to R681) -/

section
variable {set : Bool} {p : Packet} {s : State}

theorem faultPolicy_of_past (h : 2100 < bf p.p1 15 0 + bf p.p1 31 16) :
    faultPolicy set p s = postErr p 0x0F30 (max (bf p.p1 15 0) 2100) s := by
  simp only [faultPolicy, if_pos h]

variable (hin : bf p.p1 15 0 + bf p.p1 31 16 ≤ 2100)
include hin

theorem faultPolicy_of_empty (h : bf p.p1 31 16 = 0 ∨ (set = true ∧ bf p.p2 31 24 = 0)) :
    faultPolicy set p s = postErr p 0x0F30 0xFFFF s := by
  simp only [faultPolicy, if_neg (Nat.not_lt.2 hin), if_pos h]

/-- The units that a FAULT_POLICY names. -/
def policyUnits (p : Packet) : List Nat := (List.range (bf p.p1 31 16)).map (bf p.p1 15 0 + ·)

variable (hc : ¬(bf p.p1 31 16 = 0 ∨ (set = true ∧ bf p.p2 31 24 = 0)))
include hc

theorem faultPolicy_of_locked (hs : p.p0.getLsbD 60 = true) (hl : s.groupLocked 2 = true) :
    faultPolicy set p s = postFinal p 0xFF 0x0F4B 2 0 s := by
  simp only [faultPolicy, if_neg (Nat.not_lt.2 hin), if_neg hc, hs, lockRefusal_of_locked hl]
  rfl

theorem faultPolicy_of_unsaved (hs : p.p0.getLsbD 60 = false) :
    faultPolicy set p s
      = postDone p (bf p.p1 31 16) 0 (setPolicies (if set then some (policyCfg p) else none) (policyUnits p) s) := by
  simp only [faultPolicy, if_neg (Nat.not_lt.2 hin), if_neg hc, hs, lockRefusal_of_open (.inl rfl), Bool.false_eq_true,
    if_false, policyUnits]

theorem faultPolicy_of_saved (hs : p.p0.getLsbD 60 = true) (hl : s.groupLocked 2 = false) :
    faultPolicy set p s = postDone p (bf p.p1 31 16) 0
      ((policyUnits p).foldl (fun s u => journal 2 u (if set then policyBytes p else defaultBytes u) s)
        (setPolicies (if set then some (policyCfg p) else none) (policyUnits p) s)) := by
  simp only [faultPolicy, if_neg (Nat.not_lt.2 hin), if_neg hc, hs, lockRefusal_of_open (.inr hl), if_true, policyUnits]

end

/-! ## Event records (R728, R730, R731) -/

section
variable {e : EvRec} {rest : List EvRec} {s : State}

theorem programRecord_of_none (h : s.boot.evQueue = []) : programRecord s = s := by
  simp only [programRecord, h]

variable (hq : s.boot.evQueue = e :: rest)
include hq

theorem programRecord_of_full (hf : s.boot.evFull = true) :
    programRecord s = { s with boot := { s.boot with evQueue := [] } } := by
  simp only [programRecord, hq, hf, if_true]

variable (hf : s.boot.evFull = false)
include hf

theorem programRecord_of_room (hn : s.boot.evNext < 65535) : programRecord s = { s with
    flash := { s.flash with events := s.flash.events ++ [e] }
    boot := { s.boot with
      evNext := s.boot.evNext + 1, evLostNew := 0
      evQueue := rest ++ (if s.boot.evLostNew = 0 then [] else [s.recNow 0x0300 s.boot.evLostNew]) } } := by
  have hroom : ¬65535 ≤ s.boot.evNext := Nat.not_le.2 hn
  simp only [programRecord, hq, hf, Bool.false_eq_true, if_false, if_neg hroom, decide_eq_false hroom]

theorem programRecord_of_last (hn : 65535 ≤ s.boot.evNext) : programRecord s = { s with
    flash := { s.flash with events := s.flash.events ++ [s.recNow 0x03FF s.boot.evNext] }
    boot := { s.boot with evNext := s.boot.evNext + 1, evFull := true, evLostNew := 0, evQueue := [] } } := by
  simp only [programRecord, hq, hf, Bool.false_eq_true, if_false, if_pos hn, decide_eq_true hn]

end

/-- Settles O51: the registers by their fields, FAULT_POLICY by its range and lock, a record by the room of the flash. -/
theorem faultRegistersAndPolicy : Obligations.FaultRegistersAndPolicy := by
  unfold Obligations.FaultRegistersAndPolicy
  refine ⟨fun v s => ⟨⟨ntcCfg v s.ntc, rfl, rfl, ntcCfg_en, ntcCfg_of_enabled, ntcCfg_of_not_enabled⟩, rfl⟩,
    fun u v s hu => ⟨statClear u v s, event_of_ok (decide_eq_true hu) _, rfl, State.updFault_fault_same ..,
      fun x hx => State.updFault_fault_of_ne _ _ hx⟩,
    fun p s0 hd => ?policy,
    fun s => ⟨fun h => congrArg _ (programRecord_of_none h), fun e rest hq => ⟨fun hf => congrArg _ (programRecord_of_full hq hf),
      fun hf hn => congrArg _ (programRecord_of_room hq hf hn), fun hf hn => congrArg _ (programRecord_of_last hq hf hn)⟩⟩⟩
  case policy =>
    rw [exec_faultPolicySet hd, exec_faultPolicyDefaults hd]
    have hdef (hc : bf p.p1 31 16 ≠ 0) : ¬(bf p.p1 31 16 = 0 ∨ (false = true ∧ bf p.p2 31 24 = 0)) := by simp [hc]
    exact ⟨fun h => ⟨congrArg _ (faultPolicy_of_past h), congrArg _ (faultPolicy_of_past h)⟩,
      fun hin => ⟨fun h => congrArg _ (faultPolicy_of_empty hin (.inl h)),
        fun h => congrArg _ (faultPolicy_of_empty hin (h.imp_right fun hn => ⟨rfl, hn⟩)),
        fun hc hs => ⟨fun hn => congrArg _ (faultPolicy_of_unsaved hin (not_or.2 ⟨hc, fun h => hn h.2⟩) hs),
          congrArg _ (faultPolicy_of_unsaved hin (hdef hc) hs)⟩,
        fun hc hs => ⟨fun hl => congrArg _ (faultPolicy_of_locked hin (hdef hc) hs hl),
          fun hl => congrArg _ (faultPolicy_of_saved hin (hdef hc) hs hl)⟩⟩⟩

end Sys2Proof.Machine
end

section
/-! PROOFS. FW_STAGE, FW_ACTIVATE, EVREC_READ and the PLDM update (R708, R714 to R717, R733). -/

namespace Sys2Proof.Machine

open Sys2Proof

section
variable {p : Packet} {s : State}

/-! ## FW_STAGE (R714, R715) -/

/-- An image that has been read, with no trial set, goes into the slot that is not running, or its check says why not. -/
def stageImage (p : Packet) (b : List Byte) (s : State) : State :=
  let h := fwHeader b
  match fwBadField b with
  | some i => postErr p 0x0F40 i s
  | none =>
    if fwSigned b = false then postFinal p 0x32 0x0F41 h.version.toNat 0 s
    else if h.svn.toNat < s.flash.fwSvn.toNat then postErr p 0x0F42 s.flash.fwSvn.toNat s
    else
      let put (bad : Nat) : State := refreshFw (putSlot (!s.boot.slotB)
        { version := h.version, svn := h.svn, bad := bad, digest := imageDigest b } s.nextFree)
      match s.flashFails (!s.boot.slotB) with
      | some a => postFinal p 0x31 0x0F46 a 0 (faultEvents 2099 1 a (put 1))
      | none => postDone p h.version.toNat h.svn.toNat
          (evrec 0x0007 0xFFFF (b2n (!s.boot.slotB)) h.version.toNat h.svn.toNat (put 0))

section
variable {b : List Byte} (hb : vread p.vi s p.p1.toNat (bf p.p2 31 0) = .ok b)
include hb

theorem effFwStage_of_trial (ht : s.flash.trial ≠ 0) : effFwStage p s = postErr p 0x0F44 s.flash.trial s := by
  simp only [effFwStage, hb, if_pos ht]

theorem effFwStage_of_read (ht : s.flash.trial = 0) : effFwStage p s = stageImage p b s := by
  simp only [effFwStage, hb, ht, ne_eq, not_true_eq_false, if_false, stageImage, Bool.not_eq_true', faultEvent1] <;>
    rfl

end

/-! ## FW_ACTIVATE (R716, R717) -/

theorem effFwActivateTrial_of_valid (h : s.slotValid (!s.boot.slotB) = true) :
    effFwActivateTrial p s = activateDone p (resetBit p) (setTrial 1 s) := by
  simp only [effFwActivateTrial, h, if_true]

theorem effFwActivateTrial_of_invalid (h : s.slotValid (!s.boot.slotB) = false) :
    effFwActivateTrial p s = postErr p 0x0F40 (slotField s (!s.boot.slotB)) s.nextFree := by
  simp only [effFwActivateTrial, h, Bool.false_eq_true, if_false]

/-- The state that a COMMIT leaves: the running slot is preferred, and FW_SVN at least its SVN. -/
def committed (s : State) : State :=
  let x := s.fwSlot s.boot.slotB
  let svn := if s.flash.fwSvn.toNat < x.svn.toNat then x.svn else s.flash.fwSvn
  evrec 0x0006 0xFFFF (b2n s.boot.slotB) x.version.toNat svn.toNat (refreshFw { s with
    flash := { s.flash with preferredB := s.boot.slotB, trial := 0, fwSvn := svn }
    boot := { s.boot with preferred := s.boot.slotB, trial := false } })

theorem effFwActivateCommit_of_trial (h : s.flash.trial = 2) :
    effFwActivateCommit p s = activateDone p (resetBit p) (committed s) := by
  have htrial : ¬s.flash.trial ≠ 2 := not_not.2 h
  exact if_neg htrial

theorem effFwActivateCommit_of_no_trial (h : s.flash.trial ≠ 2) : effFwActivateCommit p s = postErr p 0x0F45 0 s := if_pos h

theorem effFwActivateDisarm_of_booted (h : s.flash.trial = 2) : effFwActivateDisarm p s = postErr p 0x0F44 2 s := if_pos h

theorem effFwActivateDisarm_of_unbooted (h : s.flash.trial ≠ 2) :
    effFwActivateDisarm p s = activateDone p (resetBit p) (setTrial 0 s) := if_neg h

/-! ## EVREC_READ (R733) -/

theorem effEvrecRead_of_past (h : 65535 < bf p.p0 31 0) : effEvrecRead p s = postErr p 0x0F4C (bf p.p0 31 0) s := by
  simp only [effEvrecRead, if_pos h]

/-- The records that an EVREC_READ names. -/
def recordsRead (p : Packet) (s : State) : List EvRec := (s.flash.events.drop (bf p.p0 31 0)).take (bf p.p2 31 0)

theorem effEvrecRead_of_mapped (h : bf p.p0 31 0 ≤ 65535)
    (hm : s.firstUnmapped p.vi p.p1.toNat ((recordsRead p s).flatMap evBytes).length = none) :
    effEvrecRead p s = postDone p (recordsRead p s).length s.boot.evNext
      (vwrite p.vi p.p1.toNat ((recordsRead p s).flatMap evBytes) s) := by
  have hstored := vstore_of_mapped hm
  unfold recordsRead at hstored
  simp only [effEvrecRead, if_neg (Nat.not_lt.2 h), hstored]
  rfl

/-! ## The PLDM update (R708) -/

theorem pldmUpdate_of_running {image : List Byte} (h : s.boot.state ≠ 1) : pldmUpdate image s = s := if_pos h

theorem pldmUpdate_of_recovery {image : List Byte} (h : s.boot.state = 1) :
    pldmUpdate image s = chipReset (s.freeVal.toNat % 256) (putSlot false
      { version := (fwHeader image).version, svn := (fwHeader image).svn, bad := imageCause image s
        digest := imageDigest image } s).nextFree := by
  have hrecovery : ¬s.boot.state ≠ 1 := not_not.2 h
  exact if_neg hrecovery

end

/-- Settles O56: each command by the trial and the slots, and the PLDM update by the state of the boot. -/
theorem firmwareCommandsComplete : Obligations.FirmwareCommandsComplete := by
  unfold Obligations.FirmwareCommandsComplete
  refine ⟨fun p s0 hd => ?_, fun image s => ⟨fun h => congrArg _ (pldmUpdate_of_running h),
    fun h => congrArg _ (pldmUpdate_of_recovery h)⟩⟩
  rw [exec_fwStage hd, exec_fwActivateTrial hd, exec_fwActivateCommit hd, exec_fwActivateDisarm hd, exec_fwActivateReset hd,
    exec_evrecRead hd]
  exact ⟨fun b hb => ⟨fun ht => congrArg _ (effFwStage_of_trial hb ht), fun ht => congrArg _ (effFwStage_of_read hb ht)⟩,
    fun h => congrArg _ (effFwActivateTrial_of_valid h), fun h => congrArg _ (effFwActivateTrial_of_invalid h),
    fun h => ⟨congrArg _ (effFwActivateCommit_of_no_trial h), congrArg _ (effFwActivateDisarm_of_unbooted h)⟩,
    fun h => ⟨congrArg _ (effFwActivateDisarm_of_booted h), congrArg _ (effFwActivateCommit_of_trial h)⟩, rfl,
    fun h => congrArg _ (effEvrecRead_of_past h), fun h hm => congrArg _ (effEvrecRead_of_mapped h hm)⟩

end Sys2Proof.Machine
end

section
/-! PROOFS. CONFIG_LOAD and POWER_CAP (R718 to R724, R748, R751). -/

namespace Sys2Proof.Machine

open Sys2Proof

section
variable {p : Packet} {s : State}

/-! ## CONFIG_LOAD INSTALL (R719, R723, R724) -/

/-- A well-formed owner image is stored, or its signature or generation says why not. -/
def installOwner (p : Packet) (b : List Byte) (set : List (Nat × Nat × List Byte)) (s : State) : State :=
  let gen : Word := BitVec.ofNat 32 (blk b 4 4)
  let own := (b.drop 16).take 133
  let lock : Half := BitVec.ofNat 16 (blk b 8 2)
  if ecdsaOk (sha512 (b.take (b.length - 132))) (b.drop (b.length - 132)) (s.flash.ownerKey.getD own) = false then
    postFinal p 0x32 0x0F48 gen.toNat 0 s
  else if gen.toNat ≤ s.flash.cfgGen.toNat then postErr p 0x0F49 s.flash.cfgGen.toNat s
  else postDone p gen.toNat 0 (evrec 0x0009 0xFFFF gen.toNat (b2n (s.flash.ownerKey != some own)) 0
    { s with flash := { s.flash with
        owner := some { gen := gen, lock := lock, settings := set }, cfgGen := gen, ownerKey := some own
        journal := s.flash.journal.filter fun r => !(lock.getLsbD r.group) } })

section
variable {b : List Byte} (hb : vread p.vi s p.p1.toNat (bf p.p2 31 0) = .ok b)
include hb

theorem effConfigInstall_of_malformed {i : Nat} (h : parseOwner b = .error i) : effConfigInstall p s = postErr p 0x0F4A i s := by
  simp only [effConfigInstall, hb, h]

theorem effConfigInstall_of_parsed {set : List (Nat × Nat × List Byte)} (h : parseOwner b = .ok set) :
    effConfigInstall p s = installOwner p b set s := by
  simp only [effConfigInstall, hb, h, installOwner, Bool.not_eq_true']

end

/-! ## READ, SAVE_ROUTES and CLEAR (R721, R723) -/

/-- The settings in force, up to LENGTH bytes. -/
def configBytes (p : Packet) (s : State) : List Byte := (s.inForce.flatMap recordBytes).take (bf p.p2 31 0)

theorem effConfigRead_of_mapped (hm : s.firstUnmapped p.vi p.p1.toNat (configBytes p s).length = none) :
    effConfigRead p s = postDone p (configBytes p s).length 0 (vwrite p.vi p.p1.toNat (configBytes p s) s) := by
  have hstored := vstore_of_mapped hm
  unfold configBytes at hstored
  simp only [effConfigRead, hstored, configBytes]

theorem effSaveRoutes_of_open (h : s.groupLocked 4 = false) :
    effSaveRoutes p s = postDone p s.routeValues.length 0 (journalGroup 4 s.routeValues s) := by
  simp only [effSaveRoutes, lockRefusal_of_open (.inr h)]

theorem effSaveRoutes_of_locked (h : s.groupLocked 4 = true) : effSaveRoutes p s = postFinal p 0xFF 0x0F4B 4 0 s := by
  simp only [effSaveRoutes, lockRefusal_of_locked h]
  rfl

end

/-! ## POWER_CAP (R748, R751) -/

theorem foldl_max_bounds {l : List Nat} {a n : Nat} (h : ∀ x ∈ l, x ≤ n) (ha : a ≤ n) : a ≤ l.foldl max a ∧ l.foldl max a ≤ n := by
  induction l generalizing a with
  | nil => exact ⟨Nat.le_refl a, ha⟩
  | cons x l ih =>
    obtain ⟨hlow, hhigh⟩ := ih (fun y hy => h y (List.mem_cons_of_mem x hy)) (Nat.max_le.2 ⟨ha, h x List.mem_cons_self⟩)
    exact ⟨Nat.le_trans (Nat.le_max_left a x) hlow, hhigh⟩

theorem capStepOf_bounds (c : Nat) : 4 ≤ capStepOf c ∧ capStepOf c ≤ 32 :=
  foldl_max_bounds (fun _ hx => Nat.le_of_lt_succ (List.mem_range.1 (List.mem_of_mem_filter hx))) (by decide)

theorem setCap_thermalStep_le (c : Nat) (w : Power) : (setCap c w).thermalStep ≤ (setCap c w).capStep := by
  simp only [setCap]
  split
  · exact Nat.le_refl _
  · exact Nat.min_le_right _ _

theorem effPowerCapSet_of_bad {p : Packet} {s : State} (h : bf p.p1 7 0 < 50 ∨ 160 < bf p.p1 7 0) :
    effPowerCapSet p s = postErr p 0x0F50 (bf p.p1 7 0) s := if_pos h

theorem effPowerCapSet_of_good {p : Packet} {s : State} (hl : 50 ≤ bf p.p1 7 0) (hh : bf p.p1 7 0 ≤ 160) :
    effPowerCapSet p s = capDone p { s with power := setCap (bf p.p1 7 0) s.power } := by
  have hgood : ¬(bf p.p1 7 0 < 50 ∨ 160 < bf p.p1 7 0) := by omega
  exact if_neg hgood

/-- Settles O57: CONFIG_LOAD by its action and lock, POWER_CAP by its cap. -/
theorem configurationCommandsComplete : Obligations.ConfigurationCommandsComplete := by
  unfold Obligations.ConfigurationCommandsComplete
  intro p s0 hd
  rw [exec_configInstall hd, exec_configRead hd, exec_saveRoutes hd, exec_configClear hd, exec_powerCapSet hd,
    exec_powerCapQuery hd]
  exact ⟨fun b hb => ⟨fun i h => congrArg _ (effConfigInstall_of_malformed hb h),
      fun set h => congrArg _ (effConfigInstall_of_parsed hb h)⟩,
    fun hm => congrArg _ (effConfigRead_of_mapped hm), fun h => congrArg _ (effSaveRoutes_of_open h),
    fun h => congrArg _ (effSaveRoutes_of_locked h), rfl,
    ⟨fun h => congrArg _ (effPowerCapSet_of_bad h), fun hl hh => ⟨congrArg _ (effPowerCapSet_of_good hl hh), rfl,
      (capStepOf_bounds _).1, (capStepOf_bounds _).2, setCap_thermalStep_le ..⟩⟩, rfl⟩

end Sys2Proof.Machine
end

section
/-! PROOFS. Power-on and power-off, supply events, measured power and temperature
(R741 to R747, R750, R754, R756). -/

namespace Sys2Proof.Machine

open Sys2Proof

section
variable {s : State}

/-! ## Power-on and power-off (R743, R745, R746) -/

section
variable {a b us : Nat}

theorem powerOn_of_up (h : s.power.railsOn = true ∨ s.power.tripped = true) : powerOn a b s = s := by
  have hup : (s.power.railsOn || s.power.tripped) = true := by simpa using h
  simp only [powerOn, hup, if_true]

theorem powerOn_of_dark (hr : s.power.railsOn = false) (ht : s.power.tripped = false) : powerOn a b s =
    if max a b < 44000 then { s with power := { s.power with pwrEn := true } }
    else freshModule
      { pwrEn := true, good := false, perst := true, railsOn := true, mv := max a b, oneFeed := decide (min a b < 40000) }
      { fromPowerOn := true, hours := s.flash.hours, evNext := s.flash.events.length
        evFull := decide (65536 ≤ s.flash.events.length) } s := by
  simp only [powerOn, hr, ht, Bool.or_self, Bool.false_eq_true, if_false]

theorem perstAssert_of_ignored (h : us < 50 ∨ s.power.railsOn = false) : perstAssert us s = s := by
  have hoff : ¬(50 ≤ us ∧ s.power.railsOn = true) := by
    rintro ⟨hlong, hon⟩
    rcases h with h | h
    · omega
    · simp [h] at hon
  exact if_neg hoff

theorem perstAssert_of_long (hu : 50 ≤ us) (hr : s.power.railsOn = true) : perstAssert us s =
    freshModule { powerAfter s.power with perst := true } (bootAfter 3 [s.recNow 0x0200 3] s) s :=
  if_pos ⟨hu, hr⟩

end

/-! ## Input voltage (R741, R747) -/

section
variable {mv : Nat} (hr : s.power.railsOn = true)
include hr

theorem voltageChange_of_outside (h : mv < 40000 ∨ 57000 < mv) : voltageChange mv s = dark s.power.pwrEn true s := by
  simp only [voltageChange, hr, Bool.not_true, Bool.false_eq_true, if_false, if_pos h]

theorem voltageChange_of_good (hl : 44000 ≤ mv) (hh : mv ≤ 56000) :
    voltageChange mv s = { s with power := { s.power with mv := mv } } := by
  have hin : ¬(mv < 40000 ∨ 57000 < mv) := by omega
  have hgood : ¬(mv < 44000 ∨ 56000 < mv) := by omega
  simp only [voltageChange, hr, Bool.not_true, Bool.false_eq_true, if_false, if_neg hin, if_neg hgood]

theorem voltageChange_of_limited (h : 40000 ≤ mv ∧ mv < 44000 ∨ 56000 < mv ∧ mv ≤ 57000) : voltageChange mv s =
    faultEvents 2098 1 mv { s with power := limitVoltage { s.power with mv := mv } } := by
  have hin : ¬(mv < 40000 ∨ 57000 < mv) := by omega
  have hband : mv < 44000 ∨ 56000 < mv := by omega
  simp only [voltageChange, hr, Bool.not_true, Bool.false_eq_true, if_false, if_neg hin, if_pos hband, faultEvent1]

omit hr in
theorem feedLost_of_high (h : 40000 ≤ mv) : feedLost mv s = s := if_neg fun hl => absurd hl.2 (Nat.not_lt.2 h)

theorem feedLost_of_low (h : mv < 40000) : feedLost mv s = faultEvents 2098 1 mv { s with power := { s.power with
    oneFeed := true, thrVoltage := if s.power.oneFeed then s.power.thrVoltage else satAdd s.power.thrVoltage 1 } } :=
  if_pos ⟨hr, h⟩

end

/-! ## Measured power (R750) -/

section
variable {n : Nat} {w : Power}

theorem measure_of_above (h : 50 * w.cap < n) : measure n w = { w with
    measStep := max 4 (w.measStep - 1), lowMs := 0
    thrPower := if w.measStep = w.capStep then satAdd w.thrPower 1 else w.thrPower } := by
  simp only [measure, if_pos h]

theorem measure_of_near (h : n ≤ 50 * w.cap) (hn : 50 * w.cap < n + 200) : measure n w = { w with lowMs := 0 } := by
  simp [measure, if_neg (Nat.not_lt.2 h), if_neg (Nat.not_le.2 hn)]

theorem measure_of_tenth (h : n + 200 ≤ 50 * w.cap) (hl : 9 ≤ w.lowMs) :
    measure n w = { w with measStep := min w.capStep (w.measStep + 1), lowMs := 0 } := by
  have habove : ¬50 * w.cap < n := by omega
  have hten : 10 ≤ w.lowMs + 1 := by omega
  simp only [measure, if_neg habove, if_pos h, if_pos hten]

theorem measure_of_low (h : n + 200 ≤ 50 * w.cap) (hl : w.lowMs < 9) : measure n w = { w with lowMs := w.lowMs + 1 } := by
  have habove : ¬50 * w.cap < n := by omega
  have hfew : ¬10 ≤ w.lowMs + 1 := by omega
  simp only [measure, if_neg habove, if_pos h, if_neg hfew]

/-- A comparison moves the measured step with its two counts, and nothing else. -/
theorem measure_eq (n : Nat) (w : Power) : measure n w =
    { w with measStep := (measure n w).measStep, lowMs := (measure n w).lowMs, thrPower := (measure n w).thrPower } := by
  simp only [measure]
  generalize (if n + 200 ≤ 50 * w.cap then w.lowMs + 1 else 0) = low
  split
  · rfl
  · split <;> rfl

theorem measure_cap (n : Nat) (w : Power) : (measure n w).cap = w.cap := by rw [measure_eq]
theorem measure_capStep (n : Nat) (w : Power) : (measure n w).capStep = w.capStep := by rw [measure_eq]
theorem measure_thermalStep (n : Nat) (w : Power) : (measure n w).thermalStep = w.thermalStep :=
  by rw [measure_eq]
theorem measure_limitedMs (n : Nat) (w : Power) : (measure n w).limitedMs = w.limitedMs :=
  by rw [measure_eq]

/-- The power state that a measurement enters, before PWR_LIMITED. -/
def measured (n : Nat) (s : State) : Power :=
  { measure n s.power with
    watts := n, energyMj := s.power.energyMj + n, feedA := s.freeVal.setWidth 16, feedB := (s.freeVal >>> 16).setWidth 16 }

theorem powerMeasure_of_dark (h : s.power.railsOn = false) : Machine.powerMeasure n s = s := by
  simp only [Machine.powerMeasure, h, Bool.not_false, if_true]

/-- PWR_LIMITED counts a millisecond below the cap step. -/
def countLimited (s : State) : State :=
  if s.clockStep < s.power.capStep then { s with power := { s.power with limitedMs := satAdd s.power.limitedMs 1 } } else s

theorem countLimited_eq (t : State) : countLimited t = { t with power := { t.power with
    limitedMs := if (countLimited t).clockStep < t.power.capStep then satAdd t.power.limitedMs 1 else t.power.limitedMs } } := by
  by_cases h : t.clockStep < t.power.capStep
  · have ht : countLimited t = { t with power := { t.power with limitedMs := satAdd t.power.limitedMs 1 } } := if_pos h
    have hc : (countLimited t).clockStep = t.clockStep := by rw [ht]; rfl
    rw [hc, if_pos h, ht]
  · have ht : countLimited t = t := if_neg h
    rw [ht, if_neg h]

/-- The state after a measurement with the rails on. -/
def afterMeasure (n : Nat) (s : State) : State := countLimited { s.nextFree with power := measured n s }

theorem powerMeasure_of_on (h : s.power.railsOn = true) :
    Machine.powerMeasure n s = afterMeasure n s := by
  simp only [Machine.powerMeasure, h, Bool.not_true, Bool.false_eq_true, if_false]
  rfl

theorem afterMeasure_power (n : Nat) (s : State) : (afterMeasure n s).power = { measured n s with
    limitedMs := if (afterMeasure n s).clockStep < (measured n s).capStep then satAdd (measured n s).limitedMs 1
      else (measured n s).limitedMs } := congrArg State.power (countLimited_eq _)

theorem afterMeasure_eq (n : Nat) (s : State) :
    afterMeasure n s = { s with power := (afterMeasure n s).power, fresh := s.fresh + 1 } := by
  rw [afterMeasure_power]
  exact countLimited_eq _

section
variable (n : Nat) (s : State)

theorem afterMeasure_measStep : (afterMeasure n s).power.measStep = (measure n s.power).measStep := by
  rw [afterMeasure_power]
  rfl

theorem afterMeasure_lowMs : (afterMeasure n s).power.lowMs = (measure n s.power).lowMs := by
  rw [afterMeasure_power]
  rfl

theorem afterMeasure_thrPower : (afterMeasure n s).power.thrPower = (measure n s.power).thrPower := by
  rw [afterMeasure_power]
  rfl

theorem afterMeasure_limitedMs : (afterMeasure n s).power.limitedMs =
    if (afterMeasure n s).clockStep < s.power.capStep then satAdd s.power.limitedMs 1 else s.power.limitedMs := by
  rw [← measure_capStep n s.power, ← measure_limitedMs n s.power]
  exact congrArg Power.limitedMs (afterMeasure_power n s)

end

end

/-! ## Temperature (R754, R756) -/

@[simp] theorem setTemp_throttling (w : Power) (i : Nat) (x : Half) : (setTemp w i x).throttling = w.throttling := rfl
@[simp] theorem setTemp_thrThermal (w : Power) (i : Nat) (x : Half) : (setTemp w i x).thrThermal = w.thrThermal := rfl

/-- Readings enter the temperatures alone. -/
theorem setTemps_eq (l : List (Nat × Half)) (w : Power) : setTemps l w = { w with temps := (setTemps l w).temps } :=
  List.foldlRecOn (motive := fun v : Power => v = { w with temps := v.temps }) l _ rfl fun v hv e _ => by
    rw [hv]
    rfl

theorem throttleBy_of_throttling {i : Nat} (h : s.power.throttling = true) :
    throttleBy i s = { s with power := lowerStep s.power } := if_pos h

theorem throttleBy_of_entry {i : Nat} (h : s.power.throttling = false) : throttleBy i s =
    faultEvents 2097 1 i { s with power := { lowerStep s.power with thrThermal := satAdd s.power.thrThermal 1 } } := by
  simp only [throttleBy, h, Bool.false_eq_true, if_false, faultEvent1]

section
variable {i : Nat} {x : Half} (hr : s.power.railsOn = true)
include hr

theorem thermalThrottle_of_cool (h : hot i x = false ∨ s.power.wasHot i = true) :
    thermalThrottle i x s = { s with power := setTemp s.power i x } := by
  have hstay : (!(hot i x) || s.power.wasHot i) = true := by simpa using h
  simp only [thermalThrottle, hr, Bool.not_true, Bool.false_eq_true, if_false, hstay, if_true]

section
variable (hh : hot i x = true) (hw : s.power.wasHot i = false)
include hh hw

/-- A sensor reaches its throttle point: the inlet raises its fault, another one throttles. -/
theorem thermalThrottle_of_reached : thermalThrottle i x s =
    if i = 60 then faultEvents 2097 1 i { s with power := setTemp s.power i x }
    else throttleBy i { s with power := setTemp s.power i x } := by
  simp only [thermalThrottle, hr, hh, hw, Bool.not_true, Bool.or_self, Bool.false_eq_true, if_false, faultEvent1]

theorem thermalThrottle_of_inlet (hi : i = 60) :
    thermalThrottle i x s = faultEvents 2097 1 60 { s with power := setTemp s.power 60 x } := by
  rw [thermalThrottle_of_reached hr hh hw, if_pos hi, hi]

theorem thermalThrottle_of_throttling (hi : i ≠ 60) (ht : s.power.throttling = true) :
    thermalThrottle i x s = { s with power := lowerStep (setTemp s.power i x) } := by
  rw [thermalThrottle_of_reached hr hh hw, if_neg hi]
  exact throttleBy_of_throttling ht

theorem thermalThrottle_of_entry (hi : i ≠ 60) (ht : s.power.throttling = false) :
    thermalThrottle i x s = faultEvents 2097 1 i { s with
      power := { lowerStep (setTemp s.power i x) with thrThermal := satAdd s.power.thrThermal 1 } } := by
  rw [thermalThrottle_of_reached hr hh hw, if_neg hi]
  exact throttleBy_of_entry ht

end

theorem thermalTrip_of_reached {c : Int} (hc : (limits i).2.2 = some c) (h : c * 16 ≤ degrees x) :
    thermalTrip i x s = dark s.power.pwrEn true s := by
  simp only [thermalTrip, hc, hr, h, and_self, if_true]

omit hr in
theorem thermalTrip_of_below {c : Int} (hc : (limits i).2.2 = some c) (h : degrees x < c * 16) : thermalTrip i x s = s := by
  have hbelow : ¬(s.power.railsOn = true ∧ c * 16 ≤ degrees x) := fun hr => absurd hr.2 (Int.not_le.2 h)
  simp only [thermalTrip, hc, if_neg hbelow]

end

section
variable {l : List (Nat × Half)} (hr : s.power.railsOn = true)
  (h60 : s.power.wasHot 60 = true ∨ (setTemps l s.power).wasHot 60 = false)
include hr h60

theorem thermalTimer_of_cool (hs : (setTemps l s.power).hotSensors = []) :
    thermalTimer l s = { s with power := coolDown (setTemps l s.power) } := by
  have hinlet : (!(s.power.wasHot 60) && (setTemps l s.power).wasHot 60) = false := by
    rcases h60 with h | h <;> simp [h]
  simp only [thermalTimer, hr, Bool.not_true, Bool.false_eq_true, if_false, hs, hinlet]

theorem thermalTimer_of_hot {i : Nat} {rest : List Nat} (hs : (setTemps l s.power).hotSensors = i :: rest) :
    thermalTimer l s = throttleBy i { s with power := setTemps l s.power } := by
  have hinlet : (!(s.power.wasHot 60) && (setTemps l s.power).wasHot 60) = false := by
    rcases h60 with h | h <;> simp [h]
  simp only [thermalTimer, hr, Bool.not_true, Bool.false_eq_true, if_false, hs, hinlet]

theorem thermalTimer_of_throttling {i : Nat} {rest : List Nat} (hs : (setTemps l s.power).hotSensors = i :: rest)
    (ht : s.power.throttling = true) : thermalTimer l s = { s with power := lowerStep (setTemps l s.power) } := by
  have hstill : (setTemps l s.power).throttling = true := by rw [setTemps_eq]; exact ht
  rw [thermalTimer_of_hot hr h60 hs]
  exact throttleBy_of_throttling hstill

theorem thermalTimer_of_entry {i : Nat} {rest : List Nat} (hs : (setTemps l s.power).hotSensors = i :: rest)
    (ht : s.power.throttling = false) : thermalTimer l s = faultEvents 2097 1 i { s with
      power := { lowerStep (setTemps l s.power) with thrThermal := satAdd s.power.thrThermal 1 } } := by
  have hnot : (setTemps l s.power).throttling = false := by rw [setTemps_eq]; exact ht
  have hcount : (setTemps l s.power).thrThermal = s.power.thrThermal := by rw [setTemps_eq]
  rw [thermalTimer_of_hot hr h60 hs, throttleBy_of_entry hnot]
  dsimp only
  rw [hcount]

end

end

/-- Settles O53: each event by the rails, the voltage, the cap or the temperatures. -/
theorem powerEvents : Obligations.PowerEvents := by
  unfold Obligations.PowerEvents
  refine ⟨fun a b s => ⟨fun h => congrArg _ (powerOn_of_up h), fun hr ht =>
      ⟨fun h => congrArg _ ((powerOn_of_dark hr ht).trans (if_pos h)),
        fun h => congrArg _ ((powerOn_of_dark hr ht).trans (if_neg (Nat.not_lt.2 h)))⟩⟩,
    fun s => rfl,
    fun us s => ⟨fun h => ⟨congrArg _ (if_neg (Nat.not_le.2 h)), congrArg _ (perstAssert_of_ignored (.inl h))⟩,
      fun h => congrArg _ (if_pos h), fun h => congrArg _ (perstAssert_of_ignored (.inr h)),
      fun hu hr => congrArg _ (perstAssert_of_long hu hr)⟩,
    fun mv s hr => ⟨fun h => congrArg _ (voltageChange_of_outside hr h),
      fun hl hh => congrArg _ (voltageChange_of_good hr hl hh), fun h => congrArg _ (voltageChange_of_limited hr h),
      fun feed hf => ⟨fun h => (event_of_ok (decide_eq_true hf) _).trans (congrArg _ (feedLost_of_high h)),
        fun h => (event_of_ok (decide_eq_true hf) _).trans (congrArg _ (feedLost_of_low hr h))⟩⟩,
    fun feed mv s hf => ⟨event_of_ok (decide_eq_true hf) _, rfl⟩,
    fun n s => ⟨fun h => congrArg _ (powerMeasure_of_dark h), fun h => ?measured⟩,
    fun i x s hi hr => ⟨fun h => ?cool, fun hh hw => ⟨fun h => ?inlet, fun h ht => ?throttling, fun h ht => ?entry⟩,
      fun c hc => ⟨fun h => ?trip, fun h => ?below⟩⟩,
    fun w b s => ⟨rfl, rfl, rfl, rfl, rfl, rfl, rfl, rfl, rfl, rfl, rfl, rfl, rfl, rfl, rfl, rfl, rfl, rfl, rfl⟩,
    fun on trip s => ⟨rfl, rfl, rfl, rfl, rfl, rfl, rfl, rfl, rfl⟩,
    fun l s hl hr h60 => ?timer⟩
  case measured =>
    refine ⟨afterMeasure n s, congrArg _ (powerMeasure_of_on h), afterMeasure_eq n s, ?_, ?_, fun ha => ?_, fun hb hn => ?_,
      fun hlow => ⟨?_, fun hl => ?_, fun hl => ?_⟩, ?_, ?_, ?_, afterMeasure_limitedMs n s⟩
    · rw [afterMeasure_power]
      rfl
    · rw [afterMeasure_power]
      rfl
    · rw [afterMeasure_measStep, afterMeasure_lowMs, afterMeasure_thrPower, measure_of_above ha]
      exact ⟨rfl, rfl, rfl⟩
    · rw [afterMeasure_measStep, afterMeasure_lowMs, measure_of_near hb hn]
      exact ⟨rfl, rfl⟩
    · rw [afterMeasure_thrPower]
      by_cases hl : s.power.lowMs < 9
      · rw [measure_of_low hlow hl]
      · rw [measure_of_tenth hlow (Nat.not_lt.1 hl)]
    · rw [afterMeasure_measStep, afterMeasure_lowMs, measure_of_tenth hlow hl]
      exact ⟨rfl, rfl⟩
    · rw [afterMeasure_measStep, afterMeasure_lowMs, measure_of_low hlow hl]
      exact ⟨rfl, rfl⟩
    · rw [afterMeasure_power]
      exact measure_cap n s.power
    · rw [afterMeasure_power]
      exact measure_capStep n s.power
    · rw [afterMeasure_power]
      exact measure_thermalStep n s.power
  case cool => exact (event_of_ok (decide_eq_true hi) _).trans (congrArg _ (thermalThrottle_of_cool hr h))
  case inlet => exact (event_of_ok (decide_eq_true hi) _).trans (congrArg _ (thermalThrottle_of_inlet hr hh hw h))
  case throttling => exact (event_of_ok (decide_eq_true hi) _).trans (congrArg _ (thermalThrottle_of_throttling hr hh hw h ht))
  case entry => exact (event_of_ok (decide_eq_true hi) _).trans (congrArg _ (thermalThrottle_of_entry hr hh hw h ht))
  case trip => exact (event_of_ok (decide_eq_true hi) _).trans (congrArg _ (thermalTrip_of_reached hr hc h))
  case below => exact (event_of_ok (decide_eq_true hi) _).trans (congrArg _ (thermalTrip_of_below hc h))
  case timer =>
    have hok : (l.all fun e => decide (e.1 < 63)) = true := List.all_eq_true.2 fun e he => decide_eq_true (hl e he)
    exact ⟨fun hs => (event_of_ok hok _).trans (congrArg _ (thermalTimer_of_cool hr h60 hs)),
      fun i rest hs ht => (event_of_ok hok _).trans (congrArg _ (thermalTimer_of_throttling hr h60 hs ht)),
      fun i rest hs ht => (event_of_ok hok _).trans (congrArg _ (thermalTimer_of_entry hr h60 hs ht))⟩

end Sys2Proof.Machine
end
